-- ==== Sys2Proof/Word.lean ====
section
/-! DEFINITION. The word types of the EZ-8512: registers are 32 bits wide (R7), special and general registers of
Rhoval-F 64 bits, descriptors 256 bits (R37), and structures in memory are bytes (R6). -/
namespace Sys2Proof

/-- One byte of a memory. -/
abbrev Byte := BitVec 8
/-- A 32-bit register or Rhoval-L word (R7, R37). -/
abbrev W32 := BitVec 32
/-- A 64-bit Rhoval-F register or register pair (R9, R37). -/
abbrev W64 := BitVec 64
/-- A transport number t, 0-7 (R12). -/
abbrev Tid := Fin 8

end Sys2Proof
end

