-- ==== Sys2Proof/Syntax.lean ====
section
/-! DEFINITION. The commands the block takes: one constructor for each row of the spec's table of operations and
events, with the row's operands. A transport is named t, a queue q, a register field by the width the spec gives it. -/
namespace Sys2Proof

/-- Who makes a register access: the host driver through endpoint ep (R241), or Puppeteer's firmware (R10, R21). -/
inductive Src where
  | host (ep : Fin 4)
  | puppeteer
deriving DecidableEq, Repr

/-- A submission entry of 64 bytes (R246); cs holds bytes 0x18-0x3F, the lowest byte in bits [7:0]. -/
structure Entry where
  opc : BitVec 8
  flags : BitVec 8
  tag : BitVec 16
  scid : BitVec 16
  rsv : BitVec 16
  dptr : W64
  dlen : W32
  count : W32
  cs : BitVec 320
deriving DecidableEq, Repr

/-- An ALLOC request: from slice t's TBX port (its descriptor gives the operands, R47), or on port p with the agent
field that the port's hardware fills in (R186). -/
inductive AllocReq where
  | slice (t : Tid)
  | unit (p : BitVec 2) (agent : BitVec 4) (cls flag : BitVec 2)
deriving DecidableEq, Repr

/-- An ADDREF or RELEASE request, as AllocReq. -/
inductive TokReq where
  | slice (t : Tid)
  | unit (p : BitVec 2) (agent : BitVec 4) (token : W32)
deriving DecidableEq, Repr

/-- What the codec dispatcher may start (R159): the pending input of a write stream, the oldest COMP.EXPAND of slice
t, or the next piece of the offload ring. -/
inductive JobReq where
  | write (scid : BitVec 16)
  | expand (t : Tid)
  | offload
deriving DecidableEq, Repr

/-- What a compression engine found for one block (R160, R164, R165): its symbols in order, none = a literal byte, some = a match of a
length at a distance; and for dynamic coding the literal/length and distance code lengths, the lengths of the code-length code as the
header carries them, and the run-length symbols with their extra bits. -/
structure Coding where
  copies : List (Option (Nat × Nat))
  ll : List Nat
  dl : List Nat
  cl : List Nat
  runs : List (Nat × Nat)
deriving DecidableEq, Repr

/-- One servo frame as the stripe detector sees it (R150, R151): for each band the bursts in order of arrival, each the timestamps of its
stripe peaks in order of arrival, in units of 15.625 ps, a sixteenth of an ADC sample, counted from the origin of the RCCLKc cycle count. -/
structure ServoIn where
  a : List (List Nat)
  b : List (List Nat)
deriving DecidableEq, Repr

/-- A sample of a reel's quadrature inputs (R211, R350). -/
inductive Edge where
  | up | down | both
deriving DecidableEq, Repr

/-- What one lane's samples of a calibration pass are (R148): the ADC codes of the pass; and the preset firmware takes where two are
alike. -/
structure CalLane where
  k : Fin 64
  adc : List (BitVec 6)
  preset : BitVec 5
deriving DecidableEq, Repr

/-- The commands. -/
inductive Instr where
  /-- ALU (R40). Rhoval-F register-register instruction computes rd from ra and rb by its function code. -/
  | alu (t : Tid) (rd ra rb : BitVec 5) (func : BitVec 11)
  /-- ADDI (R40). Rhoval-F instruction adds a sign-extended immediate to ra into rd. -/
  | addi (t : Tid) (rd ra : BitVec 5) (imm : BitVec 16)
  /-- ANDI (R40). Rhoval-F instruction ANDs ra with a zero-extended immediate. -/
  | andi (t : Tid) (rd ra : BitVec 5) (imm : BitVec 16)
  /-- ORI (R40). Rhoval-F instruction ORs ra with a zero-extended immediate. -/
  | ori (t : Tid) (rd ra : BitVec 5) (imm : BitVec 16)
  /-- XORI (R40). Rhoval-F instruction XORs ra with a zero-extended immediate. -/
  | xori (t : Tid) (rd ra : BitVec 5) (imm : BitVec 16)
  /-- SLTI (R40). Rhoval-F instruction sets rd to 1 when ra is below the immediate, signed. -/
  | slti (t : Tid) (rd ra : BitVec 5) (imm : BitVec 16)
  /-- SLTIU (R40). Rhoval-F instruction sets rd to 1 when ra is below the immediate, unsigned. -/
  | sltiu (t : Tid) (rd ra : BitVec 5) (imm : BitVec 16)
  /-- LUI (R40). Rhoval-F instruction loads the immediate shifted left by 16, sign-extended. -/
  | lui (t : Tid) (rd ra : BitVec 5) (imm : BitVec 16)
  /-- SLLI (R40). Rhoval-F instruction shifts ra left by an immediate amount. -/
  | slli (t : Tid) (rd ra : BitVec 5) (imm : BitVec 16)
  /-- SRLI (R40). Rhoval-F instruction shifts ra right logically by an immediate amount. -/
  | srli (t : Tid) (rd ra : BitVec 5) (imm : BitVec 16)
  /-- SRAI (R40). Rhoval-F instruction shifts ra right arithmetically by an immediate amount. -/
  | srai (t : Tid) (rd ra : BitVec 5) (imm : BitVec 16)
  /-- LD (R40). Rhoval-F instruction loads 64 bits of data memory into rd. -/
  | ld (t : Tid) (rd ra : BitVec 5) (imm : BitVec 16)
  /-- ST (R40). Rhoval-F instruction stores 64 bits of rd into data memory. -/
  | st (t : Tid) (rd ra : BitVec 5) (imm : BitVec 16)
  /-- LW (R40). Rhoval-F instruction loads 32 bits of data memory, zero-extended. -/
  | lw (t : Tid) (rd ra : BitVec 5) (imm : BitVec 16)
  /-- SW (R40). Rhoval-F instruction stores the low 32 bits of rd into data memory. -/
  | sw (t : Tid) (rd ra : BitVec 5) (imm : BitVec 16)
  /-- DLD (R40). Rhoval-F instruction loads 32 bytes of data memory into a descriptor register. -/
  | dld (t : Tid) (rd ra : BitVec 5) (imm : BitVec 16)
  /-- DST (R40). Rhoval-F instruction stores a descriptor register into 32 bytes of data memory. -/
  | dst (t : Tid) (rd ra : BitVec 5) (imm : BitVec 16)
  /-- DINS (R40). Rhoval-F instruction inserts a bit field of ra into a descriptor register. -/
  | dins (t : Tid) (rd ra : BitVec 5) (imm : BitVec 16)
  /-- DEXT (R40). Rhoval-F instruction extracts a bit field of a descriptor register into rd. -/
  | dext (t : Tid) (rd ra : BitVec 5) (imm : BitVec 16)
  /-- DCLR (R40). Rhoval-F instruction clears a descriptor register. -/
  | dclr (t : Tid) (rd ra : BitVec 5) (imm : BitVec 16)
  /-- ISSUE (R44). Rhoval-F instruction enqueues a descriptor on a stage port with a ticket, or waits for a free slot. -/
  | issue (t : Tid) (port : BitVec 4) (dreg : BitVec 3) (rt : BitVec 5) (nb : Bool) (zero : BitVec 13)
  /-- ISSUE_SLOT_FREED (R44). A waiting ISSUE completes when a slot of its port becomes free. -/
  | issueSlotFreed (t : Tid)
  /-- POP (R45). Rhoval-F instruction takes the oldest completion of a port, or waits for one. -/
  | pop (t : Tid) (port : BitVec 4) (dreg : BitVec 3) (rt : BitVec 5) (nb : Bool) (zero : BitVec 13)
  /-- POP_COMPLETION_ARRIVAL (R45). A waiting POP completes when a completion reaches its port. -/
  | popCompletionArrival (t : Tid)
  /-- BEQ (R40). Rhoval-F branch when ra equals rb. -/
  | beq (t : Tid) (ra rb : BitVec 5) (imm : BitVec 16)
  /-- BNE (R40). Rhoval-F branch when ra differs from rb. -/
  | bne (t : Tid) (ra rb : BitVec 5) (imm : BitVec 16)
  /-- BLT (R40). Rhoval-F branch when ra is below rb, signed. -/
  | blt (t : Tid) (ra rb : BitVec 5) (imm : BitVec 16)
  /-- BGE (R40). Rhoval-F branch when ra is at least rb, signed. -/
  | bge (t : Tid) (ra rb : BitVec 5) (imm : BitVec 16)
  /-- BLTU (R40). Rhoval-F branch when ra is below rb, unsigned. -/
  | bltu (t : Tid) (ra rb : BitVec 5) (imm : BitVec 16)
  /-- BGEU (R40). Rhoval-F branch when ra is at least rb, unsigned. -/
  | bgeu (t : Tid) (ra rb : BitVec 5) (imm : BitVec 16)
  /-- JAL (R40). Rhoval-F jump and link to a PC-relative target. -/
  | jal (t : Tid) (rd ra : BitVec 5) (imm : BitVec 16)
  /-- JALR (R40). Rhoval-F jump and link to a register target. -/
  | jalr (t : Tid) (rd ra : BitVec 5) (imm : BitVec 16)
  /-- WAIT (R52). Rhoval-F instruction waits until a selected event is pending or a timeout passes. -/
  | wait (t : Tid) (rd ra : BitVec 5) (imm : BitVec 16)
  /-- WAIT_EVENT_RELEASE (R52). A waiting WAIT completes because a selected event became pending. -/
  | waitEventRelease (t : Tid)
  /-- WAIT_TIMEOUT (R52). A waiting WAIT completes with zero when its timeout expires. -/
  | waitTimeout (t : Tid)
  /-- EVCLR (R51). Rhoval-F instruction clears selected latched events. -/
  | evclr (t : Tid) (rd ra : BitVec 5) (imm : BitVec 16)
  /-- POST (R40). Rhoval-F instruction sets event 32 + t in the named sequencers. -/
  | post (t : Tid) (rd ra : BitVec 5) (imm : BitVec 16)
  /-- BAR (R53). Rhoval-F instruction joins a sequencer barrier. -/
  | bar (t : Tid) (rd ra : BitVec 5) (imm : BitVec 16)
  /-- BAR_RELEASE (R53). A barrier releases its participants with result 1, 0 or 2. -/
  | barRelease (t : Tid)
  /-- MFS (R42). Rhoval-F instruction reads a special register. -/
  | mfs (t : Tid) (rd ra : BitVec 5) (imm : BitVec 16)
  /-- MTS (R42). Rhoval-F instruction writes a special register. -/
  | mts (t : Tid) (rd ra : BitVec 5) (imm : BitVec 16)
  /-- ERET (R40). Rhoval-F instruction returns from an exception handler. -/
  | eret (t : Tid) (rd ra : BitVec 5) (imm : BitVec 16)
  /-- BRK (R54). Rhoval-F instruction raises the BREAK exception. -/
  | brk (t : Tid) (rd ra : BitVec 5) (imm : BitVec 16)
  /-- HALT (R40). Rhoval-F instruction puts the sequencer in HALTED. -/
  | halt (t : Tid) (rd ra : BitVec 5) (imm : BitVec 16)
  /-- WATCHDOG_EXPIRY (R56). The watchdog count reaches its limit and raises WATCHDOG. -/
  | watchdogExpiry (t : Tid)
  /-- SEQ_TIMER_EXPIRY (R42). The TIMER special register reaches zero and sets event TIMER. -/
  | seqTimerExpiry (t : Tid)
  /-- HALT_TAKE (R57). A pending halt request takes effect at the next instruction boundary. -/
  | haltTake (t : Tid)
  /-- TS_RUN (R254). TS_CTRL.RUN starts the program at its entry from LOADED or resumes it from HALTED. -/
  | tsRun (src : Src) (t : Tid)
  /-- TS_HALT_REQ (R57). TS_CTRL.HALT_REQ requests a halt at the next instruction boundary. -/
  | tsHaltReq (src : Src) (t : Tid)
  /-- TS_STEP (R57). TS_CTRL.STEP executes one instruction from HALTED and halts. -/
  | tsStep (src : Src) (t : Tid)
  /-- TS_FLUSHQ (R324). TS_CTRL.FLUSHQ discards unstarted descriptors and closes the open dataset. -/
  | tsFlushq (src : Src) (t : Tid)
  /-- TS_RESTART (R254). TS_CTRL.RESTART starts a halted program again at its selected entry. -/
  | tsRestart (src : Src) (t : Tid)
  /-- TS_LOCK (R10). TS_CTRL.LOCK locks the RW-L fields of the transport's sequencer registers. -/
  | tsLock (src : Src) (t : Tid)
  /-- TS_EVPOST (R51). A write to TS_EVPOST sets Puppeteer mailbox events of the sequencer. -/
  | tsEvpost (src : Src) (t : Tid) (pp : BitVec 8)
  /-- COMP_DRAIN (R172). The codec dispatcher makes DRAIN points for the named write streams. -/
  | compDrain (t : Tid)
  /-- DRAIN_COMPLETE (R172). COMP.DRAIN completes when every named stream has reached its point. -/
  | drainComplete (t : Tid)
  /-- COMP_EXPAND (R175). A descriptor asks for one piece of a record to be decompressed. -/
  | compExpand (t : Tid)
  /-- ASM_OPEN (R71). The assembler opens a dataset and writes its header fields, after any open dataset closes. -/
  | asmOpen (t : Tid)
  /-- ASM_CLOSE (R71). The assembler closes the open dataset with reason 3. -/
  | asmClose (t : Tid)
  /-- ASM_DISASM (R90). The disassembler extracts and delivers the records of a corrected dataset. -/
  | asmDisasm (t : Tid)
  /-- ENC_ENCODE (R49). ENC completes a dataset header, computes C2 parity and folds it into the C3 accumulator. -/
  | encEncode (t : Tid)
  /-- ENC_C3EMIT (R49). ENC turns a C3 accumulator into the parity dataset with its header. -/
  | encC3emit (t : Tid)
  /-- ENC_MAPSET (R50). ENC takes a request to load a track map into a map slot. -/
  | encMapset (t : Tid)
  /-- MAPSET_LOAD (R50). A waiting MAPSET loads its slot when the last earlier descriptor referencing it completes. -/
  | mapsetLoad (t : Tid)
  /-- ENC_CORRECT (R75). ENC corrects a read dataset with C2 and, where asked, C3. -/
  | encCorrect (t : Tid)
  /-- WL_WRITE (R48). A WL.WRITE descriptor requests the writing of one dataset extent. -/
  | wlWrite (t : Tid)
  /-- WL_FILL (R86). A WL.FILL descriptor requests preamble fill for a number of servo frames. -/
  | wlFill (t : Tid)
  /-- WL_MARK (R86). A WL.MARK descriptor requests a four-slot mark extent. -/
  | wlMark (t : Tid)
  /-- WL_DESCRIPTOR_START (R96). WL starts its next descriptor once the transport is speed-locked and in verify mode. -/
  | wlDescriptorStart (t : Tid)
  /-- WL_DESCRIPTOR_DONE (R97). A WL descriptor completes when its last channel bit has been written. -/
  | wlDescriptorDone (t : Tid) (gap : BitVec 16)
  /-- DIRECTORY_FIX (R105). WL fetches a directory slot; RWQ fixes its content and places rewrite copies. -/
  | directoryFix (t : Tid)
  /-- VFY_ARM (R108). VFY takes a descriptor arming verification of one dataset. -/
  | vfyArm (t : Tid)
  /-- VERIFY_REPORT (R102). VFY receives one slot's verify report and passes, fails or counts it. -/
  | verifyReport (t : Tid) (report : BitVec 128)
  /-- VFY_ARM_SETTLED (R108). VFY.ARM completes once every codeword of the dataset is settled. -/
  | vfyArmSettled (t : Tid)
  /-- RWQ_POLICY (R106). RWQ sets the copies per codeword and the rewrite slots per dataset. -/
  | rwqPolicy (t : Tid)
  /-- IDX_ADD (R359). IDX adds an object entry for a record of a closed dataset. -/
  | idxAdd (t : Tid)
  /-- IDX_EMIT (R360). IDX places the next segment of the pending index in an index dataset. -/
  | idxEmit (t : Tid)
  /-- INDEX_FREEZE (R360). The first EMIT of an index freezes it once the named datasets have been written. -/
  | indexFreeze (t : Tid)
  /-- IDX_FIND (R359). IDX looks up the dataset holding an object. -/
  | idxFind (t : Tid)
  /-- TBX_ALLOC (R188). Toybox allocates a buffer of a class, falling back, waiting or failing when empty. -/
  | tbxAlloc (r : AllocReq)
  /-- TBX_ADDREF (R188). Toybox adds a reference to a buffer for the requesting agent. -/
  | tbxAddref (r : TokReq)
  /-- TBX_RELEASE (R188). Toybox drops a reference and frees the buffer at the last one. -/
  | tbxRelease (r : TokReq)
  /-- QUARANTINE (R194). Toybox puts a buffer in QUARANTINED state. -/
  | quarantine (agent : BitVec 4) (bufid : BitVec 24)
  /-- RESTORE (R188). Toybox clears a quarantined buffer and returns it to FREE. -/
  | restore (agent : BitVec 4) (bufid : BitVec 24)
  /-- RETIREGRP (R195). Toybox removes a stripe group from service. -/
  | retiregrp (agent : BitVec 4) (g : BitVec 4)
  /-- ALLOC_RETRY (R191). A requester repeats an ALLOC refused for a full wait list after 10 µs. -/
  | allocRetry
  /-- TBX_WAITCLR (R192). A write ends every waiter of the named classes with NO_BUFFER. -/
  | tbxWaitclr (src : Src) (classes : BitVec 4)
  /-- TBX_INSPID (R187). A write latches one buffer record for inspection. -/
  | tbxInspid (src : Src) (bufid : BitVec 24)
  /-- TBX_LOCK (R10). TBX_CTRL.LOCK locks the RW-L fields of the Toybox block. -/
  | tbxLock (src : Src)
  /-- MOT_SPEED (R224). Marionette passes a speed-source mode to Yo-yo, completing at the next tick. -/
  | motSpeed (t : Tid)
  /-- MOT_LOCATE (R226). Marionette moves the tape to the run-up position of a target and arms the start. -/
  | motLocate (t : Tid)
  /-- MOT_TURN (R228). Marionette reverses the tape onto a new wrap. -/
  | motTurn (t : Tid)
  /-- MOT_STOP (R229). Marionette decelerates the tape to standstill and disarms any start. -/
  | motStop (t : Tid)
  /-- STANDSTILL (R209). The transport is found at standstill after 10 ms below 5 mm/s, ending a deceleration. -/
  | standstill (t : Tid)
  /-- SPEED_LOCK (R96). The transport becomes speed-locked after LOCKTIME within tolerance. -/
  | speedLock (t : Tid)
  /-- WRAP_SETTLE (R226). During a locate, the lateral position settles for 1 ms and SR10 takes the new wrap. -/
  | wrapSettle (t : Tid)
  /-- TURN_COMPLETE (R228). A TURN completes after lock and lateral settle have held for 1 ms. -/
  | turnComplete (t : Tid)
  /-- COMP_JOB_DISPATCH (R159). The codec dispatcher starts a job of one context on a free engine. -/
  | compJobDispatch (r : JobReq) (e : Fin 64)
  /-- COMP_JOB_STOP (R170). A compression job stops and reports its consumed and produced counts. -/
  | compJobStop (e : Fin 32) (l : List Coding)
  /-- EXPAND_JOB_STOP (R178). A decompression job stops with its status and output, which follow from the state: o carries nothing. -/
  | expandJobStop (e : Fin 32) (o : Unit)
  /-- CODEC_ENGINE_FAULT (R161). A job on a faulting engine is abandoned and dispatched again elsewhere. -/
  | codecEngineFault (e : Fin 64)
  /-- HISTORY_IDLE_RELEASE (R169). A stream idle for CZ_HIDLE.MS has its history tokens released. -/
  | historyIdleRelease (scid : BitVec 16)
  /-- OFFLOAD_SUBMIT (R179). A CODEC_OQTAIL write submits host offload entries. -/
  | offloadSubmit (src : Src) (tail : BitVec 16)
  /-- OFFLOAD_ENABLE (R180). A write of CODEC_OQCFG.EN enables or disables the offload ring. -/
  | offloadEnable (src : Src) (cfg : W32)
  /-- CODEC_ENG_RETIRE (R161). A write of CODEC_ENG.RETIRED stops dispatch to an engine. -/
  | codecEngRetire (src : Src) (e : Fin 64) (retired : Bool)
  /-- WORK_ITEM_ACCEPT (R71). The assembler accepts a work item into the open dataset. -/
  | workItemAccept (t : Tid)
  /-- ASM_IDLE_TIMEOUT (R71). The idle timeout of the open dataset expires and closes it. -/
  | asmIdleTimeout (t : Tid)
  /-- REPLACE_DISCARD (R257). The assembler takes a discard of records from a sequence number onward. -/
  | replaceDiscard (scid : BitVec 16)
  /-- MARIONETTE_TICK (R206). The 10 kHz tick measures velocity, sets the band, sends the frequency word and triggers loops. -/
  | marionetteTick (t : Tid)
  /-- FREQ_STALE (R99). The synthesiser finds X-FREQ empty for two samples and holds its word. -/
  | freqStale (t : Tid)
  /-- YOYO_PAUSE_START (R200). A pause condition held for STOPT starts a Yo-yo pause. -/
  | yoyoPauseStart (t : Tid)
  /-- PAUSE_DRIVERS_OFF (R200). After gap fill beyond verify lag the write drivers turn off and the tape stops. -/
  | pauseDriversOff (t : Tid)
  /-- MAXPAUSE_EXPIRY (R200). A write pause reaches MAXPAUSE and ends. -/
  | maxpauseExpiry (t : Tid)
  /-- BANDHOLD_EXPIRY (R201). The BANDHOLD window after a band change ends. -/
  | bandholdExpiry (t : Tid)
  /-- SPDREF_PULSE (R203). A SPDREF rising edge, so many MRCLK cycles after the last counted one (R351). -/
  | spdrefPulse (t : Tid) (period : Nat)
  /-- SPDREF_INVALID (R203). No SPDREF pulse for 2 ms makes SPDREF invalid and pauses the follower. -/
  | spdrefInvalid (t : Tid)
  /-- LOOP_EVALUATION (R207). The arithmetic unit runs the ready loop evaluation with the earliest deadline. -/
  | loopEvaluation
  /-- LOOP_OVERRUN (R208). An evaluation reaches its deadline uncommitted; the output is held. -/
  | loopOverrun (l : Fin 32)
  /-- L_ALU (R59). Rhoval-L register-register saturating operation. -/
  | lAlu (rd ra rb : BitVec 5) (func : BitVec 11)
  /-- ADDIS (R59). Rhoval-L saturating add of an immediate. -/
  | addis (rd ra : BitVec 5) (imm : BitVec 16)
  /-- LDI (R59). Rhoval-L load of an immediate. -/
  | ldi (rd ra : BitVec 5) (imm : BitVec 16)
  /-- LDHI (R59). Rhoval-L load of an immediate into the upper half. -/
  | ldhi (rd ra : BitVec 5) (imm : BitVec 16)
  /-- LDS (R59). Rhoval-L load of a state word. -/
  | lds (rd ra : BitVec 5) (imm : BitVec 16)
  /-- STS (R59). Rhoval-L store to a state word. -/
  | sts (rd ra : BitVec 5) (imm : BitVec 16)
  /-- IN (R212). Rhoval-L read of a latched input channel. -/
  | lIn (rd ra : BitVec 5) (imm : BitVec 16)
  /-- OUT (R213). Rhoval-L staging of an output channel value. -/
  | lOut (rd ra : BitVec 5) (imm : BitVec 16)
  /-- RDACC (R59). Rhoval-L read of a shifted accumulator with saturation. -/
  | rdacc (rd ra : BitVec 5) (imm : BitVec 16)
  /-- LDACC (R59). Rhoval-L load of an accumulator. -/
  | ldacc (rd ra : BitVec 5) (imm : BitVec 16)
  /-- CLAMP (R59). Rhoval-L clamp of a value to a coefficient pair. -/
  | clamp (rd ra : BitVec 5) (imm : BitVec 16)
  /-- RCL (R221). Rhoval-L read of a repetitive-controller bin. -/
  | rcl (rd ra : BitVec 5) (imm : BitVec 16)
  /-- RCU (R221). Rhoval-L update of a repetitive-controller bin. -/
  | rcu (rd ra : BitVec 5) (imm : BitVec 16)
  /-- MAC (R59). Rhoval-L multiply-accumulate with a coefficient. -/
  | mac (acc : Bool) (va : BitVec 5) (cidx : BitVec 6) (zero : BitVec 14)
  /-- MSU (R59). Rhoval-L multiply-subtract with a coefficient. -/
  | msu (acc : Bool) (va : BitVec 5) (cidx : BitVec 6) (zero : BitVec 14)
  /-- MACZ (R59). Rhoval-L multiply into a cleared accumulator. -/
  | macz (acc : Bool) (va : BitVec 5) (cidx : BitVec 6) (zero : BitVec 14)
  /-- L_BEQ (R59). Rhoval-L forward branch on equality. -/
  | lBeq (ra rb : BitVec 5) (imm : BitVec 16)
  /-- L_BNE (R59). Rhoval-L forward branch on inequality. -/
  | lBne (ra rb : BitVec 5) (imm : BitVec 16)
  /-- L_BLT (R59). Rhoval-L forward branch on less than. -/
  | lBlt (ra rb : BitVec 5) (imm : BitVec 16)
  /-- L_BGE (R59). Rhoval-L forward branch on greater or equal. -/
  | lBge (ra rb : BitVec 5) (imm : BitVec 16)
  /-- BSAT (R59). Rhoval-L branch when SATF is set. -/
  | bsat (ra rb : BitVec 5) (imm : BitVec 16)
  /-- BNSAT (R59). Rhoval-L branch when SATF is clear. -/
  | bnsat (ra rb : BitVec 5) (imm : BitVec 16)
  /-- END (R59). Rhoval-L instruction commits staged outputs and ends the evaluation. -/
  | lEnd (rd ra : BitVec 5) (imm : BitVec 16)
  /-- SERVO_FRAME (R154). A decoded servo frame record reaches Marionette and triggers the lateral loop. -/
  | servoFrame (t : Tid) (f : ServoIn)
  /-- SERVO_FRAME_TIMEOUT (R154). No stripe for 1.5 frame periods sends an invalid frame record. -/
  | servoFrameTimeout (t : Tid) (tstamp : W32)
  /-- MOTION_SENSOR_RECORD (R210). A 10 kHz tension conversion is sent to Marionette as a motion record. -/
  | motionSensorRecord (t : Tid) (tens : BitVec 16)
  /-- ENCODER_EDGE (R211). A reel quadrature edge changes the reel count. -/
  | encoderEdge (t : Tid) (reelB : Bool) (edge : Edge)
  /-- SUPERVISION_STOP (R231). A supervision condition holds for its time and stops the transport. -/
  | supervisionStop (t : Tid) (cause : Fin 16) (n : Fin 4)
  /-- MC_COMMANDED_STOP (R230). MC_TCTL.CMD = 1 stops the transport under supervision with cause 7. -/
  | mcCommandedStop (src : Src) (t : Tid)
  /-- MC_CLEAR (R233). MC_TCTL.CMD = 2 clears a FAULTED transport at standstill. -/
  | mcClear (src : Src) (t : Tid)
  /-- MC_TENSION_ON (R361). MC_TCTL.CMD = 3 tensions a RELEASED transport. -/
  | mcTensionOn (src : Src) (t : Tid)
  /-- MC_TENSION_OFF (R361). MC_TCTL.CMD = 4 releases tension at standstill. -/
  | mcTensionOff (src : Src) (t : Tid)
  /-- MC_RC_CLR (R221). MC_RC.CLR zeroes a repetitive controller's bins. -/
  | mcRcClr (src : Src) (t : Tid) (reelB : Bool)
  /-- MC_INJ_GO (R235). MC_INJ.GO starts or restarts the injection generator. -/
  | mcInjGo (src : Src)
  /-- INJECTION_END (R235). The injection waveform reaches its end. -/
  | injectionEnd
  /-- MC_CAP_ARM (R236). MC_CAP.ARM starts loop capture. -/
  | mcCapArm (src : Src)
  /-- AUTOTUNE (R238). Puppeteer starts relay autotuning of one loop. -/
  | autotune (l : Fin 32)
  /-- AUTOTUNE_ABORT (R238). Twelve switches do not occur within 2 s and autotuning is abandoned. -/
  | autotuneAbort
  /-- SLOT_ARRIVAL (R140). A slot's soft values fill a sample buffer and its codeword becomes pending. -/
  | slotArrival (lane : Fin 512) (adc : List (BitVec 6))
  /-- LDPC_ITERATION (R141). An engine runs its chosen next iteration and ends or continues the attempt. -/
  | ldpcIteration (eng : Fin 64) (fault : Bool)
  /-- CODEWORD_DEADLINE (R140). A codeword reaches its deadline undecoded. -/
  | codewordDeadline (lane : Fin 512)
  /-- LOSS_OF_LOCK (R130). A lane loses lock and enters SEARCH mode. -/
  | lossOfLock (lane : Fin 512)
  /-- SAMPLE_OVERFLOW (R30). A full X-ADC FIFO discards a sample. -/
  | sampleOverflow (lane : Fin 512)
  /-- WL_UNDERRUN (R30). An empty X-WL FIFO makes the lane write zeros to the codeword boundary. -/
  | wlUnderrun (lane : Fin 512) (slot : Fin 512)
  /-- RC_MODE_WRITE (R145). A write of RC_MODE changes the read channel and Yo-yo direction. -/
  | rcModeWrite (src : Src) (t : Tid) (mode : BitVec 2)
  /-- RC_ENG_RETIRE (R143). A write of RC_ENG.RETIRED retires or restores an LDPC engine and re-homes lanes. -/
  | rcEngRetire (src : Src) (eng : Fin 64) (retired : Bool)
  /-- RC_CAP_ARM (R155). RC_CAPLANE.ARM starts raw-sample capture on a lane. -/
  | rcCapArm (src : Src) (c : Fin 2) (n : Fin 4)
  /-- CAPTURE_STOP (R155). Capture stops POST samples after the trigger. -/
  | captureStop (c : Fin 2) (n : Fin 4) (adc : List (BitVec 6))
  /-- CALIBRATION_PASS_END (R148). A calibration pass ends and firmware writes the zone entries. -/
  | calibrationPassEnd (t : Tid) (band : Fin 4) (reverse : Bool) (res : List CalLane)
  /-- HMS_ALERT (R113). The head module reports a write-driver fault on the side band. -/
  | hmsAlert (t : Tid) (k : Fin 64)
  /-- VFY_LANECMD_RETIRE (R113). VFY_LANECMD with CMD = 1 retires a lane. -/
  | vfyLanecmdRetire (src : Src) (t : Tid) (k : Fin 64)
  /-- VFY_LANECMD_RETURN (R117). VFY_LANECMD with CMD = 2 returns a lane to service. -/
  | vfyLanecmdReturn (src : Src) (t : Tid) (k : Fin 64)
  /-- NEGOTIATE (R250). Selects the EHP version of a queue. -/
  | negotiate (q : Fin 1024) (e : Entry)
  /-- IDENTIFY (R274). Writes the device identification structure. -/
  | identify (q : Fin 1024) (e : Entry)
  /-- GET_LOG (R275). Writes bytes of a log page. -/
  | getLog (q : Fin 1024) (e : Entry)
  /-- SET_FEATURE (R276). Writes a feature setting and returns the previous value. -/
  | setFeature (q : Fin 1024) (e : Entry)
  /-- ABORT (R270). Aborts a command by tag and queue. -/
  | abortCmd (q : Fin 1024) (e : Entry)
  /-- SELF_TEST (R272). Runs a short or extended self-test. -/
  | selfTest (q : Fin 1024) (e : Entry)
  /-- SELF_TEST_RESUME (R273). The self-test restarts its segment after RESUME ms without a fetch. -/
  | selfTestResume
  /-- LOAD (R267). Loads a cartridge: reads cartridge memory, calibrates, reads the index and finds the append position. -/
  | loadCmd (q : Fin 1024) (e : Entry)
  /-- UNLOAD (R268). Records the index location, rewinds and releases tension. -/
  | unload (q : Fin 1024) (e : Entry)
  /-- FORMAT_VOLUME (R268). Writes the fixed regions of a new volume. -/
  | formatVolume (q : Fin 1024) (e : Entry)
  /-- LOAD_PROGRAM (R269). Checks and installs a program image. -/
  | loadProgram (q : Fin 1024) (e : Entry)
  /-- OPEN_STREAM (R254). Opens a stream context on a transport and starts the sequencer entry. -/
  | openStream (q : Fin 1024) (e : Entry)
  /-- CLOSE_STREAM (R255). Closes a stream, closing out the transport after its last write stream. -/
  | closeStream (q : Fin 1024) (e : Entry)
  /-- WRITE_RECORDS (R256). Appends or replaces records of a write stream. -/
  | writeRecords (q : Fin 1024) (e : Entry)
  /-- READ_RECORDS (R263). Delivers records from a read stream or from held buffers of a write stream. -/
  | readRecords (q : Fin 1024) (e : Entry)
  /-- FLUSH (R266). Makes a FLUSH point and completes when earlier records are sealed. -/
  | flush (q : Fin 1024) (e : Entry)
  /-- COMMIT (R266). Makes a FLUSH point and completes when earlier records are verified. -/
  | commit (q : Fin 1024) (e : Entry)
  /-- LOCATE (R265). Positions a read stream at an object or dataset. -/
  | locate (q : Fin 1024) (e : Entry)
  /-- LEDGER_POST (R259). The oldest ready LEDGER command is posted when its charge fits BUDGET. -/
  | ledgerPost (t : Tid)
  /-- COMPLETION_POST (R248). A ready completion is written to its completion queue when there is room. -/
  | completionPost (q : Fin 1024)
  /-- COALESCE_TIMEOUT (R249). The coalescing time passes and the queue's vector is signalled. -/
  | coalesceTimeout (q : Fin 1024)
  /-- NOTICE_POST (R278). A notice is posted to the notice queue when there is room. -/
  | noticePost
  /-- SQ_TAIL_DOORBELL (R245). A submission tail doorbell makes new entries available for fetch. -/
  | sqTailDoorbell (src : Src) (q : Fin 1024) (ptr : BitVec 16)
  /-- CQ_HEAD_DOORBELL (R245). A completion head doorbell releases completion entries. -/
  | cqHeadDoorbell (src : Src) (q : Fin 1024) (ptr : BitVec 16)
  /-- QUEUE_ENABLE (R244). A write of QCFG.EN enables or disables a queue. -/
  | queueEnable (src : Src) (q : Fin 1024) (cfg : W32)
  /-- QUEUE_ERR_CLEAR (R282). Clearing QSTAT.ERR resumes fetching from the queue. -/
  | queueErrClear (src : Src) (q : Fin 1024)
  /-- HOST_MEMORY_ERROR (R242). A host memory read completes in error and the command ends HOST_MEMORY. -/
  | hostMemoryError (q : Fin 1024) (tag : Option (BitVec 16))
  /-- ENDPOINT_FLR (R243). A function-level reset disables the endpoint's queues. -/
  | endpointFlr (ep : Fin 4)
  /-- LINK_DOWN (R243). A link-down on an endpoint disables its queues. -/
  | linkDown (ep : Fin 4)
  /-- PERST_ASSERT (R353). PEp_PERST_N low holds the port in reset with a link-down of its endpoints. -/
  | perstAssert (p : Fin 2)
  /-- MBX_GO (R283). MBX_CTL.GO runs a mailbox command. -/
  | mbxGo (src : Src)
  /-- POWER_STATE_IDLE_EXPIRY (R279). An idle timer expires and the device enters the next deeper power state. -/
  | powerStateIdleExpiry
  /-- WAKE (R280). A wake event returns the device to PS0. -/
  | wake
  /-- PFAIL_ACCEPT (R306). PFAIL_N held low for 1 µs is accepted. -/
  | pfailAccept
  /-- SUPPLY_SAMPLE (R307). A bus and bank sample is evaluated against the supervision thresholds. -/
  | supplySample (vin vhu : BitVec 16)
  /-- SAG_TIMEOUT (R307). A sag lasting SAGT ms starts the power-fail commit. -/
  | sagTimeout
  /-- SAG_CLEAR (R307). VIN at or above CLRV for 100 ms ends the sag. -/
  | sagClear
  /-- COMMIT_RECORD_WRITE (R312). After every transport's mark, Puppeteer writes the commit record to flash. -/
  | commitRecordWrite
  /-- COMMIT_END (R314). The commit record completes; a warm reset follows if power is good. -/
  | commitEnd
  /-- COMMIT_AREA_ERASE_DONE (R317). The idle half of the commit area finishes erasing. -/
  | commitAreaEraseDone
  /-- HOLDUP_MEAS_START (R308). WU_MEAS.START begins a hold-up bank measurement. -/
  | holdupMeasStart (src : Src)
  /-- HOLDUP_MEAS_END (R308). After TSTEP the measurement ends and capacitance and grants are computed, from the samples: v1 and early
  carry nothing. -/
  | holdupMeasEnd (v1 early : Unit)
  /-- HOLDUP_PERIODIC_MEAS (R309). The 24-hour timer starts a bank measurement. -/
  | holdupPeriodicMeas
  /-- PWR_RLOG_ACK (R315). PWR_RLOG.ACK releases the recovery log. -/
  | pwrRlogAck (src : Src)
  /-- GLB_RST_WARM (R320). GLB_RST.WARM requests a warm reset. -/
  | glbRstWarm (src : Src)
  /-- COLD_RESET (R321). RESET_N low or loss of VAON resets everything and boot starts. -/
  | coldReset
  /-- HBM_TRAINING_DONE (R321). HBM training completes and the clear sweep begins. -/
  | hbmTrainingDone
  /-- UCIE_TRAINING_DONE (R321). A UCIe module finishes training or fails and takes its transport offline. -/
  | ucieTrainingDone (t : Tid) (ok : Bool)
  /-- HBM_SWEEP_DONE (R287). The HBM clear sweep completes and TBX_CTRL.READY is set. -/
  | hbmSweepDone
  /-- FUSE_KEY (R319). Board-controller command fuses a customer key slot. -/
  | fuseKey (slot : Fin 8) (digest : BitVec 384)
  /-- REVOKE_KEY (R319). Board-controller command blows a key slot's revoke fuse. -/
  | revokeKey (slot : Fin 8)
  /-- TEMP_UPDATE (R357). The junction temperature is updated and thermal rules applied. -/
  | tempUpdate (temps : Vector (BitVec 16) 12)
  /-- CACHE_ACCESS (R288). An agent's system-area access looks up the context cache. -/
  | cacheAccess (agent : Fin 16) (addr : BitVec 48) (wr : Option (List Byte))
  /-- CACHE_FILL (R289). A line fill returns from HBM and serves waiting requests. -/
  | cacheFill (line : BitVec 41)
  /-- EVICTION_ACCEPT (R291). The HBM controller accepts an eviction write and stalled requests proceed. -/
  | evictionAccept (line : BitVec 41)
  /-- SNOOP_WRITE (R292). A non-cache write reaching HBM is snooped against the cache. -/
  | snoopWrite (addr : BitVec 48) (bytes : List Byte) (scrub : Bool)
  /-- SCRATCHPAD_ACCESS (R295). An access to the scratchpad window is served by a scratchpad way. -/
  | scratchpadAccess (agent : Fin 16) (addr : BitVec 48) (wr : Option (List Byte))
  /-- SCRUB_LINE (R299). The scrubber reads, corrects and writes back one line. -/
  | scrubLine
  /-- CC_INIT (R293). CC_CTRL.INIT invalidates every cache tag. -/
  | ccInit (src : Src)
  /-- CC_ENABLE (R293). A write of CC_CTRL.EN enables the cache or writes it back and disables it. -/
  | ccEnable (src : Src) (en : Bool)
  /-- CC_WAY_POWER (R293). A write of CC_WAYS.PWR cleans and powers down or powers up ways. -/
  | ccWayPower (src : Src) (ways : BitVec 16)
  /-- CC_WAY_RETIRE (R293). A write of CC_WAYS.RET cleans and retires ways. -/
  | ccWayRetire (src : Src) (ways : BitVec 16)
  /-- CC_RANGE_CLEAN (R294). CC_RNGCMD = 1 writes back dirty lines of a range. -/
  | ccRangeClean (src : Src)
  /-- CC_RANGE_CLEAN_INVALIDATE (R294). CC_RNGCMD = 2 writes back and invalidates lines of a range. -/
  | ccRangeCleanInvalidate (src : Src)
  /-- CC_RANGE_DISCARD (R294). CC_RNGCMD = 3 invalidates lines of a range without write-back. -/
  | ccRangeDiscard (src : Src)
  /-- CC_SCRATCHPAD (R295). A write of CC_SP.SPWAYS converts ways to or from scratchpad. -/
  | ccScratchpad (src : Src) (sp : BitVec 8)
  /-- MEM_FLIP_ARM (R303). MEM_FLIPSEL.ARM makes the next write to a memory store a corrupted codeword. -/
  | memFlipArm (src : Src) (sel : BitVec 13)
  /-- MEM_REMAP_WRITE (R300). Writing a remap entry valid copies the word to its spare. -/
  | memRemapWrite (src : Src) (n : Fin 2048) (e : Fin 4) (word : BitVec 16) (valid : Bool)
  /-- FAULT_RETRY_EXPIRY (R323). The back-off of a transient retry expires and the retry runs. -/
  | faultRetryExpiry (unit : BitVec 16)
  /-- TRANSPORT_RETRY_CLEAR (R324). A transport runs 10 s after a resume and its class-7 event clears. -/
  | transportRetryClear (t : Tid)
  /-- UCIE_LINK_ERROR (R324). A UCIe error not recovered by link-level retry is reported. -/
  | ucieLinkError (t : Tid)
  /-- FLT_RET_RETIRE (R324). FLT_RET with CMD = 1 retires a unit. -/
  | fltRetRetire (src : Src) (unit : BitVec 16)
  /-- FLT_RET_RETURN (R326). FLT_RET with CMD = 2 returns a unit to service. -/
  | fltRetReturn (src : Src) (unit : BitVec 16)
  /-- FLT_BCAST_HALT (R332). FLT_BCAST.HALT sends halt requests to the named sequencers. -/
  | fltBcastHalt (src : Src) (mask : BitVec 8)
  /-- TEL_FREEZE (R333). TEL_CTRL.FREEZE copies every counter into its shadow. -/
  | telFreeze (src : Src)
  /-- FREEZE_READOUT_DONE (R332). The snapshot readout finishes and TEL_CTRL.DONE is set. -/
  | freezeReadoutDone
  /-- REGISTER_WRITE (R10). A write to a register without behaviour of its own sets its fields per access code. -/
  | registerWrite (src : Src) (off : BitVec 28) (val : W32)
  /-- REGISTER_READ_CLEAR (R10). A read of an RC field returns and clears it. -/
  | registerReadClear (src : Src) (off : BitVec 28)
  /-- PAIR_LOWER_READ (R9). A read of the lower register of a 64-bit pair latches the upper half. -/
  | pairLowerRead (src : Src) (off : BitVec 28)
  /-- MALFORMED_REGISTER_ACCESS (R7). A register access of wrong size or alignment completes without effect and is logged. -/
  | malformedRegisterAccess (src : Src) (off : BitVec 28) (size : Fin 16) (read : Bool)
  /-- UNMAPPED_ACCESS (R33). An access to an unmapped offset reads zero, writes nothing and is logged. -/
  | unmappedAccess (src : Src) (off : BitVec 28) (read : Bool)
  /-- PAIR_UPPER_READ (R9). A read of the upper register of a 64-bit pair returns and uses up the latched half, or returns the current upper half when none is latched. -/
  | pairUpperRead (src : Src) (off : BitVec 28)
  /-- HOST_READ_DATA (R256). Record bytes fetched from host memory arrive in their Toybox buffer and become input that the stream can offer to the compressor. -/
  | hostReadData (scid : BitVec 16) (len : Nat)
  /-- ACTUATOR_HEARTBEAT (R349). 200 µs after a frame with no commit, the actuator link sends the last frame again with the same SEQ and REPEAT = 1. -/
  | actuatorHeartbeat (l : Fin 32)
  /-- CC_INIT_DONE (R293). The tag invalidation started by CC_CTRL.INIT finishes after 8,192 cycles and INITDONE becomes 1. -/
  | ccInitDone
  /-- CC_RANGE_WALK_DONE (R294). A range operation finishes its tag walk and write-backs, and CC_RNGCMD.BUSY clears. -/
  | ccRangeWalkDone
  /-- CC_WAY_CLEAN_DONE (R293). The cleaning of a way being powered down or retired completes; the way is invalidated and loses power or leaves service. -/
  | ccWayCleanDone (w : Fin 16)
  /-- SCRATCHPAD_READY (R295). A way converted to scratchpad finishes cleaning and zeroing and its SPREADY bit is set. -/
  | scratchpadReady (slot : Fin 8)
  /-- RC_BIN_CLEAR_DONE (R221). The zeroing of a repetitive controller's bins started by MC_RC.CLR completes and CLR reads 0. -/
  | rcBinClearDone (t : Tid) (reelB : Bool)
  /-- POWER_STATE_ENTRY_DONE (R279). An entry into PS1, PS2 or PS3 completes, HIF_STAT.PS takes the new state and PSBUSY clears. -/
  | powerStateEntryDone
  /-- SELF_TEST_SEGMENT_END (R272). A self-test segment finishes or reaches its time limit, and the test moves on to the next segment or ends with its result. -/
  | selfTestSegmentEnd (fail : Option (BitVec 16))
deriving DecidableEq, Repr

end Sys2Proof
end

