-- ==== Sys2Proof/Decode.lean ====
section
/-! DEFINITION. The commands that words of the opcode table spell. No row of the table has bits (the commands are register
accesses, events and entries of queues, not words), so no word spells one. -/
namespace Sys2Proof

/-- The command a word of the table spells: none, since no row of the table gives bits. -/
def decodeTableWord (_nbits _w : Nat) : Option Instr := none

end Sys2Proof
end

