-- ==== Sys2Proof/Machine/Map.lean ====
section
/-! DEFINITION. Plain-data containers of the state: a sparse map in one canonical form, used for memories, register files
and tables, and a fixed row of eight, used for the transport slices (R17). -/
namespace Sys2Proof.Machine

/-- A sparse map from natural keys. Canonical form (`SMap.wf`): keys strictly rising; a `set` to the value an
unlisted key reads as removes the entry. -/
structure SMap (α : Type) where
  cells : List (Nat × α) := []
deriving DecidableEq, Repr

/-- Look a key up in a list of cells. -/
def cellFind {α : Type} (k : Nat) : List (Nat × α) → Option α
  | [] => none
  | (j, v) :: r => if j = k then some v else cellFind k r

/-- Take every cell of a key out. -/
def cellErase {α : Type} (k : Nat) : List (Nat × α) → List (Nat × α)
  | [] => []
  | (j, v) :: r => if j = k then cellErase k r else (j, v) :: cellErase k r

/-- Put a cell before the first larger key. -/
def cellInsert {α : Type} (k : Nat) (v : α) : List (Nat × α) → List (Nat × α)
  | [] => [(k, v)]
  | (j, w) :: r => if k < j then (k, v) :: (j, w) :: r else (j, w) :: cellInsert k v r

/-- Keys strictly rising from a bound. -/
def cellsRise {α : Type} : List (Nat × α) → Bool
  | [] => true
  | [_] => true
  | (j, _) :: (k, w) :: r => decide (j < k) && cellsRise ((k, w) :: r)

namespace SMap

/-- The value at a key; d is what an unlisted key reads as. -/
def get {α : Type} (m : SMap α) (d : α) (k : Nat) : α := (cellFind k m.cells).getD d

/-- Write a key; writing d removes the entry. -/
def set {α : Type} [DecidableEq α] (m : SMap α) (d : α) (k : Nat) (v : α) : SMap α :=
  if v = d then ⟨cellErase k m.cells⟩ else ⟨cellInsert k v (cellErase k m.cells)⟩

/-- The canonical form: keys strictly rising and no entry equal to d. -/
def wf {α : Type} [DecidableEq α] (m : SMap α) (d : α) : Bool :=
  cellsRise m.cells && m.cells.all (fun c => decide (c.2 ≠ d))

/-- Everything from key a, n keys, back to what an unlisted key reads as. -/
def clear {α : Type} (m : SMap α) (a n : Nat) : SMap α :=
  ⟨m.cells.filter (fun c => decide (c.1 < a ∨ a + n ≤ c.1))⟩

/-- The listed cells of the n keys from a. -/
def range {α : Type} (m : SMap α) (a n : Nat) : List (Nat × α) :=
  m.cells.filter (fun c => decide (a ≤ c.1 ∧ c.1 < a + n))

/-- Write a list of cells, each key first moved up by u and down by d. -/
def putCells {α : Type} [DecidableEq α] (m : SMap α) (z : α) (u d : Nat) : List (Nat × α) → SMap α
  | [] => m
  | (k, v) :: r => (m.set z (k + u - d) v).putCells z u d r

/-- Copy n keys from a of m to the n keys from b of m'. -/
def copyTo {α : Type} [DecidableEq α] (m : SMap α) (a n : Nat) (m' : SMap α) (z : α) (b : Nat) : SMap α :=
  (m'.clear b n).putCells z b a (m.range a n)

/-- The values of n keys from a. -/
def read {α : Type} (m : SMap α) (z : α) (a : Nat) : Nat → List α
  | 0 => []
  | n + 1 => m.get z a :: m.read z (a + 1) n

/-- Write a list of values from key a up. -/
def write {α : Type} [DecidableEq α] (m : SMap α) (z : α) (a : Nat) : List α → SMap α
  | [] => m
  | v :: r => (m.set z a v).write z (a + 1) r

end SMap

/-- Eight of a kind, indexed by transport (R12, R17). -/
structure Oct (α : Type) where
  o0 : α
  o1 : α
  o2 : α
  o3 : α
  o4 : α
  o5 : α
  o6 : α
  o7 : α
deriving DecidableEq, Repr

namespace Oct

/-- All eight alike. -/
def fill {α : Type} (a : α) : Oct α := ⟨a, a, a, a, a, a, a, a⟩

/-- Member t. -/
def get {α : Type} (o : Oct α) (t : Fin 8) : α :=
  match t with
  | 0 => o.o0
  | 1 => o.o1
  | 2 => o.o2
  | 3 => o.o3
  | 4 => o.o4
  | 5 => o.o5
  | 6 => o.o6
  | 7 => o.o7

/-- Replace member t. -/
def set {α : Type} (o : Oct α) (t : Fin 8) (a : α) : Oct α :=
  match t with
  | 0 => { o with o0 := a }
  | 1 => { o with o1 := a }
  | 2 => { o with o2 := a }
  | 3 => { o with o3 := a }
  | 4 => { o with o4 := a }
  | 5 => { o with o5 := a }
  | 6 => { o with o6 := a }
  | 7 => { o with o7 := a }

end Oct

end Sys2Proof.Machine
end

