-- ==== Sys2Proof/Machine/Operands.lean ====
section
/-! DEFINITION. Bit fields, signed values and byte order: how the fields of registers (R5), descriptors (R43), headers and
structures in memory (R6) are read and written. -/
namespace Sys2Proof.Machine

/-- Bits [lo + w - 1 : lo] of a number (R5). -/
def fieldOf (v lo w : Nat) : Nat := v / 2 ^ lo % 2 ^ w

/-- The number with bits [lo + w - 1 : lo] replaced by x. -/
def putField (v lo w x : Nat) : Nat := v - fieldOf v lo w * 2 ^ lo + x % 2 ^ w * 2 ^ lo

/-- Bit n of a number. -/
def bitOf (v n : Nat) : Bool := fieldOf v n 1 == 1

/-- A field of a bit vector, as a number. -/
def fieldB {n : Nat} (x : BitVec n) (lo w : Nat) : Nat := fieldOf x.toNat lo w

/-- A field of a bit vector, as a bit vector. -/
def partB {n : Nat} (x : BitVec n) (lo w : Nat) : BitVec w := BitVec.ofNat w (fieldB x lo w)

/-- A 16-bit immediate, sign-extended (R39). -/
def sext16 (x : BitVec 16) : W64 := x.signExtend 64

/-- A w-bit two's-complement number. -/
def signedOf (w v : Nat) : Int := if v % 2 ^ w < 2 ^ (w - 1) then Int.ofNat (v % 2 ^ w) else Int.ofNat (v % 2 ^ w) - 2 ^ w

/-- The w-bit two's-complement pattern of an integer. -/
def patternOf (w : Nat) (x : Int) : Nat := (x % 2 ^ w).toNat

/-- The nearer limit of x outside [lo, hi], else x. -/
def clampInt (lo hi x : Int) : Int := if x < lo then lo else if hi < x then hi else x

/-- The distance between two numbers. -/
def absDiff (a b : Nat) : Nat := if a ≤ b then b - a else a - b

/-- n bytes of v, the byte at the lowest address first (R6). -/
def leBytes : Nat → Nat → List Byte
  | 0, _ => []
  | n + 1, v => BitVec.ofNat 8 v :: leBytes n (v / 256)

/-- The number that little-endian bytes hold (R6). -/
def leNat : List Byte → Nat
  | [] => 0
  | b :: r => b.toNat + 256 * leNat r

/-- n bytes of v, most significant first: on-tape structures (03). -/
def beBytes (n v : Nat) : List Byte := (leBytes n v).reverse

/-- The number that most-significant-first bytes hold. -/
def beNat (l : List Byte) : Nat := leNat l.reverse

/-- n zero bytes. -/
def zeros (n : Nat) : List Byte := List.replicate n 0

/-- The bytes, cut or zero-padded to n. -/
def padTo (n : Nat) (l : List Byte) : List Byte := (l ++ zeros (n - l.length)).take n

/-- Bytes [a, a + n) of a list. -/
def cut (l : List Byte) (a n : Nat) : List Byte := (l.drop a).take n

/-- A little-endian field of a structure. -/
def leAt (l : List Byte) (a n : Nat) : Nat := leNat (cut l a n)

/-- A most-significant-first field of a structure. -/
def beAt (l : List Byte) (a n : Nat) : Nat := beNat (cut l a n)

/-- Little-endian number of n bytes of a memory. -/
def memLe (m : SMap Byte) (a n : Nat) : Nat := leNat (m.read 0 a n)

/-- The quotient rounded up. -/
def ceilDiv (a b : Nat) : Nat := (a + b - 1) / b

/-- How many bits of a 64-bit word are set. -/
def popCount (w : Nat) (v : Nat) : Nat := ((List.range w).filter (fun i => bitOf v i)).length

/-- The bits of a word that are set, in ascending order. -/
def setBits (w : Nat) (v : Nat) : List Nat := (List.range w).filter (fun i => bitOf v i)

/-- One more, held at the largest w-bit value (saturating counters). -/
def satInc (w v : Nat) : Nat := if v + 1 < 2 ^ w then v + 1 else 2 ^ w - 1

/-- n more, held at the largest w-bit value. -/
def satAdd (w v n : Nat) : Nat := if v + n < 2 ^ w then v + n else 2 ^ w - 1

end Sys2Proof.Machine
end

