-- ==== Sys2Proof/Machine/TapeMap.lean ====
section
/-! DEFINITION. Where codewords lie on tape: the track map (R82), extents (R83), slot lengths (R80) and the user rate of a
transport (R93). -/
namespace Sys2Proof.Machine

/-- The logical track of codeword i on N live tracks (R82). -/
def cwLambda (n i : Nat) : Nat := (i % 128 + i / 128) % n

/-- How many codewords logical track λ carries: in sub-dataset s the rows (λ - s) mod N, N apart (R82). -/
def lambdaCount (n lam : Nat) : Nat :=
  ((List.range 64).map (fun s => (127 - (lam + 64 * n - s) % n) / n + 1)).foldl (· + ·) 0

/-- Data slots of an extent: the largest number of codewords on any one track (R83). -/
def nDat (n : Nat) : Nat := ((List.range n).map (lambdaCount n)).foldl max 0

/-- Reserve slots of an extent (R83). -/
def nRes (n : Nat) : Nat := ceilDiv (nDat n) 32

/-- Slots of an extent. -/
def extentSlots (n : Nat) : Nat := nDat n + nRes n

/-- The codewords of logical track λ in slot order: ascending key 64r + s (R82). -/
def lambdaCws (n lam : Nat) : List Nat :=
  ((List.range 8192).filter (fun k => decide ((k / 64 + k % 64) % n = lam))).map (fun k => 128 * (k % 64) + k / 64)

/-- The data slot of codeword i on its track (R82). -/
def cwSlot (n i : Nat) : Nat := ((lambdaCws n (cwLambda n i)).idxOf? i).getD 0

/-- Live tracks of a mask, in ascending k: the logical track is the position (R50, R82). -/
def maskTracks (mask : W64) : List Nat := setBits 64 mask.toNat

/-- N of a mask. -/
def maskCount (mask : W64) : Nat := (maskTracks mask).length

/-- Channel bits of a slot (R80, R83). -/
abbrev slotLen : Nat := 9440

/-- Channel bits of a servo frame of 200 µm at 320 kbit/mm (R64, R42). -/
abbrev frameBits : Nat := 64000

/-- Servo frames of a number of channel bits, rounded up (R110). -/
def bitsFrames (n : Nat) : Nat := ceilDiv n frameBits

/-- User rate at v mm/s with C3 on, as numerator and denominator in bytes per second: 7,340,032 × 8/9 × 320,000 v / (9,440 E)
(R93). -/
def userRate (n v : Nat) : Nat × Nat := (7340032 * 8 * 320000 * v, 9 * slotLen * extentSlots n)

end Sys2Proof.Machine
end

