-- ==== Sys2Proof/Machine/Channel.lean ====
section
/-! DEFINITION. From a payload to channel bits and back: scrambler (R78), C1 (R76, R77), rate 32/33 modulation (R79), the slot
(R80, R81) and the demodulator on soft values (R134, R137, R138). -/
namespace Sys2Proof.Machine

/-! ### Bits of bytes -/

/-- The bits of a byte, bit 7 first (R65). -/
def byteBits (b : Byte) : List Bool := (List.range 8).map (fun i => b.getLsbD (7 - i))

/-- The bits of bytes, byte 0 first. -/
def bytesBits (l : List Byte) : List Bool := l.flatMap byteBits

/-- The number that bits spell, first bit most significant. -/
def bitsNat (l : List Bool) : Nat := l.foldl (fun a b => 2 * a + b.toNat) 0

/-- Bytes of bits, eight at a time, first bit 7; n bytes. -/
def bitsBytes : Nat → List Bool → List Byte
  | 0, _ => []
  | n + 1, l => BitVec.ofNat 8 (bitsNat (l.take 8)) :: bitsBytes n (l.drop 8)

/-- w bits of a number, most significant first. -/
def natBits (w v : Nat) : List Bool := (List.range w).map (fun i => bitOf v (w - 1 - i))

/-! ### Scrambler (R78) -/

/-- One output bit and the next register value. -/
def scrStep (r : BitVec 31) : Bool × BitVec 31 :=
  let out := r.getLsbD 30 != r.getLsbD 27
  (out, (r <<< 1) ||| BitVec.setWidth 31 (BitVec.ofBool out))

/-- XOR bits with the scrambler's output. -/
def scrBits (r : BitVec 31) : List Bool → List Bool
  | [] => []
  | b :: l => (b != (scrStep r).1) :: scrBits (scrStep r).2 l

/-- The initial value for codeword number n. -/
def scrInit (n : Nat) : BitVec 31 := BitVec.ofNat 31 (0x2AAAA000 + n)

/-- Scramble or descramble a payload of codeword n. -/
def scramble (n : Nat) (l : List Byte) : List Byte := bitsBytes l.length (scrBits (scrInit n) (bytesBits l))

/-- MAGIC of a dataset header (R67). -/
abbrev dsMagic : Nat := 0x53445645
/-- MAGIC of a directory and of a mark (R85, R86). -/
abbrev dirMagic : Nat := 0x52445645
abbrev markMagic : Nat := 0x4B524D45

/-- Scrambler numbers of the codewords that are not of a dataset. -/
abbrev scrDirectory : Nat := 8192
abbrev scrMark : Nat := 8193
abbrev scrFiller : Nat := 8194

/-! ### C1 (R76, R77) -/

/-- T(c mod 20): the three block rows of an information column. -/
def c1Rows (c : Nat) : List Nat :=
  [[0, 1, 2], [0, 1, 3], [0, 1, 4], [0, 1, 5], [0, 2, 3], [0, 2, 4], [0, 2, 5], [0, 3, 4], [0, 3, 5], [0, 4, 5],
   [1, 2, 3], [1, 2, 4], [1, 2, 5], [1, 3, 4], [1, 3, 5], [1, 4, 5], [2, 3, 4], [2, 3, 5], [2, 4, 5], [3, 4, 5]].getD (c % 20) []

/-- The shift of block (i, c); none where the block is zero. -/
def c1Shift (i c : Nat) : Option Nat :=
  if c < 64 then (if (c1Rows c).contains i then some ((17 * i * c + 5 * i + c) % 128) else none)
  else if c = 64 + i ∨ (c + 1 = 64 + i ∧ 1 ≤ i) then some 0
  else none

/-- Block column m of a codeword: bit x of the block is c[128m + x]. -/
def c1Blocks : Nat → List Bool → List (BitVec 128)
  | 0, _ => []
  | n + 1, l => BitVec.ofNat 128 (bitsNat (l.take 128).reverse) :: c1Blocks n (l.drop 128)

/-- P^a times a block: row x takes bit (x + a) mod 128. -/
def c1Mul (a : Nat) (v : BitVec 128) : BitVec 128 := v.rotateRight a

/-- The partial syndrome of block row i over a list of blocks that begins with column c. -/
def c1Syn (i : Nat) : Nat → List (BitVec 128) → BitVec 128
  | _, [] => 0
  | c, v :: r =>
    match c1Shift i c with
    | some a => c1Mul a v ^^^ c1Syn i (c + 1) r
    | none => c1Syn i (c + 1) r

/-- Unsatisfied checks of a word of 8,960 bits: the ones among its 768 syndrome bits (R139). -/
def c1Unsat (l : List Bool) : Nat :=
  let b := c1Blocks 70 l
  ((List.range 6).map (fun i => popCount 128 (c1Syn i 0 b).toNat)).foldl (· + ·) 0

/-- The parity blocks: p_0 = σ_0, p_i = σ_i + p_(i-1). -/
def c1Parity (b : List (BitVec 128)) : Nat → BitVec 128
  | 0 => c1Syn 0 0 b
  | i + 1 => c1Syn (i + 1) 0 b ^^^ c1Parity b i

/-- The bits of a block, bit 0 first. -/
def blockBits (v : BitVec 128) : List Bool := (List.range 128).map (fun x => v.getLsbD x)

/-- The C1 codeword of 8,192 scrambled payload bits (R77). -/
def c1Encode (l : List Bool) : List Bool :=
  let b := c1Blocks 64 l
  l ++ (List.range 6).flatMap (fun i => blockBits (c1Parity b i))

/-! ### Modulation (R79) -/

/-- Every odd-numbered bit (the 2nd, 4th, ...) inverted. -/
def altInvert : List Bool → List Bool
  | a :: b :: r => a :: (!b) :: altInvert r
  | l => l

/-- Longest run of identical bits: best so far, current run, last bit. -/
def runMax : Nat → Nat → Bool → List Bool → Nat
  | best, cur, _, [] => max best cur
  | best, cur, p, b :: r => if b = p then runMax best (cur + 1) p r else runMax (max best cur) 1 b r

/-- Longest run of a word. -/
def longestRun : List Bool → Nat
  | [] => 0
  | b :: r => runMax 0 1 b r

/-- One word of 33 channel bits: the flag and the candidate with the shorter longest run, A on a tie. -/
def modWord (x : List Bool) : List Bool :=
  if longestRun (altInvert x) < longestRun x then true :: altInvert x else false :: x

/-- n words. -/
def modWords : Nat → List Bool → List Bool
  | 0, _ => []
  | n + 1, l => modWord (l.take 32) ++ modWords n (l.drop 32)

/-! ### The slot (R80, R81) -/

/-- Sync patterns: 0 A, 1 D, 2 X, 3 M. -/
def syncPattern (p : Nat) : Nat :=
  match p with
  | 0 => 0xE3B14F0D6C27
  | 1 => 0x1C4EB0F293D8
  | 2 => 0xD26A8F350B97
  | _ => 0x2D9570CAF468

/-- The resync pattern. -/
abbrev resyncPattern : Nat := 0xC71E5A

/-- n channel bits of the preamble pattern 0b1100. -/
def preambleBits (n : Nat) : List Bool := (List.range n).map (fun i => decide (i % 4 < 2))

/-- The 9,440 channel bits of a slot with sync pattern p and a codeword. -/
def slotBits (p : Nat) (c : List Bool) : List Bool :=
  preambleBits 128 ++ natBits 48 (syncPattern p) ++ modWords 140 c ++ natBits 24 resyncPattern ++ modWords 140 (c.drop 4480)

/-- The channel bits of a slot with sync pattern p and payload, scrambled with number n (R77-R80). -/
def payloadSlot (p n : Nat) (l : List Byte) : List Bool := slotBits p (c1Encode (scrBits (scrInit n) (bytesBits l)))

/-! ### Soft values (R137) and the demodulator (R134, R138) -/

/-- Hard decision of a soft value: sign and magnitude, a positive value denotes 0. -/
def softHard (q : BitVec 4) : Bool := q.getLsbD 3

/-- Differences between a list of soft values' hard decisions and a pattern. -/
def hardErrors : List (BitVec 4) → List Bool → Nat
  | q :: l, b :: r => (if softHard q = b then 0 else 1) + hardErrors l r
  | _, _ => 0

/-- Soft values of one word after the flag: signs of odd-numbered bits inverted where the flag decision is B. -/
def demodWord (flag : BitVec 4) : List (BitVec 4) → List (BitVec 4)
  | a :: b :: r =>
    (a :: (if softHard flag then
        (BitVec.ofBool (!b.getLsbD 3) ++ (if (flag.extractLsb' 0 3).ult (b.extractLsb' 0 3) then flag.extractLsb' 0 3 else b.extractLsb' 0 3)
          : BitVec 4)
      else b) :: demodWord flag r)
  | l => l

/-- Soft values of n words. -/
def demodWords : Nat → List (BitVec 4) → List (BitVec 4)
  | 0, _ => []
  | n + 1, l => demodWord (l.getD 0 0) ((l.drop 1).take 32) ++ demodWords n (l.drop 33)

/-- Offsets of the resync search, nearest 0 first, then the earlier (R134). -/
def resyncOffsets : List Int := [0, -1, 1, -2, 2, -3, 3, -4, 4]

/-- The offset with the fewest errors, the first of equals, if at most thr. -/
def bestOffset (err : Int → Nat) : List Int → Option (Int × Nat)
  | [] => none
  | d :: r =>
    match bestOffset err r with
    | none => some (d, err d)
    | some (d', e) => if err d ≤ e then some (d, err d) else some (d', e)

/-- Where the second half begins relative to its nominal place (R134). -/
def resyncShift (soft : List (BitVec 4)) (pos thr : Nat) : Int :=
  let err := fun (d : Int) => hardErrors (soft.drop (((pos + 4668 : Nat) : Int) + d).toNat) (natBits 24 resyncPattern)
  match bestOffset err resyncOffsets with
  | some (d, e) => if e ≤ thr then d else 0
  | none => 0

/-- The soft values of the 8,960 codeword bits, framed from a sync position (R133, R134, R138). -/
def demodulate (soft : List (BitVec 4)) (pos thr : Nat) : List (BitVec 4) :=
  let d := resyncShift soft pos thr
  demodWords 140 (soft.drop (pos + 48)) ++ demodWords 140 (soft.drop (((pos + 4692 : Nat) : Int) + d).toNat)

/-- FLIPS: codeword bits whose decoded value differs from the sign of the input soft value, saturating (R101, R139). -/
def flipCount (soft : List (BitVec 4)) (bits : List Bool) : Nat := min 1023 (hardErrors soft bits)

/-! ### Sync detection (R132) -/

/-- Distance of the 48 hard decisions at the head of a list from a pattern. -/
def syncDist (l : List (BitVec 4)) (p : Nat) : Nat := hardErrors l (natBits 48 (syncPattern p))

/-- Error count and pattern of a position: the smallest distance, the first pattern that attains it. -/
def syncBest (l : List (BitVec 4)) : Nat × Nat :=
  [1, 2, 3].foldl (fun a p => if syncDist l p < a.1 then (syncDist l p, p) else a) (syncDist l 0, 0)

/-- Positions lo to lo + n - 1 of the buffer with their error count and pattern. -/
def syncScan (soft : List (BitVec 4)) (lo n : Nat) : List (Nat × Nat × Nat) :=
  (List.range n).map (fun i => let b := syncBest (soft.drop (lo + i)); (lo + i, b.1, b.2))

/-- Whether candidate a ranks before b: lower e, nearer the expected position, earlier (R132). -/
def syncBefore (expected : Nat) (a b : Nat × Nat × Nat) : Bool :=
  decide (a.2.1 < b.2.1 ∨ (a.2.1 = b.2.1 ∧ (absDiff a.1 expected < absDiff b.1 expected ∨
    (absDiff a.1 expected = absDiff b.1 expected ∧ a.1 < b.1))))

/-- Insert a candidate in rank order. -/
def syncInsert (expected : Nat) (a : Nat × Nat × Nat) : List (Nat × Nat × Nat) → List (Nat × Nat × Nat)
  | [] => [a]
  | b :: r => if syncBefore expected a b then a :: b :: r else b :: syncInsert expected a r

/-- The candidates of a 33-position window, at most three, in rank order. -/
def syncCandidates (soft : List (BitVec 4)) (center thr : Nat) : List (Nat × Nat × Nat) :=
  (((syncScan soft (center - 16) 33).filter (fun x => decide (x.2.1 ≤ thr))).foldl (fun l x => syncInsert center x l) []).take 3

/-- A SYNC-A with at most thr errors behind at least 64 preamble bits with at most thr errors (R135). -/
def newExtentAt (soft : List (BitVec 4)) (thr i : Nat) : Bool :=
  decide (64 ≤ i) && decide (syncDist (soft.drop i) 0 ≤ thr) &&
    decide (hardErrors ((soft.drop (i - 64)).take 64) (preambleBits 64) ≤ thr)

/-! ### CRC-32C (R70) -/

/-- CRC-32C with the reflected polynomial, byte by byte (R70). -/
def crcByte (c : W32) (b : Byte) : W32 :=
  (List.range 8).foldl (fun c _ => if c.getLsbD 0 then (c >>> 1) ^^^ 0x82F63B78 else c >>> 1) (c ^^^ BitVec.setWidth 32 b)

/-- CRC-32C of bytes (R70). -/
def crc32c (l : List Byte) : W32 := l.foldl crcByte 0xFFFFFFFF ^^^ 0xFFFFFFFF

end Sys2Proof.Machine
end

