-- ==== Sys2Proof/Config.lean ====
section
/-! DEFINITION. What the spec leaves open: free values, as constants without a body. Nothing in Lean can evaluate one, so a
statement about them holds for every value. Each is named in the assumption log (entries 2 and following). -/
namespace Sys2Proof.Config

/-- A value the spec does not give, fresh at each use: applied to State.freeCtr (log entry 2). -/
opaque freeNat : Nat → Nat

/-- Whether a data-memory access that is both misaligned and out of range raises DMEM_ALIGN (R41 names both; log entry
8). -/
opaque alignFirst : Bool

/-- Whether a quotient the spec gives without a rounding rounds up, by numerator and denominator (log entry 9). -/
opaque roundUp : Nat → Nat → Bool

/-- Which of the FREE buffers of a class an ALLOC takes: their number goes in, a position is taken modulo it (R188; log
entry 12). -/
opaque pickBuffer : Nat → Nat → Nat

/-- Which lane or engine a macro of a chiplet belongs to, by macro number: an even result names a lane, an odd one an engine
(R302 gives the range only; log entry 20). -/
opaque chipletMacro : Nat → Nat

/-- The version of the firmware, as IDENTIFY shows it (R274 gives the field, no value; log entry 27). -/
opaque firmwareVersion : Nat

/-- The value firmware loads into a register field at boot, by offset and lowest bit, where the register's Reset column says fw
and the spec names no default (log entry 28). -/
opaque fwValue : Nat → Nat → Nat

/-- What a value limited to a range is where the lower limit is above the upper one, by lower limit, upper limit and value (R59, R213,
R220 give the range only; log entry 33). -/
opaque emptyLimits : Int → Int → Int → Int

/-- Whether the host has enabled L1.2 on every link: it does so in PCIe configuration space, which no command of the table writes
(R279; log entry 27). -/
opaque l12Enabled : Bool

/-- The value the interpolator takes of corrected samples at a position between them (R120 gives no kernel; log entry 38). -/
opaque interpolate : List Rat → Rat → Rat

/-- The error a loop of a read lane measures: 0 timing, 1 gain, 2 offset, 3 asymmetry; from the known bit of a data-aided update and the
latest 32 equalised samples, latest first (R128, R129 give the gains only; log entry 38). -/
opaque loopError : Nat → Option Bool → List Rat → Rat

/-- The energy of a full-scale tone (RC_ACQ.PDET; log entry 38). -/
opaque toneFull : Rat

/-- The phase, in channel bits, that the 4-point DFT of the tone shows, by its real and imaginary part (R129; log entry 38). -/
opaque tonePhase : Rat → Rat → Rat

/-- The level of a channel bit in the detector's target (R120, R157; log entry 38). -/
opaque bitLevel : Bool → Rat

/-- The scale of the detector's metric (R137; log entry 38). -/
opaque metricScale : Rat

/-- Full scale of the equalised signal, the unit of the mean squared error (RC_CAL; log entry 38). -/
opaque fullScale : Rat

/-- Whether a value between two whole numbers is rounded up, where the spec gives no rule (log entry 38). -/
opaque ratUp : Rat → Bool

/-- The sign bit of a soft value of magnitude 0, by the log-likelihood ratio (R137; log entry 38). -/
opaque zeroSign : Rat → Bool

/-- The decision on a codeword bit whose value is 0, by its number (R139; log entry 38). -/
opaque zeroBit : Nat → Bool

/-- The zone of a run-up ahead of LPOS 0, by wrap and LPOS (R125 names none; log entry 39). -/
opaque zoneBefore : Nat → Int → Nat

/-- Byte i of bytes 0x18-0x4F of a read-direction context, by the decoder state it holds: R175 lists the state and gives no layout.
DESIGN CHOICE to leave it free, safe (log entry 43). -/
opaque decoderByte : Nat → List Nat → BitVec 8

/-- The coefficient words of ML-1's DATA, by their number (R215); the spec gives no values (log entry 45). -/
opaque ml1Coef : Nat → BitVec 64

/-- LEAD of ML-1's reel programs (R222, R223), an immediate of RCL; the spec gives no value (log entry 45). -/
opaque ml1Lead : BitVec 16

/-- Credits of the link from the compressor to an assembler, less 1: R26 gives the rule and no number (log entry 46). -/
opaque asmCredits : Nat

end Sys2Proof.Config
end

