-- ==== Sys2Proof/Machine/RegTable.lean ====
section
/-! DEFINITION. The BAR0 register table, as the spec's register sections give it: offsets (R32), fields, access codes
(R10), reset values, valid ranges (R35), who may write (the register rules of each chapter) and which fields are live (R20). -/
namespace Sys2Proof.Machine

/-- Access codes (R10). -/
inductive Acc where
  | ro | rw | w1c | w1s | rc | wo | rwl
deriving DecidableEq, Repr

/-- A field of a register: bits [lo + w - 1 : lo]. -/
structure Fld where
  lo : Nat
  w : Nat
deriving DecidableEq, Repr

/-- A field with its access code, its reset value, its valid range and whether it is live (R20). -/
structure RField where
  lo : Nat
  w : Nat
  acc : Acc
  rst : Nat
  lo' : Nat
  hi' : Nat
  live : Bool
  fw : Bool
deriving DecidableEq, Repr

/-- Who may write a register (R21, R119, R156, R181, R197, R204, R239, R282, R304, R322, R334): the host; only
Puppeteer unless TS_CTRL.DBG_EN of the register's transport, of transport 0, of the chiplet's four transports, or of the
selected loop's transport is 1; only firmware; nobody (read-only). -/
inductive Guard where
  | host | dbgT | dbg0 | chip | dbgLoop | firmware | nobody
deriving DecidableEq, Repr

/-- A register or a register array: base offset, (count, stride) of each index, largest stride first. -/
structure RRow where
  base : Nat
  dims : List (Nat × Nat)
  guard : Guard
  fields : List RField
deriving DecidableEq, Repr

namespace Reg
/-- Offset of GLB_ID (01_architecture.md). -/
abbrev glbId : Nat := 0x0
/-- Offset of GLB_CFG (01_architecture.md). -/
abbrev glbCfg : Nat := 0x8
/-- Offset of GLB_CLKSTAT (01_architecture.md). -/
abbrev glbClkstat : Nat := 0x10
/-- Offset of GLB_CDCERR (01_architecture.md). -/
abbrev glbCdcerr : Nat := 0x14
/-- Offset of GLB_CDCCNT (01_architecture.md). -/
abbrev glbCdccnt : Nat := 0x18
/-- Offset of GLB_RST (11_power_and_startup.md). -/
abbrev glbRst : Nat := 0x20
/-- Offset of TS_CTRL (02_rhoval_isa.md). -/
abbrev tsCtrl (t : Nat) : Nat := 0x800000 + t * 0x100000
/-- Offset of TS_STAT (02_rhoval_isa.md). -/
abbrev tsStat (t : Nat) : Nat := 0x800004 + t * 0x100000
/-- Offset of TS_PC (02_rhoval_isa.md). -/
abbrev tsPc (t : Nat) : Nat := 0x800008 + t * 0x100000
/-- Offset of TS_EXC (02_rhoval_isa.md). -/
abbrev tsExc (t : Nat) : Nat := 0x80000C + t * 0x100000
/-- Offset of TS_EVAL (02_rhoval_isa.md). -/
abbrev tsEval (t i : Nat) : Nat := 0x800010 + t * 0x100000 + i * 0x4
/-- Offset of TS_EVP (02_rhoval_isa.md). -/
abbrev tsEvp (t i : Nat) : Nat := 0x800018 + t * 0x100000 + i * 0x4
/-- Offset of TS_EVPOST (02_rhoval_isa.md). -/
abbrev tsEvpost (t : Nat) : Nat := 0x800020 + t * 0x100000
/-- Offset of TS_IMG (02_rhoval_isa.md). -/
abbrev tsImg (t : Nat) : Nat := 0x800024 + t * 0x100000
/-- Offset of TS_WDOG (02_rhoval_isa.md). -/
abbrev tsWdog (t : Nat) : Nat := 0x800028 + t * 0x100000
/-- Offset of TS_FCNT (02_rhoval_isa.md). -/
abbrev tsFcnt (t : Nat) : Nat := 0x80002C + t * 0x100000
/-- Offset of TS_LOCKV (02_rhoval_isa.md). -/
abbrev tsLockv (t : Nat) : Nat := 0x800030 + t * 0x100000
/-- Offset of WL_STAT (04_write_and_verify.md). -/
abbrev wlStat (t : Nat) : Nat := 0x840000 + t * 0x100000
/-- Offset of WL_CFG (04_write_and_verify.md). -/
abbrev wlCfg (t : Nat) : Nat := 0x840004 + t * 0x100000
/-- Offset of WL_FREQ (04_write_and_verify.md). -/
abbrev wlFreq (t : Nat) : Nat := 0x840008 + t * 0x100000
/-- Offset of WL_CNT (04_write_and_verify.md). -/
abbrev wlCnt (t : Nat) : Nat := 0x84000C + t * 0x100000
/-- Offset of WL_LDLY (04_write_and_verify.md). -/
abbrev wlLdly (t i : Nat) : Nat := 0x840100 + t * 0x100000 + i * 0x4
/-- Offset of VFY_CFG (04_write_and_verify.md). -/
abbrev vfyCfg (t : Nat) : Nat := 0x850000 + t * 0x100000
/-- Offset of VFY_LAG (04_write_and_verify.md). -/
abbrev vfyLag (t : Nat) : Nat := 0x850004 + t * 0x100000
/-- Offset of VFY_CWPASS (04_write_and_verify.md). -/
abbrev vfyCwpass (t i : Nat) : Nat := 0x850008 + t * 0x100000 + i * 0x4
/-- Offset of VFY_CWFAIL (04_write_and_verify.md). -/
abbrev vfyCwfail (t i : Nat) : Nat := 0x850010 + t * 0x100000 + i * 0x4
/-- Offset of VFY_INC (04_write_and_verify.md). -/
abbrev vfyInc (t : Nat) : Nat := 0x850018 + t * 0x100000
/-- Offset of VFY_INCDS (04_write_and_verify.md). -/
abbrev vfyIncds (t : Nat) : Nat := 0x85001C + t * 0x100000
/-- Offset of VFY_LFCFG (04_write_and_verify.md). -/
abbrev vfyLfcfg (t : Nat) : Nat := 0x850020 + t * 0x100000
/-- Offset of VFY_MEDIA (04_write_and_verify.md). -/
abbrev vfyMedia (t : Nat) : Nat := 0x850024 + t * 0x100000
/-- Offset of VFY_LANECMD (04_write_and_verify.md). -/
abbrev vfyLanecmd (t : Nat) : Nat := 0x850028 + t * 0x100000
/-- Offset of VFY_LANE (04_write_and_verify.md). -/
abbrev vfyLane (t i : Nat) : Nat := 0x850100 + t * 0x100000 + i * 0x4
/-- Offset of RWQ_STAT (04_write_and_verify.md). -/
abbrev rwqStat (t : Nat) : Nat := 0x860000 + t * 0x100000
/-- Offset of RWQ_CNT (04_write_and_verify.md). -/
abbrev rwqCnt (t : Nat) : Nat := 0x860004 + t * 0x100000
/-- Offset of RC_MODE (05_read_channel.md). -/
abbrev rcMode (t : Nat) : Nat := 0x1000000 + t / 4 * 0x400000 + t % 4 * 0x80000
/-- Offset of RC_ZCTL (05_read_channel.md). -/
abbrev rcZctl (t : Nat) : Nat := 0x1000004 + t / 4 * 0x400000 + t % 4 * 0x80000
/-- Offset of RC_ACQ (05_read_channel.md). -/
abbrev rcAcq (t : Nat) : Nat := 0x1000008 + t / 4 * 0x400000 + t % 4 * 0x80000
/-- Offset of RC_SYNC (05_read_channel.md). -/
abbrev rcSync (t : Nat) : Nat := 0x100000C + t / 4 * 0x400000 + t % 4 * 0x80000
/-- Offset of RC_LLR (05_read_channel.md). -/
abbrev rcLlr (t : Nat) : Nat := 0x1000010 + t / 4 * 0x400000 + t % 4 * 0x80000
/-- Offset of RC_ZDEF (05_read_channel.md). -/
abbrev rcZdef (t : Nat) : Nat := 0x1000014 + t / 4 * 0x400000 + t % 4 * 0x80000
/-- Offset of RC_CAL (05_read_channel.md). -/
abbrev rcCal (t : Nat) : Nat := 0x1000018 + t / 4 * 0x400000 + t % 4 * 0x80000
/-- Offset of RC_CALRES (05_read_channel.md). -/
abbrev rcCalres (t i : Nat) : Nat := 0x1000020 + t / 4 * 0x400000 + t % 4 * 0x80000 + i * 0x4
/-- Offset of RC_LSTAT (05_read_channel.md). -/
abbrev rcLstat (t i : Nat) : Nat := 0x1000100 + t / 4 * 0x400000 + t % 4 * 0x80000 + i * 0x4
/-- Offset of RC_LCNT (05_read_channel.md). -/
abbrev rcLcnt (t i : Nat) : Nat := 0x1000200 + t / 4 * 0x400000 + t % 4 * 0x80000 + i * 0x4
/-- Offset of SV_CFG (05_read_channel.md). -/
abbrev svCfg (t : Nat) : Nat := 0x1060000 + t / 4 * 0x400000 + t % 4 * 0x80000
/-- Offset of SV_K (05_read_channel.md). -/
abbrev svK (t : Nat) : Nat := 0x1060004 + t / 4 * 0x400000 + t % 4 * 0x80000
/-- Offset of SV_OFFA (05_read_channel.md). -/
abbrev svOffa (t : Nat) : Nat := 0x1060008 + t / 4 * 0x400000 + t % 4 * 0x80000
/-- Offset of SV_OFFB (05_read_channel.md). -/
abbrev svOffb (t : Nat) : Nat := 0x106000C + t / 4 * 0x400000 + t % 4 * 0x80000
/-- Offset of SV_BOW0 (05_read_channel.md). -/
abbrev svBow0 (t : Nat) : Nat := 0x1060010 + t / 4 * 0x400000 + t % 4 * 0x80000
/-- Offset of SV_BOW1 (05_read_channel.md). -/
abbrev svBow1 (t : Nat) : Nat := 0x1060014 + t / 4 * 0x400000 + t % 4 * 0x80000
/-- Offset of SV_STAT (05_read_channel.md). -/
abbrev svStat (t : Nat) : Nat := 0x1060018 + t / 4 * 0x400000 + t % 4 * 0x80000
/-- Offset of RC_LDPC (05_read_channel.md). -/
abbrev rcLdpc (t : Nat) : Nat := 0x1200000 + t * 0x400000
/-- Offset of RC_ENG (05_read_channel.md). -/
abbrev rcEng (t i : Nat) : Nat := 0x1200100 + t * 0x400000 + i * 0x4
/-- Offset of RC_CAPLANE (05_read_channel.md). -/
abbrev rcCaplane (t i : Nat) : Nat := 0x1210000 + t * 0x400000 + i * 0x10
/-- Offset of RC_CAPTOK (05_read_channel.md). -/
abbrev rcCaptok (t i : Nat) : Nat := 0x1210004 + t * 0x400000 + i * 0x10
/-- Offset of RC_CAPLEN (05_read_channel.md). -/
abbrev rcCaplen (t i : Nat) : Nat := 0x1210008 + t * 0x400000 + i * 0x10
/-- Offset of RC_CAPSTAT (05_read_channel.md). -/
abbrev rcCapstat (t i : Nat) : Nat := 0x121000C + t * 0x400000 + i * 0x10
/-- Offset of CZ_CFG (06_compression.md). -/
abbrev czCfg : Nat := 0x600000
/-- Offset of CZ_HIDLE (06_compression.md). -/
abbrev czHidle : Nat := 0x600004
/-- Offset of DZ_GUARD (06_compression.md). -/
abbrev dzGuard : Nat := 0x600008
/-- Offset of CODEC_CTXBASE (06_compression.md). -/
abbrev codecCtxbase : Nat := 0x60000C
/-- Offset of CODEC_ERR (06_compression.md). -/
abbrev codecErr : Nat := 0x600010
/-- Offset of CODEC_ERRCNT (06_compression.md). -/
abbrev codecErrcnt : Nat := 0x600014
/-- Offset of CZ_NSTORED (06_compression.md). -/
abbrev czNstored (t : Nat) : Nat := 0x600020 + t * 0x4
/-- Offset of CZ_NSTATIC (06_compression.md). -/
abbrev czNstatic (t : Nat) : Nat := 0x600028 + t * 0x4
/-- Offset of CZ_NDYN (06_compression.md). -/
abbrev czNdyn (t : Nat) : Nat := 0x600030 + t * 0x4
/-- Offset of CZ_BIN (06_compression.md). -/
abbrev czBin (t : Nat) : Nat := 0x600038 + t * 0x4
/-- Offset of CZ_BOUT (06_compression.md). -/
abbrev czBout (t : Nat) : Nat := 0x600040 + t * 0x4
/-- Offset of CODEC_ENG (06_compression.md). -/
abbrev codecEng (t : Nat) : Nat := 0x600100 + t * 0x4
/-- Offset of CODEC_OQBASE (06_compression.md). -/
abbrev codecOqbase (t : Nat) : Nat := 0x601000 + t * 0x4
/-- Offset of CODEC_OQCFG (06_compression.md). -/
abbrev codecOqcfg : Nat := 0x601008
/-- Offset of CODEC_OQTAIL (06_compression.md). -/
abbrev codecOqtail : Nat := 0x60100C
/-- Offset of CODEC_OQHEAD (06_compression.md). -/
abbrev codecOqhead : Nat := 0x601010
/-- Offset of TBX_CTRL (07_toybox_and_yoyo.md). -/
abbrev tbxCtrl : Nat := 0x400000
/-- Offset of TBX_NBUF (07_toybox_and_yoyo.md). -/
abbrev tbxNbuf (t : Nat) : Nat := 0x400010 + t * 0x4
/-- Offset of TBX_QUOTA (07_toybox_and_yoyo.md). -/
abbrev tbxQuota (t : Nat) : Nat := 0x400020 + t * 0x4
/-- Offset of TBX_FREE (07_toybox_and_yoyo.md). -/
abbrev tbxFree (t : Nat) : Nat := 0x400040 + t * 0x4
/-- Offset of TBX_FBCNT (07_toybox_and_yoyo.md). -/
abbrev tbxFbcnt (t : Nat) : Nat := 0x400050 + t * 0x4
/-- Offset of TBX_ERR (07_toybox_and_yoyo.md). -/
abbrev tbxErr : Nat := 0x400060
/-- Offset of TBX_ERRCNT (07_toybox_and_yoyo.md). -/
abbrev tbxErrcnt : Nat := 0x400064
/-- Offset of TBX_ERRTOK (07_toybox_and_yoyo.md). -/
abbrev tbxErrtok : Nat := 0x400068
/-- Offset of TBX_GRPRET (07_toybox_and_yoyo.md). -/
abbrev tbxGrpret : Nat := 0x400070
/-- Offset of TBX_WAITCLR (07_toybox_and_yoyo.md). -/
abbrev tbxWaitclr : Nat := 0x400074
/-- Offset of TBX_INSPID (07_toybox_and_yoyo.md). -/
abbrev tbxInspid : Nat := 0x400080
/-- Offset of TBX_INSP (07_toybox_and_yoyo.md). -/
abbrev tbxInsp (t : Nat) : Nat := 0x400084 + t * 0x4
/-- Offset of YY_LAW (07_toybox_and_yoyo.md). -/
abbrev yyLaw (t : Nat) : Nat := 0x410000 + t * 0x100
/-- Offset of YY_PAUSE (07_toybox_and_yoyo.md). -/
abbrev yyPause (t : Nat) : Nat := 0x410004 + t * 0x100
/-- Offset of YY_LIM (07_toybox_and_yoyo.md). -/
abbrev yyLim (t : Nat) : Nat := 0x410008 + t * 0x100
/-- Offset of YY_SLEW (07_toybox_and_yoyo.md). -/
abbrev yySlew (t : Nat) : Nat := 0x41000C + t * 0x100
/-- Offset of YY_CAP (07_toybox_and_yoyo.md). -/
abbrev yyCap (t : Nat) : Nat := 0x410010 + t * 0x100
/-- Offset of YY_FILL (07_toybox_and_yoyo.md). -/
abbrev yyFill (t : Nat) : Nat := 0x410014 + t * 0x100
/-- Offset of YY_STAT (07_toybox_and_yoyo.md). -/
abbrev yyStat (t : Nat) : Nat := 0x410018 + t * 0x100
/-- Offset of YY_SPD (07_toybox_and_yoyo.md). -/
abbrev yySpd (t : Nat) : Nat := 0x41001C + t * 0x100
/-- Offset of YY_OUT (07_toybox_and_yoyo.md). -/
abbrev yyOut (t : Nat) : Nat := 0x410020 + t * 0x100
/-- Offset of YY_CNT (07_toybox_and_yoyo.md). -/
abbrev yyCnt (t : Nat) : Nat := 0x410024 + t * 0x100
/-- Offset of MC_GSTAT (08_marionette.md). -/
abbrev mcGstat : Nat := 0x1800000
/-- Offset of MC_TCTL (08_marionette.md). -/
abbrev mcTctl (t : Nat) : Nat := 0x1801000 + t * 0x100
/-- Offset of MC_TSTAT (08_marionette.md). -/
abbrev mcTstat (t : Nat) : Nat := 0x1801004 + t * 0x100
/-- Offset of MC_VEL (08_marionette.md). -/
abbrev mcVel (t : Nat) : Nat := 0x1801008 + t * 0x100
/-- Offset of MC_ACCEL (08_marionette.md). -/
abbrev mcAccel (t : Nat) : Nat := 0x180100C + t * 0x100
/-- Offset of MC_TENS (08_marionette.md). -/
abbrev mcTens (t : Nat) : Nat := 0x1801010 + t * 0x100
/-- Offset of MC_TWIN (08_marionette.md). -/
abbrev mcTwin (t : Nat) : Nat := 0x1801014 + t * 0x100
/-- Offset of MC_SUP (08_marionette.md). -/
abbrev mcSup (t : Nat) : Nat := 0x1801018 + t * 0x100
/-- Offset of MC_RUNUP (08_marionette.md). -/
abbrev mcRunup (t : Nat) : Nat := 0x180101C + t * 0x100
/-- Offset of MC_ENC (08_marionette.md). -/
abbrev mcEnc (t : Nat) : Nat := 0x1801020 + t * 0x100
/-- Offset of MC_RAD (08_marionette.md). -/
abbrev mcRad (t : Nat) : Nat := 0x1801024 + t * 0x100
/-- Offset of MC_NWRAP (08_marionette.md). -/
abbrev mcNwrap (t : Nat) : Nat := 0x1801028 + t * 0x100
/-- Offset of MC_TURNCFG (08_marionette.md). -/
abbrev mcTurncfg (t : Nat) : Nat := 0x180102C + t * 0x100
/-- Offset of MC_TCNT (08_marionette.md). -/
abbrev mcTcnt (t : Nat) : Nat := 0x1801030 + t * 0x100
/-- Offset of MC_RC (08_marionette.md). -/
abbrev mcRc (t i : Nat) : Nat := 0x1801034 + t * 0x100 + i * 0x4
/-- Offset of MC_LCTL (08_marionette.md). -/
abbrev mcLctl (t i : Nat) : Nat := 0x1804000 + t * 0x100 + i * 0x40
/-- Offset of MC_LSTAT (08_marionette.md). -/
abbrev mcLstat (t i : Nat) : Nat := 0x1804004 + t * 0x100 + i * 0x40
/-- Offset of MC_MAN (08_marionette.md). -/
abbrev mcMan (t i : Nat) : Nat := 0x1804008 + t * 0x100 + i * 0x40
/-- Offset of MC_CMDV (08_marionette.md). -/
abbrev mcCmdv (t i : Nat) : Nat := 0x180400C + t * 0x100 + i * 0x40
/-- Offset of MC_FE (08_marionette.md). -/
abbrev mcFe (t i : Nat) : Nat := 0x1804010 + t * 0x100 + i * 0x40
/-- Offset of MC_FET (08_marionette.md). -/
abbrev mcFet (t i : Nat) : Nat := 0x1804014 + t * 0x100 + i * 0x40
/-- Offset of MC_OVCNT (08_marionette.md). -/
abbrev mcOvcnt (t i : Nat) : Nat := 0x1804018 + t * 0x100 + i * 0x40
/-- Offset of MC_RLYCH (08_marionette.md). -/
abbrev mcRlych (t i : Nat) : Nat := 0x180401C + t * 0x100 + i * 0x40
/-- Offset of MC_RLYD (08_marionette.md). -/
abbrev mcRlyd (t i : Nat) : Nat := 0x1804020 + t * 0x100 + i * 0x40
/-- Offset of MC_RLYH (08_marionette.md). -/
abbrev mcRlyh (t i : Nat) : Nat := 0x1804024 + t * 0x100 + i * 0x40
/-- Offset of MC_RLYB (08_marionette.md). -/
abbrev mcRlyb (t i : Nat) : Nat := 0x1804028 + t * 0x100 + i * 0x40
/-- Offset of MC_RLYST (08_marionette.md). -/
abbrev mcRlyst (t i : Nat) : Nat := 0x180402C + t * 0x100 + i * 0x40
/-- Offset of MC_INJ (08_marionette.md). -/
abbrev mcInj : Nat := 0x1800200
/-- Offset of MC_INJAMP (08_marionette.md). -/
abbrev mcInjamp : Nat := 0x1800204
/-- Offset of MC_INJF0 (08_marionette.md). -/
abbrev mcInjf0 : Nat := 0x1800208
/-- Offset of MC_INJF1 (08_marionette.md). -/
abbrev mcInjf1 : Nat := 0x180020C
/-- Offset of MC_INJDUR (08_marionette.md). -/
abbrev mcInjdur : Nat := 0x1800210
/-- Offset of MC_CAP (08_marionette.md). -/
abbrev mcCap : Nat := 0x1800220
/-- Offset of MC_CAPCNT (08_marionette.md). -/
abbrev mcCapcnt : Nat := 0x1800224
/-- Offset of HIF_STAT (09_host_interface.md). -/
abbrev hifStat : Nat := 0x100000
/-- Offset of HIF_PSCFG (09_host_interface.md). -/
abbrev hifPscfg : Nat := 0x100004
/-- Offset of HIF_PSCFG2 (09_host_interface.md). -/
abbrev hifPscfg2 : Nat := 0x100008
/-- Offset of HIF_NOTICE (09_host_interface.md). -/
abbrev hifNotice : Nat := 0x10000C
/-- Offset of HIF_STCFG (09_host_interface.md). -/
abbrev hifStcfg : Nat := 0x100010
/-- Offset of HIF_ERR (09_host_interface.md). -/
abbrev hifErr : Nat := 0x100014
/-- Offset of HIF_ERRCNT (09_host_interface.md). -/
abbrev hifErrcnt : Nat := 0x100018
/-- Offset of HIF_SQBASE (09_host_interface.md). -/
abbrev hifSqbase (t i : Nat) : Nat := 0x108000 + t * 0x20 + i * 0x4
/-- Offset of HIF_CQBASE (09_host_interface.md). -/
abbrev hifCqbase (t i : Nat) : Nat := 0x108008 + t * 0x20 + i * 0x4
/-- Offset of HIF_QCFG (09_host_interface.md). -/
abbrev hifQcfg (t : Nat) : Nat := 0x108010 + t * 0x20
/-- Offset of HIF_QCOAL (09_host_interface.md). -/
abbrev hifQcoal (t : Nat) : Nat := 0x108014 + t * 0x20
/-- Offset of HIF_QSTAT (09_host_interface.md). -/
abbrev hifQstat (t : Nat) : Nat := 0x108018 + t * 0x20
/-- Offset of HIF_SQTDB (09_host_interface.md). -/
abbrev hifSqtdb (t : Nat) : Nat := 0x200000 + t * 0x8
/-- Offset of HIF_CQHDB (09_host_interface.md). -/
abbrev hifCqhdb (t : Nat) : Nat := 0x200004 + t * 0x8
/-- Offset of MBX_SUB (09_host_interface.md). -/
abbrev mbxSub (t : Nat) : Nat := 0x1E00000 + t * 0x4
/-- Offset of MBX_CPL (09_host_interface.md). -/
abbrev mbxCpl (t : Nat) : Nat := 0x1E00040 + t * 0x4
/-- Offset of MBX_CTL (09_host_interface.md). -/
abbrev mbxCtl : Nat := 0x1E00050
/-- Offset of MBX_DATA (09_host_interface.md). -/
abbrev mbxData (t : Nat) : Nat := 0x1E01000 + t * 0x4
/-- Offset of CC_CTRL (10_memory_cache_ecc.md). -/
abbrev ccCtrl : Nat := 0x1A00000
/-- Offset of CC_WAYS (10_memory_cache_ecc.md). -/
abbrev ccWays : Nat := 0x1A00004
/-- Offset of CC_SP (10_memory_cache_ecc.md). -/
abbrev ccSp : Nat := 0x1A00008
/-- Offset of CC_RNGBASE (10_memory_cache_ecc.md). -/
abbrev ccRngbase (t : Nat) : Nat := 0x1A00010 + t * 0x4
/-- Offset of CC_RNGLEN (10_memory_cache_ecc.md). -/
abbrev ccRnglen : Nat := 0x1A00018
/-- Offset of CC_RNGCMD (10_memory_cache_ecc.md). -/
abbrev ccRngcmd : Nat := 0x1A0001C
/-- Offset of CC_HITS (10_memory_cache_ecc.md). -/
abbrev ccHits (t : Nat) : Nat := 0x1A00020 + t * 0x4
/-- Offset of CC_MISSES (10_memory_cache_ecc.md). -/
abbrev ccMisses (t : Nat) : Nat := 0x1A00028 + t * 0x4
/-- Offset of CC_WBACKS (10_memory_cache_ecc.md). -/
abbrev ccWbacks (t : Nat) : Nat := 0x1A00030 + t * 0x4
/-- Offset of MEM_ERR (10_memory_cache_ecc.md). -/
abbrev memErr : Nat := 0x1B00000
/-- Offset of MEM_ERRCNT (10_memory_cache_ecc.md). -/
abbrev memErrcnt : Nat := 0x1B00004
/-- Offset of MEM_ERRADDR (10_memory_cache_ecc.md). -/
abbrev memErraddr (t : Nat) : Nat := 0x1B00008 + t * 0x4
/-- Offset of MEM_CECNT (10_memory_cache_ecc.md). -/
abbrev memCecnt : Nat := 0x1B00010
/-- Offset of MEM_HOME (10_memory_cache_ecc.md). -/
abbrev memHome : Nat := 0x1B00014
/-- Offset of SCR_CFG (10_memory_cache_ecc.md). -/
abbrev scrCfg : Nat := 0x1B00020
/-- Offset of SCR_STAT (10_memory_cache_ecc.md). -/
abbrev scrStat : Nat := 0x1B00024
/-- Offset of SCR_POS (10_memory_cache_ecc.md). -/
abbrev scrPos (t : Nat) : Nat := 0x1B00028 + t * 0x4
/-- Offset of MEM_FLIPSEL (10_memory_cache_ecc.md). -/
abbrev memFlipsel : Nat := 0x1B00040
/-- Offset of MEM_FLIPLO (10_memory_cache_ecc.md). -/
abbrev memFliplo : Nat := 0x1B00044
/-- Offset of MEM_FLIPHI (10_memory_cache_ecc.md). -/
abbrev memFliphi : Nat := 0x1B00048
/-- Offset of MEM_FLIPCHK (10_memory_cache_ecc.md). -/
abbrev memFlipchk : Nat := 0x1B0004C
/-- Offset of MEM_REMAP (10_memory_cache_ecc.md). -/
abbrev memRemap (t i : Nat) : Nat := 0x1B10000 + t * 0x10 + i * 0x4
/-- Offset of PWR_STAT (11_power_and_startup.md). -/
abbrev pwrStat : Nat := 0x1C00000
/-- Offset of PWR_CFG (11_power_and_startup.md). -/
abbrev pwrCfg : Nat := 0x1C00004
/-- Offset of PWR_CAP (11_power_and_startup.md). -/
abbrev pwrCap : Nat := 0x1C00008
/-- Offset of PWR_DIV (11_power_and_startup.md). -/
abbrev pwrDiv : Nat := 0x1C0000C
/-- Offset of PWR_EVT (11_power_and_startup.md). -/
abbrev pwrEvt : Nat := 0x1C00010
/-- Offset of PWR_CNT (11_power_and_startup.md). -/
abbrev pwrCnt : Nat := 0x1C00014
/-- Offset of WU_CFG (11_power_and_startup.md). -/
abbrev wuCfg : Nat := 0x1C00020
/-- Offset of WU_RLOAD (11_power_and_startup.md). -/
abbrev wuRload : Nat := 0x1C00024
/-- Offset of WU_VMIN (11_power_and_startup.md). -/
abbrev wuVmin : Nat := 0x1C00028
/-- Offset of WU_PWR (11_power_and_startup.md). -/
abbrev wuPwr : Nat := 0x1C0002C
/-- Offset of WU_SAVE (11_power_and_startup.md). -/
abbrev wuSave : Nat := 0x1C00030
/-- Offset of WU_MEAS (11_power_and_startup.md). -/
abbrev wuMeas : Nat := 0x1C00034
/-- Offset of WU_TDRAIN (11_power_and_startup.md). -/
abbrev wuTdrain : Nat := 0x1C00038
/-- Offset of WU_GRANT (11_power_and_startup.md). -/
abbrev wuGrant (t : Nat) : Nat := 0x1C00040 + t * 0x4
/-- Offset of WU_DEBIT (11_power_and_startup.md). -/
abbrev wuDebit (t : Nat) : Nat := 0x1C00060 + t * 0x4
/-- Offset of PWR_RLOG (11_power_and_startup.md). -/
abbrev pwrRlog : Nat := 0x1C00080
/-- Offset of PWR_THERM (13_package_and_electrical.md). -/
abbrev pwrTherm : Nat := 0x1C00090
/-- Offset of PWR_THCFG (13_package_and_electrical.md). -/
abbrev pwrThcfg : Nat := 0x1C00094
/-- Offset of FLT_STAT (12_faults_and_global_operations.md). -/
abbrev fltStat : Nat := 0x1D00000
/-- Offset of FLT_CNT (12_faults_and_global_operations.md). -/
abbrev fltCnt : Nat := 0x1D00004
/-- Offset of FLT_CLS (12_faults_and_global_operations.md). -/
abbrev fltCls (t : Nat) : Nat := 0x1D00010 + t * 0x4
/-- Offset of FLT_RET (12_faults_and_global_operations.md). -/
abbrev fltRet : Nat := 0x1D00040
/-- Offset of FLT_BCAST (12_faults_and_global_operations.md). -/
abbrev fltBcast : Nat := 0x1D00044
/-- Offset of TEL_CTRL (12_faults_and_global_operations.md). -/
abbrev telCtrl : Nat := 0x1D00100
/-- Offset of TEL_STAT (12_faults_and_global_operations.md). -/
abbrev telStat : Nat := 0x1D00104
end Reg

namespace Fld
/-- GLB_ID.PART. -/
abbrev glbIdPart : Fld := ⟨16, 16⟩
/-- GLB_ID.FDIE_STEP. -/
abbrev glbIdFdieStep : Fld := ⟨12, 4⟩
/-- GLB_ID.RC_STEP. -/
abbrev glbIdRcStep : Fld := ⟨8, 4⟩
/-- GLB_CFG.HBM_STACKS. -/
abbrev glbCfgHbmStacks : Fld := ⟨0, 2⟩
/-- GLB_CFG.CC_MODE. -/
abbrev glbCfgCcMode : Fld := ⟨2, 1⟩
/-- GLB_CFG.TP_PRESENT. -/
abbrev glbCfgTpPresent : Fld := ⟨8, 8⟩
/-- GLB_CFG.TP_HM2. -/
abbrev glbCfgTpHm2 : Fld := ⟨16, 8⟩
/-- GLB_CLKSTAT.CCLK_RUN. -/
abbrev glbClkstatCclkRun : Fld := ⟨0, 1⟩
/-- GLB_CLKSTAT.ZCLK_RUN. -/
abbrev glbClkstatZclkRun : Fld := ⟨1, 1⟩
/-- GLB_CLKSTAT.PPCLK_RUN. -/
abbrev glbClkstatPpclkRun : Fld := ⟨2, 1⟩
/-- GLB_CLKSTAT.MRCLK_RUN. -/
abbrev glbClkstatMrclkRun : Fld := ⟨3, 1⟩
/-- GLB_CLKSTAT.HBCLK_RUN. -/
abbrev glbClkstatHbclkRun : Fld := ⟨4, 4⟩
/-- GLB_CLKSTAT.PECLK_RUN. -/
abbrev glbClkstatPeclkRun : Fld := ⟨8, 2⟩
/-- GLB_CLKSTAT.WBCLK_RUN. -/
abbrev glbClkstatWbclkRun : Fld := ⟨10, 8⟩
/-- GLB_CLKSTAT.RCCLK_RUN. -/
abbrev glbClkstatRcclkRun : Fld := ⟨18, 2⟩
/-- GLB_CLKSTAT.ADCLK_RUN. -/
abbrev glbClkstatAdclkRun : Fld := ⟨20, 2⟩
/-- GLB_CLKSTAT.AOCLK_RUN. -/
abbrev glbClkstatAoclkRun : Fld := ⟨22, 1⟩
/-- GLB_CLKSTAT.FLCLK_RUN. -/
abbrev glbClkstatFlclkRun : Fld := ⟨23, 1⟩
/-- GLB_CLKSTAT.MECLK_RUN. -/
abbrev glbClkstatMeclkRun : Fld := ⟨24, 1⟩
/-- GLB_CLKSTAT.TCK_SEEN. -/
abbrev glbClkstatTckSeen : Fld := ⟨25, 1⟩
/-- GLB_CDCERR.SAMPLE_OVF. -/
abbrev glbCdcerrSampleOvf : Fld := ⟨0, 1⟩
/-- GLB_CDCERR.WL_UNDERRUN. -/
abbrev glbCdcerrWlUnderrun : Fld := ⟨1, 1⟩
/-- GLB_CDCERR.FREQ_STALE. -/
abbrev glbCdcerrFreqStale : Fld := ⟨2, 1⟩
/-- GLB_CDCCNT.EVENTS. -/
abbrev glbCdccntEvents : Fld := ⟨0, 16⟩
/-- GLB_CDCCNT.LAST_LANE. -/
abbrev glbCdccntLastLane : Fld := ⟨16, 16⟩
/-- GLB_RST.WARM. -/
abbrev glbRstWarm : Fld := ⟨0, 1⟩
/-- GLB_RST.CAUSE. -/
abbrev glbRstCause : Fld := ⟨1, 3⟩
/-- TS_CTRL.RUN. -/
abbrev tsCtrlRun : Fld := ⟨0, 1⟩
/-- TS_CTRL.HALT_REQ. -/
abbrev tsCtrlHaltReq : Fld := ⟨1, 1⟩
/-- TS_CTRL.STEP. -/
abbrev tsCtrlStep : Fld := ⟨2, 1⟩
/-- TS_CTRL.ENTRY. -/
abbrev tsCtrlEntry : Fld := ⟨3, 1⟩
/-- TS_CTRL.FLUSHQ. -/
abbrev tsCtrlFlushq : Fld := ⟨4, 1⟩
/-- TS_CTRL.DBG_EN. -/
abbrev tsCtrlDbgEn : Fld := ⟨5, 1⟩
/-- TS_CTRL.RESTART. -/
abbrev tsCtrlRestart : Fld := ⟨6, 1⟩
/-- TS_CTRL.LOCK. -/
abbrev tsCtrlLock : Fld := ⟨31, 1⟩
/-- TS_STAT.STATE. -/
abbrev tsStatState : Fld := ⟨0, 3⟩
/-- TS_STAT.EXL. -/
abbrev tsStatExl : Fld := ⟨3, 1⟩
/-- TS_STAT.HALTP. -/
abbrev tsStatHaltp : Fld := ⟨4, 1⟩
/-- TS_STAT.CPEND. -/
abbrev tsStatCpend : Fld := ⟨5, 9⟩
/-- TS_PC.PC. -/
abbrev tsPcPc : Fld := ⟨0, 16⟩
/-- TS_EXC.ECAUSE. -/
abbrev tsExcEcause : Fld := ⟨0, 6⟩
/-- TS_EXC.EPC. -/
abbrev tsExcEpc : Fld := ⟨16, 16⟩
/-- TS_EVAL.EVAL. -/
abbrev tsEvalEval : Fld := ⟨0, 32⟩
/-- TS_EVP.EVP. -/
abbrev tsEvpEvp : Fld := ⟨0, 32⟩
/-- TS_EVPOST.PP. -/
abbrev tsEvpostPp : Fld := ⟨0, 8⟩
/-- TS_IMG.FMTID. -/
abbrev tsImgFmtid : Fld := ⟨0, 16⟩
/-- TS_IMG.VERSION. -/
abbrev tsImgVersion : Fld := ⟨16, 16⟩
/-- TS_WDOG.LIMIT. -/
abbrev tsWdogLimit : Fld := ⟨0, 24⟩
/-- TS_FCNT.EXCCNT. -/
abbrev tsFcntExccnt : Fld := ⟨0, 16⟩
/-- TS_FCNT.WDCNT. -/
abbrev tsFcntWdcnt : Fld := ⟨16, 16⟩
/-- TS_LOCKV.LOCKV. -/
abbrev tsLockvLockv : Fld := ⟨0, 16⟩
/-- WL_STAT.STATE. -/
abbrev wlStatState : Fld := ⟨0, 3⟩
/-- WL_STAT.LOCKED. -/
abbrev wlStatLocked : Fld := ⟨3, 1⟩
/-- WL_STAT.QDEPTH. -/
abbrev wlStatQdepth : Fld := ⟨4, 3⟩
/-- WL_CFG.LOCKTOL. -/
abbrev wlCfgLocktol : Fld := ⟨0, 5⟩
/-- WL_CFG.LOCKTIME. -/
abbrev wlCfgLocktime : Fld := ⟨8, 8⟩
/-- WL_FREQ.FREQ. -/
abbrev wlFreqFreq : Fld := ⟨0, 32⟩
/-- WL_CNT.UNDERRUN. -/
abbrev wlCntUnderrun : Fld := ⟨0, 16⟩
/-- WL_CNT.GAPSLOTS. -/
abbrev wlCntGapslots : Fld := ⟨16, 16⟩
/-- WL_LDLY.DELAY. -/
abbrev wlLdlyDelay : Fld := ⟨0, 8⟩
/-- VFY_CFG.ITER. -/
abbrev vfyCfgIter : Fld := ⟨0, 4⟩
/-- VFY_CFG.MAXFLIP. -/
abbrev vfyCfgMaxflip : Fld := ⟨4, 10⟩
/-- VFY_CFG.ALT_PASS. -/
abbrev vfyCfgAltPass : Fld := ⟨14, 1⟩
/-- VFY_CFG.FLY_PASS. -/
abbrev vfyCfgFlyPass : Fld := ⟨15, 1⟩
/-- VFY_CFG.INC_LIMIT. -/
abbrev vfyCfgIncLimit : Fld := ⟨16, 4⟩
/-- VFY_LAG.LAG_FWD. -/
abbrev vfyLagLagFwd : Fld := ⟨0, 16⟩
/-- VFY_LAG.LAG_REV. -/
abbrev vfyLagLagRev : Fld := ⟨16, 16⟩
/-- VFY_CWPASS.COUNT. -/
abbrev vfyCwpassCount : Fld := ⟨0, 32⟩
/-- VFY_CWFAIL.COUNT. -/
abbrev vfyCwfailCount : Fld := ⟨0, 32⟩
/-- VFY_INC.UNRES. -/
abbrev vfyIncUnres : Fld := ⟨0, 14⟩
/-- VFY_INC.WORSTN. -/
abbrev vfyIncWorstn : Fld := ⟨14, 8⟩
/-- VFY_INC.WORSTS. -/
abbrev vfyIncWorsts : Fld := ⟨22, 6⟩
/-- VFY_INCDS.DSNUM. -/
abbrev vfyIncdsDsnum : Fld := ⟨0, 32⟩
/-- VFY_LFCFG.EXT_THR. -/
abbrev vfyLfcfgExtThr : Fld := ⟨0, 8⟩
/-- VFY_LFCFG.M. -/
abbrev vfyLfcfgM : Fld := ⟨8, 4⟩
/-- VFY_LFCFG.T. -/
abbrev vfyLfcfgT : Fld := ⟨12, 16⟩
/-- VFY_LFCFG.MEDIA_N. -/
abbrev vfyLfcfgMediaN : Fld := ⟨28, 4⟩
/-- VFY_MEDIA.MEDIAEV. -/
abbrev vfyMediaMediaev : Fld := ⟨0, 16⟩
/-- VFY_LANECMD.K. -/
abbrev vfyLanecmdK : Fld := ⟨0, 6⟩
/-- VFY_LANECMD.CMD. -/
abbrev vfyLanecmdCmd : Fld := ⟨8, 2⟩
/-- VFY_LANE.EVENTS. -/
abbrev vfyLaneEvents : Fld := ⟨0, 4⟩
/-- VFY_LANE.SUSPECT. -/
abbrev vfyLaneSuspect : Fld := ⟨4, 1⟩
/-- VFY_LANE.FAILED. -/
abbrev vfyLaneFailed : Fld := ⟨5, 1⟩
/-- VFY_LANE.CAUSE. -/
abbrev vfyLaneCause : Fld := ⟨6, 2⟩
/-- VFY_LANE.LASTFAILS. -/
abbrev vfyLaneLastfails : Fld := ⟨8, 8⟩
/-- VFY_LANE.FEVCNT. -/
abbrev vfyLaneFevcnt : Fld := ⟨16, 16⟩
/-- RWQ_STAT.PENDING. -/
abbrev rwqStatPending : Fld := ⟨0, 16⟩
/-- RWQ_STAT.FREE. -/
abbrev rwqStatFree : Fld := ⟨16, 8⟩
/-- RWQ_CNT.PLACED. -/
abbrev rwqCntPlaced : Fld := ⟨0, 16⟩
/-- RWQ_CNT.UNRESOLVED. -/
abbrev rwqCntUnresolved : Fld := ⟨16, 16⟩
/-- RC_MODE.MODE. -/
abbrev rcModeMode : Fld := ⟨0, 2⟩
/-- RC_ZCTL.WRAPLEN. -/
abbrev rcZctlWraplen : Fld := ⟨0, 23⟩
/-- RC_ZCTL.TRK_EN. -/
abbrev rcZctlTrkEn : Fld := ⟨23, 1⟩
/-- RC_ZCTL.TRK_SHIFT. -/
abbrev rcZctlTrkShift : Fld := ⟨24, 4⟩
/-- RC_ZCTL.PAGE_FORCE. -/
abbrev rcZctlPageForce : Fld := ⟨28, 1⟩
/-- RC_ZCTL.PAGE. -/
abbrev rcZctlPage : Fld := ⟨29, 1⟩
/-- RC_ACQ.KP_A. -/
abbrev rcAcqKpA : Fld := ⟨0, 4⟩
/-- RC_ACQ.KF_A. -/
abbrev rcAcqKfA : Fld := ⟨4, 4⟩
/-- RC_ACQ.KP_T. -/
abbrev rcAcqKpT : Fld := ⟨8, 4⟩
/-- RC_ACQ.KF_T. -/
abbrev rcAcqKfT : Fld := ⟨12, 4⟩
/-- RC_ACQ.G_A. -/
abbrev rcAcqGA : Fld := ⟨16, 4⟩
/-- RC_ACQ.G_T. -/
abbrev rcAcqGT : Fld := ⟨20, 4⟩
/-- RC_ACQ.O_T. -/
abbrev rcAcqOT : Fld := ⟨24, 4⟩
/-- RC_ACQ.PDET. -/
abbrev rcAcqPdet : Fld := ⟨28, 4⟩
/-- RC_SYNC.SYNC_THR. -/
abbrev rcSyncSyncThr : Fld := ⟨0, 6⟩
/-- RC_SYNC.A_THR. -/
abbrev rcSyncAThr : Fld := ⟨6, 6⟩
/-- RC_SYNC.FLYMAX. -/
abbrev rcSyncFlymax : Fld := ⟨12, 3⟩
/-- RC_SYNC.RS_THR. -/
abbrev rcSyncRsThr : Fld := ⟨15, 3⟩
/-- RC_LLR.LLR_STEP. -/
abbrev rcLlrLlrStep : Fld := ⟨0, 8⟩
/-- RC_ZDEF.ENTRY. -/
abbrev rcZdefEntry : Fld := ⟨0, 29⟩
/-- RC_CAL.MSE_MAX. -/
abbrev rcCalMseMax : Fld := ⟨0, 16⟩
/-- RC_CAL.PASS. -/
abbrev rcCalPass : Fld := ⟨16, 2⟩
/-- RC_CAL.DIR. -/
abbrev rcCalDir : Fld := ⟨18, 1⟩
/-- RC_CALRES.FAIL. -/
abbrev rcCalresFail : Fld := ⟨0, 32⟩
/-- RC_LSTAT.FRAMED. -/
abbrev rcLstatFramed : Fld := ⟨0, 1⟩
/-- RC_LSTAT.ZONE. -/
abbrev rcLstatZone : Fld := ⟨1, 5⟩
/-- RC_LSTAT.BAND. -/
abbrev rcLstatBand : Fld := ⟨6, 2⟩
/-- RC_LSTAT.PAGE. -/
abbrev rcLstatPage : Fld := ⟨8, 1⟩
/-- RC_LSTAT.ENGINE. -/
abbrev rcLstatEngine : Fld := ⟨9, 6⟩
/-- RC_LCNT.FLY. -/
abbrev rcLcntFly : Fld := ⟨0, 8⟩
/-- RC_LCNT.ALT. -/
abbrev rcLcntAlt : Fld := ⟨8, 8⟩
/-- RC_LCNT.LOSS. -/
abbrev rcLcntLoss : Fld := ⟨16, 8⟩
/-- RC_LCNT.XTRK. -/
abbrev rcLcntXtrk : Fld := ⟨24, 8⟩
/-- SV_CFG.DISAGREE. -/
abbrev svCfgDisagree : Fld := ⟨0, 12⟩
/-- SV_K.K. -/
abbrev svKK : Fld := ⟨0, 24⟩
/-- SV_OFFA.OFF. -/
abbrev svOffaOff : Fld := ⟨0, 24⟩
/-- SV_OFFB.OFF. -/
abbrev svOffbOff : Fld := ⟨0, 24⟩
/-- SV_BOW0.BOW. -/
abbrev svBow0Bow : Fld := ⟨0, 23⟩
/-- SV_BOW1.BOW. -/
abbrev svBow1Bow : Fld := ⟨0, 23⟩
/-- SV_STAT.INVCNT. -/
abbrev svStatInvcnt : Fld := ⟨0, 16⟩
/-- SV_STAT.DISCNT. -/
abbrev svStatDiscnt : Fld := ⟨16, 16⟩
/-- RC_LDPC.ABANDON. -/
abbrev rcLdpcAbandon : Fld := ⟨0, 10⟩
/-- RC_ENG.RETIRED. -/
abbrev rcEngRetired : Fld := ⟨0, 1⟩
/-- RC_ENG.NLANES. -/
abbrev rcEngNlanes : Fld := ⟨1, 9⟩
/-- RC_ENG.DLMISS. -/
abbrev rcEngDlmiss : Fld := ⟨16, 16⟩
/-- RC_CAPLANE.LANE. -/
abbrev rcCaplaneLane : Fld := ⟨0, 9⟩
/-- RC_CAPLANE.TRIG. -/
abbrev rcCaplaneTrig : Fld := ⟨9, 2⟩
/-- RC_CAPLANE.ARM. -/
abbrev rcCaplaneArm : Fld := ⟨11, 1⟩
/-- RC_CAPTOK.TOKEN. -/
abbrev rcCaptokToken : Fld := ⟨0, 32⟩
/-- RC_CAPLEN.LENGTH. -/
abbrev rcCaplenLength : Fld := ⟨0, 24⟩
/-- RC_CAPLEN.POST. -/
abbrev rcCaplenPost : Fld := ⟨24, 8⟩
/-- RC_CAPSTAT.WPTR. -/
abbrev rcCapstatWptr : Fld := ⟨0, 23⟩
/-- RC_CAPSTAT.DONE. -/
abbrev rcCapstatDone : Fld := ⟨23, 1⟩
/-- RC_CAPSTAT.ERR. -/
abbrev rcCapstatErr : Fld := ⟨24, 1⟩
/-- CZ_CFG.PRIME. -/
abbrev czCfgPrime : Fld := ⟨0, 9⟩
/-- CZ_CFG.BRK_OBJ. -/
abbrev czCfgBrkObj : Fld := ⟨9, 1⟩
/-- CZ_CFG.BRKMB. -/
abbrev czCfgBrkmb : Fld := ⟨16, 16⟩
/-- CZ_HIDLE.MS. -/
abbrev czHidleMs : Fld := ⟨0, 16⟩
/-- DZ_GUARD.RATIO. -/
abbrev dzGuardRatio : Fld := ⟨0, 16⟩
/-- CODEC_CTXBASE.BASE. -/
abbrev codecCtxbaseBase : Fld := ⟨0, 32⟩
/-- CODEC_ERR.BADCODE. -/
abbrev codecErrBadcode : Fld := ⟨0, 1⟩
/-- CODEC_ERR.CRC. -/
abbrev codecErrCrc : Fld := ⟨1, 1⟩
/-- CODEC_ERR.LENGTH. -/
abbrev codecErrLength : Fld := ⟨2, 1⟩
/-- CODEC_ERR.LIMIT. -/
abbrev codecErrLimit : Fld := ⟨3, 1⟩
/-- CODEC_ERR.GUARD. -/
abbrev codecErrGuard : Fld := ⟨4, 1⟩
/-- CODEC_ERR.NOHIST. -/
abbrev codecErrNohist : Fld := ⟨5, 1⟩
/-- CODEC_ERR.POISON. -/
abbrev codecErrPoison : Fld := ⟨6, 1⟩
/-- CODEC_ERR.ENGFAULT. -/
abbrev codecErrEngfault : Fld := ⟨7, 1⟩
/-- CODEC_ERRCNT.EVENTS. -/
abbrev codecErrcntEvents : Fld := ⟨0, 16⟩
/-- CODEC_ERRCNT.LASTSCID. -/
abbrev codecErrcntLastscid : Fld := ⟨16, 16⟩
/-- CZ_NSTORED.COUNT. -/
abbrev czNstoredCount : Fld := ⟨0, 32⟩
/-- CZ_NSTATIC.COUNT. -/
abbrev czNstaticCount : Fld := ⟨0, 32⟩
/-- CZ_NDYN.COUNT. -/
abbrev czNdynCount : Fld := ⟨0, 32⟩
/-- CZ_BIN.COUNT. -/
abbrev czBinCount : Fld := ⟨0, 32⟩
/-- CZ_BOUT.COUNT. -/
abbrev czBoutCount : Fld := ⟨0, 32⟩
/-- CODEC_ENG.RETIRED. -/
abbrev codecEngRetired : Fld := ⟨0, 1⟩
/-- CODEC_ENG.BUSY. -/
abbrev codecEngBusy : Fld := ⟨1, 1⟩
/-- CODEC_ENG.AFFINE. -/
abbrev codecEngAffine : Fld := ⟨2, 1⟩
/-- CODEC_ENG.SCID. -/
abbrev codecEngScid : Fld := ⟨16, 16⟩
/-- CODEC_OQBASE.BASE. -/
abbrev codecOqbaseBase : Fld := ⟨0, 32⟩
/-- CODEC_OQCFG.EN. -/
abbrev codecOqcfgEn : Fld := ⟨0, 1⟩
/-- CODEC_OQCFG.SIZE. -/
abbrev codecOqcfgSize : Fld := ⟨1, 5⟩
/-- CODEC_OQCFG.VECTOR. -/
abbrev codecOqcfgVector : Fld := ⟨16, 11⟩
/-- CODEC_OQTAIL.TAIL. -/
abbrev codecOqtailTail : Fld := ⟨0, 16⟩
/-- CODEC_OQHEAD.HEAD. -/
abbrev codecOqheadHead : Fld := ⟨0, 16⟩
/-- TBX_CTRL.EN. -/
abbrev tbxCtrlEn : Fld := ⟨0, 1⟩
/-- TBX_CTRL.READY. -/
abbrev tbxCtrlReady : Fld := ⟨1, 1⟩
/-- TBX_CTRL.LOCK. -/
abbrev tbxCtrlLock : Fld := ⟨31, 1⟩
/-- TBX_NBUF.PERGRP. -/
abbrev tbxNbufPergrp : Fld := ⟨0, 20⟩
/-- TBX_QUOTA.MAX. -/
abbrev tbxQuotaMax : Fld := ⟨0, 16⟩
/-- TBX_QUOTA.HELD. -/
abbrev tbxQuotaHeld : Fld := ⟨16, 16⟩
/-- TBX_FREE.FREE. -/
abbrev tbxFreeFree : Fld := ⟨0, 24⟩
/-- TBX_FBCNT.FALLBACK. -/
abbrev tbxFbcntFallback : Fld := ⟨0, 16⟩
/-- TBX_FBCNT.WAITERS. -/
abbrev tbxFbcntWaiters : Fld := ⟨16, 8⟩
/-- TBX_ERR.DOUBLE_FREE. -/
abbrev tbxErrDoubleFree : Fld := ⟨0, 1⟩
/-- TBX_ERR.NOT_HOLDER. -/
abbrev tbxErrNotHolder : Fld := ⟨1, 1⟩
/-- TBX_ERR.STALE. -/
abbrev tbxErrStale : Fld := ⟨2, 1⟩
/-- TBX_ERR.OVERFLOW. -/
abbrev tbxErrOverflow : Fld := ⟨3, 1⟩
/-- TBX_ERR.INVALID. -/
abbrev tbxErrInvalid : Fld := ⟨4, 1⟩
/-- TBX_ERR.WAITOVF. -/
abbrev tbxErrWaitovf : Fld := ⟨5, 1⟩
/-- TBX_ERRCNT.EVENTS. -/
abbrev tbxErrcntEvents : Fld := ⟨0, 16⟩
/-- TBX_ERRCNT.AGENT. -/
abbrev tbxErrcntAgent : Fld := ⟨16, 4⟩
/-- TBX_ERRTOK.TOKEN. -/
abbrev tbxErrtokToken : Fld := ⟨0, 32⟩
/-- TBX_GRPRET.RETIRED. -/
abbrev tbxGrpretRetired : Fld := ⟨0, 16⟩
/-- TBX_WAITCLR.CLASS. -/
abbrev tbxWaitclrClass : Fld := ⟨0, 4⟩
/-- TBX_INSPID.BUFID. -/
abbrev tbxInspidBufid : Fld := ⟨0, 24⟩
/-- TBX_INSP.WORD. -/
abbrev tbxInspWord : Fld := ⟨0, 32⟩
/-- YY_LAW.LOW. -/
abbrev yyLawLow : Fld := ⟨0, 16⟩
/-- YY_LAW.HIGH. -/
abbrev yyLawHigh : Fld := ⟨16, 16⟩
/-- YY_PAUSE.STOP. -/
abbrev yyPauseStop : Fld := ⟨0, 8⟩
/-- YY_PAUSE.START. -/
abbrev yyPauseStart : Fld := ⟨8, 16⟩
/-- YY_PAUSE.STOPT. -/
abbrev yyPauseStopt : Fld := ⟨24, 8⟩
/-- YY_LIM.VMIN. -/
abbrev yyLimVmin : Fld := ⟨0, 14⟩
/-- YY_LIM.VMAX. -/
abbrev yyLimVmax : Fld := ⟨14, 14⟩
/-- YY_SLEW.SLEW. -/
abbrev yySlewSlew : Fld := ⟨0, 12⟩
/-- YY_SLEW.MAXPAUSE. -/
abbrev yySlewMaxpause : Fld := ⟨12, 12⟩
/-- YY_SLEW.BANDHOLD. -/
abbrev yySlewBandhold : Fld := ⟨24, 8⟩
/-- YY_CAP.CAPV. -/
abbrev yyCapCapv : Fld := ⟨0, 14⟩
/-- YY_FILL.FILL. -/
abbrev yyFillFill : Fld := ⟨0, 32⟩
/-- YY_STAT.OUT. -/
abbrev yyStatOut : Fld := ⟨0, 14⟩
/-- YY_STAT.MODE. -/
abbrev yyStatMode : Fld := ⟨14, 3⟩
/-- YY_STAT.CAPPED. -/
abbrev yyStatCapped : Fld := ⟨17, 1⟩
/-- YY_STAT.HOLD. -/
abbrev yyStatHold : Fld := ⟨18, 1⟩
/-- YY_SPD.REFV. -/
abbrev yySpdRefv : Fld := ⟨0, 16⟩
/-- YY_OUT.EN. -/
abbrev yyOutEn : Fld := ⟨0, 1⟩
/-- YY_CNT.PAUSES. -/
abbrev yyCntPauses : Fld := ⟨0, 16⟩
/-- YY_CNT.CAPS. -/
abbrev yyCntCaps : Fld := ⟨16, 16⟩
/-- MC_GSTAT.UTIL. -/
abbrev mcGstatUtil : Fld := ⟨0, 10⟩
/-- MC_GSTAT.FMTID. -/
abbrev mcGstatFmtid : Fld := ⟨16, 16⟩
/-- MC_TCTL.CMD. -/
abbrev mcTctlCmd : Fld := ⟨0, 3⟩
/-- MC_TSTAT.STATE. -/
abbrev mcTstatState : Fld := ⟨0, 3⟩
/-- MC_TSTAT.ARMED. -/
abbrev mcTstatArmed : Fld := ⟨3, 1⟩
/-- MC_TSTAT.BAND. -/
abbrev mcTstatBand : Fld := ⟨4, 2⟩
/-- MC_TSTAT.VSRC. -/
abbrev mcTstatVsrc : Fld := ⟨6, 1⟩
/-- MC_TSTAT.CAUSE. -/
abbrev mcTstatCause : Fld := ⟨7, 4⟩
/-- MC_TSTAT.CLOOP. -/
abbrev mcTstatCloop : Fld := ⟨11, 2⟩
/-- MC_VEL.VTAPE. -/
abbrev mcVelVtape : Fld := ⟨0, 32⟩
/-- MC_ACCEL.A. -/
abbrev mcAccelA : Fld := ⟨0, 6⟩
/-- MC_ACCEL.ASTOP. -/
abbrev mcAccelAstop : Fld := ⟨6, 6⟩
/-- MC_ACCEL.VLOC. -/
abbrev mcAccelVloc : Fld := ⟨12, 14⟩
/-- MC_TENS.TSP. -/
abbrev mcTensTsp : Fld := ⟨0, 16⟩
/-- MC_TWIN.TMIN. -/
abbrev mcTwinTmin : Fld := ⟨0, 16⟩
/-- MC_TWIN.TMAX. -/
abbrev mcTwinTmax : Fld := ⟨16, 16⟩
/-- MC_SUP.TTIME. -/
abbrev mcSupTtime : Fld := ⟨0, 8⟩
/-- MC_SUP.SVLOSS. -/
abbrev mcSupSvloss : Fld := ⟨8, 8⟩
/-- MC_RUNUP.FRAMES. -/
abbrev mcRunupFrames : Fld := ⟨0, 23⟩
/-- MC_RUNUP.MISSES. -/
abbrev mcRunupMisses : Fld := ⟨23, 9⟩
/-- MC_ENC.CPRA. -/
abbrev mcEncCpra : Fld := ⟨0, 16⟩
/-- MC_ENC.CPRB. -/
abbrev mcEncCprb : Fld := ⟨16, 16⟩
/-- MC_RAD.RADA. -/
abbrev mcRadRada : Fld := ⟨0, 16⟩
/-- MC_RAD.RADB. -/
abbrev mcRadRadb : Fld := ⟨16, 16⟩
/-- MC_NWRAP.NWRAP. -/
abbrev mcNwrapNwrap : Fld := ⟨0, 10⟩
/-- MC_TURNCFG.SEEK. -/
abbrev mcTurncfgSeek : Fld := ⟨0, 16⟩
/-- MC_TURNCFG.SETTLE. -/
abbrev mcTurncfgSettle : Fld := ⟨16, 16⟩
/-- MC_TCNT.STOPS. -/
abbrev mcTcntStops : Fld := ⟨0, 16⟩
/-- MC_RC.LEARN. -/
abbrev mcRcLearn : Fld := ⟨0, 1⟩
/-- MC_RC.CLR. -/
abbrev mcRcClr : Fld := ⟨1, 1⟩
/-- MC_RC.RES. -/
abbrev mcRcRes : Fld := ⟨2, 3⟩
/-- MC_RC.BIN. -/
abbrev mcRcBin : Fld := ⟨5, 10⟩
/-- MC_LCTL.MODE. -/
abbrev mcLctlMode : Fld := ⟨0, 2⟩
/-- MC_LCTL.BANKSEL. -/
abbrev mcLctlBanksel : Fld := ⟨2, 1⟩
/-- MC_LCTL.BANDSW. -/
abbrev mcLctlBandsw : Fld := ⟨3, 1⟩
/-- MC_LSTAT.ACTIVE. -/
abbrev mcLstatActive : Fld := ⟨0, 1⟩
/-- MC_LSTAT.FAULT. -/
abbrev mcLstatFault : Fld := ⟨1, 1⟩
/-- MC_LSTAT.OVR. -/
abbrev mcLstatOvr : Fld := ⟨2, 1⟩
/-- MC_LSTAT.ISAT. -/
abbrev mcLstatIsat : Fld := ⟨3, 1⟩
/-- MC_LSTAT.AWH. -/
abbrev mcLstatAwh : Fld := ⟨4, 1⟩
/-- MC_LSTAT.AWDIR. -/
abbrev mcLstatAwdir : Fld := ⟨5, 1⟩
/-- MC_LSTAT.SATF. -/
abbrev mcLstatSatf : Fld := ⟨6, 1⟩
/-- MC_LSTAT.CMDSAT. -/
abbrev mcLstatCmdsat : Fld := ⟨7, 1⟩
/-- MC_LSTAT.LASTCYC. -/
abbrev mcLstatLastcyc : Fld := ⟨16, 16⟩
/-- MC_MAN.MAN. -/
abbrev mcManMan : Fld := ⟨0, 32⟩
/-- MC_CMDV.CMD. -/
abbrev mcCmdvCmd : Fld := ⟨0, 32⟩
/-- MC_FE.FELIM. -/
abbrev mcFeFelim : Fld := ⟨0, 32⟩
/-- MC_FET.FETIME. -/
abbrev mcFetFetime : Fld := ⟨0, 16⟩
/-- MC_FET.FETMR. -/
abbrev mcFetFetmr : Fld := ⟨16, 16⟩
/-- MC_OVCNT.OVRCNT. -/
abbrev mcOvcntOvrcnt : Fld := ⟨0, 16⟩
/-- MC_OVCNT.CONSEC. -/
abbrev mcOvcntConsec : Fld := ⟨16, 2⟩
/-- MC_RLYCH.SPCH. -/
abbrev mcRlychSpch : Fld := ⟨0, 4⟩
/-- MC_RLYCH.MEASCH. -/
abbrev mcRlychMeasch : Fld := ⟨4, 4⟩
/-- MC_RLYD.D. -/
abbrev mcRlydD : Fld := ⟨0, 32⟩
/-- MC_RLYH.H. -/
abbrev mcRlyhH : Fld := ⟨0, 32⟩
/-- MC_RLYB.BIAS. -/
abbrev mcRlybBias : Fld := ⟨0, 32⟩
/-- MC_RLYST.SWITCHES. -/
abbrev mcRlystSwitches : Fld := ⟨0, 16⟩
/-- MC_INJ.LOOP. -/
abbrev mcInjLoop : Fld := ⟨0, 5⟩
/-- MC_INJ.SIDE. -/
abbrev mcInjSide : Fld := ⟨5, 1⟩
/-- MC_INJ.CH. -/
abbrev mcInjCh : Fld := ⟨6, 4⟩
/-- MC_INJ.WAVE. -/
abbrev mcInjWave : Fld := ⟨10, 2⟩
/-- MC_INJ.GO. -/
abbrev mcInjGo : Fld := ⟨12, 1⟩
/-- MC_INJ.ACTIVE. -/
abbrev mcInjActive : Fld := ⟨13, 1⟩
/-- MC_INJAMP.AMP. -/
abbrev mcInjampAmp : Fld := ⟨0, 32⟩
/-- MC_INJF0.F0. -/
abbrev mcInjf0F0 : Fld := ⟨0, 32⟩
/-- MC_INJF1.F1. -/
abbrev mcInjf1F1 : Fld := ⟨0, 32⟩
/-- MC_INJDUR.DUR. -/
abbrev mcInjdurDur : Fld := ⟨0, 24⟩
/-- MC_INJDUR.HOLD. -/
abbrev mcInjdurHold : Fld := ⟨24, 8⟩
/-- MC_CAP.LOOP. -/
abbrev mcCapLoop : Fld := ⟨0, 5⟩
/-- MC_CAP.SEL0. -/
abbrev mcCapSel0 : Fld := ⟨5, 5⟩
/-- MC_CAP.SEL1. -/
abbrev mcCapSel1 : Fld := ⟨10, 5⟩
/-- MC_CAP.SEL2. -/
abbrev mcCapSel2 : Fld := ⟨15, 5⟩
/-- MC_CAP.ARM. -/
abbrev mcCapArm : Fld := ⟨20, 1⟩
/-- MC_CAP.TRIG. -/
abbrev mcCapTrig : Fld := ⟨21, 1⟩
/-- MC_CAP.DONE. -/
abbrev mcCapDone : Fld := ⟨22, 1⟩
/-- MC_CAPCNT.COUNT. -/
abbrev mcCapcntCount : Fld := ⟨0, 15⟩
/-- HIF_STAT.PS. -/
abbrev hifStatPs : Fld := ⟨0, 2⟩
/-- HIF_STAT.PSBUSY. -/
abbrev hifStatPsbusy : Fld := ⟨2, 1⟩
/-- HIF_STAT.SELFTEST. -/
abbrev hifStatSelftest : Fld := ⟨3, 1⟩
/-- HIF_STAT.EPS. -/
abbrev hifStatEps : Fld := ⟨4, 4⟩
/-- HIF_PSCFG.IDLE1. -/
abbrev hifPscfgIdle1 : Fld := ⟨0, 16⟩
/-- HIF_PSCFG2.IDLE2. -/
abbrev hifPscfg2Idle2 : Fld := ⟨0, 16⟩
/-- HIF_PSCFG2.IDLE3. -/
abbrev hifPscfg2Idle3 : Fld := ⟨16, 16⟩
/-- HIF_NOTICE.QUEUE. -/
abbrev hifNoticeQueue : Fld := ⟨0, 10⟩
/-- HIF_NOTICE.EN. -/
abbrev hifNoticeEn : Fld := ⟨15, 1⟩
/-- HIF_NOTICE.PENDING. -/
abbrev hifNoticePending : Fld := ⟨16, 7⟩
/-- HIF_NOTICE.DROPPED. -/
abbrev hifNoticeDropped : Fld := ⟨23, 1⟩
/-- HIF_STCFG.RESUME. -/
abbrev hifStcfgResume : Fld := ⟨0, 16⟩
/-- HIF_ERR.DBERR. -/
abbrev hifErrDberr : Fld := ⟨0, 1⟩
/-- HIF_ERR.CFGERR. -/
abbrev hifErrCfgerr : Fld := ⟨1, 1⟩
/-- HIF_ERR.HOSTMEM. -/
abbrev hifErrHostmem : Fld := ⟨2, 1⟩
/-- HIF_ERR.WRONGEP. -/
abbrev hifErrWrongep : Fld := ⟨3, 1⟩
/-- HIF_ERR.TAGDUP. -/
abbrev hifErrTagdup : Fld := ⟨4, 1⟩
/-- HIF_ERRCNT.EVENTS. -/
abbrev hifErrcntEvents : Fld := ⟨0, 16⟩
/-- HIF_ERRCNT.LASTQ. -/
abbrev hifErrcntLastq : Fld := ⟨16, 10⟩
/-- HIF_SQBASE.SQBASE. -/
abbrev hifSqbaseSqbase : Fld := ⟨0, 32⟩
/-- HIF_CQBASE.CQBASE. -/
abbrev hifCqbaseCqbase : Fld := ⟨0, 32⟩
/-- HIF_QCFG.SQSIZE. -/
abbrev hifQcfgSqsize : Fld := ⟨0, 5⟩
/-- HIF_QCFG.CQSIZE. -/
abbrev hifQcfgCqsize : Fld := ⟨5, 5⟩
/-- HIF_QCFG.VECTOR. -/
abbrev hifQcfgVector : Fld := ⟨10, 11⟩
/-- HIF_QCFG.IEN. -/
abbrev hifQcfgIen : Fld := ⟨21, 1⟩
/-- HIF_QCFG.CFGERR. -/
abbrev hifQcfgCfgerr : Fld := ⟨22, 1⟩
/-- HIF_QCFG.EN. -/
abbrev hifQcfgEn : Fld := ⟨31, 1⟩
/-- HIF_QCOAL.COUNT. -/
abbrev hifQcoalCount : Fld := ⟨0, 8⟩
/-- HIF_QCOAL.TIME. -/
abbrev hifQcoalTime : Fld := ⟨8, 16⟩
/-- HIF_QSTAT.ACTIVE. -/
abbrev hifQstatActive : Fld := ⟨0, 1⟩
/-- HIF_QSTAT.ERR. -/
abbrev hifQstatErr : Fld := ⟨1, 1⟩
/-- HIF_QSTAT.NEG. -/
abbrev hifQstatNeg : Fld := ⟨2, 1⟩
/-- HIF_QSTAT.VER. -/
abbrev hifQstatVer : Fld := ⟨3, 2⟩
/-- HIF_QSTAT.SQHEAD. -/
abbrev hifQstatSqhead : Fld := ⟨16, 16⟩
/-- HIF_SQTDB.PTR. -/
abbrev hifSqtdbPtr : Fld := ⟨0, 16⟩
/-- HIF_CQHDB.PTR. -/
abbrev hifCqhdbPtr : Fld := ⟨0, 16⟩
/-- MBX_SUB.ENTRY. -/
abbrev mbxSubEntry : Fld := ⟨0, 32⟩
/-- MBX_CPL.ENTRY. -/
abbrev mbxCplEntry : Fld := ⟨0, 32⟩
/-- MBX_CTL.GO. -/
abbrev mbxCtlGo : Fld := ⟨0, 1⟩
/-- MBX_CTL.BUSY. -/
abbrev mbxCtlBusy : Fld := ⟨1, 1⟩
/-- MBX_DATA.DATA. -/
abbrev mbxDataData : Fld := ⟨0, 32⟩
/-- CC_CTRL.EN. -/
abbrev ccCtrlEn : Fld := ⟨0, 1⟩
/-- CC_CTRL.INIT. -/
abbrev ccCtrlInit : Fld := ⟨1, 1⟩
/-- CC_CTRL.INITDONE. -/
abbrev ccCtrlInitdone : Fld := ⟨2, 1⟩
/-- CC_WAYS.PWR. -/
abbrev ccWaysPwr : Fld := ⟨0, 16⟩
/-- CC_WAYS.RET. -/
abbrev ccWaysRet : Fld := ⟨16, 16⟩
/-- CC_SP.SPWAYS. -/
abbrev ccSpSpways : Fld := ⟨0, 8⟩
/-- CC_SP.SPREADY. -/
abbrev ccSpSpready : Fld := ⟨8, 8⟩
/-- CC_RNGBASE.BASE. -/
abbrev ccRngbaseBase : Fld := ⟨0, 32⟩
/-- CC_RNGLEN.LINES. -/
abbrev ccRnglenLines : Fld := ⟨0, 32⟩
/-- CC_RNGCMD.CMD. -/
abbrev ccRngcmdCmd : Fld := ⟨0, 2⟩
/-- CC_RNGCMD.BUSY. -/
abbrev ccRngcmdBusy : Fld := ⟨2, 1⟩
/-- CC_HITS.COUNT. -/
abbrev ccHitsCount : Fld := ⟨0, 32⟩
/-- CC_MISSES.COUNT. -/
abbrev ccMissesCount : Fld := ⟨0, 32⟩
/-- CC_WBACKS.COUNT. -/
abbrev ccWbacksCount : Fld := ⟨0, 32⟩
/-- MEM_ERR.SRAM_UE. -/
abbrev memErrSramUe : Fld := ⟨0, 1⟩
/-- MEM_ERR.HBM_UE. -/
abbrev memErrHbmUe : Fld := ⟨1, 1⟩
/-- MEM_ERR.SCRUB_UE. -/
abbrev memErrScrubUe : Fld := ⟨2, 1⟩
/-- MEM_ERR.POISON_RD. -/
abbrev memErrPoisonRd : Fld := ⟨3, 1⟩
/-- MEM_ERR.BADADDR. -/
abbrev memErrBadaddr : Fld := ⟨4, 1⟩
/-- MEM_ERRCNT.EVENTS. -/
abbrev memErrcntEvents : Fld := ⟨0, 16⟩
/-- MEM_ERRCNT.UNIT. -/
abbrev memErrcntUnit : Fld := ⟨16, 16⟩
/-- MEM_ERRADDR.ADDR. -/
abbrev memErraddrAddr : Fld := ⟨0, 32⟩
/-- MEM_CECNT.SRAM. -/
abbrev memCecntSram : Fld := ⟨0, 12⟩
/-- MEM_CECNT.HBM. -/
abbrev memCecntHbm : Fld := ⟨12, 12⟩
/-- MEM_CECNT.REFETCH. -/
abbrev memCecntRefetch : Fld := ⟨24, 8⟩
/-- MEM_HOME.HOME. -/
abbrev memHomeHome : Fld := ⟨0, 4⟩
/-- MEM_HOME.MIRROR. -/
abbrev memHomeMirror : Fld := ⟨4, 4⟩
/-- MEM_HOME.MIRRORED. -/
abbrev memHomeMirrored : Fld := ⟨8, 1⟩
/-- SCR_CFG.EN. -/
abbrev scrCfgEn : Fld := ⟨0, 1⟩
/-- SCR_CFG.PERIOD. -/
abbrev scrCfgPeriod : Fld := ⟨1, 8⟩
/-- SCR_STAT.PASSES. -/
abbrev scrStatPasses : Fld := ⟨0, 16⟩
/-- SCR_STAT.UECNT. -/
abbrev scrStatUecnt : Fld := ⟨16, 16⟩
/-- SCR_POS.ADDR. -/
abbrev scrPosAddr : Fld := ⟨0, 32⟩
/-- MEM_FLIPSEL.TARGET. -/
abbrev memFlipselTarget : Fld := ⟨0, 12⟩
/-- MEM_FLIPSEL.KIND. -/
abbrev memFlipselKind : Fld := ⟨12, 1⟩
/-- MEM_FLIPSEL.ARM. -/
abbrev memFlipselArm : Fld := ⟨13, 1⟩
/-- MEM_FLIPLO.MASK. -/
abbrev memFliploMask : Fld := ⟨0, 32⟩
/-- MEM_FLIPHI.MASK. -/
abbrev memFliphiMask : Fld := ⟨0, 32⟩
/-- MEM_FLIPCHK.MASK. -/
abbrev memFlipchkMask : Fld := ⟨0, 8⟩
/-- MEM_REMAP.WORD. -/
abbrev memRemapWord : Fld := ⟨0, 16⟩
/-- MEM_REMAP.VALID. -/
abbrev memRemapValid : Fld := ⟨16, 1⟩
/-- PWR_STAT.VIN. -/
abbrev pwrStatVin : Fld := ⟨0, 16⟩
/-- PWR_STAT.VHU. -/
abbrev pwrStatVhu : Fld := ⟨16, 16⟩
/-- PWR_CFG.SAGV. -/
abbrev pwrCfgSagv : Fld := ⟨0, 10⟩
/-- PWR_CFG.FAILV. -/
abbrev pwrCfgFailv : Fld := ⟨10, 10⟩
/-- PWR_CFG.CLRV. -/
abbrev pwrCfgClrv : Fld := ⟨20, 10⟩
/-- PWR_CAP.SAGCAP. -/
abbrev pwrCapSagcap : Fld := ⟨0, 14⟩
/-- PWR_CAP.SAGT. -/
abbrev pwrCapSagt : Fld := ⟨14, 8⟩
/-- PWR_DIV.VINK. -/
abbrev pwrDivVink : Fld := ⟨0, 16⟩
/-- PWR_DIV.HUK. -/
abbrev pwrDivHuk : Fld := ⟨16, 16⟩
/-- PWR_EVT.SAG. -/
abbrev pwrEvtSag : Fld := ⟨0, 1⟩
/-- PWR_EVT.COMMIT. -/
abbrev pwrEvtCommit : Fld := ⟨1, 1⟩
/-- PWR_EVT.SHORT. -/
abbrev pwrEvtShort : Fld := ⟨2, 1⟩
/-- PWR_EVT.MEASFAIL. -/
abbrev pwrEvtMeasfail : Fld := ⟨3, 1⟩
/-- PWR_EVT.REPF. -/
abbrev pwrEvtRepf : Fld := ⟨4, 1⟩
/-- PWR_CNT.SAGS. -/
abbrev pwrCntSags : Fld := ⟨0, 16⟩
/-- PWR_CNT.COMMITS. -/
abbrev pwrCntCommits : Fld := ⟨16, 16⟩
/-- WU_CFG.TSTEP. -/
abbrev wuCfgTstep : Fld := ⟨0, 10⟩
/-- WU_CFG.EFF. -/
abbrev wuCfgEff : Fld := ⟨10, 7⟩
/-- WU_CFG.TTAIL. -/
abbrev wuCfgTtail : Fld := ⟨17, 10⟩
/-- WU_RLOAD.RLOAD. -/
abbrev wuRloadRload : Fld := ⟨0, 24⟩
/-- WU_VMIN.VMIN. -/
abbrev wuVminVmin : Fld := ⟨0, 16⟩
/-- WU_PWR.PRUN. -/
abbrev wuPwrPrun : Fld := ⟨0, 16⟩
/-- WU_PWR.PSAVE. -/
abbrev wuPwrPsave : Fld := ⟨16, 16⟩
/-- WU_SAVE.SBYTES. -/
abbrev wuSaveSbytes : Fld := ⟨0, 16⟩
/-- WU_SAVE.FLRATE. -/
abbrev wuSaveFlrate : Fld := ⟨16, 16⟩
/-- WU_MEAS.C. -/
abbrev wuMeasC : Fld := ⟨0, 24⟩
/-- WU_MEAS.VALID. -/
abbrev wuMeasValid : Fld := ⟨24, 1⟩
/-- WU_MEAS.BUSY. -/
abbrev wuMeasBusy : Fld := ⟨25, 1⟩
/-- WU_MEAS.START. -/
abbrev wuMeasStart : Fld := ⟨26, 1⟩
/-- WU_TDRAIN.TDRAIN. -/
abbrev wuTdrainTdrain : Fld := ⟨0, 16⟩
/-- WU_GRANT.GRANT. -/
abbrev wuGrantGrant : Fld := ⟨0, 24⟩
/-- WU_DEBIT.DEBIT. -/
abbrev wuDebitDebit : Fld := ⟨0, 24⟩
/-- PWR_RLOG.PENDING. -/
abbrev pwrRlogPending : Fld := ⟨0, 1⟩
/-- PWR_RLOG.ACK. -/
abbrev pwrRlogAck : Fld := ⟨1, 1⟩
/-- PWR_RLOG.OUTCOME. -/
abbrev pwrRlogOutcome : Fld := ⟨2, 2⟩
/-- PWR_THERM.TEMP. -/
abbrev pwrThermTemp : Fld := ⟨0, 16⟩
/-- PWR_THERM.THROTTLED. -/
abbrev pwrThermThrottled : Fld := ⟨16, 1⟩
/-- PWR_THERM.TRIP. -/
abbrev pwrThermTrip : Fld := ⟨17, 1⟩
/-- PWR_THERM.THEVT. -/
abbrev pwrThermThevt : Fld := ⟨18, 1⟩
/-- PWR_THCFG.THROT. -/
abbrev pwrThcfgThrot : Fld := ⟨0, 8⟩
/-- PWR_THCFG.TTRIP. -/
abbrev pwrThcfgTtrip : Fld := ⟨8, 8⟩
/-- PWR_THCFG.THCAP. -/
abbrev pwrThcfgThcap : Fld := ⟨16, 14⟩
/-- FLT_STAT.HEALTH. -/
abbrev fltStatHealth : Fld := ⟨0, 2⟩
/-- FLT_STAT.NEWPERM. -/
abbrev fltStatNewperm : Fld := ⟨2, 1⟩
/-- FLT_STAT.NEWESC. -/
abbrev fltStatNewesc : Fld := ⟨3, 1⟩
/-- FLT_STAT.LOGWRAP. -/
abbrev fltStatLogwrap : Fld := ⟨4, 1⟩
/-- FLT_STAT.NRET. -/
abbrev fltStatNret : Fld := ⟨16, 16⟩
/-- FLT_CNT.EVENTS. -/
abbrev fltCntEvents : Fld := ⟨0, 16⟩
/-- FLT_CNT.LASTUNIT. -/
abbrev fltCntLastunit : Fld := ⟨16, 16⟩
/-- FLT_CLS.M. -/
abbrev fltClsM : Fld := ⟨0, 4⟩
/-- FLT_CLS.RETRY. -/
abbrev fltClsRetry : Fld := ⟨4, 2⟩
/-- FLT_CLS.BACKOFF. -/
abbrev fltClsBackoff : Fld := ⟨6, 10⟩
/-- FLT_CLS.T. -/
abbrev fltClsT : Fld := ⟨16, 16⟩
/-- FLT_RET.UNIT. -/
abbrev fltRetUnit : Fld := ⟨0, 16⟩
/-- FLT_RET.CMD. -/
abbrev fltRetCmd : Fld := ⟨16, 2⟩
/-- FLT_BCAST.HALT. -/
abbrev fltBcastHalt : Fld := ⟨0, 8⟩
/-- TEL_CTRL.FREEZE. -/
abbrev telCtrlFreeze : Fld := ⟨0, 1⟩
/-- TEL_CTRL.DONE. -/
abbrev telCtrlDone : Fld := ⟨1, 1⟩
/-- TEL_CTRL.GEN. -/
abbrev telCtrlGen : Fld := ⟨16, 16⟩
/-- TEL_STAT.NCNT. -/
abbrev telStatNcnt : Fld := ⟨0, 14⟩
end Fld

/-- Registers of 01_architecture.md. -/
def regRows01a : List RRow := [
  -- GLB_ID
  ⟨0x0, [], .nobody,
    [⟨16, 16, .ro, 34066, 0, 65535, false, false⟩,
     ⟨12, 4, .ro, 0, 0, 15, false, false⟩,
     ⟨8, 4, .ro, 0, 0, 15, false, false⟩]⟩,
  -- GLB_CFG
  ⟨0x8, [], .nobody,
    [⟨0, 2, .ro, 0, 0, 3, false, false⟩,
     ⟨2, 1, .ro, 0, 0, 1, false, false⟩,
     ⟨8, 8, .ro, 0, 0, 255, false, true⟩,
     ⟨16, 8, .ro, 0, 0, 255, false, true⟩]⟩,
  -- GLB_CLKSTAT
  ⟨0x10, [], .nobody,
    [⟨0, 1, .ro, 0, 0, 1, false, false⟩,
     ⟨1, 1, .ro, 0, 0, 1, false, false⟩,
     ⟨2, 1, .ro, 0, 0, 1, false, false⟩,
     ⟨3, 1, .ro, 0, 0, 1, false, false⟩,
     ⟨4, 4, .ro, 0, 0, 15, false, false⟩,
     ⟨8, 2, .ro, 0, 0, 3, false, false⟩,
     ⟨10, 8, .ro, 0, 0, 255, false, false⟩,
     ⟨18, 2, .ro, 0, 0, 3, false, false⟩,
     ⟨20, 2, .ro, 0, 0, 3, false, false⟩,
     ⟨22, 1, .ro, 1, 0, 1, false, false⟩,
     ⟨23, 1, .ro, 0, 0, 1, false, false⟩,
     ⟨24, 1, .ro, 0, 0, 1, false, false⟩,
     ⟨25, 1, .ro, 0, 0, 1, false, false⟩]⟩,
  -- GLB_CDCERR
  ⟨0x14, [], .host,
    [⟨0, 1, .w1c, 0, 0, 1, false, false⟩,
     ⟨1, 1, .w1c, 0, 0, 1, false, false⟩,
     ⟨2, 1, .w1c, 0, 0, 1, false, false⟩]⟩,
  -- GLB_CDCCNT
  ⟨0x18, [], .host,
    [⟨0, 16, .rc, 0, 0, 65535, false, false⟩,
     ⟨16, 16, .ro, 65535, 0, 65535, false, false⟩]⟩]

/-- Registers of 02_rhoval_isa.md. -/
def regRows02a : List RRow := [
  -- TS_CTRL
  ⟨0x800000, [(8, 0x100000)], .dbgT,
    [⟨0, 1, .w1s, 0, 0, 1, true, false⟩,
     ⟨1, 1, .w1s, 0, 0, 1, true, false⟩,
     ⟨2, 1, .w1s, 0, 0, 1, true, false⟩,
     ⟨3, 1, .rw, 0, 0, 1, true, false⟩,
     ⟨4, 1, .w1s, 0, 0, 1, true, false⟩,
     ⟨5, 1, .rwl, 0, 0, 1, true, false⟩,
     ⟨6, 1, .w1s, 0, 0, 1, true, false⟩,
     ⟨31, 1, .w1s, 0, 0, 1, true, false⟩]⟩,
  -- TS_STAT
  ⟨0x800004, [(8, 0x100000)], .nobody,
    [⟨0, 3, .ro, 0, 0, 7, false, false⟩,
     ⟨3, 1, .ro, 0, 0, 1, false, false⟩,
     ⟨4, 1, .ro, 0, 0, 1, false, false⟩,
     ⟨5, 9, .ro, 0, 0, 511, false, false⟩]⟩,
  -- TS_PC
  ⟨0x800008, [(8, 0x100000)], .nobody,
    [⟨0, 16, .ro, 0, 0, 65535, false, false⟩]⟩,
  -- TS_EXC
  ⟨0x80000C, [(8, 0x100000)], .nobody,
    [⟨0, 6, .ro, 0, 0, 63, false, false⟩,
     ⟨16, 16, .ro, 0, 0, 65535, false, false⟩]⟩,
  -- TS_EVAL
  ⟨0x800010, [(8, 0x100000), (2, 0x4)], .nobody,
    [⟨0, 32, .ro, 0, 0, 4294967295, false, false⟩]⟩,
  -- TS_EVP
  ⟨0x800018, [(8, 0x100000), (2, 0x4)], .nobody,
    [⟨0, 32, .ro, 0, 0, 4294967295, false, false⟩]⟩,
  -- TS_EVPOST
  ⟨0x800020, [(8, 0x100000)], .dbgT,
    [⟨0, 8, .w1s, 0, 0, 255, true, false⟩]⟩,
  -- TS_IMG
  ⟨0x800024, [(8, 0x100000)], .nobody,
    [⟨0, 16, .ro, 0, 0, 65535, false, false⟩,
     ⟨16, 16, .ro, 0, 0, 65535, false, false⟩]⟩,
  -- TS_WDOG
  ⟨0x800028, [(8, 0x100000)], .host,
    [⟨0, 24, .rwl, 1024, 0, 16777215, true, false⟩]⟩,
  -- TS_FCNT
  ⟨0x80002C, [(8, 0x100000)], .host,
    [⟨0, 16, .rc, 0, 0, 65535, true, false⟩,
     ⟨16, 16, .rc, 0, 0, 65535, true, false⟩]⟩,
  -- TS_LOCKV
  ⟨0x800030, [(8, 0x100000)], .host,
    [⟨0, 16, .rc, 0, 0, 65535, true, false⟩]⟩]

/-- Registers of 04_write_and_verify.md. -/
def regRows04a : List RRow := [
  -- WL_STAT
  ⟨0x840000, [(8, 0x100000)], .nobody,
    [⟨0, 3, .ro, 0, 0, 7, false, false⟩,
     ⟨3, 1, .ro, 0, 0, 1, false, false⟩,
     ⟨4, 3, .ro, 0, 0, 7, false, false⟩]⟩,
  -- WL_CFG
  ⟨0x840004, [(8, 0x100000)], .host,
    [⟨0, 5, .rw, 4, 1, 31, false, false⟩,
     ⟨8, 8, .rw, 10, 1, 255, false, false⟩]⟩,
  -- WL_FREQ
  ⟨0x840008, [(8, 0x100000)], .nobody,
    [⟨0, 32, .ro, 0, 0, 4294967295, false, false⟩]⟩,
  -- WL_CNT
  ⟨0x84000C, [(8, 0x100000)], .host,
    [⟨0, 16, .rc, 0, 0, 65535, true, false⟩,
     ⟨16, 16, .rc, 0, 0, 65535, true, false⟩]⟩,
  -- WL_LDLY
  ⟨0x840100, [(8, 0x100000), (64, 0x4)], .host,
    [⟨0, 8, .rw, 0, 0, 255, false, true⟩]⟩,
  -- VFY_CFG
  ⟨0x850000, [(8, 0x100000)], .host,
    [⟨0, 4, .rw, 3, 1, 12, false, false⟩,
     ⟨4, 10, .rw, 9, 1, 1023, false, false⟩,
     ⟨14, 1, .rw, 0, 0, 1, false, false⟩,
     ⟨15, 1, .rw, 0, 0, 1, false, false⟩,
     ⟨16, 4, .rw, 4, 0, 15, true, false⟩]⟩,
  -- VFY_LAG
  ⟨0x850004, [(8, 0x100000)], .host,
    [⟨0, 16, .rw, 0, 500, 3000, false, true⟩,
     ⟨16, 16, .rw, 0, 500, 3000, false, true⟩]⟩,
  -- VFY_CWPASS
  ⟨0x850008, [(8, 0x100000), (2, 0x4)], .nobody,
    [⟨0, 32, .ro, 0, 0, 4294967295, false, false⟩]⟩,
  -- VFY_CWFAIL
  ⟨0x850010, [(8, 0x100000), (2, 0x4)], .nobody,
    [⟨0, 32, .ro, 0, 0, 4294967295, false, false⟩]⟩,
  -- VFY_INC
  ⟨0x850018, [(8, 0x100000)], .nobody,
    [⟨0, 14, .ro, 0, 0, 16383, false, false⟩,
     ⟨14, 8, .ro, 0, 0, 255, false, false⟩,
     ⟨22, 6, .ro, 0, 0, 63, false, false⟩]⟩,
  -- VFY_INCDS
  ⟨0x85001C, [(8, 0x100000)], .nobody,
    [⟨0, 32, .ro, 4294967295, 0, 4294967295, false, false⟩]⟩,
  -- VFY_LFCFG
  ⟨0x850020, [(8, 0x100000)], .host,
    [⟨0, 8, .rw, 16, 1, 255, false, false⟩,
     ⟨8, 4, .rw, 4, 1, 15, false, false⟩,
     ⟨12, 16, .rw, 256, 1, 65535, false, false⟩,
     ⟨28, 4, .rw, 8, 2, 15, false, false⟩]⟩]

/-- Registers of 04_write_and_verify.md. -/
def regRows04b : List RRow := [
  -- VFY_MEDIA
  ⟨0x850024, [(8, 0x100000)], .host,
    [⟨0, 16, .rc, 0, 0, 65535, true, false⟩]⟩,
  -- VFY_LANECMD
  ⟨0x850028, [(8, 0x100000)], .dbgT,
    [⟨0, 6, .wo, 0, 0, 63, true, false⟩,
     ⟨8, 2, .wo, 0, 0, 3, true, false⟩]⟩,
  -- VFY_LANE
  ⟨0x850100, [(8, 0x100000), (64, 0x4)], .host,
    [⟨0, 4, .ro, 0, 0, 15, true, false⟩,
     ⟨4, 1, .ro, 0, 0, 1, true, false⟩,
     ⟨5, 1, .ro, 0, 0, 1, true, true⟩,
     ⟨6, 2, .ro, 0, 0, 3, true, true⟩,
     ⟨8, 8, .ro, 0, 0, 255, true, false⟩,
     ⟨16, 16, .rc, 0, 0, 65535, true, false⟩]⟩,
  -- RWQ_STAT
  ⟨0x860000, [(8, 0x100000)], .nobody,
    [⟨0, 16, .ro, 0, 0, 65535, false, false⟩,
     ⟨16, 8, .ro, 0, 0, 255, false, false⟩]⟩,
  -- RWQ_CNT
  ⟨0x860004, [(8, 0x100000)], .host,
    [⟨0, 16, .rc, 0, 0, 65535, true, false⟩,
     ⟨16, 16, .rc, 0, 0, 65535, true, false⟩]⟩]

/-- Registers of 05_read_channel.md. -/
def regRows05a : List RRow := [
  -- RC_MODE
  ⟨0x1000000, [(2, 0x400000), (4, 0x80000)], .dbgT,
    [⟨0, 2, .rw, 0, 0, 3, true, false⟩]⟩,
  -- RC_ZCTL
  ⟨0x1000004, [(2, 0x400000), (4, 0x80000)], .dbgT,
    [⟨0, 23, .rw, 0, 0, 8388607, false, false⟩,
     ⟨23, 1, .rw, 1, 0, 1, true, false⟩,
     ⟨24, 4, .rw, 4, 1, 12, false, false⟩,
     ⟨28, 1, .rw, 0, 0, 1, false, false⟩,
     ⟨29, 1, .rw, 0, 0, 1, false, false⟩]⟩,
  -- RC_ACQ
  ⟨0x1000008, [(2, 0x400000), (4, 0x80000)], .dbgT,
    [⟨0, 4, .rw, 3, 0, 15, false, false⟩,
     ⟨4, 4, .rw, 8, 0, 15, false, false⟩,
     ⟨8, 4, .rw, 6, 0, 15, false, false⟩,
     ⟨12, 4, .rw, 8, 0, 15, false, false⟩,
     ⟨16, 4, .rw, 4, 0, 15, false, false⟩,
     ⟨20, 4, .rw, 9, 0, 15, false, false⟩,
     ⟨24, 4, .rw, 10, 0, 15, false, false⟩,
     ⟨28, 4, .rw, 6, 0, 15, false, false⟩]⟩,
  -- RC_SYNC
  ⟨0x100000C, [(2, 0x400000), (4, 0x80000)], .dbgT,
    [⟨0, 6, .rw, 8, 0, 20, false, false⟩,
     ⟨6, 6, .rw, 4, 0, 12, false, false⟩,
     ⟨12, 3, .rw, 3, 0, 7, false, false⟩,
     ⟨15, 3, .rw, 3, 0, 7, false, false⟩]⟩,
  -- RC_LLR
  ⟨0x1000010, [(2, 0x400000), (4, 0x80000)], .dbgT,
    [⟨0, 8, .rw, 8, 1, 255, false, false⟩]⟩,
  -- RC_ZDEF
  ⟨0x1000014, [(2, 0x400000), (4, 0x80000)], .dbgT,
    [⟨0, 29, .rw, 0, 0, 536870911, false, true⟩]⟩,
  -- RC_CAL
  ⟨0x1000018, [(2, 0x400000), (4, 0x80000)], .dbgT,
    [⟨0, 16, .rw, 0, 0, 65535, false, true⟩,
     ⟨16, 2, .ro, 0, 0, 3, false, false⟩,
     ⟨18, 1, .ro, 0, 0, 1, false, false⟩]⟩,
  -- RC_CALRES
  ⟨0x1000020, [(2, 0x400000), (4, 0x80000), (2, 0x4)], .nobody,
    [⟨0, 32, .ro, 0, 0, 4294967295, false, false⟩]⟩,
  -- RC_LSTAT
  ⟨0x1000100, [(2, 0x400000), (4, 0x80000), (64, 0x4)], .nobody,
    [⟨0, 1, .ro, 0, 0, 1, false, false⟩,
     ⟨1, 5, .ro, 0, 0, 31, false, false⟩,
     ⟨6, 2, .ro, 0, 0, 3, false, false⟩,
     ⟨8, 1, .ro, 0, 0, 1, false, false⟩,
     ⟨9, 6, .ro, 0, 0, 63, false, true⟩]⟩,
  -- RC_LCNT
  ⟨0x1000200, [(2, 0x400000), (4, 0x80000), (64, 0x4)], .dbgT,
    [⟨0, 8, .rc, 0, 0, 255, true, false⟩,
     ⟨8, 8, .rc, 0, 0, 255, true, false⟩,
     ⟨16, 8, .rc, 0, 0, 255, true, false⟩,
     ⟨24, 8, .rc, 0, 0, 255, true, false⟩]⟩,
  -- SV_CFG
  ⟨0x1060000, [(2, 0x400000), (4, 0x80000)], .dbgT,
    [⟨0, 12, .rw, 512, 0, 4095, false, false⟩]⟩,
  -- SV_K
  ⟨0x1060004, [(2, 0x400000), (4, 0x80000)], .dbgT,
    [⟨0, 24, .rw, 0, 0, 16777215, false, true⟩]⟩]

/-- Registers of 05_read_channel.md. -/
def regRows05b : List RRow := [
  -- SV_OFFA
  ⟨0x1060008, [(2, 0x400000), (4, 0x80000)], .dbgT,
    [⟨0, 24, .rw, 0, 0, 16777215, false, true⟩]⟩,
  -- SV_OFFB
  ⟨0x106000C, [(2, 0x400000), (4, 0x80000)], .dbgT,
    [⟨0, 24, .rw, 0, 0, 16777215, false, true⟩]⟩,
  -- SV_BOW0
  ⟨0x1060010, [(2, 0x400000), (4, 0x80000)], .dbgT,
    [⟨0, 23, .rw, 0, 0, 8388607, false, true⟩]⟩,
  -- SV_BOW1
  ⟨0x1060014, [(2, 0x400000), (4, 0x80000)], .dbgT,
    [⟨0, 23, .rw, 0, 0, 8388607, false, true⟩]⟩,
  -- SV_STAT
  ⟨0x1060018, [(2, 0x400000), (4, 0x80000)], .dbgT,
    [⟨0, 16, .rc, 0, 0, 65535, true, false⟩,
     ⟨16, 16, .rc, 0, 0, 65535, true, false⟩]⟩,
  -- RC_LDPC
  ⟨0x1200000, [(2, 0x400000)], .chip,
    [⟨0, 10, .rw, 200, 1, 768, true, false⟩]⟩,
  -- RC_ENG
  ⟨0x1200100, [(2, 0x400000), (32, 0x4)], .chip,
    [⟨0, 1, .rw, 0, 0, 1, true, true⟩,
     ⟨1, 9, .ro, 8, 0, 511, true, false⟩,
     ⟨16, 16, .rc, 0, 0, 65535, true, false⟩]⟩,
  -- RC_CAPLANE
  ⟨0x1210000, [(2, 0x400000), (4, 0x10)], .chip,
    [⟨0, 9, .rw, 0, 0, 263, false, false⟩,
     ⟨9, 2, .rw, 0, 0, 3, false, false⟩,
     ⟨11, 1, .w1s, 0, 0, 1, false, false⟩]⟩,
  -- RC_CAPTOK
  ⟨0x1210004, [(2, 0x400000), (4, 0x10)], .chip,
    [⟨0, 32, .rw, 0, 0, 4294967295, false, false⟩]⟩,
  -- RC_CAPLEN
  ⟨0x1210008, [(2, 0x400000), (4, 0x10)], .chip,
    [⟨0, 24, .rw, 0, 4096, 8388608, false, false⟩,
     ⟨24, 8, .rw, 0, 0, 255, false, false⟩]⟩,
  -- RC_CAPSTAT
  ⟨0x121000C, [(2, 0x400000), (4, 0x10)], .nobody,
    [⟨0, 23, .ro, 0, 0, 8388607, false, false⟩,
     ⟨23, 1, .ro, 0, 0, 1, false, false⟩,
     ⟨24, 1, .ro, 0, 0, 1, false, false⟩]⟩]

/-- Registers of 06_compression.md. -/
def regRows06a : List RRow := [
  -- CZ_CFG
  ⟨0x600000, [], .firmware,
    [⟨0, 9, .rw, 16, 1, 256, true, false⟩,
     ⟨9, 1, .rw, 1, 0, 1, true, false⟩,
     ⟨16, 16, .rw, 64, 0, 65535, true, false⟩]⟩,
  -- CZ_HIDLE
  ⟨0x600004, [], .firmware,
    [⟨0, 16, .rw, 100, 0, 65535, true, false⟩]⟩,
  -- DZ_GUARD
  ⟨0x600008, [], .firmware,
    [⟨0, 16, .rw, 1032, 1, 65535, true, false⟩]⟩,
  -- CODEC_CTXBASE
  ⟨0x60000C, [], .nobody,
    [⟨0, 32, .ro, 0, 0, 4294967295, false, true⟩]⟩,
  -- CODEC_ERR
  ⟨0x600010, [], .firmware,
    [⟨0, 1, .w1c, 0, 0, 1, true, false⟩,
     ⟨1, 1, .w1c, 0, 0, 1, true, false⟩,
     ⟨2, 1, .w1c, 0, 0, 1, true, false⟩,
     ⟨3, 1, .w1c, 0, 0, 1, true, false⟩,
     ⟨4, 1, .w1c, 0, 0, 1, true, false⟩,
     ⟨5, 1, .w1c, 0, 0, 1, true, false⟩,
     ⟨6, 1, .w1c, 0, 0, 1, true, false⟩,
     ⟨7, 1, .w1c, 0, 0, 1, true, false⟩]⟩,
  -- CODEC_ERRCNT
  ⟨0x600014, [], .firmware,
    [⟨0, 16, .rc, 0, 0, 65535, true, false⟩,
     ⟨16, 16, .ro, 65535, 0, 65535, true, false⟩]⟩,
  -- CZ_NSTORED
  ⟨0x600020, [(2, 0x4)], .nobody,
    [⟨0, 32, .ro, 0, 0, 4294967295, false, false⟩]⟩,
  -- CZ_NSTATIC
  ⟨0x600028, [(2, 0x4)], .nobody,
    [⟨0, 32, .ro, 0, 0, 4294967295, false, false⟩]⟩,
  -- CZ_NDYN
  ⟨0x600030, [(2, 0x4)], .nobody,
    [⟨0, 32, .ro, 0, 0, 4294967295, false, false⟩]⟩,
  -- CZ_BIN
  ⟨0x600038, [(2, 0x4)], .nobody,
    [⟨0, 32, .ro, 0, 0, 4294967295, false, false⟩]⟩,
  -- CZ_BOUT
  ⟨0x600040, [(2, 0x4)], .nobody,
    [⟨0, 32, .ro, 0, 0, 4294967295, false, false⟩]⟩,
  -- CODEC_ENG
  ⟨0x600100, [(64, 0x4)], .firmware,
    [⟨0, 1, .rw, 0, 0, 1, true, true⟩,
     ⟨1, 1, .ro, 0, 0, 1, true, false⟩,
     ⟨2, 1, .ro, 0, 0, 1, true, false⟩,
     ⟨16, 16, .ro, 65535, 0, 65535, true, false⟩]⟩]

/-- Registers of 06_compression.md. -/
def regRows06b : List RRow := [
  -- CODEC_OQBASE
  ⟨0x601000, [(2, 0x4)], .host,
    [⟨0, 32, .rw, 0, 0, 4294967295, true, false⟩]⟩,
  -- CODEC_OQCFG
  ⟨0x601008, [], .host,
    [⟨0, 1, .rw, 0, 0, 1, true, false⟩,
     ⟨1, 5, .rw, 4, 4, 16, true, false⟩,
     ⟨16, 11, .rw, 0, 0, 2047, true, false⟩]⟩,
  -- CODEC_OQTAIL
  ⟨0x60100C, [], .host,
    [⟨0, 16, .rw, 0, 0, 65535, true, false⟩]⟩,
  -- CODEC_OQHEAD
  ⟨0x601010, [], .nobody,
    [⟨0, 16, .ro, 0, 0, 65535, false, false⟩]⟩]

/-- Registers of 07_toybox_and_yoyo.md. -/
def regRows07a : List RRow := [
  -- TBX_CTRL
  ⟨0x400000, [], .dbg0,
    [⟨0, 1, .rwl, 0, 0, 1, true, false⟩,
     ⟨1, 1, .ro, 0, 0, 1, true, false⟩,
     ⟨31, 1, .w1s, 0, 0, 1, true, false⟩]⟩,
  -- TBX_NBUF
  ⟨0x400010, [(4, 0x4)], .dbg0,
    [⟨0, 20, .rwl, 0, 0, 1048575, true, true⟩]⟩,
  -- TBX_QUOTA
  ⟨0x400020, [(8, 0x4)], .dbg0,
    [⟨0, 16, .rw, 0, 0, 65535, true, true⟩,
     ⟨16, 16, .ro, 0, 0, 65535, true, false⟩]⟩,
  -- TBX_FREE
  ⟨0x400040, [(4, 0x4)], .nobody,
    [⟨0, 24, .ro, 0, 0, 16777215, false, false⟩]⟩,
  -- TBX_FBCNT
  ⟨0x400050, [(4, 0x4)], .dbg0,
    [⟨0, 16, .rc, 0, 0, 65535, true, false⟩,
     ⟨16, 8, .ro, 0, 0, 255, true, false⟩]⟩,
  -- TBX_ERR
  ⟨0x400060, [], .dbg0,
    [⟨0, 1, .w1c, 0, 0, 1, true, false⟩,
     ⟨1, 1, .w1c, 0, 0, 1, true, false⟩,
     ⟨2, 1, .w1c, 0, 0, 1, true, false⟩,
     ⟨3, 1, .w1c, 0, 0, 1, true, false⟩,
     ⟨4, 1, .w1c, 0, 0, 1, true, false⟩,
     ⟨5, 1, .w1c, 0, 0, 1, true, false⟩]⟩,
  -- TBX_ERRCNT
  ⟨0x400064, [], .dbg0,
    [⟨0, 16, .rc, 0, 0, 65535, true, false⟩,
     ⟨16, 4, .ro, 15, 0, 15, true, false⟩]⟩,
  -- TBX_ERRTOK
  ⟨0x400068, [], .nobody,
    [⟨0, 32, .ro, 0, 0, 4294967295, false, false⟩]⟩,
  -- TBX_GRPRET
  ⟨0x400070, [], .nobody,
    [⟨0, 16, .ro, 0, 0, 65535, false, true⟩]⟩,
  -- TBX_WAITCLR
  ⟨0x400074, [], .dbg0,
    [⟨0, 4, .wo, 0, 0, 15, true, false⟩]⟩,
  -- TBX_INSPID
  ⟨0x400080, [], .dbg0,
    [⟨0, 24, .wo, 0, 0, 16777215, true, false⟩]⟩,
  -- TBX_INSP
  ⟨0x400084, [(4, 0x4)], .nobody,
    [⟨0, 32, .ro, 0, 0, 4294967295, false, false⟩]⟩]

/-- Registers of 07_toybox_and_yoyo.md. -/
def regRows07b : List RRow := [
  -- YY_LAW
  ⟨0x410000, [(8, 0x100)], .dbgT,
    [⟨0, 16, .rw, 0, 0, 65535, true, true⟩,
     ⟨16, 16, .rw, 0, 0, 65535, true, true⟩]⟩,
  -- YY_PAUSE
  ⟨0x410004, [(8, 0x100)], .dbgT,
    [⟨0, 8, .rw, 4, 0, 255, true, false⟩,
     ⟨8, 16, .rw, 128, 0, 65535, true, false⟩,
     ⟨24, 8, .rw, 20, 0, 255, true, false⟩]⟩,
  -- YY_LIM
  ⟨0x410008, [(8, 0x100)], .dbgT,
    [⟨0, 14, .rw, 2500, 0, 16383, true, false⟩,
     ⟨14, 14, .rw, 0, 0, 16383, true, true⟩]⟩,
  -- YY_SLEW
  ⟨0x41000C, [(8, 0x100)], .dbgT,
    [⟨0, 12, .rw, 10, 1, 4095, true, false⟩,
     ⟨12, 12, .rw, 100, 0, 4095, true, false⟩,
     ⟨24, 8, .rw, 50, 0, 255, true, false⟩]⟩,
  -- YY_CAP
  ⟨0x410010, [(8, 0x100)], .nobody,
    [⟨0, 14, .ro, 10000, 0, 16383, false, false⟩]⟩,
  -- YY_FILL
  ⟨0x410014, [(8, 0x100)], .nobody,
    [⟨0, 32, .ro, 0, 0, 4294967295, false, false⟩]⟩,
  -- YY_STAT
  ⟨0x410018, [(8, 0x100)], .nobody,
    [⟨0, 14, .ro, 0, 0, 16383, false, false⟩,
     ⟨14, 3, .ro, 0, 0, 7, false, false⟩,
     ⟨17, 1, .ro, 0, 0, 1, false, false⟩,
     ⟨18, 1, .ro, 0, 0, 1, false, false⟩]⟩,
  -- YY_SPD
  ⟨0x41001C, [(8, 0x100)], .nobody,
    [⟨0, 16, .ro, 0, 0, 65535, false, false⟩]⟩,
  -- YY_OUT
  ⟨0x410020, [(8, 0x100)], .dbgT,
    [⟨0, 1, .rw, 0, 0, 1, true, false⟩]⟩,
  -- YY_CNT
  ⟨0x410024, [(8, 0x100)], .dbgT,
    [⟨0, 16, .rc, 0, 0, 65535, true, false⟩,
     ⟨16, 16, .rc, 0, 0, 65535, true, false⟩]⟩]

/-- Registers of 08_marionette.md. -/
def regRows08a : List RRow := [
  -- MC_GSTAT
  ⟨0x1800000, [], .nobody,
    [⟨0, 10, .ro, 0, 0, 1023, false, false⟩,
     ⟨16, 16, .ro, 0, 0, 65535, false, false⟩]⟩,
  -- MC_TCTL
  ⟨0x1801000, [(8, 0x100)], .dbgT,
    [⟨0, 3, .wo, 0, 0, 7, true, false⟩]⟩,
  -- MC_TSTAT
  ⟨0x1801004, [(8, 0x100)], .nobody,
    [⟨0, 3, .ro, 0, 0, 7, false, false⟩,
     ⟨3, 1, .ro, 0, 0, 1, false, false⟩,
     ⟨4, 2, .ro, 0, 0, 3, false, false⟩,
     ⟨6, 1, .ro, 0, 0, 1, false, false⟩,
     ⟨7, 4, .ro, 0, 0, 15, false, false⟩,
     ⟨11, 2, .ro, 0, 0, 3, false, false⟩]⟩,
  -- MC_VEL
  ⟨0x1801008, [(8, 0x100)], .nobody,
    [⟨0, 32, .ro, 0, 0, 4294967295, false, false⟩]⟩,
  -- MC_ACCEL
  ⟨0x180100C, [(8, 0x100)], .dbgT,
    [⟨0, 6, .rw, 30, 5, 60, true, false⟩,
     ⟨6, 6, .rw, 30, 30, 60, true, false⟩,
     ⟨12, 14, .rw, 0, 0, 16383, true, true⟩]⟩,
  -- MC_TENS
  ⟨0x1801010, [(8, 0x100)], .dbgT,
    [⟨0, 16, .rw, 0, 0, 65535, true, true⟩]⟩,
  -- MC_TWIN
  ⟨0x1801014, [(8, 0x100)], .dbgT,
    [⟨0, 16, .rw, 0, 0, 65535, true, true⟩,
     ⟨16, 16, .rw, 0, 0, 65535, true, true⟩]⟩,
  -- MC_SUP
  ⟨0x1801018, [(8, 0x100)], .dbgT,
    [⟨0, 8, .rw, 20, 0, 255, true, false⟩,
     ⟨8, 8, .rw, 64, 1, 255, true, false⟩]⟩,
  -- MC_RUNUP
  ⟨0x180101C, [(8, 0x100)], .dbgT,
    [⟨0, 23, .ro, 0, 0, 8388607, true, false⟩,
     ⟨23, 9, .rc, 0, 0, 511, true, false⟩]⟩,
  -- MC_ENC
  ⟨0x1801020, [(8, 0x100)], .dbgT,
    [⟨0, 16, .rw, 0, 0, 65535, true, true⟩,
     ⟨16, 16, .rw, 0, 0, 65535, true, true⟩]⟩,
  -- MC_RAD
  ⟨0x1801024, [(8, 0x100)], .dbgT,
    [⟨0, 16, .rw, 0, 0, 65535, true, true⟩,
     ⟨16, 16, .rw, 0, 0, 65535, true, true⟩]⟩,
  -- MC_NWRAP
  ⟨0x1801028, [(8, 0x100)], .dbgT,
    [⟨0, 10, .rw, 0, 1, 512, true, true⟩]⟩]

/-- Registers of 08_marionette.md. -/
def regRows08b : List RRow := [
  -- MC_TURNCFG
  ⟨0x180102C, [(8, 0x100)], .dbgT,
    [⟨0, 16, .rw, 64, 0, 65535, true, false⟩,
     ⟨16, 16, .rw, 51, 0, 65535, true, false⟩]⟩,
  -- MC_TCNT
  ⟨0x1801030, [(8, 0x100)], .dbgT,
    [⟨0, 16, .rc, 0, 0, 65535, true, false⟩]⟩,
  -- MC_RC
  ⟨0x1801034, [(8, 0x100), (2, 0x4)], .dbgT,
    [⟨0, 1, .rw, 0, 0, 1, true, false⟩,
     ⟨1, 1, .w1s, 0, 0, 1, true, false⟩,
     ⟨2, 3, .rw, 0, 0, 7, true, true⟩,
     ⟨5, 10, .ro, 0, 0, 1023, true, false⟩]⟩,
  -- MC_LCTL
  ⟨0x1804000, [(8, 0x100), (4, 0x40)], .dbgT,
    [⟨0, 2, .rw, 0, 0, 2, true, false⟩,
     ⟨2, 1, .rw, 0, 0, 1, true, false⟩,
     ⟨3, 1, .rw, 0, 0, 1, true, true⟩]⟩,
  -- MC_LSTAT
  ⟨0x1804004, [(8, 0x100), (4, 0x40)], .dbgT,
    [⟨0, 1, .ro, 0, 0, 1, true, false⟩,
     ⟨1, 1, .ro, 0, 0, 1, true, false⟩,
     ⟨2, 1, .w1c, 0, 0, 1, true, false⟩,
     ⟨3, 1, .ro, 0, 0, 1, true, false⟩,
     ⟨4, 1, .ro, 0, 0, 1, true, false⟩,
     ⟨5, 1, .ro, 0, 0, 1, true, false⟩,
     ⟨6, 1, .ro, 0, 0, 1, true, false⟩,
     ⟨7, 1, .ro, 0, 0, 1, true, false⟩,
     ⟨16, 16, .ro, 0, 0, 65535, true, false⟩]⟩,
  -- MC_MAN
  ⟨0x1804008, [(8, 0x100), (4, 0x40)], .dbgT,
    [⟨0, 32, .rw, 0, 0, 4294967295, true, false⟩]⟩,
  -- MC_CMDV
  ⟨0x180400C, [(8, 0x100), (4, 0x40)], .nobody,
    [⟨0, 32, .ro, 0, 0, 4294967295, false, false⟩]⟩,
  -- MC_FE
  ⟨0x1804010, [(8, 0x100), (4, 0x40)], .dbgT,
    [⟨0, 32, .rw, 0, 0, 4294967295, true, true⟩]⟩,
  -- MC_FET
  ⟨0x1804014, [(8, 0x100), (4, 0x40)], .dbgT,
    [⟨0, 16, .rw, 0, 0, 65535, true, true⟩,
     ⟨16, 16, .ro, 0, 0, 65535, true, false⟩]⟩,
  -- MC_OVCNT
  ⟨0x1804018, [(8, 0x100), (4, 0x40)], .dbgT,
    [⟨0, 16, .rc, 0, 0, 65535, true, false⟩,
     ⟨16, 2, .ro, 0, 0, 3, true, false⟩]⟩,
  -- MC_RLYCH
  ⟨0x180401C, [(8, 0x100), (4, 0x40)], .dbgT,
    [⟨0, 4, .rw, 0, 0, 15, true, false⟩,
     ⟨4, 4, .rw, 0, 0, 15, true, false⟩]⟩,
  -- MC_RLYD
  ⟨0x1804020, [(8, 0x100), (4, 0x40)], .dbgT,
    [⟨0, 32, .rw, 0, 0, 4294967295, true, false⟩]⟩]

/-- Registers of 08_marionette.md. -/
def regRows08c : List RRow := [
  -- MC_RLYH
  ⟨0x1804024, [(8, 0x100), (4, 0x40)], .dbgT,
    [⟨0, 32, .rw, 0, 0, 4294967295, true, false⟩]⟩,
  -- MC_RLYB
  ⟨0x1804028, [(8, 0x100), (4, 0x40)], .dbgT,
    [⟨0, 32, .rw, 0, 0, 4294967295, true, false⟩]⟩,
  -- MC_RLYST
  ⟨0x180402C, [(8, 0x100), (4, 0x40)], .dbgT,
    [⟨0, 16, .rc, 0, 0, 65535, true, false⟩]⟩,
  -- MC_INJ
  ⟨0x1800200, [], .dbgLoop,
    [⟨0, 5, .rw, 0, 0, 31, true, false⟩,
     ⟨5, 1, .rw, 0, 0, 1, true, false⟩,
     ⟨6, 4, .rw, 0, 0, 15, true, false⟩,
     ⟨10, 2, .rw, 0, 0, 3, true, false⟩,
     ⟨12, 1, .w1s, 0, 0, 1, true, false⟩,
     ⟨13, 1, .ro, 0, 0, 1, true, false⟩]⟩,
  -- MC_INJAMP
  ⟨0x1800204, [], .dbgLoop,
    [⟨0, 32, .rw, 0, 0, 4294967295, true, false⟩]⟩,
  -- MC_INJF0
  ⟨0x1800208, [], .dbgLoop,
    [⟨0, 32, .rw, 0, 0, 4294967295, true, false⟩]⟩,
  -- MC_INJF1
  ⟨0x180020C, [], .dbgLoop,
    [⟨0, 32, .rw, 0, 0, 4294967295, true, false⟩]⟩,
  -- MC_INJDUR
  ⟨0x1800210, [], .dbgLoop,
    [⟨0, 24, .rw, 0, 0, 16777215, true, false⟩,
     ⟨24, 8, .rw, 1, 1, 255, true, false⟩]⟩,
  -- MC_CAP
  ⟨0x1800220, [], .dbgLoop,
    [⟨0, 5, .rw, 0, 0, 31, true, false⟩,
     ⟨5, 5, .rw, 0, 0, 31, true, false⟩,
     ⟨10, 5, .rw, 0, 0, 31, true, false⟩,
     ⟨15, 5, .rw, 0, 0, 31, true, false⟩,
     ⟨20, 1, .w1s, 0, 0, 1, true, false⟩,
     ⟨21, 1, .rw, 0, 0, 1, true, false⟩,
     ⟨22, 1, .ro, 0, 0, 1, true, false⟩]⟩,
  -- MC_CAPCNT
  ⟨0x1800224, [], .nobody,
    [⟨0, 15, .ro, 0, 0, 32767, false, false⟩]⟩]

/-- Registers of 09_host_interface.md. -/
def regRows09a : List RRow := [
  -- HIF_STAT
  ⟨0x100000, [], .nobody,
    [⟨0, 2, .ro, 0, 0, 3, false, false⟩,
     ⟨2, 1, .ro, 0, 0, 1, false, false⟩,
     ⟨3, 1, .ro, 0, 0, 1, false, false⟩,
     ⟨4, 4, .ro, 0, 0, 15, false, false⟩]⟩,
  -- HIF_PSCFG
  ⟨0x100004, [], .host,
    [⟨0, 16, .rw, 10, 0, 65535, true, false⟩]⟩,
  -- HIF_PSCFG2
  ⟨0x100008, [], .host,
    [⟨0, 16, .rw, 0, 0, 65535, true, false⟩,
     ⟨16, 16, .rw, 0, 0, 65535, true, false⟩]⟩,
  -- HIF_NOTICE
  ⟨0x10000C, [], .host,
    [⟨0, 10, .rw, 0, 0, 1023, true, false⟩,
     ⟨15, 1, .rw, 0, 0, 1, true, false⟩,
     ⟨16, 7, .ro, 0, 0, 127, true, false⟩,
     ⟨23, 1, .w1c, 0, 0, 1, true, false⟩]⟩,
  -- HIF_STCFG
  ⟨0x100010, [], .host,
    [⟨0, 16, .rw, 100, 0, 65535, true, false⟩]⟩,
  -- HIF_ERR
  ⟨0x100014, [], .host,
    [⟨0, 1, .w1c, 0, 0, 1, true, false⟩,
     ⟨1, 1, .w1c, 0, 0, 1, true, false⟩,
     ⟨2, 1, .w1c, 0, 0, 1, true, false⟩,
     ⟨3, 1, .w1c, 0, 0, 1, true, false⟩,
     ⟨4, 1, .w1c, 0, 0, 1, true, false⟩]⟩,
  -- HIF_ERRCNT
  ⟨0x100018, [], .host,
    [⟨0, 16, .rc, 0, 0, 65535, true, false⟩,
     ⟨16, 10, .ro, 0, 0, 1023, true, false⟩]⟩,
  -- HIF_SQBASE
  ⟨0x108000, [(1024, 0x20), (2, 0x4)], .host,
    [⟨0, 32, .rw, 0, 0, 4294967295, true, false⟩]⟩,
  -- HIF_CQBASE
  ⟨0x108008, [(1024, 0x20), (2, 0x4)], .host,
    [⟨0, 32, .rw, 0, 0, 4294967295, true, false⟩]⟩,
  -- HIF_QCFG
  ⟨0x108010, [(1024, 0x20)], .host,
    [⟨0, 5, .rw, 4, 4, 16, true, false⟩,
     ⟨5, 5, .rw, 4, 4, 16, true, false⟩,
     ⟨10, 11, .rw, 0, 0, 2047, true, false⟩,
     ⟨21, 1, .rw, 0, 0, 1, true, false⟩,
     ⟨22, 1, .ro, 0, 0, 1, true, false⟩,
     ⟨31, 1, .rw, 0, 0, 1, true, false⟩]⟩,
  -- HIF_QCOAL
  ⟨0x108014, [(1024, 0x20)], .host,
    [⟨0, 8, .rw, 0, 0, 255, true, false⟩,
     ⟨8, 16, .rw, 0, 0, 65535, true, false⟩]⟩,
  -- HIF_QSTAT
  ⟨0x108018, [(1024, 0x20)], .host,
    [⟨0, 1, .ro, 0, 0, 1, true, false⟩,
     ⟨1, 1, .w1c, 0, 0, 1, true, false⟩,
     ⟨2, 1, .ro, 0, 0, 1, true, false⟩,
     ⟨3, 2, .ro, 0, 0, 3, true, false⟩,
     ⟨16, 16, .ro, 0, 0, 65535, true, false⟩]⟩]

/-- Registers of 09_host_interface.md. -/
def regRows09b : List RRow := [
  -- HIF_SQTDB
  ⟨0x200000, [(1024, 0x8)], .host,
    [⟨0, 16, .wo, 0, 0, 65535, true, false⟩]⟩,
  -- HIF_CQHDB
  ⟨0x200004, [(1024, 0x8)], .host,
    [⟨0, 16, .wo, 0, 0, 65535, true, false⟩]⟩,
  -- MBX_SUB
  ⟨0x1E00000, [(16, 0x4)], .host,
    [⟨0, 32, .rw, 0, 0, 4294967295, true, false⟩]⟩,
  -- MBX_CPL
  ⟨0x1E00040, [(4, 0x4)], .nobody,
    [⟨0, 32, .ro, 0, 0, 4294967295, false, false⟩]⟩,
  -- MBX_CTL
  ⟨0x1E00050, [], .host,
    [⟨0, 1, .w1s, 0, 0, 1, true, false⟩,
     ⟨1, 1, .ro, 0, 0, 1, true, false⟩]⟩,
  -- MBX_DATA
  ⟨0x1E01000, [(1024, 0x4)], .nobody,
    [⟨0, 32, .ro, 0, 0, 4294967295, false, false⟩]⟩]

/-- Registers of 10_memory_cache_ecc.md. -/
def regRows10a : List RRow := [
  -- CC_CTRL
  ⟨0x1A00000, [], .dbg0,
    [⟨0, 1, .rw, 0, 0, 1, true, false⟩,
     ⟨1, 1, .wo, 0, 0, 1, true, false⟩,
     ⟨2, 1, .ro, 0, 0, 1, true, false⟩]⟩,
  -- CC_WAYS
  ⟨0x1A00004, [], .dbg0,
    [⟨0, 16, .rw, 65535, 0, 65535, true, false⟩,
     ⟨16, 16, .rw, 0, 0, 65535, true, true⟩]⟩,
  -- CC_SP
  ⟨0x1A00008, [], .dbg0,
    [⟨0, 8, .rw, 0, 0, 255, true, false⟩,
     ⟨8, 8, .ro, 0, 0, 255, true, false⟩]⟩,
  -- CC_RNGBASE
  ⟨0x1A00010, [(2, 0x4)], .dbg0,
    [⟨0, 32, .rw, 0, 0, 4294967295, true, false⟩]⟩,
  -- CC_RNGLEN
  ⟨0x1A00018, [], .dbg0,
    [⟨0, 32, .rw, 0, 0, 4294967295, true, false⟩]⟩,
  -- CC_RNGCMD
  ⟨0x1A0001C, [], .dbg0,
    [⟨0, 2, .rw, 0, 0, 3, true, false⟩,
     ⟨2, 1, .ro, 0, 0, 1, true, false⟩]⟩,
  -- CC_HITS
  ⟨0x1A00020, [(2, 0x4)], .nobody,
    [⟨0, 32, .ro, 0, 0, 4294967295, false, false⟩]⟩,
  -- CC_MISSES
  ⟨0x1A00028, [(2, 0x4)], .nobody,
    [⟨0, 32, .ro, 0, 0, 4294967295, false, false⟩]⟩,
  -- CC_WBACKS
  ⟨0x1A00030, [(2, 0x4)], .nobody,
    [⟨0, 32, .ro, 0, 0, 4294967295, false, false⟩]⟩,
  -- MEM_ERR
  ⟨0x1B00000, [], .dbg0,
    [⟨0, 1, .w1c, 0, 0, 1, true, false⟩,
     ⟨1, 1, .w1c, 0, 0, 1, true, false⟩,
     ⟨2, 1, .w1c, 0, 0, 1, true, false⟩,
     ⟨3, 1, .w1c, 0, 0, 1, true, false⟩,
     ⟨4, 1, .w1c, 0, 0, 1, true, false⟩]⟩,
  -- MEM_ERRCNT
  ⟨0x1B00004, [], .dbg0,
    [⟨0, 16, .rc, 0, 0, 65535, true, false⟩,
     ⟨16, 16, .ro, 65535, 0, 65535, true, false⟩]⟩,
  -- MEM_ERRADDR
  ⟨0x1B00008, [(2, 0x4)], .nobody,
    [⟨0, 32, .ro, 0, 0, 4294967295, false, false⟩]⟩]

/-- Registers of 10_memory_cache_ecc.md. -/
def regRows10b : List RRow := [
  -- MEM_CECNT
  ⟨0x1B00010, [], .dbg0,
    [⟨0, 12, .rc, 0, 0, 4095, true, false⟩,
     ⟨12, 12, .rc, 0, 0, 4095, true, false⟩,
     ⟨24, 8, .rc, 0, 0, 255, true, false⟩]⟩,
  -- MEM_HOME
  ⟨0x1B00014, [], .nobody,
    [⟨0, 4, .ro, 0, 0, 15, false, true⟩,
     ⟨4, 4, .ro, 0, 0, 15, false, true⟩,
     ⟨8, 1, .ro, 0, 0, 1, false, true⟩]⟩,
  -- SCR_CFG
  ⟨0x1B00020, [], .dbg0,
    [⟨0, 1, .rw, 1, 0, 1, true, false⟩,
     ⟨1, 8, .rw, 24, 1, 255, true, false⟩]⟩,
  -- SCR_STAT
  ⟨0x1B00024, [], .dbg0,
    [⟨0, 16, .ro, 0, 0, 65535, true, false⟩,
     ⟨16, 16, .rc, 0, 0, 65535, true, false⟩]⟩,
  -- SCR_POS
  ⟨0x1B00028, [(2, 0x4)], .nobody,
    [⟨0, 32, .ro, 0, 0, 4294967295, false, false⟩]⟩,
  -- MEM_FLIPSEL
  ⟨0x1B00040, [], .dbg0,
    [⟨0, 12, .rw, 0, 0, 4095, true, false⟩,
     ⟨12, 1, .rw, 0, 0, 1, true, false⟩,
     ⟨13, 1, .w1s, 0, 0, 1, true, false⟩]⟩,
  -- MEM_FLIPLO
  ⟨0x1B00044, [], .dbg0,
    [⟨0, 32, .rw, 0, 0, 4294967295, true, false⟩]⟩,
  -- MEM_FLIPHI
  ⟨0x1B00048, [], .dbg0,
    [⟨0, 32, .rw, 0, 0, 4294967295, true, false⟩]⟩,
  -- MEM_FLIPCHK
  ⟨0x1B0004C, [], .dbg0,
    [⟨0, 8, .rw, 0, 0, 255, true, false⟩]⟩,
  -- MEM_REMAP
  ⟨0x1B10000, [(2048, 0x10), (4, 0x4)], .dbg0,
    [⟨0, 16, .rw, 0, 0, 65535, true, true⟩,
     ⟨16, 1, .rw, 0, 0, 1, true, true⟩]⟩]

/-- Registers of 11_power_and_startup.md. -/
def regRows11a : List RRow := [
  -- GLB_RST
  ⟨0x20, [], .host,
    [⟨0, 1, .w1s, 0, 0, 1, false, false⟩,
     ⟨1, 3, .ro, 0, 0, 7, false, false⟩]⟩,
  -- PWR_STAT
  ⟨0x1C00000, [], .nobody,
    [⟨0, 16, .ro, 0, 0, 65535, false, false⟩,
     ⟨16, 16, .ro, 0, 0, 65535, false, false⟩]⟩,
  -- PWR_CFG
  ⟨0x1C00004, [], .dbg0,
    [⟨0, 10, .rw, 460, 0, 1023, true, false⟩,
     ⟨10, 10, .rw, 420, 0, 1023, true, false⟩,
     ⟨20, 10, .rw, 480, 0, 1023, true, false⟩]⟩,
  -- PWR_CAP
  ⟨0x1C00008, [], .dbg0,
    [⟨0, 14, .rw, 5000, 2500, 10000, true, false⟩,
     ⟨14, 8, .rw, 10, 0, 255, true, false⟩]⟩,
  -- PWR_DIV
  ⟨0x1C0000C, [], .dbg0,
    [⟨0, 16, .rw, 0, 0, 65535, true, true⟩,
     ⟨16, 16, .rw, 0, 0, 65535, true, true⟩]⟩,
  -- PWR_EVT
  ⟨0x1C00010, [], .dbg0,
    [⟨0, 1, .w1c, 0, 0, 1, true, false⟩,
     ⟨1, 1, .w1c, 0, 0, 1, true, false⟩,
     ⟨2, 1, .w1c, 0, 0, 1, true, false⟩,
     ⟨3, 1, .w1c, 0, 0, 1, true, false⟩,
     ⟨4, 1, .w1c, 0, 0, 1, true, false⟩]⟩,
  -- PWR_CNT
  ⟨0x1C00014, [], .dbg0,
    [⟨0, 16, .rc, 0, 0, 65535, true, false⟩,
     ⟨16, 16, .rc, 0, 0, 65535, true, false⟩]⟩,
  -- WU_CFG
  ⟨0x1C00020, [], .dbg0,
    [⟨0, 10, .rw, 200, 50, 1000, true, false⟩,
     ⟨10, 7, .rw, 85, 50, 100, true, false⟩,
     ⟨17, 10, .rw, 120, 0, 1023, true, false⟩]⟩,
  -- WU_RLOAD
  ⟨0x1C00024, [], .dbg0,
    [⟨0, 24, .rw, 0, 0, 16777215, true, true⟩]⟩,
  -- WU_VMIN
  ⟨0x1C00028, [], .dbg0,
    [⟨0, 16, .rw, 0, 0, 65535, true, true⟩]⟩,
  -- WU_PWR
  ⟨0x1C0002C, [], .dbg0,
    [⟨0, 16, .rw, 0, 0, 65535, true, true⟩,
     ⟨16, 16, .rw, 0, 0, 65535, true, true⟩]⟩,
  -- WU_SAVE
  ⟨0x1C00030, [], .dbg0,
    [⟨0, 16, .rw, 512, 1, 1024, true, false⟩,
     ⟨16, 16, .rw, 2000, 0, 65535, true, false⟩]⟩]

/-- Registers of 11_power_and_startup.md. -/
def regRows11b : List RRow := [
  -- WU_MEAS
  ⟨0x1C00034, [], .dbg0,
    [⟨0, 24, .ro, 0, 0, 16777215, true, false⟩,
     ⟨24, 1, .ro, 0, 0, 1, true, false⟩,
     ⟨25, 1, .ro, 0, 0, 1, true, false⟩,
     ⟨26, 1, .w1s, 0, 0, 1, true, false⟩]⟩,
  -- WU_TDRAIN
  ⟨0x1C00038, [], .nobody,
    [⟨0, 16, .ro, 0, 0, 65535, false, false⟩]⟩,
  -- WU_GRANT
  ⟨0x1C00040, [(8, 0x4)], .nobody,
    [⟨0, 24, .ro, 0, 0, 16777215, false, false⟩]⟩,
  -- WU_DEBIT
  ⟨0x1C00060, [(8, 0x4)], .nobody,
    [⟨0, 24, .ro, 0, 0, 16777215, false, false⟩]⟩,
  -- PWR_RLOG
  ⟨0x1C00080, [], .host,
    [⟨0, 1, .ro, 0, 0, 1, true, true⟩,
     ⟨1, 1, .w1s, 0, 0, 1, true, false⟩,
     ⟨2, 2, .ro, 0, 0, 3, true, true⟩]⟩]

/-- Registers of 12_faults_and_global_operations.md. -/
def regRows12a : List RRow := [
  -- FLT_STAT
  ⟨0x1D00000, [], .dbg0,
    [⟨0, 2, .ro, 0, 0, 3, true, true⟩,
     ⟨2, 1, .w1c, 0, 0, 1, true, false⟩,
     ⟨3, 1, .w1c, 0, 0, 1, true, false⟩,
     ⟨4, 1, .w1c, 0, 0, 1, true, false⟩,
     ⟨16, 16, .ro, 0, 0, 65535, true, true⟩]⟩,
  -- FLT_CNT
  ⟨0x1D00004, [], .dbg0,
    [⟨0, 16, .rc, 0, 0, 65535, true, false⟩,
     ⟨16, 16, .ro, 65535, 0, 65535, true, false⟩]⟩,
  -- FLT_CLS
  ⟨0x1D00010, [(12, 0x4)], .dbg0,
    [⟨0, 4, .rw, 0, 0, 15, true, true⟩,
     ⟨4, 2, .rw, 0, 0, 3, true, true⟩,
     ⟨6, 10, .rw, 0, 0, 1023, true, true⟩,
     ⟨16, 16, .rw, 0, 0, 65535, true, true⟩]⟩,
  -- FLT_RET
  ⟨0x1D00040, [], .dbg0,
    [⟨0, 16, .wo, 0, 0, 65535, true, false⟩,
     ⟨16, 2, .wo, 0, 0, 3, true, false⟩]⟩,
  -- FLT_BCAST
  ⟨0x1D00044, [], .dbg0,
    [⟨0, 8, .wo, 0, 0, 255, true, false⟩]⟩,
  -- TEL_CTRL
  ⟨0x1D00100, [], .dbg0,
    [⟨0, 1, .w1s, 0, 0, 1, true, false⟩,
     ⟨1, 1, .ro, 1, 0, 1, true, false⟩,
     ⟨16, 16, .ro, 0, 0, 65535, true, false⟩]⟩,
  -- TEL_STAT
  ⟨0x1D00104, [], .nobody,
    [⟨0, 14, .ro, 0, 0, 16383, false, true⟩]⟩]

/-- Registers of 13_package_and_electrical.md. -/
def regRows13a : List RRow := [
  -- PWR_THERM
  ⟨0x1C00090, [], .dbg0,
    [⟨0, 16, .ro, 0, 0, 65535, true, false⟩,
     ⟨16, 1, .ro, 0, 0, 1, true, false⟩,
     ⟨17, 1, .ro, 0, 0, 1, true, false⟩,
     ⟨18, 1, .w1c, 0, 0, 1, true, false⟩]⟩,
  -- PWR_THCFG
  ⟨0x1C00094, [], .dbg0,
    [⟨0, 8, .rw, 118, 90, 125, true, false⟩,
     ⟨8, 8, .rw, 128, 0, 255, true, false⟩,
     ⟨16, 14, .rw, 5000, 2500, 10000, true, false⟩]⟩]

/-- Every register of the spec. -/
def regRows : List RRow :=
  regRows01a ++ regRows02a ++ regRows04a ++ regRows04b ++ regRows05a ++ regRows05b ++ regRows06a ++ regRows06b ++ regRows07a ++ regRows07b ++ regRows08a ++ regRows08b ++ regRows08c ++ regRows09a ++ regRows09b ++ regRows10a ++ regRows10b ++ regRows11a ++ regRows11b ++ regRows12a ++ regRows13a

/-- The indices of an offset in a row, if it belongs to the row. -/
def dimsIndex : List (Nat × Nat) → Nat → Option (List Nat)
  | [], 0 => some []
  | [], _ + 1 => none
  | (c, s) :: r, x =>
    if x / s < c then (dimsIndex r (x % s)).map (x / s :: ·) else none

/-- The row and indices of an offset. -/
def regFind (off : Nat) : List RRow → Option (RRow × List Nat)
  | [] => none
  | row :: r =>
    if row.base ≤ off then
      match dimsIndex row.dims (off - row.base) with
      | some ix => some (row, ix)
      | none => regFind off r
    else regFind off r

/-- The register at an offset (R32, R33). -/
def regAt (off : Nat) : Option (RRow × List Nat) := regFind off regRows

/-- The value a row's fields take at reset. -/
def fieldsReset : List RField → Nat
  | [] => 0
  | f :: r => f.rst * 2 ^ f.lo + fieldsReset r

/-- The reset value of the register at an offset (the Reset column; fw, fuse and strap entries count 0 here). -/
def regReset (off : Nat) : W32 :=
  match regAt off with
  | some (row, _) => BitVec.ofNat 32 (fieldsReset row.fields)
  | none => 0

end Sys2Proof.Machine
end

