-- ==== Sys2Proof/Machine/State.lean ====
section
/-! DEFINITION. The state of the EZ-8512 as plain data: every slice, shared block, queue, counter and mode the spec names,
the model's own queue of waiting commands, and the state right after the release of RESET_N (R321). Register fields not
held here under a name of their own stand in `State.regs` under their BAR0 offset (Machine/RegTable.lean lists them). -/
namespace Sys2Proof.Machine

/-- Why a step can stop with a fault. No meaning of this model raises one: every command has an effect or none. Safe. -/
inductive Fault where
  /-- Raised by no command; it stands for a stop the spec would call for (none is called for). Safe. -/
  | stop
deriving DecidableEq, Repr

/-- Why a step can be refused. -/
inductive Refusal where
  /-- Raised by an arm of exec for a row that has no meaning yet. Safe. -/
  | notModelled (mnemonic : String)
deriving DecidableEq, Repr

/-- TS_STAT.STATE (02, TS_STAT). -/
inductive SeqState where
  | empty | loaded | running | waiting | halted | failed
deriving DecidableEq, Repr

/-- What a WAITING sequencer waits in (R44, R45, R52, R53). -/
inductive Waiting where
  | none
  | wait (rd : BitVec 5) (mask : BitVec 64) (us : BitVec 16)
  | bar (rd : BitVec 5) (mask : BitVec 8)
  | pop (rt : BitVec 5) (port : Nat)
  | issue (rt : BitVec 5) (port : Nat) (dreg : Nat)
deriving DecidableEq, Repr

/-- Verify state of a codeword (R107). -/
inductive CwState where
  | pending | passed | unresolved
deriving DecidableEq, Repr

/-- Loop modes (R216). -/
inductive LoopMode where
  | manual | auto | relay | fault
deriving DecidableEq, Repr

/-- MC_TSTAT.STATE (08, MC_TSTAT). -/
inductive MotState where
  | released | tensioned | running | locating | turning | stopping | faulted
deriving DecidableEq, Repr

/-- Buffer states (R187). -/
inductive BufState where
  | free | allocated | quarantined
deriving DecidableEq, Repr

/-- One occupied slot of a stage port: an issued descriptor that has not been settled (R44, R45). -/
structure Slot where
  /-- the descriptor's ticket (R44) -/
  ticket : BitVec 16
  /-- the descriptor words W0-W3 as enqueued (R43) -/
  desc : BitVec 256
  /-- order of issue among the ports of the slice (R50) -/
  order : Nat
  /-- the stage has taken the descriptor (R44) -/
  started : Bool
  /-- status and VALUE once the stage has finished, before earlier slots let it post (R45) -/
  fin : Option (BitVec 8 × BitVec 32)
deriving DecidableEq, Repr

/-- Slot at reset. -/
def Slot.reset : Slot where
  ticket := 0
  desc := 0
  order := 0
  started := false
  fin := none

/-- One stage port of one sequencer (R19, R43-R45). -/
structure Port where
  /-- next ticket, counting from 0 after each install (R44) -/
  nextTicket : BitVec 16
  /-- issued descriptors, oldest first (R19) -/
  slots : List Slot
  /-- completions waiting to be popped, oldest first (R45) -/
  cpl : List (BitVec 64)
deriving DecidableEq, Repr

/-- Port at reset. -/
def Port.reset : Port where
  nextTicket := 0
  slots := []
  cpl := []

/-- Transport sequencer TSt running one Rhoval-F program (R37, R42, R55-R57). -/
structure Seq where
  /-- EMPTY, LOADED, RUNNING, WAITING, HALTED, FAILED (TS_STAT) -/
  st : SeqState
  /-- in an exception handler (R55) -/
  exl : Bool
  /-- halt requested, not yet taken (R57) -/
  haltp : Bool
  /-- address of the next instruction (TS_PC) -/
  pc : BitVec 16
  /-- g1-g31 (g0 reads zero) (R37) -/
  g : SMap (BitVec 64)
  /-- d0-d7 (R37) -/
  d : SMap (BitVec 256)
  /-- code memory, read-only to the program (R37) -/
  code : SMap Byte
  /-- data memory (R37) -/
  data : SMap Byte
  /-- CODE_SIZE of the installed image (R61) -/
  codeSize : Nat
  /-- write entry address of the installed image (R61) -/
  entryWrite : BitVec 32
  /-- read entry address of the installed image (R61) -/
  entryRead : BitVec 32
  /-- FMTID of the installed image; 0 = none (TS_IMG) -/
  fmtid : BitVec 16
  /-- VERSION of the installed image (TS_IMG) -/
  version : BitVec 16
  /-- SR1 CYCLE (R42) -/
  cycle : BitVec 64
  /-- SR2 TIMER in microseconds (R42) -/
  timer : BitVec 64
  /-- SR9 LPOSCMP (R42) -/
  lposcmp : BitVec 64
  /-- SR4 EVEC (R42) -/
  evec : BitVec 64
  /-- SR5 EPC (R42) -/
  epc : BitVec 64
  /-- SR6 ECAUSE (R42) -/
  ecause : BitVec 6
  /-- SR7 EVAL (R42) -/
  eval : BitVec 64
  /-- latched events (R51) -/
  latched : BitVec 64
  /-- watchdog cycle count (R56) -/
  wdog : Nat
  /-- what a WAITING sequencer waits in: WAIT, BAR, POP or ISSUE (R52) -/
  wait : Waiting
  /-- Puppeteer starts the program at this entry as soon as it halts (true = write entry) (R254) -/
  startPend : Option Bool
  /-- result a barrier has released this sequencer with, not yet taken (R53) -/
  barRes : Option (BitVec 2)
  /-- TS_CTRL.STEP: halt after the instruction in progress (R57) -/
  step : Bool
  /-- initial data of the installed image (R63) -/
  imgData : SMap Byte
  /-- EVEC of the installed image (R61) -/
  imgEvec : BitVec 32
  /-- the program was last started at its write entry (R145) -/
  wrote : Bool
deriving DecidableEq, Repr

/-- Seq at reset. -/
def Seq.reset : Seq where
  st := .empty
  exl := false
  haltp := false
  pc := 0
  g := {}
  d := {}
  code := {}
  data := {}
  codeSize := 0
  entryWrite := 0
  entryRead := 0
  fmtid := 0
  version := 0
  cycle := 0
  timer := 0
  lposcmp := 0
  evec := 0
  epc := 0
  ecause := 0
  eval := 0
  latched := 0
  wdog := 0
  wait := .none
  startPend := none
  barRes := none
  step := false
  imgData := {}
  imgEvec := 0
  wrote := false

/-- A segment of the open dataset (R68). -/
structure SegRec where
  /-- 1 record data, 2 index data (R68) -/
  typ : BitVec 16
  /-- a record header opens the segment (R68) -/
  first : Bool
  /-- the record ends in this segment (R68) -/
  last : Bool
  /-- stream of the record (R68) -/
  scid : BitVec 16
  /-- record sequence number (R68) -/
  seq : BitVec 32
  /-- payload offset of the segment header (R68) -/
  off : Nat
  /-- LENGTH (R68) -/
  len : Nat
deriving DecidableEq, Repr

/-- SegRec at reset. -/
def SegRec.reset : SegRec where
  typ := 0
  first := false
  last := false
  scid := 0
  seq := 0
  off := 0
  len := 0

/-- The dataset the assembler holds open (R47, R71). -/
structure OpenDs where
  /-- ticket of the ASM.OPEN (R47) -/
  ticket : BitVec 16
  /-- dataset buffer token (R47) -/
  token : BitVec 32
  /-- dataset number (R47) -/
  dsnum : BitVec 32
  /-- KIND (R67) -/
  kind : BitVec 4
  /-- C3POS (R67) -/
  c3pos : BitVec 4
  /-- idle timeout in microseconds, 0 = none (R47) -/
  idle : BitVec 32
  /-- payload bytes used after the header, padding included (R67) -/
  used : Nat
  /-- segments in payload order (R68) -/
  segs : List SegRec
deriving DecidableEq, Repr

/-- OpenDs at reset. -/
def OpenDs.reset : OpenDs where
  ticket := 0
  token := 0
  dsnum := 0
  kind := 0
  c3pos := 0
  idle := 0
  used := 0
  segs := []

/-- A work item on its way to the assembler (R25). -/
structure Item where
  /-- transport (R25) -/
  xport : BitVec 3
  /-- command tag (R25) -/
  ctag : BitVec 16
  /-- stream context (R25) -/
  scid : BitVec 16
  /-- buffer token (R25) -/
  token : BitVec 32
  /-- record sequence number (R25) -/
  seq : BitVec 32
  /-- close block and dataset after this item (R25) -/
  flush : Bool
  /-- last item of the command (R25) -/
  last : Bool
  /-- a stored block (R25) -/
  stored : Bool
  /-- includes a poisoned range (R25) -/
  poison : Bool
  /-- its bytes begin with the record header (R173) -/
  first : Bool
  /-- its bytes end with the record trailer (R173) -/
  fin : Bool
  /-- its job stopped for want of output space: the dataset closes as full after it (R71) -/
  full : Bool
  /-- record header, coded bytes and record trailer not yet placed (R170) -/
  data : List Byte
deriving DecidableEq, Repr

/-- Item at reset. -/
def Item.reset : Item where
  xport := 0
  ctag := 0
  scid := 0
  token := 0
  seq := 0
  flush := false
  last := false
  stored := false
  poison := false
  first := false
  fin := false
  full := false
  data := []

/-- Dataset assembler of one slice (R71). -/
structure Asm where
  /-- the open dataset (R71) -/
  opn : Option OpenDs
  /-- work items waiting, oldest first (R26) -/
  items : List Item
  /-- records that ASM.DISASM has delivered and no expansion has ended: SCID, SEQ, dataset of the FIRST segment (R47) -/
  disarm : List (BitVec 16 × BitVec 32 × BitVec 32)
deriving DecidableEq, Repr

/-- Asm at reset. -/
def Asm.reset : Asm where
  opn := none
  items := []
  disarm := []

/-- The part of a record that a dataset holds (R72, R259). -/
structure RecRef where
  /-- stream (R68) -/
  scid : BitVec 16
  /-- record (R68) -/
  seq : BitVec 32
  /-- segment bytes of the record in this dataset, headers and padding included (R259) -/
  bytes : Nat
  /-- the record's LAST segment lies here (R68) -/
  whole : Bool
deriving DecidableEq, Repr

/-- RecRef at reset. -/
def RecRef.reset : RecRef where
  scid := 0
  seq := 0
  bytes := 0
  whole := false

/-- Verify state of one codeword of a dataset (R104-R107). -/
structure Cw where
  /-- pending, passed or unresolved (R107) -/
  st : CwState
  /-- copies placed (R106) -/
  copies : Nat
  /-- physical tracks of the original and of failed copies (R105) -/
  tracks : List Nat
deriving DecidableEq, Repr

/-- Cw at reset. -/
def Cw.reset : Cw where
  st := .pending
  copies := 0
  tracks := []

/-- A dataset between its close and the end of its verification (R108-R110). -/
structure Ds where
  /-- dataset number (R67) -/
  dsnum : BitVec 32
  /-- buffer token (R48) -/
  token : BitVec 32
  /-- KIND (R67) -/
  kind : BitVec 4
  /-- records with bytes in the dataset (R72) -/
  recs : List RecRef
  /-- payload bytes placed, for the fill (R198) -/
  payload : Nat
  /-- 1 once ENCODE has completed since the close (R48) -/
  encs : Nat
  /-- wrap and LPOS of the first slot, once a WL.WRITE has completed (R359) -/
  written : Option (Nat × BitVec 32)
  /-- its bytes have left the fill (first WL.WRITE completed) (R198) -/
  counted : Bool
  /-- resumes at this dataset (R109) -/
  attempts : Nat
  /-- LPOS of the first channel bit of its latest started WRITE (R110) -/
  lastP : Option (BitVec 32)
  /-- codeword states (R107) -/
  cw : SMap Cw
  /-- ticket of the VFY.ARM in progress (R108) -/
  armed : Option (BitVec 16)
  /-- REL of that VFY.ARM (R48) -/
  rel : Bool
  /-- earlier VFY.ARMs of the dataset not yet completed, oldest first, with REL (R45, R108) -/
  more : List (BitVec 16 × Bool)
  /-- VFY.ARM completed OK, or INCOMPLETE and accepted (R108) -/
  ok : Bool
deriving DecidableEq, Repr

/-- Ds at reset. -/
def Ds.reset : Ds where
  dsnum := 0
  token := 0
  kind := 0
  recs := []
  payload := 0
  encs := 0
  written := none
  counted := false
  attempts := 0
  lastP := none
  cw := {}
  armed := none
  rel := false
  more := []
  ok := false

/-- What ENC.CORRECT has left of a dataset buffer that was filled from tape (R73, R75). -/
structure ReadBuf where
  /-- DSNUM that a directory of the extent gave (R85) -/
  dsnum : Option (BitVec 32)
  /-- codewords not delivered, of the sub-datasets that failed C2 (R73) -/
  erased : List Nat
  /-- sub-datasets that failed C2 and have not been recovered (R75) -/
  failed : List Nat
  /-- payload bytes decoded and not yet taken by a decompressor (R198) -/
  fill : Nat
deriving DecidableEq, Repr

/-- ReadBuf at reset. -/
def ReadBuf.reset : ReadBuf where
  dsnum := none
  erased := []
  failed := []
  fill := 0

/-- C2/C3 encoder and decoder of one slice (R48-R50). -/
structure Enc where
  /-- live mask loaded in map slot 0 (R50) -/
  map0 : Option (BitVec 64)
  /-- live mask loaded in map slot 1 (R50) -/
  map1 : Option (BitVec 64)
  /-- header bytes recorded per accumulator buffer and C3 position (R49) -/
  c3rec : SMap (List (Nat × List Byte))
  /-- dataset buffers corrected so far, by token (R75) -/
  bufs : SMap (Option ReadBuf)
deriving DecidableEq, Repr

/-- Enc at reset. -/
def Enc.reset : Enc where
  map0 := none
  map1 := none
  c3rec := {}
  bufs := {}

/-- One VALID directory entry (R85). -/
structure RwSlot where
  /-- logical track (R85) -/
  lam : Nat
  /-- rewrite slot of the track (R85) -/
  q : Nat
  /-- codeword index (R85) -/
  idx : Nat
  /-- back distance (R85) -/
  b : Nat
  /-- copy number (R85) -/
  copy : Nat
  /-- the copy was queued again by a resume; not part of the entry on tape (R110) -/
  again : Bool
deriving DecidableEq, Repr

/-- RwSlot at reset. -/
def RwSlot.reset : RwSlot where
  lam := 0
  q := 0
  idx := 0
  b := 0
  copy := 0
  again := false

/-- An extent WL has started, kept for its directory and reports (R83, R104, R110, R113). -/
structure Extent where
  /-- a mark extent (R86) -/
  isMark : Bool
  /-- dataset, or 0xFFFFFFFF for a mark (R85) -/
  dsnum : BitVec 32
  /-- wrap (R67) -/
  wrap : Nat
  /-- LPOS of the first channel bit (R97) -/
  lpos : BitVec 32
  /-- live tracks of the map used (R82) -/
  mask : BitVec 64
  /-- data slots per track (R83) -/
  ndat : Nat
  /-- reserve slots per track (R83) -/
  nres : Nat
  /-- directory content fixed (R104) -/
  fixed : Bool
  /-- directory entries (R85) -/
  rw : List RwSlot
  /-- some live track's directory passed (R103) -/
  dirPass : Bool
  /-- directory reports received (R103) -/
  dirSeen : Nat
  /-- failed first copies per track (R113) -/
  fails : SMap Nat
  /-- rewrite-copy results held until the directory results are known (R103) -/
  dirWait : List (Nat × Nat × Bool)
  /-- tracks whose last data slot has been judged (R113) -/
  judged : SMap Nat
  /-- tracks that reached EXT_THR in this extent (R114) -/
  event : List Nat
  /-- tracks on which a slot of the mark passed (R103) -/
  markPass : SMap Nat
  /-- mark reports received (R103) -/
  markSeen : Nat
  /-- TYPE of a mark (R86) -/
  typ : Nat
deriving DecidableEq, Repr

/-- Extent at reset. -/
def Extent.reset : Extent where
  isMark := false
  dsnum := 0
  wrap := 0
  lpos := 0
  mask := 0
  ndat := 0
  nres := 0
  fixed := false
  rw := []
  dirPass := false
  dirSeen := 0
  fails := {}
  dirWait := []
  judged := {}
  event := []
  markPass := {}
  markSeen := 0
  typ := 0

/-- The WL descriptor in progress (R94-R97). -/
structure WlCur where
  /-- its ticket (R44) -/
  ticket : BitVec 16
  /-- 1 WRITE, 2 FILL, 3 MARK (R47) -/
  op : Nat
  /-- dataset of a WRITE (R47) -/
  dsnum : BitVec 32
  /-- token of a WRITE (R47) -/
  token : BitVec 32
  /-- LPOS of its first channel bit (R97) -/
  lpos : BitVec 32
  /-- length of a FILL (R47) -/
  frames : Nat
deriving DecidableEq, Repr

/-- WlCur at reset. -/
def WlCur.reset : WlCur where
  ticket := 0
  op := 0
  dsnum := 0
  token := 0
  lpos := 0
  frames := 0

/-- A stretch of channel bits that a write lane puts out (R80, R84, R94): a slot with its codeword, or preamble. -/
structure LaneRun where
  /-- sync pattern of the slot: 0 A, 1 D, 2 X, 3 M; 4 = preamble throughout (R81, R84) -/
  pat : Nat
  /-- scrambler number of the codeword (R78) -/
  no : Nat
  /-- payload of the codeword, by byte (R80) -/
  data : SMap Byte
  /-- channel bits (R80) -/
  len : Nat
  /-- channel bits, from the first to before the second, for which the lane wrote zeros after an underrun (R30) -/
  cut : List (Nat × Nat)
deriving DecidableEq, Repr

/-- LaneRun at reset. -/
def LaneRun.reset : LaneRun where
  pat := 4
  no := 0
  data := {}
  len := 0
  cut := []

/-- What a write lane puts out for the descriptor in progress, or for the latest one and the gap fill after it (R94, R95). -/
structure LaneOut where
  /-- start offset in channel bits, WL_LDLY.DELAY (R95) -/
  start : Nat
  /-- in the order written (R80) -/
  runs : List LaneRun
deriving DecidableEq, Repr

/-- LaneOut at reset. -/
def LaneOut.reset : LaneOut where
  start := 0
  runs := []

/-- Write lane group of one slice (R94-R99, R344). -/
structure Wl where
  /-- descriptor in progress (R94) -/
  cur : Option WlCur
  /-- speed-locked (R96) -/
  locked : Bool
  /-- stopped by motion fault (R112) -/
  faulted : Bool
  /-- writing gap fill (R94) -/
  gap : Bool
  /-- HMS_WEN (R344) -/
  wen : Bool
  /-- latest extents, newest first (R110) -/
  exts : List Extent
  /-- DSNUM of the last dataset written (R86) -/
  lastDs : BitVec 32
  /-- servo frame that follows the last channel bit of a descriptor (R110) -/
  endLpos : BitVec 32
  /-- frequency the synthesiser moves to: its latest word, clamped (R99) -/
  freq : BitVec 32
  /-- frequency it moves from (R99) -/
  freqFrom : BitVec 32
  /-- CCLK cycles at the latest word (R99) -/
  freqClk : Nat
  /-- end-of-data marks verified (R255) -/
  eodMarks : Nat
  /-- what each lane puts out, by track; an unlisted lane is in electrical idle (R95) -/
  out : SMap LaneOut
  /-- items of Cart.tape up to and with the last one of the recording in progress; none = nothing recorded since the drivers came on
  (R87) -/
  pass : Option Nat
deriving DecidableEq, Repr

/-- Wl at reset. -/
def Wl.reset : Wl where
  cur := none
  locked := false
  faulted := false
  gap := false
  wen := false
  exts := []
  lastDs := 0xFFFFFFFF
  endLpos := 0
  freq := 0
  freqFrom := 0
  freqClk := 0
  eodMarks := 0
  out := {}
  pass := none

/-- An entry of the rewrite queue (R104, R105). -/
structure RwEntry where
  /-- dataset of the codeword (R104) -/
  dsnum : BitVec 32
  /-- codeword index (R104) -/
  idx : Nat
  /-- physical track of the original (R105) -/
  orig : Nat
  /-- tracks of earlier failed copies (R105) -/
  avoid : List Nat
  /-- number of the copy to place (R106) -/
  copy : Nat
  /-- re-queued by a resume (R110) -/
  again : Bool
deriving DecidableEq, Repr

/-- RwEntry at reset. -/
def RwEntry.reset : RwEntry where
  dsnum := 0
  idx := 0
  orig := 0
  avoid := []
  copy := 0
  again := false

/-- Write/verify lane of one track (R113-R117). -/
structure Lane where
  /-- extent numbers of the latest verify events (R115) -/
  events : List Nat
  /-- 0 none, 1 verify events, 2 HMS, 3 firmware (VFY_LANE) -/
  cause : Nat
  /-- failed first copies in the latest extent (VFY_LANE) -/
  lastFails : Nat
  /-- consecutive LOADs with a calibration failure (R324) -/
  calFails : Nat
deriving DecidableEq, Repr

/-- Lane at reset. -/
def Lane.reset : Lane where
  events := []
  cause := 0
  lastFails := 0
  calFails := 0

/-- Verify stage and rewrite queue of one slice (R100-R118). -/
structure Vfy where
  /-- SR13 FAILMASK (R42) -/
  failmask : BitVec 64
  /-- lane histories (R115) -/
  lanes : SMap Lane
  /-- extents judged since reset (R115) -/
  extNo : Nat
  /-- datasets tracked, in DSNUM order (R108) -/
  ds : List Ds
  /-- rewrite queue entries (R104) -/
  rwq : List RwEntry
  /-- copies allowed per codeword (R106) -/
  copies : Nat
  /-- rewrite slots the copies of one dataset may occupy (R106) -/
  slotLimit : Nat
  /-- rewrite slots used, by DSNUM (R106) -/
  slotUse : SMap Nat
  /-- DSNUM of the last dataset verified (R253) -/
  lastOk : BitVec 32
  /-- reports of KIND 2-4 counted, by KIND (R103) -/
  kinds : SMap Nat
deriving DecidableEq, Repr

/-- Vfy at reset. -/
def Vfy.reset : Vfy where
  failmask := 0
  lanes := {}
  extNo := 0
  ds := []
  rwq := []
  copies := 3
  slotLimit := 65535
  slotUse := {}
  lastOk := 0xFFFFFFFF
  kinds := {}

/-- An object entry of the index (R89). -/
structure ObjEnt where
  /-- object (R89) -/
  objid : BitVec 128
  /-- dataset of the record's FIRST segment (R89) -/
  dsnum : BitVec 32
  /-- payload offset of that segment (R89) -/
  off : BitVec 32
  /-- record (R89) -/
  seq : BitVec 32
  /-- stream (R89) -/
  scid : BitVec 16
deriving DecidableEq, Repr

/-- ObjEnt at reset. -/
def ObjEnt.reset : ObjEnt where
  objid := 0
  dsnum := 0
  off := 0
  seq := 0
  scid := 0

/-- A location entry of the index (R89). -/
structure LocEnt where
  /-- dataset (R89) -/
  dsnum : BitVec 32
  /-- wrap (R89) -/
  wrap : BitVec 16
  /-- LPOS of slot 0 (R89) -/
  lpos : BitVec 32
deriving DecidableEq, Repr

/-- LocEnt at reset. -/
def LocEnt.reset : LocEnt where
  dsnum := 0
  wrap := 0
  lpos := 0

/-- The index being emitted (R360). -/
structure Frozen where
  /-- its bytes not yet placed (R360) -/
  bytes : List Byte
  /-- SEQ of the next segment (R360) -/
  seq : BitVec 32
  /-- DSNUM of its first dataset, once placed (R89) -/
  first : Option (BitVec 32)
  /-- datasets whose location it carries (R360) -/
  covers : List W32
deriving DecidableEq, Repr

/-- Frozen at reset. -/
def Frozen.reset : Frozen where
  bytes := []
  seq := 0
  first := none
  covers := []

/-- Index stage of one slice (R359, R360). -/
structure Idx where
  /-- record tables by DSNUM: SCID, SEQ, payload offset (R359) -/
  tables : SMap (List (BitVec 16 × BitVec 32 × BitVec 32))
  /-- object entries not yet in an index (R359) -/
  objs : List ObjEnt
  /-- locations of written datasets not yet in an index (R359) -/
  locs : List LocEnt
  /-- entries of the index read at LOAD and all added since (R359) -/
  known : List ObjEnt
  /-- the index being emitted (R360) -/
  frozen : Option Frozen
  /-- GEN of the latest index (R89) -/
  gen : BitVec 32
  /-- DSNUM of the first dataset of the latest index (R89) -/
  prev : BitVec 32
  /-- datasets the first EMIT of an index still waits for (R360) -/
  await : List (BitVec 32)
  /-- ticket of an EMIT that waits for the freeze (R360) -/
  emitting : Option (BitVec 16)
  /-- locations read at LOAD and of all datasets written since (R89) -/
  places : List LocEnt
deriving DecidableEq, Repr

/-- Idx at reset. -/
def Idx.reset : Idx where
  tables := {}
  objs := []
  locs := []
  known := []
  frozen := none
  gen := 0
  prev := 0xFFFFFFFF
  await := []
  emitting := none
  places := []

/-- Speed-matching controller of one transport (R198-R203). -/
structure Yoyo where
  /-- MOT.SPEED mode: 0 Yo-yo, 1 SPDREF, 2 fixed (R47) -/
  sel : Nat
  /-- a MOT.SPEED has been taken (YY_STAT) -/
  on : Bool
  /-- fixed speed (R47) -/
  fixedV : Nat
  /-- slew-limited set-point, 0.1 mm/s (R199) -/
  sp : Nat
  /-- set-point sent to Marionette, 0.1 mm/s (R199) -/
  out : Nat
  /-- the cap lowered sp in the latest sample (R199) -/
  capped : Bool
  /-- within the BANDHOLD window (R201) -/
  hold : Bool
  /-- samples for which the pause condition has held (R200) -/
  stopT : Nat
  /-- 0 not paused; 1 gap fill after E, 2 drivers off and stopping, 3 locating back, 4 waiting at the run-up position (R200) -/
  pause : Nat
  /-- the pause has ended before step 3 completed (R200) -/
  pauseEnd : Bool
  /-- E of the pause (R200) -/
  pE : BitVec 32
  /-- resume position P_r (R200) -/
  pR : BitVec 32
  /-- received record bytes not yet consumed by the compressor (R198) -/
  hostBytes : Nat
  /-- payload bytes in datasets whose first WRITE has not completed (R198) -/
  dsBytes : Nat
  /-- decoded bytes not yet written to host memory (R198) -/
  rdBytes : Nat
  /-- last SPDREF periods in MRCLK cycles, newest first (R203) -/
  ref : List Nat
  /-- SPDREF valid (R203) -/
  refOk : Bool
  /-- 0.2 mm x f_ref in mm/s (YY_SPD) -/
  refv : Nat
  /-- set-point frozen by the power-fail commit, 0.1 mm/s (R312) -/
  lastFrozen : Option Nat
  /-- SPDOUT pulses driven (R202) -/
  spdout : Nat
deriving DecidableEq, Repr

/-- Yoyo at reset. -/
def Yoyo.reset : Yoyo where
  sel := 0
  on := false
  fixedV := 0
  sp := 0
  out := 0
  capped := false
  hold := false
  stopT := 0
  pause := 0
  pauseEnd := false
  pE := 0
  pR := 0
  hostBytes := 0
  dsBytes := 0
  rdBytes := 0
  ref := []
  refOk := false
  refv := 0
  lastFrozen := none
  spdout := 0

/-- The motion command in progress (R224-R229). -/
structure MotCur where
  /-- ticket of its MOT descriptor; none = commanded by Puppeteer (R22) (R44) -/
  ticket : Option (BitVec 16)
  /-- tag of the host LOCATE it serves (R265) -/
  tag : Option (BitVec 16)
  /-- 1 SPEED, 2 LOCATE, 3 TURN, 4 STOP (R47), 5 a calibration pass (R148) -/
  op : Nat
  /-- wrap of a LOCATE or TURN (R47) -/
  wrap : Nat
  /-- target LPOS of a LOCATE (R47) -/
  target : BitVec 32
  /-- step of the LOCATE or TURN in progress; 4 = moving back after a missed approach, 5 = an approach begun before SR10 named the wrap (R226) -/
  step : Nat
  /-- approaches missed (R226) -/
  misses : Nat
  /-- YSP has begun to step toward the wrap's entry (R226) -/
  seeking : Bool
  /-- tape LPOS at which the approach began its deceleration (R226) -/
  back : BitVec 23
  /-- dataset that a host LOCATE reaches (R265) -/
  dsnum : BitVec 32
  /-- record that a host LOCATE reaches (R265) -/
  seq : BitVec 32
  /-- SCID of that record (R265) -/
  scid : BitVec 16
deriving DecidableEq, Repr

/-- MotCur at reset. -/
def MotCur.reset : MotCur where
  ticket := none
  tag := none
  op := 0
  wrap := 0
  target := 0
  step := 0
  misses := 0
  seeking := false
  back := 0
  dsnum := 0
  seq := 0
  scid := 0

/-- One motion loop (R205-R220, R237). -/
structure MLoop where
  /-- MANUAL, AUTO, RELAY or FAULT (R216) -/
  mode : LoopMode
  /-- bank in use, false = A (R218) -/
  bank : Bool
  /-- state words (R214) -/
  words : SMap (BitVec 32)
  /-- coefficients of bank A (R214) -/
  coefA : SMap (BitVec 64)
  /-- coefficients of bank B (R214) -/
  coefB : SMap (BitVec 64)
  /-- the loop has a program (R215) -/
  hasProg : Bool
  /-- LOOP_TABLE entry (R61) -/
  entry : BitVec 32
  /-- triggered and waiting for the arithmetic unit (R207) -/
  ready : Bool
  /-- deadline of the evaluation, fs from cold reset (R207) -/
  trigNo : Nat
  /-- latched input channels (R212) -/
  ins : SMap (BitVec 32)
  /-- committed output channels (R213) -/
  outs : SMap (BitVec 32)
  /-- bank selected, effective at the next trigger (R219) -/
  selPend : Option Bool
  /-- FLAGS.FIRST of the next evaluation (R217) -/
  first : Bool
  /-- FLAGS.SWAP of the next evaluation (R218) -/
  swap : Bool
  /-- ISAT (R220) -/
  isat : Bool
  /-- AWH (R220) -/
  awh : Bool
  /-- AWDIR, true = high limit (R220) -/
  awdir : Bool
  /-- L_h of the hold (R220) -/
  lh : BitVec 32
  /-- consecutive overruns (R208) -/
  consec : Nat
  /-- SATF of the latest evaluation (MC_LSTAT) -/
  satf : Bool
  /-- latest commit clamped (R213) -/
  cmdsat : Bool
  /-- cycles of the latest evaluation (MC_LSTAT) -/
  lastcyc : Nat
  /-- MC_CMDV, committed command (R213) -/
  cmdv : BitVec 32
  /-- latest relay output: some true = BIAS + D (R237) -/
  relayHi : Option Bool
  /-- latest relay CMD (R237) -/
  relayCmd : BitVec 32
  /-- time FERR has been over the limit, units of 15.625 ps (R230) -/
  feTime : Nat
  /-- SEQ of the latest actuator frame (R348) -/
  linkSeq : BitVec 4
  /-- latest actuator frame (R348) -/
  frame : BitVec 56
deriving DecidableEq, Repr

/-- MLoop at reset. -/
def MLoop.reset : MLoop where
  mode := .manual
  bank := false
  words := {}
  coefA := {}
  coefB := {}
  hasProg := false
  entry := 0
  ready := false
  trigNo := 0
  ins := {}
  outs := {}
  selPend := none
  first := false
  swap := false
  isat := false
  awh := false
  awdir := false
  lh := 0
  consec := 0
  satf := false
  cmdsat := false
  lastcyc := 0
  cmdv := 0
  relayHi := none
  relayCmd := 0
  feTime := 0
  linkSeq := 0
  frame := 0

/-- Marionette's motion state of one transport (R206-R233). -/
structure Mot where
  /-- STATE (MC_TSTAT) -/
  st : MotState
  /-- armed start position P (R227) -/
  armed : Option (BitVec 32)
  /-- the armed transport is running up to P (R227) -/
  armGo : Bool
  /-- v_r of the armed start (R227) -/
  armVr : Nat
  /-- missed starts of the armed start (R227) -/
  armMiss : Nat
  /-- VTAPE, 1/16 mm/s (R209) -/
  vtape : Int
  /-- VTAPE from encoders (R209) -/
  vsrc : Bool
  /-- speed band (R123) -/
  band : Nat
  /-- latest supervision cause (R231) -/
  cause : Nat
  /-- loop of causes 1 and 2 (MC_TSTAT) -/
  cloop : Nat
  /-- SETV, 1/16 mm/s (R225) -/
  setv : Int
  /-- SETV minus previous SETV (R212) -/
  accel : Int
  /-- MOT descriptor in progress (R224) -/
  cur : Option MotCur
  /-- Puppeteer's motion commands waiting (R22) -/
  pup : List MotCur
  /-- the transport has been found at standstill and no motion has begun (R209) -/
  still : Bool
  /-- SR10 WRAP (R42) -/
  wrap : Nat
  /-- SR8 LPOS (R42) -/
  lpos : BitVec 32
  /-- frame records since the last tick (R209) -/
  frames : List (BitVec 128)
  /-- latest frame record (R154) -/
  lastFrame : BitVec 128
  /-- latest motion-sensor record (R210) -/
  motion : BitVec 64
  /-- sum of y_A - y_B over the frames since the latest conversion that were valid on both bands (R210) -/
  skewSum : Int
  /-- their number (R210) -/
  skewN : Nat
  /-- time of the latest frame's first P stripe, 15.625 ps; none = not known (R154) -/
  lastP : Option Nat
  /-- reel A count (R211) -/
  encA : Nat
  /-- reel B count (R211) -/
  encB : Nat
  /-- reel A counts since the last tick (R209) -/
  tickA : Int
  /-- reel B counts since the last tick (R209) -/
  tickB : Int
  /-- reel A speed, 1/256 count per tick (R212) -/
  omA : Int
  /-- reel B speed, 1/256 count per tick (R212) -/
  omB : Int
  /-- lateral set-point YSP (R228) -/
  ysp : Int
  /-- wrap table (R239) -/
  wraps : SMap (BitVec 24)
  /-- band sets of the lateral loop (R215) -/
  bandStore : SMap (BitVec 64)
  /-- repetitive controller 2t (R221) -/
  binsA : SMap (BitVec 32)
  /-- repetitive controller 2t + 1 (R221) -/
  binsB : SMap (BitVec 32)
  /-- tension held (R361) -/
  tensOn : Bool
  /-- reel links send EN = 0, BRAKE = 1 (R232) -/
  reelStop : Bool
  /-- end-of-wrap warning position (R51) -/
  eotw : BitVec 32
  /-- beginning-of-wrap warning position (R51) -/
  botw : BitVec 32
  /-- consecutive frame records with both bands invalid (R230) -/
  svLoss : Nat
  /-- ticks TENS has been outside its window (R230) -/
  tensT : Nat
  /-- ticks reel A's count has stood still above 500 mm/s (R230) -/
  encTA : Nat
  /-- ticks reel B's count has stood still above 500 mm/s (R230) -/
  encTB : Nat
  /-- counts reel A has moved, either way (R324) -/
  turnsA : Nat
  /-- counts reel B has moved, either way (R324) -/
  turnsB : Nat
  /-- counts, plus one, at which a bin of controller 2t became saturated (R324) -/
  satA : SMap Nat
  /-- counts, plus one, at which a bin of controller 2t + 1 became saturated (R324) -/
  satB : SMap Nat
  /-- ticks since cold reset (R206) -/
  ticks : Nat
  /-- ticks above the overspeed limit (R230) -/
  overT : Nat
  /-- data bits of the frames of the LPOS word in assembly (R153) -/
  lpWord : List (Option Bool)
  /-- tape LPOS frame count (R153) -/
  lpCount : BitVec 23
  /-- value of the previous check-good LPOS word (R153) -/
  lpPrev : Option (BitVec 23)
  /-- LPOS verified (R153) -/
  lv : Bool
deriving DecidableEq, Repr

/-- Mot at reset. -/
def Mot.reset : Mot where
  st := .released
  armed := none
  armGo := false
  armVr := 0
  armMiss := 0
  vtape := 0
  vsrc := false
  band := 0
  cause := 0
  cloop := 0
  setv := 0
  accel := 0
  cur := none
  pup := []
  still := true
  wrap := 0
  lpos := 0
  frames := []
  lastFrame := 0
  motion := 0
  skewSum := 0
  skewN := 0
  lastP := none
  encA := 0
  encB := 0
  tickA := 0
  tickB := 0
  omA := 0
  omB := 0
  ysp := 0
  wraps := {}
  bandStore := {}
  binsA := {}
  binsB := {}
  tensOn := false
  reelStop := false
  eotw := 0
  botw := 0
  svLoss := 0
  tensT := 0
  encTA := 0
  encTB := 0
  turnsA := 0
  turnsB := 0
  satA := {}
  satB := {}
  ticks := 0
  overT := 0
  lpWord := []
  lpCount := 0
  lpPrev := none
  lv := false

/-- A raw-sample capture channel (R155). -/
structure CapCh where
  /-- next write position -/
  pos : Nat
  /-- samples still to be written after the trigger -/
  left : Nat
  /-- the next sample is the first after an X-ADC overflow -/
  mark : Bool
deriving DecidableEq, Repr

/-- CapCh at reset. -/
def CapCh.reset : CapCh where
  pos := 0
  left := 0
  mark := false

/-- The loops and the detector of a read lane (R120, R128-R130). -/
structure Loops where
  /-- residual frequency, as a part of nominal (R121, R130) -/
  freq : Rat
  /-- position of the next T-spaced sample, in ADC samples from the next one that comes (R120) -/
  phase : Rat
  /-- gain loop, in steps of GAIN (R124) -/
  gain : Rat
  /-- offset loop, in steps of OFFSET (R124) -/
  offset : Rat
  /-- asymmetry loop, in steps of ASYM (R124) -/
  asym : Rat
  /-- consecutive bits with the residual at its clamp (R130) -/
  held : Nat
  /-- the residual has been at the clamp for 4,096 bits (R130) -/
  lost : Bool
  /-- taps 0-9 of the loaded preset (R157) -/
  taps : List Int
  /-- target taps 0-4 of the loaded preset (R157) -/
  target : List Int
  /-- the slot is acquired afresh (R128) -/
  afresh : Bool
  /-- number of the next bit, as R129 counts them; none = SEARCH mode before the tone -/
  bitNo : Option Nat
  /-- the preamble detector reports the tone (R129) -/
  tone : Bool
  /-- latest 32 T-spaced samples, latest first (R120) -/
  win : List Rat
  /-- latest 32 equalised samples, latest first (R120) -/
  eqs : List Rat
  /-- path metrics of the detector's 16 states (R120) -/
  met : List Rat
  /-- gain, offset and asymmetry at the end of the latest whole slot (R127) -/
  fin : Rat × Rat × Rat
deriving DecidableEq, Repr

/-- Loops at reset. -/
def Loops.reset : Loops where
  freq := 0
  phase := 0
  gain := 0
  offset := 0
  asym := 0
  held := 0
  lost := false
  taps := []
  target := []
  afresh := true
  bitNo := none
  tone := false
  win := []
  eqs := []
  met := []
  fin := (0, 0, 0)

/-- A read lane (R126-R136). -/
structure RLane where
  /-- FRAMED mode (R131) -/
  framed : Bool
  /-- latched zone (R125) -/
  zone : Nat
  /-- latched band (R126) -/
  band : Nat
  /-- latched page (R126) -/
  page : Nat
  /-- engines of the chiplet the lane has been re-homed to and not back from, latest first; empty = its home engine (R18) (R143) -/
  moved : List Nat
  /-- next slot is acquired afresh (R128) -/
  fresh : Bool
  /-- consecutive slots without a decode (R130) -/
  nodec : Nat
  /-- slot number expected next (R131) -/
  slot : Nat
  /-- number of the notice of the extent it reads (verify mode) (R144) -/
  note : Nat
  /-- slots since the latest decode (R133) -/
  fly : Nat
  /-- position in the sample buffer of the latest decode's sync, carried on from slot to slot; none = no decode in this FRAMED run (R133) -/
  flyPos : Option Nat
  /-- ordinal of the latest extent whose slot 0 it decoded (read mode) (R131) -/
  extSeen : Nat
  /-- slot 0 of the extent has not decoded (R136) -/
  missed : Bool
  /-- the current codeword is damaged by an X-ADC overflow (R30) -/
  overflow : Bool
  /-- MODE of the slot in progress (R145) -/
  mode : Nat
  /-- zone-table index of the slot that ended last (R126) -/
  doneKey : Nat
  /-- loops, interpolator, equaliser and detector (R120) -/
  loops : Loops
  /-- ADC samples of the latest arrival (R120) -/
  last : List (BitVec 6)
  /-- sample buffers: the soft values held, oldest first (R120) -/
  soft : List (BitVec 4)
  /-- in FRAMED mode the place in soft of the 32 bits before the slot in progress; in SEARCH mode the next position to look at (R120, R132) -/
  at' : Nat
  /-- time of the latest arrival, ps from cold reset (R136, R140) -/
  arr : Nat
  /-- time of SYNC-A of the extent, once its slot 0 has decoded on this lane, ps (R136) -/
  syncT : Option Rat
deriving DecidableEq, Repr

/-- RLane at reset. -/
def RLane.reset : RLane where
  framed := false
  zone := 0
  band := 0
  page := 0
  moved := []
  fresh := true
  nodec := 0
  slot := 0
  note := 0
  fly := 0
  flyPos := none
  extSeen := 0
  missed := false
  overflow := false
  mode := 0
  doneKey := 0
  loops := Loops.reset
  last := []
  soft := []
  at' := 0
  arr := 0
  syncT := none

/-- A decode attempt of a pending codeword (R133). -/
structure Attempt where
  /-- candidate rank (R133) -/
  cand : Nat
  /-- position of the sync in the sample buffer (R132) -/
  pos : Nat
  /-- framed from the flywheel position (R133) -/
  fly : Bool
  /-- pattern of the candidate: 0 A, 1 D, 2 X, 3 M (R132) -/
  kind : Nat
deriving DecidableEq, Repr

/-- Attempt at reset. -/
def Attempt.reset : Attempt where
  cand := 0
  pos := 0
  fly := false
  kind := 0

/-- A codeword in a sample buffer (R140, R141). -/
structure PendCw where
  /-- lane L (R140) -/
  lane : Nat
  /-- slot in the extent (R131) -/
  slot : Nat
  /-- deadline, ps from cold reset (R140) -/
  dl : Nat
  /-- engine that serves it, 6-bit format of R35 (R143) -/
  eng : Nat
  /-- MODE the slot was taken under (R145) -/
  mode : Nat
  /-- notice of its extent (verify mode) (R144) -/
  note : Nat
  /-- soft values of the slot (R120) -/
  soft : List (BitVec 4)
  /-- place of those in the lane's sample buffers when it arrived (R131) -/
  base : Nat
  /-- the slot is the next extent's slot 0 if it carries SYNC-A or SYNC-M, as E is taken from the previous extent (R131) -/
  maybe : Bool
  /-- attempts not yet ended, the one in progress first (R133) -/
  attempts : List Attempt
  /-- the attempt in progress is not the codeword's first (R141) -/
  later : Bool
  /-- iterations done by the attempt in progress (R139) -/
  iters : Nat
  /-- zone-table index latched for the slot (R126) -/
  zkey : Nat
  /-- GAIN, OFFSET and ASYM loop values at the end of the slot (R127) -/
  fin : Rat × Rat × Rat
  /-- values of the attempt in progress, 70 block columns; [] before its first iteration (R139) -/
  post : List (List Int)
  /-- messages of the attempt in progress, by block row and column (R139) -/
  msgs : List (List (List Int))
deriving DecidableEq, Repr

/-- PendCw at reset. -/
def PendCw.reset : PendCw where
  lane := 0
  slot := 0
  dl := 0
  eng := 0
  mode := 0
  note := 0
  soft := []
  base := 0
  maybe := false
  attempts := []
  later := false
  iters := 0
  zkey := 0
  fin := (0, 0, 0)
  post := []
  msgs := []

/-- WL's notice of a WRITE or MARK (R144). -/
structure Notice where
  /-- its number (R144) -/
  no : Nat
  /-- a MARK (R144) -/
  mark : Bool
  /-- DSNUM, 0xFFFFFFFF for a mark (R144) -/
  dsnum : BitVec 32
  /-- start LPOS (R144) -/
  lpos : BitVec 32
  /-- live tracks of the map slot (R144) -/
  mask : BitVec 64
  /-- data slots (R144) -/
  ndat : Nat
  /-- reserve slots (R144) -/
  nres : Nat
  /-- directory content, once fixed (R147) -/
  dir : List RwSlot
deriving DecidableEq, Repr

/-- Notice at reset. -/
def Notice.reset : Notice where
  no := 0
  mark := false
  dsnum := 0
  lpos := 0
  mask := 0
  ndat := 0
  nres := 0
  dir := []

/-- A payload delivered in read mode (R27, R146). -/
structure RdRow where
  /-- ordinal of its extent (R131) -/
  ext : Nat
  /-- slot (R146) -/
  slot : Nat
  /-- track (R146) -/
  k : Nat
  /-- KIND (R146) -/
  kind : Nat
  /-- INDEX (R146) -/
  idx : Nat
  /-- back distance of a copy, from the directory (R85) -/
  b : Nat
  /-- payload before descrambling (R146) -/
  bytes : List Byte
deriving DecidableEq, Repr

/-- RdRow at reset. -/
def RdRow.reset : RdRow where
  ext := 0
  slot := 0
  k := 0
  kind := 0
  idx := 0
  b := 0
  bytes := []

/-- A decoded or failed rewrite slot whose report waits (R147). -/
structure HeldRw where
  /-- track (R147) -/
  k : Nat
  /-- slot (R147) -/
  slot : Nat
  /-- the report but for DSNUM, KIND and INDEX (R147) -/
  low : BitVec 128
  /-- payload where it decoded (R147) -/
  bytes : Option (List Byte)
deriving DecidableEq, Repr

/-- HeldRw at reset. -/
def HeldRw.reset : HeldRw where
  k := 0
  slot := 0
  low := 0
  bytes := none

/-- Read channel of one transport (R120-R153). -/
structure RcT where
  /-- zone table, both pages (R124) -/
  zones : SMap (BitVec 32)
  /-- equaliser presets (R157) -/
  presets : SMap Byte
  /-- per-lane results of the latest calibration pass (RC_CALRES) -/
  calres : SMap Byte
  /-- read lanes (R131) -/
  lanes : SMap RLane
  /-- codewords in sample buffers (R140) -/
  pend : List PendCw
  /-- WL's notices in use, oldest first (R144) -/
  notices : List Notice
  /-- notices sent for WRITE and MARK (R144) -/
  noteNo : Nat
  /-- directory entries in use for rewrite slots (R147) -/
  dirRows : List RwSlot
  /-- DSNUM of the usable directory of the extent being read, once known (R147) -/
  dirDs : Option (BitVec 32)
  /-- tracks whose directory slot has decoded or failed in this extent (R147) -/
  dirSeen : List Nat
  /-- slot number of the first slot of the extent that decoded with SYNC-X (R131) -/
  ndat : Option Nat
  /-- the extent being read is a mark's (R131) -/
  isMark : Bool
  /-- DSNUM in the header of codeword 0 of the extent being read, if it has decoded (R147) -/
  extDs : Option (BitVec 32)
  /-- extent length E of the previous extent; 0 = not known (R131) -/
  ext : Nat
  /-- n_dat of the latest extent with a directory; 0 = not known (R131, R147) -/
  prevDat : Nat
  /-- rewrite slots whose reports wait for the directories (R147) -/
  held : List HeldRw
  /-- payloads delivered in read mode and not yet placed in a dataset buffer (R146) -/
  rows : List RdRow
  /-- extents whose reading has begun (R131) -/
  extNo : Nat
  /-- slot reports sent to the F-die (R101) -/
  reports : List (BitVec 128)
  /-- header of the calibration datasets, as the reference generator holds it (R148) -/
  refHead : List Byte
deriving DecidableEq, Repr

/-- RcT at reset. -/
def RcT.reset : RcT where
  zones := {}
  presets := {}
  calres := {}
  lanes := {}
  pend := []
  notices := []
  noteNo := 0
  dirRows := []
  dirDs := none
  dirSeen := []
  ndat := none
  isMark := false
  extDs := none
  ext := 0
  prevDat := 0
  held := []
  rows := []
  extNo := 0
  reports := []
  refHead := []

/-- The injection generator (R234, R235). -/
structure Inj where
  /-- injecting (MC_INJ) -/
  active : Bool
  /-- loop triggers since GO (R235) -/
  n : Nat
  /-- CCLK cycles at GO (R235) -/
  start : Nat
  /-- sample of the latest trigger (R235) -/
  sample : Int
  /-- PRBS bits sent (R235) -/
  bits : Nat
  /-- PRBS register (R235) -/
  lfsr : BitVec 15
deriving DecidableEq, Repr

/-- Inj at reset. -/
def Inj.reset : Inj where
  active := false
  n := 0
  start := 0
  sample := 0
  bits := 0
  lfsr := 0x7FFF

/-- The evaluation running on the arithmetic unit (R59, R207). -/
structure LEval where
  /-- loop (R205) -/
  l : Nat
  /-- byte address of the next instruction (R37) -/
  pc : Nat
  /-- SATF (R59) -/
  satf : Bool
  /-- staged outputs (R213) -/
  staged : SMap (BitVec 32)
  /-- channels staged in this evaluation (R213) -/
  written : List Nat
  /-- cycles so far (R207) -/
  cyc : Nat
deriving DecidableEq, Repr

/-- LEval at reset. -/
def LEval.reset : LEval where
  l := 0
  pc := 0
  satf := false
  staged := {}
  written := []
  cyc := 0

/-- A relay autotune in progress (R238). -/
structure Tune where
  /-- loop (R238) -/
  l : Nat
  /-- relay switches since RELAY was set (R238) -/
  sw : Nat
  /-- 1 capturing, 2 relay (R238) -/
  phase : Nat
deriving DecidableEq, Repr

/-- Tune at reset. -/
def Tune.reset : Tune where
  l := 0
  sw := 0
  phase := 0

/-- Marionette's shared part (R205, R214, R234). -/
structure Mrn where
  /-- loop code (R37) -/
  code : SMap Byte
  /-- installed L image (MC_GSTAT) -/
  fmtid : BitVec 16
  /-- evaluation in progress (R207) -/
  ev : Option LEval
  /-- v1-v31 (v0 reads zero) (R37) -/
  v : SMap (BitVec 32)
  /-- accumulator 0 (R37) -/
  acc0 : BitVec 72
  /-- accumulator 1 (R37) -/
  acc1 : BitVec 72
  /-- arithmetic-unit cycles of this 1 ms (MC_GSTAT) -/
  busy : Nat
  /-- UTIL of the last full 1 ms (MC_GSTAT) -/
  util : Nat
  /-- injection generator (R235) -/
  inj : Inj
  /-- capture armed (R236) -/
  capArmed : Bool
  /-- capture waits for the injection's GO (R236) -/
  capWait : Bool
  /-- capture records (R236) -/
  capRecs : SMap (BitVec 128)
  /-- records written (R236) -/
  capCount : Nat
  /-- CCLK cycles at the first record (R236) -/
  capStart : Nat
  /-- autotune in progress (R238) -/
  tune : Option Tune
deriving DecidableEq, Repr

/-- Mrn at reset. -/
def Mrn.reset : Mrn where
  code := {}
  fmtid := 0
  ev := none
  v := {}
  acc0 := 0
  acc1 := 0
  busy := 0
  util := 0
  inj := Inj.reset
  capArmed := false
  capWait := false
  capRecs := {}
  capCount := 0
  capStart := 0
  tune := none

/-- A buffer record (R187). -/
structure BufRec where
  /-- STATE (R187) -/
  st : BufState
  /-- RETIRING (R187) -/
  retiring : Bool
  /-- GEN (R187) -/
  gen : BitVec 8
  /-- OWNER (R187) -/
  owner : BitVec 4
  /-- HOLD per agent (REFS is their sum) (R187) -/
  hold : SMap Nat
  /-- both record copies failed (R298) -/
  badRec : Bool
deriving DecidableEq, Repr

/-- BufRec at reset. -/
def BufRec.reset : BufRec where
  st := .free
  retiring := false
  gen := 0
  owner := 0
  hold := {}
  badRec := false

/-- A request on a wait list, or one to be repeated (R191, R192). -/
structure Waiter where
  /-- request port (R190) -/
  port : Nat
  /-- requesting agent (R185) -/
  agent : Nat
  /-- class (R188) -/
  cls : Nat
  /-- when-empty flag (R188) -/
  flag : Nat
  /-- ticket of the slice's descriptor (R44) -/
  ticket : Option (BitVec 16)
deriving DecidableEq, Repr

/-- Waiter at reset. -/
def Waiter.reset : Waiter where
  port := 0
  agent := 0
  cls := 0
  flag := 0
  ticket := none

/-- Toybox (R182-R197). -/
structure Tbx where
  /-- buffer records by BUFID (R187) -/
  recs : SMap BufRec
  /-- class-0 wait list, oldest first (R191) -/
  wait0 : List Waiter
  /-- class-1 wait list (R191) -/
  wait1 : List Waiter
  /-- class-2 wait list (R191) -/
  wait2 : List Waiter
  /-- class-3 wait list (R191) -/
  wait3 : List Waiter
  /-- requests refused for a full wait list, to be repeated (R191) -/
  retry : List Waiter
  /-- port of the latest grant (R190) -/
  last : Nat
  /-- slice whose request was granted last on port 2 (R190) -/
  slice : Nat
  /-- latched record (TBX_INSP) -/
  insp : BitVec 128
  /-- completions to ports 0, 1 and 3: port, agent, status, value; newest first (R188) -/
  given : List (Nat × Nat × BitVec 8 × BitVec 32)
deriving DecidableEq, Repr

/-- Tbx at reset. -/
def Tbx.reset : Tbx where
  recs := {}
  wait0 := []
  wait1 := []
  wait2 := []
  wait3 := []
  retry := []
  last := 3
  slice := 7
  insp := 0
  given := []

/-- Decoder state of a read-direction context (R175). -/
structure Dec where
  /-- coded bits consumed for the record (R175) -/
  bits : Nat
  /-- bytes produced for the record (R175) -/
  out : Nat
  /-- bit offset within the piece (R175) -/
  off : Nat
  /-- bits at the end of an exhausted piece that are part of a symbol, a header or a byte not yet whole (R178) -/
  carry : List Bool
  /-- remaining length of a match in progress (R175) -/
  rest : Nat
  /-- distance of that match (R175) -/
  dist : Nat
  /-- bytes left in a stored block (R175) -/
  left : Nat
  /-- where the decoder is: 0 between blocks, 1 in a stored, 2 a static, 3 a dynamic block, 4 behind the final block's padding (R175) -/
  typ : Nat
  /-- BFINAL of the latest block (R162) -/
  final : Bool
  /-- literal/length code lengths of the current block (R175) -/
  ll : List Nat
  /-- distance code lengths of the current block (R175) -/
  dl : List Nat
  /-- trailer bytes read so far (R175) -/
  trl : List Byte
deriving DecidableEq, Repr

/-- Dec at reset. -/
def Dec.reset : Dec where
  bits := 0
  out := 0
  off := 0
  carry := []
  rest := 0
  dist := 0
  left := 0
  typ := 0
  final := false
  ll := []
  dl := []
  trl := []

/-- A stream context (R167, R175). -/
structure Ctx where
  /-- true = read (R167) -/
  dir : Bool
  /-- CODING (R167) -/
  coding : BitVec 8
  /-- WINLOG (R167) -/
  winlog : BitVec 8
  /-- CODE (R167) -/
  codeSel : BitVec 8
  /-- LEVEL (R167) -/
  level : BitVec 8
  /-- HVALID (R167) -/
  hvalid : Bool
  /-- INREC (R167) -/
  inrec : Bool
  /-- PREC (R167) -/
  prec : Bool
  /-- PEND (R167) -/
  pend : BitVec 64
  /-- PCNT (R167) -/
  pcnt : Nat
  /-- token list, oldest first (R167) -/
  toks : List (BitVec 32 × Nat)
  /-- HBASE (R167) -/
  hbase : BitVec 32
  /-- RIN (R167) -/
  rin : Nat
  /-- ROUT (R167) -/
  rout : Nat
  /-- RCRC (R167) -/
  rcrc : BitVec 32
  /-- SEQ (R167) -/
  seq : BitVec 32
  /-- OBJID (R167) -/
  objid : BitVec 128
  /-- HBYTES (R167) -/
  hbytes : Nat
  /-- LASTUSE (R167) -/
  lastuse : BitVec 32
  /-- decoder state (R175) -/
  dec : Dec
  /-- OLEN of the record in progress (R178) -/
  dOlen : BitVec 64
  /-- bytes decoded for the record in progress, as its output buffers hold them (R175) -/
  dBytes : List Byte
deriving DecidableEq, Repr

/-- Ctx at reset. -/
def Ctx.reset : Ctx where
  dir := false
  coding := 0
  winlog := 0
  codeSel := 0
  level := 0
  hvalid := false
  inrec := false
  prec := false
  pend := 0
  pcnt := 0
  toks := []
  hbase := 0
  rin := 0
  rout := 0
  rcrc := 0
  seq := 0
  objid := 0
  hbytes := 0
  lastuse := 0
  dec := Dec.reset
  dOlen := 0
  dBytes := []

/-- A codec job (R159). -/
structure Job where
  /-- context (R159) -/
  scid : BitVec 16
  /-- slice, none = host offload (R159) -/
  t : Option Nat
  /-- ticket of a COMP.EXPAND (R159) -/
  expand : Option (BitVec 16)
  /-- input token (R175) -/
  inTok : BitVec 32
  /-- input bytes (R159) -/
  inLen : Nat
  /-- output token (R175) -/
  outTok : BitVec 32
  /-- output limit (R177) -/
  limit : Nat
  /-- the record ends at the end of the input (R164) -/
  fin : Bool
  /-- COMP.DRAINs that had named the stream when the job was dispatched: slice, ticket (R172) -/
  drains : List (Nat × BitVec 16)
  /-- some true = FLUSH point, some false = DRAIN point at the end of the input (R172) -/
  point : Option Bool
  /-- offload entry (R179) -/
  entry : Option Nat
deriving DecidableEq, Repr

/-- Job at reset. -/
def Job.reset : Job where
  scid := 0
  t := none
  expand := none
  inTok := 0
  inLen := 0
  outTok := 0
  limit := 0
  fin := false
  drains := []
  point := none
  entry := none

/-- A codec engine (R159-R161). -/
structure Engine where
  /-- job running (R159) -/
  job : Option Job
  /-- context of the running or latest job (CODEC_ENG) -/
  last : BitVec 16
  /-- the running job kept its hash table (R160) -/
  aff : Bool
  /-- context slot and hash table of the running or latest job, 0 or 1 (R160) -/
  slot : Nat
  /-- bytes before the resume position whose positions are in that hash table (R160) -/
  reach : Nat
  /-- writes of the context when its latest job stopped (R160) -/
  seen : Nat
deriving DecidableEq, Repr

/-- Engine at reset. -/
def Engine.reset : Engine where
  job := none
  last := 0xFFFF
  aff := false
  slot := 1
  reach := 0
  seen := 0

/-- A COMP.DRAIN or FLUSH point not yet reached (R172). -/
structure Drain where
  /-- transport (R172) -/
  t : Nat
  /-- ticket of a COMP.DRAIN; none = FLUSH point (R172) -/
  ticket : Option (BitVec 16)
  /-- streams that have not reached their point, with its place: record and bytes of it before the point (R172) -/
  scids : List (BitVec 16 × BitVec 32 × Nat)
  /-- coded bytes released (R172) -/
  bytes : Nat
  /-- tag of the command that a FLUSH point serves (R25) -/
  tag : BitVec 16
deriving DecidableEq, Repr

/-- Drain at reset. -/
def Drain.reset : Drain where
  t := 0
  ticket := none
  scids := []
  bytes := 0
  tag := 0xFFFF

/-- Codec array (R158-R181). -/
structure Codec where
  /-- stream contexts by SCID (R167) -/
  ctx : SMap Ctx
  /-- CZ0-31, DZ0-31 (R159) -/
  eng : SMap Engine
  /-- points not yet reached (R172) -/
  drains : List Drain
  /-- COMP.EXPAND descriptors taken and not dispatched: slice, ticket (R175) -/
  expands : List (Nat × BitVec 16)
  /-- offload entries submitted up to (R179) -/
  offTail : Nat
  /-- offload entries done and not released (R180) -/
  offDone : List Nat
  /-- next offload entry to begin (R179) -/
  offNext : Nat
  /-- endpoint that last enabled the ring (R241) -/
  offEp : Nat
  /-- deficit of each requester of XP3 (R23) -/
  credit : SMap Nat
  /-- requester whose turn it is (R23) -/
  turn : Nat
  /-- pending input in order of arrival: stream, bytes (R159) -/
  arrivals : List (BitVec 16 × Nat)
  /-- streams not offered again until more input, a record end or a point (R159) -/
  parked : List (BitVec 16)
  /-- engines not dispatched (CODEC_ENG) -/
  retired : SMap Nat
  /-- writes made to each context (R160) -/
  writes : SMap Nat
  /-- the engine that last ran each context, plus 1; 0 = none (R160) -/
  ranOn : SMap Nat
  /-- the engine on which the context's job was abandoned and not yet rerun, plus 1; 0 = none (R161) -/
  avoid : SMap Nat
deriving DecidableEq, Repr

/-- Codec at reset. -/
def Codec.reset : Codec where
  ctx := {}
  eng := {}
  drains := []
  expands := []
  offTail := 0
  offDone := []
  offNext := 0
  offEp := 0
  credit := {}
  turn := 0
  arrivals := []
  parked := []
  retired := {}
  writes := {}
  ranOn := {}
  avoid := {}

/-- A record of a write stream that the host interface holds (R256). -/
structure Rec where
  /-- SEQ (R256) -/
  seq : BitVec 32
  /-- OBJID (R256) -/
  objid : BitVec 128
  /-- host address (R256) -/
  addr : BitVec 64
  /-- LEN (R256) -/
  len : Nat
  /-- bytes received (R256) -/
  got : Nat
  /-- bytes consumed by the compressor (R170) -/
  used : Nat
  /-- its final block has been coded (R170) -/
  coded : Bool
  /-- input buffers held by agent 0, with the bytes in each (R256) -/
  bufs : List (BitVec 32 × Nat)
  /-- whole record placed in dataset buffers (R259) -/
  placed : Bool
  /-- sealed (R72) -/
  sealed : Bool
  /-- every dataset holding it verified or accepted (R258) -/
  verified : Bool
  /-- its index entry has been added (R258) -/
  indexed : Bool
  /-- reported unverified (R260) -/
  unver : Bool
  /-- datasets not yet verified that hold a byte of it, with the bytes (R258) -/
  dss : List (BitVec 32 × Nat)
  /-- tag of its WRITE_RECORDS (R256) -/
  cmd : BitVec 16
  /-- acknowledged under the ledger (R259) -/
  acked : Bool
  /-- bytes of its segments placed so far, headers and padding included (R259) -/
  charge : Nat
deriving DecidableEq, Repr

/-- Rec at reset. -/
def Rec.reset : Rec where
  seq := 0
  objid := 0
  addr := 0
  len := 0
  got := 0
  used := 0
  coded := false
  bufs := []
  placed := false
  sealed := false
  verified := false
  indexed := false
  unver := false
  dss := []
  cmd := 0
  acked := false
  charge := 0

/-- A record decoded on a read stream and not yet delivered (R263). -/
structure Deliv where
  /-- dataset of its FIRST segment (R263) -/
  dsnum : BitVec 32
  /-- SEQ (R262) -/
  seq : BitVec 32
  /-- OLEN (R262) -/
  olen : Nat
  /-- status of the record (R263) -/
  st : BitVec 8
  /-- its original bytes (R263) -/
  bytes : List Byte
  /-- stands for the end-of-data mark (R263) -/
  eod : Bool
deriving DecidableEq, Repr

/-- Deliv at reset. -/
def Deliv.reset : Deliv where
  dsnum := 0
  seq := 0
  olen := 0
  st := 0
  bytes := []
  eod := false

/-- An open stream (R254-R266). -/
structure Stream where
  /-- transport (R254) -/
  t : Nat
  /-- DIR (R254) -/
  read : Bool
  /-- queue it is bound to (R254) -/
  queue : Nat
  /-- acknowledgement mode (R254) -/
  ledger : Bool
  /-- N, the next SEQ (R256) -/
  next : BitVec 32
  /-- records not yet retired, in SEQ order (R256) -/
  recs : List Rec
  /-- U, the lowest unsealed SEQ (R257) -/
  unsealed : BitVec 32
  /-- read position: DSNUM and SEQ (R263) -/
  pos : Option (BitVec 32 × BitVec 32)
  /-- SCID of the record that LOCATE reached (R263) -/
  posScid : BitVec 16
  /-- decoded records not yet delivered, in recording order (R263) -/
  dec : List Deliv
  /-- CLOSE_STREAM under way (R255) -/
  closing : Bool
  /-- it was the last write stream of its transport to close: the close waits for the end-of-data mark (R255) -/
  mark : Bool
  /-- PP0 has been posted for it (R255) -/
  posted : Bool
  /-- end-of-data marks verified when PP0 was posted (R255) -/
  mark0 : Nat
deriving DecidableEq, Repr

/-- Stream at reset. -/
def Stream.reset : Stream where
  t := 0
  read := false
  queue := 0
  ledger := false
  next := 0
  recs := []
  unsealed := 0
  pos := none
  posScid := 0
  dec := []
  closing := false
  mark := false
  posted := false
  mark0 := 0

/-- A command fetched and not complete (R252, R261). -/
structure Cmd where
  /-- queue (R252) -/
  queue : Nat
  /-- its submission entry (R246) -/
  e : Entry
  /-- ACTIVE (else QUEUED) (R252) -/
  active : Bool
  /-- first SEQ of a WRITE_RECORDS (R253) -/
  first : BitVec 32
  /-- records delivered by a READ_RECORDS (R263) -/
  done : Nat
  /-- placement order once ready under the ledger (R259) -/
  ready : Option Nat
  /-- no completion is posted (FLR or link-down) (R243) -/
  dead : Bool
  /-- completes under R258 (R259) -/
  wt : Bool
  /-- SEQ before which records must be sealed or verified (R266) -/
  seqAt : BitVec 32
  /-- PP0 or PP1 has been posted for it (R255) -/
  posted : Bool
  /-- GEN of the index when PP1 was posted (R266) -/
  gen0 : Nat
deriving DecidableEq, Repr

/-- Cmd at reset. -/
def Cmd.reset : Cmd where
  queue := 0
  e := ⟨0, 0, 0, 0, 0, 0, 0, 0, 0⟩
  active := false
  first := 0
  done := 0
  ready := none
  dead := false
  wt := false
  seqAt := 0
  posted := false
  gen0 := 0

/-- A completion ready to be posted (R247, R248). -/
structure Cpl where
  /-- TAG or notice code (R247) -/
  tag : BitVec 16
  /-- STATUS (R247) -/
  status : BitVec 8
  /-- RESULT (R247) -/
  result : BitVec 64
  /-- the entry holds its tag until it is released (R252) -/
  own : Bool
deriving DecidableEq, Repr

/-- Cpl at reset. -/
def Cpl.reset : Cpl where
  tag := 0
  status := 0
  result := 0
  own := true

/-- A queue pair (R244-R250). -/
structure Queue where
  /-- submission tail (R245) -/
  tail : Nat
  /-- submission head SQHEAD (R245) -/
  head : Nat
  /-- entries posted, index (R247) -/
  cqTail : Nat
  /-- completion head (R245) -/
  cqHead : Nat
  /-- posted entries not released (R248) -/
  cqUsed : Nat
  /-- phase of the next entry (R247) -/
  phase : Bool
  /-- completions ready to post, in order (R248) -/
  ready : List Cpl
  /-- negotiated (R250) -/
  neg : Bool
  /-- 0 = 1.0, 1 = 1.1, 2 = 2.0 (R250) -/
  ver : Nat
  /-- entries posted since the last signal (R249) -/
  unsig : Nat
  /-- coalescing timer runs (R249) -/
  timing : Bool
  /-- tags held by posted entries not released, oldest first; none = a notice or a refused duplicate (R252) -/
  tags : List (Option (BitVec 16))
deriving DecidableEq, Repr

/-- Queue at reset. -/
def Queue.reset : Queue where
  tail := 0
  head := 0
  cqTail := 0
  cqHead := 0
  cqUsed := 0
  phase := true
  ready := []
  neg := false
  ver := 0
  unsig := 0
  timing := false
  tags := []

/-- The self-test (R272, R273). -/
structure STest where
  /-- 1 short, 2 extended (R272) -/
  typ : Nat
  /-- transports (R272) -/
  xmask : BitVec 8
  /-- segment (R272) -/
  seg : Nat
  /-- suspended (R273) -/
  susp : Bool
  /-- suspensions of this segment in succession (R273) -/
  suspN : Nat
  /-- suspensions in all (R275) -/
  suspAll : Nat
  /-- queue of the command, none = mailbox (R283) -/
  queue : Option Nat
  /-- tag of the command (R252) -/
  tag : BitVec 16
  /-- first failing unit and its segment (R253) -/
  fail : Option (BitVec 16 × Nat)
deriving DecidableEq, Repr

/-- STest at reset. -/
def STest.reset : STest where
  typ := 0
  xmask := 0
  seg := 0
  susp := false
  suspN := 0
  suspAll := 0
  queue := none
  tag := 0
  fail := none

/-- Host interface (R240-R283). -/
structure Hif where
  /-- queue pairs (R244) -/
  q : SMap Queue
  /-- outstanding commands, in fetch order (R252) -/
  cmds : List Cmd
  /-- open streams by SCID (R254) -/
  streams : SMap (Option Stream)
  /-- notices waiting, oldest first (R278) -/
  notices : List Nat
  /-- power state (R279) -/
  ps : Nat
  /-- power state being entered (R279) -/
  entering : Option Nat
  /-- self-test (R272) -/
  test : Option STest
  /-- log page 0x04, newest first (R275) -/
  tests : List (List Byte)
  /-- log page 0x01, newest first (R275) -/
  errs : List (List Byte)
  /-- entries page 0x01 has taken (R275) -/
  errNo : Nat
  /-- log page 0x05 entries (R275) -/
  unver : List (List Byte)
  /-- generation of page 0x05 (R275) -/
  unverGen : BitVec 32
  /-- placement counter of the ledger (R259) -/
  order : Nat
  /-- MSI-X vectors signalled, newest first (R249) -/
  msix : List Nat
  /-- MSI-X tables, words by endpoint × 8,192 (R240) -/
  msixTab : SMap W32
  /-- ports held in reset by PERST_N (R353) -/
  perst : List Nat
  /-- mailbox BUSY (R283) -/
  mbxBusy : Bool
  /-- MBX_DATA (R283) -/
  mbxData : SMap Byte
deriving DecidableEq, Repr

/-- Hif at reset. -/
def Hif.reset : Hif where
  q := {}
  cmds := []
  streams := {}
  notices := []
  ps := 0
  entering := none
  test := none
  tests := []
  errs := []
  errNo := 0
  unver := []
  unverGen := 0
  order := 0
  msix := []
  msixTab := {}
  perst := []
  mbxBusy := false
  mbxData := {}

/-- An entry of the power-fail recovery log (R315). -/
structure RlogEnt where
  /-- stream (R315) -/
  scid : BitVec 16
  /-- transport (R315) -/
  t : BitVec 8
  /-- REPLAY (R315) -/
  replay : Bool
  /-- acknowledged under the ledger (R315) -/
  ledger : Bool
  /-- first SEQ (R315) -/
  first : BitVec 32
  /-- count (R315) -/
  count : BitVec 32
  /-- last dataset of the range (R315) -/
  dsnum : BitVec 32
deriving DecidableEq, Repr

/-- RlogEnt at reset. -/
def RlogEnt.reset : RlogEnt where
  scid := 0
  t := 0
  replay := false
  ledger := false
  first := 0
  count := 0
  dsnum := 0

/-- A power-fail commit in progress (R312-R314). -/
structure Commit where
  /-- cause (R315) -/
  cause : Nat
  /-- a shortfall occurred (R313) -/
  short : Bool
  /-- transports whose step 3 is done or cut short (R312) -/
  marked : List Nat
  /-- step 4 is writing the commit record (R312) -/
  recording : Bool
  /-- time at the start (R315) -/
  startMs : Nat
  /-- bank voltage at the start, 10 mV (R315) -/
  v0 : Nat
  /-- runs for a warm reset (cause 4) (R320) -/
  warm : Bool
deriving DecidableEq, Repr

/-- Commit at reset. -/
def Commit.reset : Commit where
  cause := 0
  short := false
  marked := []
  recording := false
  startMs := 0
  v0 := 0
  warm := false

/-- A measurement of the bank in progress (R308). -/
structure Meas where
  /-- V0 is the mean of the last millisecond: the sum of its samples -/
  sum : Nat
  /-- and their number -/
  count : Nat
  /-- samples taken since HU_TEST rose -/
  n : Nat
deriving DecidableEq, Repr

/-- Power supervision and Wind-up ledger (R306-R322, R357). -/
structure Pwr where
  /-- VIN, 1/65,536 of 10 mV (R306, R352) -/
  vin : Nat
  /-- bank voltage, 1/65,536 of 10 mV (R306, R352) -/
  vhu : Nat
  /-- samples of the last second with HU_TEST low that no later one undercuts, number and bank voltage, oldest first (R310) -/
  hist : List (Nat × Nat)
  /-- supply samples taken (R306) -/
  sampleNo : Nat
  /-- bank voltage in the latest 1 ms (100 samples), newest first (R308) -/
  recent : List Nat
  /-- that minimum at the latest grant computation (R309) -/
  vminUsed : Nat
  /-- a sag is in force (R307) -/
  sag : Bool
  /-- samples since the sag began (R307) -/
  sagT : Nat
  /-- samples for which VIN has been at or above CLRV (R307) -/
  clrT : Nat
  /-- the measurement in progress (R308) -/
  meas : Option Meas
  /-- HU_TEST (R308) -/
  huTest : Bool
  /-- latest valid capacitance, mF (R313) -/
  cap : Option Nat
  /-- junction temperature at the last valid measurement (R309) -/
  measTemp : Int
  /-- G_t in bytes (R310) -/
  grant : SMap Nat
  /-- D_t in bytes (R311) -/
  debit : SMap Nat
  /-- commit in progress (R312) -/
  commit : Option Commit
  /-- the record is complete and power is awaited (R314) -/
  commitEnded : Bool
  /-- a warm reset held until the commit ends (R320) -/
  warmPend : Bool
  /-- recovery log entries (R315) -/
  rlog : List RlogEnt
  /-- generation (R315) -/
  rlogGen : BitVec 32
  /-- header of the log as page 0x06 shows it (R315) -/
  rlogHead : List Byte
  /-- the idle half of the commit area is erased (R317) -/
  erased : Bool
  /-- index entries saved in the commit record, by transport (R312) -/
  savedIdx : SMap (List ObjEnt)
  /-- thermal cap in force (R357) -/
  therm : Bool
  /-- THERM_N asserted (R357) -/
  trip : Bool
  /-- highest junction temperature, 0.1 C (R357) -/
  temp : Int
  /-- highest since cold reset (R330) -/
  tmax : Int
  /-- level of PFAIL_N (R306) -/
  pfailN : Bool
deriving DecidableEq, Repr

/-- Pwr at reset. -/
def Pwr.reset : Pwr where
  vin := 0
  vhu := 0
  hist := []
  sampleNo := 0
  recent := []
  vminUsed := 0
  sag := false
  sagT := 0
  clrT := 0
  meas := none
  huTest := false
  cap := none
  measTemp := 0
  grant := {}
  debit := {}
  commit := none
  commitEnded := false
  warmPend := false
  rlog := []
  rlogGen := 0
  rlogHead := []
  erased := true
  savedIdx := {}
  therm := false
  trip := false
  temp := 0
  tmax := 0
  pfailN := true

/-- A line of the context cache (R288). -/
structure Line where
  /-- valid (R288) -/
  valid : Bool
  /-- dirty (R290) -/
  dirty : Bool
  /-- line address A div 128 (R288) -/
  tag : Nat
  /-- data (R288) -/
  bytes : List Byte
deriving DecidableEq, Repr

/-- Line at reset. -/
def Line.reset : Line where
  valid := false
  dirty := false
  tag := 0
  bytes := []

/-- Streaming state of a requesting agent (R290). -/
structure CAgent where
  /-- line after the previous written line (R290) -/
  lastW : Nat
  /-- streaming count (R290) -/
  count : Nat
deriving DecidableEq, Repr

/-- CAgent at reset. -/
def CAgent.reset : CAgent where
  lastW := 0
  count := 0

/-- A request waiting for a fill or an eviction (R289, R291). -/
structure MissReq where
  /-- agent (R289) -/
  agent : Nat
  /-- address (R289) -/
  addr : Nat
  /-- bytes of a write (R290) -/
  wr : Option (List Byte)
deriving DecidableEq, Repr

/-- MissReq at reset. -/
def MissReq.reset : MissReq where
  agent := 0
  addr := 0
  wr := none

/-- An outstanding fill (R289). -/
structure CFill where
  /-- line address (R289) -/
  line : Nat
  /-- set (R288) -/
  set : Nat
  /-- way reserved (R289) -/
  way : Nat
  /-- a prefetch (R289) -/
  prefetch : Bool
  /-- line whose eviction must be accepted first (R291) -/
  blocked : Option Nat
deriving DecidableEq, Repr

/-- CFill at reset. -/
def CFill.reset : CFill where
  line := 0
  set := 0
  way := 0
  prefetch := false
  blocked := none

/-- The context cache (R288-R295). -/
structure Cache where
  /-- lines by 16 x set + way (R288) -/
  lines : SMap Line
  /-- round-robin pointers (R289) -/
  rr : SMap Nat
  /-- eviction buffer (R291) -/
  evict : List (Nat × List Byte)
  /-- outstanding fills (R289) -/
  fills : List CFill
  /-- requests waiting (R289) -/
  waits : List MissReq
  /-- streaming counts (R290) -/
  agents : SMap CAgent
  /-- data served: agent, address, bytes; newest first (R288) -/
  reads : List (Nat × Nat × List Byte)
  /-- INITDONE (CC_CTRL) -/
  initDone : Bool
  /-- an INIT walk is running (R293) -/
  initBusy : Bool
  /-- EN (R293) -/
  enabled : Bool
  /-- powered ways (R293) -/
  pwr : BitVec 16
  /-- retired ways (R293) -/
  ret : BitVec 16
  /-- ways being cleaned: way, 0 power-down, 1 retire, 2 to scratchpad (R293) -/
  clean : List (Nat × Nat)
  /-- SPWAYS (R295) -/
  sp : BitVec 8
  /-- SPREADY (R295) -/
  spReady : BitVec 8
  /-- scratchpad bytes (R295) -/
  spMem : SMap Byte
  /-- range walk in progress (R294) -/
  rngBusy : Bool
  /-- snooped writes held for an eviction (R292) -/
  snoopHeld : List (Nat × List Byte)
  /-- hits (CC_HITS) -/
  hits : Nat
  /-- demand misses (CC_MISSES) -/
  misses : Nat
  /-- write-backs (CC_WBACKS) -/
  wbacks : Nat
deriving DecidableEq, Repr

/-- Cache at reset. -/
def Cache.reset : Cache where
  lines := {}
  rr := {}
  evict := []
  fills := []
  waits := []
  agents := {}
  reads := []
  initDone := false
  initBusy := false
  enabled := false
  pwr := 0xFFFF
  ret := 0
  clean := []
  sp := 0
  spReady := 0
  spMem := {}
  rngBusy := false
  snoopHeld := []
  hits := 0
  misses := 0
  wbacks := 0

/-- HBM and memory error control (R284-R304). -/
structure Mem where
  /-- HBM bytes by device address (R284) -/
  hbm : SMap Byte
  /-- poisoned lines, address div 128 (R297) -/
  poison : List Nat
  /-- stored codewords in error, by device address div 8: number of wrong bits (R296) -/
  bad : SMap Nat
  /-- SRAM words in error, by macro x 2^16 + word (R296) -/
  sramBad : SMap Nat
  /-- home group (R285) -/
  home : Nat
  /-- mirror group (R285) -/
  mirror : Nat
  /-- mirroring active (R286) -/
  mirrored : Bool
  /-- next address of the scrubber (SCR_POS) -/
  scrPos : Nat
  /-- ARM (R303) -/
  flipArm : Bool
  /-- spare words, by macro x 4 + entry (R300) -/
  spare : SMap (BitVec 64)
  /-- SRAM words, by macro x 2^16 + word (R300) -/
  sram : SMap (BitVec 64)
  /-- clear sweep complete (R287) -/
  swept : Bool
deriving DecidableEq, Repr

/-- Mem at reset. -/
def Mem.reset : Mem where
  hbm := {}
  poison := []
  bad := {}
  sramBad := {}
  home := 0
  mirror := 1
  mirrored := false
  scrPos := 0x10000000000
  flipArm := false
  spare := {}
  sram := {}
  swept := false

/-- A fault-log entry (R329). -/
structure FltEnt where
  /-- time (R329) -/
  ms : Nat
  /-- unit identifier (R329) -/
  unit : BitVec 16
  /-- KIND (R329) -/
  kind : Nat
  /-- event code (R329) -/
  code : Nat
  /-- escalations within the window (R329) -/
  win : Nat
  /-- detail (R329) -/
  detail : BitVec 64
deriving DecidableEq, Repr

/-- FltEnt at reset. -/
def FltEnt.reset : FltEnt where
  ms := 0
  unit := 0
  kind := 0
  code := 0
  win := 0
  detail := 0

/-- Fault classification and logs (R323-R331). -/
structure Flt where
  /-- fault log, newest first (R329) -/
  log : List FltEnt
  /-- entries since cold reset (R329) -/
  count : Nat
  /-- fault summary in flash (R329) -/
  summary : List FltEnt
  /-- escalation times by unit, ms (R323) -/
  esc : SMap (List Nat)
  /-- retries of the event in progress by unit (R323) -/
  retries : SMap Nat
  /-- units whose retry waits for its back-off (R323) -/
  pendRetry : List (BitVec 16)
  /-- retired units (R328) -/
  retired : List (BitVec 16)
  /-- a macro fault without retirement occurred (R328) -/
  macroFail : Bool
  /-- generation of the health log (R330) -/
  healthGen : BitVec 32
  /-- power-on hours (R330) -/
  hours : Nat
  /-- offsets of accesses logged as ignored or unmapped, newest first (R33) -/
  denied : List (BitVec 32)
deriving DecidableEq, Repr

/-- Flt at reset. -/
def Flt.reset : Flt where
  log := []
  count := 0
  summary := []
  esc := {}
  retries := {}
  pendRetry := []
  retired := []
  macroFail := false
  healthGen := 0
  hours := 0
  denied := []

/-- Statistics freeze (R331, R333). -/
structure Tel where
  /-- DONE (TEL_CTRL) -/
  done : Bool
  /-- GEN (TEL_CTRL) -/
  gen : BitVec 16
  /-- freeze time (R331) -/
  ms : Nat
  /-- frozen counters by offset x 32 + low bit (R333) -/
  shadow : SMap (BitVec 64)
deriving DecidableEq, Repr

/-- Tel at reset. -/
def Tel.reset : Tel where
  done := true
  gen := 0
  ms := 0
  shadow := {}

/-- An extent or a region recorded on tape (R86-R88). -/
structure TapeItem where
  /-- TYPE of a mark; none = a dataset (R86) -/
  mark : Option Nat
  /-- DSNUM of a dataset, LASTDS of a mark (R67, R86) -/
  dsnum : BitVec 32
  /-- wrap (R86) -/
  wrap : Nat
  /-- LPOS of its first channel bit (R97) -/
  lpos : BitVec 32
  /-- servo frames it takes, rounded up (R110) -/
  frames : Nat
  /-- a dataset's payload up to its last used byte (R66) -/
  bytes : List Byte
deriving DecidableEq, Repr

/-- TapeItem at reset. -/
def TapeItem.reset : TapeItem where
  mark := none
  dsnum := 0
  wrap := 0
  lpos := 0
  frames := 0
  bytes := []

/-- A cartridge and its cartridge memory, outside the device (R148, R267). -/
structure Cart where
  /-- cartridge memory records an EVF-2 volume (R267) -/
  evf2 : Bool
  /-- what is recorded, in recording order (R87) -/
  tape : List TapeItem
  /-- wraps (MC_NWRAP) -/
  wraps : Nat
  /-- lateral position of each wrap in nm, signed (R148, R239) -/
  wrapPos : SMap Int
  /-- WRAPLEN (R125) -/
  wrapLen : BitVec 23
  /-- SV_BOW0 (R153) -/
  bow0 : BitVec 23
  /-- SV_BOW1 (R153) -/
  bow1 : BitVec 23
  /-- end-of-wrap warning (R51) -/
  eotw : BitVec 32
  /-- beginning-of-wrap warning (R51) -/
  botw : BitVec 32
  /-- a calibration region is recorded (R149) -/
  calRegion : Bool
  /-- FMTID, VERSION and LIVEMASK recorded for the region (R148) -/
  calFmt : BitVec 16 × BitVec 16 × BitVec 64
  /-- run-up distance before LPOS 0 of the calibration passes, servo frames (R148) -/
  calRun : BitVec 32
  /-- distance from the P to the Q burst at the reference lines of bands A and B, nm (R152) -/
  refLine : Nat × Nat
  /-- seed of reel A's radius (R209) -/
  radA : BitVec 16
  /-- seed of reel B's radius (R209) -/
  radB : BitVec 16
  /-- DSNUM of the first dataset of the latest index, as cartridge memory holds it; 0xFFFFFFFF = none (R89, R268) -/
  idxDs : BitVec 32
  /-- LPOS of the latest index, as cartridge memory holds it (R89, R268) -/
  idxLpos : BitVec 32
deriving DecidableEq, Repr

/-- Cart at reset. -/
def Cart.reset : Cart where
  evf2 := false
  tape := []
  wraps := 1
  wrapPos := {}
  wrapLen := 0
  bow0 := 0
  bow1 := 0
  eotw := 0
  botw := 0
  calRegion := false
  calFmt := (0, 0, 0)
  calRun := 0
  refLine := (0, 0)
  radA := 0
  radB := 0
  idxDs := 0xFFFFFFFF
  idxLpos := 0

/-- A head module, outside the device (R2, R95, R100). -/
structure Head where
  /-- 0 absent, 1 HM-1, 2 HM-2 (R42) -/
  kind : Nat
  /-- tracks the head does not have (R42) -/
  missing : BitVec 64
  /-- verify lag, even wraps (R100) -/
  lagF : BitVec 16
  /-- verify lag, odd wraps (R100) -/
  lagR : BitVec 16
  /-- write delays (R95) -/
  delay : SMap (BitVec 8)
  /-- read elements of an HM-2 aligned with the 32 EVF-1 tracks (R90) -/
  aligned : BitVec 64
  /-- track pitch in nm (R148, R152) -/
  pitch : Nat
deriving DecidableEq, Repr

/-- Head at reset. -/
def Head.reset : Head where
  kind := 0
  missing := 0
  lagF := 0
  lagR := 0
  delay := {}
  aligned := 0
  pitch := 0

/-- One transport slice (R17). -/
structure Tp where
  /-- sequencer (R37) -/
  seq : Seq
  /-- COMP port, 16 slots (R19) -/
  comp : Port
  /-- ASM port, 8 slots (R19) -/
  asmP : Port
  /-- ENC port, 8 slots (R19) -/
  encP : Port
  /-- WL port, 4 slots (R19) -/
  wlP : Port
  /-- VFY port, 8 slots (R19) -/
  vfyP : Port
  /-- RWQ port, 8 slots (R19) -/
  rwqP : Port
  /-- IDX port, 16 slots (R19) -/
  idxP : Port
  /-- TBX port, 16 slots (R19) -/
  tbxP : Port
  /-- MOT port, 4 slots (R19) -/
  motP : Port
  /-- assembler (R71) -/
  asm : Asm
  /-- encoder (R48) -/
  enc : Enc
  /-- write lanes (R94) -/
  wl : Wl
  /-- verify and rewrite (R102) -/
  vfy : Vfy
  /-- index stage (R359) -/
  idx : Idx
  /-- speed matching (R198) -/
  yoyo : Yoyo
  /-- motion (R206) -/
  mot : Mot
  /-- reel A loop (R205) -/
  loopA : MLoop
  /-- reel B loop (R205) -/
  loopB : MLoop
  /-- lateral loop (R205) -/
  loopL : MLoop
  /-- skew loop (R205) -/
  loopS : MLoop
  /-- read channel (R120) -/
  rc : RcT
  /-- head module (R42) -/
  head : Head
  /-- cartridge in the transport (R267) -/
  cart : Option Cart
  /-- a cartridge is loaded (R267) -/
  loaded : Bool
  /-- the loaded cartridge is formatted (R267) -/
  formatted : Bool
  /-- write-disabled: 0 no, else the cause of R275 (R260) -/
  wrDis : Nat
  /-- UCIe module down or retired (R15) -/
  offline : Bool
  /-- Puppeteer installs the image again once the started descriptors have completed (R324) -/
  reinstall : Bool
  /-- write-disabled by a permanent sequencer fault until LOAD_PROGRAM (R324) -/
  seqDis : Bool
  /-- wrap and LPOS of the append position that firmware handed the write entry at its latest start (R87, R254) -/
  handed : Option (Nat × BitVec 32)
  /-- descriptors issued by the sequencer (R50) -/
  issueNo : Nat
  /-- UCIe module trained (R15) -/
  ucieUp : Bool
deriving DecidableEq, Repr

/-- Tp at reset. -/
def Tp.reset : Tp where
  seq := Seq.reset
  comp := Port.reset
  asmP := Port.reset
  encP := Port.reset
  wlP := Port.reset
  vfyP := Port.reset
  rwqP := Port.reset
  idxP := Port.reset
  tbxP := Port.reset
  motP := Port.reset
  asm := Asm.reset
  enc := Enc.reset
  wl := Wl.reset
  vfy := Vfy.reset
  idx := Idx.reset
  yoyo := Yoyo.reset
  mot := Mot.reset
  loopA := MLoop.reset
  loopB := MLoop.reset
  loopL := MLoop.reset
  loopS := MLoop.reset
  rc := RcT.reset
  head := Head.reset
  cart := none
  loaded := false
  formatted := false
  wrDis := 0
  offline := false
  reinstall := false
  seqDis := false
  handed := none
  issueNo := 0
  ucieUp := false

/-- The whole device (R14, R17). -/
structure State where
  /-- the commands waiting, first in first out (the model's own queue) -/
  pending : List Instr
  /-- counter that free values are applied to (the model's own) -/
  freeCtr : Nat
  /-- CCLK cycles since cold reset (R42) -/
  clk : Nat
  /-- start-up step reached (R321) -/
  boot : Nat
  /-- transport slices (R17) -/
  tp : Oct Tp
  /-- Marionette, shared part (R205) -/
  mrn : Mrn
  /-- Toybox (R182) -/
  tbx : Tbx
  /-- codec array (R158) -/
  codec : Codec
  /-- host interface (R240) -/
  hif : Hif
  /-- power supervision (R306) -/
  pwr : Pwr
  /-- context cache (R288) -/
  cache : Cache
  /-- HBM and ECC (R284) -/
  mem : Mem
  /-- faults (R323) -/
  flt : Flt
  /-- telemetry (R331) -/
  tel : Tel
  /-- BAR0 registers not mirrored by another field, by offset (R7) -/
  regs : SMap (BitVec 32)
  /-- latched upper halves, by lower offset (R9) -/
  pairLatch : SMap (Option (BitVec 32))
  /-- held lower writes, by lower offset (R9) -/
  pairHeld : SMap (Option (BitVec 32))
  /-- value returned by the latest register read (R7) -/
  readData : BitVec 32
  /-- capture channels 4c + n whose trigger has occurred (R155) -/
  capTrig : List Nat
  /-- capture channels 4c + n (R155) -/
  caps : SMap CapCh
  /-- host memory as the device reads and writes it (R246) -/
  hostMem : SMap Byte
  /-- fused key slots (SHA-384 digests) (R62) -/
  fuses : SMap (BitVec 384)
  /-- revoke fuses (R62) -/
  revoked : BitVec 8
  /-- HBM_STACKS fuse: 1 two stacks, 2 four stacks (GLB_CFG) -/
  hbmStacks : Nat
  /-- F-die stepping fuse (GLB_ID) -/
  fstep : BitVec 4
  /-- chiplet stepping fuse (GLB_ID) -/
  rstep : BitVec 4
  /-- CC_MODE strap as sampled (R341) -/
  ccMode : Bool
  /-- PE_BIF0 strap as sampled (R341) -/
  bif0 : Bool
  /-- PE_BIF1 strap as sampled (R341) -/
  bif1 : Bool
  /-- PROVISION strap, read live (R341) -/
  provision : Bool
  /-- cause of the last reset (GLB_RST) -/
  rstCause : Nat
  /-- program images: 1 EVF-1, 2 EVF-2, 3 ML-1 and 4, 5 boot image slots A and B in the boot flash, outside the device; 16 + t the F image installed on transport t and 24 the L image, in the program image store (R285) (R317) -/
  images : SMap (List Byte)
  /-- a boot image of the flash verifies, where its slots are not listed in images (R318) -/
  bootGood : Bool
deriving DecidableEq, Repr

/-- State at reset. -/
def State.reset : State where
  pending := []
  freeCtr := 0
  clk := 0
  boot := 1
  tp := Oct.fill Tp.reset
  mrn := Mrn.reset
  tbx := Tbx.reset
  codec := Codec.reset
  hif := Hif.reset
  pwr := Pwr.reset
  cache := Cache.reset
  mem := Mem.reset
  flt := Flt.reset
  tel := Tel.reset
  regs := {}
  pairLatch := {}
  pairHeld := {}
  readData := 0
  capTrig := []
  caps := {}
  hostMem := {}
  fuses := {}
  revoked := 0
  hbmStacks := 2
  fstep := 0
  rstep := 0
  ccMode := false
  bif0 := false
  bif1 := false
  provision := false
  rstCause := 0
  images := {}
  bootGood := true

end Sys2Proof.Machine
end

