-- ==== Sys2Proof/Machine/Ops.lean ====
section
/-! DEFINITION. Named operations over the state: registers, slices, stage ports and their completions (R44, R45), free
values, the fault log (R329) and the time. Everything that reads or writes a register field or a port goes through here. -/
namespace Sys2Proof.Machine

/-! ### Registers -/

/-- The stored register at an offset (R7). -/
def reg (s : State) (off : Nat) : W32 := s.regs.get (regReset off) off

/-- Store a register. -/
def setReg (off : Nat) (v : W32) (s : State) : State := { s with regs := s.regs.set (regReset off) off v }

/-- A field of a stored register (R5). -/
def fld (s : State) (off : Nat) (f : Fld) : Nat := fieldB (reg s off) f.lo f.w

/-- Store a field of a register. -/
def setFld (off : Nat) (f : Fld) (x : Nat) (s : State) : State :=
  setReg off (BitVec.ofNat 32 (putField (reg s off).toNat f.lo f.w x)) s

/-- Set a status bit. -/
def raiseFld (off : Nat) (f : Fld) (s : State) : State := setFld off f 1 s

/-- Advance a saturating counter field. -/
def bumpFld (off : Nat) (f : Fld) (s : State) : State := setFld off f (satInc f.w (fld s off f)) s

/-- Advance a saturating counter field by n. -/
def bumpFldBy (off : Nat) (f : Fld) (n : Nat) (s : State) : State := setFld off f (satAdd f.w (fld s off f) n) s

/-- A 64-bit register pair, lower register first (R9). -/
def pair (s : State) (lo hi : Nat) : Nat := (reg s lo).toNat + 2 ^ 32 * (reg s hi).toNat

/-- Store a 64-bit register pair. -/
def setPair (lo hi v : Nat) (s : State) : State :=
  setReg hi (BitVec.ofNat 32 (v / 2 ^ 32)) (setReg lo (BitVec.ofNat 32 v) s)

/-! ### Time, free values, roundings -/

/-- Milliseconds since cold reset: CCLK is 1.25 GHz (R28). -/
def nowMs (s : State) : Nat := s.clk / 1250000

/-- Use up one free value: n = the value used, and the counter advances (log entry 2). -/
def takeFree (s : State) : Nat × State := (Config.freeNat s.freeCtr, { s with freeCtr := s.freeCtr + 1 })

/-- A quotient whose rounding the spec leaves open: exact where it divides, else the value below or above (log entry 9). -/
def openQuot (n d : Nat) : Nat := if n % d = 0 then n / d else if Config.roundUp n d then n / d + 1 else n / d

/-! ### Transport slices -/

/-- Slice t (R17). -/
def tpOf (s : State) (t : Tid) : Tp := s.tp.get t

/-- Change slice t. -/
def modTp (t : Tid) (f : Tp → Tp) (s : State) : State := { s with tp := s.tp.set t (f (s.tp.get t)) }

/-- Whether a transport is offline: its UCIe module is down or retired (R15, R328). -/
def isOffline (s : State) (t : Tid) : Bool := (tpOf s t).offline || !(tpOf s t).ucieUp

/-- The transport a number names (R12); numbers above 7 name none, and are taken modulo 8 where hardware gives them. -/
def tid (n : Nat) : Tid := Fin.ofNat 8 n

/-- All transports. -/
def allT : List Tid := [0, 1, 2, 3, 4, 5, 6, 7]

/-- Do something for each of a list, in order. -/
def forAll {α : Type} (l : List α) (f : α → State → State) (s : State) : State := l.foldl (fun x a => f a x) s

/-- A port stands in the slice under its number (R43): 0 COMP, 1 ASM, 2 ENC, 3 WL, 4 VFY, 5 RWQ, 6 IDX, 7 TBX, 8 MOT. -/
def portOf (x : Tp) (n : Nat) : Port :=
  match n with
  | 0 => x.comp
  | 1 => x.asmP
  | 2 => x.encP
  | 3 => x.wlP
  | 4 => x.vfyP
  | 5 => x.rwqP
  | 6 => x.idxP
  | 7 => x.tbxP
  | _ => x.motP

/-- Replace a port of a slice. -/
def setPort (n : Nat) (p : Port) (x : Tp) : Tp :=
  match n with
  | 0 => { x with comp := p }
  | 1 => { x with asmP := p }
  | 2 => { x with encP := p }
  | 3 => { x with wlP := p }
  | 4 => { x with vfyP := p }
  | 5 => { x with rwqP := p }
  | 6 => { x with idxP := p }
  | 7 => { x with tbxP := p }
  | _ => { x with motP := p }

/-- Change port n of slice t. -/
def modPort (t : Tid) (n : Nat) (f : Port → Port) (s : State) : State := modTp t (fun x => setPort n (f (portOf x n)) x) s

/-- Slots of each port (R19). -/
def portDepth (n : Nat) : Nat :=
  match n with
  | 0 => 16
  | 1 => 8
  | 2 => 8
  | 3 => 4
  | 4 => 8
  | 5 => 8
  | 6 => 16
  | 7 => 16
  | _ => 4

/-- COMP and TBX post completions out of order (R45). -/
def portLoose (n : Nat) : Bool := n == 0 || n == 7

/-- Slots in use: descriptors not finished, and completions not popped (R44). -/
def portUsed (p : Port) : Nat := p.slots.length + p.cpl.length

/-- Whether the port has a free slot. -/
def portFree (n : Nat) (p : Port) : Bool := decide (portUsed p < portDepth n)

/-- A completion word (R45). -/
def cplWord (ticket : BitVec 16) (st : BitVec 8) (val : W32) : W64 :=
  BitVec.ofNat 64 (ticket.toNat + 2 ^ 16 * st.toNat + 2 ^ 32 * val.toNat)

/-! ### Descriptors (R43, R46) -/

/-- Fields of a descriptor: a 64-bit word W0-W3, the operation, ARG0 and QUIET. -/
def descWord (d : BitVec 256) (i : Nat) : Nat := fieldB d (64 * i) 64
/-- PORT of a descriptor. -/
def descPort (d : BitVec 256) : Nat := fieldB d 0 4
/-- OP of a descriptor. -/
def descOp (d : BitVec 256) : Nat := fieldB d 4 8
/-- QUIET of a descriptor. -/
def descQuiet (d : BitVec 256) : Bool := fieldB d 12 1 == 1
/-- ARG0 of a descriptor. -/
def descArg (d : BitVec 256) : Nat := fieldB d 32 32

/-- STATUS codes common to all ports (R46). -/
abbrev stOk : BitVec 8 := 0x00
abbrev stRejected : BitVec 8 := 0x01
abbrev stNoBuffer : BitVec 8 := 0x02
abbrev stFlushed : BitVec 8 := 0x03
abbrev stPoisoned : BitVec 8 := 0x04
abbrev stUncorrectable : BitVec 8 := 0x05
abbrev stNotFound : BitVec 8 := 0x06
abbrev stLimit : BitVec 8 := 0x07
abbrev stMotionFault : BitVec 8 := 0x08
abbrev stIncomplete : BitVec 8 := 0x09
abbrev stNotOpen : BitVec 8 := 0x0A

/-- Completions of an in-order port leave once every earlier descriptor has finished (R45). -/
def portFlush : List Slot → List Slot × List W64
  | [] => ([], [])
  | x :: r =>
    match x.fin with
    | none => (x :: r, [])
    | some (st, v) => ((portFlush r).1, cplWord x.ticket st v :: (portFlush r).2)

/-- The stage has finished the descriptor with this ticket: a QUIET one that succeeded frees its slot, any other
posts its completion, in issue order except on COMP and TBX (R44, R45). -/
def portFinish (n : Nat) (ticket : BitVec 16) (st : BitVec 8) (val : W32) (p : Port) : Port :=
  match p.slots.find? (fun x => x.ticket == ticket) with
  | none => p
  | some x =>
    if descQuiet x.desc && st == stOk then
      let r := portFlush (p.slots.filter (fun y => y.ticket != ticket))
      if portLoose n then { p with slots := p.slots.filter (fun y => y.ticket != ticket) }
      else { p with slots := r.1, cpl := p.cpl ++ r.2 }
    else if portLoose n then
      { p with slots := p.slots.filter (fun y => y.ticket != ticket), cpl := p.cpl ++ [cplWord ticket st val] }
    else
      let r := portFlush (p.slots.map (fun y => if y.ticket == ticket then { y with fin := some (st, val), started := true } else y))
      { p with slots := r.1, cpl := p.cpl ++ r.2 }

/-- The descriptors a port holds that no stage has finished. -/
def portOpen (p : Port) : List Slot := p.slots.filter (fun x => x.fin.isNone)

/-- The oldest descriptor of the port that its stage has not taken (R94 and the queue order of R43). -/
def portHead (p : Port) : Option Slot := p.slots.find? (fun x => x.fin.isNone && !x.started)

/-- The stage takes the descriptor with this ticket. -/
def portStart (ticket : BitVec 16) (p : Port) : Port :=
  { p with slots := p.slots.map (fun y => if y.ticket == ticket then { y with started := true } else y) }

/-- Whether any port of the slice holds a descriptor that is not finished. -/
def tpBusy (x : Tp) : Bool := (List.range 9).any (fun n => !(portOpen (portOf x n)).isEmpty)

/-- Whether any port of the slice has a completion to pop. -/
def tpCpls (x : Tp) : Bool := (List.range 9).any (fun n => !(portOf x n).cpl.isEmpty)

/-! ### Program images on a sequencer (R63) -/

/-- Every port's ticket back to 0 (R63). -/
def zeroTickets (x : Tp) : Tp :=
  (List.range 9).foldl (fun y n => setPort n { portOf y n with nextTicket := 0 } y) x

/-- What installing an image does to the sequencer besides its code (R63). The rule does not list EXL, the watchdog count and what a
halt or a wait has left: the model clears them (log entry 36). -/
def installSeq (q : Seq) : Seq :=
  { q with
    data := q.imgData, g := { }, d := { }, timer := 0, lposcmp := 0, latched := 0
    evec := BitVec.setWidth 64 q.imgEvec, exl := false, haltp := false, wait := .none, barRes := none, step := false
    wdog := 0, st := .loaded }

/-- The entry address RESTART or RUN starts at (R61). -/
def entryOf (q : Seq) (write : Bool) : BitVec 16 :=
  BitVec.setWidth 16 (if write then q.entryWrite else q.entryRead)

/-- RUN from LOADED starts the program at an entry (TS_CTRL, R57); CYCLE counts from the start (R42). -/
def startSeq (write : Bool) (q : Seq) : Seq :=
  { q with
    st := .running, pc := entryOf q write, cycle := 0, wrote := write, haltp := false, step := false, wait := .none, barRes := none }

/-- RESTART from HALTED starts it with EXL, TIMER, LPOSCMP and every latched event cleared besides (TS_CTRL, R254). -/
def restartSeq (write : Bool) (q : Seq) : Seq :=
  { startSeq write q with exl := false, timer := 0, lposcmp := 0, latched := 0 }

/-- Puppeteer installs a failed sequencer's image again and starts it, once every started descriptor has completed (R324
class 10). -/
def reinstallWhenDone (x : Tp) : Tp :=
  if x.reinstall && !tpBusy x then
    { (zeroTickets x) with reinstall := false, seq := startSeq (x.seq.wrote && !x.seqDis) (installSeq x.seq) }
  else x

/-- Puppeteer starts a program that is LOADED, or HALTED with every descriptor completed and no completion waiting, at the
entry that waits to be started (R254; log entry 34). -/
def startWhenDone (x : Tp) : Tp :=
  match x.seq.startPend with
  | none => x
  | some w =>
    match x.seq.st with
    | .loaded => { x with seq := { startSeq w x.seq with startPend := none } }
    | .halted => if tpBusy x || tpCpls x then x else { x with seq := { restartSeq w x.seq with startPend := none } }
    | _ => x

/-- A stage posts a descriptor's end on its port (R45). -/
def finish (t : Tid) (n : Nat) (ticket : BitVec 16) (st : BitVec 8) (val : W32) (s : State) : State :=
  modTp t (fun x => startWhenDone (reinstallWhenDone (setPort n (portFinish n ticket st val (portOf x n)) x))) s

/-- A stage takes a descriptor. -/
def takeDesc (t : Tid) (n : Nat) (ticket : BitVec 16) (s : State) : State := modPort t n (portStart ticket) s

/-! ### Stages and their descriptors -/

/-- A descriptor's reserved and unlisted bits are zero (R43, R47): the masks say which bits of ARG0, W1, W2 and W3 the
operation lists. -/
def descFits (d : BitVec 256) (arg : W32) (w1 w2 w3 : W64) : Bool :=
  fieldB d 13 3 == 0 && (partB d 32 32 &&& ~~~arg) == 0 && (partB d 64 64 &&& ~~~w1) == 0
    && (partB d 128 64 &&& ~~~w2) == 0 && (partB d 192 64 &&& ~~~w3) == 0

/-- End a descriptor REJECTED (R46). -/
def reject (t : Tid) (n : Nat) (x : Slot) (s : State) : State := finish t n x.ticket stRejected 0 s

/-- The stage of port n looks at the oldest descriptor it has not taken: with operation op it does f; an operation the
port does not define ends REJECTED (R46); any other operation is another row's. -/
def onHead (t : Tid) (n op nops : Nat) (f : Slot → State → State) (s : State) : State :=
  match portHead (portOf (tpOf s t) n) with
  | none => s
  | some x =>
    if descOp x.desc = op then f x s
    else if 1 ≤ descOp x.desc ∧ descOp x.desc ≤ nops then s
    else reject t n x s

/-! ### Who may write (R20, R21 and the register rules of the chapters) -/

/-- TS_CTRL.DBG_EN of transport t. -/
def dbgEn (s : State) (t : Nat) : Bool := fld s (Reg.tsCtrl t) Fld.tsCtrlDbgEn == 1

/-- Puppeteer may write; the host only while DBG_EN of one of the transports is 1. -/
def srcMay (src : Src) (l : List Nat) (s : State) : Bool :=
  match src with
  | .puppeteer => true
  | .host _ => l.any (fun t => dbgEn s t)

/-! ### The fault log (R329) -/

/-- Append an entry; the ring holds 4,096; kinds 2 to 4 also go to the fault summary in flash. -/
def logFault (unit : BitVec 16) (kind code win : Nat) (detail : W64) (s : State) : State :=
  let e : FltEnt := ⟨nowMs s, unit, kind, code, win, detail⟩
  let s := if s.flt.log.length < 4096 then s else raiseFld Reg.fltStat Fld.fltStatLogwrap s
  { s with flt := { s.flt with
      log := (e :: s.flt.log).take 4096, count := (s.flt.count + 1) % 2 ^ 32
      summary := if kind = 2 ∨ kind = 3 ∨ kind = 4 then s.flt.summary ++ [e] else s.flt.summary } }

/-- A unit identifier: class and index (R36). -/
def unitId (cls idx : Nat) : BitVec 16 := BitVec.ofNat 16 (cls * 4096 + idx % 4096)

/-- An ignored command of a unit is logged (R326, TS_CTRL). -/
def logIgnored (unit : BitVec 16) (code : Nat) (s : State) : State := logFault unit 6 code 0 0 s

/-- Whether TS_CTRL.LOCK of a transport is set (R10). -/
def tsLocked (s : State) (t : Nat) : Bool := fld s (Reg.tsCtrl t) Fld.tsCtrlLock == 1

/-- An access that has no effect is logged with its offset (R7, R20, R33). The spec names no log that takes it: a list of offsets of
its own, which no log page shows, is the model's choice (log entry 35). -/
def logAccess (off : Nat) (s : State) : State :=
  { s with flt := { s.flt with denied := BitVec.ofNat 32 off :: s.flt.denied } }

end Sys2Proof.Machine
end

