-- ==== Sys2Proof/Machine/Detector.lean ====
section
/-! DEFINITION. The lane pipeline from ADC samples to soft values (R120, R121, R128-R130, R137), and the LDPC engines' layered
min-sum (R139). All arithmetic is exact: the 6-bit ADC and the soft value are the only quantisations of a read lane (R137). What the
spec gives no formula for - interpolation, the loops' error detectors, the level of a channel bit, the scale of the metric - is a free
value (log entry 38). -/
namespace Sys2Proof.Machine

/-! ### Rounding of loop values -/

/-- A number rounded to a whole one, the direction open where it is none (log entry 38). -/
def openRound (r : Rat) : Int := if (r.num : Rat) / r.den = r.floor then r.floor else if Config.ratUp r then r.floor + 1 else r.floor

/-- A number rounded to the nearest whole one, the direction open half way (R137). -/
def nearest (r : Rat) : Int :=
  let f := r.floor
  let d := r - f
  if d < 1 / 2 then f else if 1 / 2 < d then f + 1 else if Config.ratUp r then f + 1 else f

/-- A number held within limits. -/
def clampRat (lo hi x : Rat) : Rat := if x < lo then lo else if hi < x then hi else x

/-! ### Stages (R120) -/

/-- An ADC sample after asymmetry correction: y = x + (ASYM / 128) x² / 32, x from -32 to 31. -/
def corrected (asym : Rat) (x : BitVec 6) : Rat := x.toInt + asym / 128 * ((x.toInt : Rat) ^ 2) / 32

/-- The 10-tap FIR over the T-spaced samples, latest first; taps in units of 2^-14 (R157). -/
def firOut (taps : List Int) (win : List Rat) : Rat := (List.zipWith (fun (w : Int) x => (w : Rat) / 2 ^ 14 * x) taps win).foldl (· + ·) 0

/-- The 4-point DFT of the 0b1100 tone over samples, latest first: real and imaginary part (R129). -/
def toneDft : List Rat → Rat × Rat
  | d :: c :: b :: a :: r => ((toneDft r).1 + a - c, (toneDft r).2 + d - b)
  | _ => (0, 0)

/-- The tone's energy is above PDET sixteenths of a full-scale tone's, over 32 samples (R129, RC_ACQ). -/
def toneSeen (acq : W32) (win : List Rat) : Bool :=
  let d := toneDft win
  win.length == 32 && decide ((fieldB acq 28 4 : Rat) / 16 * Config.toneFull < d.1 ^ 2 + d.2 ^ 2)

/-- What a lane reads from registers and tables for the samples of one arrival. -/
structure LaneCfg where
  /-- ADC samples per channel bit, 4.0 * 10^9 / f_ch (R121) -/
  step : Rat
  /-- RC_ACQ -/
  acq : W32
  /-- zone entry of a slot that begins now (R126) -/
  entry : W32
  /-- taps and target of its preset (R157) -/
  taps : List Int
  target : List Int
  /-- a slot that begins now is acquired afresh (R128) -/
  fresh : Bool
  /-- the lane is in FRAMED mode (R131) -/
  framed : Bool

/-- A fresh acquisition starts the loops from the latched entry and loads the entry's preset (R128). -/
def startLoops (c : LaneCfg) (p : Loops) : Loops :=
  { p with
    freq := 0, held := 0, gain := fieldB c.entry 0 8, offset := signedOf 8 (fieldB c.entry 8 8), asym := signedOf 8 (fieldB c.entry 16 8)
    taps := c.taps, target := c.target, afresh := true }

/-- A slot begins: what the loops hold at the end of the slot before is kept for tracking (R127), and the loops go on or start afresh
(R128). -/
def beginSlot (c : LaneCfg) (p : Loops) : Loops :=
  let p := { p with fin := (p.gain, p.offset, p.asym), bitNo := some 0 }
  if c.fresh then startLoops c p else { p with afresh := false }

/-- One update of the loops with the known bit of a data-aided one, none for a decision-directed one (R128-R130): timing of second
order with its residual clamped at 1 % of nominal, gain, offset and asymmetry, at acquisition or tracking gains. -/
def loopStep (c : LaneCfg) (acquiring : Bool) (known : Option Bool) (p : Loops) : Loops :=
  let e (n : Nat) : Rat := Config.loopError n known p.eqs
  let kp := if acquiring then fieldB c.acq 0 4 else fieldB c.acq 8 4
  let kf := if acquiring then fieldB c.acq 4 4 else fieldB c.acq 12 4
  let g := if acquiring then fieldB c.acq 16 4 else fieldB c.acq 20 4
  let o : Rat := (if acquiring then 32 else 1) / 2 ^ fieldB c.acq 24 4
  let freq := clampRat (-1 / 100) (1 / 100) (p.freq + e 0 / 2 ^ (kf + 4))
  let held := if freq = 1 / 100 ∨ freq = -1 / 100 then p.held + 1 else 0
  { p with
    freq := freq, phase := p.phase + c.step * (e 0 / 2 ^ kp), held := held, lost := p.lost || decide (4096 ≤ held)
    gain := clampRat 0 255 (p.gain + e 1 / 2 ^ g), offset := clampRat (-128) 127 (p.offset + o * e 2)
    asym := clampRat (-128) 127 (p.asym + o * e 3) }

/-- The interpolator's phase is set to the DFT estimate (R129 step 2). -/
def tonePhase (c : LaneCfg) (p : Loops) : Loops :=
  let d := toneDft p.win
  { p with phase := p.phase + c.step * Config.tonePhase d.1 d.2 }

/-- What follows the sample of one channel bit: the tone starts an acquisition in SEARCH mode, the steps of R129 otherwise. -/
def afterBit (c : LaneCfg) (p : Loops) : Loops :=
  let on := toneSeen c.acq p.win
  let onset := on && !p.tone
  let p := { p with tone := on }
  match p.bitNo with
  | none => if onset then tonePhase c { startLoops c p with bitNo := some 32 } else p
  | some n =>
    if !c.framed && onset && decide (128 ≤ n) then tonePhase c { startLoops c p with bitNo := some 32 }
    else
      let p := { p with bitNo := some (n + 1) }
      if p.afresh && decide (n < 32) then (if n = 31 then tonePhase c p else p)
      else loopStep c (p.afresh && decide (n < 128)) (if n < 128 then some (decide (n % 4 < 2)) else none) p

/-- One channel bit: the interpolator takes a T-spaced sample of the corrected samples, the equaliser filters it. -/
def oneBit (c : LaneCfg) (xs : List (BitVec 6)) (base : Nat) (p : Loops) : Loops :=
  let p := if c.framed && p.bitNo == some slotLen then beginSlot c p else p
  let win := (Config.interpolate (xs.map (corrected p.asym)) (base + p.phase) :: p.win).take 32
  afterBit c { p with win := win, eqs := (firOut p.taps win :: p.eqs).take 32, phase := p.phase + c.step * (1 + p.freq) }

/-- The channel bits of n samples: equalised samples with the target they are detected by, and the loops afterwards. xs holds the
samples before and base is their number. -/
def laneBitsOf (c : LaneCfg) (xs : List (BitVec 6)) (base n : Nat) : Nat → Loops → List (Rat × List Int) × Loops
  | 0, p => ([], p)
  | f + 1, p =>
    if c.step ≤ 0 ∨ (n : Rat) ≤ p.phase then ([], { p with phase := p.phase - n })
    else
      let q := oneBit c xs base p
      let r := laneBitsOf c xs base n f q
      ((q.eqs.headD 0, q.target) :: r.1, r.2)

/-! ### The soft detector: 16-state max-log-MAP (R120, R137) -/

/-- The equalised sample that state st (the last four bits, latest least significant) and bit b call for; target taps in units of
2^-12 (R157). -/
def idealOf (target : List Int) (st b : Nat) : Rat :=
  (List.range 5).foldl (fun a j => a + (target.getD j 0 : Rat) / 2 ^ 12 * Config.bitLevel (bitOf (2 * st + b) j)) 0

/-- Squared distance of a sample from what a branch calls for. -/
def branch (o : Rat × List Int) (st b : Nat) : Rat := (o.1 - idealOf o.2 st b) ^ 2

/-- The least of a list. -/
def least : List Rat → Rat
  | [] => 0
  | x :: l => l.foldl min x

/-- Path metrics of the 16 states after one more bit, the least of them 0. -/
def forward (m : List Rat) (o : Rat × List Int) : List Rat :=
  let n := (List.range 16).map (fun ns =>
    min (m.getD (ns / 2) 0 + branch o (ns / 2) (ns % 2)) (m.getD (ns / 2 + 8) 0 + branch o (ns / 2 + 8) (ns % 2)))
  n.map (fun x => x - least n)

/-- Metrics of the paths that follow a state. -/
def backward (o : Rat × List Int) (m : List Rat) : List Rat :=
  (List.range 16).map (fun st =>
    min (branch o st 0 + m.getD (2 * st % 16) 0) (branch o st 1 + m.getD ((2 * st + 1) % 16) 0))

/-- The best path on which the bit is b. -/
def bestWith (b : Nat) (a : List Rat) (o : Rat × List Int) (z : List Rat) : Rat :=
  least ((List.range 16).map (fun st => a.getD st 0 + branch o st b + z.getD ((2 * st + b) % 16) 0))

/-- Backward metrics, and the log-likelihood ratio of each bit, positive for 0. -/
def mapDetect : List Rat → List (Rat × List Int) → List Rat × List Rat
  | _, [] => (List.replicate 16 0, [])
  | a, o :: l =>
    let r := mapDetect (forward a o) l
    (backward o r.1, Config.metricScale * (bestWith 1 a o r.1 - bestWith 0 a o r.1) :: r.2)

/-- q = clip(round(λ / LLR_STEP), -7, 7), sign and magnitude; LLR_STEP is in units of 1/16 (R137). The sign of a magnitude of 0 is
open. -/
def softOf (step : Nat) (l : Rat) : BitVec 4 :=
  let q := clampInt (-7) 7 (nearest (16 * l / step))
  BitVec.ofNat 4 ((if (if q = 0 then Config.zeroSign l else decide (q < 0)) then 8 else 0) + q.natAbs)

/-- The soft values of an arrival's samples, and the loops and path metrics afterwards. -/
def softValues (c : LaneCfg) (step : Nat) (old new : List (BitVec 6)) (p : Loops) : List (BitVec 4) × Loops :=
  let r := laneBitsOf c (old ++ new) old.length new.length (new.length + 1) p
  ((mapDetect r.2.met r.1).2.map (softOf step), { r.2 with met := r.1.foldl forward r.2.met })

/-! ### Layered min-sum (R139) -/

/-- Two lists combined item by item, zero where one has ended. -/
def zipPad (f : Int → Int → Int) : List Int → List Int → List Int
  | [], r => r.map (f 0)
  | l, [] => l.map (fun a => f a 0)
  | a :: l, b :: r => f a b :: zipPad f l r

/-- The value of a soft value, positive for 0 (R137). -/
def softInt (q : BitVec 4) : Int := if q.getLsbD 3 then -((q.toNat % 8 : Nat) : Int) else ((q.toNat % 8 : Nat) : Int)

/-- A 6-bit message. -/
def msg6 (x : Int) : Int := clampInt (-31) 31 x

/-- Block columns of a codeword's values: 70 of 128. -/
def valueBlocks : Nat → List Int → List (List Int)
  | 0, _ => []
  | n + 1, l => l.take 128 :: valueBlocks n (l.drop 128)

/-- Sign and magnitude of two messages combined: product of the signs, the smaller magnitude. -/
def minSum (a b : Int) : Int := (if (a < 0) = (b < 0) then 1 else -1) * (min a.natAbs b.natAbs : Nat)

/-- Three quarters of a message, the rounding open (log entry 38). -/
def normalised (x : Int) : Int :=
  let m : Int := openQuot (3 * x.natAbs) 4
  if x < 0 then -m else m

/-- The new messages of one block row, column by column: of each check over its other columns. -/
def rowMessages (q : List (List Int)) : List (List Int) :=
  (List.range q.length).map (fun j =>
    match q.eraseIdx j with
    | [] => []
    | a :: l => (l.foldl (zipPad minSum) a).map normalised)

/-- The columns of block row i with their shifts. -/
def rowCols (i : Nat) : List (Nat × Nat) := (List.range 70).filterMap (fun c => (c1Shift i c).map (fun a => (c, a)))

/-- One layer: block row i on the values and its messages so far, in check order. -/
def minSumLayer (i : Nat) (post : List (List Int)) (old : List (List Int)) : List (List Int) × List (List Int) :=
  let cols := rowCols i
  let turned := cols.map (fun c => (post.getD c.1 []).rotate c.2)
  let q := (List.range cols.length).map (fun j => zipPad (· - ·) (turned.getD j []) (old.getD j []))
  let new := rowMessages (q.map (fun l => l.map msg6))
  let back := (List.range cols.length).map (fun j =>
    let c := cols.getD j (0, 0)
    (c.1, (zipPad (· + ·) (q.getD j []) (new.getD j [])).rotate ((128 - c.2) % 128)))
  (post.zipIdx.map (fun x => ((back.find? (fun b => b.1 == x.2)).map (fun b => b.2)).getD x.1), new)

/-- One iteration over the six block rows, from block row i: values and messages. -/
def minSumFrom : Nat → Nat → List (List Int) → List (List (List Int)) → List (List Int) × List (List (List Int))
  | 0, _, post, _ => (post, [])
  | n + 1, i, post, old =>
    let r := minSumLayer i post (old.headD [])
    let x := minSumFrom n (i + 1) r.1 old.tail
    (x.1, r.2 :: x.2)

/-- The hard decisions of values; that of a value of 0 is open. -/
def hardBits (post : List (List Int)) : List Bool :=
  post.flatten.zipIdx.map (fun x => if x.1 = 0 then Config.zeroBit x.2 else decide (x.1 < 0))

end Sys2Proof.Machine
end

