-- ==== Sys2Proof/Machine/Flags.lean ====
section
/-! DEFINITION. Event bits of a sequencer (R51, R52) and the error flags with their counters: GLB_CDCERR (R30) and the
access to levels computed from state. -/
namespace Sys2Proof.Machine

/-- Event bit numbers (R51). -/
abbrev evTimer : Nat := 9
abbrev evLpos : Nat := 10
abbrev evEotw : Nat := 11
abbrev evBotw : Nat := 12
abbrev evLanefail : Nat := 13
abbrev evHostsync : Nat := 14
abbrev evPfail : Nat := 15
abbrev evBudget : Nat := 16
abbrev evMedia : Nat := 17
abbrev evSpeedband : Nat := 18
abbrev evMotfault : Nat := 19
/-- Puppeteer mailbox event n (R51). -/
abbrev evPp (n : Nat) : Nat := 24 + n
/-- Event that sequencer n posts (R51). -/
abbrev evSq (n : Nat) : Nat := 32 + n

/-- The events a WAIT can select: bits 0-19 and 24-39 (R51, R52). -/
def definedEvents : W64 := 0x000000FFFF0FFFFF

/-- Latched events (R51): bits 9-19 and 24-39. -/
def latchedEvents : W64 := 0x000000FFFF0FFE00

/-- Set a latched event of transport t (R51). -/
def setEvent (t : Tid) (n : Nat) (s : State) : State :=
  modTp t (fun x => { x with seq := { x.seq with latched := x.seq.latched ||| BitVec.ofNat 64 (2 ^ n) } }) s

/-- Set a latched event of every transport of a list. -/
def setEvents (l : List Tid) (n : Nat) (s : State) : State := forAll l (fun t => setEvent t n) s

/-- Level events: bit n = port n has a completion to pop (R51). -/
def levelEvents (x : Tp) : Nat :=
  ((List.range 9).filter (fun n => !(portOf x n).cpl.isEmpty)).foldl (fun a n => a + 2 ^ n) 0

/-- SR3 EVP: level events and latched events (R42, R51). -/
def evp (x : Tp) : W64 := BitVec.ofNat 64 (levelEvents x) ||| (x.seq.latched &&& latchedEvents)

/-- A clock-crossing event sets its bit of GLB_CDCERR and advances GLB_CDCCNT; lane = the lane concerned, if any
(R30, R11). -/
def cdcEvent (f : Fld) (lane : Option Nat) (s : State) : State :=
  let s := bumpFld Reg.glbCdccnt Fld.glbCdccntEvents (raiseFld Reg.glbCdcerr f s)
  match lane with
  | none => s
  | some l => setFld Reg.glbCdccnt Fld.glbCdccntLastLane l s

end Sys2Proof.Machine
end

