-- ==== Sys2Proof/Machine/Toybox.lean ====
section
/-! DEFINITION. Toybox, the buffer pool manager (R182-R197): geometry of the buffers, reference counts, waiting, failures,
quarantine and the retirement of stripe groups. -/
namespace Sys2Proof.Machine

/-- Stripe groups of the part (R182). -/
def groupCount (s : State) : Nat := if s.hbmStacks = 1 then 8 else 16

/-- Buffers of class c per group (TBX_NBUF). -/
def perGroup (s : State) (c : Nat) : Nat := fld s (Reg.tbxNbuf c) Fld.tbxNbufPergrp

/-- The first index of class c in a group: class 3 first, then 2, 1, 0 (R183). -/
def classBase (s : State) (c : Nat) : Nat :=
  match c with
  | 3 => 0
  | 2 => perGroup s 3
  | 1 => perGroup s 3 + perGroup s 2
  | _ => perGroup s 3 + perGroup s 2 + perGroup s 1

/-- Size of a buffer of class c (R182). -/
def classSize (c : Nat) : Nat :=
  match c with
  | 0 => 4096
  | 1 => 65536
  | 2 => 1048576
  | _ => 8388608

/-- The class of index j in a group; none beyond the last class-0 buffer (R183). -/
def classOfIndex (s : State) (j : Nat) : Option Nat :=
  if j < classBase s 2 then some 3
  else if j < classBase s 1 then some 2
  else if j < classBase s 0 then some 1
  else if j < classBase s 0 + perGroup s 0 then some 0
  else none

/-- The class of a BUFID; none where it is invalid (R183). -/
def classOf (s : State) (id : Nat) : Option Nat :=
  if id / 2 ^ 20 < groupCount s ∧ id < 2 ^ 24 then classOfIndex s (id % 2 ^ 20) else none

/-- First device address of a stripe group (R284). -/
def groupAddr (g : Nat) : Nat := 0x010000000000 + g * 0x400000000

/-- Offset of index j from the end of the system area: the sizes of all buffers with lower indices (R183). -/
def indexOffset (s : State) (j : Nat) : Nat :=
  if j < classBase s 2 then j * classSize 3
  else if j < classBase s 1 then classBase s 2 * classSize 3 + (j - classBase s 2) * classSize 2
  else if j < classBase s 0 then
    classBase s 2 * classSize 3 + perGroup s 2 * classSize 2 + (j - classBase s 1) * classSize 1
  else classBase s 2 * classSize 3 + perGroup s 2 * classSize 2 + perGroup s 1 * classSize 1 + (j - classBase s 0) * classSize 0

/-- The system area of a group (R182). -/
abbrev systemArea : Nat := 0x10000000

/-- Device address of a buffer (R183, R284). -/
def bufAddr (s : State) (id : Nat) : Nat := groupAddr (id / 2 ^ 20) + systemArea + indexOffset s (id % 2 ^ 20)

/-- BUFID and GEN of a token (R184). -/
def tokId (tok : W32) : Nat := fieldB tok 0 24
/-- GEN of a token. -/
def tokGen (tok : W32) : BitVec 8 := partB tok 24 8
/-- The token of a buffer (R184). -/
def tokenOf (id : Nat) (gen : BitVec 8) : W32 := BitVec.ofNat 32 (id % 2 ^ 24 + 2 ^ 24 * gen.toNat)

/-- Device address of the buffer a token names. -/
def tokAddr (s : State) (tok : W32) : Nat := bufAddr s (tokId tok)

/-- Whether group g is retired (TBX_GRPRET). -/
def groupRetired (s : State) (g : Nat) : Bool := bitOf (reg s Reg.tbxGrpret).toNat g

/-- The stored buffer record (R187). -/
def bufStored (s : State) (id : Nat) : BufRec := s.tbx.recs.get BufRec.reset id

/-- The buffer record as Toybox sees it: in a retired group every FREE buffer is QUARANTINED (R195). -/
def bufRec (s : State) (id : Nat) : BufRec :=
  let r := bufStored s id
  if r.st = .free ∧ groupRetired s (id / 2 ^ 20) then { r with st := .quarantined } else r

/-- Write a buffer record. -/
def setBuf (id : Nat) (r : BufRec) (s : State) : State := { s with tbx := { s.tbx with recs := s.tbx.recs.set BufRec.reset id r } }

/-- REFS, the sum of HOLD (R187). -/
def bufRefs (r : BufRec) : Nat := (r.hold.cells.map (fun c => c.2)).foldl (· + ·) 0

/-- HOLD of an agent. -/
def bufHold (r : BufRec) (agent : Nat) : Nat := r.hold.get 0 agent

/-- The groups in service. -/
def liveGroups (s : State) : List Nat := (List.range (groupCount s)).filter (fun g => !groupRetired s g)

/-- The positions of the buffers of class c, counted over the groups in service, that are not FREE, rising. -/
def takenPositions (s : State) (c : Nat) : List Nat :=
  (s.tbx.recs.cells.filter (fun x => decide (x.2.st ≠ .free) && classOf s x.1 == some c
      && !groupRetired s (x.1 / 2 ^ 20))).filterMap
    (fun x => ((liveGroups s).idxOf? (x.1 / 2 ^ 20)).map (fun p => p * perGroup s c + (x.1 % 2 ^ 20 - classBase s c)))

/-- FREE buffers of class c (TBX_FREE). -/
def freeCount (s : State) (c : Nat) : Nat := (liveGroups s).length * perGroup s c - (takenPositions s c).length

/-- The k-th number, from 0, that is not in a rising list. -/
def nthFree : List Nat → Nat → Nat
  | [], k => k
  | u :: r, k => if k < u then k else nthFree r (k + 1)

/-- The BUFID at a position of class c over the groups in service. -/
def posBuf (s : State) (c p : Nat) : Nat :=
  (liveGroups s).getD (p / perGroup s c) 0 * 2 ^ 20 + classBase s c + p % perGroup s c

/-- Class-3 buffers that an agent holds (TBX_QUOTA.HELD). -/
def heldClass3 (s : State) (agent : Nat) : Nat :=
  (s.tbx.recs.cells.filter (fun x => classOf s x.1 == some 3 && decide (0 < bufHold x.2 agent))).length

/-- Whether a slice is at its quota of class-3 buffers (R193). -/
def atQuota (s : State) (agent : Nat) : Bool :=
  let t := agent - 4
  decide (4 ≤ agent ∧ agent < 12) && fld s (Reg.tbxQuota t) Fld.tbxQuotaMax != 0
    && decide (fld s (Reg.tbxQuota t) Fld.tbxQuotaMax ≤ heldClass3 s agent)

/-- Whether a requester finds a FREE buffer in class c (R191, R193). -/
def classHas (s : State) (agent c : Nat) : Bool := decide (0 < freeCount s c) && !(c == 3 && atQuota s agent)

/-- A TBX_ERR event: the bit, the count, the agent and the token or BUFID (R189). -/
def tbxError (f : Fld) (agent : Nat) (tok : W32) (s : State) : State :=
  setReg Reg.tbxErrtok tok
    (setFld Reg.tbxErrcnt Fld.tbxErrcntAgent agent
      (bumpFld Reg.tbxErrcnt Fld.tbxErrcntEvents (raiseFld Reg.tbxErr f s)))

/-- Toybox STATUS codes of R189. -/
abbrev stDoubleFree : BitVec 8 := 0x18
abbrev stNotHolder : BitVec 8 := 0x19
abbrev stStaleToken : BitVec 8 := 0x1A
abbrev stRefOverflow : BitVec 8 := 0x1B

/-- The end of a request: on the slice's TBX port, else to the requesting unit, whose failures the fault log reports
(R189, log entry 13). -/
def tbxAnswer (w : Waiter) (st : BitVec 8) (val : W32) (s : State) : State :=
  match w.ticket with
  | some k => finish (tid (w.agent - 4)) 7 k st val s
  | none =>
    let s := { s with tbx := { s.tbx with given := (w.port, w.agent, st, val) :: s.tbx.given } }
    if st = stOk then s else logFault 0xFFFF 0 st.toNat 0 0 s

/-- Agents that a port may carry (R186). -/
def agentFits (port agent : Nat) : Bool :=
  match port with
  | 0 => agent == 0
  | 1 => agent == 1 || agent == 2
  | 2 => decide (4 ≤ agent ∧ agent < 12)
  | _ => agent == 3 || decide (4 ≤ agent ∧ agent < 12)

/-- Give a FREE buffer to a request (R184, R188). -/
def giveBuffer (w : Waiter) (id : Nat) (s : State) : State :=
  let r := bufStored s id
  let gen := if r.gen = 0 then 1 else r.gen
  let s := setBuf id { r with st := .allocated, gen := gen, owner := BitVec.ofNat 4 w.agent, hold := (SMap.mk []).set 0 w.agent 1 } s
  tbxAnswer w stOk (tokenOf id gen) s

/-- Take a FREE buffer of class c, which has one, for a request (R188). -/
def takeBuffer (w : Waiter) (c : Nat) (s : State) : State :=
  let n := freeCount s c
  let id := posBuf s c (nthFree (takenPositions s c) (Config.pickBuffer s.freeCtr n % n))
  giveBuffer w id { s with freeCtr := s.freeCtr + 1 }

/-- The wait list of class c (R191). -/
def waitList (x : Tbx) (c : Nat) : List Waiter :=
  match c with
  | 0 => x.wait0
  | 1 => x.wait1
  | 2 => x.wait2
  | _ => x.wait3

/-- Replace the wait list of class c. -/
def setWaitList (c : Nat) (l : List Waiter) (x : Tbx) : Tbx :=
  match c with
  | 0 => { x with wait0 := l }
  | 1 => { x with wait1 := l }
  | 2 => { x with wait2 := l }
  | _ => { x with wait3 := l }

/-- Serve the waiters of class c, oldest first, while the class has buffers; a slice at its quota is passed over (R192,
R193). The list is the waiters not yet looked at, kept the ones passed over. -/
def serveList (c : Nat) : List Waiter → List Waiter → State → State
  | [], kept, s => { s with tbx := setWaitList c kept.reverse s.tbx }
  | w :: r, kept, s =>
    if fld s Reg.tbxCtrl Fld.tbxCtrlEn = 1 ∧ classHas s w.agent c = true then serveList c r kept (takeBuffer w c s)
    else serveList c r (w :: kept) s

/-- Serve the waiters of class c. -/
def serveWaiters (c : Nat) (s : State) : State := serveList c (waitList s.tbx c) [] s

/-- Serve the waiters of every class (TBX_CTRL.EN set, quota raised). -/
def serveAll (s : State) : State := serveWaiters 3 (serveWaiters 2 (serveWaiters 1 (serveWaiters 0 s)))

/-- A requester that R191 names as repeating a request refused for a full wait list; the slices' programs repeat theirs themselves. -/
def repeats (w : Waiter) : Bool := w.ticket.isNone && decide (w.agent ≠ 3)

/-- Join the wait list of the class; a full list ends the request NO_BUFFER, and the host interface, the codec dispatcher and the read
path repeat it later (R189, R191). -/
def joinWait (w : Waiter) (s : State) : State :=
  let l := waitList s.tbx w.cls
  if l.length < 255 then { s with tbx := setWaitList w.cls (l ++ [w]) s.tbx }
  else
    let s := tbxAnswer w stNoBuffer 0 (tbxError Fld.tbxErrWaitovf w.agent 0 s)
    if repeats w then { s with tbx := { s.tbx with retry := s.tbx.retry ++ [w] } } else s

/-- The classes larger than c, the next one first (R191). -/
def largerClasses (c : Nat) : List Nat :=
  match c with
  | 0 => [1, 2, 3]
  | 1 => [2, 3]
  | 2 => [3]
  | _ => []

/-- An ALLOC granted by the pipeline (R188, R191, R193). -/
def tbxAllocOp (w : Waiter) (s : State) : State :=
  if w.flag > 2 ∨ w.cls > 3 then tbxAnswer w stRejected 0 (tbxError Fld.tbxErrInvalid w.agent 0 s)
  else if fld s Reg.tbxCtrl Fld.tbxCtrlEn = 0 then joinWait w s
  else if classHas s w.agent w.cls then takeBuffer w w.cls s
  else if w.flag = 0 then
    match (largerClasses w.cls).find? (fun c => classHas s w.agent c) with
    | some c => takeBuffer w c (bumpFld (Reg.tbxFbcnt w.cls) Fld.tbxFbcntFallback s)
    | none => tbxAnswer w stNoBuffer 0 s
  else if w.flag = 1 then joinWait w s
  else tbxAnswer w stNoBuffer 0 s

/-- GEN advances from 255 to 1 (R184). -/
def nextGen (g : BitVec 8) : BitVec 8 := if g = 255 then 1 else g + 1

/-- An ADDREF granted by the pipeline (R188, R189). -/
def tbxAddrefOp (w : Waiter) (tok : W32) (s : State) : State :=
  match classOf s (tokId tok) with
  | none => tbxAnswer w stRejected 0 (tbxError Fld.tbxErrInvalid w.agent tok s)
  | some _ =>
    let r := bufRec s (tokId tok)
    if r.st = .free ∨ r.gen ≠ tokGen tok then tbxAnswer w stStaleToken 0 (tbxError Fld.tbxErrStale w.agent tok s)
    else if 255 ≤ bufHold r w.agent then tbxAnswer w stRefOverflow 0 (tbxError Fld.tbxErrOverflow w.agent tok s)
    else
      let q := bufStored s (tokId tok)
      tbxAnswer w stOk 0 (setBuf (tokId tok) { q with hold := q.hold.set 0 w.agent (bufHold q w.agent + 1) } s)

/-- Drop one reference of an agent; at the last one the buffer becomes FREE with GEN advanced, or QUARANTINED (R188, R194,
R195). -/
def dropRef (agent id : Nat) (s : State) : State :=
  let r := bufStored s id
  let h := r.hold.set 0 agent (bufHold r agent - 1)
  let r' := { r with hold := h }
  if bufRefs r' = 0 then
    if r.st = .quarantined ∨ r.retiring ∨ groupRetired s (id / 2 ^ 20) then
      setBuf id { r' with st := .quarantined, retiring := false } s
    else setBuf id { r' with st := .free, gen := nextGen r.gen, owner := 0 } s
  else setBuf id r' s

/-- A buffer just freed goes to the oldest waiter of its class that may take it: a slice at its quota is passed over (R192, R193). -/
def handOver (c id : Nat) (s : State) : State :=
  if (bufRec s id).st = .free ∧ fld s Reg.tbxCtrl Fld.tbxCtrlEn = 1 then
    match (waitList s.tbx c).find? (fun w => !(c == 3 && atQuota s w.agent)) with
    | some w => giveBuffer w id { s with tbx := setWaitList c ((waitList s.tbx c).erase w) s.tbx }
    | none => s
  else s

/-- A RELEASE granted by the pipeline (R188, R189); a freed buffer goes to the oldest waiter of its class (R192), and a slice that a
release took below its quota is served (R193). -/
def tbxReleaseOp (w : Waiter) (tok : W32) (s : State) : State :=
  match classOf s (tokId tok) with
  | none => tbxAnswer w stRejected 0 (tbxError Fld.tbxErrInvalid w.agent tok s)
  | some c =>
    let r := bufRec s (tokId tok)
    if r.st = .free ∨ r.gen ≠ tokGen tok then tbxAnswer w stDoubleFree 0 (tbxError Fld.tbxErrDoubleFree w.agent tok s)
    else if bufHold r w.agent = 0 then tbxAnswer w stNotHolder 0 (tbxError Fld.tbxErrNotHolder w.agent tok s)
    else serveWaiters c (handOver c (tokId tok) (tbxAnswer w stOk 0 (dropRef w.agent (tokId tok) s)))

/-- The completion of a unit's own ADDREF or RELEASE is taken at once; answers to waiters, which came behind it, stay. -/
def takeAnswer (old : State) (s : State) : State :=
  { s with tbx := { s.tbx with given := s.tbx.given.take (s.tbx.given.length - old.tbx.given.length - 1) ++ old.tbx.given } }

/-- A unit's own RELEASE of a token it holds, with no descriptor behind it. -/
def releaseFor (port agent : Nat) (tok : W32) (s : State) : State := takeAnswer s (tbxReleaseOp ⟨port, agent, 0, 0, none⟩ tok s)

/-- A unit's own ADDREF. -/
def addrefFor (port agent : Nat) (tok : W32) (s : State) : State := takeAnswer s (tbxAddrefOp ⟨port, agent, 0, 0, none⟩ tok s)

/-- Whether a token is current and held by an agent. -/
def tokenHeld (s : State) (agent : Nat) (tok : W32) : Bool :=
  (classOf s (tokId tok)).isSome && decide ((bufRec s (tokId tok)).st ≠ .free) && (bufRec s (tokId tok)).gen == tokGen tok
    && decide (0 < bufHold (bufRec s (tokId tok)) agent)

/-- The size of the buffer a token names. -/
def tokSize (s : State) (tok : W32) : Nat := ((classOf s (tokId tok)).map classSize).getD 0

/-- An immediate ALLOC by a unit of the device that is no slice: the token if the pipeline serves it at once. -/
def allocFor (port agent cls flag : Nat) (s : State) : Option W32 × State :=
  let s' := tbxAllocOp ⟨port, agent, cls, flag, none⟩ s
  match s'.tbx.given with
  | (p, a, st, v) :: r =>
    if p = port ∧ a = agent ∧ st = stOk ∧ s.tbx.given.length < s'.tbx.given.length then
      (some v, { s' with tbx := { s'.tbx with given := r } })
    else (none, s')
  | [] => (none, s')

/-- The 128-byte lines of an address range hold their data again: poison and stored errors go (R297). -/
def cleanLines (a n : Nat) (s : State) : State :=
  { s with mem := { s.mem with
      poison := s.mem.poison.filter (fun l => decide (l * 128 + 128 ≤ a ∨ a + n ≤ l * 128 ∨ l * 128 < a ∨ a + n < l * 128 + 128))
      bad := s.mem.bad.clear ((a + 7) / 8) ((a + n) / 8 - (a + 7) / 8) } }

/-- QUARANTINE of a BUFID (R188, R194). -/
def quarantineBuf (id : Nat) (s : State) : State := setBuf id { bufStored s id with st := .quarantined } s

/-- RESTORE of a BUFID that may be restored: the buffer is cleared and becomes FREE with GEN advanced (R188, R184). -/
def restoreBuf (id c : Nat) (s : State) : State :=
  let r := bufStored s id
  let a := bufAddr s id
  let s := { s with mem := { s.mem with hbm := s.mem.hbm.clear a (classSize c) } }
  let s := cleanLines a (classSize c) s
  serveWaiters c (handOver c id (setBuf id { r with st := .free, gen := nextGen r.gen, owner := 0, retiring := false } s))

/-- Group records of mirroring after a group leaves service (R286). -/
def homeAfter (g : Nat) (m : Mem) : Mem :=
  if m.home = g then { m with home := m.mirror, mirrored := false }
  else if m.mirror = g then { m with mirrored := false }
  else m

/-- RETIREGRP g (R195): the group's bit, RETIRING on every buffer with references, quotas lowered in proportion. -/
def retireGroup (g : Nat) (s : State) : State :=
  if groupRetired s g ∨ groupCount s ≤ g then s
  else
    let n := (liveGroups s).length
    let s := setReg Reg.tbxGrpret (reg s Reg.tbxGrpret ||| BitVec.ofNat 32 (2 ^ g)) s
    let s := { s with mem := homeAfter g s.mem }
    let s := setReg Reg.codecCtxbase (BitVec.ofNat 32 ((groupAddr s.mem.home + 0x3000000) / 4096)) s
    let s := { s with tbx := { s.tbx with recs := ⟨s.tbx.recs.cells.map (fun x =>
        if x.1 / 2 ^ 20 = g ∧ 0 < bufRefs x.2 then (x.1, { x.2 with retiring := true }) else x)⟩ } }
    forAll allT (fun t => fun s =>
      setFld (Reg.tbxQuota t) Fld.tbxQuotaMax (fld s (Reg.tbxQuota t) Fld.tbxQuotaMax * (n - 1) / n) s) s

/-! ### The rows -/

/-- Grant a request of a port: the pipeline remembers the port for the round robin (R190). -/
def tbxGrant (port : Nat) (s : State) : State := { s with tbx := { s.tbx with last := port } }

/-- A slice has a request at the head of its TBX port. -/
def sliceWaits (s : State) (t : Tid) : Bool := (portHead (portOf (tpOf s t) 7)).isSome

/-- It is slice t's turn on port 2: the first with a request waiting after the slice granted last (R190). -/
def sliceTurn (s : State) (t : Tid) : Bool := ((List.range 8).map (fun i => tid (s.tbx.slice + 1 + i))).find? (sliceWaits s) == some t

/-- It is a port's turn: after the port granted last, in the order 0, 1, 2, 3, 0, the slices' port, where a request waits, does not come
first (R190). The other ports' requests arrive with their rows (log entry 42). -/
def portTurn (s : State) (p : Nat) : Bool :=
  p == 2 || !allT.any (sliceWaits s) || decide ((p + 3 - s.tbx.last) % 4 < (2 + 3 - s.tbx.last) % 4)

/-- A slice's request is granted in its turn. -/
def sliceGrant (t : Tid) (f : State → State) (s : State) : State :=
  if sliceTurn s t then f { s with tbx := { s.tbx with last := 2, slice := t.val } } else s

/-- A request from a unit is granted in its port's turn; one with an agent field its port may not carry is rejected (R186, R190). -/
def tbxUnit (port agent : Nat) (tok : W32) (f : State → State) (s : State) : State :=
  if portTurn s port then
    let s := tbxGrant port s
    if agentFits port agent then f s
    else tbxAnswer ⟨port, agent, 0, 0, none⟩ stRejected 0 (tbxError Fld.tbxErrInvalid agent tok s)
  else s

/-- TBX_ALLOC: the slice's oldest TBX descriptor, or a unit's request. -/
def allocRow (r : AllocReq) (s : State) : State :=
  match r with
  | .slice t => onHead t 7 1 3 (fun x => sliceGrant t (fun s =>
      if descFits x.desc 0xF 0 0 0 then
        tbxAllocOp ⟨2, 4 + t.val, descArg x.desc % 4, descArg x.desc / 4 % 4, some x.ticket⟩ (takeDesc t 7 x.ticket s)
      else reject t 7 x (tbxError Fld.tbxErrInvalid (4 + t.val) 0 s))) s
  | .unit p agent cls flag =>
    if p = 2 ∧ agentFits 2 agent.toNat = true then s
    else tbxUnit p.toNat agent.toNat 0 (tbxAllocOp ⟨p.toNat, agent.toNat, cls.toNat, flag.toNat, none⟩) s

/-- TBX_ALLOC (R188). -/
def execTbxAlloc (r : AllocReq) (s : State) : Host.Outcome State Fault Refusal := .next (allocRow r s)

/-- An ADDREF or RELEASE row: the slice's oldest TBX descriptor, or a unit's request. -/
def tokRow (op : Nat) (f : Waiter → W32 → State → State) (r : TokReq) (s : State) : State :=
  match r with
  | .slice t => onHead t 7 op 3 (fun x => sliceGrant t (fun s =>
      if descFits x.desc 0xFFFFFFFF 0 0 0 then
        f ⟨2, 4 + t.val, 0, 0, some x.ticket⟩ (partB x.desc 32 32) (takeDesc t 7 x.ticket s)
      else reject t 7 x s)) s
  | .unit p agent tok =>
    if p = 2 ∧ agentFits 2 agent.toNat = true then s
    else tbxUnit p.toNat agent.toNat tok (f ⟨p.toNat, agent.toNat, 0, 0, none⟩ tok) s

/-- TBX_ADDREF (R188). -/
def execTbxAddref (r : TokReq) (s : State) : Host.Outcome State Fault Refusal := .next (tokRow 2 tbxAddrefOp r s)

/-- TBX_RELEASE (R188). -/
def execTbxRelease (r : TokReq) (s : State) : Host.Outcome State Fault Refusal := .next (tokRow 3 tbxReleaseOp r s)

/-- An operation that only agent 3 may issue, on port 3 (R188). -/
def agent3 (agent : Nat) (tok : W32) (f : State → State) (s : State) : State :=
  if portTurn s 3 then
    let s := tbxGrant 3 s
    if agent = 3 then f s
    else tbxAnswer ⟨3, agent, 0, 0, none⟩ stRejected 0 (tbxError Fld.tbxErrInvalid agent tok s)
  else s

/-- The end of an agent-3 operation. -/
def answer3 (st : BitVec 8) (s : State) : State := tbxAnswer ⟨3, 3, 0, 0, none⟩ st 0 s

/-- QUARANTINE (R188, R194). -/
def quarantineRow (agent : Nat) (id : Nat) (s : State) : State :=
  agent3 agent (BitVec.ofNat 32 id) (fun s =>
    match classOf s id with
    | none => answer3 stRejected (tbxError Fld.tbxErrInvalid 3 (BitVec.ofNat 32 id) s)
    | some _ => answer3 stOk (quarantineBuf id s)) s

/-- QUARANTINE (R188). -/
def execQuarantine (agent : BitVec 4) (bufid : BitVec 24) (s : State) : Host.Outcome State Fault Refusal :=
  .next (quarantineRow agent.toNat bufid.toNat s)

/-- RESTORE (R188, R195, R298). -/
def restoreRow (agent : Nat) (id : Nat) (s : State) : State :=
  agent3 agent (BitVec.ofNat 32 id) (fun s =>
    match classOf s id with
    | none => answer3 stRejected (tbxError Fld.tbxErrInvalid 3 (BitVec.ofNat 32 id) s)
    | some c =>
      let r := bufRec s id
      if r.st = .quarantined ∧ bufRefs r = 0 ∧ groupRetired s (id / 2 ^ 20) = false ∧ r.badRec = false then
        answer3 stOk (restoreBuf id c s)
      else answer3 stRejected (tbxError Fld.tbxErrInvalid 3 (BitVec.ofNat 32 id) s)) s

/-- RESTORE (R188). -/
def execRestore (agent : BitVec 4) (bufid : BitVec 24) (s : State) : Host.Outcome State Fault Refusal :=
  .next (restoreRow agent.toNat bufid.toNat s)

/-- RETIREGRP (R188, R195). -/
def retiregrpRow (agent g : Nat) (s : State) : State :=
  agent3 agent (BitVec.ofNat 32 g) (fun s =>
    if g < groupCount s then answer3 stOk (retireGroup g s)
    else answer3 stRejected (tbxError Fld.tbxErrInvalid 3 (BitVec.ofNat 32 g) s)) s

/-- RETIREGRP (R195). -/
def execRetiregrp (agent g : BitVec 4) (s : State) : Host.Outcome State Fault Refusal :=
  .next (retiregrpRow agent.toNat g.toNat s)

/-- ALLOC_RETRY (R191): the oldest request refused for a full wait list is made again. -/
def allocRetryRow (s : State) : State :=
  match s.tbx.retry with
  | [] => s
  | w :: r => if portTurn s w.port then tbxAllocOp w (tbxGrant w.port { s with tbx := { s.tbx with retry := r } }) else s

/-- ALLOC_RETRY (R191). -/
def execAllocRetry (s : State) : Host.Outcome State Fault Refusal := .next (allocRetryRow s)

/-- End every waiter of class c with NO_BUFFER (R192). -/
def clearWaiters (c : Nat) (s : State) : State :=
  let l := waitList s.tbx c
  forAll l (fun w => tbxAnswer w stNoBuffer 0) { s with tbx := setWaitList c [] s.tbx }

/-- A write of TBX_WAITCLR (R192, R197). -/
def waitclrOp (classes : Nat) (s : State) : State := forAll (setBits 4 classes) clearWaiters s

/-- The 128-bit buffer record (R187). -/
def recBits (r : BufRec) : BitVec 128 :=
  let st := match r.st with
    | .free => 0
    | .allocated => 1
    | .quarantined => 2
  BitVec.ofNat 128 (st + 4 * r.retiring.toNat + 2 ^ 4 * r.gen.toNat + 2 ^ 12 * r.owner.toNat + 2 ^ 16 * (bufRefs r % 2 ^ 16)
    + ((List.range 12).map (fun a => 2 ^ (32 + 8 * a) * (bufHold r a % 256))).foldl (· + ·) 0)

/-- A write of TBX_INSPID latches the buffer's record; an invalid BUFID is rejected (R35, R187). -/
def inspidOp (id : Nat) (s : State) : State :=
  match classOf s id with
  | none => logAccess Reg.tbxInspid s
  | some _ => { s with tbx := { s.tbx with insp := recBits (bufRec s id) } }

end Sys2Proof.Machine
end

