-- ==== Sys2Proof/Machine/HostOps.lean ====
section
/-! DEFINITION. The host interface's shared operations: queues and completions (R244-R249), errors (R275, R282), tags
(R252), notices (R277, R278), scatter lists (R246), records of write streams and their acknowledgement (R256-R260). -/
namespace Sys2Proof.Machine

/-! ### Status codes (R281) -/

abbrev hsInvalidOpcode : BitVec 8 := 0x20
abbrev hsNotNegotiated : BitVec 8 := 0x21
abbrev hsVersion : BitVec 8 := 0x22
abbrev hsTagInUse : BitVec 8 := 0x23
abbrev hsScidInUse : BitVec 8 := 0x24
abbrev hsNoStream : BitVec 8 := 0x25
abbrev hsWrongQueue : BitVec 8 := 0x26
abbrev hsDirection : BitVec 8 := 0x27
abbrev hsSealed : BitVec 8 := 0x28
abbrev hsNotLoaded : BitVec 8 := 0x29
abbrev hsStreamsOpen : BitVec 8 := 0x2A
abbrev hsWriteDisabled : BitVec 8 := 0x2B
abbrev hsUnverified : BitVec 8 := 0x2C
abbrev hsAborted : BitVec 8 := 0x2D
abbrev hsAbortTooLate : BitVec 8 := 0x2E
abbrev hsNoSuchTag : BitVec 8 := 0x2F
abbrev hsNotAbortable : BitVec 8 := 0x30
abbrev hsNotResident : BitVec 8 := 0x31
abbrev hsTooSmall : BitVec 8 := 0x32
abbrev hsLoadFailed : BitVec 8 := 0x33
abbrev hsEndOfData : BitVec 8 := 0x34
abbrev hsHostMemory : BitVec 8 := 0x35
abbrev hsPowerFail : BitVec 8 := 0x36
abbrev hsUnformatted : BitVec 8 := 0x37
abbrev hsNotLocated : BitVec 8 := 0x38
abbrev hsBusy : BitVec 8 := 0x39
abbrev hsSelfTestFailed : BitVec 8 := 0x3A
abbrev hsNotice : BitVec 8 := 0x3B
abbrev hsFormatUnsupported : BitVec 8 := 0x3C

/-! ### Queues -/

/-- Queue pair n (R244). -/
def queueOf (s : State) (n : Nat) : Queue := s.hif.q.get Queue.reset n

/-- Change queue pair n. -/
def modQueue (n : Nat) (f : Queue → Queue) (s : State) : State :=
  { s with hif := { s.hif with q := s.hif.q.set Queue.reset n (f (queueOf s n)) } }

/-- QCFG.EN of queue n. -/
def queueEn (s : State) (n : Nat) : Bool := fld s (Reg.hifQcfg n) Fld.hifQcfgEn == 1

/-- QSTAT.ERR of queue n. -/
def queueErr (s : State) (n : Nat) : Bool := fld s (Reg.hifQstat n) Fld.hifQstatErr == 1

/-- Entries of a submission ring (QCFG.SQSIZE). -/
def sqEntries (s : State) (n : Nat) : Nat := 2 ^ fld s (Reg.hifQcfg n) Fld.hifQcfgSqsize

/-- Entries of a completion ring (QCFG.CQSIZE). -/
def cqEntries (s : State) (n : Nat) : Nat := 2 ^ fld s (Reg.hifQcfg n) Fld.hifQcfgCqsize

/-- The endpoint that owns a queue (R241): 256 queues each, an x16 endpoint 512. -/
def queueOwner (s : State) (n : Nat) : Nat :=
  let p := n / 512
  let split := if p = 0 then s.bif0 else s.bif1
  if split then n / 256 else 2 * p

/-- Whether endpoint e exists (R240): the strap PE_BIF[p] splits port p in two. -/
def endpointPresent (s : State) (e : Nat) : Bool :=
  if e % 2 = 0 then true else if e / 2 = 0 then s.bif0 else s.bif1

/-- A HIF_ERR event (R282). -/
def hifError (f : Fld) (q : Nat) (s : State) : State :=
  setFld Reg.hifErrcnt Fld.hifErrcntLastq q (bumpFld Reg.hifErrcnt Fld.hifErrcntEvents (raiseFld Reg.hifErr f s))

/-- Write bytes to host memory. -/
def hostWrite (a : Nat) (l : List Byte) (s : State) : State := { s with hostMem := s.hostMem.write 0 a l }

/-- Signal a queue's MSI-X vector (R249). -/
def signalQueue (n : Nat) (s : State) : State :=
  modQueue n (fun q => { q with unsig := 0, timing := false })
    { s with hif := { s.hif with msix := fld s (Reg.hifQcfg n) Fld.hifQcfgVector :: s.hif.msix } }

/-- Whether the completion queue has room (R248). -/
def cqRoom (s : State) (n : Nat) : Bool := decide ((queueOf s n).cqUsed < cqEntries s n)

/-- Write a completion entry at the tail of queue n, which has room (R247), and count it for the interrupt (R249). -/
def postEntry (n : Nat) (code : BitVec 16) (holds : Option (BitVec 16)) (st : BitVec 8) (result : W64) (s : State) : State :=
  let q := queueOf s n
  let a := pair s (Reg.hifCqbase n 0) (Reg.hifCqbase n 1) + 16 * q.cqTail
  let e := leBytes 2 code.toNat ++ leBytes 2 n ++ leBytes 2 q.head ++ [st] ++ leBytes 1 q.phase.toNat ++ leBytes 8 result.toNat
  let wrap : Bool := cqEntries s n ≤ q.cqTail + 1
  let s := hostWrite a e s
  let s := modQueue n (fun q =>
    { q with
      cqTail := if wrap then 0 else q.cqTail + 1, phase := if wrap then !q.phase else q.phase
      cqUsed := q.cqUsed + 1, tags := q.tags ++ [holds] }) s
  if fld s (Reg.hifQcfg n) Fld.hifQcfgIen = 1 then
    let s := modQueue n (fun q => { q with unsig := q.unsig + 1, timing := true }) s
    let c := fld s (Reg.hifQcoal n) Fld.hifQcoalCount
    if c = 0 ∨ c ≤ (queueOf s n).unsig then signalQueue n s else s
  else s

/-- A completion becomes ready to post on queue n (R248). -/
def makeReady (n : Nat) (c : Cpl) (s : State) : State := modQueue n (fun q => { q with ready := q.ready ++ [c] }) s

/-- An entry of log page 0x01 (R275). -/
def logCommandError (n : Nat) (e : Entry) (st : BitVec 8) (off : Nat) (s : State) : State :=
  let x := leBytes 8 (nowMs s) ++ leBytes 2 n ++ leBytes 2 e.tag.toNat ++ [e.opc, st] ++ leBytes 2 off ++ zeros 16
  { s with hif := { s.hif with errs := (x :: s.hif.errs).take 256, errNo := s.hif.errNo + 1 } }

/-- Whether a tag is in use: from the fetch of its command until the tag is FREE (R252). -/
def tagInUse (s : State) (tag : BitVec 16) : Bool :=
  s.hif.cmds.any (fun c => c.e.tag == tag)
    || s.hif.q.cells.any (fun x => x.2.ready.any (fun c => c.own && c.tag == tag) || x.2.tags.contains (some tag))

/-- The command that holds a tag. -/
def cmdOf (s : State) (tag : BitVec 16) : Option Cmd := s.hif.cmds.find? (fun c => c.e.tag == tag)

/-- Change the command that holds a tag. -/
def modCmd (tag : BitVec 16) (f : Cmd → Cmd) (s : State) : State :=
  { s with hif := { s.hif with cmds := s.hif.cmds.map (fun c => if c.e.tag == tag then f c else c) } }

/-- A command ends: its completion becomes ready, unless its queue was disabled by an FLR or a link-down (R243); one that
failed enters log page 0x01 (R275). -/
def endCmd (tag : BitVec 16) (st : BitVec 8) (result : W64) (off : Nat) (s : State) : State :=
  match cmdOf s tag with
  | none => s
  | some c =>
    let s := { s with hif := { s.hif with cmds := s.hif.cmds.filter (fun x => x.e.tag != tag) } }
    let s := if st = stOk then s else logCommandError c.queue c.e st off s
    if c.dead then s else makeReady c.queue ⟨tag, st, result, true⟩ s

/-! ### Notices (R277, R278) -/

/-- A notice: up to 64 wait, any further one is dropped (R278). -/
def notice (code : Nat) (s : State) : State :=
  if s.hif.notices.length < 64 then { s with hif := { s.hif with notices := s.hif.notices ++ [code] } }
  else raiseFld Reg.hifNotice Fld.hifNoticeDropped s

/-! ### Scatter lists (R246) -/

/-- The pieces of a scatter list at a, taken in order until their lengths reach n; none where the list falls short: an
element of length 0 ends it (log entry 14). -/
def scatter (m : SMap Byte) : Nat → Nat → Nat → Option (List (Nat × Nat))
  | _, _, 0 => some []
  | 0, _, _ + 1 => none
  | fuel + 1, a, n + 1 =>
    let len := memLe m (a + 8) 4
    if len = 0 ∨ memLe m (a + 12) 4 ≠ 0 then none
    else
      let k := min len (n + 1)
      (scatter m fuel (a + 16) (n + 1 - k)).map (fun r => (memLe m a 8, k) :: r)

/-- The pieces of host memory that an address of a command names for n bytes. -/
def hostPieces (s : State) (sgl : Bool) (a n : Nat) : Option (List (Nat × Nat)) :=
  if sgl then scatter s.hostMem n a n else some [(a, n)]

/-- Read the pieces. -/
def readPieces (m : SMap Byte) : List (Nat × Nat) → List Byte
  | [] => []
  | (a, n) :: r => m.read 0 a n ++ readPieces m r

/-- Skip k bytes of the pieces. -/
def dropPieces : Nat → List (Nat × Nat) → List (Nat × Nat)
  | _, [] => []
  | k, (a, n) :: r => if n ≤ k then dropPieces (k - n) r else (a + k, n - k) :: r

/-- Keep n bytes of the pieces. -/
def takePieces : Nat → List (Nat × Nat) → List (Nat × Nat)
  | _, [] => []
  | 0, _ :: _ => []
  | k + 1, (a, n) :: r => if n ≤ k + 1 then (a, n) :: takePieces (k + 1 - n) r else [(a, k + 1)]

/-- Write bytes over the pieces. -/
def writePieces (l : List Byte) (ps : List (Nat × Nat)) (s : State) : State :=
  match ps with
  | [] => s
  | (a, n) :: r => writePieces (l.drop n) r (hostWrite a (l.take n) s)

/-- Bit [0] of FLAGS: addresses name scatter lists (R246). -/
def entrySgl (e : Entry) : Bool := bitOf e.flags.toNat 0

/-- Bytes of the command-specific fields: offset o of the entry, n bytes (R246). -/
def csField (e : Entry) (o n : Nat) : Nat := fieldB e.cs (8 * (o - 0x18)) (8 * n)

/-- The host data of a command at DPTR; none where a scatter list falls short. -/
def cmdData (s : State) (e : Entry) (n : Nat) : Option (List Byte) :=
  (hostPieces s (entrySgl e) e.dptr.toNat n).map (readPieces s.hostMem)

/-- Write a command's output at DPTR. -/
def cmdOut (e : Entry) (l : List Byte) (s : State) : State :=
  match hostPieces s (entrySgl e) e.dptr.toNat l.length with
  | none => s
  | some ps => writePieces l ps s

/-! ### Streams and records (R254-R260) -/

/-- Stream scid, if open. -/
def streamOf (s : State) (scid : Nat) : Option Stream := s.hif.streams.get none scid

/-- Replace stream scid. -/
def setStream (scid : Nat) (x : Option Stream) (s : State) : State :=
  { s with hif := { s.hif with streams := s.hif.streams.set none scid x } }

/-- Change stream scid, if open. -/
def modStream (scid : Nat) (f : Stream → Stream) (s : State) : State :=
  match streamOf s scid with
  | none => s
  | some x => setStream scid (some (f x)) s

/-- The open streams. -/
def openStreams (s : State) : List (Nat × Stream) := s.hif.streams.cells.filterMap (fun x => x.2.map (fun y => (x.1, y)))

/-- The open write streams of a transport. -/
def writeStreams (s : State) (t : Nat) : List (Nat × Stream) :=
  (openStreams s).filter (fun x => x.2.t == t && !x.2.read)

/-- Change one record of a stream. -/
def modRec (scid : Nat) (seq : W32) (f : Rec → Rec) (s : State) : State :=
  modStream scid (fun x => { x with recs := x.recs.map (fun r => if r.seq == seq then f r else r) }) s

/-- Remaining Wind-up grant of transport t, SR12 BUDGET (R311, R42). -/
def budget (s : State) (t : Nat) : Nat := s.pwr.grant.get 0 t - s.pwr.debit.get 0 t

/-- Credit a ledger charge back (R259). -/
def creditLedger (t n : Nat) (s : State) : State :=
  { s with pwr := { s.pwr with debit := s.pwr.debit.set 0 t (s.pwr.debit.get 0 t - n) } }

/-- Debit a ledger charge (R259). -/
def debitLedger (t n : Nat) (s : State) : State :=
  { s with pwr := { s.pwr with debit := s.pwr.debit.set 0 t (s.pwr.debit.get 0 t + n) } }

/-- Input buffers of a record are released by the host interface (agent 0) (R256). -/
def releaseBufs (r : Rec) (s : State) : State := forAll r.bufs (fun b => releaseFor 0 0 b.1) s

/-- A sealed record whose bytes have all been placed no longer needs its input buffers (R256; log entry 26). -/
def dropInput (scid : Nat) (seq : W32) (s : State) : State :=
  match (streamOf s scid).bind (fun x => x.recs.find? (fun r => r.seq == seq)) with
  | none => s
  | some r => if r.sealed && r.placed then modRec scid seq (fun r => { r with bufs := [] }) (releaseBufs r s) else s

/-- A record becomes sealed (R72): U moves past it (R257), and its input buffers are released (R256). -/
def sealRec (scid : Nat) (seq : W32) (s : State) : State :=
  match streamOf s scid with
  | none => s
  | some x =>
    match x.recs.find? (fun r => r.seq == seq) with
    | none => s
    | some r =>
      if r.sealed then s
      else
        let s := dropInput scid seq (modRec scid seq (fun r => { r with sealed := true }) s)
        modStream scid (fun x => { x with unsealed := if x.unsealed.toNat ≤ seq.toNat then seq + 1 else x.unsealed }) s

/-- Bytes of a record's segments have been placed in a dataset (R259). -/
def placeBytes (scid : Nat) (seq dsnum : W32) (n : Nat) (whole : Bool) (s : State) : State :=
  dropInput scid seq <| modRec scid seq (fun r =>
    { r with
      charge := r.charge + n, placed := r.placed || whole
      dss := if r.dss.any (fun d => d.1 == dsnum) then
          r.dss.map (fun d => if d.1 == dsnum then (dsnum, d.2 + n) else d)
        else r.dss ++ [(dsnum, n)] }) s

/-- A dataset of transport t has been verified or accepted: its records no longer wait for it, and acknowledged ones get
their share of the charge back (R258, R259). -/
def verifyShare (t : Nat) (dsnum : W32) (ref : RecRef) (s : State) : State :=
  match streamOf s ref.scid.toNat with
  | none => s
  | some x =>
    match x.recs.find? (fun r => r.seq == ref.seq) with
    | none => s
    | some r =>
      let share := ((r.dss.find? (fun d => d.1 == dsnum)).map (fun d => d.2)).getD 0
      let s := if r.acked then creditLedger t share s else s
      modRec ref.scid.toNat ref.seq (fun r =>
        let dss := r.dss.filter (fun d => d.1 != dsnum)
        { r with dss := dss, verified := r.placed && dss.isEmpty }) s

/-- Every record of a verified dataset. -/
def verifyDataset (t : Nat) (dsnum : W32) (refs : List RecRef) (s : State) : State := forAll refs (verifyShare t dsnum) s

/-- An index entry has been added for a record (R258). -/
def indexRec (scid : Nat) (seq : W32) (s : State) : State := modRec scid seq (fun r => { r with indexed := true }) s

/-- Records of a stream before a SEQ: all sealed, all verified, some reported unverified. -/
def sealedBefore (x : Stream) (seq : W32) : Bool := x.recs.all (fun r => r.sealed || decide (seq.toNat ≤ r.seq.toNat))
/-- Every record before a SEQ is verified. -/
def verifiedBefore (x : Stream) (seq : W32) : Bool := x.recs.all (fun r => r.verified || decide (seq.toNat ≤ r.seq.toNat))
/-- Some record before a SEQ has been reported unverified. -/
def unverBefore (x : Stream) (seq : W32) : Bool := x.recs.any (fun r => r.unver && decide (r.seq.toNat < seq.toNat))

/-- The data of every record up to a stream's end has been received. -/
def recGot (r : Rec) : Bool := decide (r.len ≤ r.got)

/-- Whether a transport is write-disabled (R260): after a cause of R275, by a permanent sequencer fault (R324), by a
verify lag outside its range (R100), or offline (R15). -/
def writeDisabled (s : State) (t : Tid) : Bool :=
  let x := tpOf s t
  let f := fld s (Reg.vfyLag t) Fld.vfyLagLagFwd
  let r := fld s (Reg.vfyLag t) Fld.vfyLagLagRev
  decide (x.wrDis ≠ 0) || x.seqDis || x.offline || decide (f < 500 ∨ 3000 < f ∨ r < 500 ∨ 3000 < r)

/-- A page 0x05 entry (R275). -/
def unverEntry (scid t cause : Nat) (first : W32) (count : Nat) (dsnum : W32) : List Byte :=
  leBytes 2 scid ++ leBytes 1 t ++ leBytes 1 cause ++ leBytes 4 first.toNat ++ leBytes 4 count ++ leBytes 4 dsnum.toNat ++ zeros 8

/-- Runs of consecutive records: first SEQ, count, highest dataset (log entry 15). -/
def recRuns : List Rec → List (W32 × Nat × W32)
  | [] => []
  | r :: rest =>
    let top := (r.dss.map (fun d => d.1.toNat)).foldl max 0
    let top : W32 := if r.dss.isEmpty then 0xFFFFFFFF else BitVec.ofNat 32 top
    match recRuns rest with
    | (f, n, d) :: more =>
      if f = r.seq + 1 then (r.seq, n + 1, if d = 0xFFFFFFFF then top else if top = 0xFFFFFFFF then d else if d.toNat < top.toNat then top else d) :: more
      else (r.seq, 1, top) :: (f, n, d) :: more
    | [] => [(r.seq, 1, top)]

/-- Acknowledged records that are not verified enter log page 0x05, and all unverified ones are marked (R260). -/
def reportUnverified (t cause : Nat) (scid : Nat) (s : State) : State :=
  match streamOf s scid with
  | none => s
  | some x =>
    let lost := x.recs.filter (fun r => r.acked && !r.verified && !r.unver)
    let es := (recRuns lost).map (fun e => unverEntry scid t cause e.1 e.2.1 e.2.2)
    let s := modStream scid (fun x => { x with recs := x.recs.map (fun r => if r.verified then r else { r with unver := true }) }) s
    if es.isEmpty then s
    else notice 1 { s with hif := { s.hif with unver := s.hif.unver ++ es, unverGen := s.hif.unverGen + 1 } }

/-- RESULT of a WRITE_RECORDS (R253). -/
def writeResult (first : W32) (kept : Nat) (ledger : Bool) : W64 :=
  BitVec.ofNat 64 (first.toNat + 2 ^ 32 * (kept % 2 ^ 16) + 2 ^ 48 * ledger.toNat)

/-- The records of a stream that an outstanding WRITE_RECORDS appended and that survive. -/
def cmdRecs (x : Stream) (c : Cmd) : List Rec := x.recs.filter (fun r => r.cmd == c.e.tag && decide (c.first.toNat ≤ r.seq.toNat))

/-- A WRITE_RECORDS that holds unverified records ends UNVERIFIED; RESULT counts its leading verified ones (R260). -/
def endUnverified (t : Nat) (c : Cmd) (s : State) : State :=
  match streamOf s c.e.scid.toNat with
  | none => s
  | some x =>
    if c.e.opc = 0x12 ∧ x.t = t ∧ x.read = false ∧ c.active = true ∧ (cmdRecs x c).any (fun r => !r.verified) then
      endCmd c.e.tag hsUnverified
        (writeResult c.first ((cmdRecs x c).takeWhile (fun r => r.verified)).length false) 0xFFFF s
    else s

/-- A transport stops writing for one of the causes of R275: its commands end, its acknowledged records are reported
(R260). -/
def dropWrites (t : Tid) (cause : Nat) (s : State) : State :=
  let s := forAll s.hif.cmds (endUnverified t.val) s
  forAll ((writeStreams s t.val).map (fun x => x.1)) (reportUnverified t.val cause) s

/-- A transport becomes write-disabled: notice 4 once (R260). -/
def writeDisable (t : Tid) (cause : Nat) (s : State) : State :=
  if (tpOf s t).wrDis ≠ 0 then s
  else notice 4 (dropWrites t cause (modTp t (fun x => { x with wrDis := cause }) s))

end Sys2Proof.Machine
end

