-- ==== Sys2Proof/Machine/MotBase.lean ====
section
/-! DEFINITION. Motion, the part other blocks use: loops of a transport (R205), the run-up (R226), how a motion command
ends, starts that are armed (R227), clearing a stopped transport (R233) and what a motion fault does to WL, VFY and MOT
(R112, R231). -/
namespace Sys2Proof.Machine

/-- Change the motion state of transport t. -/
def modMot (t : Tid) (f : Mot → Mot) (s : State) : State := modTp t (fun x => { x with mot := f x.mot }) s

/-- Loop n of a transport: 0 reel A, 1 reel B, 2 lateral, 3 skew (R205). -/
def loopOf (x : Tp) (n : Nat) : MLoop :=
  match n with
  | 0 => x.loopA
  | 1 => x.loopB
  | 2 => x.loopL
  | _ => x.loopS

/-- Replace loop n of a transport. -/
def setLoop (n : Nat) (l : MLoop) (x : Tp) : Tp :=
  match n with
  | 0 => { x with loopA := l }
  | 1 => { x with loopB := l }
  | 2 => { x with loopL := l }
  | _ => { x with loopS := l }

/-- Change loop l = 4t + n. -/
def modLoop (l : Nat) (f : MLoop → MLoop) (s : State) : State :=
  modTp (tid (l / 4)) (fun x => setLoop (l % 4) (f (loopOf x (l % 4))) x) s

/-- Loop l = 4t + n. -/
def getLoop (s : State) (l : Nat) : MLoop := loopOf (tpOf s (tid (l / 4))) (l % 4)

/-- Top speed of the port's format in mm/s (R224). -/
def topSpeed (x : Tp) : Nat := if x.head.kind = 2 then 10000 else 5000

/-- The direction of travel of a wrap: tape LPOS rises on even wraps (R209, R212). -/
def wrapSign (w : Nat) : Int := if w % 2 = 0 then 1 else -1

/-- The starting speed v_r of the Yo-yo mode (R226). -/
def startSpeed (s : State) (t : Tid) : Nat :=
  let y := (tpOf s t).yoyo
  match y.sel with
  | 0 => fld s (Reg.yyLim t) Fld.yyLimVmin
  | 1 => if y.refv = 0 then fld s (Reg.yyLim t) Fld.yyLimVmax else y.refv
  | _ => y.fixedV

/-- d_run(v) in frames: v squared over 2A, and v for LOCKTIME and 1 ms more, rounded up, and one (R226). -/
def runUp (s : State) (t : Tid) (v : Nat) : Nat :=
  let a := fld s (Reg.mcAccel t) Fld.mcAccelA
  ceilDiv (5 * v * v + v * (fld s (Reg.wlCfg t) Fld.wlCfgLocktime + 10) * a) (2000 * a) + 1

/-- Frames a deceleration from v mm/s at a m/s² takes (R226). -/
def brakeFrames (v a : Nat) : Nat := ceilDiv (v * v) (400 * a)

/-- The run-up position of a start at P (R226). -/
def runUpPos (s : State) (t : Tid) (p : W32) : W32 := p - BitVec.ofNat 32 (runUp s t (startSpeed s t))

/-- Event SPEEDBAND, LANEFAIL and the like go through setEvent; a halted program that Puppeteer is to start at an entry
starts now (R254). -/
def startPending (t : Tid) (s : State) : State := modTp t startWhenDone s

/-- Puppeteer sets RC_MODE.MODE: verify before the write entry is started, read before the read entry (R145). -/
def entryMode (t : Tid) (write : Bool) (s : State) : State := setFld (Reg.rcMode t) Fld.rcModeMode (if write then 1 else 2) s

/-- Puppeteer starts TSt at an entry, at once from LOADED or HALTED, else as soon as it halts (R254). MODE follows first; a program that
still runs keeps its MODE until it halts (R145). -/
def startAtEntry (t : Tid) (write : Bool) (s : State) : State :=
  let s := if (tpOf s t).seq.st = .running ∨ (tpOf s t).seq.st = .waiting then s else entryMode t write s
  startPending t (modTp t (fun x => { x with seq := { x.seq with startPend := some write } }) s)

/-- MODE as a program halts: that of the entry that waits to be started, else read after a write entry (R145). -/
def haltMode (t : Tid) (s : State) : State :=
  match (tpOf s t).seq.startPend with
  | some w => entryMode t w s
  | none => if (tpOf s t).seq.wrote then entryMode t false s else s

/-- The host's side of a LOCATE's end: its position, and its completion (R265, R253). -/
def endHostLocate (c : MotCur) (st : BitVec 8) (s : State) : State :=
  match c.tag with
  | none => s
  | some tag =>
    match cmdOf s tag with
    | none => s
    | some k =>
      let s := modStream k.e.scid.toNat (fun x =>
        { x with pos := if st = stOk then some (c.dsnum, c.seq) else none, posScid := c.scid, dec := [] }) s
      endCmd tag st (BitVec.ofNat 64 (if st = stOk then c.dsnum.toNat + 2 ^ 32 * c.seq.toNat else 0)) 0xFFFF s

/-- Begin a LOCATE: any armed start is disarmed; a transport at standstill begins with step 2 (R226). -/
def beginLocate (c : MotCur) (m : Mot) : Mot :=
  { m with cur := some { c with op := 2, step := if m.still then 2 else 1 }, armed := none, armGo := false, armMiss := 0, st := .locating }

/-- The tape stands after a commanded stop: the transport is tensioned, unless it has no tension; in the power-fail commit tension is
released then (R229, R312 step 5). -/
def atRest (s : State) (t : Tid) (m : Mot) : Mot :=
  let last : Bool := s.pwr.commit.any (fun c => c.marked.contains t.val)
  { m with st := if last ∨ m.st = .released then .released else .tensioned, tensOn := m.tensOn && !last, setv := 0 }

/-- A commanded stop begins (R229): an armed start is disarmed; a transport at standstill is at rest at once. -/
def stopMot (s : State) (t : Tid) (c : MotCur) (m : Mot) : Mot :=
  let m := { m with armed := none, armGo := false, armMiss := 0 }
  if m.still ∨ m.st = .released then atRest s t m else { m with cur := some { c with op := 4 } }

/-- WL's drivers are off (R87, R200, R229). -/
def wlOff (w : Wl) : Wl := { w with wen := false, gap := false, pass := none }

/-- Begin the next of Puppeteer's motion commands, if no motion command runs and WL has no descriptor in progress (R22, R224). -/
def nextPup (t : Tid) (s : State) : State :=
  modTp t (fun x =>
    match x.mot.cur, x.mot.pup with
    | none, c :: r =>
      let m := { x.mot with pup := r }
      let y := { x.yoyo with pause := 0, pauseEnd := false }
      if x.wl.cur.isSome then x
      else if c.op = 4 ∧ (x.mot.st = .tensioned ∨ x.mot.st = .running ∨ x.mot.st = .released) then
        { x with mot := stopMot s t c m, yoyo := { y with on := false, out := 0 }, wl := wlOff x.wl }
      else if c.op ≠ 4 ∧ (x.mot.st = .tensioned ∨ x.mot.st = .running) then
        { x with mot := beginLocate c m, yoyo := y, wl := wlOff x.wl }
      else x
    | _, _ => x) s

/-- A motion command ends (R224). -/
def endMotion (t : Tid) (st : BitVec 8) (val : W32) (s : State) : State :=
  match (tpOf s t).mot.cur with
  | none => s
  | some c =>
    let s := modMot t (fun m => { m with cur := none }) s
    let s := match c.ticket with
      | some k => finish t 8 k st val s
      | none => s
    nextPup t (endHostLocate c st s)

/-- Start the run from the run-up position up to the armed position (R227). -/
def goArmed (t : Tid) (s : State) : State :=
  let v := startSpeed s t
  let paused := (tpOf s t).yoyo.pause != 0
  modMot t (fun m =>
    if m.armed.isSome && !m.armGo && m.st = .tensioned && !paused then { m with armGo := true, armVr := v, st := .running }
    else m) s

/-- A descriptor's MOT.STOP (R229). An armed start is disarmed; a transport at standstill completes at once. -/
def beginStop (t : Tid) (ticket : Option (BitVec 16)) (s : State) : State :=
  let m := (tpOf s t).mot
  let s := modMot t (fun m => { m with armed := none, armGo := false, armMiss := 0, cur := some { MotCur.reset with ticket := ticket, op := 4 } }) s
  let s := modTp t (fun x => { x with yoyo := { x.yoyo with pause := 0, pauseEnd := false, on := false, out := 0 } }) s
  if m.st = .released then endMotion t stOk 0 s
  else if m.still then endMotion t stOk 0 (modMot t (fun m => { m with st := .tensioned, setv := 0 }) s)
  else s

/-- Puppeteer commands MOT.STOP (R55, R268, R312). It begins when the motion command in progress and WL's descriptor have ended, ahead
of any descriptor of the sequencer (R22, R224). -/
def commandStop (t : Tid) (s : State) : State :=
  nextPup t (modMot t (fun m => { m with pup := m.pup ++ [{ MotCur.reset with op := 4 }] }) s)

/-- The motion command in progress ends where the tape is (R231, R268, R271): it has no completion of its own any more. -/
def dropMotion (t : Tid) (s : State) : State := endMotion t stOk (tpOf s t).mot.lpos s

/-! ### What a motion fault ends (R112, R231) -/

/-- Codewords of a dataset that received at least one copy (R108). -/
def rewritten (d : Ds) : Nat := (d.cw.cells.filter (fun c => decide (0 < c.2.copies))).length

/-- The VFY.ARMs not yet completed that a predicate on issue order and DSNUM picks end with a status, VALUE the codewords rewritten so
far (R110, R112). -/
def endArms (t : Tid) (st : BitVec 8) (which : Nat → W32 → Bool) (s : State) : State :=
  let arms := (portOpen (tpOf s t).vfyP).filter (fun x => which x.order (partB x.desc 64 32))
  let ended (k : BitVec 16) : Bool := arms.any (fun x => x.ticket == k)
  let s := forAll arms (fun x s =>
    let v := (((tpOf s t).vfy.ds.find? (fun d => d.dsnum == (partB x.desc 64 32 : W32))).map rewritten).getD 0
    finish t 4 x.ticket st (BitVec.ofNat 32 v) s) s
  modTp t (fun x => { x with vfy := { x.vfy with ds := x.vfy.ds.map (fun d =>
    { d with armed := d.armed.filter (fun k => !ended k), more := d.more.filter (fun m => !ended m.1) }) } }) s

/-- WL stops by motion fault: drivers off, its descriptors and every VFY.ARM complete MOTION_FAULT (R112). -/
def wlMotionFault (t : Tid) (s : State) : State :=
  let cur := (tpOf s t).wl.cur
  let s := modTp t (fun x => { x with wl := { x.wl with cur := none, faulted := true, gap := false, wen := false, pass := none } }) s
  let s := forAll (portOpen (tpOf s t).wlP) (fun x s =>
    let v : W32 := match cur with
      | some c => if c.ticket = x.ticket then c.lpos else 0xFFFFFFFF
      | none => 0xFFFFFFFF
    finish t 3 x.ticket stMotionFault v s) s
  endArms t stMotionFault (fun _ _ => true) s

/-- A LOAD whose calibration a motion fault cuts short ends MOTION_FAULT: the transport has no cartridge loaded (log entry 26). -/
def loadFault (t : Tid) (s : State) : State :=
  if fld s (Reg.rcMode t) Fld.rcModeMode ≠ 3 then s
  else
    match s.hif.cmds.find? (fun k => k.active && k.e.opc == 0x08 && csField k.e 0x18 1 == t.val) with
    | none => s
    | some k => endCmd k.e.tag stMotionFault 0 0xFFFF s

/-- The MOT descriptor in progress and every queued one complete MOTION_FAULT (R231). -/
def motMotionFault (t : Tid) (s : State) : State :=
  let s := loadFault t s
  let waiting := (tpOf s t).mot.pup
  let s := forAll waiting (fun c => endHostLocate c stMotionFault) (modMot t (fun m => { m with pup := [] }) s)
  let s := endMotion t stMotionFault 0 s
  forAll (portOpen (tpOf s t).motP) (fun x => finish t 8 x.ticket stMotionFault 0) s

/-! ### Clearing a stopped transport (R233) -/

/-- A loop in FAULT returns to MANUAL with MAN equal to its last CMD; the overrun count goes (R233). -/
def clearLoop (l : Nat) (s : State) : State :=
  let p := getLoop s l
  let s := modLoop l (fun p => { p with mode := if p.mode = .fault then .manual else p.mode, consec := 0 }) s
  if p.mode = .fault then
    setReg (Reg.mcMan (l / 4) (l % 4)) p.cmdv (setFld (Reg.mcLctl (l / 4) (l % 4)) Fld.mcLctlMode 0 s)
  else s

/-- MC_TCTL.CMD = 2 on a FAULTED transport at standstill (R233); WL may write again (R112). -/
def clearTransport (t : Tid) (s : State) : State :=
  let x := tpOf s t
  if x.mot.st = .faulted ∧ x.mot.still = true then
    let s := forAll [4 * t.val, 4 * t.val + 1, 4 * t.val + 2, 4 * t.val + 3] clearLoop s
    let x := tpOf s t
    let ready := x.loopA.mode = .auto ∧ x.loopB.mode = .auto ∧ x.mot.tensOn = true
    modTp t (fun x => { x with
      mot := { x.mot with st := if ready then .tensioned else .released, reelStop := false }
      wl := { x.wl with faulted := false } }) s
  else logIgnored (unitId 7 t.val) 2 s

/-- Puppeteer returns the loops of a transport to AUTO and tensions it again (R233, R361). -/
def restoreLoops (t : Tid) (s : State) : State :=
  let s := forAll [0, 1, 2, 3] (fun n s =>
    if (getLoop s (4 * t.val + n)).hasProg then setFld (Reg.mcLctl t n) Fld.mcLctlMode 1 s else s) s
  modMot t (fun m => if m.st = .released then { m with st := .tensioned, tensOn := true } else m) s

end Sys2Proof.Machine
end

