-- ==== Sys2Proof/Machine/PowBase.lean ====
section
/-! DEFINITION. The Wind-up budget: the grants (R309-R311), the abort voltage (R313) and the speed caps (R307, R357). -/
namespace Sys2Proof.Machine

/-- A supply sample on its scale: 16 bits of 1.000 V times the divider ratio × 100 of PWR_DIV (R306, R352), in 1/65,536 of 10 mV. -/
def scaleSample (code : BitVec 16) (ratio : Nat) : Nat := code.toNat * ratio

/-- A voltage in 10 mV as PWR_STAT and the recovery log show it, to the nearest (R352's example; log entry 30). -/
def tenMv (v : Nat) : Nat := (v + 32768) / 65536

/-- A threshold in 0.1 V on the scale of the samples. -/
def tenthVolt (v : Nat) : Nat := 655360 * v

/-- The bank's 1-second minimum on the scale of the samples: the lowest sample of the last second taken with HU_TEST low (R310). -/
def vmin1s (s : State) : Nat := match s.pwr.hist with
  | [] => 0
  | (_, v) :: _ => v

/-- The latest valid capacitance in mF, 0 where there is none (R313). -/
def capacity (s : State) : Nat := s.pwr.cap.getD 0

/-- Tsave as numerator and denominator in seconds: the larger of SBYTES / FLRATE and 0.350 s (R310). -/
def tsave (s : State) : Nat × Nat :=
  let b := fld s Reg.wuSave Fld.wuSaveSbytes * 4096
  let f := fld s Reg.wuSave Fld.wuSaveFlrate * 1000
  if f * 7 ≤ b * 20 then (b, f) else (7, 20)

/-- The energy left for draining, Euse - Efix, in units of 10^-14 / 2^32 J times the denominator of Tsave (R310): with Vs = 0.97 Vm,
C in mF and volts on the scale of the samples, Euse = 4 EFF C (9409 Vm² - 10000 VMIN²) × 10^-14 / 2^32 J. -/
def drainEnergy (s : State) : Int :=
  let a : Int := fld s Reg.wuCfg Fld.wuCfgEff * capacity s *
    (9409 * (vmin1s s : Int) ^ 2 - 10000 * 2 ^ 32 * (fld s Reg.wuVmin Fld.wuVminVmin : Int) ^ 2)
  let ts := tsave s
  4 * a * ts.2 - (fld s Reg.wuPwr Fld.wuPwrPrun * fld s Reg.wuCfg Fld.wuCfgTtail * 10 ^ 11 * 2 ^ 32 * ts.2 : Nat)
    - (fld s Reg.wuPwr Fld.wuPwrPsave * ts.1 * 10 ^ 14 * 2 ^ 32 : Nat)

/-- The denominator of Tdrain for that numerator, in seconds (R310). -/
def drainDen (s : State) : Nat := fld s Reg.wuPwr Fld.wuPwrPrun * (tsave s).2 * 10 ^ 14 * 2 ^ 32

/-- Tracks of transport t that write: the head has them and FAILMASK does not name them (R42, R113). -/
def liveMask (x : Tp) : W64 := ~~~(x.vfy.failmask ||| x.head.missing)

/-- G_t where PRUN and FLRATE are not zero: nine tenths of the bytes written in Tdrain, down to 64 KiB (R310). -/
def grantBytes (s : State) (t : Tid) : Nat :=
  let r := userRate (maskCount (liveMask (tpOf s t))) 2500
  9 * r.1 * (drainEnergy s).toNat / (10 * r.2 * drainDen s * 65536) * 65536

/-- Whether transport t is granted anything: a cartridge is loaded, it is not write-disabled (R310), the latest measurement
is valid (R308) and the idle half of the commit area is erased (R317). -/
def granted (s : State) (t : Tid) : Bool :=
  (tpOf s t).loaded && !writeDisabled s t && fld s Reg.wuMeas Fld.wuMeasValid == 1 && s.pwr.erased

/-- The grant of transport t; with PRUN or FLRATE zero the formula has no value and any multiple of 64 KiB that the field
holds may result (log entry 17). -/
def grantOf (t : Tid) (s : State) : Nat × State :=
  if !granted s t then (0, s)
  else if fld s Reg.wuPwr Fld.wuPwrPrun = 0 ∨ fld s Reg.wuSave Fld.wuSaveFlrate = 0 then
    let r := takeFree s
    (r.1 % 2 ^ 24 * 65536, r.2)
  else (grantBytes s t, s)

/-- Compute the grant of one transport again; event BUDGET at a change (R311). -/
def regrantOne (t : Tid) (s : State) : State :=
  let r := grantOf t s
  if s.pwr.grant.get 0 t.val = r.1 then r.2
  else setEvent t evBudget { r.2 with pwr := { r.2.pwr with grant := r.2.pwr.grant.set 0 t.val r.1 } }

/-- Tdrain in ms as WU_TDRAIN shows it (R310, log entry 17). -/
def tdrainMs (s : State) : Nat × State :=
  if fld s Reg.wuPwr Fld.wuPwrPrun = 0 ∨ fld s Reg.wuSave Fld.wuSaveFlrate = 0 then takeFree s
  else (min 65535 (openQuot (1000 * (drainEnergy s).toNat) (drainDen s)), s)

/-- Compute every grant again (R309). -/
def regrant (s : State) : State :=
  let r := tdrainMs s
  let s := setFld Reg.wuTdrain Fld.wuTdrainTdrain r.1 r.2
  forAll allT regrantOne { s with pwr := { s.pwr with vminUsed := vmin1s s } }

/-- HOLDUP_SENSE is below the abort voltage (R313), volts in 10 mV: V² < VMIN² + 2 PSAVE Tsave / (0.8 EFF/100 C); without
a valid measurement since cold reset it always is. -/
def belowAbort (s : State) : Bool :=
  match s.pwr.cap with
  | none => true
  | some c =>
    let d := fld s Reg.wuCfg Fld.wuCfgEff * c * (tsave s).2
    decide (s.pwr.vhu ^ 2 * d < 2 ^ 32 * (fld s Reg.wuVmin Fld.wuVminVmin ^ 2 * d
      + 25 * 10 ^ 8 * fld s Reg.wuPwr Fld.wuPwrPsave * (tsave s).1))

/-- CAPV: the lower of the caps in force, else 10,000 mm/s (R307, R357). -/
def capInForce (s : State) : Nat :=
  min (if s.pwr.sag then fld s Reg.pwrCap Fld.pwrCapSagcap else 10000)
    (if s.pwr.therm then fld s Reg.pwrThcfg Fld.pwrThcfgThcap else 10000)

/-- Set CAPV of every transport to the cap in force. -/
def applyCaps (s : State) : State := forAll allT (fun t s => setFld (Reg.yyCap t.val) Fld.yyCapCapv (capInForce s) s) s

/-- A transport becomes write-disabled and its grant goes (R260, R310). -/
def disableWrites (t : Tid) (cause : Nat) (s : State) : State := regrant (writeDisable t cause s)

/-! ### Retired units (R328, R330) -/

/-- A change of the health log: its generation rises (R330). -/
def bumpHealth (s : State) : State := { s with flt := { s.flt with healthGen := s.flt.healthGen + 1 } }

/-- A unit is retired: it counts in HEALTH and NRET, and notice 2 is posted (R328). -/
def markRetired (unit : BitVec 16) (s : State) : State :=
  if s.flt.retired.contains unit then s
  else notice 2 (bumpHealth { s with flt := { s.flt with retired := s.flt.retired ++ [unit] } })

/-- A unit is back in service. -/
def markReturned (unit : BitVec 16) (s : State) : State :=
  if s.flt.retired.contains unit then
    bumpHealth { s with flt := { s.flt with retired := s.flt.retired.filter (fun u => u != unit) } }
  else s

end Sys2Proof.Machine
end

