-- ==== Sys2Proof/Machine/ReadChannel.lean ====
section
/-! DEFINITION. The read channel (R120-R149, R155): lanes and their framing, zone entries and tracking, attempts of a codeword
on its LDPC engine, the reports sent to the F-die, re-homing of engines, calibration results and capture. -/
namespace Sys2Proof.Machine

/-! ### Lanes and engines -/

/-- Transport and track of lane L = 64t + k (R12). -/
def laneT (l : Nat) : Tid := tid (l / 64)
/-- Track of a lane. -/
def laneK (l : Nat) : Nat := l % 64

/-- Read lane L. -/
def getLane (s : State) (l : Nat) : RLane := (tpOf s (laneT l)).rc.lanes.get RLane.reset (laneK l)

/-- Change the read channel of a transport. -/
def modRc (t : Tid) (f : RcT → RcT) (s : State) : State := modTp t (fun x => { x with rc := f x.rc }) s

/-- Change read lane L. -/
def modLane (l : Nat) (f : RLane → RLane) (s : State) : State :=
  modRc (laneT l) (fun r => { r with lanes := r.lanes.set RLane.reset (laneK l) (f (r.lanes.get RLane.reset (laneK l))) }) s

/-- The home engine of lane L in the 6-bit format 32c + E (R18, R35). -/
def homeEngine (l : Nat) : Nat := l / 256 * 32 + l % 256 / 8

/-- The engine that serves lane L (R143). -/
def laneEngine (s : State) (l : Nat) : Nat :=
  match (getLane s l).moved with
  | [] => homeEngine l
  | e :: _ => l / 256 * 32 + e

/-- RC_ENG.RETIRED of an engine. -/
def engRetired (s : State) (e : Nat) : Bool := fld s (Reg.rcEng (e / 32) (e % 32)) Fld.rcEngRetired == 1

/-- Lanes that an engine serves (RC_ENG.NLANES). -/
def engLanes (s : State) (e : Nat) : List Nat :=
  ((List.range 256).map (fun i => e / 32 * 256 + i)).filter (fun l => laneEngine s l == e)

/-- MODE of a transport (RC_MODE). -/
def rcMode (s : State) (t : Nat) : Nat := fld s (Reg.rcMode t) Fld.rcModeMode

/-! ### Zone entries (R124-R127) -/

/-- The zone of a position (R125). At a negative LPOS, in a run-up, P names no zone: which of the 32 applies is open (log entry 39). -/
def zoneOf (s : State) (t : Tid) : Nat :=
  let w := fld s (Reg.rcZctl t) Fld.rcZctlWraplen
  let m := (tpOf s t).mot
  if w = 0 then 0
  else if m.lpos.toInt < 0 then Config.zoneBefore m.wrap m.lpos.toInt % 32
  else
    let zlen := ceilDiv w 32
    let p := min m.lpos.toNat (w - 1)
    if m.wrap % 2 = 0 then p / zlen else (w - 1 - p) / zlen

/-- The page: the parity of the wrap unless forced (R125). -/
def pageOf (s : State) (t : Tid) : Nat :=
  if fld s (Reg.rcZctl t) Fld.rcZctlPageForce = 1 then fld s (Reg.rcZctl t) Fld.rcZctlPage else (tpOf s t).mot.wrap % 2

/-- Index of an entry in the zone table (R124). -/
def zoneKey (page band zone k : Nat) : Nat := ((4 * page + band) * 32 + zone) * 64 + k

/-- The stored entry. -/
def zoneEntry (s : State) (t : Tid) (key : Nat) : W32 := (tpOf s t).rc.zones.get 0 key

/-- The entry in effect: RC_ZDEF for one that is not loaded (R126). -/
def zoneInEffect (s : State) (t : Tid) (key : Nat) : W32 :=
  let e := zoneEntry s t key
  if fieldB e 30 2 = 0 then BitVec.ofNat 32 (fld s (Reg.rcZdef t) Fld.rcZdefEntry) else e

/-- Store an entry. -/
def setZone (t : Tid) (key : Nat) (v : W32) (s : State) : State := modRc t (fun r => { r with zones := r.zones.set 0 key v }) s

/-- X moves towards its value at the end of the slot by an arithmetic shift (R127). -/
def trackTo (x fin : Int) (sh : Nat) : Int := x + (fin - x) / 2 ^ sh

/-- The tracking update of an entry from the loop values at the end of the slot (R127): GAIN is unsigned, OFFSET and ASYM are signed;
EQP is the stored entry's. -/
def trackEntry (stored used : W32) (fin : Rat × Rat × Rat) (sh : Nat) : W32 :=
  let g := trackTo (fieldB used 0 8) (openRound fin.1) sh
  let f := trackTo (signedOf 8 (fieldB used 8 8)) (openRound fin.2.1) sh
  let a := trackTo (signedOf 8 (fieldB used 16 8)) (openRound fin.2.2) sh
  BitVec.ofNat 32 (patternOf 8 g + 2 ^ 8 * patternOf 8 f + 2 ^ 16 * patternOf 8 a + 2 ^ 24 * fieldB stored 24 5 + 2 ^ 31)

/-! ### Notices and slots -/

/-- The notice with a number (R144). -/
def noticeNo (x : RcT) (n : Nat) : Option Notice := x.notices.find? (fun y => y.no == n)

/-- WL's notice at the start of a WRITE or MARK (R144); a FILL's produces no reports and leaves nothing behind. -/
def sendNotice (t : Tid) (e : Extent) (s : State) : State :=
  modRc t (fun r =>
    { r with
      noteNo := r.noteNo + 1
      notices := ((⟨r.noteNo + 1, e.isMark, e.dsnum, e.lpos, e.mask, e.ndat, e.nres, e.rw⟩ : Notice) :: r.notices.reverse).take 16 |>.reverse }) s

/-- RWQ sends the chiplet a directory's content when it is fixed (R147). -/
def sendDirectory (t : Tid) (dsnum : W32) (rw : List RwSlot) (s : State) : State :=
  modRc t (fun r => { r with notices := r.notices.map (fun n => if n.dsnum == dsnum && !n.mark then { n with dir := rw } else n) }) s

/-- Kind and index of a slot in verify mode, from the notice (R82, R144, R147); none for a track that is not live. -/
def noticeKind (n : Notice) (k slot : Nat) : Option (Nat × Nat) :=
  match (maskTracks n.mask).idxOf? k with
  | none => none
  | some lam =>
    if n.mark then some (3, 0)
    else if slot < n.ndat then
      match (lambdaCws (maskCount n.mask) lam)[slot]? with
      | some i => some (0, i)
      | none => some (4, 0)
    else if slot = n.ndat then some (2, 0)
    else
      match n.dir.find? (fun x => x.lam == lam && x.q == slot - n.ndat - 1) with
      | some x => some (1, x.idx)
      | none => some (4, 0)

/-- Slots of a notice's extent. -/
def noticeSlots (n : Notice) : Nat := if n.mark then 4 else n.ndat + n.nres

/-! ### Reports (R101, R144-R147) -/

/-- The part of a report that the decode fixes: SLOT, TRACK, ITER, FLIPS, CAND, FLY, NOSYNC. -/
def reportLow (slot k iter flips cand : Nat) (fly nosync : Bool) : BitVec 128 :=
  BitVec.ofNat 128 (2 ^ 32 * (slot % 512) + 2 ^ 41 * (k % 64) + 2 ^ 64 * iter + 2 ^ 68 * flips + 2 ^ 78 * cand
    + 2 ^ 80 * fly.toNat + 2 ^ 81 * nosync.toNat)

/-- The report of a slot that did not decode (R133). -/
def failLow (slot k : Nat) : BitVec 128 := reportLow slot k 15 0 0 false true

/-- Add DSNUM, KIND and INDEX. -/
def reportOf (low : BitVec 128) (dsnum : W32) (kind idx : Nat) : BitVec 128 :=
  low ||| BitVec.ofNat 128 (dsnum.toNat + 2 ^ 47 * kind + 2 ^ 50 * (idx % 8192))

/-- Change capture channel n of chiplet c. -/
def modCap (c n : Nat) (f : CapCh → CapCh) (s : State) : State :=
  { s with caps := s.caps.set CapCh.reset (4 * c + n) (f (s.caps.get CapCh.reset (4 * c + n))) }

/-- A capture channel's trigger occurs: writing stops POST samples later, in units of 32,768 (R155). -/
def capTrigger (c n : Nat) (s : State) : State :=
  if fld s (Reg.rcCaplane c n) Fld.rcCaplaneArm = 1 ∧ !s.capTrig.contains (4 * c + n) then
    modCap c n (fun x => { x with left := 32768 * fld s (Reg.rcCaplen c n) Fld.rcCaplenPost }) { s with capTrig := s.capTrig ++ [4 * c + n] }
  else s

/-- Capture has stopped: STATUS gives the next write position (R155). -/
def endCapture (c n : Nat) (s : State) : State :=
  let s := setFld (Reg.rcCaplane c n) Fld.rcCaplaneArm 0 s
  let s := setFld (Reg.rcCapstat c n) Fld.rcCapstatWptr (s.caps.get CapCh.reset (4 * c + n)).pos s
  let s := raiseFld (Reg.rcCapstat c n) Fld.rcCapstatDone s
  { s with capTrig := s.capTrig.filter (fun i => i != 4 * c + n) }

/-- One sample of a channel's lane (R155): a byte in the ring of LENGTH bytes, bits [5:0] the code, bit 7 the mark after an overflow; after
the trigger and POST more the channel stops. A channel whose token names no buffer of Puppeteer's, as with TRIG = 2 before the match,
writes nothing. -/
def capSample (c n : Nat) (s : State) (x : BitVec 6) : State :=
  let ch := s.caps.get CapCh.reset (4 * c + n)
  let trig := s.capTrig.contains (4 * c + n)
  let tok := reg s (Reg.rcCaptok c n)
  if fld s (Reg.rcCaplane c n) Fld.rcCaplaneArm ≠ 1 then s
  else if trig ∧ ch.left = 0 then endCapture c n s
  else if !tokenHeld s 3 tok then s
  else
    let b : Byte := BitVec.ofNat 8 (x.toNat + if ch.mark then 128 else 0)
    let next := if ch.pos + 1 < fld s (Reg.rcCaplen c n) Fld.rcCaplenLength then ch.pos + 1 else 0
    let s := { s with mem := { s.mem with hbm := s.mem.hbm.set 0 (tokAddr s tok + ch.pos) b } }
    modCap c n (fun y => { y with pos := next, left := if trig then y.left - 1 else y.left, mark := false }) s

/-- A channel's lane gives samples: they are written, and a channel that has then its POST samples stops (R155). -/
def capRun (c n : Nat) (l : List (BitVec 6)) (s : State) : State :=
  let s := l.foldl (capSample c n) s
  if s.capTrig.contains (4 * c + n) ∧ (s.caps.get CapCh.reset (4 * c + n)).left = 0 ∧ fld s (Reg.rcCaplane c n) Fld.rcCaplaneArm = 1
  then endCapture c n s else s

/-- The samples of read lane L reach the capture channels that record it (R155). -/
def capLane (l : Nat) (adc : List (BitVec 6)) (s : State) : State :=
  forAll (List.range 4) (fun n s =>
    if fld s (Reg.rcCaplane (l / 256) n) Fld.rcCaplaneLane = l % 256 ∧ fld s (Reg.rcCaplane (l / 256) n) Fld.rcCaplaneArm = 1
    then capRun (l / 256) n adc s else s) s

/-- Every capture channel of lane L with trigger source trig (R155). -/
def capTriggers (l trig : Nat) (s : State) : State :=
  forAll (List.range 4) (fun n s =>
    if fld s (Reg.rcCaplane (l / 256) n) Fld.rcCaplaneLane = l % 256 ∧ fld s (Reg.rcCaplane (l / 256) n) Fld.rcCaplaneTrig = trig
    then capTrigger (l / 256) n s else s) s

/-- Send a report over the module of the lane's transport (R142); over one that is down nothing passes (R15). -/
def sendReport (t : Tid) (r : BitVec 128) (s : State) : State :=
  let s := if isOffline s t then s else modRc t (fun x => { x with reports := x.reports ++ [r] }) s
  if fieldB r 81 1 = 1 then capTriggers (64 * t.val + fieldB r 41 6) 3 s else s

/-- DSNUM of a read-mode report: that of the extent's directory once known; before that the spec gives none (log entry 18). -/
def readDsnum (t : Tid) (s : State) : W32 × State :=
  match (tpOf s t).rc.dirDs with
  | some d => (d, s)
  | none => let r := takeFree s; (BitVec.ofNat 32 r.1, r.2)

/-- A mark codeword read back (R86): an end-of-data mark ends the record sequence of the transport's read streams (R263). -/
def readMark (t : Tid) (bytes : List Byte) (s : State) : State :=
  let p := scramble scrMark bytes
  if leAt p 0 4 = 0x4B524D45 ∧ leAt p 4 1 = 0 ∧ leAt p 1020 4 = (crc32c (p.take 1020)).toNat then
    forAll ((openStreams s).filter (fun x => x.2.t == t.val && x.2.read)) (fun x => modStream x.1 (fun y =>
      if y.dec.any (fun d => d.eod) then y else { y with dec := y.dec ++ [{ Deliv.reset with eod := true }] })) s
  else s

/-- Send a read-mode report with its payload, filler excepted (R146). -/
def sendRead (t : Tid) (low : BitVec 128) (kind idx b : Nat) (bytes : Option (List Byte)) (s : State) : State :=
  let d := readDsnum t s
  let s := sendReport t (reportOf low d.1 kind idx) d.2
  match bytes with
  | none => s
  | some p =>
    if kind = 4 ∨ isOffline s t = true then s
    else if kind = 3 then readMark t p s
    else modRc t (fun x => { x with rows := x.rows ++ [⟨x.extNo, fieldB low 32 9, fieldB low 41 6, kind, idx, b, p⟩] }) s

/-- Send a rewrite slot's report with what is known of the directories (R146, R147). -/
def sendHeld (t : Tid) (h : HeldRw) (s : State) : State :=
  let x := (tpOf s t).rc
  let n := x.dirRows
  match x.dirDs, x.ndat with
  | some _, some m =>
    if h.slot < m then sendRead t h.low 0 0 0 h.bytes s
    else
      match n.find? (fun r => r.lam == h.k && r.q == h.slot - m - 1) with
      | some r => sendRead t h.low 1 r.idx r.b h.bytes s
      | none => sendRead t h.low 4 0 0 none s
  | _, _ => sendRead t (reportLow h.slot h.k 15 0 0 false (fieldB h.low 81 1 == 1)) 1 0 0 none s

/-- Every live lane's directory slot has decoded or failed: the lanes in FRAMED mode (R147). -/
def dirsIn (x : RcT) : Bool := x.lanes.cells.all (fun c => !c.2.framed || x.dirSeen.contains c.1)

/-- Send the held reports if every live lane's directory is in, or in any case at the end of the extent. -/
def releaseHeld (t : Tid) (force : Bool) (s : State) : State :=
  let x := (tpOf s t).rc
  if force || (dirsIn x && x.ndat.isSome) then forAll x.held (sendHeld t) (modRc t (fun r => { r with held := [] }) s) else s

/-- The live tracks of an extent being read, for a directory that names N of them: the lanes in FRAMED mode where their
number is N, else the tracks the head has and FAILMASK does not name (log entry 18). -/
def readTracks (x : Tp) (n : Nat) : List Nat :=
  let framed := (x.rc.lanes.cells.filter (fun c => c.2.framed)).map (fun c => c.1)
  if framed.length = n then framed else maskTracks (liveMask x)

/-- The VALID entries of a descrambled directory payload (R85), their logical tracks turned into tracks. -/
def dirEntries (p : List Byte) (tracks : List Nat) : List RwSlot :=
  let nrw := leAt p 12 1
  ((List.range (leAt p 13 1 * nrw)).filter (fun e => bitOf (leAt p (16 + 3 * e) 3) 15)).map (fun e =>
    let v := leAt p (16 + 3 * e) 3
    ⟨tracks.getD (e / nrw) 64, e % nrw, fieldOf v 0 13, fieldOf v 13 2, fieldOf v 16 3, false⟩)

/-- A directory payload whose MAGIC and DCRC are correct and whose DSNUM matches the extent's, where codeword 0 has told it (R147; log
entry 18). -/
def dirGood (x : RcT) (p : List Byte) : Bool :=
  leAt p 0 4 == dirMagic && leAt p 1020 4 == (crc32c (p.take 1020)).toNat
    && (match x.extDs with
      | none => true
      | some d => leAt p 4 4 == d.toNat)

/-- A read-mode directory slot of track k has decoded or failed. -/
def directoryIn (t : Tid) (k : Nat) (bytes : Option (List Byte)) (s : State) : State :=
  let s := modRc t (fun r =>
    let r := { r with dirSeen := if r.dirSeen.contains k then r.dirSeen else r.dirSeen ++ [k] }
    match r.dirDs, bytes with
    | none, some b =>
      let p := scramble scrDirectory b
      if dirGood r p then
        { r with
          dirDs := some (BitVec.ofNat 32 (leAt p 4 4))
          dirRows := dirEntries p (readTracks (tpOf s t) (leAt p 13 1)) }
      else r
    | _, _ => r) s
  releaseHeld t false s

/-- The extent length that this extent's own slots have told: a directory's, or a mark's (R131). -/
def extentNow (x : RcT) : Option Nat :=
  match x.ndat with
  | some m => some (m + ceilDiv m 32)
  | none => if x.isMark then some 4 else none

/-- The chiplet learns the extent's DSNUM from the header in codeword 0, where MAGIC is correct (R67, R147; log entry 18). -/
def learnDsnum (slot : Nat) (bytes : Option (List Byte)) (r : RcT) : RcT :=
  match bytes with
  | none => r
  | some b =>
    let p := scramble 0 (b.take 16)
    if slot = 0 ∧ leAt p 0 4 = dsMagic ∧ r.extDs = none then { r with extDs := some (BitVec.ofNat 32 (leAt p 8 4)) } else r

/-- A lane decodes slot 0 of an extent being read. It is a new extent, and what the last one's directories said is over
(R147), where the lane has begun the current one before, or directory slots of it have been seen. -/
def freshExtent (l : Nat) (s : State) : State :=
  let t := laneT l
  let x := (tpOf s t).rc
  let s := if decide ((getLane s l).extSeen = x.extNo) || !x.dirSeen.isEmpty then
      modRc t (fun r =>
        { r with
          ext := (extentNow r).getD r.ext, prevDat := r.ndat.getD r.prevDat
          dirSeen := [], dirDs := none, dirRows := [], ndat := none, isMark := false, extDs := none, extNo := r.extNo + 1 })
        (releaseHeld t true s)
    else s
  modLane l (fun y => { y with extSeen := (tpOf s t).rc.extNo }) s

/-- Report a slot of a lane in the mode it was taken under: verify reports for live tracks (R144), read reports (R146); the
directory and the rewrite slots of a read extent go through R147. -/
def reportSlot (mode l slot note : Nat) (kind : Nat) (low : BitVec 128) (bytes : Option (List Byte)) (s : State) : State :=
  let t := laneT l
  let k := laneK l
  let x := (tpOf s t).rc
  if mode = 1 then
    match noticeNo x note with
    | none => s
    | some n =>
      match noticeKind n k slot with
      | none => s
      | some (kd, i) => sendReport t (reportOf low n.dsnum kd i) s
  else if kind = 2 then directoryIn t k bytes (sendRead t low 2 0 0 bytes s)
  else if kind = 3 then sendRead t low 3 0 0 bytes s
  else
    let s := modRc t (learnDsnum slot bytes) s
    let reserve := match x.ndat with
      | some m => decide (m < slot)
      | none => decide (0 < x.prevDat ∧ x.prevDat < slot)
    if reserve then releaseHeld t false (modRc t (fun r => { r with held := r.held ++ [⟨k, slot, low, bytes⟩] }) s)
    else sendRead t low 0 0 0 bytes s

/-! ### Framing (R131, R136) -/

/-- A lane enters SEARCH mode: what comes next is acquired afresh (R128, R130), and it looks for SYNC-A from here on. -/
def toSearch (l : RLane) : RLane :=
  { l with
    framed := false, fresh := true, flyPos := none, fly := 0, nodec := 0, syncT := none, at' := l.soft.length
    loops := { l.loops with bitNo := none, held := 0, lost := false } }

/-- A lane loses lock (R130). -/
def loseLock (l : Nat) (s : State) : State :=
  bumpFld (Reg.rcLcnt (l / 64) (l % 64)) Fld.rcLcntLoss (modLane l toSearch s)

/-- Extent length the lane counts by: from the notice in verify mode, else as the extent's own slots tell (R131). -/
def extentLen (s : State) (l mode note : Nat) : Option Nat :=
  let x := (tpOf s (laneT l)).rc
  if mode = 1 then (noticeNo x note).map noticeSlots else extentNow x

/-- The lane moves on to the slot after slot m of the extent (R131). -/
def nextSlot (s : State) (l mode note m : Nat) (x : RLane) : RLane :=
  match extentLen s l mode note with
  | some e => if e ≤ m + 1 then { x with slot := 0, syncT := none, note := if mode = 1 then note + 1 else x.note } else { x with slot := m + 1 }
  | none => { x with slot := m + 1 }

/-- Slot m may be slot 0 of the next extent: no lane has decoded a directory of this one, and the previous extent had m slots (R131; log
entry 19). -/
def maybeNext (s : State) (l mode m : Nat) : Bool :=
  let x := (tpOf s (laneT l)).rc
  mode == 2 && (extentNow x).isNone && x.ext == m && m != 0

/-- Slot period in ps at the measured velocity: 9,440 bits at 320,000 v Hz (R98, R140). -/
def slotPs (s : State) (t : Tid) : Nat :=
  let v := (tpOf s t).mot.vtape.natAbs
  if v = 0 then 0 else 9440 * 10 ^ 12 * 16 / (320000 * v)

/-- Frame a lane with the start of its next slot at a place of its sample buffers (R131): the loops' bit count follows. -/
def frameAt (i : Nat) (x : RLane) : RLane :=
  { x with framed := true, missed := false, at' := i, loops := { x.loops with bitNo := some (x.soft.length - (i + 32)) } }

/-- The SYNC-A times of the other lanes of the transport whose slot 0 of the extent has decoded (R136). -/
def syncTimes (s : State) (l : Nat) : List Rat :=
  ((tpOf s (laneT l)).rc.lanes.cells.filter (fun c => c.1 != laneK l && c.2.framed)).filterMap (fun c => c.2.syncT)

/-- Insert in rising order. -/
def insertRat (a : Rat) : List Rat → List Rat
  | [] => [a]
  | b :: r => if a ≤ b then a :: b :: r else b :: insertRat a r

/-- The median of times: the middle one, or the mean of the middle two. -/
def median (l : List Rat) : Rat :=
  let o := l.foldl (fun a x => insertRat x a) []
  (o.getD ((o.length - 1) / 2) 0 + o.getD (o.length / 2) 0) / 2

/-- Place in a lane's sample buffers of a point in time (R136). -/
def placeOf (s : State) (t : Tid) (x : RLane) (time : Rat) : Int :=
  openRound ((x.soft.length : Rat) - ((x.arr : Rat) - time) * slotLen / (slotPs s t : Rat))

/-- A lane takes as its extent start the median of the other lanes' SYNC-A positions, in time, and is in FRAMED mode at the first slot of
the extent that has not passed (R136). -/
def adoptStart (l : Nat) (s : State) : State :=
  let t := laneT l
  let m := median (syncTimes s l)
  bumpFld (Reg.rcLcnt (l / 64) (l % 64)) Fld.rcLcntXtrk (modLane l (fun x =>
    let first : Int := placeOf s t x m - 160
    let passed := ceilDiv ((x.soft.length : Int) - 9504 - first + 1).toNat slotLen
    let slot := max (max 1 x.slot) passed
    { frameAt (first + (slotLen * slot : Nat)).toNat x with slot := slot }) s)

/-- Slot 0 of an extent did not decode on a lane: cross-track framing, else SEARCH mode (R131, R136). -/
def slot0Failed (l : Nat) (s : State) : State :=
  if syncTimes s l = [] then modLane l (fun x => { toSearch x with missed := true }) s else adoptStart l s

/-- A lane decoded slot 0: the lanes that have missed it take their start from it (R136). -/
def offerStart (l : Nat) (s : State) : State :=
  forAll ((tpOf s (laneT l)).rc.lanes.cells.filter (fun c => c.1 != laneK l && c.2.missed))
    (fun c => adoptStart (l / 64 * 64 + c.1)) s

/-! ### The end of a codeword's attempts (R133) -/

/-- Take a pending codeword out. -/
def dropPend (p : PendCw) (s : State) : State :=
  modRc (laneT p.lane) (fun r => { r with pend := r.pend.filter (fun q => !(q.lane == p.lane && q.dl == p.dl && q.slot == p.slot)) }) s

/-- KIND from the slot's position alone: mark slots of a mark extent, the directory's slot (R146, R147); where this extent has told no
directory, that of the extent before. -/
def failKind (s : State) (p : PendCw) : Nat :=
  let x := (tpOf s (laneT p.lane)).rc
  if x.isMark then 3
  else if x.ndat.getD x.prevDat = p.slot ∧ p.slot ≠ 0 then 2 else 0

/-- No attempt decoded (R133): report it; FLYMAX + 1 in succession lose lock (R130). At the slot where the previous extent's length puts
the next one, the lane returns to SEARCH mode (R131). -/
def notDecoded (p : PendCw) (s : State) : State :=
  let s := dropPend p s
  let s := reportSlot p.mode p.lane p.slot p.note (failKind s p) (failLow p.slot (laneK p.lane)) none s
  let s := modLane p.lane (fun x => { x with nodec := x.nodec + 1, fly := x.fly + 1 }) s
  let s := if fld s (Reg.rcSync (p.lane / 64)) Fld.rcSyncFlymax < (getLane s p.lane).nodec then loseLock p.lane s else s
  if p.slot = 0 ∨ p.maybe = true then slot0Failed p.lane s else s

/-- The attempt in progress ends as failed: the codeword's next attempt follows, if one remains (R141). -/
def attemptFailed (p : PendCw) (s : State) : State :=
  match p.attempts with
  | _ :: a :: r =>
    modRc (laneT p.lane) (fun x =>
      { x with pend := x.pend.map (fun q =>
          if q.lane == p.lane && q.dl == p.dl then { q with attempts := a :: r, later := true, iters := 0, post := [], msgs := [] } else q) }) s
  | _ => notDecoded p s

/-- KIND of a decoded read-mode slot, from the attempt's pattern or, for a flywheel decode, from the slot (R146). -/
def readKind (s : State) (p : PendCw) (a : Attempt) : Nat :=
  if a.fly then failKind s p
  else match a.kind with
    | 2 => 2
    | 3 => 3
    | _ => 0

/-- What the transport learns of the extent from a decoded slot: the directory's place and E, a mark's E (R131). -/
def learnExtent (p : PendCw) (kind : Nat) (s : State) : State :=
  if p.mode = 1 then s
  else if kind = 2 then
    modRc (laneT p.lane) (fun r => match r.ndat with
      | some _ => r
      | none => { r with ndat := some p.slot }) s
  else if kind = 3 then modRc (laneT p.lane) (fun r => { r with isMark := true }) s
  else s

/-- Tracking after a good decode (R127). -/
def trackSlot (p : PendCw) (a : Attempt) (iter : Nat) (s : State) : State :=
  let t := laneT p.lane
  if fld s (Reg.rcZctl t) Fld.rcZctlTrkEn = 1 ∧ iter ≤ 3 ∧ a.cand = 0 ∧ a.fly = false then
    setZone t p.zkey (trackEntry (zoneEntry s t p.zkey) (zoneInEffect s t p.zkey) p.fin (fld s (Reg.rcZctl t) Fld.rcZctlTrkShift)) s
  else s

/-- A decoded slot 0 makes the extent start known: the lane is framed from the sync that decoded, and its time is kept (R131, R136). -/
def frameFrom (p : PendCw) (a : Attempt) (s : State) : State :=
  let t := laneT p.lane
  modLane p.lane (fun x =>
    let time : Rat := (x.arr : Rat) - ((x.soft.length : Rat) - (p.base + a.pos : Nat)) * (slotPs s t : Rat) / slotLen
    { frameAt (p.base + a.pos - 160 + slotLen) x with slot := 1, syncT := some time }) s

/-- The accepted codeword as slot 0 of the next extent, where it is that (R131). -/
def asSlot (p : PendCw) (a : Attempt) : PendCw := if p.maybe ∧ a.fly = false ∧ (a.kind = 0 ∨ a.kind = 3) then { p with slot := 0 } else p

/-- An attempt decoded: the codeword is accepted (R133), its lane is framed and counted (R131), its entry tracked (R127), and
its report sent (R144, R146). At slot 0 a pattern of no extent's start leaves the lane in SEARCH mode (R131). -/
def decodedCw (p : PendCw) (a : Attempt) (iter : Nat) (bits : List Bool) (s : State) : State :=
  let l := p.lane
  let t := laneT l
  let flips := flipCount (demodulate p.soft a.pos (fld s (Reg.rcSync t) Fld.rcSyncRsThr)) bits
  let s := dropPend p s
  let p := asSlot p a
  let opens := decide (p.slot = 0 ∧ (a.fly = true ∨ a.kind = 0 ∨ a.kind = 3))
  let s := if opens then freshExtent l s else s
  let kind := readKind s p a
  let s := learnExtent p kind s
  let s := trackSlot p a iter s
  let s := if a.fly then bumpFld (Reg.rcLcnt (l / 64) (l % 64)) Fld.rcLcntFly s
    else if a.cand = 0 then s else bumpFld (Reg.rcLcnt (l / 64) (l % 64)) Fld.rcLcntAlt s
  let s := if opens then frameFrom p a s else s
  let s := modLane l (fun x => { x with nodec := 0, fly := 0, flyPos := some (if opens then 160 else a.pos) }) s
  let s := if opens then offerStart l s else if p.slot = 0 then modLane l toSearch s else s
  let s := if a.kind = 0 ∧ a.fly = false then capTriggers l 1 s else s
  reportSlot p.mode l p.slot p.note kind (reportLow p.slot (laneK l) iter flips a.cand a.fly false)
    (some (bitsBytes 1024 bits)) s

/-- The deadline of a codeword: the attempt in progress ends as failed and no further one starts (R140). -/
def cwDeadline (p : PendCw) (s : State) : State :=
  notDecoded p (bumpFld (Reg.rcEng (p.eng / 32) (p.eng % 32)) Fld.rcEngDlmiss s)

/-! ### Samples become soft values (R120, R126-R130) -/

/-- Ten taps or five target taps of a preset, as signed numbers (R157). -/
def presetTaps (x : RcT) (e : Nat) : List Int := (List.range 10).map (fun i => signedOf 16 (memLe x.presets (64 * e + 2 * i) 2))
/-- Target taps of a preset (R157). -/
def presetTarget (x : RcT) (e : Nat) : List Int := (List.range 5).map (fun i => signedOf 16 (memLe x.presets (64 * e + 20 + 2 * i) 2))

/-- The triple a lane would latch now, as page, band and zone (R126). -/
def tripleNow (s : State) (t : Tid) : Nat × Nat × Nat := (pageOf s t, (tpOf s t).mot.band, zoneOf s t)

/-- ADC samples per channel bit: 4.0 * 10^9 / f_ch with f_ch = 320,000 v (R98, R121); 0 at standstill. -/
def bitStep (s : State) (t : Tid) : Rat := 4000000000 / (20000 * (tpOf s t).mot.vtape.natAbs : Nat)

/-- What lane L reads from registers, the zone table and the presets for an arrival; a slot that begins is acquired afresh where the lane
is to, or where its triple is another than the last slot's (R126, R128). -/
def laneCfg (s : State) (l : Nat) : LaneCfg :=
  let t := laneT l
  let x := getLane s l
  let n := tripleNow s t
  let e := zoneInEffect s t (zoneKey n.1 n.2.1 n.2.2 (laneK l))
  { step := bitStep s t, acq := reg s (Reg.rcAcq t), entry := e
    taps := presetTaps (tpOf s t).rc (fieldB e 24 5), target := presetTarget (tpOf s t).rc (fieldB e 24 5)
    fresh := x.fresh || n != (x.page, x.band, x.zone), framed := x.framed }

/-- The oldest soft values that no slot needs any more leave the buffers; two slots of history remain (R120, R135). -/
def trimSoft (x : RLane) : RLane :=
  let d := x.at' - 2 * slotLen
  { x with soft := x.soft.drop d, at' := x.at' - d }

/-- The arrival's samples pass the lane pipeline into the sample buffers. A slot that begins latches its triple (R126); a lane in SEARCH
mode without bit 0 has its front end and equaliser from the entry (R129 step 1). -/
def feedLane (l : Nat) (adc : List (BitVec 6)) (s : State) : State :=
  let t := laneT l
  let c := laneCfg s l
  let n := tripleNow s t
  let step := fld s (Reg.rcLlr t) Fld.rcLlrLlrStep
  modLane l (fun x =>
    let x := trimSoft x
    let p := if x.loops.bitNo = none then startLoops c x.loops else x.loops
    let r := softValues c step x.last adc p
    let begun := !x.framed || decide (x.soft.length < x.at' + 32 + slotLen ∧ x.at' + 32 + slotLen < x.soft.length + r.1.length)
    let x := { x with soft := x.soft ++ r.1, last := adc, loops := r.2, arr := s.clk * 800 }
    if begun then
      { x with
        doneKey := zoneKey x.page x.band x.zone (laneK l), page := n.1, band := n.2.1, zone := n.2.2, fresh := !x.framed }
    else x) s

/-! ### A slot arrives (R126, R132, R140) -/

/-- Attempts on candidates in rank order, then the flywheel position (R133). -/
def attemptsOf (c : List (Nat × Nat × Nat)) (fly : Option Nat) : List Attempt :=
  (List.range c.length).zipWith (fun i x => ⟨i, x.1, false, x.2.2⟩) c
    ++ (match fly with
      | some p => if c.any (fun x => x.1 == p) then [] else [⟨0, p, true, 1⟩]
      | none => [])

/-- The SYNC-A search of verify mode: not yet open, open, over: from one frame before start + verify lag to two frames after (R144). -/
def searchPhase (s : State) (t : Tid) (n : Notice) : Nat :=
  let m := (tpOf s t).mot
  let lag := if m.wrap % 2 = 0 then fld s (Reg.vfyLag t) Fld.vfyLagLagFwd else fld s (Reg.vfyLag t) Fld.vfyLagLagRev
  let here : Int := 200 * m.lpos.toInt
  let start : Int := 200 * n.lpos.toInt + lag
  if here + 200 < start then 0 else if here ≤ start + 400 then 1 else 2

/-- A codeword becomes pending on its lane's engine, with the soft values from a place of the sample buffers (R140, R143). -/
def pushPend (l mode base : Nat) (maybe : Bool) (key : Nat) (atts : List Attempt) (s : State) : State :=
  let t := laneT l
  let x := getLane s l
  let p : PendCw := { PendCw.reset with
    lane := l, slot := x.slot, dl := s.clk * 800 + slotPs s t, eng := laneEngine s l, mode := mode, note := x.note
    soft := (x.soft.drop base).take 9504, base := base, maybe := maybe, attempts := atts, zkey := key, fin := x.loops.fin }
  let s := modRc t (fun r => { r with pend := r.pend ++ [p] }) s
  modLane l (nextSlot s l mode x.note x.slot) s

/-- A slot without any position to frame it from: it is not decoded (R133). -/
def emptySlot (l mode base : Nat) (maybe : Bool) (key : Nat) (s : State) : State :=
  let s := pushPend l mode base maybe key [] s
  match (tpOf s (laneT l)).rc.pend.reverse.find? (fun p => p.lane == l) with
  | none => s
  | some p => notDecoded p s

/-- The first start of a new extent among the bit positions of a slot, its own SYNC-A and the next extent's excepted (R135). -/
def newExtentIn (soft : List (BitVec 4)) (at' thr : Nat) (own : Bool) : Option Nat :=
  ((List.range slotLen).map (fun i => at' + 17 + i)).find? (fun i =>
    !(own && decide (at' + 144 ≤ i ∧ i ≤ at' + 176)) && newExtentAt soft thr i)

/-- A lane in FRAMED mode abandons its slot for a new extent (R135): it frames from the new position, and its loops start from the
entry. -/
def jumpTo (l mode i : Nat) (s : State) : State :=
  let x := getLane s l
  let s := reportSlot mode l x.slot x.note 0 (failLow x.slot (laneK l)) none s
  let c := laneCfg s l
  modLane l (fun x =>
    let y := frameAt (i - 160) { x with slot := 0, flyPos := none, fly := 0, syncT := none }
    { y with loops := startLoops c y.loops, page := (tripleNow s (laneT l)).1, band := (tripleNow s (laneT l)).2.1, zone := (tripleNow s (laneT l)).2.2 }) s

/-- A slot has ended: the lane takes RC_MODE.MODE (R145). -/
def takeRcMode (l : Nat) (s : State) : State :=
  let m := rcMode s (laneT l)
  modLane l (fun x => if m = 1 ∨ m = 2 then { x with mode := m } else { toSearch x with mode := m }) s

/-- In FRAMED mode, a whole slot: R135 in read mode, then the candidates of the expected position and the flywheel position. In verify
mode slot 0 is expected in its window only (R144). -/
def arriveFramed (l mode : Nat) (s : State) : State :=
  let t := laneT l
  let x := getLane s l
  let may := maybeNext s l mode x.slot
  let jump := if mode = 2 then newExtentIn x.soft x.at' (fld s (Reg.rcSync t) Fld.rcSyncAThr) (x.slot == 0 || may) else none
  match jump with
  | some i => jumpTo l mode i s
  | none =>
    let early := mode == 1 && x.slot == 0 && ((noticeNo (tpOf s t).rc x.note).map (searchPhase s t)) != some 1
    if early then modLane l toSearch s
    else
      let c := syncCandidates ((x.soft.drop x.at').take 9504) 160 (fld s (Reg.rcSync t) Fld.rcSyncSyncThr)
      let fly := if decide (x.fly < fld s (Reg.rcSync t) Fld.rcSyncFlymax) then x.flyPos else none
      let s := match attemptsOf c fly with
        | [] => emptySlot l mode x.at' may x.doneKey s
        | atts => pushPend l mode x.at' may x.doneKey atts s
      takeRcMode l (modLane l (fun y => if y.framed ∧ y.at' = x.at' then { y with at' := y.at' + slotLen } else y) s)

/-- Positions in order until one leads to candidates of SYNC-A in the window around it (R131, R132). The distance that ranks them is
counted from that position (log entry 39). -/
def searchFrom (soft : List (BitVec 4)) (thr : Nat) : List Nat → Option (Nat × List (Nat × Nat × Nat))
  | [] => none
  | i :: r =>
    if (syncBest (soft.drop i)).1 ≤ thr ∧ i + 48 ≤ soft.length then
      let c := (syncCandidates soft i thr).filter (fun y => decide (y.2.2 = 0))
      if c.isEmpty then searchFrom soft thr r else some (i, c)
    else searchFrom soft thr r

/-- Where a lane in SEARCH mode may look for sync: from bit 128 of its acquisition on (R129 step 5), what it has not looked at. -/
def searchRange (x : RLane) : List Nat :=
  match x.loops.bitNo with
  | none => []
  | some n => if n ≤ 128 then [] else
    let lo := max x.at' (x.soft.length - (n - 128))
    (List.range (x.soft.length - 47 - lo)).map (fun i => lo + i)

/-- In SEARCH mode: only SYNC-A starts framing, once the whole slot is there (R131, R132). A found position keeps its place until then. -/
def searchSync (l mode : Nat) (s : State) : State :=
  let t := laneT l
  let x := getLane s l
  let key := zoneKey x.page x.band x.zone (laneK l)
  match searchFrom x.soft (fld s (Reg.rcSync t) Fld.rcSyncSyncThr) (searchRange x) with
  | none => modLane l (fun y => { y with at' := max y.at' (y.soft.length - 47) }) s
  | some (i, c) =>
    if x.soft.length < i - 160 + 9504 then modLane l (fun y => { y with at' := i }) s
    else
      let rel := c.map (fun y => (y.1 - (i - 160), y.2))
      modLane l (fun y => { y with at' := i + 17 }) (pushPend l mode (i - 160) false key (attemptsOf rel none) (modLane l (fun y => { y with slot := 0 }) s))

/-- Every further slot of the notice's extent is reported as not decoded (R144), and the lane goes on to the next notice. -/
def reportRest (l : Nat) (n : Notice) (s : State) : State :=
  let x := getLane s l
  let s := forAll ((List.range (noticeSlots n - x.slot)).map (fun i => x.slot + i))
    (fun m => reportSlot 1 l m n.no 0 (failLow m (laneK l)) none) s
  modLane l (fun y => { y with slot := 0, note := n.no + 1, missed := false }) s

/-- A lane in SEARCH mode, in verify mode: it looks for SYNC-A while the search is open; when it is over the lane takes its start from
others (R136), waits while one of them may still decode slot 0, and else reports every slot of the extent (R144). -/
def searchVerify (l : Nat) (s : State) : State :=
  let t := laneT l
  let x := getLane s l
  match noticeNo (tpOf s t).rc x.note with
  | none => modLane l (fun y => { y with at' := y.soft.length }) s
  | some n =>
    match searchPhase s t n with
    | 0 => modLane l (fun y => { y with at' := y.soft.length }) s
    | 1 => if x.slot = 0 then searchSync l 1 s else s
    | _ =>
      if syncTimes s l ≠ [] then adoptStart l s
      else if (tpOf s t).rc.pend.any (fun p => p.mode == 1 && p.note == x.note && p.slot == 0) then modLane l (fun y => { y with missed := true }) s
      else reportRest l n s

/-- In verify mode a lane that has come to the end of its extent goes on with the next notice. -/
def syncNote (l : Nat) (s : State) : State :=
  let x := (tpOf s (laneT l)).rc
  match x.notices with
  | [] => s
  | n :: _ => modLane l (fun y => if y.note < n.no then { y with note := n.no, slot := 0 } else y) s

/-- A lane in SEARCH mode looks at what has come. -/
def arriveSearch (l mode : Nat) (s : State) : State :=
  if mode = 1 then searchVerify l s
  else if (getLane s l).missed ∧ syncTimes s l ≠ [] then adoptStart l s
  else searchSync l mode s

/-- SLOT_ARRIVAL: the ADC samples of a lane up to the last soft value of a slot pass the pipeline (R120); an earlier codeword of the lane
has reached its deadline. A lane with no slot in progress takes MODE at once (R145). Capture reads the samples in parallel (R155). -/
def slotArrive (l : Nat) (adc : List (BitVec 6)) (s : State) : State :=
  let t := laneT l
  if isOffline s t || bitOf (tpOf s t).head.missing.toNat (laneK l) then s
  else
    let s := capLane l adc s
    let s := if (getLane s l).framed then s else takeRcMode l s
    let mode := (getLane s l).mode
    if mode ≠ 1 ∧ mode ≠ 2 then s
    else
      let s := forAll ((tpOf s t).rc.pend.filter (fun p => p.lane == l)) cwDeadline s
      if (getLane s l).overflow then modLane l (fun x => { x with overflow := false }) s
      else
        let s := feedLane l adc (if mode = 1 then syncNote l s else s)
        let x := getLane s l
        if !x.framed then arriveSearch l mode s
        else if x.soft.length < x.at' + 9504 then s
        else arriveFramed l mode s

/-! ### Engines (R139, R141, R143) -/

/-- Tier of a pending codeword (R141). -/
def pendTier (p : PendCw) : Nat := if p.iters < 3 then (if p.later then 2 else 1) else 3

/-- Whether p is served before q: tier, deadline, lane (R141). -/
def pendBefore (p q : PendCw) : Bool :=
  decide (pendTier p < pendTier q ∨ (pendTier p = pendTier q ∧ (p.dl < q.dl ∨ (p.dl = q.dl ∧ p.lane < q.lane))))

/-- All pending codewords that an engine serves. -/
def engPend (s : State) (e : Nat) : List PendCw := (allT.flatMap (fun t => (tpOf s t).rc.pend)).filter (fun p => p.eng == e)

/-- The codeword an engine runs its next iteration on. -/
def enginePick (s : State) (e : Nat) : Option PendCw :=
  (engPend s e).foldl (fun a p => match a with
    | none => some p
    | some q => if pendBefore p q then some p else some q) none

/-- The ABANDON limit of the chiplet (RC_LDPC). -/
def abandonLimit (s : State) (c : Nat) : Nat := fld s (Reg.rcLdpc c) Fld.rcLdpcAbandon

/-- The values and messages of a codeword's attempt before its next iteration: the soft values of the framed codeword at first (R138,
R139). -/
def attemptValues (s : State) (p : PendCw) (a : Attempt) : List (List Int) :=
  if p.iters = 0 then
    valueBlocks 70 ((demodulate p.soft a.pos (fld s (Reg.rcSync (laneT p.lane)) Fld.rcSyncRsThr)).map softInt)
  else p.post

/-- Values and messages after the next iteration of an attempt (R139). -/
def iterate (s : State) (p : PendCw) (a : Attempt) : List (List Int) × List (List (List Int)) :=
  minSumFrom 6 0 (attemptValues s p a) p.msgs

/-- The hard decisions after the next iteration of an attempt. -/
def iterBits (s : State) (p : PendCw) (a : Attempt) : List Bool := hardBits (iterate s p a).1

/-- One iteration (R139). A fault the chiplet's checks find ends the codeword as not decoded (R324 class 1); the fault event
itself is raised by the row. -/
def ldpcStep (e : Nat) (fault : Bool) (p : PendCw) (s : State) : State :=
  if fault then notDecoded p s
  else
    match p.attempts with
    | [] => notDecoded p s
    | a :: _ =>
      let n := p.iters + 1
      let bad := c1Unsat (iterBits s p a)
      if bad = 0 then decodedCw p a n (iterBits s p a) s
      else if n = 12 ∨ (n = 3 ∧ abandonLimit s (e / 32) < bad) then attemptFailed p s
      else modRc (laneT p.lane) (fun x =>
        { x with pend := x.pend.map (fun q => if q.lane == p.lane && q.dl == p.dl then
            { q with iters := n, post := (iterate s p a).1, msgs := (iterate s p a).2 } else q) }) s

/-- The live engine of the chiplet that serves the fewest lanes, the first met after E on ties (R143). -/
def rehomeTo (s : State) (e : Nat) : Option Nat :=
  let order := ((List.range 31).map (fun i => e / 32 * 32 + (e + 1 + i) % 32)).filter (fun f => !engRetired s f)
  order.foldl (fun a f => match a with
    | none => some f
    | some g => if (engLanes s f).length < (engLanes s g).length then some f else some g) none

/-- One lane of a retired engine goes to another (R143). -/
def rehomeLane (e l : Nat) (s : State) : State :=
  match rehomeTo s e with
  | none => s
  | some f => modLane l (fun x => { x with moved := f % 32 :: x.moved }) s

/-- An engine is retired: it abandons its attempts, and its lanes are re-homed in ascending order (R143). -/
def retireEngine (e : Nat) (s : State) : State :=
  if engRetired s e then s
  else
    let s := setFld (Reg.rcEng (e / 32) (e % 32)) Fld.rcEngRetired 1 s
    let s := forAll (engPend s e) notDecoded s
    markRetired (unitId 1 e) (forAll (engLanes s e) (rehomeLane e) s)

/-- The re-homing chain of a lane without what came after engine e (R143). -/
def unhome (home e : Nat) (c : List Nat) : List Nat := if home = e then [] else if c.contains e then c.dropWhile (fun x => x != e) else c

/-- An engine is returned to service: the re-homing is reversed (R143). -/
def returnEngine (e : Nat) (s : State) : State :=
  if engRetired s e then
    let s := setFld (Reg.rcEng (e / 32) (e % 32)) Fld.rcEngRetired 0 s
    markReturned (unitId 1 e) (forAll ((List.range 256).map (fun i => e / 32 * 256 + i))
      (fun l => modLane l (fun x => if x.moved = [] then x else { x with moved := unhome (homeEngine l % 32) (e % 32) x.moved })) s)
  else s

/-- Live LDPC engines of a chiplet (R328, R330). -/
def liveEngines (s : State) (c : Nat) : Nat := ((List.range 32).filter (fun e => !engRetired s (32 * c + e))).length

/-! ### Modes, overflow, capture -/

/-- A change of RC_MODE.MODE (R128, R145): lanes take it at their next slot boundary, at once where the tape stands still and no slot is in
progress; the first slot after MODE has left 0 is acquired afresh. MODE 3 clears the calibration failures (RC_CALRES). -/
def setRcMode (t : Tid) (m : Nat) (s : State) : State :=
  let old := rcMode s t
  let s := setFld (Reg.rcMode t) Fld.rcModeMode m s
  let s := if m = 3 ∧ old ≠ 3 then setReg (Reg.rcCalres t 0) 0 (setReg (Reg.rcCalres t 1) 0 s) else s
  if m = old then s
  else if (tpOf s t).mot.still then forAll (List.range 64) (fun k => takeRcMode (64 * t.val + k)) s
  else if old = 0 then forAll (List.range 64) (fun k => modLane (64 * t.val + k) (fun x => { x with fresh := true })) s
  else s

/-- Host writes to a register at a common base need DBG_EN of all four transports of the chiplet (R156). -/
def chipletMay (src : Src) (c : Nat) (s : State) : Bool :=
  match src with
  | .puppeteer => true
  | .host _ => [0, 1, 2, 3].all (fun i => dbgEn s (4 * c + i))

/-- An X-ADC sample is lost (R30): the codeword being received is damaged and the lane loses lock (R130); capture marks the next sample
(R155). -/
def adcOverflow (l : Nat) (s : State) : State :=
  let mode := (getLane s l).mode
  let x := getLane s l
  let s := cdcEvent Fld.glbCdcerrSampleOvf (some l) s
  let s := forAll (List.range 4) (fun n s =>
    if fld s (Reg.rcCaplane (l / 256) n) Fld.rcCaplaneLane = l % 256 ∧ fld s (Reg.rcCaplane (l / 256) n) Fld.rcCaplaneArm = 1
    then modCap (l / 256) n (fun c => { c with mark := true }) s else s) s
  if mode = 1 ∨ mode = 2 then
    let s := if x.framed then
        modLane l (fun y => nextSlot s l mode x.note x.slot y) (reportSlot mode l x.slot x.note 0 (failLow x.slot (laneK l)) none s)
      else s
    modLane l (fun y => { y with overflow := true }) (loseLock l s)
  else s

/-- LOSS_OF_LOCK (R130): the residual has been held at the clamp for 4,096 bits. -/
def lossOfLock (l : Nat) (s : State) : State := if (getLane s l).loops.lost then loseLock l s else s

/-- Arm a capture channel (R155): its token must name a buffer held by Puppeteer; with TRIG = 2 RC_CAPTOK holds the LPOS and
takes the token at the match. Writing starts at the head of the ring. -/
def armCapture (c n : Nat) (s : State) : State :=
  let tok := reg s (Reg.rcCaptok c n)
  let trig := fld s (Reg.rcCaplane c n) Fld.rcCaplaneTrig
  if trig ≠ 2 ∧ !tokenHeld s 3 tok then raiseFld (Reg.rcCapstat c n) Fld.rcCapstatErr s
  else
    let s := setReg (Reg.rcCapstat c n) 0 (raiseFld (Reg.rcCaplane c n) Fld.rcCaplaneArm s)
    let s := { s with capTrig := s.capTrig.filter (fun i => i != 4 * c + n), caps := s.caps.set CapCh.reset (4 * c + n) CapCh.reset }
    if trig = 0 then capTrigger c n s else s

/-- LPOS reaches the compare value of a channel with TRIG = 2 on a lane of transport t (R155); the token firmware puts in
its place is not the spec's (log entry 19). -/
def capLpos (t : Tid) (lpos : W32) (s : State) : State :=
  let c := t.val / 4
  forAll (List.range 4) (fun n s =>
    let lane := fld s (Reg.rcCaplane c n) Fld.rcCaplaneLane
    let mine := if lane < 256 then lane / 64 = t.val % 4 else (lane - 256) / 2 = t.val % 4
    if fld s (Reg.rcCaplane c n) Fld.rcCaplaneArm = 1 ∧ fld s (Reg.rcCaplane c n) Fld.rcCaplaneTrig = 2 ∧ mine
        ∧ !s.capTrig.contains (4 * c + n) ∧ reg s (Reg.rcCaptok c n) = lpos then
      let r := takeFree (capTrigger c n s)
      setReg (Reg.rcCaptok c n) (BitVec.ofNat 32 r.1) r.2
    else s) s

/-- CAPTURE_STOP: the samples of a channel's lane that no SLOT_ARRIVAL brings, those of a servo lane among them, up to the last one of
POST (R155). -/
def stopCapture (c n : Nat) (adc : List (BitVec 6)) (s : State) : State :=
  if fld s (Reg.rcCaplane c n) Fld.rcCaplaneArm = 1 then capRun c n adc s else s

/-! ### Calibration results (R148, R149) -/

/-- A preset with a tap that is not zero is in use (R157). -/
def presetUsed (x : RcT) (e : Nat) : Bool := (presetTaps x e).any (fun v => decide (v ≠ 0))

/-- Squared tap distance of two sets. -/
def tapDist (a b : List Int) : Nat := (List.zipWith (fun x y => ((x - y).natAbs) ^ 2) a b).foldl (· + ·) 0

/-- Every tap lies within 2^-8, that is 64 units of 2^-14. -/
def tapNear (a b : List Int) : Bool := (List.zipWith (fun x y => decide ((x - y).natAbs ≤ 64)) a b).all (fun z => z)

/-- The preset firmware assigns the adapted taps to (R148): the nearest, or a new one; where two are alike it is the one the
row names. -/
def assignPreset (x : RcT) (taps : List Int) (pick : Nat) : Nat × Bool :=
  let used := (List.range 32).filter (presetUsed x)
  let free := (List.range 32).filter (fun e => !presetUsed x e)
  if used.any (fun e => tapNear (presetTaps x e) taps) || free.isEmpty then
    let best := used.foldl (fun a e => match a with
      | none => some e
      | some b => if tapDist (presetTaps x e) taps < tapDist (presetTaps x b) taps then some e else some b) none
    match best with
    | none => (pick, false)
    | some b => (if used.contains pick && tapDist (presetTaps x pick) taps == tapDist (presetTaps x b) taps then pick else b, false)
  else (if free.contains pick then pick else free.headD 0, true)

/-- One lane's result of a calibration pass (R148): loop values, mean squared error, adapted taps; and, where two presets are alike, the
one firmware takes. -/
structure CalResult where
  k : Nat
  gain : Byte
  offset : Byte
  asym : Byte
  mse : BitVec 16
  taps : List (BitVec 16)
  preset : Nat

/-- Bytes of taps (R157). -/
def tapBytes (c : CalResult) : List Byte := ((List.range 10).map (fun i => c.taps.getD i 0)).flatMap (fun v => leBytes 2 v.toNat)

/-- Bytes of one lane's calibration results (RC_CALRES). -/
def calBytes (c : CalResult) : List Byte := [c.gain, c.offset, c.asym, 0] ++ leBytes 2 c.mse.toNat ++ [0, 0] ++ tapBytes c

/-- One lane's part of a calibration pass (R148 step 4, R149). A new preset has the target taps of the preset the taps were adapted from,
RC_ZDEF.EQP's: the rule gives the adapted taps only (log entry 39). -/
def calLane (t : Tid) (band page : Nat) (c : CalResult) (s : State) : State :=
  let k := c.k
  let s := modRc t (fun r => { r with calres := r.calres.write 0 (64 * k) (calBytes c ++ zeros 36) }) s
  if fld s (Reg.rcCal t) Fld.rcCalMseMax < c.mse.toNat then
    let s := setFld (Reg.rcCalres t (k / 32)) ⟨k % 32, 1⟩ 1 s
    forAll (List.range 32) (fun z s =>
      setZone t (zoneKey page band z k) (zoneEntry s t (zoneKey page band z k) &&& 0x3FFFFFFF) s) s
  else
    let taps := (List.range 10).map (fun i => (c.taps.getD i 0).toInt)
    let a := assignPreset (tpOf s t).rc taps c.preset
    let base := fieldOf (fld s (Reg.rcZdef t) Fld.rcZdefEntry) 24 5
    let target := (tpOf s t).rc.presets.read 0 (64 * base + 20) 10
    let s := if a.2 then modRc t (fun r => { r with presets := r.presets.write 0 (64 * a.1) (tapBytes c ++ target) }) s else s
    forAll (List.range 32) (fun z => setZone t (zoneKey page band z k)
      (BitVec.ofNat 32 (c.gain.toNat + 2 ^ 8 * c.offset.toNat + 2 ^ 16 * c.asym.toNat + 2 ^ 24 * a.1 + 2 ^ 30))) s

end Sys2Proof.Machine
end

