-- ==== Sys2Proof/Machine/Fault.lean ====
section
/-! DEFINITION. Fault classification (R323-R328): fault events, retries, escalations and windows, permanent faults, and the
retirement of every unit class and its return to service. -/
namespace Sys2Proof.Machine

/-- Class of a unit identifier (R36). -/
def unitClass (u : BitVec 16) : Nat := u.toNat / 4096
/-- Index of a unit identifier. -/
def unitIdx (u : BitVec 16) : Nat := u.toNat % 4096

/-- The sliding window of a class in ms; none = no window (R323, FLT_CLS.T). -/
def windowMs (s : State) (cls : Nat) : Option Nat :=
  let v := fld s (Reg.fltCls cls) Fld.fltClsT
  let n := fieldOf v 0 14
  if n = 0 then none
  else some (n * (match fieldOf v 14 2 with
    | 0 => 1000
    | 1 => 60000
    | _ => 3600000))

/-- FLT_CNT counts a fault event and names its unit. -/
def countEvent (unit : BitVec 16) (s : State) : State :=
  setFld Reg.fltCnt Fld.fltCntLastunit unit.toNat (bumpFld Reg.fltCnt Fld.fltCntEvents s)

/-- Fewest live tracks of the port's format (R64). -/
def fewestLive (x : Tp) : Nat := if x.head.kind = 2 then 56 else 28

/-! ### What retirement does (R324, R327) -/

/-- A lane's fault becomes permanent (R116): FAILMASK, LANEFAIL at the change, and the fault log; the grants follow the live
tracks (R309). Below the fewest live tracks the write program closes out with the map already loaded; its HALT then disables writing
(haltProgram). -/
def retireLane (t : Tid) (k cause : Nat) (detail : W64) (s : State) : State :=
  let m := (tpOf s t).vfy.failmask
  if bitOf m.toNat k then s
  else
    let s := modTp t (fun x => { x with vfy := { x.vfy with
      failmask := m ||| BitVec.ofNat 64 (2 ^ k)
      lanes := x.vfy.lanes.set Lane.reset k { x.vfy.lanes.get Lane.reset k with cause := cause } } }) s
    let s := setEvent t evLanefail s
    let u := unitId 0 (64 * t.val + k)
    let s := markRetired u (logFault u 3 cause 0 detail (logFault u 2 cause 0 detail s))
    regrant (raiseFld Reg.fltStat Fld.fltStatNewperm s)

/-- Detail of a class 0 entry: the DSNUM and the track (R329; their places, log entry 22). -/
def laneDetail (dsnum : W32) (k : Nat) : W64 := BitVec.ofNat 64 (dsnum.toNat + 2 ^ 32 * k)

/-- The dataset that the transport writes, or wrote last; which one an entry names where it has written none is open. -/
def laneDs (t : Tid) (s : State) : W32 × State :=
  match (tpOf s t).wl.exts with
  | e :: _ => (e.dsnum, s)
  | [] => let f := takeFree s
    (BitVec.ofNat 32 f.1, f.2)

/-- A fault that is permanent at once: HMS reports a write driver, cause 2, or firmware retires the lane, cause 3. It is a lane fault
event, counted for the lane and the device (R113, R116). -/
def laneFault (t : Tid) (k cause : Nat) (s : State) : State :=
  let d := laneDs t s
  retireLane t k cause (laneDetail d.1 k) (bumpFld (Reg.vfyLane t k) Fld.vfyLaneFevcnt (countEvent (unitId 0 (64 * t.val + k)) d.2))

/-- Change the codec array. -/
def modCodec (f : Codec → Codec) (s : State) : State := { s with codec := f s.codec }
/-- Engine n of 64: CZ0-31, then DZ0-31 (R35). -/
def engOf (s : State) (e : Nat) : Engine := s.codec.eng.get Engine.reset e
/-- Change an engine. -/
def modEng (e : Nat) (f : Engine → Engine) (s : State) : State :=
  modCodec (fun c => { c with eng := c.eng.set Engine.reset e (f (c.eng.get Engine.reset e)) }) s

/-- A CODEC_ERR event (CODEC_ERR, CODEC_ERRCNT). -/
def codecError (f : Fld) (scid : Nat) (s : State) : State :=
  setFld Reg.codecErrcnt Fld.codecErrcntLastscid scid (bumpFld Reg.codecErrcnt Fld.codecErrcntEvents (raiseFld Reg.codecErr f s))

/-- The job on an engine is abandoned without saving its context: it will be dispatched again from its start on another engine
(R161). -/
def abandonJob (e : Nat) (s : State) : State :=
  match (engOf s e).job with
  | none => s
  | some j =>
    let s := modEng e (fun x => { x with job := none, aff := false }) s
    let s := codecError Fld.codecErrEngfault j.scid.toNat s
    modCodec (fun c => { c with
      avoid := c.avoid.set 0 j.scid.toNat (e + 1)
      expands := match j.t, j.expand with
        | some t, some k => (t, k) :: c.expands
        | _, _ => c.expands }) s

/-- A codec engine is dispatched no more, and a job running on it is abandoned (R161, R324 classes 2 and 3). -/
def retireCodec (e : Nat) (s : State) : State :=
  abandonJob e (markRetired (if e < 32 then unitId 2 e else unitId 3 (e - 32)) (modCodec (fun c => { c with retired := c.retired.set 0 e 1 }) s))

/-- A UCIe module and its transport go offline (R15). -/
def goOffline (t : Tid) (s : State) : State :=
  disableWrites t 3 (modTp t (fun x => { x with offline := true, ucieUp := false }) s)

/-- A context cache way is retired: it is cleaned and never allocated again (R293, R327). -/
def retireWay (w : Nat) (s : State) : State :=
  if bitOf s.cache.ret.toNat w then s
  else { s with cache := { s.cache with ret := s.cache.ret ||| BitVec.ofNat 16 (2 ^ w), clean := s.cache.clean ++ [(w, 1)] } }

/-- Macro numbers of a transport slice, and so on (R302). -/
def macroFault (n : Nat) (s : State) : State :=
  let u := unitId 5 n
  let s := logFault u 3 0 0 0 s
  if n < 0x20 then markRetired u (retireWay (n / 2) s)
  else if 0x100 ≤ n ∧ n < 0x200 then disableWrites (tid ((n - 0x100) / 32)) 3 (markRetired (unitId 7 ((n - 0x100) / 32)) s)
  else if 0x200 ≤ n ∧ n < 0x300 then retireCodec ((n - 0x200) / 4) s
  else if 0x300 ≤ n ∧ n < 0x400 then bumpHealth { s with flt := { s.flt with macroFail := true } }
  else if 0x400 ≤ n ∧ n < 0x800 then
    let r := Config.chipletMacro n
    let c := (n - 0x400) / 0x200
    if r % 2 = 0 then
      let l := 256 * c + r / 2 % 256
      retireLane (laneT l) (laneK l) 3 0 s
    else retireEngine (32 * c + r / 2 % 32) s
  else s

/-- Whether a macro carries a remap table (R300). -/
def hasRemap (n : Nat) : Bool := decide (0x100 ≤ n ∧ n < 0x400)

/-- The spare of a macro's word, if it is remapped. -/
def spareOf (s : State) (n word : Nat) : Option Nat :=
  if hasRemap n then
    [0, 1, 2, 3].find? (fun e => fld s (Reg.memRemap n e) Fld.memRemapValid == 1 && fld s (Reg.memRemap n e) Fld.memRemapWord == word)
  else none

/-- Write a remap entry; when it becomes valid the corrected word is copied to the spare (R300). -/
def writeRemap (n e word : Nat) (valid : Bool) (s : State) : State :=
  if hasRemap n then
    let s := setFld (Reg.memRemap n e) Fld.memRemapValid valid.toNat (setFld (Reg.memRemap n e) Fld.memRemapWord word s)
    if valid then
      { s with mem := { s.mem with spare := s.mem.spare.set 0 (4 * n + e) (s.mem.sram.get 0 (n * 65536 + word)) } }
    else s
  else s

/-- An SRAM word is retired: remapped, or a macro fault when its macro has no entry left (R300, R324 class 5). -/
def retireWord (n word : Nat) (s : State) : State :=
  if (spareOf s n word).isSome then s
  else
    match if hasRemap n then [0, 1, 2, 3].find? (fun e => fld s (Reg.memRemap n e) Fld.memRemapValid == 0) else none with
    | some e => markRetired (unitId 5 n) (writeRemap n e word true s)
    | none => macroFault n s

/-- Retirement of a unit (R324). For an SRAM macro named without a word it is a macro fault. -/
def retireUnit (u : BitVec 16) (s : State) : State :=
  let i := unitIdx u
  match unitClass u with
  | 0 => laneFault (laneT i) (laneK i) 3 s
  | 1 => retireEngine i s
  | 2 => retireCodec i s
  | 3 => retireCodec (32 + i) s
  | 4 => markRetired u (retireGroup (i / 8) s)
  | 5 => macroFault i s
  | 6 => goOffline (tid i) (markRetired u s)
  | 7 => disableWrites (tid i) 3 (markRetired u s)
  | 8 => disableWrites (tid (i / 4)) 3 (markRetired u s)
  | 9 => setFld (Reg.mcRc (i / 2) (i % 2)) Fld.mcRcLearn 0 (markRetired u s)
  | 10 => disableWrites (tid i) 3 (modTp (tid i) (fun x => { x with seqDis := true }) (markRetired u s))
  | _ => s

/-- Indices of each class (R36, R302). -/
def unitValid (s : State) (u : BitVec 16) : Bool :=
  let i := unitIdx u
  match unitClass u with
  | 0 => decide (i < 512)
  | 1 => decide (i < 64)
  | 2 => decide (i < 32)
  | 3 => decide (i < 32)
  | 4 => decide (i < groupCount s * 8)
  | 5 => decide (i < 0x20 ∨ (0x100 ≤ i ∧ i < 0x800))
  | 6 => decide (i < 8)
  | 7 => decide (i < 8)
  | 8 => decide (i < 32)
  | 9 => decide (i < 16)
  | 10 => decide (i < 8)
  | 11 => decide (i < 2)
  | _ => false

/-! ### Events, escalations, permanent faults (R323) -/

/-- A fault becomes permanent: logged, flagged, and the unit retired (R323, R329). -/
def permanent (u : BitVec 16) (code win : Nat) (detail : W64) (s : State) : State :=
  let s := raiseFld Reg.fltStat Fld.fltStatNewperm (logFault u 3 code win detail (logFault u 2 code win detail s))
  retireUnit u s

/-- Escalations of a unit that lie within its window (R323). -/
def windowCount (s : State) (u : BitVec 16) : Nat :=
  let l := s.flt.esc.get [] u.toNat
  match windowMs s (unitClass u) with
  | none => l.length
  | some w => (l.filter (fun m => decide (nowMs s < m + w))).length

/-- An escalation: counted in its window, logged; the M-th makes the fault permanent (R323). A unit already retired is only
counted. -/
def escalate (u : BitVec 16) (code : Nat) (detail : W64) (s : State) : State :=
  let s := { s with flt := { s.flt with
    esc := s.flt.esc.set [] u.toNat (nowMs s :: s.flt.esc.get [] u.toNat)
    retries := s.flt.retries.set 0 u.toNat 0, pendRetry := s.flt.pendRetry.filter (fun v => v != u) } }
  let n := windowCount s u
  let s := raiseFld Reg.fltStat Fld.fltStatNewesc (logFault u 1 code n detail s)
  let m := fld s (Reg.fltCls (unitClass u)) Fld.fltClsM
  if m ≠ 0 ∧ m ≤ n ∧ !s.flt.retired.contains u then permanent u code n detail s else s

/-- A fault event (R323): a retry waits its back-off while the class has one left, else it is an escalation. Answers also
whether it escalated. -/
def faultEvent (u : BitVec 16) (code : Nat) (detail : W64) (s : State) : State :=
  let s := countEvent u s
  let r := fld s (Reg.fltCls (unitClass u)) Fld.fltClsRetry
  let n := s.flt.retries.get 0 u.toNat
  if n < r then
    logFault u 0 code 0 detail { s with flt := { s.flt with
      retries := s.flt.retries.set 0 u.toNat (n + 1)
      pendRetry := if s.flt.pendRetry.contains u then s.flt.pendRetry else s.flt.pendRetry ++ [u] } }
  else escalate u code detail s

/-- The event in progress of a unit is cleared. -/
def clearEvent (u : BitVec 16) (s : State) : State :=
  { s with flt := { s.flt with retries := s.flt.retries.set 0 u.toNat 0, pendRetry := s.flt.pendRetry.filter (fun v => v != u) } }

/-- An event of an SRAM word (class 5): M = 1 makes it permanent, and the word is remapped (R324). -/
def sramEvent (n word : Nat) (s : State) : State :=
  let u := unitId 5 n
  let s := countEvent u s
  let s := { s with flt := { s.flt with esc := s.flt.esc.set [] u.toNat (nowMs s :: s.flt.esc.get [] u.toNat) } }
  let w := windowCount s u
  let s := raiseFld Reg.fltStat Fld.fltStatNewesc (logFault u 1 0 w 0 s)
  let m := fld s (Reg.fltCls 5) Fld.fltClsM
  if m ≠ 0 ∧ m ≤ w then
    retireWord n word (raiseFld Reg.fltStat Fld.fltStatNewperm (logFault u 3 0 w 0 (logFault u 2 0 w 0 s)))
  else s

/-! ### Return to service (R326) -/

/-- A unit returns to service: its escalations are forgotten (R326). -/
def returnUnit (u : BitVec 16) (s : State) : State :=
  let i := unitIdx u
  let s := { s with flt := { s.flt with esc := s.flt.esc.set [] u.toNat [] } }
  let s := logFault u 4 0 0 0 (markReturned u s)
  let enable (t : Tid) (s : State) : State := regrant (modTp t (fun x => { x with wrDis := 0 }) s)
  match unitClass u with
  | 1 => returnEngine i s
  | 2 => { s with codec := { s.codec with retired := s.codec.retired.set 0 i 0 } }
  | 3 => { s with codec := { s.codec with retired := s.codec.retired.set 0 (32 + i) 0 } }
  | 6 => enable (tid i) (modTp (tid i) (fun x => { x with offline := false, ucieUp := true }) s)
  | 7 => enable (tid i) s
  | 8 => enable (tid (i / 4)) s
  | 9 => setFld (Reg.mcRc (i / 2) (i % 2)) Fld.mcRcLearn 1 s
  | 10 => enable (tid i) (modTp (tid i) (fun x => { x with seqDis := false }) s)
  | _ => s

/-- FLT_RET with CMD = 1 (R324). -/
def fltRetire (u : BitVec 16) (s : State) : State :=
  if unitValid s u && decide (unitClass u ≠ 11) then
    if s.flt.retired.contains u then s else retireUnit u (if unitClass u = 0 then s else logFault u 3 0 0 0 s)
  else logIgnored u 1 s

/-- FLT_RET with CMD = 2 (R326). -/
def fltReturn (u : BitVec 16) (s : State) : State :=
  if unitValid s u && decide (unitClass u ≠ 0 ∧ unitClass u ≠ 4 ∧ unitClass u ≠ 11) then returnUnit u s else logIgnored u 2 s

/-! ### Health (R328) -/

/-- Transports present: a head module answered (GLB_CFG.TP_PRESENT). -/
def presentT (s : State) : List Tid := allT.filter (fun t => decide ((tpOf s t).head.kind ≠ 0))


/-- FLT_STAT.HEALTH: 0 GOOD, 1 DEGRADED, 2 FAILED (R328). -/
def health (s : State) : Nat :=
  if s.flt.macroFail || decide (liveEngines s 0 < 11) || decide (liveEngines s 1 < 11)
      || (!(presentT s).isEmpty && (presentT s).all (fun t => isOffline s t || writeDisabled s t)) then 2
  else if s.flt.retired.isEmpty then 0 else 1

end Sys2Proof.Machine
end

