-- ==== Sys2Proof/Machine/MemBase.lean ====
section
/-! DEFINITION. HBM as the stages use it: addresses (R284), writes, reads with error correction and poison (R296-R298), and the
bytes of Toybox buffers. -/
namespace Sys2Proof.Machine

/-- Bytes of a stripe group (R284). -/
abbrev groupBytes : Nat := 9000000000

/-- The group of a device address; none where no HBM lies there (R284). -/
def groupOfAddr (s : State) (a : Nat) : Option Nat :=
  if a < groupAddr 0 then none
  else
    let g := (a - groupAddr 0) / 0x400000000
    if g < groupCount s ∧ a - groupAddr g < groupBytes then some g else none

/-- The pseudo-channel of a device address (R284). -/
def pseudoOf (a : Nat) : Nat :=
  let g := (a - groupAddr 0) / 0x400000000
  8 * g + (a - groupAddr g) / 256 % 8

/-- The system-area half of a group (R285). -/
def inSystem (s : State) (a : Nat) : Bool :=
  match groupOfAddr s a with
  | some g => decide (a - groupAddr g < systemArea)
  | none => false

/-- The index of the buffer that holds byte o behind the system area (R183). -/
def indexAt (s : State) (o : Nat) : Option Nat :=
  let e3 := classBase s 2 * classSize 3
  let e2 := e3 + perGroup s 2 * classSize 2
  let e1 := e2 + perGroup s 1 * classSize 1
  let e0 := e1 + perGroup s 0 * classSize 0
  if o < e3 then some (o / classSize 3)
  else if o < e2 then some (classBase s 2 + (o - e3) / classSize 2)
  else if o < e1 then some (classBase s 1 + (o - e2) / classSize 1)
  else if o < e0 then some (classBase s 0 + (o - e1) / classSize 0)
  else none

/-- The BUFID of the buffer at a device address. -/
def bufAt (s : State) (a : Nat) : Option Nat :=
  match groupOfAddr s a with
  | none => none
  | some g =>
    if a - groupAddr g < systemArea then none
    else (indexAt s (a - groupAddr g - systemArea)).map (fun j => g * 2 ^ 20 + j)

/-- A MEM_ERR event (MEM_ERR, MEM_ERRCNT, MEM_ERRADDR). -/
def memError (f : Fld) (unit : BitVec 16) (addr : Nat) (s : State) : State :=
  setPair (Reg.memErraddr 0) (Reg.memErraddr 1) addr
    (setFld Reg.memErrcnt Fld.memErrcntUnit unit.toNat (bumpFld Reg.memErrcnt Fld.memErrcntEvents (raiseFld Reg.memErr f s)))

/-- An access outside R284 is rejected and logged. -/
def badAddress (a : Nat) (s : State) : State := memError Fld.memErrBadaddr 0xFFFF a s

/-- The 72-bit flip mask: wrong bits it makes (R303). -/
def flipBits (s : State) : Nat :=
  popCount 32 (reg s Reg.memFliplo).toNat + popCount 32 (reg s Reg.memFliphi).toNat + popCount 8 (fld s Reg.memFlipchk Fld.memFlipchkMask)

/-- An armed flip of an HBM pseudo-channel corrupts the first beat of the next write to it (R303). -/
def flipHbm (a : Nat) (s : State) : State :=
  if s.mem.flipArm ∧ fld s Reg.memFlipsel Fld.memFlipselKind = 1 ∧ fld s Reg.memFlipsel Fld.memFlipselTarget = pseudoOf a then
    { s with mem := { s.mem with flipArm := false, bad := s.mem.bad.set 0 (a / 8) (flipBits s) } }
  else s

/-- Bytes reach HBM: lines written in full lose their poison (R297), beats written in full their error; an armed flip
applies. -/
def hbmPut (a : Nat) (l : List Byte) (s : State) : State :=
  match l with
  | [] => s
  | _ :: _ =>
    let s := cleanLines a l.length s
    flipHbm a { s with mem := { s.mem with hbm := s.mem.hbm.write 0 a l } }

/-- Copy n bytes of HBM from a to b. -/
def hbmCopy (a b n : Nat) (s : State) : State :=
  let s := cleanLines b n s
  flipHbm b { s with mem := { s.mem with hbm := s.mem.hbm.copyTo a n s.mem.hbm 0 b } }

/-- n bytes of HBM set to zero. -/
def hbmZero (a n : Nat) (s : State) : State :=
  if n = 0 then s
  else
    let s := cleanLines a n s
    flipHbm a { s with mem := { s.mem with hbm := s.mem.hbm.clear a n } }

/-- The bytes of n addresses from a, as stored. -/
def hbmGet (s : State) (a n : Nat) : List Byte := s.mem.hbm.read 0 a n

/-- A byte of the poison pattern 0xBAD0_BAD0_BAD0_BAD0 at an address (R297). -/
def poisonByte (a : Nat) : Byte := if a % 2 = 0 then 0xD0 else 0xBA

/-- Poison the whole line that holds an address (R297). -/
def poisonLine (line : Nat) (s : State) : State :=
  { s with mem := { s.mem with
      poison := if s.mem.poison.contains line then s.mem.poison else s.mem.poison ++ [line]
      bad := s.mem.bad.clear (line * 16) 16
      hbm := s.mem.hbm.write 0 (line * 128) ((List.range 128).map poisonByte) } }

/-- An uncorrectable read in a buffer (R298): the line is poisoned, the owning buffer quarantined through port 3 (R194), and
the pseudo-channel has a fault event (R324 class 4). -/
def uncorrectableBuf (a : Nat) (f : Fld) (s : State) : State :=
  let u := unitId 4 (pseudoOf a)
  let s := memError f u a (poisonLine (a / 128) s)
  let s := match bufAt s a with
    | some b => quarantineBuf b s
    | none => s
  faultEvent u 0 (BitVec.ofNat 64 a) s

/-- A stored beat in error is met by a read: one wrong bit is corrected and written back, more are uncorrectable (R296). -/
def meetBeat (f : Fld) (b : Nat × Nat) (s : State) : State :=
  if b.2 = 1 then
    bumpFld Reg.memCecnt Fld.memCecntHbm { s with mem := { s.mem with bad := s.mem.bad.set 0 b.1 0 } }
  else uncorrectableBuf (b.1 * 8) f s

/-- A demand read of n bytes of a buffer: errors are corrected or poison their line; answers whether the range is poisoned
(R296-R298). -/
def demandRead (a n : Nat) (s : State) : Bool × State :=
  let s := forAll (s.mem.bad.range (a / 8) ((a + n + 7) / 8 - a / 8)) (meetBeat Fld.memErrHbmUe) s
  let p := s.mem.poison.any (fun l => decide (l * 128 < a + n ∧ a < l * 128 + 128))
  (p, if p then memError Fld.memErrPoisonRd (unitId 4 (pseudoOf a)) a s else s)

/-! ### Bytes of a buffer named by a token -/

/-- Write bytes at an offset of the buffer a token names. -/
def bufPut (tok : W32) (off : Nat) (l : List Byte) (s : State) : State := hbmPut (tokAddr s tok + off) l s

/-- Read n bytes at an offset of the buffer a token names. -/
def bufGet (s : State) (tok : W32) (off n : Nat) : List Byte := hbmGet s (tokAddr s tok + off) n

/-- Little-endian field in a buffer. -/
def bufLe (s : State) (tok : W32) (off n : Nat) : Nat := memLe s.mem.hbm (tokAddr s tok + off) n

/-- Bytes of the buffer a token names. -/
def bufSize (s : State) (tok : W32) : Nat := ((classOf s (tokId tok)).map classSize).getD 0

end Sys2Proof.Machine
end

