-- ==== Sys2Proof/Machine/Asm.lean ====
section
/-! DEFINITION. The assembler and disassembler of a slice (R47, R49, R66-R72): dataset headers, segments, closing and sealing,
work items, the discard of replaced records (R257), and delivery of records read back (R90). -/
namespace Sys2Proof.Machine

/-- Payload bytes of a dataset behind its header (R66, R67). -/
abbrev payloadRoom : Nat := 7340032 - 4096


/-- Up to the next multiple of 8. -/
def align8 (n : Nat) : Nat := ceilDiv n 8 * 8

/-- Free payload bytes of the open dataset. -/
def freeRoom (o : OpenDs) : Nat := payloadRoom - o.used

/-- A class-3 buffer that slice t holds: what a dataset token must name (R47, R48). -/
def dsToken (s : State) (t : Tid) (tok : W32) : Bool := tokenHeld s (4 + t.val) tok && classOf s (tokId tok) == some 3

/-- Change the assembler of slice t. -/
def modAsm (t : Tid) (f : Asm → Asm) (s : State) : State := modTp t (fun x => { x with asm := f x.asm }) s

/-- The dataset header as ASM.OPEN writes it (R49, R67). -/
def openHeader (fmtid version : Nat) (dsnum : W32) (c3pos kind : Nat) (group : W32) : List Byte :=
  padTo 4096 (leBytes 4 dsMagic ++ leBytes 2 fmtid ++ leBytes 2 version ++ leBytes 4 dsnum.toNat ++ [0, 0]
    ++ leBytes 1 c3pos ++ [0] ++ zeros 8 ++ leBytes 4 group.toNat ++ [0] ++ leBytes 1 kind)

/-- The fields of an ASM.OPEN are valid (R49, R47). -/
def openValid (s : State) (t : Tid) (d : BitVec 256) : Bool :=
  let c3pos := fieldB d 224 4
  let kind := fieldB d 228 4
  descFits d 0xFFFFFFFF 0xFFFFFFFF (~~~0) 0xFFFFFFFFFF
    && decide (c3pos < 8 ∨ c3pos = 15) && decide (kind ≠ 2 ∧ kind ≤ 4)
    && (c3pos != 15 || fieldB d 160 32 == 0xFFFFFFFF) && dsToken s t (partB d 64 32)

/-- ASM.OPEN (R47, R49): it completes when its dataset closes. With a dataset open it waits (R71). -/
def asmOpenOp (t : Tid) (s : State) : State :=
  onHead t 1 1 3 (fun x s =>
    if (tpOf s t).asm.opn.isSome then s
    else if openValid s t x.desc then
      let d := x.desc
      let o : OpenDs := {
        ticket := x.ticket, token := partB d 64 32, dsnum := partB d 128 32, kind := partB d 228 4, c3pos := partB d 224 4
        idle := partB d 32 32, used := 0, segs := [] }
      let s := takeDesc t 1 x.ticket s
      let s := bufPut o.token 0 (openHeader (fieldB d 192 16) (fieldB d 208 16) o.dsnum o.c3pos.toNat o.kind.toNat (partB d 160 32)) s
      modAsm t (fun a => { a with opn := some o }) s
    else reject t 1 x s) s

/-- The parts of records that a dataset holds (R72, R259): segment bytes with headers and padding, by record. -/
def recRefs : List SegRec → List RecRef
  | [] => []
  | g :: r =>
    let rest := recRefs r
    if g.typ ≠ 1 then rest
    else
      let n := align8 (16 + g.len)
      if rest.any (fun x => x.scid == g.scid && x.seq == g.seq) then
        rest.map (fun x => if x.scid == g.scid && x.seq == g.seq then { x with bytes := x.bytes + n, whole := x.whole || g.last } else x)
      else ⟨g.scid, g.seq, n, g.last⟩ :: rest

/-- A record of an open stream that is not sealed yet. -/
def unsealedRec (s : State) (r : RecRef) : Bool :=
  match streamOf s r.scid.toNat with
  | none => false
  | some x => x.recs.any (fun y => y.seq == r.seq && !y.sealed)

/-- The record table that a closing dataset of KIND 0 hands IDX (R359). -/
def recordTable (l : List SegRec) : List (BitVec 16 × W32 × W32) :=
  (l.filter (fun g => g.first)).map (fun g => (g.scid, g.seq, BitVec.ofNat 32 g.off))

/-- The open dataset closes (R71, R72): USED, NSEG, NREC and CLOSE are written and the unused payload zeroed; records with
bytes in it become sealed; ASM.OPEN completes; VFY and IDX learn of it. -/
def closeDataset (t : Tid) (reason : Nat) (s : State) : State :=
  match (tpOf s t).asm.opn with
  | none => s
  | some o =>
    let refs := recRefs o.segs
    let n := (refs.filter (unsealedRec s)).length
    let s := bufPut o.token 0x1E (leBytes 2 reason ++ leBytes 4 o.used ++ leBytes 4 o.segs.length
      ++ leBytes 4 (o.segs.filter (fun g => g.first)).length) s
    let s := hbmZero (tokAddr s o.token + 4096 + o.used) (payloadRoom - o.used) s
    let s := modTp t (fun x => { x with
      asm := { x.asm with opn := none }
      idx := if o.kind = 0 then { x.idx with tables := x.idx.tables.set [] o.dsnum.toNat (recordTable o.segs) } else x.idx
      vfy := { x.vfy with ds := x.vfy.ds.filter (fun d => d.dsnum != o.dsnum)
        ++ [{ Ds.reset with dsnum := o.dsnum, token := o.token, kind := o.kind, recs := refs, payload := o.used }] } }) s
    let s := forAll refs (fun r => sealRec r.scid.toNat r.seq) s
    finish t 1 o.ticket stOk (BitVec.ofNat 32 (reason + 4 * n)) s

/-- ASM.CLOSE (R47, R71). -/
def asmCloseOp (t : Tid) (s : State) : State :=
  onHead t 1 2 3 (fun x s =>
    if descFits x.desc 0 0 0 0 then
      if (tpOf s t).asm.opn.isSome then finish t 1 x.ticket stOk 0 (closeDataset t 3 s)
      else finish t 1 x.ticket stNotOpen 0 s
    else reject t 1 x s) s

/-- ASM_IDLE_TIMEOUT: the idle time of the open dataset has passed with at least one segment in it (R71). -/
def asmIdleOp (t : Tid) (s : State) : State :=
  match (tpOf s t).asm.opn with
  | some o => if o.idle ≠ 0 ∧ o.segs ≠ [] then closeDataset t 2 s else s
  | none => s

/-! ### Placing work items (R68, R71) -/

/-- A segment header (R68). -/
def segHeader (g : SegRec) : List Byte :=
  leBytes 2 g.typ.toNat ++ leBytes 2 (g.first.toNat + 2 * g.last.toNat) ++ leBytes 2 g.scid.toNat ++ [0, 0] ++ leBytes 4 g.seq.toNat ++ leBytes 4 g.len

/-- The segment that an item goes on with: the last one of the dataset, if it is this record's and does not end it. -/
def contSeg (o : OpenDs) (i : Item) : Option SegRec :=
  match o.segs.getLast? with
  | none => none
  | some g => if g.typ = 1 ∧ g.scid = i.scid ∧ g.seq = i.seq ∧ g.last = false ∧ i.first = false then some g else none

/-- Where an item's bytes begin, in payload offsets, with the segment they go into, its LENGTH not yet raised. -/
def itemSeg (o : OpenDs) (i : Item) : SegRec :=
  match contSeg o i with
  | some g => g
  | none => ⟨1, i.first, false, i.scid, i.seq, 4096 + o.used, 0⟩

/-- Bytes of an item that fit the open dataset. -/
def itemFits (o : OpenDs) (i : Item) : Nat := min i.data.length (4096 + payloadRoom - ((itemSeg o i).off + 16 + (itemSeg o i).len))

/-- The segment of an item with what fits of the item in it. -/
def grownSeg (o : OpenDs) (i : Item) : SegRec :=
  let g := itemSeg o i
  { g with len := g.len + itemFits o i, last := i.fin && itemFits o i == i.data.length }

/-- The open dataset with what fits of an item placed in it. -/
def placedDs (o : OpenDs) (i : Item) : OpenDs :=
  let g := grownSeg o i
  { o with
    used := align8 (g.off + 16 + g.len) - 4096
    segs := match contSeg o i with
      | some _ => o.segs.dropLast ++ [g]
      | none => o.segs ++ [g] }

/-- Place what fits of the item in front (R68): header, bytes and padding are written to the dataset buffer. -/
def placeItem (t : Tid) (o : OpenDs) (i : Item) (s : State) : State :=
  let g := itemSeg o i
  let n := itemFits o i
  let all : Bool := n == i.data.length
  let at' := g.off + 16 + g.len
  let used := (placedDs o i).used
  let s := bufPut o.token g.off (segHeader (grownSeg o i)) s
  let s := bufPut o.token at' (i.data.take n ++ zeros (used + 4096 - at' - n)) s
  let s := placeBytes i.scid.toNat i.seq o.dsnum (used - o.used) (i.fin && all) s
  modTp t (fun x => { x with
    asm := { x.asm with
      opn := some (placedDs o i)
      items := (if all then [] else [{ i with data := i.data.drop n, first := false }]) ++ x.asm.items.drop 1 }
    yoyo := { x.yoyo with dsBytes := x.yoyo.dsBytes + (used - o.used) } }) s

/-- WORK_ITEM_ACCEPT: the assembler places the oldest work item in the open dataset of KIND 0 (R71, R89); full and flush close
it in that order. -/
def workItemOp (t : Tid) (s : State) : State :=
  match (tpOf s t).asm.opn, (tpOf s t).asm.items with
  | some o, i :: _ =>
    if o.kind ≠ 0 then s
    else if i.data = [] then
      let s := modAsm t (fun a => { a with items := a.items.drop 1 }) s
      if i.full then closeDataset t 0 s
      else if i.flush then closeDataset t 1 s
      else s
    else
      let all : Bool := itemFits o i == i.data.length
      let s := placeItem t o i s
      match (tpOf s t).asm.opn with
      | none => s
      | some o' =>
        if freeRoom o' < 72 ∨ (i.full = true ∧ all = true) then closeDataset t 0 s
        else if i.flush = true ∧ all = true then closeDataset t 1 s
        else s
  | _, _ => s

/-! ### Discard of replaced records (R257) -/

/-- Move the kept segments down, in payload order: each starts where the one before it ends. -/
def compactSegs : Nat → List SegRec → List SegRec
  | _, [] => []
  | u, g :: r => { g with off := 4096 + u } :: compactSegs (u + align8 (16 + g.len)) r

/-- The bytes of the kept segments, in order. -/
def segsBytes (s : State) (tok : W32) : List SegRec → List Byte
  | [] => []
  | g :: r => bufGet s tok g.off (align8 (16 + g.len)) ++ segsBytes s tok r

/-- The assembler takes the discard of the records of a stream from SEQ on: their segments leave the open dataset and later
ones move down; their items go. -/
def discardSegs (t : Tid) (scid : BitVec 16) (from' : W32) (s : State) : State :=
  let gone := fun (sc : BitVec 16) (q : W32) => sc == scid && decide (from'.toNat ≤ q.toNat)
  let s := modAsm t (fun a => { a with items := a.items.filter (fun i => !gone i.scid i.seq) }) s
  match (tpOf s t).asm.opn with
  | none => s
  | some o =>
    let keep := o.segs.filter (fun g => !(g.typ == 1 && gone g.scid g.seq))
    if keep.length = o.segs.length then s
    else
      let b := segsBytes s o.token keep
      let s := bufPut o.token 4096 b s
      modTp t (fun x => { x with
        asm := { x.asm with opn := some { o with segs := compactSegs 0 keep, used := b.length } }
        yoyo := { x.yoyo with dsBytes := x.yoyo.dsBytes - (o.used - b.length) } }) s

/-! ### Reading back (R90) -/

/-- The class-3 buffers that slice t holds. -/
def heldBufs (s : State) (t : Tid) : List W32 :=
  s.tbx.recs.cells.filterMap (fun c => if dsToken s t (tokenOf c.1 c.2.gen) then some (tokenOf c.1 c.2.gen) else none)

/-- The header in a dataset buffer is whole: MAGIC and HCRC are correct (R90). -/
def headerSound (s : State) (tok : W32) : Bool :=
  bufLe s tok 0 4 == dsMagic && bufLe s tok 0xFFC 4 == (crc32c (bufGet s tok 0 4092)).toNat

/-- The entry of MEMBERS in a parity dataset that carries a DSNUM (R67). -/
def membersEntry (s : State) (par n : W32) : Option (List Byte) :=
  ((List.range 8).map (fun p => bufGet s par (0x40 + 64 * p) 64)).find? (fun h => leAt h 0 4 == dsMagic && leAt h 8 4 == n.toNat)

/-- The first 64 header bytes of a member whose own header is lost: from MEMBERS of a parity dataset that slice t holds, by the DSNUM
that the directories of its extent gave (R75, R85, R90; log entry 21). -/
def memberHeader (s : State) (t : Tid) (tok : W32) : Option (List Byte) :=
  match ((tpOf s t).enc.bufs.get none tok.toNat).bind (fun b => b.dsnum) with
  | none => none
  | some n => (heldBufs s t).findSome? (fun p => if headerSound s p && bufLe s p 0xE 1 == 8 then membersEntry s p n else none)

/-- The first 64 header bytes of a dataset read back: its own, or else those of MEMBERS (R90). -/
def headerOf (s : State) (t : Tid) (tok : W32) : Option (List Byte) :=
  if headerSound s tok then some (bufGet s tok 0 64) else memberHeader s t tok

/-- FMTID and VERSION of a header name a format that the read procedures implement: EVF-1 1.x or EVF-2 1.x (R90). -/
def formatRead (h : List Byte) : Bool := (leAt h 4 2 == 1 || leAt h 4 2 == 2) && leAt h 7 1 == 1

/-- A dataset that the read procedures accept (R90). -/
def headerGood (s : State) (t : Tid) (tok : W32) : Bool := (headerOf s t tok).any formatRead

/-- The segments of a payload, from an offset on (R68): the first header of TYPE 0, or the end, ends them. -/
def walkSegs (s : State) (tok : W32) : Nat → Nat → List SegRec
  | 0, _ => []
  | fuel + 1, off =>
    if 7340032 < off + 16 ∨ bufLe s tok off 2 = 0 then []
    else
      let len := bufLe s tok (off + 12) 4
      let g : SegRec := ⟨BitVec.ofNat 16 (bufLe s tok off 2), bitOf (bufLe s tok (off + 2) 2) 0, bitOf (bufLe s tok (off + 2) 2) 1,
        BitVec.ofNat 16 (bufLe s tok (off + 4) 2), BitVec.ofNat 32 (bufLe s tok (off + 8) 4), off, len⟩
      g :: walkSegs s tok fuel (off + align8 (16 + len))

/-- Segments of a dataset buffer. -/
def segsOf (s : State) (tok : W32) : List SegRec := walkSegs s tok 458496 4096

/-- ASM.DISASM: the records that begin in a corrected dataset are delivered (R47, R90). -/
def asmDisasmOp (t : Tid) (s : State) : State :=
  onHead t 1 3 3 (fun x s =>
    let tok : W32 := partB x.desc 64 32
    if descFits x.desc 0 0xFFFFFFFF 0 0 && dsToken s t tok then
      let r := demandRead (tokAddr s tok) 7340032 s
      if r.1 then finish t 1 x.ticket stPoisoned 0 r.2
      else
        let s := r.2
        if headerGood s t tok then
          let l := (segsOf s tok).filter (fun g => g.typ == 1 && g.first)
          let ds : W32 := BitVec.ofNat 32 (leAt ((headerOf s t tok).getD []) 8 4)
          finish t 1 x.ticket stOk (BitVec.ofNat 32 l.length)
            (modAsm t (fun a => { a with disarm := a.disarm ++ l.map (fun g => (g.scid, g.seq, ds)) }) s)
        else reject t 1 x s
    else reject t 1 x s) s

end Sys2Proof.Machine
end

