-- ==== Sys2Proof/Machine/Enc.lean ====
section
/-! DEFINITION. The C2 and C3 stage of a slice (R48-R50, R73-R75): ENCODE, C3EMIT, MAPSET and CORRECT, with the arithmetic of the
field and the Reed-Solomon decoder. -/
namespace Sys2Proof.Machine

/-! ### GF(2^8) with p(x) = 0x11D (R73) -/

/-- Multiply by x. -/
def gfDouble (a : Byte) : Byte := if a.getLsbD 7 then (a <<< 1) ^^^ 0x1D else a <<< 1

/-- Multiply, by the bits of b from bit n - 1 down. -/
def gfMulBits (a b : Byte) : Nat → Byte
  | 0 => 0
  | n + 1 => gfDouble (gfMulBits a (b >>> 1) n) ^^^ (if b.getLsbD 0 then a else 0)

/-- The product of two field elements. -/
def gfMul (a b : Byte) : Byte := gfMulBits a b 8

/-- Powers of a field element. -/
def gfPow (a : Byte) : Nat → Byte
  | 0 => 1
  | n + 1 => gfMul a (gfPow a n)

/-- α^n, α = 0x02 of order 255. -/
def gfExp (n : Nat) : Byte := gfPow 2 (n % 255)

/-- The inverse of a non-zero element: a^254. -/
def gfInv (a : Byte) : Byte := gfPow a 254

/-- Polynomials over the field, lowest coefficient first. -/
def polyAdd : List Byte → List Byte → List Byte
  | a :: l, b :: r => (a ^^^ b) :: polyAdd l r
  | [], r => r
  | l, [] => l

/-- Scale a polynomial. -/
def polyScale (c : Byte) (l : List Byte) : List Byte := l.map (gfMul c)

/-- Multiply polynomials. -/
def polyMul : List Byte → List Byte → List Byte
  | [], _ => []
  | a :: l, r => polyAdd (polyScale a r) (0 :: polyMul l r)

/-- Value of a polynomial. -/
def polyEval (x : Byte) : List Byte → Byte
  | [] => 0
  | a :: l => a ^^^ gfMul x (polyEval x l)

/-- Formal derivative: odd coefficients, one place down. -/
def polyDeriv : List Byte → List Byte
  | [] => []
  | _ :: l => (List.range l.length).zipWith (fun i a => if i % 2 = 0 then a else 0) l

/-- g(x) = (x + α^0)(x + α^1) ... (x + α^15), lowest coefficient first (R73). -/
def rsGen : List Byte := (List.range 16).foldl (fun g i => polyMul g [gfExp i, 1]) [1]

/-! ### RS(128,112) down a column (R73) -/

/-- One step of the division by g(x): the remainder, highest coefficient first, takes the next data byte. -/
def rsStep (rem : List Byte) (d : Byte) : List Byte :=
  let fb := d ^^^ rem.headD 0
  polyAdd ((rem.drop 1) ++ [0]) (polyScale fb ((rsGen.take 16).reverse))

/-- The parity rows 112-127 of a column of 112 data bytes. -/
def rsParity (col : List Byte) : List Byte := col.foldl rsStep (zeros 16)

/-- Syndromes of a column of 128 bytes: row r is the coefficient of x^(127 - r). -/
def rsSyndromes (col : List Byte) : List Byte :=
  (List.range 16).map (fun i => col.foldl (fun a b => gfMul (gfExp i) a ^^^ b) 0)

/-- The locator α^(127 - r) of a row. -/
def rsLoc (r : Nat) : Byte := gfExp (127 - r)

/-- The erasure locator polynomial. -/
def rsErasure (rows : List Nat) : List Byte := rows.foldl (fun g r => polyMul g [1, rsLoc r]) [1]

/-- Berlekamp-Massey after f erasures: step n with Λ, B and the register length. -/
def rsMassey (syn : List Byte) (f : Nat) : Nat → Nat → List Byte → List Byte → Nat → List Byte
  | 0, _, lam, _, _ => lam
  | fuel + 1, n, lam, b, len =>
    let d := (List.range (n + 1)).foldl (fun a i => a ^^^ gfMul (lam.getD i 0) (syn.getD (n - i) 0)) 0
    let b' := (0 : Byte) :: b
    if d = 0 then rsMassey syn f fuel (n + 1) lam b' len
    else
      let lam' := polyAdd lam (polyScale d b')
      if 2 * len ≤ n + f then rsMassey syn f fuel (n + 1) lam' (polyScale (gfInv d) lam) (n + f + 1 - len)
      else rsMassey syn f fuel (n + 1) lam' b' len

/-- Degree of a polynomial. -/
def polyDeg (l : List Byte) : Nat := (l.reverse.dropWhile (fun x => x == 0)).length - 1

/-- Correct a column with erased rows: some where 2e + f ≤ 16 finds a codeword (R73). -/
def rsCorrect (erased : List Nat) (col : List Byte) : Option (List Byte) :=
  let syn := rsSyndromes col
  if 16 < erased.length then none
  else if syn.all (fun x => x == 0) then some col
  else
    let gam := rsErasure erased
    let f := erased.length
    let lam := rsMassey syn f (16 - f) f gam gam f
    let deg := polyDeg lam
    let rows := (List.range 128).filter (fun r => polyEval (gfInv (rsLoc r)) lam == 0)
    if rows.length ≠ deg ∨ 16 < 2 * (deg - f) + f then none
    else
      let om := (polyMul syn lam).take 16
      let der := polyDeriv lam
      let out := rows.foldl (fun (c : List Byte) r =>
        let xi := gfInv (rsLoc r)
        c.set r (c.getD r 0 ^^^ gfMul (rsLoc r) (gfMul (polyEval xi om) (gfInv (polyEval xi der))))) col
      if (rsSyndromes out).all (fun x => x == 0) then some out else none

/-! ### Datasets in buffers (R66; where parity rows stand is log entry 21) -/

/-- Offset of row r of sub-dataset u in a dataset buffer: the payload by R66, then the parity rows. -/
def rowOff (u r : Nat) : Nat := if r < 112 then 114688 * u + 1024 * r else 7340032 + 16384 * u + 1024 * (r - 112)

/-- Whether a sub-dataset holds any byte that is not zero. -/
def subLive (s : State) (a u : Nat) : Bool :=
  !(s.mem.hbm.range (a + 114688 * u) 114688).isEmpty || !(s.mem.hbm.range (a + 7340032 + 16384 * u) 16384).isEmpty

/-- Column j of n rows of a sub-dataset. -/
def columnOf (s : State) (a u n j : Nat) : List Byte := (List.range n).map (fun r => s.mem.hbm.get 0 (a + rowOff u r + j))

/-- Write the C2 parity of one sub-dataset. -/
def encodeSub (a u : Nat) (s : State) : State :=
  if subLive s a u then
    forAll (List.range 1024) (fun j s =>
      let p := rsParity (columnOf s a u 112 j)
      { s with mem := { s.mem with hbm := (List.range 16).foldl (fun m i => m.set 0 (a + rowOff u (112 + i) + j) (p.getD i 0)) s.mem.hbm } }) s
  else s

/-- C2 parity of a whole dataset, in place (R48, R73). -/
def encodeC2 (a : Nat) (s : State) : State :=
  forAll (List.range 64) (fun u s => encodeSub a u s) (cleanLines (a + 7340032) 1048576 s)

/-- XOR rows 0-111 of a dataset into another buffer (R49, R74). -/
def xorInto (a b : Nat) (s : State) : State :=
  { s with mem := { s.mem with hbm := (s.mem.hbm.range a 7340032).foldl (fun m c =>
      m.set 0 (c.1 - a + b) (m.get 0 (c.1 - a + b) ^^^ c.2)) s.mem.hbm } }

/-! ### ENC (R48-R50) -/

/-- The mask that a map slot holds. -/
def mapSlot (x : Tp) (n : Nat) : Option W64 := if n = 0 then x.enc.map0 else x.enc.map1

/-- Change the encoder of slice t. -/
def modEnc (t : Tid) (f : Enc → Enc) (s : State) : State := modTp t (fun x => { x with enc := f x.enc }) s

/-- ENC takes its descriptors one after the other: a MAPSET that waits holds the ones behind it back (R50). -/
def encFree (x : Tp) : Bool := x.encP.slots.all (fun y => !(y.started && y.fin.isNone))

/-- Header bytes recorded for an accumulator, by C3 position (R49). -/
def c3Entries (x : Tp) (acc : W32) : List (Nat × List Byte) := x.enc.c3rec.get [] (tokId acc)

/-- The fields of an ENCODE are valid (R48, R49, R50). -/
def encodeValid (s : State) (t : Tid) (d : BitVec 256) : Bool :=
  let x := tpOf s t
  let tok : W32 := partB d 64 32
  let acc : W32 := partB d 96 32
  let c3on : Bool := fieldB d 129 1 == 1
  let pos := fieldB d 130 4
  descFits d 0 (~~~0) 0x3F 0 && dsToken s t tok && (mapSlot x (fieldB d 128 1)).isSome
    && !(x.asm.opn.any (fun o => tokId o.token == tokId tok)) && bufLe s tok 0 4 == dsMagic
    && (!c3on || (pos == bufLe s tok 0xE 1 && decide (pos < 8) && dsToken s t acc))

/-- The header fields ENCODE writes, then HCRC (R49). -/
def encodeHeader (t : Tid) (tok : W32) (mask : W64) (s : State) : State :=
  let s := bufPut tok 0xC (leBytes 2 (tpOf s t).mot.wrap) s
  let s := bufPut tok 0xF (leBytes 1 (maskCount mask) ++ leBytes 8 mask.toNat) s
  bufPut tok 0xFFC (leBytes 4 (crc32c (bufGet s tok 0 4092)).toNat) s

/-- Fold a member into the accumulator and record its header (R49): position 0 writes it as a copy. -/
def foldMember (t : Tid) (tok acc : W32) (pos : Nat) (s : State) : State :=
  let a := tokAddr s tok
  let b := tokAddr s acc
  let s := if pos = 0 then hbmCopy a b 7340032 s else xorInto a b s
  let h := bufGet s tok 0 64
  modEnc t (fun e =>
    let l := (e.c3rec.get [] (tokId acc)).filter (fun p => p.1 != pos) ++ [(pos, h)]
    { e with c3rec := e.c3rec.set [] (tokId acc) l }) s

/-- ENC.ENCODE (R48, R49). -/
def encEncodeOp (t : Tid) (s : State) : State :=
  if encFree (tpOf s t) then
    onHead t 2 1 4 (fun x s =>
      let d := x.desc
      let tok : W32 := partB d 64 32
      if encodeValid s t d then
        let r := demandRead (tokAddr s tok) 7340032 s
        if r.1 then finish t 2 x.ticket stPoisoned 0 r.2
        else
          let s := encodeHeader t tok ((mapSlot (tpOf s t) (fieldB d 128 1)).getD 0) r.2
          let s := encodeC2 (tokAddr s tok) s
          let s := if fieldB d 129 1 = 1 then foldMember t tok (partB d 96 32) (fieldB d 130 4) s else s
          let n := bufLe s tok 8 4
          let s := modTp t (fun x => { x with vfy := { x.vfy with ds := x.vfy.ds.map (fun y =>
            if y.dsnum.toNat = n ∧ y.token = tok then { y with encs := 1 } else y) } }) s
          finish t 2 x.ticket stOk 0 s
      else reject t 2 x s) s
  else s

/-- Positions 0 to n - 1 have a recorded member, and no other (R49). -/
def c3Complete (l : List (Nat × List Byte)) (n : Nat) : Bool :=
  l.length == n && (List.range n).all (fun p => l.any (fun e => e.1 == p))

/-- The header of the parity dataset but for WRAP, NLIVE, LIVEMASK and HCRC (R49). -/
def c3Header (s : State) (acc dsnum group : W32) (fmtid version count : Nat) (l : List (Nat × List Byte)) : List Byte :=
  leBytes 4 dsMagic ++ leBytes 2 fmtid ++ leBytes 2 version ++ leBytes 4 dsnum.toNat ++ bufGet s acc 0xC 2 ++ [8]
    ++ bufGet s acc 0xF 9 ++ leBytes 4 group.toNat ++ leBytes 1 count ++ [2] ++ leBytes 2 3 ++ zeros 12 ++ zeros 20
    ++ (List.range 8).flatMap (fun p => ((l.find? (fun e => e.1 == p)).map (fun e => e.2)).getD (zeros 64)) ++ zeros (4092 - 576)

/-- ENC.C3EMIT (R49): the accumulator becomes the parity dataset. -/
def encC3emitOp (t : Tid) (s : State) : State :=
  if encFree (tpOf s t) then
    onHead t 2 2 4 (fun x s =>
      let d := x.desc
      let acc : W32 := partB d 64 32
      let l := c3Entries (tpOf s t) acc
      let n := fieldB d 224 4
      if descFits d 0 0xFFFFFFFF (~~~0) 0xFFFFFFFFF && dsToken s t acc && decide (1 ≤ n ∧ n ≤ 8) && c3Complete l n then
        let s := bufPut acc 0 (c3Header s acc (partB d 128 32) (partB d 160 32) (fieldB d 192 16) (fieldB d 208 16) n l) s
        let s := modTp t (fun x => { x with
          enc := { x.enc with c3rec := x.enc.c3rec.set [] (tokId acc) [] }
          vfy := { x.vfy with ds := x.vfy.ds.filter (fun y => y.dsnum != partB d 128 32)
            ++ [{ Ds.reset with dsnum := partB d 128 32, token := acc, kind := 2 }] } }) s
        finish t 2 x.ticket stOk (BitVec.ofNat 32 n) s
      else reject t 2 x s) s
  else s

/-- The map slot a descriptor names: ENCODE, WL.WRITE and VFY.ARM name one (R47). -/
def namesSlot (port : Nat) (d : BitVec 256) : Option Nat :=
  match port, descOp d with
  | 2, 1 => some (fieldB d 128 1)
  | 3, 1 => some (fieldB d 128 1)
  | 4, 1 => some (fieldB d 128 1)
  | _, _ => none

/-- A descriptor of ENC, WL, VFY or RWQ issued before a MAPSET still references its slot (R50). -/
def slotBusy (x : Tp) (slot order : Nat) : Bool :=
  [2, 3, 4, 5].any (fun p => (portOpen (portOf x p)).any (fun y => decide (y.order < order) && namesSlot p y.desc == some slot))

/-- A MAPSET of the slot, issued before a descriptor, has not completed (R50). -/
def mapPending (x : Tp) (slot order : Nat) : Bool :=
  (portOpen x.encP).any (fun y => descOp y.desc == 3 && descArg y.desc == slot && decide (y.order < order))

/-- The fields of a MAPSET are valid (R50). -/
def mapsetValid (x : Tp) (d : BitVec 256) : Bool :=
  descFits d 1 (~~~0) 0 0 && decide (fewestLive x ≤ maskCount (partB d 64 64))
    && (partB d 64 64 &&& (x.vfy.failmask ||| x.head.missing)) == (0 : W64)

/-- A MAPSET loads its slot and completes (R50). -/
def loadMap (t : Tid) (y : Slot) (s : State) : State :=
  let mask : W64 := partB y.desc 64 64
  finish t 2 y.ticket stOk (BitVec.ofNat 32 (maskCount mask))
    (modEnc t (fun e => if descArg y.desc = 0 then { e with map0 := some mask } else { e with map1 := some mask }) s)

/-- ENC.MAPSET (R50): it loads its slot at once, or waits while an earlier descriptor references the slot. -/
def encMapsetOp (t : Tid) (s : State) : State :=
  if encFree (tpOf s t) then
    onHead t 2 3 4 (fun y s =>
      if mapsetValid (tpOf s t) y.desc then
        if slotBusy (tpOf s t) (descArg y.desc) y.order then takeDesc t 2 y.ticket s else loadMap t y s
      else reject t 2 y s) s
  else s

/-- MAPSET_LOAD: the last descriptor that held a MAPSET back has completed (R50). -/
def mapsetLoadOp (t : Tid) (s : State) : State :=
  match (tpOf s t).encP.slots.find? (fun y => y.started && y.fin.isNone && descOp y.desc == 3) with
  | none => s
  | some y => if slotBusy (tpOf s t) (descArg y.desc) y.order then s else loadMap t y s

/-! ### CORRECT (R73-R75, R90) -/

/-- Dataset header codeword 0 among the payloads of an extent, descrambled: its first 64 bytes (R66, R82). -/
def readHead (rows : List RdRow) : Option (List Byte) :=
  (rows.filter (fun r => r.kind == 0 && r.slot == 0)).findSome? (fun r =>
    if leAt (scramble 0 (r.bytes.take 64)) 0 4 = dsMagic then some (scramble 0 (r.bytes.take 64)) else none)

/-- The directory among the payloads of an extent, descrambled: its first 16 bytes (R85). -/
def readDir (rows : List RdRow) : Option (List Byte) :=
  (rows.filter (fun r => r.kind == 2)).findSome? (fun r =>
    if leAt (scramble scrDirectory (r.bytes.take 16)) 0 4 = dirMagic then some (scramble scrDirectory (r.bytes.take 16)) else none)

/-- The extent read back is of EVF-1: by its header, else its directory, else by what cartridge memory records (R64, R90). -/
def readEvf1 (x : Tp) (rows : List RdRow) : Bool :=
  match readHead rows, readDir rows with
  | some h, _ => leAt h 4 2 == 1
  | none, some d => leAt d 8 2 == 1
  | none, none => x.cart.any (fun c => !c.evf2)

/-- The track map of an extent read back: that of the dataset header in codeword 0; else all tracks where the directory says so; else
that of map slot 0, or the live tracks (log entry 21). -/
def readMask (x : Tp) (rows : List RdRow) : W64 :=
  match readHead rows, readDir rows with
  | some h, _ => BitVec.ofNat 64 (leAt h 16 8)
  | none, d =>
    let n := (d.map (fun l => leAt l 13 1)).getD 0
    if readEvf1 x rows ∧ (n = 32 ∨ x.head.kind = 2) then 0xFFFFFFFF
    else if n = 64 then ~~~0
    else x.enc.map0.getD (liveMask x)

/-- The track that a read element follows: on an HM-2 port the elements that the ID EEPROM names as aligned read the 32 tracks of an
EVF-1 extent, in order; otherwise element k reads track k (R90). -/
def readTrack (x : Tp) (evf1 : Bool) (k : Nat) : Option Nat :=
  if evf1 && x.head.kind == 2 then (setBits 64 x.head.aligned.toNat).idxOf? k else some k

/-- The codewords that an extent and the copies in the three after it deliver for a dataset: index and payload (R85, R146). -/
def deliveredCws (x : Tp) (ext : Nat) : List (Nat × List Byte) :=
  let rows := x.rc.rows.filter (fun r => r.ext == ext)
  let mask := readMask x rows
  let evf1 := readEvf1 x rows
  let data := rows.filterMap (fun r =>
    if r.kind = 0 then
      match (readTrack x evf1 r.k).bind (fun k => (maskTracks mask).idxOf? k) with
      | some lam => ((lambdaCws (maskCount mask) lam)[r.slot]?).map (fun i => (i, r.bytes))
      | none => none
    else none)
  let copies := (x.rc.rows.filter (fun r => r.kind == 1 && r.ext == ext + r.b)).map (fun r => (r.idx, r.bytes))
  data ++ copies

/-- Write a delivered codeword into a dataset buffer, descrambled (R27, R78). -/
def placeCw (tok : W32) (c : Nat × List Byte) (s : State) : State :=
  bufPut tok (rowOff (c.1 / 128) (c.1 % 128)) (scramble c.1 c.2) s

/-- Place what was read for the oldest extent in the buffer. Every codeword that was not delivered is an erasure, all of them where
nothing was read (R73, R91; log entry 21). -/
def placeRead (t : Tid) (tok : W32) (s : State) : ReadBuf × State :=
  let x := tpOf s t
  match x.rc.rows.find? (fun r => r.kind == 0 || r.kind == 2) with
  | none => (⟨none, List.range 8192, [], 0⟩, s)
  | some r =>
    let l := deliveredCws x r.ext
    let n := (readDir (x.rc.rows.filter (fun q => q.ext == r.ext))).map (fun d => (BitVec.ofNat 32 (leAt d 4 4) : W32))
    let s := forAll l (placeCw tok) s
    let used (q : RdRow) : Bool := (q.ext == r.ext && !(q.kind == 1 && q.b != 0)) || (q.kind == 1 && q.ext == r.ext + q.b)
    let s := modRc t (fun y => { y with rows := y.rows.filter (fun q => !used q) }) s
    (⟨n, (List.range 8192).filter (fun i => !l.any (fun c => c.1 == i)), [], 0⟩, s)

/-- Correct one sub-dataset with C2: its erased rows; answers whether every column was corrected. -/
def correctSub (a u : Nat) (erased : List Nat) (s : State) : Bool × State :=
  if 16 < erased.length then (false, s)
  else if !subLive s a u && erased.isEmpty then (true, s)
  else
    let cols := (List.range 1024).map (fun j => rsCorrect erased (columnOf s a u 128 j))
    if cols.all (fun c => c.isSome) then
      (true, { s with mem := { s.mem with hbm := (List.range 1024).foldl (fun m j =>
        (List.range 128).foldl (fun m r => m.set 0 (a + rowOff u r + j) (((cols.getD j none).getD []).getD r 0)) m) s.mem.hbm } })
    else (false, s)

/-- The C3 group of a dataset buffer: C3POS and token of every other buffer that slice t holds of the group, by the headers (R74; log
entry 21). -/
def c3Others (s : State) (t : Tid) (tok : W32) : List (Nat × W32) :=
  match headerOf s t tok with
  | none => []
  | some h =>
    if leAt h 0xE 1 = 15 then []
    else (heldBufs s t).filterMap (fun k =>
      match headerOf s t k with
      | none => none
      | some g => if k != tok && leAt g 0x18 4 == leAt h 0x18 4 && leAt g 0xE 1 != leAt h 0xE 1 then some (leAt g 0xE 1, k) else none)

/-- Members that the group of a dataset buffer counts: C3COUNT of its parity dataset, itself or one of the others (R67). -/
def c3Count (s : State) (t : Tid) (tok : W32) : Option Nat :=
  if headerSound s tok && bufLe s tok 0xE 1 == 8 then some (bufLe s tok 0x1C 1)
  else ((c3Others s t tok).find? (fun k => k.1 == 8)).map (fun k => bufLe s k.2 0x1C 1)

/-- The other datasets of the group of tok, where all are held: the members it counts, and the parity dataset (R74, R75). -/
def c3Group (s : State) (t : Tid) (tok : W32) : Option (List W32) :=
  match headerOf s t tok, c3Count s t tok with
  | some h, some n =>
    let want : List Nat := ((List.range n) ++ [8]).filter (fun p => p != leAt h 0xE 1)
    let l : List W32 := want.filterMap (fun p => ((c3Others s t tok).find? (fun k => k.1 == p)).map (fun k => k.2))
    if l.length = want.length then some l else none
  | _, _ => none

/-- A dataset buffer did not fail C2 at sub-dataset u (R75). -/
def c2Passed (s : State) (t : Tid) (u : Nat) (k : W32) : Bool := !((tpOf s t).enc.bufs.get none k.toNat).any (fun b => b.failed.contains u)

/-- Rows 0-111 of a sub-dataset as the XOR of the other datasets of the group; rows 0-3 of sub-dataset 0 are not recovered
(R75). -/
def c3Recover (a u : Nat) (others : List Nat) (s : State) : State :=
  let lo := if u = 0 then 4096 else 0
  let z : SMap Byte := s.mem.hbm.clear (a + 114688 * u + lo) (114688 - lo)
  let add (b : Nat) (m : SMap Byte) : SMap Byte :=
    (s.mem.hbm.range (b + 114688 * u + lo) (114688 - lo)).foldl (fun m c => m.set 0 (c.1 - b + a) (m.get 0 (c.1 - b + a) ^^^ c.2)) m
  { s with mem := { s.mem with hbm := others.foldl (fun m b => add b m) z } }

/-- The first 64 header bytes of a member come from MEMBERS of the parity dataset when its header is lost (R75, R90). -/
def c3HeaderFix (t : Tid) (tok : W32) (s : State) : State :=
  match headerSound s tok, memberHeader s t tok with
  | false, some h => bufPut tok 0 h s
  | _, _ => s

/-- The C2 pass of CORRECT: every sub-dataset of a list with its erased rows; answers the ones that failed (R73). -/
def c2Pass (a : Nat) (erased subs : List Nat) (s : State) : List Nat × State :=
  subs.foldl (fun acc u =>
    let c := correctSub a u ((erased.filter (fun i => i / 128 == u)).map (fun i => i % 128)) acc.2
    (if c.1 then acc.1 else acc.1 ++ [u], c.2)) ([], s)

/-- The C3 pass of CORRECT over the sub-datasets that failed C2: one at which no other dataset of the group failed is recovered, and
its C2 rows are formed anew; answers the ones that are left (R75). -/
def c3Pass (t : Tid) (tok : W32) (failed : List Nat) (s : State) : List Nat × State :=
  match c3Group s t tok with
  | none => (failed, s)
  | some l =>
    let a := tokAddr s tok
    (failed.filter (fun u => !l.all (c2Passed s t u)),
      forAll (failed.filter (fun u => l.all (c2Passed s t u))) (fun u s => encodeSub a u (c3Recover a u (l.map (tokAddr s)) s)) s)

/-- What CORRECT begins with: with the C3 attempt on, a buffer in which sub-datasets have failed is tried again; otherwise the
buffer is filled from what was read, and passes C2 (R73; log entry 21). -/
def correctStart (t : Tid) (tok : W32) (c3 : Bool) (s : State) : ReadBuf × State :=
  match (tpOf s t).enc.bufs.get none tok.toNat with
  | some b => if c3 && !b.failed.isEmpty then (b, s) else filled s
  | none => filled s
where
  filled (s : State) : ReadBuf × State :=
    let r := placeRead t tok s
    let q := c2Pass (tokAddr s tok) r.1.erased (List.range 64) r.2
    ({ r.1 with failed := q.1 }, q.2)

/-- ENC.CORRECT (R47, R73-R75): VALUE counts the erased rows corrected and the sub-datasets that failed. -/
def encCorrectOp (t : Tid) (s : State) : State :=
  if encFree (tpOf s t) then
    onHead t 2 4 4 (fun x s =>
      let d := x.desc
      let tok : W32 := partB d 64 32
      let c3 : Bool := fieldB d 128 1 == 1
      if descFits d 0 0xFFFFFFFF 1 0 && dsToken s t tok then
        let r := correctStart t tok c3 s
        let keep (b : ReadBuf) : State → State := modEnc t (fun e => { e with bufs := e.bufs.set none tok.toNat (some b) })
        let s := keep r.1 r.2
        let q := if c3 then c3Pass t tok r.1.failed (c3HeaderFix t tok s) else (r.1.failed, s)
        let left := r.1.erased.filter (fun i => q.1.contains (i / 128))
        finish t 2 x.ticket (if q.1.isEmpty then stOk else stUncorrectable)
          (BitVec.ofNat 32 (min 65535 (r.1.erased.length - left.length) + 2 ^ 16 * q.1.length))
          (keep { r.1 with erased := left, failed := q.1, fill := if q.1.isEmpty then bufLe q.2 tok 0x20 4 else 0 } q.2)
      else reject t 2 x s) s
  else s

end Sys2Proof.Machine
end

