-- ==== Sys2Proof/Machine/Idx.lean ====
section
/-! DEFINITION. The index stage of a slice (R359, R360): ADD, EMIT and FIND, freezing an index, and the bytes of an index
(R89). -/
namespace Sys2Proof.Machine

/-- Change the index stage of slice t. -/
def modIdx (t : Tid) (f : Idx → Idx) (s : State) : State := modTp t (fun x => { x with idx := f x.idx }) s

/-- The object identifier in W1 and W2 of a descriptor. -/
def descObj (d : BitVec 256) : BitVec 128 := partB d 64 128

/-- IDX.ADD (R359): entry n of the dataset's record table becomes an object entry; a record of an open stream is then
indexed (R258). -/
def idxAddOp (t : Tid) (s : State) : State :=
  onHead t 6 1 3 (fun x s =>
    let ds : W32 := partB x.desc 192 32
    if descFits x.desc 0xFFFFFFFF (~~~0) (~~~0) 0xFFFFFFFF then
      match ((tpOf s t).idx.tables.get [] ds.toNat)[descArg x.desc]? with
      | none => finish t 6 x.ticket stNotFound 0 s
      | some (scid, seq, off) =>
        let e : ObjEnt := ⟨descObj x.desc, ds, off, seq, scid⟩
        finish t 6 x.ticket stOk 0
          (indexRec scid.toNat seq (modIdx t (fun i => { i with objs := i.objs ++ [e], known := i.known ++ [e] }) s))
    else reject t 6 x s) s

/-- The entry of an object: the first one, where several records carry its identifier (R359; log entry 22). -/
def findObj (l : List ObjEnt) (o : BitVec 128) : Option ObjEnt := l.find? (fun e => e.objid == o)

/-- IDX.FIND (R359). -/
def idxFindOp (t : Tid) (s : State) : State :=
  onHead t 6 3 3 (fun x s =>
    if descFits x.desc 0 (~~~0) (~~~0) 0 then
      match findObj (tpOf s t).idx.known (descObj x.desc) with
      | none => finish t 6 x.ticket stNotFound 0 s
      | some e => finish t 6 x.ticket stOk e.dsnum s
    else reject t 6 x s) s

/-! ### The bytes of an index (R89) -/

/-- Whether an object entry stands before another: OBJID, then SEQ. -/
def objBefore (a b : ObjEnt) : Bool := decide (a.objid.toNat < b.objid.toNat ∨ (a.objid = b.objid ∧ a.seq.toNat ≤ b.seq.toNat))

/-- Insert into a sorted list. -/
def insertBy {α : Type} (le : α → α → Bool) (a : α) : List α → List α
  | [] => [a]
  | b :: r => if le a b then a :: b :: r else b :: insertBy le a r

/-- Sort by insertion. -/
def sortBy {α : Type} (le : α → α → Bool) (l : List α) : List α := l.foldr (insertBy le) []

/-- Bytes of an object entry. -/
def objBytes (e : ObjEnt) : List Byte :=
  leBytes 16 e.objid.toNat ++ leBytes 4 e.dsnum.toNat ++ leBytes 4 e.off.toNat ++ leBytes 4 e.seq.toNat ++ leBytes 2 e.scid.toNat ++ [0, 0]

/-- Bytes of a location entry. -/
def locBytes (e : LocEnt) : List Byte := leBytes 4 e.dsnum.toNat ++ leBytes 2 e.wrap.toNat ++ [0, 0] ++ leBytes 4 e.lpos.toNat

/-- The bytes of an index. -/
def indexBytes (gen prev : W32) (objs : List ObjEnt) (locs : List LocEnt) : List Byte :=
  let head := padTo 60 (leBytes 4 0x58444945 ++ leBytes 4 gen.toNat ++ leBytes 4 prev.toNat ++ leBytes 4 objs.length ++ leBytes 4 locs.length)
  let body := (sortBy objBefore objs).flatMap objBytes
    ++ (sortBy (fun a b => decide (a.dsnum.toNat ≤ b.dsnum.toNat)) locs).flatMap locBytes
  head ++ leBytes 4 (crc32c head).toNat ++ body ++ leBytes 4 (crc32c body).toNat

/-! ### EMIT (R360) -/

/-- A dataset's first WL.WRITE has completed: it stands in the locations of this index or of an earlier one. -/
def dsWritten (x : Tp) (n : W32) : Bool := x.idx.locs.any (fun l => l.dsnum == n) || x.vfy.ds.any (fun d => d.dsnum == n && d.written.isSome)

/-- The index is frozen once every dataset that its object entries name has been written (R360). -/
def freezeIndex (t : Tid) (s : State) : State :=
  modIdx t (fun i =>
    let n := i.await.length
    { i with
      frozen := some ⟨indexBytes (i.gen + 1) i.prev (i.objs.take n) i.locs, 0, none, i.locs.map (fun l => l.dsnum)⟩
      objs := i.objs.drop n, locs := [], await := [] }) s

/-- Room for one segment of index data in the open dataset. -/
def emitRoom (o : OpenDs) : Nat := freeRoom o - 16

/-- Place the next segment of the frozen index in the open dataset, and complete the EMIT (R360, R89). No record header opens the
segment and no record ends in it, so FLAGS is 0 (R68); a dataset left with less than 72 free bytes closes as full (R71). -/
def emitSegment (t : Tid) (y : Slot) (o : OpenDs) (f : Frozen) (s : State) : State :=
  let n := min f.bytes.length (emitRoom o)
  let done : Bool := n == f.bytes.length
  let g : SegRec := ⟨2, false, false, 0xFFFF, f.seq, 4096 + o.used, n⟩
  let used := o.used + align8 (16 + n)
  let s := bufPut o.token g.off (segHeader g ++ f.bytes.take n ++ zeros (align8 (16 + n) - 16 - n)) s
  let s := modTp t (fun x => { x with
    asm := { x.asm with opn := some { o with used := used, segs := o.segs ++ [g] } }
    yoyo := { x.yoyo with dsBytes := x.yoyo.dsBytes + (used - o.used) }
    idx := { x.idx with
      frozen := if done then none else some ⟨f.bytes.drop n, f.seq + 1, some (f.first.getD o.dsnum), f.covers⟩
      prev := if done then f.first.getD o.dsnum else x.idx.prev
      gen := if done then x.idx.gen + 1 else x.idx.gen
      tables := if done then f.covers.foldl (fun m d => m.set [] d.toNat []) x.idx.tables else x.idx.tables
      emitting := none } }) s
  let s := finish t 6 y.ticket stOk (BitVec.ofNat 32 (n % 2 ^ 31 + 2 ^ 31 * done.toNat)) s
  if payloadRoom - used < 72 then closeDataset t 0 s else s

/-- A valid EMIT: its token names the open dataset, which is of KIND 1 (R360). -/
def emitDs (s : State) (t : Tid) (d : BitVec 256) : Option OpenDs :=
  match (tpOf s t).asm.opn with
  | none => none
  | some o =>
    if descFits d 0 0xFFFFFFFF 0 0 && o.token == (partB d 64 32 : W32) && o.kind == 1 then some o else none

/-- Everything that the first EMIT waits for has been written. -/
def awaitDone (x : Tp) : Bool := x.idx.await.all (dsWritten x)

/-- IDX.EMIT (R360): an EMIT that goes on with an index places its segment; the first one freezes the index, or waits. -/
def idxEmitOp (t : Tid) (s : State) : State :=
  if (tpOf s t).idx.emitting.isSome then s
  else
    onHead t 6 2 3 (fun y s =>
      match emitDs s t y.desc with
      | none => reject t 6 y s
      | some o =>
        match (tpOf s t).idx.frozen with
        | some f => emitSegment t y o f s
        | none =>
          let s := modIdx t (fun i => { i with await := i.objs.map (fun e => e.dsnum), emitting := some y.ticket }) (takeDesc t 6 y.ticket s)
          if awaitDone (tpOf s t) then
            let s := freezeIndex t s
            match (tpOf s t).idx.frozen with
            | some f => emitSegment t y o f s
            | none => s
          else s) s

/-- INDEX_FREEZE: the datasets that the first EMIT waits for have been written (R360). -/
def indexFreezeOp (t : Tid) (s : State) : State :=
  let x := tpOf s t
  match x.idx.emitting with
  | none => s
  | some k =>
    match x.idxP.slots.find? (fun y => y.ticket == k), x.asm.opn with
    | some y, some o =>
      if awaitDone x then
        let s := freezeIndex t s
        match (tpOf s t).idx.frozen with
        | some f => emitSegment t y o f s
        | none => s
      else s
    | _, _ => s

end Sys2Proof.Machine
end

