-- ==== Sys2Proof/Machine/Lanes.lean ====
section
/-! DEFINITION. What the write lanes put on tape (R77-R86, R94, R95): the runs of channel bits of data, directory, rewrite, filler and
mark slots, of fill and of gap fill, lane by lane, and what an underrun leaves of them (R30). -/
namespace Sys2Proof.Machine

/-- Change the write lanes of slice t. -/
def modWl (t : Tid) (f : Wl → Wl) (s : State) : State := modTp t (fun x => { x with wl := f x.wl }) s
/-- Change the verify stage of slice t. -/
def modVfy (t : Tid) (f : Vfy → Vfy) (s : State) : State := modTp t (fun x => { x with vfy := f x.vfy }) s
/-- A tracked dataset of slice t. -/
def dsOf (x : Tp) (n : W32) : Option Ds := x.vfy.ds.find? (fun d => d.dsnum == n)
/-- Change a tracked dataset. -/
def modDs (t : Tid) (n : W32) (f : Ds → Ds) (s : State) : State :=
  modVfy t (fun v => { v with ds := v.ds.map (fun d => if d.dsnum == n then f d else d) }) s

/-! ### Runs and their channel bits -/

/-- Preamble throughout: fill, gap fill, and a track that is not live (R84, R86, R94). -/
def preRun (n : Nat) : LaneRun := { LaneRun.reset with len := n }

/-- A slot: sync pattern, scrambler number and payload of its codeword (R78, R80, R81). -/
def slotRun (pat no : Nat) (data : SMap Byte) : LaneRun := ⟨pat, no, data, slotLen, []⟩

/-- A filler slot (R84). -/
def fillerRun : LaneRun := slotRun 1 scrFiller { }

/-- The channel bits that a run would have without an underrun: the ENC stage scrambles the payload, encodes, modulates and frames it
(R48, R77-R80). -/
def wholeBits (r : LaneRun) : List Bool := if r.pat = 4 then preambleBits r.len else payloadSlot r.pat r.no (r.data.read 0 0 1024)

/-- The channel bits of a run: zeros where the lane underran (R30). -/
def runBits (r : LaneRun) : List Bool :=
  (wholeBits r).zipIdx.map (fun b => b.1 && !r.cut.any (fun c => decide (c.1 ≤ b.2 ∧ b.2 < c.2)))

/-- The channel bits that a lane puts out, in order, from its start offset on (R80, R95). -/
def laneBits (o : LaneOut) : List Bool := o.runs.flatMap runBits

/-! ### Payloads -/

/-- The 1,024 bytes of codeword i of the dataset in a buffer (R48, R66). -/
def rowCells (s : State) (tok : W32) (i : Nat) : SMap Byte :=
  s.mem.hbm.copyTo (tokAddr s tok + rowOff (i / 128) (i % 128)) 1024 { } 0 0

/-- Bytes as the payload of a slot. -/
def bytesCells (l : List Byte) : SMap Byte := ({ } : SMap Byte).write 0 0 l

/-- One entry of a directory: three bytes (R85). -/
def dirEntry (rw : List RwSlot) (lam q : Nat) : List Byte :=
  match rw.find? (fun r => r.lam == lam && r.q == q) with
  | some r => leBytes 3 (r.idx + 2 ^ 13 * r.b + 2 ^ 15 + 2 ^ 16 * r.copy)
  | none => zeros 3

/-- The payload of a directory (R85). -/
def dirPayload (dsnum : W32) (fmtid version nrw n : Nat) (rw : List RwSlot) : List Byte :=
  let body := padTo 1020 (leBytes 4 dirMagic ++ leBytes 4 dsnum.toNat ++ leBytes 2 fmtid ++ leBytes 2 version ++ leBytes 1 nrw
    ++ leBytes 1 n ++ zeros 2 ++ (List.range n).flatMap (fun lam => (List.range nrw).flatMap (dirEntry rw lam)))
  body ++ leBytes 4 (crc32c body).toNat

/-- The payload of a mark (R86). -/
def markPayload (typ fmtid : Nat) (lastds : W32) (wrap nidx : Nat) : List Byte :=
  let body := padTo 1020 (leBytes 4 markMagic ++ leBytes 1 typ ++ zeros 1 ++ leBytes 2 fmtid ++ leBytes 4 lastds.toNat
    ++ leBytes 2 wrap ++ zeros 2 ++ leBytes 4 nidx)
  body ++ leBytes 4 (crc32c body).toNat

/-! ### Lanes -/

/-- Tracks that the head module has: the lanes of the others are in electrical idle (R95). -/
def headTracks (x : Tp) : List Nat := setBits 64 (~~~x.head.missing).toNat

/-- Lay the runs of a descriptor out on every lane whose track the head has: a live track its own, any other preamble for the whole
length; each begins at its WL_LDLY.DELAY (R84, R95). -/
def layOut (s : State) (t : Tid) (mask : W64) (len : Nat) (live : Nat → List LaneRun) : SMap LaneOut :=
  (headTracks (tpOf s t)).foldl (fun m k =>
    m.set LaneOut.reset k ⟨fld s (Reg.wlLdly t k) Fld.wlLdlyDelay,
      match (maskTracks mask).idxOf? k with
      | some lam => live lam
      | none => [preRun len]⟩) { }

/-- The data slots of a logical track: slot 0 with SYNC-A, the others with SYNC-D, filler in unused ones (R81, R82, R84). -/
def dataRuns (s : State) (tok : W32) (n ndat lam : Nat) : List LaneRun :=
  let l := lambdaCws n lam
  (List.range ndat).map (fun m =>
    match l[m]? with
    | some i => slotRun (if m = 0 then 0 else 1) i (rowCells s tok i)
    | none => fillerRun)

/-- The lanes at the start of a WRITE: its data slots (R82); the reserve slots follow when the directory is fixed (R104). -/
def writeLanes (s : State) (t : Tid) (tok : W32) (e : Extent) : SMap LaneOut :=
  layOut s t e.mask (slotLen * (e.ndat + e.nres)) (dataRuns s tok (maskCount e.mask) e.ndat)

/-- The lanes of a MARK: four slots with SYNC-M and the same codeword (R86). -/
def markLanes (s : State) (t : Tid) (mask : W64) (p : List Byte) : SMap LaneOut :=
  layOut s t mask (4 * slotLen) (fun _ => List.replicate 4 (slotRun 3 scrMark (bytesCells p)))

/-- The lanes of a FILL (R86). -/
def fillLanes (s : State) (t : Tid) (frames : Nat) : SMap LaneOut := layOut s t 0 (frameBits * frames) (fun _ => [])

/-- Append runs to the lanes of the live tracks, by logical track. -/
def addRuns (mask : W64) (f : Nat → List LaneRun) (m : SMap LaneOut) : SMap LaneOut :=
  ⟨m.cells.map (fun c =>
    match (maskTracks mask).idxOf? c.1 with
    | some lam => (c.1, { c.2 with runs := c.2.runs ++ f lam })
    | none => c)⟩

/-- The content of a rewrite slot: a copy carries the codeword of its original (R78, R85, R106), from the buffer that holds its dataset;
an unused one filler (R84). -/
def rewriteRun (s : State) (t : Tid) (dsnum : W32) (rw : List RwSlot) (lam q : Nat) : LaneRun :=
  match rw.find? (fun r => r.lam == lam && r.q == q) with
  | none => fillerRun
  | some r =>
    match dsOf (tpOf s t) (dsnum - BitVec.ofNat 32 r.b) with
    | some d => slotRun 1 r.idx (rowCells s d.token r.idx)
    | none => slotRun 1 r.idx { }

/-- The reserve slots of a logical track: the directory with SYNC-X, then the rewrite slots (R81, R83, R85). -/
def reserveRuns (s : State) (t : Tid) (c : WlCur) (e : Extent) (rw : List RwSlot) (lam : Nat) : List LaneRun :=
  let p := dirPayload e.dsnum (bufLe s c.token 4 2) (bufLe s c.token 6 2) (e.nres - 1) (maskCount e.mask) rw
  slotRun 2 scrDirectory (bytesCells p) :: (List.range (e.nres - 1)).map (rewriteRun s t e.dsnum rw lam)

/-- Gap fill of n slot lengths on every lane that writes (R94). -/
def gapLanes (n : Nat) (m : SMap LaneOut) : SMap LaneOut :=
  ⟨m.cells.map (fun c => if n = 0 then c else (c.1, { c.2 with runs := c.2.runs ++ [preRun (slotLen * n)] }))⟩

/-- Zeros from bit position p of a lane's output up to bit q, in the run that holds p (R30). -/
def cutRuns (p q : Nat) : List LaneRun → List LaneRun
  | [] => []
  | r :: l => if p < r.len then { r with cut := r.cut ++ [(p, min q r.len)] } :: l else r :: cutRuns (p - r.len) (q - r.len) l

/-- An underrun in slot m of lane k, at a bit that the spec leaves to the moment: zeros up to the next slot boundary (R30). -/
def cutLane (k m at' : Nat) (o : SMap LaneOut) : SMap LaneOut :=
  ⟨o.cells.map (fun c => if c.1 = k then (c.1, { c.2 with runs := cutRuns (slotLen * m + at' % slotLen) (slotLen * (m + 1)) c.2.runs }) else c)⟩

end Sys2Proof.Machine
end

