-- ==== Sys2Proof/Machine/Tape.lean ====
section
/-! DEFINITION. What stands on the tape of a cartridge (R86-R89): how a recording changes it, where the recorded volume ends, and what
a reader finds in it: the label, the index by PREV, and the datasets beyond the latest index. -/
namespace Sys2Proof.Machine

/-- Change the cartridge of transport t. -/
def modCart (t : Tid) (f : Cart → Cart) (s : State) : State := modTp t (fun x => { x with cart := x.cart.map f }) s

/-! ### Recording (R87, R110) -/

/-- The recording of a stretch of tape, and the index behind it: what stood there is gone, what stands before it stays. Behind an
earlier item of the same recording everything the tape has passed over is overwritten (log entry 37). -/
def layOn (wrap : Nat) (lpos : W32) (frames : Nat) (it : Option TapeItem) (pass : Option Nat) (l : List TapeItem) : List TapeItem × Nat :=
  let past := lpos.toNat + frames
  let before (o : TapeItem) : Bool := decide (o.wrap < wrap) ||
    (o.wrap == wrap && decide (o.lpos.toNat < lpos.toNat ∧ o.lpos.toNat + o.frames ≤ lpos.toNat + 1))
  let gone (o : TapeItem) : Bool := o.wrap == wrap && decide (o.lpos.toNat < past)
  let head := match pass with
    | some n => l.take n
    | none => l.filter before
  let tail := match pass with
    | some n => l.drop n
    | none => l.filter (fun o => !before o)
  (head ++ it.toList ++ tail.filter (fun o => !gone o), (head ++ it.toList).length)

/-- Record an item, or erase a stretch where there is none, on the cartridge of transport t. -/
def record (t : Tid) (wrap : Nat) (lpos : W32) (frames : Nat) (it : Option TapeItem) (s : State) : State :=
  match (tpOf s t).cart with
  | none => s
  | some c =>
    let r := layOn wrap lpos frames it (tpOf s t).wl.pass c.tape
    modWl t (fun w => { w with pass := some r.2 }) (modCart t (fun c => { c with tape := r.1 }) s)

/-- A dataset as it is recorded: its payload up to the last used byte (R66, R67). -/
def dataItem (s : State) (tok : W32) (dsnum : W32) (wrap : Nat) (lpos : W32) (frames : Nat) : TapeItem :=
  ⟨none, dsnum, wrap, lpos, frames, bufGet s tok 0 (4096 + bufLe s tok 0x20 4)⟩

/-! ### What a dataset on tape holds (R67-R69) -/

/-- KIND of a dataset on tape. -/
def itemKind (i : TapeItem) : Nat := leAt i.bytes 0x1D 1

/-- The segments of a payload, from an offset on (R68). -/
def listSegs (l : List Byte) : Nat → Nat → List SegRec
  | 0, _ => []
  | fuel + 1, off =>
    if l.length < off + 16 ∨ leAt l off 2 = 0 then []
    else
      let g : SegRec := ⟨BitVec.ofNat 16 (leAt l off 2), bitOf (leAt l (off + 2) 2) 0, bitOf (leAt l (off + 2) 2) 1,
        BitVec.ofNat 16 (leAt l (off + 4) 2), BitVec.ofNat 32 (leAt l (off + 8) 4), off, leAt l (off + 12) 4⟩
      g :: listSegs l fuel (off + align8 (16 + g.len))

/-- The segments of a dataset on tape. -/
def itemSegs (i : TapeItem) : List SegRec := listSegs i.bytes i.bytes.length 4096

/-- The object entries of a dataset, built from its segment and record headers (R89). -/
def itemObjs (i : TapeItem) : List ObjEnt :=
  ((itemSegs i).filter (fun g => g.typ == 1 && g.first && itemKind i == 0)).map (fun g =>
    ⟨BitVec.ofNat 128 (leAt i.bytes (g.off + 16) 16), i.dsnum, BitVec.ofNat 32 g.off, g.seq, g.scid⟩)

/-- The location of a dataset (R89). -/
def itemLoc (i : TapeItem) : LocEnt := ⟨i.dsnum, BitVec.ofNat 16 i.wrap, i.lpos⟩

/-! ### The recorded volume (R87, R267) -/

/-- The volume label dataset (R88). -/
def isLabel (i : TapeItem) : Bool := i.mark.isNone && i.dsnum == 0 && itemKind i == 3

/-- The label of a cartridge, if it has one. -/
def cartLabel (c : Cart) : Option TapeItem := c.tape.find? isLabel

/-- The first dataset of an index. -/
def isIndex (n : W32) (i : TapeItem) : Bool := i.mark.isNone && i.dsnum == n && itemKind i == 1

/-- What a reader scans: everything from the latest index that cartridge memory names, or from the volume label (R87). -/
def scanned (c : Cart) : List TapeItem :=
  let rest := c.tape.dropWhile (fun i => !isIndex c.idxDs i)
  if c.idxDs ≠ 0xFFFFFFFF ∧ rest ≠ [] then rest else c.tape.dropWhile (fun i => !isLabel i)

/-- A dataset of the DSNUM sequence: calibration datasets lie outside it (R87). -/
def inSequence (i : TapeItem) : Bool := i.mark.isNone && i.dsnum != 0xFFFFFFFF

/-- The datasets that continue the DSNUM sequence from n on, up to the first one that does not (R87). -/
def continuing : W32 → List TapeItem → List TapeItem
  | _, [] => []
  | n, i :: r => if inSequence i then (if i.dsnum = n then i :: continuing (n + 1) r else []) else continuing n r

/-- The end of a volume: datasets from the latest index or the label on, wrap and LPOS of the append position, DSNUM of the last
dataset. -/
structure VolEnd where
  dss : List TapeItem
  wrap : Nat
  lpos : W32
  last : W32
deriving DecidableEq, Repr

/-- Where the recorded volume ends (R87, R267): at the first end-of-data mark behind the latest index, or else behind the last dataset
that continues the DSNUM sequence, at a servo frame boundary. None where there is neither an index nor a label. -/
def volEnd (c : Cart) : Option VolEnd :=
  match scanned c with
  | [] => none
  | i :: r =>
    match r.find? (fun o => o.mark == some 0) with
    | some m => some ⟨(i :: r.takeWhile (fun o => o.mark != some 0)).filter inSequence, m.wrap, m.lpos, m.dsnum⟩
    | none =>
      let l := continuing i.dsnum (i :: r)
      let e := l.getLast?.getD i
      some ⟨l, e.wrap, e.lpos + BitVec.ofNat 32 e.frames, e.dsnum⟩

/-! ### The index (R89) -/

/-- The bytes of an index that begins with dataset n: the index data of the datasets of KIND 1 that follow one another. -/
def indexData (l : List TapeItem) (n : W32) : List Byte :=
  ((l.dropWhile (fun i => !isIndex n i)).takeWhile (fun i => i.mark.isNone && itemKind i == 1)).flatMap (fun i =>
    ((itemSegs i).filter (fun g => g.typ == 2)).flatMap (fun g => cut i.bytes (g.off + 16) g.len))

/-- NOBJ and NLOC of an index. -/
def nObj (l : List Byte) : Nat := leAt l 12 4
def nLoc (l : List Byte) : Nat := leAt l 16 4

/-- MAGIC, ICRC and the trailer of an index are correct. -/
def indexGood (l : List Byte) : Bool :=
  let n := 32 * nObj l + 12 * nLoc l
  leAt l 0 4 == 0x58444945 && leAt l 60 4 == (crc32c (l.take 60)).toNat && leAt l (64 + n) 4 == (crc32c (cut l 64 n)).toNat

/-- Object entries of an index. -/
def indexObjs (l : List Byte) : List ObjEnt :=
  (List.range (nObj l)).map (fun j =>
    let e := cut l (64 + 32 * j) 32
    ⟨BitVec.ofNat 128 (leAt e 0 16), BitVec.ofNat 32 (leAt e 16 4), BitVec.ofNat 32 (leAt e 20 4), BitVec.ofNat 32 (leAt e 24 4),
      BitVec.ofNat 16 (leAt e 28 2)⟩)

/-- Location entries of an index. -/
def indexLocs (l : List Byte) : List LocEnt :=
  (List.range (nLoc l)).map (fun j =>
    let e := cut l (64 + 32 * nObj l + 12 * j) 12
    ⟨BitVec.ofNat 32 (leAt e 0 4), BitVec.ofNat 16 (leAt e 4 2), BitVec.ofNat 32 (leAt e 8 4)⟩)

/-- The full index: the entries of the index that begins with dataset n and of all before it, following PREV, earliest first (R89). -/
def readIndex (l : List TapeItem) : Nat → W32 → List ObjEnt × List LocEnt
  | 0, _ => ([], [])
  | fuel + 1, n =>
    let b := indexData l n
    if n = 0xFFFFFFFF ∨ indexGood b = false then ([], [])
    else
      let r := readIndex l fuel (BitVec.ofNat 32 (leAt b 8 4))
      (r.1 ++ indexObjs b, r.2 ++ indexLocs b)

/-- What the index stage holds after LOAD (R267): the entries of the index, those of the datasets behind it, which no index holds yet,
and the locations of the sequence that no index covers (R89). -/
def loadIndex (c : Cart) : Idx :=
  let ix := readIndex c.tape c.tape.length c.idxDs
  let dss := ((volEnd c).map (fun e => e.dss)).getD []
  let new := (dss.flatMap itemObjs).filter (fun o => !ix.1.contains o)
  let locs := (dss.map itemLoc).filter (fun l => !ix.2.any (fun p => p.dsnum == l.dsnum))
  { Idx.reset with
    known := ix.1 ++ new, objs := new, locs := locs, places := ix.2 ++ locs
    gen := BitVec.ofNat 32 (if indexGood (indexData c.tape c.idxDs) then leAt (indexData c.tape c.idxDs) 4 4 else 0)
    prev := c.idxDs }

/-! ### Datasets that firmware writes (R88, R316) -/

/-- A dataset of one KIND with its segments, encoded for a map (R67). Its close reason is CLOSE (log entry 37). -/
def fwDataset (fmtid version : Nat) (dsnum : W32) (wrap kind : Nat) (mask : W64) (segs : List Byte) (nseg nrec : Nat) : List Byte :=
  let h := leBytes 4 dsMagic ++ leBytes 2 fmtid ++ leBytes 2 version ++ leBytes 4 dsnum.toNat ++ leBytes 2 wrap ++ [15]
    ++ leBytes 1 (maskCount mask) ++ leBytes 8 mask.toNat ++ leBytes 4 0xFFFFFFFF ++ [0] ++ leBytes 1 kind ++ leBytes 2 3
    ++ leBytes 4 segs.length ++ leBytes 4 nseg ++ leBytes 4 nrec
  padTo 4092 h ++ leBytes 4 (crc32c (padTo 4092 h)).toNat ++ segs

/-- One segment with its padding (R68). -/
def fwSegment (typ : Nat) (scid seq : Nat) (l : List Byte) : List Byte :=
  padTo (align8 (16 + l.length)) (segHeader ⟨BitVec.ofNat 16 typ, false, false, BitVec.ofNat 16 scid, BitVec.ofNat 32 seq, 0, l.length⟩ ++ l)

/-- The bytes of an index cut to one segment of a dataset each. -/
def indexParts : Nat → List Byte → List (List Byte)
  | 0, _ => []
  | fuel + 1, l => if l.length ≤ payloadRoom - 16 then [l] else l.take (payloadRoom - 16) :: indexParts fuel (l.drop (payloadRoom - 16))

end Sys2Proof.Machine
end

