-- ==== Sys2Proof/Machine/Calib.lean ====
section
/-! DEFINITION. A calibration pass (R148): the reference bits of the calibration region, the lane pipeline on them, and the adaptation of the
equaliser by LMS. -/
namespace Sys2Proof.Machine

/-! ### The reference generator -/

/-- Payload of codeword i of a calibration dataset: its header, zeros behind it, and the parity rows of R73 (R88). -/
def refRow (head : List Byte) (i : Nat) : List Byte :=
  let u := i / 128
  let r := i % 128
  let row (r : Nat) : List Byte := padTo 1024 (cut head (114688 * u + 1024 * r) 1024)
  if r < 112 then row r
  else (List.range 1024).map (fun j => (rsParity ((List.range 112).map (fun q => (row q).getD j 0))).getD (r - 112) 0)

/-- The runs of one calibration extent on a logical track (R82-R85, R88). -/
def refRuns (head : List Byte) (n lam : Nat) : List LaneRun :=
  let data := (List.range (nDat n)).map (fun m =>
    match (lambdaCws n lam)[m]? with
    | some i => slotRun (if m = 0 then 0 else 1) i (bytesCells (refRow head i))
    | none => fillerRun)
  let dir := dirPayload 0xFFFFFFFF (leAt head 4 2) (leAt head 6 2) (nRes n - 1) n []
  data ++ [slotRun 2 scrDirectory (bytesCells dir)] ++ List.replicate (nRes n - 1) fillerRun

/-- The reference bits of a track over LPOS 0-2,047: calibration extents one after the other on a live track, preamble on any other
(R84, R88); in reverse order on the reverse pass. -/
def refBits (head : List Byte) (k : Nat) (reverse : Bool) : List Bool :=
  let n := 2048 * frameBits
  let mask : W64 := BitVec.ofNat 64 (leAt head 16 8)
  let bits := match (maskTracks mask).idxOf? k with
    | some lam =>
      let e := (refRuns head (maskCount mask) lam).flatMap runBits
      ((List.replicate (n / (slotLen * extentSlots (maskCount mask)) + 1) e).flatten).take n
    | none => preambleBits n
  if reverse then bits.reverse else bits

/-! ### The pass -/

/-- What a pass carries from bit to bit: the loops, the taps in adaptation, the last four reference bits, and the squared errors. -/
structure CalRun where
  loops : Loops
  w : List Rat
  st : Nat
  sq : Rat
  n : Nat

/-- The bits of a pass: each decision is the reference bit; the loops run at tracking gains; the taps move by 2^-10 times error times
sample (R148 step 3). -/
def calBits (c : LaneCfg) (xs : List (BitVec 6)) : List Bool → CalRun → CalRun
  | [], r => r
  | b :: l, r =>
    if c.step ≤ 0 ∨ (xs.length : Rat) ≤ r.loops.phase then r
    else
      let p := r.loops
      let win := (Config.interpolate (xs.map (corrected p.asym)) p.phase :: p.win).take 32
      let y := (List.zipWith (· * ·) r.w win).foldl (· + ·) 0
      let err := idealOf p.target r.st b.toNat - y
      let p := loopStep c false (some b) { p with win := win, eqs := (y :: p.eqs).take 32, phase := p.phase + c.step * (1 + p.freq) }
      calBits c xs l ⟨p, List.zipWith (fun w x => w + err * x / 1024) r.w win, (2 * r.st + b.toNat) % 16, r.sq + err ^ 2, r.n + 1⟩

/-- The result of a lane's pass: final loop values, mean squared error in units of 2^-16 of full scale squared, adapted taps (R148 step
4). It starts from RC_ZDEF and its preset. -/
def calResult (s : State) (t : Tid) (k : Nat) (reverse : Bool) (adc : List (BitVec 6)) (pick : Nat) : CalResult :=
  let e : W32 := BitVec.ofNat 32 (fld s (Reg.rcZdef t) Fld.rcZdefEntry)
  let x := (tpOf s t).rc
  let c : LaneCfg := {
    step := bitStep s t, acq := reg s (Reg.rcAcq t), entry := e, taps := presetTaps x (fieldB e 24 5), target := presetTarget x (fieldB e 24 5)
    fresh := true, framed := true }
  let p := startLoops c Loops.reset
  let r := calBits c adc (refBits x.refHead k reverse) ⟨p, p.taps.map (fun w => (w : Rat) / 2 ^ 14), 0, 0, 0⟩
  { k := k, gain := BitVec.ofInt 8 (openRound r.loops.gain), offset := BitVec.ofInt 8 (openRound r.loops.offset)
    asym := BitVec.ofInt 8 (openRound r.loops.asym)
    mse := BitVec.ofInt 16 (clampInt 0 65535 (openRound (65536 * r.sq / r.n / Config.fullScale ^ 2)))
    taps := r.w.map (fun w => BitVec.ofInt 16 (clampInt (-32768) 32767 (openRound (w * 2 ^ 14)))), preset := pick }

end Sys2Proof.Machine
end

