-- ==== Sys2Proof/Machine/Crypto.lean ====
section
/-! DEFINITION. What an image check needs (R61, R62, R318): the SHA-384 digest and ECDSA P-384 signature verification of FIPS
180-4 and FIPS 186-5, which the spec names and does not repeat (log entry 29). -/
namespace Sys2Proof.Machine

/-! ### SHA-384 (FIPS 180-4) -/

/-- Whether n has no divisor from d on, below fuel steps. -/
def noDivisor (n : Nat) : Nat → Nat → Bool
  | 0, _ => true
  | k + 1, d => if n < d * d then true else if n % d = 0 then false else noDivisor n k (d + 1)

/-- The first n primes from a number on; fuel bounds the search. -/
def primesFrom : Nat → Nat → Nat → List Nat
  | 0, _, _ => []
  | _ + 1, 0, _ => []
  | k + 1, n + 1, p => if noDivisor p p 2 then p :: primesFrom k n (p + 1) else primesFrom k (n + 1) (p + 1)

/-- The first 80 primes. -/
def primes80 : List Nat := primesFrom 500 80 2

/-- The largest r with r^e ≤ n, found bit by bit from bit k down. -/
def rootBits (e n : Nat) : Nat → Nat → Nat
  | 0, r => r
  | k + 1, r => if (r + 2 ^ k) ^ e ≤ n then rootBits e n k (r + 2 ^ k) else rootBits e n k r

/-- The first 64 bits of the fraction of a cube root. -/
def cbrtFrac (p : Nat) : W64 := BitVec.ofNat 64 (rootBits 3 (p * 2 ^ 192) 72 0)

/-- The first 64 bits of the fraction of a square root. -/
def sqrtFrac (p : Nat) : W64 := BitVec.ofNat 64 (rootBits 2 (p * 2 ^ 128) 72 0)

/-- The round constants: of the cube roots of the first 80 primes. -/
def shaK : List W64 := primes80.map cbrtFrac

/-- The initial hash value of SHA-384: of the square roots of the ninth to sixteenth primes. -/
def shaInit : List W64 := ((primes80.drop 8).take 8).map sqrtFrac

/-- The functions of FIPS 180-4, 4.1.3. -/
def shaSum0 (x : W64) : W64 := x.rotateRight 28 ^^^ x.rotateRight 34 ^^^ x.rotateRight 39
/-- Upper sigma 1. -/
def shaSum1 (x : W64) : W64 := x.rotateRight 14 ^^^ x.rotateRight 18 ^^^ x.rotateRight 41
/-- Lower sigma 0. -/
def shaSig0 (x : W64) : W64 := x.rotateRight 1 ^^^ x.rotateRight 8 ^^^ (x >>> 7)
/-- Lower sigma 1. -/
def shaSig1 (x : W64) : W64 := x.rotateRight 19 ^^^ x.rotateRight 61 ^^^ (x >>> 6)

/-- The message schedule: the last 16 words, newest first, give the next one. -/
def shaSchedule : Nat → List W64 → List W64
  | 0, w => w
  | k + 1, w => shaSchedule k ((shaSig1 (w.getD 1 0) + w.getD 6 0 + shaSig0 (w.getD 14 0) + w.getD 15 0) :: w)

/-- One round on the working variables a to h. -/
def shaRound (v : List W64) (kw : W64) : List W64 :=
  match v with
  | [a, b, c, d, e, f, g, h] =>
    let t1 := h + shaSum1 e + ((e &&& f) ^^^ (~~~e &&& g)) + kw
    let t2 := shaSum0 a + ((a &&& b) ^^^ (a &&& c) ^^^ (b &&& c))
    [t1 + t2, a, b, c, d + t1, e, f, g]
  | _ => v

/-- The 64-bit words of a block of 128 bytes. -/
def shaWords (b : List Byte) : List W64 := (List.range 16).map (fun i => BitVec.ofNat 64 (beAt b (8 * i) 8))

/-- One block. -/
def shaBlock (h : List W64) (b : List Byte) : List W64 :=
  let w := (shaSchedule 64 (shaWords b).reverse).reverse
  List.zipWith (· + ·) h ((List.zipWith (· + ·) shaK w).foldl shaRound h)

/-- Blocks of 128 bytes. -/
def shaBlocks : Nat → List W64 → List Byte → List W64
  | 0, h, _ => h
  | n + 1, h, l => shaBlocks n (shaBlock h (l.take 128)) (l.drop 128)

/-- The padded message: 0x80, zeros, and the length in bits in 16 bytes. -/
def shaPad (l : List Byte) : List Byte :=
  let k := (l.length + 17 + 127) / 128 * 128
  l ++ [0x80] ++ zeros (k - l.length - 17) ++ beBytes 16 (8 * l.length)

/-- The SHA-384 digest as a number. -/
def sha384 (l : List Byte) : Nat :=
  let m := shaPad l
  ((shaBlocks (m.length / 128) shaInit m).take 6).foldl (fun a w => a * 2 ^ 64 + w.toNat) 0

/-! ### ECDSA P-384 (FIPS 186-5, SP 800-186) -/

/-- The prime of the field. -/
def ecP : Nat := 2 ^ 384 - 2 ^ 128 - 2 ^ 96 + 2 ^ 32 - 1
/-- The order of the base point. -/
def ecN : Nat := 0xffffffffffffffffffffffffffffffffffffffffffffffffc7634d81f4372ddf581a0db248b0a77aecec196accc52973
/-- The coefficient b. -/
def ecB : Nat := 0xb3312fa7e23ee7e4988e056be3f82d19181d9c6efe8141120314088f5013875ac656398d8a2ed19d2a85c8edd3ec2aef
/-- The base point. -/
def ecG : Nat × Nat :=
  (0xaa87ca22be8b05378eb1c71ef320ad746e1d3b628ba79b9859f741e082542a385502f25dbf55296c3a545e3872760ab7,
   0x3617de4a96262c6f5d9e98bf9292dc29f8f41dbd289a147ce9da3113b5f0b8c00a60b1ce1d7e819d7a431d7c90ea0e5f)

/-- b^e mod m, over the low k bits of e from the top. -/
def powMod (b m e : Nat) : Nat → Nat → Nat
  | 0, a => a
  | k + 1, a => powMod b m e k (if bitOf e k then a * a % m * b % m else a * a % m)

/-- The inverse modulo a prime below 2^384. -/
def invMod (x m : Nat) : Nat := powMod x m (m - 2) 384 1

/-- Subtraction modulo the field's prime. -/
def subP (a b : Nat) : Nat := (a + (ecP - b % ecP)) % ecP

/-- A point in Jacobian coordinates; Z = 0 is the point at infinity. -/
structure JPoint where
  x : Nat
  y : Nat
  z : Nat
deriving DecidableEq, Repr

/-- Twice a point (a = -3). -/
def ecDouble (q : JPoint) : JPoint :=
  if q.z = 0 ∨ q.y = 0 then ⟨1, 1, 0⟩
  else
    let z2 := q.z * q.z % ecP
    let y2 := q.y * q.y % ecP
    let v := 4 * q.x * y2 % ecP
    let m := 3 * (subP q.x z2 * ((q.x + z2) % ecP) % ecP) % ecP
    let x := subP (m * m % ecP) (2 * v)
    ⟨x, subP (m * subP v x % ecP) (8 * (y2 * y2 % ecP)), 2 * q.y * q.z % ecP⟩

/-- The sum of two points. -/
def ecAdd (q r : JPoint) : JPoint :=
  if q.z = 0 then r
  else if r.z = 0 then q
  else
    let z1 := q.z * q.z % ecP
    let z2 := r.z * r.z % ecP
    let u1 := q.x * z2 % ecP
    let u2 := r.x * z1 % ecP
    let s1 := q.y * z2 % ecP * r.z % ecP
    let s2 := r.y * z1 % ecP * q.z % ecP
    if u1 = u2 then (if s1 = s2 then ecDouble q else ⟨1, 1, 0⟩)
    else
      let h := subP u2 u1
      let d := subP s2 s1
      let h2 := h * h % ecP
      let h3 := h2 * h % ecP
      let v := u1 * h2 % ecP
      let x := subP (subP (d * d % ecP) h3) (2 * v)
      ⟨x, subP (d * subP v x % ecP) (s1 * h3 % ecP), h * q.z % ecP * r.z % ecP⟩

/-- k times a point, over the low n bits of k from the top. -/
def ecMul (k : Nat) (q : JPoint) : Nat → JPoint → JPoint
  | 0, a => a
  | n + 1, a => ecMul k q n (if bitOf k n then ecAdd (ecDouble a) q else ecDouble a)

/-- Whether a point lies on the curve. -/
def onCurve (x y : Nat) : Bool :=
  decide (x < ecP ∧ y < ecP) && y * y % ecP == (x * x % ecP * x + (ecP - 3) * x + ecB) % ecP

/-- Whether (r, s) is a signature of a digest under the public key (x, y). -/
def ecdsaGood (digest x y r s : Nat) : Bool :=
  if 0 < r ∧ r < ecN ∧ 0 < s ∧ s < ecN ∧ onCurve x y = true then
    let w := invMod s ecN
    let q := ecAdd (ecMul (digest * w % ecN) ⟨ecG.1, ecG.2, 1⟩ 384 ⟨1, 1, 0⟩) (ecMul (r * w % ecN) ⟨x, y, 1⟩ 384 ⟨1, 1, 0⟩)
    let i := invMod q.z ecP
    decide (q.z ≠ 0) && q.x * (i * i % ecP) % ecP % ecN == r
  else false

end Sys2Proof.Machine
end

