-- ==== Sys2Proof/Machine/RhovalDecode.lean ====
section
/-! DEFINITION. Rhoval instruction words: the formats of R39, the opcodes of R40 and R59, decoding and encoding, and the
encodings that are illegal whatever the machine's state (R38, R41, R42, R43). -/
namespace Sys2Proof.Machine

/-- Rhoval-F opcodes of formats I and W (R40). -/
inductive FOp where
  | addi | andi | ori | xori | slti | sltiu | lui | slli | srli | srai | ld | st | lw | sw | dld | dst | dins | dext
  | dclr | jal | jalr | wait | evclr | post | bar | mfs | mts | eret | brk | halt
deriving DecidableEq, Repr

/-- Rhoval-F opcodes of format B (R40). -/
inductive FBr where
  | beq | bne | blt | bge | bltu | bgeu
deriving DecidableEq, Repr

/-- Rhoval-F opcodes of format S (R40). -/
inductive FSt where
  | issue | pop
deriving DecidableEq, Repr

/-- A Rhoval-F instruction with its fields (R39). -/
inductive FInstr where
  | reg (rd ra rb : BitVec 5) (func : BitVec 11)
  | imm (op : FOp) (rd ra : BitVec 5) (imm : BitVec 16)
  | stage (op : FSt) (port : BitVec 4) (dreg : BitVec 3) (rt : BitVec 5) (nb : Bool) (zero : BitVec 13)
  | branch (op : FBr) (ra rb : BitVec 5) (imm : BitVec 16)
deriving DecidableEq, Repr

/-- The major opcode of an I or W format mnemonic (R40). -/
def fOpCode : FOp → BitVec 6
  | .addi => 0x01 | .andi => 0x02 | .ori => 0x03 | .xori => 0x04 | .slti => 0x05 | .sltiu => 0x06 | .lui => 0x07
  | .slli => 0x08 | .srli => 0x09 | .srai => 0x0A | .ld => 0x0B | .st => 0x0C | .lw => 0x0D | .sw => 0x0E
  | .dld => 0x10 | .dst => 0x11 | .dins => 0x12 | .dext => 0x13 | .dclr => 0x14 | .jal => 0x26 | .jalr => 0x27
  | .wait => 0x28 | .evclr => 0x29 | .post => 0x2A | .bar => 0x2B | .mfs => 0x30 | .mts => 0x31 | .eret => 0x38
  | .brk => 0x39 | .halt => 0x3F

/-- The major opcode of a branch (R40). -/
def fBrCode : FBr → BitVec 6
  | .beq => 0x20 | .bne => 0x21 | .blt => 0x22 | .bge => 0x23 | .bltu => 0x24 | .bgeu => 0x25

/-- The instruction word (R39). -/
def encodeF : FInstr → W32
  | .reg rd ra rb func => (0x00 : BitVec 6) ++ rd ++ ra ++ rb ++ func
  | .imm op rd ra imm => fOpCode op ++ rd ++ ra ++ imm
  | .stage .issue port dreg rt nb zero => (0x18 : BitVec 6) ++ port ++ dreg ++ rt ++ BitVec.ofBool nb ++ zero
  | .stage .pop port dreg rt nb zero => (0x19 : BitVec 6) ++ port ++ dreg ++ rt ++ BitVec.ofBool nb ++ zero
  | .branch op ra rb imm => fBrCode op ++ ra ++ rb ++ imm

/-- What the major opcode of a word means (R40). -/
inductive FKind where
  | reg
  | imm (op : FOp)
  | stage (op : FSt)
  | branch (op : FBr)
deriving DecidableEq, Repr

/-- The opcode table of Rhoval-F (R40); none = undefined major opcode. -/
def fKind (op : BitVec 6) : Option FKind :=
  match op.toNat with
  | 0x00 => some .reg
  | 0x01 => some (.imm .addi)
  | 0x02 => some (.imm .andi)
  | 0x03 => some (.imm .ori)
  | 0x04 => some (.imm .xori)
  | 0x05 => some (.imm .slti)
  | 0x06 => some (.imm .sltiu)
  | 0x07 => some (.imm .lui)
  | 0x08 => some (.imm .slli)
  | 0x09 => some (.imm .srli)
  | 0x0A => some (.imm .srai)
  | 0x0B => some (.imm .ld)
  | 0x0C => some (.imm .st)
  | 0x0D => some (.imm .lw)
  | 0x0E => some (.imm .sw)
  | 0x10 => some (.imm .dld)
  | 0x11 => some (.imm .dst)
  | 0x12 => some (.imm .dins)
  | 0x13 => some (.imm .dext)
  | 0x14 => some (.imm .dclr)
  | 0x18 => some (.stage .issue)
  | 0x19 => some (.stage .pop)
  | 0x20 => some (.branch .beq)
  | 0x21 => some (.branch .bne)
  | 0x22 => some (.branch .blt)
  | 0x23 => some (.branch .bge)
  | 0x24 => some (.branch .bltu)
  | 0x25 => some (.branch .bgeu)
  | 0x26 => some (.imm .jal)
  | 0x27 => some (.imm .jalr)
  | 0x28 => some (.imm .wait)
  | 0x29 => some (.imm .evclr)
  | 0x2A => some (.imm .post)
  | 0x2B => some (.imm .bar)
  | 0x30 => some (.imm .mfs)
  | 0x31 => some (.imm .mts)
  | 0x38 => some (.imm .eret)
  | 0x39 => some (.imm .brk)
  | 0x3F => some (.imm .halt)
  | _ => none

/-- The fields of an instruction word whose major opcode is known (R39). -/
def fFields (k : FKind) (w : W32) : FInstr :=
  match k with
  | .reg => .reg (w.extractLsb' 21 5) (w.extractLsb' 16 5) (w.extractLsb' 11 5) (w.extractLsb' 0 11)
  | .imm op => .imm op (w.extractLsb' 21 5) (w.extractLsb' 16 5) (w.extractLsb' 0 16)
  | .stage op =>
    .stage op (w.extractLsb' 22 4) (w.extractLsb' 19 3) (w.extractLsb' 14 5) (w.getLsbD 13) (w.extractLsb' 0 13)
  | .branch op => .branch op (w.extractLsb' 21 5) (w.extractLsb' 16 5) (w.extractLsb' 0 16)

/-- The Rhoval-F instruction of a word; none where the major opcode is undefined (R38, R39). -/
def decodeF (w : W32) : Option FInstr := (fKind (w.extractLsb' 26 6)).map (fun k => fFields k w)

/-- Function codes of the ALU table (R40). -/
def fFuncOk (func : BitVec 11) : Bool := decide (func.toNat ≤ 0x012)

/-- Whether a Rhoval-F instruction is legal whatever the state: function code and zero fields (R38, R40), field bounds
of DINS and DEXT (R41), special-register numbers and access (R42), stage ports (R43). -/
def legalF : FInstr → Bool
  | .reg _ _ rb func => fFuncOk func && (decide (func.toNat < 0x010) || rb == 0)
  | .imm .lui _ ra _ => ra == 0
  | .imm .slli _ _ imm => fieldB imm 6 10 == 0
  | .imm .dld rd _ _ => fieldB rd 3 2 == 0
  | .imm .dins _ _ imm => decide (fieldB imm 0 8 + fieldB imm 8 6 + 1 ≤ 256) && fieldB imm 14 2 == 0
  | .imm .dext _ _ imm => decide (fieldB imm 0 8 + fieldB imm 8 6 + 1 ≤ 256) && fieldB imm 14 2 == 0
  | .imm .dclr _ ra imm => ra == 0 && imm == 0
  | .imm .jal _ ra _ => ra == 0
  | .imm .evclr rd _ imm => rd == 0 && imm == 0
  | .imm .post rd _ imm => rd == 0 && imm == 0
  | .imm .mfs _ ra imm => ra == 0 && decide (imm.toNat < 16)
  | .imm .mts rd _ imm => rd == 0 && (imm.toNat == 2 || imm.toNat == 4 || imm.toNat == 5 || imm.toNat == 9)
  | .imm .eret rd ra imm => rd == 0 && ra == 0 && imm == 0
  | .imm .brk rd ra imm => rd == 0 && ra == 0 && imm == 0
  | .imm .halt rd ra imm => rd == 0 && ra == 0 && imm == 0
  | .imm _ _ _ _ => true
  | .stage .issue port _ _ _ zero => decide (port.toNat < 9) && zero == 0
  | .stage .pop port dreg _ _ zero => decide (port.toNat < 9) && dreg == 0 && zero == 0
  | .branch _ _ _ _ => true

/-- Rhoval-L opcodes of formats I and W (R59). -/
inductive LOp where
  | addis | ldi | ldhi | lds | sts | lin | lout | rdacc | ldacc | clamp | rcl | rcu | lend
deriving DecidableEq, Repr

/-- Rhoval-L opcodes of format M (R59). -/
inductive LMul where
  | mac | msu | macz
deriving DecidableEq, Repr

/-- Rhoval-L opcodes of format B (R59). -/
inductive LBr where
  | beq | bne | blt | bge | bsat | bnsat
deriving DecidableEq, Repr

/-- A Rhoval-L instruction with its fields (R39, R59). -/
inductive LInstr where
  | reg (rd ra rb : BitVec 5) (func : BitVec 11)
  | imm (op : LOp) (rd ra : BitVec 5) (imm : BitVec 16)
  | mul (op : LMul) (acc : Bool) (va : BitVec 5) (cidx : BitVec 6) (zero : BitVec 14)
  | branch (op : LBr) (ra rb : BitVec 5) (imm : BitVec 16)
deriving DecidableEq, Repr

/-- The major opcode of an I or W format mnemonic of Rhoval-L (R59). -/
def lOpCode : LOp → BitVec 6
  | .addis => 0x01 | .ldi => 0x02 | .ldhi => 0x03 | .lds => 0x04 | .sts => 0x05 | .lin => 0x06 | .lout => 0x07
  | .rdacc => 0x08 | .ldacc => 0x09 | .clamp => 0x0A | .rcl => 0x0B | .rcu => 0x0C | .lend => 0x28

/-- The major opcode of an M format mnemonic (R59). -/
def lMulCode : LMul → BitVec 6
  | .mac => 0x10 | .msu => 0x11 | .macz => 0x12

/-- The major opcode of a branch of Rhoval-L (R59). -/
def lBrCode : LBr → BitVec 6
  | .beq => 0x20 | .bne => 0x21 | .blt => 0x22 | .bge => 0x23 | .bsat => 0x24 | .bnsat => 0x25

/-- The instruction word of a Rhoval-L instruction (R39, R59). -/
def encodeL : LInstr → W32
  | .reg rd ra rb func => (0x00 : BitVec 6) ++ rd ++ ra ++ rb ++ func
  | .imm op rd ra imm => lOpCode op ++ rd ++ ra ++ imm
  | .mul op acc va cidx zero => lMulCode op ++ BitVec.ofBool acc ++ va ++ cidx ++ zero
  | .branch op ra rb imm => lBrCode op ++ ra ++ rb ++ imm

/-- What the major opcode of a Rhoval-L word means (R59). -/
inductive LKind where
  | reg
  | imm (op : LOp)
  | mul (op : LMul)
  | branch (op : LBr)
deriving DecidableEq, Repr

/-- The opcode table of Rhoval-L (R59); none = undefined major opcode. -/
def lKind (op : BitVec 6) : Option LKind :=
  match op.toNat with
  | 0x00 => some .reg
  | 0x01 => some (.imm .addis)
  | 0x02 => some (.imm .ldi)
  | 0x03 => some (.imm .ldhi)
  | 0x04 => some (.imm .lds)
  | 0x05 => some (.imm .sts)
  | 0x06 => some (.imm .lin)
  | 0x07 => some (.imm .lout)
  | 0x08 => some (.imm .rdacc)
  | 0x09 => some (.imm .ldacc)
  | 0x0A => some (.imm .clamp)
  | 0x0B => some (.imm .rcl)
  | 0x0C => some (.imm .rcu)
  | 0x10 => some (.mul .mac)
  | 0x11 => some (.mul .msu)
  | 0x12 => some (.mul .macz)
  | 0x20 => some (.branch .beq)
  | 0x21 => some (.branch .bne)
  | 0x22 => some (.branch .blt)
  | 0x23 => some (.branch .bge)
  | 0x24 => some (.branch .bsat)
  | 0x25 => some (.branch .bnsat)
  | 0x28 => some (.imm .lend)
  | _ => none

/-- The fields of a Rhoval-L word whose major opcode is known (R39). -/
def lFields (k : LKind) (w : W32) : LInstr :=
  match k with
  | .reg => .reg (w.extractLsb' 21 5) (w.extractLsb' 16 5) (w.extractLsb' 11 5) (w.extractLsb' 0 11)
  | .imm op => .imm op (w.extractLsb' 21 5) (w.extractLsb' 16 5) (w.extractLsb' 0 16)
  | .mul op => .mul op (w.getLsbD 25) (w.extractLsb' 20 5) (w.extractLsb' 14 6) (w.extractLsb' 0 14)
  | .branch op => .branch op (w.extractLsb' 21 5) (w.extractLsb' 16 5) (w.extractLsb' 0 16)

/-- The Rhoval-L instruction of a word; none where the major opcode is undefined (R38, R39). -/
def decodeL (w : W32) : Option LInstr := (lKind (w.extractLsb' 26 6)).map (fun k => lFields k w)

/-- Whether a Rhoval-L instruction is legal (R38, R39, R59); hasRc: the loop has a repetitive controller. -/
def legalL (hasRc : Bool) : LInstr → Bool
  | .reg _ _ rb func => decide (func.toNat ≤ 0x009) && (func.toNat != 0x007 || rb == 0)
  | .imm .ldi _ ra _ => ra == 0
  | .imm .lds _ ra _ => ra == 0
  | .imm .lin _ ra _ => ra == 0
  | .imm .rdacc _ ra _ => ra == 0
  | .imm .sts rd _ _ => rd == 0
  | .imm .lout rd _ _ => rd == 0
  | .imm .clamp _ _ imm => decide (fieldB imm 0 6 ≤ 62)
  | .imm .rcl _ ra _ => hasRc && ra == 0
  | .imm .rcu rd _ _ => hasRc && rd == 0
  | .imm .lend rd ra imm => rd == 0 && ra == 0 && imm == 0
  | .imm _ _ _ _ => true
  | .mul _ _ _ _ zero => zero == 0
  | .branch .bsat ra rb imm => ra == 0 && rb == 0 && decide (1 ≤ imm.toInt)
  | .branch .bnsat ra rb imm => ra == 0 && rb == 0 && decide (1 ≤ imm.toInt)
  | .branch _ _ _ imm => decide (1 ≤ imm.toInt)

end Sys2Proof.Machine
end

