-- ==== Sys2Proof/Machine/Deflate.lean ====
section
/-! DEFINITION. The coded formats (R162, R163): bits, Huffman codes, the length and distance alphabets, the decoder that a decompression
engine runs (R175-R178) and the blocks that a compression engine emits (R164-R166, R170, R171, R174). What an engine found, its matches
and the code lengths of a dynamic block, is the operand Coding; everything else is computed here. -/
namespace Sys2Proof.Machine

/-! ### Bits -/

/-- The low n bits of a number, least significant first. -/
def bitList (n v : Nat) : List Bool := (List.range n).map (fun i => v.testBit i)

/-- The number that bits spell, least significant first. -/
def streamNat : List Bool → Nat
  | [] => 0
  | b :: l => b.toNat + 2 * streamNat l

/-- The bits of bytes in the order of a stream. -/
def streamBits (l : List Byte) : List Bool := l.flatMap (fun b => bitList 8 b.toNat)

/-- The first n bytes that bits fill. -/
def packBits : Nat → List Bool → List Byte
  | 0, _ => []
  | n + 1, l => BitVec.ofNat 8 (streamNat (l.take 8)) :: packBits n (l.drop 8)

/-- Bits up to the next byte boundary. -/
def padBits (pos : Nat) : Nat := (8 - pos % 8) % 8

/-! ### Huffman codes (RFC 1951) -/

/-- How many codes have a length. -/
def lenCount (lens : List Nat) (l : Nat) : Nat := if l = 0 then 0 else (lens.filter (fun x => x == l)).length

/-- The first code of a length. -/
def firstCode (lens : List Nat) : Nat → Nat
  | 0 => 0
  | l + 1 => 2 * (firstCode lens l + lenCount lens l)

/-- The code of a symbol, most significant bit first; none where the symbol has no code. -/
def huffBits (lens : List Nat) (sym : Nat) : List Bool :=
  let l := lens.getD sym 0
  (bitList l (firstCode lens l + ((lens.take sym).filter (fun x => x == l)).length)).reverse

/-- The symbols of a length, rising. -/
def symsOf (lens : List Nat) (l : Nat) : List Nat := (List.range lens.length).filter (fun i => lens.getD i 0 == l)

/-- Code space that lengths use, of 2^15. -/
def codeSpace (lens : List Nat) : Nat := ((lens.filter (fun l => l != 0)).map (fun l => 2 ^ (15 - l))).foldl (· + ·) 0

/-- Lengths that fill the code space exactly. -/
def codesFull (lens : List Nat) : Bool := lens.all (fun l => decide (l ≤ 15)) && codeSpace lens == 2 ^ 15

/-- Distance lengths that RFC 1951 permits: full, one code of one bit, or none at all. -/
def distCodes (lens : List Nat) : Bool :=
  codesFull lens || lens.all (fun l => l == 0) || (lens.filter (fun l => l != 0)) == [1]

/-- What reading from bits gives: a value and the bits left, not enough bits, or an error. -/
inductive Get (α : Type) where
  | got (a : α) (rest : List Bool)
  | more
  | bad

/-- Go on where a value was got. -/
def Get.next {α β : Type} (g : Get α) (f : α → List Bool → Get β) : Get β := match g with
  | .got a r => f a r
  | .more => .more
  | .bad => .bad

/-- Read n bits as a number. -/
def getBits (n : Nat) (l : List Bool) : Get Nat :=
  if (l.take n).length < n then .more else .got (streamNat (l.take n)) (l.drop n)

/-- Read a symbol, from codes of length l on; code is the bits so far, first the first code of length l. -/
def huffFrom (lens : List Nat) : Nat → Nat → Nat → Nat → List Bool → Get Nat
  | 0, _, _, _, _ => .bad
  | _ + 1, _, _, _, [] => .more
  | fuel + 1, l, code, first, b :: r =>
    let code := 2 * code + b.toNat
    let syms := symsOf lens l
    if code < first + syms.length then .got (syms.getD (code - first) 0) r
    else huffFrom lens fuel (l + 1) code (2 * (first + syms.length)) r

/-- Read a symbol. -/
def getSym (lens : List Nat) (l : List Bool) : Get Nat := huffFrom lens 15 1 0 0 l

/-! ### Lengths and distances (R163) -/

/-- Base length of codes 257-285. -/
def lenBases : List Nat :=
  [3, 4, 5, 6, 7, 8, 9, 10, 11, 13, 15, 17, 19, 23, 27, 31, 35, 43, 51, 59, 67, 83, 99, 115, 131, 163, 195, 227, 258]

/-- Extra bits of length code 257 + i. -/
def lenExtra (i : Nat) : Nat := if i < 4 ∨ i = 28 then 0 else i / 4 - 1

/-- Extra bits of a distance code. -/
def distExtra (c : Nat) : Nat := if c < 2 then 0 else c / 2 - 1

/-- Base distance of a code. -/
def distBase (c : Nat) : Nat := if c < 2 then c + 1 else 2 ^ (c / 2) + c % 2 * 2 ^ (c / 2 - 1) + 1

/-- Distance codes of a mode: those that carry a distance (R163, R178). -/
def distCodesOf (long : Bool) : Nat := if long then 40 else 30

/-- The last index below n whose value by f is at most v. -/
def lastFit (f : Nat → Nat) (n v : Nat) : Nat := ((List.range n).filter (fun i => decide (f i ≤ v))).length - 1

/-- Index of the length code of a match length. -/
def lenCode (n : Nat) : Nat := lastFit (fun i => lenBases.getD i 0) 29 n

/-- The distance code of a distance. -/
def distCode (d : Nat) : Nat := lastFit distBase 40 d

/-- Literal/length codes of a static block. -/
def staticLits : List Nat := List.replicate 144 8 ++ List.replicate 112 9 ++ List.replicate 24 7 ++ List.replicate 8 8

/-- Distance codes of a static block (R163). -/
def staticDists (long : Bool) : List Nat := if long then List.replicate 40 6 else List.replicate 32 5

/-- The order in which a dynamic header carries the lengths of the code-length code. -/
def clOrder : List Nat := [16, 17, 18, 0, 8, 7, 9, 6, 10, 5, 11, 4, 12, 3, 13, 2, 14, 1, 15]

/-- Code lengths of the code-length code, from those carried in the order. -/
def clLens (carried : List Nat) : List Nat := (List.range 19).map (fun s => carried.getD (clOrder.idxOf s) 0)

/-! ### The decoder (R162, R163, R175, R178) -/

/-- Read n lengths by the code-length code; acc holds those read, latest first. -/
def getLens (cl : List Nat) : Nat → Nat → List Nat → List Bool → Get (List Nat)
  | 0, _, _, _ => .bad
  | _ + 1, 0, acc, l => .got acc.reverse l
  | fuel + 1, n + 1, acc, l =>
    (getSym cl l).next (fun s l =>
      if s < 16 then getLens cl fuel n (s :: acc) l
      else
        (getBits (if s = 16 then 2 else if s = 17 then 3 else 7) l).next (fun x l =>
          let k := x + if s = 18 then 11 else 3
          match s, acc with
          | 16, [] => .bad
          | 16, v :: _ => if n + 1 < k then .bad else getLens cl fuel (n + 1 - k) (List.replicate k v ++ acc) l
          | _, _ => if n + 1 < k then .bad else getLens cl fuel (n + 1 - k) (List.replicate k 0 ++ acc) l))

/-- Read n numbers of 3 bits. -/
def getThrees : Nat → List Bool → Get (List Nat)
  | 0, l => .got [] l
  | n + 1, l => (getBits 3 l).next (fun x l => (getThrees n l).next (fun r l => .got (x :: r) l))

/-- Read the code-length header of a dynamic block: HLIT, HDIST (6 bits in long-window mode), HCLEN and the lengths. -/
def getTables (long : Bool) (l : List Bool) : Get (List Nat × List Nat) :=
  (getBits 5 l).next (fun hlit l => (getBits (if long then 6 else 5) l).next (fun hdist l => (getBits 4 l).next (fun hclen l =>
    (getThrees (hclen + 4) l).next (fun c l =>
      let cl := clLens c
      let nl := hlit + 257
      let nd := hdist + 1
      if 286 < nl ∨ (long = true ∧ 40 < nd) ∨ codesFull cl = false then .bad
      else (getLens cl (nl + nd + 1) (nl + nd) [] l).next (fun x l =>
        if codesFull (x.take nl) && distCodes (x.drop nl) then .got (x.take nl, x.drop nl) l else .bad)))))

/-- Read a block header; pos is the place of the bits in the record's coded bits. Answers the decoder in the block. -/
def getBlock (long : Bool) (pos : Nat) (d : Dec) (l : List Bool) : Get Dec :=
  (getBits 1 l).next (fun fin l => (getBits 2 l).next (fun typ l =>
    let d := { d with final := fin == 1 }
    match typ with
    | 0 => (getBits (padBits (pos + 3)) l).next (fun _ l => (getBits 16 l).next (fun n l => (getBits 16 l).next (fun m l =>
        if n + m = 65535 then .got { d with typ := 1, left := n } l else .bad)))
    | 1 => .got { d with typ := 2, ll := staticLits, dl := staticDists long } l
    | 2 => (getTables long l).next (fun t l => .got { d with typ := 3, ll := t.1, dl := t.2 } l)
    | _ => .bad))

/-- Read the rest of a match: the distance must lie in the window and the history. -/
def getMatch (long : Bool) (far : Nat) (d : Dec) (i : Nat) (l : List Bool) : Get Dec :=
  (getBits (lenExtra i) l).next (fun x l => (getSym d.dl l).next (fun c l =>
    if distCodesOf long ≤ c then .bad
    else (getBits (distExtra c) l).next (fun y l =>
      if far < distBase c + y then .bad else .got { d with rest := lenBases.getD i 0 + x, dist := distBase c + y } l)))

/-- What one symbol does to the decoder: a literal byte, or a new state. -/
def getCoded (long : Bool) (far : Nat) (d : Dec) (l : List Bool) : Get (Option Byte × Dec) :=
  (getSym d.ll l).next (fun s l =>
    if s < 256 then .got (some (BitVec.ofNat 8 s), d) l
    else if s = 256 then .got (none, { d with typ := 0 }) l
    else if s < 286 then (getMatch long far d (s - 257) l).next (fun d l => .got (none, d) l)
    else .bad)

/-- Why a decoder stopped (R178). -/
inductive DecEnd where
  | ended | input | output | guard | bad
deriving DecidableEq, Repr

/-- What a decoding job works with: the mode, the window, the ratio guard, the room for output, whether a trailer follows, and the
history before the job, latest byte first. -/
structure DecEnv where
  long : Bool
  win : Nat
  guard : Nat
  room : Nat
  trl : Bool
  hist : List Byte
deriving DecidableEq, Repr

/-- A decoding job on its way: the decoder, the bits not yet consumed, and this job's output, latest first, with its length. -/
structure DecRun where
  d : Dec
  bits : List Bool
  out : List Byte
  n : Nat
deriving DecidableEq, Repr

/-- The bits of an element are consumed, up to those left. -/
def DecRun.eat (r : DecRun) (d : Dec) (rest : List Bool) : DecRun := { r with d := { d with bits := d.bits + (r.bits.length - rest.length) }, bits := rest }

/-- A byte is produced: room and the ratio guard are looked at first (R177). r is the run with the byte's bits consumed. -/
def putByte (e : DecEnv) (r : DecRun) (b : Byte) : DecRun ⊕ DecEnd :=
  if e.room ≤ r.n then .inr .output
  else if e.guard * ceilDiv r.d.bits 8 < r.d.out + 1 then .inr .guard
  else .inl { r with d := { r.d with out := r.d.out + 1 }, out := b :: r.out, n := r.n + 1 }

/-- What reading gave, as the run's next step. -/
def Get.step {α : Type} (g : Get α) (f : α → List Bool → DecRun ⊕ DecEnd) : DecRun ⊕ DecEnd := match g with
  | .got a r => f a r
  | .more => .inr .input
  | .bad => .inr .bad

/-- One step of the decoder: a byte of a match or of a stored block, a symbol, a block header, the padding after the final block, or a
byte of the trailer. -/
def decStep (e : DecEnv) (r : DecRun) : DecRun ⊕ DecEnd :=
  let d := r.d
  if 0 < d.rest then
    match (r.out ++ e.hist)[d.dist - 1]? with
    | some b => putByte e { r with d := { d with rest := d.rest - 1 } } b
    | none => .inr .bad
  else if d.typ = 1 then
    if d.left = 0 then .inl { r with d := { d with typ := 0 } }
    else (getBits 8 r.bits).step (fun x l => putByte e (r.eat { d with left := d.left - 1 } l) (BitVec.ofNat 8 x))
  else if d.typ = 2 ∨ d.typ = 3 then
    (getCoded e.long (min (2 ^ e.win) (r.n + e.hist.length)) d r.bits).step (fun x l => match x.1 with
      | some b => putByte e (r.eat x.2 l) b
      | none => .inl (r.eat x.2 l))
  else if d.typ = 4 then
    if !e.trl || d.trl.length == 16 then .inr .ended
    else (getBits 8 r.bits).step (fun x l => .inl { r with d := { d with trl := d.trl ++ [BitVec.ofNat 8 x] }, bits := l })
  else if d.final then
    (getBits (padBits d.bits) r.bits).step (fun _ l => .inl (r.eat { d with typ := 4 } l))
  else (getBlock e.long d.bits d r.bits).step (fun d l => .inl (r.eat d l))

/-- Run the decoder to its stop; fuel bounds the steps. -/
def decFrom (e : DecEnv) : Nat → DecRun → DecRun × DecEnd
  | 0, r => (r, .input)
  | n + 1, r => match decStep e r with
    | .inl r' => decFrom e n r'
    | .inr x => (r, x)

/-- Decode the bits of a job. Every step but the end of a stored block consumes a bit or makes a byte. -/
def decode (e : DecEnv) (d : Dec) (bits : List Bool) : DecRun × DecEnd := decFrom e (2 * (bits.length + e.room) + 64) ⟨d, bits, [], 0⟩

/-! ### Symbols of a block (R162, R163) -/

/-- A match of n bytes at distance d copies exactly the next n input bytes, none of them from a poisoned range (R168). past holds the
bytes before, latest first, each with whether it is poisoned. -/
def copyFits : Nat → Nat → List (Byte × Bool) → List (Byte × Bool) → Option (List (Byte × Bool) × List (Byte × Bool))
  | 0, _, past, input => some (past, input)
  | _ + 1, _, _, [] => none
  | n + 1, d, past, b :: input => match past[d - 1]? with
    | some p => if p.1 = b.1 ∧ p.2 = false then copyFits n d (b :: past) input else none
    | none => none

/-- The matches an engine found code the input: each within the window and the bytes its hash table reaches (R160, R163). reach counts
the bytes before the resume position that are in the table. -/
def copiesFit (win reach : Nat) : List (Option (Nat × Nat)) → List (Byte × Bool) → List (Byte × Bool) → Bool
  | [], _, input => input.isEmpty
  | none :: _, _, [] => false
  | none :: l, past, b :: input => copiesFit win (reach + 1) l (b :: past) input
  | some (n, d) :: l, past, input =>
    decide (3 ≤ n ∧ n ≤ 258 ∧ 1 ≤ d ∧ d ≤ 2 ^ win ∧ d ≤ reach) && match copyFits n d past input with
      | some (past, input) => copiesFit win (reach + n) l past input
      | none => false

/-- Literal/length symbols that a coding uses, the end of the block among them. -/
def usedLits : List (Option (Nat × Nat)) → List Byte → List Nat
  | [], _ => [256]
  | none :: l, b :: input => b.toNat :: usedLits l input
  | none :: l, [] => usedLits l []
  | some (n, _) :: l, input => (257 + lenCode n) :: usedLits l (input.drop n)

/-- The lengths that run-length symbols spell. -/
def expandRuns : List (Nat × Nat) → List Nat → Option (List Nat)
  | [], acc => some acc.reverse
  | (s, x) :: l, acc =>
    if s < 16 then expandRuns l (s :: acc)
    else match s, acc with
      | 16, v :: _ => if x < 4 then expandRuns l (List.replicate (3 + x) v ++ acc) else none
      | 17, _ => if x < 8 then expandRuns l (List.replicate (3 + x) 0 ++ acc) else none
      | 18, _ => if x < 128 then expandRuns l (List.replicate (11 + x) 0 ++ acc) else none
      | _, _ => none

/-- The dynamic codes of a coding are codes that a decoder takes, and they have every symbol the block uses (R162, R163). -/
def dynFits (long : Bool) (c : Coding) (input : List Byte) : Bool :=
  decide (257 ≤ c.ll.length ∧ c.ll.length ≤ 286 ∧ 1 ≤ c.dl.length ∧ c.dl.length ≤ distCodesOf long ∧ 4 ≤ c.cl.length ∧ c.cl.length ≤ 19)
    && codesFull c.ll && distCodes c.dl && c.cl.all (fun l => decide (l ≤ 7)) && codesFull (clLens c.cl)
    && expandRuns c.runs [] == some (c.ll ++ c.dl) && c.runs.all (fun r => (clLens c.cl).getD r.1 0 != 0)
    && (usedLits c.copies input).all (fun s => c.ll.getD s 0 != 0)
    && c.copies.all (fun x => match x with
      | some (_, d) => c.dl.getD (distCode d) 0 != 0
      | none => true)

/-- The symbols of a block in order, each with its bits and the input bytes it covers. -/
def symsBits (ll dl : List Nat) : List (Option (Nat × Nat)) → List Byte → List (List Bool × Nat)
  | [], _ => []
  | none :: _, [] => []
  | none :: l, b :: input => (huffBits ll b.toNat, 1) :: symsBits ll dl l input
  | some (n, d) :: l, input =>
    let i := lenCode n
    let c := distCode d
    (huffBits ll (257 + i) ++ bitList (lenExtra i) (n - lenBases.getD i 0) ++ huffBits dl c ++ bitList (distExtra c) (d - distBase c), n)
      :: symsBits ll dl l (input.drop n)

/-- The code-length header of a dynamic block. -/
def tableBits (long : Bool) (c : Coding) : List Bool :=
  bitList 5 (c.ll.length - 257) ++ bitList (if long then 6 else 5) (c.dl.length - 1) ++ bitList 4 (c.cl.length - 4)
    ++ c.cl.flatMap (bitList 3)
    ++ c.runs.flatMap (fun r => huffBits (clLens c.cl) r.1
      ++ (if r.1 = 16 then bitList 2 r.2 else if r.1 = 17 then bitList 3 r.2 else if r.1 = 18 then bitList 7 r.2 else []))

/-- A coded block in one of the two codings: its header behind BFINAL, its symbols, and its end-of-block code. -/
structure CodedBlock where
  head : List Bool
  syms : List (List Bool × Nat)
  eob : List Bool
deriving DecidableEq, Repr

/-- The block coded statically. -/
def staticBlock (long : Bool) (c : Coding) (input : List Byte) : CodedBlock :=
  ⟨[true, false], symsBits staticLits (staticDists long) c.copies input, huffBits staticLits 256⟩

/-- The block coded dynamically. -/
def dynBlock (long : Bool) (c : Coding) (input : List Byte) : CodedBlock :=
  ⟨[false, true] ++ tableBits long c, symsBits c.ll c.dl c.copies input, huffBits c.ll 256⟩

/-- Bits of a whole coded block. -/
def codedSize (b : CodedBlock) : Nat := 1 + b.head.length + (b.syms.map (fun x => x.1.length)).foldl (· + ·) 0 + b.eob.length

/-- Bits of n input bytes as stored blocks of 65,535 bytes, the last one shorter, from bit position pos (R165). -/
def storedSize (pos n : Nat) : Nat := 3 + padBits (pos + 3) + 32 + (max 1 (ceilDiv n 65535) - 1) * 40 + 8 * n

/-- The coding of a block: 1 stored, 2 static, 3 dynamic. A record of length 0 is static (R174); else CODE forces it, or the smallest is
taken, ties to stored and then static (R165). -/
def blockCoding (code : Nat) (empty : Bool) (stored static dynamic : Nat) : Nat :=
  if empty then 2
  else if code ≠ 0 then code
  else if stored ≤ static ∧ stored ≤ dynamic then 1
  else if static ≤ dynamic then 2
  else 3

/-! ### Emitting a block (R166, R170, R171) -/

/-- How a piece of input ends: the record's end, a point, or inside the record at the end of the job (R164). -/
inductive PieceEnd where
  | final | point | inside
deriving DecidableEq, Repr

/-- What an engine has put out for a piece: all bits from the start of its output space, the input consumed, whether it stopped for
want of space, and the blocks emitted of each coding. -/
structure PieceOut where
  bits : List Bool
  used : Nat
  space : Bool
  stored : Nat
  static : Nat
  dyn : Nat
deriving DecidableEq, Repr

/-- One stored block. -/
def storedBlock (pos : Nat) (fin : Bool) (l : List Byte) : List Bool :=
  [fin, false, false] ++ List.replicate (padBits (pos + 3)) false ++ bitList 16 l.length ++ bitList 16 (65535 - l.length) ++ streamBits l

/-- Stored blocks in an output space that ends at bit lim (R166, R171): blocks of 65,535 bytes, the last one shorter, which a job that
ends inside the record leaves unconsumed; a block shortened at the end of the space ends exactly there. -/
def putStored (lim : Nat) (how : PieceEnd) : Nat → PieceOut → List Byte → PieceOut
  | 0, o, _ => o
  | fuel + 1, o, input =>
    if how = .inside ∧ input.length < 65535 then o
    else
      let k := min 65535 input.length
      let body := o.bits.length + 3 + padBits (o.bits.length + 3) + 32
      if lim < body + (if input = [] then 0 else 8) then { o with space := true }
      else
        let m := min k ((lim - body) / 8)
        let last := decide (how = .final ∧ m = input.length)
        let o := { o with bits := o.bits ++ storedBlock o.bits.length last (input.take m), used := o.used + m, stored := o.stored + 1 }
        if m < k then { o with space := true }
        else if m = input.length then o
        else putStored lim how fuel o (input.drop m)

/-- The symbols committed: each ends, with the end-of-block code behind it, at or before bit lim (R171). Answers their bits and the
input they cover. -/
def commitSyms (lim eob : Nat) : Nat → List (List Bool × Nat) → List Bool × Nat
  | _, [] => ([], 0)
  | pos, x :: l =>
    if pos + x.1.length + eob ≤ lim then
      let r := commitSyms lim eob (pos + x.1.length) l
      (x.1 ++ r.1, x.2 + r.2)
    else ([], 0)

/-- An empty stored block aligns the output after a coded block at a point, where it fits (R170). -/
def alignPoint (lim : Nat) (o : PieceOut) : PieceOut :=
  let b := storedBlock o.bits.length false []
  if o.bits.length + b.length ≤ lim then { o with bits := o.bits ++ b, stored := o.stored + 1 } else { o with space := true }

/-- A coded block in an output space that ends at bit lim: whole, shortened, or not begun (R171); then the end of the piece (R170). -/
def putCoded (lim : Nat) (how : PieceEnd) (dyn : Bool) (b : CodedBlock) (o : PieceOut) : PieceOut :=
  let n := o.bits.length
  let counted (bits : List Bool) (used : Nat) : PieceOut := { o with
    bits := o.bits ++ bits, used := o.used + used, static := o.static + (!dyn).toNat, dyn := o.dyn + dyn.toNat }
  if n + codedSize b ≤ lim then
    let all := counted ([decide (how = .final)] ++ b.head ++ b.syms.flatMap (fun x => x.1) ++ b.eob) ((b.syms.map (fun x => x.2)).foldl (· + ·) 0)
    match how with
    | .final => { all with bits := all.bits ++ List.replicate (padBits all.bits.length) false }
    | .point => alignPoint lim all
    | .inside => all
  else if lim + 63 < n + 1 + b.head.length + b.eob.length then { o with space := true }
  else
    let c := commitSyms (lim + 63) b.eob.length (n + 1 + b.head.length) b.syms
    { counted ([false] ++ b.head ++ c.1 ++ b.eob) c.2 with space := true }

/-- Code a piece of a record behind the pending bits (R165, R166, R170, R171, R174). A space of 0 stops at once; a space that cannot
hold the pending bits takes what fits; a point with no input only aligns what is pending. -/
def putPiece (lim : Nat) (how : PieceEnd) (code : Nat) (long empty : Bool) (c : Coding) (input : List Byte) (pend : List Bool) : PieceOut :=
  let o : PieceOut := ⟨pend, 0, false, 0, 0, 0⟩
  if lim < pend.length ∨ lim = 0 then { o with space := true }
  else if input = [] ∧ how ≠ .final then
    if how = .point ∧ pend ≠ [] then alignPoint lim o else o
  else
    match blockCoding code empty (storedSize pend.length input.length) (codedSize (staticBlock long c input)) (codedSize (dynBlock long c input)) with
    | 1 => putStored lim how (input.length + 1) o input
    | 2 => putCoded lim how false (staticBlock long c input) o
    | _ => putCoded lim how true (dynBlock long c input) o

/-- Whole bytes that a piece has put out of a space of lim bits; the bits behind them wait in PEND (R170, R171). -/
def wholeBytes (lim : Nat) (o : PieceOut) : Nat := min o.bits.length lim / 8

end Sys2Proof.Machine
end

