-- ==== Sys2Proof/Machine/Write.lean ====
section
/-! DEFINITION. Write lanes, verify and rewrite of a slice (R94-R118): descriptors of WL, directories and the placement of
copies, verify reports, VFY.ARM, lane fault events. -/
namespace Sys2Proof.Machine

/-! ### Descriptors of WL (R47, R48, R94-R97) -/

/-- The map that marks and fill use: that of the latest WRITE, else of slot 0, else the live tracks (log entry 22). -/
def wlMask (x : Tp) : W64 :=
  match x.wl.exts.find? (fun e => !e.isMark) with
  | some e => e.mask
  | none => x.enc.map0.getD (liveMask x)

/-- The form of a WL descriptor is valid (R47, R48, R50). -/
def wlValid (s : State) (t : Tid) (y : Slot) : Bool :=
  let d := y.desc
  match descOp d with
  | 1 =>
    let slot := fieldB d 128 1
    descFits d 0 0xFFFFFFFF 1 0 && dsToken s t (partB d 64 32)
      && ((mapSlot (tpOf s t) slot).isSome || mapPending (tpOf s t) slot y.order)
  | 2 => descFits d 0xFFFFFFFF 0 0 0
  | _ => descFits d 3 0xFFFFFFFF 0 0 && decide (descArg d ≤ 2) && (descArg d == 2 || fieldB d 64 32 == 0)

/-- An ENCODE of the dataset is queued or running on ENC (R48). -/
def encodePending (x : Tp) (tok : W32) : Bool :=
  (portOpen x.encP).any (fun y => descOp y.desc == 1 && (partB y.desc 64 32 : W32) == tok)

/-- WL has no speed, mode or motion reason to wait (R96, R112), no start is armed (R227), and no STOP, LOCATE or TURN runs
(R224). -/
def wlReady (s : State) (t : Tid) : Bool :=
  let x := tpOf s t
  x.wl.cur.isNone && x.wl.locked && rcMode s t.val == 1 && !x.wl.faulted && x.mot.armed.isNone && x.yoyo.pause == 0
    && x.mot.cur.all (fun c => c.op == 1)

/-- The row of a WL descriptor: an invalid one ends REJECTED; a valid one is queued, and an armed transport starts (R227). -/
def wlRequest (t : Tid) (op : Nat) (s : State) : State :=
  onHead t 3 op 3 (fun y s => if wlValid s t y then goArmed t s else reject t 3 y s) s

/-- A resume begins with this WRITE, issued as number `order`: the earlier VFY.ARMs of datasets from n on end FLUSHED, RWQ and VFY
forget those datasets, and copies that the overwritten extents held for datasets below n are queued again (R110 step 5). -/
def resumeAt (t : Tid) (n : W32) (order : Nat) (s : State) : State :=
  let x := tpOf s t
  let old := x.wl.exts.filter (fun e => !e.isMark && decide (n.toNat ≤ e.dsnum.toNat))
  let lost := old.flatMap (fun e => (e.rw.filter (fun r => decide (e.dsnum.toNat - r.b < n.toNat))).map (fun r =>
    let d : W32 := e.dsnum - BitVec.ofNat 32 r.b
    let c := ((dsOf x d).map (fun y => y.cw.get Cw.reset r.idx)).getD Cw.reset
    (⟨d, r.idx, c.tracks.headD 0, c.tracks, r.copy, true⟩ : RwEntry)))
  let s := endArms t stFlushed (fun o d => decide (o < order ∧ n.toNat ≤ d.toNat)) s
  let s := modVfy t (fun v => { v with
    rwq := v.rwq.filter (fun r => decide (r.dsnum.toNat < n.toNat)) ++ lost
    ds := v.ds.map (fun d => if n.toNat ≤ d.dsnum.toNat then { d with cw := {}, ok := false } else d)
    slotUse := ⟨v.slotUse.cells.filter (fun c => decide (c.1 < n.toNat))⟩ }) s
  modWl t (fun w => { w with exts := w.exts.filter (fun e => e.isMark || decide (e.dsnum.toNat < n.toNat)) }) s

/-- What the lanes put out at the start of a descriptor (R84, R86, R95): FMTID of a mark is that of the running program, LASTDS the
last dataset written. -/
def wlLanes (s : State) (t : Tid) (d : BitVec 256) (tok : W32) (e : Extent) : SMap LaneOut :=
  let x := tpOf s t
  match descOp d with
  | 1 => writeLanes s t tok e
  | 2 => fillLanes s t (descArg d)
  | _ => markLanes s t e.mask (markPayload (descArg d) x.seq.fmtid.toNat x.wl.lastDs e.wrap (fieldB d 64 32))

/-- Start the descriptor: its extent, the notice to the chiplet (R144), the drivers on. -/
def wlBegin (t : Tid) (y : Slot) (s : State) : State :=
  let x := tpOf s t
  let d := y.desc
  let op := descOp d
  let tok : W32 := partB d 64 32
  let n : W32 := if op = 1 then BitVec.ofNat 32 (bufLe s tok 8 4) else 0xFFFFFFFF
  let mask := if op = 1 then (mapSlot x (fieldB d 128 1)).getD 0 else wlMask x
  let cnt := maskCount mask
  let e : Extent := { Extent.reset with
    isMark := op == 3, typ := if op = 3 then descArg d else 0, dsnum := n, wrap := x.mot.wrap, lpos := x.mot.lpos, mask := mask
    ndat := if op = 1 then nDat cnt else 0, nres := if op = 1 then nRes cnt else 0 }
  let cur : WlCur := ⟨y.ticket, op, n, tok, x.mot.lpos, descArg d⟩
  let s := takeDesc t 3 y.ticket s
  let s := if op = 1 ∧ x.wl.lastDs ≠ 0xFFFFFFFF ∧ n.toNat ≤ x.wl.lastDs.toNat then resumeAt t n y.order s else s
  let out := wlLanes s t d tok e
  let s := modWl t (fun w => { w with
    cur := some cur, gap := false, wen := true, exts := if op = 2 then w.exts else (e :: w.exts).take 16
    out := out, pass := if w.wen then w.pass else none }) s
  let s := if op = 2 then s else sendNotice t e s
  if op = 1 then
    let s := if (dsOf (tpOf s t) n).isSome then s
      else modVfy t (fun v => { v with ds := v.ds ++ [{ Ds.reset with dsnum := n, token := tok, encs := 1 }] }) s
    modDs t n (fun d => { d with lastP := some x.mot.lpos, token := tok }) s
  else s

/-- A WRITE whose buffer is an encoded dataset: MAGIC and HCRC match (R48). -/
def wlEncoded (s : State) (tok : W32) : Bool :=
  bufLe s tok 0 4 == dsMagic && bufLe s tok 0xFFC 4 == (crc32c (bufGet s tok 0 4092)).toNat

/-- WL takes its next descriptor, whatever else WL waits for (R48, R50, R94). -/
def wlTake (t : Tid) (s : State) : State :=
  match portHead (tpOf s t).wlP with
  | none => s
  | some y =>
    let d := y.desc
    let op := descOp d
    let tok : W32 := partB d 64 32
    if op < 1 ∨ 3 < op then reject t 3 y s
    else if wlValid s t y then
      if op = 1 ∧ (mapPending (tpOf s t) (fieldB d 128 1) y.order ∨ encodePending (tpOf s t) tok) then s
      else if op = 1 ∧ !wlEncoded s tok then reject t 3 y s
      else if op = 2 ∧ descArg d = 0 then finish t 3 y.ticket stOk 0 s
      else wlBegin t y s
    else reject t 3 y s

/-- WL_DESCRIPTOR_START (R96). -/
def wlStartOp (t : Tid) (s : State) : State := if wlReady s t then wlTake t s else s

/-! ### Directories and copies (R104-R107) -/

/-- A codeword becomes unresolved (R107); one of a dataset already settled is only logged (R110). -/
def unresolve (t : Tid) (n : W32) (i : Nat) (s : State) : State :=
  let s := bumpFld (Reg.rwqCnt t) Fld.rwqCntUnresolved s
  match dsOf (tpOf s t) n with
  | none => s
  | some d =>
    if d.ok then logFault (unitId 7 t.val) 0 0 0 (BitVec.ofNat 64 (n.toNat + 2 ^ 32 * i)) s
    else modDs t n (fun d => { d with cw := d.cw.set Cw.reset i { d.cw.get Cw.reset i with st := .unresolved } }) s

/-- Order in which entries are placed in the extent of dataset n: largest b, lowest DSNUM, lowest i (R105). -/
def entryBefore (a b : RwEntry) : Bool := decide (a.dsnum.toNat < b.dsnum.toNat ∨ (a.dsnum = b.dsnum ∧ a.idx ≤ b.idx))

/-- Logical number in the map of the original's track, or of the next live track above it (R105). -/
def lambda0 (mask : W64) (k : Nat) : Nat := ((maskTracks mask).findIdx? (fun j => decide (k ≤ j))).getD 0

/-- A lane with a verify event among its last T extents is suspect (R115). -/
def suspect (s : State) (t : Tid) (k : Nat) : Bool :=
  let v := (tpOf s t).vfy
  (v.lanes.get Lane.reset k).events.any (fun e => decide (v.extNo < e + fld s (Reg.vfyLfcfg t) Fld.vfyLfcfgT))

/-- Copies already in the extent on a logical track. -/
def usedSlots (rw : List RwSlot) (lam : Nat) : Nat := (rw.filter (fun r => r.lam == lam)).length

/-- The logical track an entry's copy goes to, if any (R105). -/
def targetTrack (s : State) (t : Tid) (e : Extent) (r : RwEntry) (rw : List RwSlot) (allowSuspect : Bool) : Option Nat :=
  let tracks := maskTracks e.mask
  let n := tracks.length
  let l0 := lambda0 e.mask r.orig
  ((List.range n).map (fun i => (l0 + 1 + i) % n)).find? (fun lam =>
    let k := tracks.getD lam 64
    decide (usedSlots rw lam < e.nres - 1) && k != r.orig && !r.avoid.contains k && (allowSuspect || !suspect s t k))

/-- Place the entries in order; entries that find no slot stay. -/
def placeEntries (t : Tid) (e : Extent) : List RwEntry → State × List RwSlot × List RwEntry → State × List RwSlot × List RwEntry
  | [], acc => acc
  | r :: rest, (s, rw, left) =>
    let use := (tpOf s t).vfy.slotUse.get 0 r.dsnum.toNat
    let target := match targetTrack s t e r rw false with
      | some lam => some lam
      | none => targetTrack s t e r rw true
    if (tpOf s t).vfy.slotLimit ≤ use then placeEntries t e rest (unresolve t r.dsnum r.idx s, rw, left)
    else
      match target with
      | some lam =>
        let b := e.dsnum.toNat - r.dsnum.toNat
        let s := modVfy t (fun v => { v with slotUse := v.slotUse.set 0 r.dsnum.toNat (use + 1) }) s
        let s := modDs t r.dsnum (fun d =>
          { d with cw := d.cw.set Cw.reset r.idx { d.cw.get Cw.reset r.idx with copies := max r.copy (d.cw.get Cw.reset r.idx).copies } }) s
        let s := bumpFld (Reg.rwqCnt t) Fld.rwqCntPlaced s
        placeEntries t e rest (s, rw ++ [⟨lam, usedSlots rw lam, r.idx, b, r.copy, r.again⟩], left)
      | none =>
        if e.dsnum.toNat < r.dsnum.toNat + 3 then placeEntries t e rest (s, rw, left ++ [r])
        else placeEntries t e rest (unresolve t r.dsnum r.idx s, rw, left)

/-- WL fetches the directory of the extent being written: its content is fixed (R104, R105), and the directory and the rewrite slots
follow on the live lanes (R83-R85). -/
def fixDirectory (t : Tid) (s : State) : State :=
  match (tpOf s t).wl.cur with
  | none => s
  | some c =>
    match (tpOf s t).wl.exts with
    | [] => s
    | e :: _ =>
      if c.op ≠ 1 ∨ e.fixed then s
      else
        let n := e.dsnum.toNat
        let mine := (tpOf s t).vfy.rwq.filter (fun r => decide (r.dsnum.toNat ≤ n ∧ n ≤ r.dsnum.toNat + 3))
        let late := (tpOf s t).vfy.rwq.filter (fun r => decide (r.dsnum.toNat + 3 < n))
        let other := (tpOf s t).vfy.rwq.filter (fun r => decide (n < r.dsnum.toNat))
        let s := forAll late (fun r => unresolve t r.dsnum r.idx) s
        let q := placeEntries t e (sortBy entryBefore mine) (s, [], [])
        let s := modVfy t (fun v => { v with rwq := q.2.2 ++ other }) q.1
        let res := reserveRuns s t c e q.2.1
        let s := modWl t (fun w => { w with
          out := addRuns e.mask res w.out
          exts := match w.exts with
          | [] => []
          | e :: r => { e with fixed := true, rw := q.2.1 } :: r }) s
        sendDirectory t e.dsnum q.2.1 s

/-- A descriptor's first write of a dataset has completed: its bytes leave the fill (R198), and IDX records the location (R359) of a
dataset of the DSNUM sequence: a calibration dataset lies outside it (R87, R89). -/
def dsDone (t : Tid) (c : WlCur) (s : State) : State :=
  let x := tpOf s t
  let e : LocEnt := ⟨c.dsnum, BitVec.ofNat 16 x.mot.wrap, c.lpos⟩
  let n := match dsOf x c.dsnum with
    | some d => if d.counted then 0 else d.payload
    | none => 0
  let s := modDs t c.dsnum (fun d => { d with written := some (x.mot.wrap, c.lpos), counted := true }) s
  let s := if c.dsnum = 0xFFFFFFFF then s else modIdx t (fun i => { i with
    locs := i.locs.filter (fun l => l.dsnum != c.dsnum) ++ [e], places := i.places.filter (fun l => l.dsnum != c.dsnum) ++ [e] }) s
  modTp t (fun x => { x with yoyo := { x.yoyo with dsBytes := x.yoyo.dsBytes - n } }) s

/-- What a finished descriptor leaves on tape (R66, R86, R87): a dataset, a mark, or a stretch of fill. -/
def wlRecord (t : Tid) (c : WlCur) (e : Extent) (frames : Nat) (s : State) : State :=
  let x := tpOf s t
  match c.op with
  | 1 => record t e.wrap c.lpos frames (some (dataItem s c.token c.dsnum e.wrap c.lpos frames)) s
  | 2 => record t x.mot.wrap c.lpos frames none s
  | _ => record t e.wrap c.lpos frames (some ⟨some e.typ, x.wl.lastDs, e.wrap, c.lpos, frames, []⟩) s

/-- WL_DESCRIPTOR_DONE (R97): the last channel bit has been written; gap fill follows where no descriptor is queued (R94). -/
def wlDoneOp (t : Tid) (gap : Nat) (s : State) : State :=
  match (tpOf s t).wl.cur with
  | none => s
  | some c =>
    let s := fixDirectory t s
    let x := tpOf s t
    let e := x.wl.exts.headD Extent.reset
    let frames := match c.op with
      | 1 => bitsFrames (slotLen * (e.ndat + e.nres))
      | 2 => c.frames
      | _ => bitsFrames (slotLen * 4)
    let s := wlRecord t c e frames s
    let s := if c.op = 1 then dsDone t c s else s
    let s := modWl t (fun w => { w with
      cur := none, lastDs := if c.op = 1 ∧ c.dsnum ≠ 0xFFFFFFFF then c.dsnum else w.lastDs, endLpos := c.lpos + BitVec.ofNat 32 frames }) s
    let s := finish t 3 c.ticket stOk (if c.op = 2 then 0 else c.lpos) s
    let more := (portHead (tpOf s t).wlP).isSome
    if more then modWl t (fun w => { w with gap := false }) s
    else modWl t (fun w => { w with gap := true, out := gapLanes gap w.out }) (bumpFldBy (Reg.wlCnt t) Fld.wlCntGapslots gap s)

/-! ### Verify (R102, R103, R107) -/

/-- A codeword failed, or a copy of it did: it is queued on RWQ, or unresolved when no copy is left (R104, R107). -/
def queueCopy (t : Tid) (n : W32) (i orig : Nat) (avoid : List Nat) (copy : Nat) (s : State) : State :=
  if (tpOf s t).vfy.copies < copy then unresolve t n i s
  else modVfy t (fun v => { v with rwq := v.rwq ++ [⟨n, i, orig, avoid, copy, false⟩] }) s

/-- An original codeword failed on track k (R104, R97). -/
def failOriginal (t : Tid) (n : W32) (i k : Nat) (s : State) : State :=
  match dsOf (tpOf s t) n with
  | none => s
  | some d =>
    if (d.cw.get Cw.reset i).tracks.isEmpty ∧ (d.cw.get Cw.reset i).st = .pending then
      queueCopy t n i k [] 1 (modDs t n (fun d =>
        { d with cw := d.cw.set Cw.reset i { d.cw.get Cw.reset i with tracks := [k] } }) s)
    else s

/-- A codeword passed (R107). -/
def passCw (t : Tid) (n : W32) (i : Nat) (s : State) : State :=
  modDs t n (fun d =>
    let c := d.cw.get Cw.reset i
    if c.st = .unresolved then d else { d with cw := d.cw.set Cw.reset i { c with st := .passed } }) s

/-- The four conditions of R102 on a report. -/
def reportPass (s : State) (t : Tid) (r : BitVec 128) : Bool :=
  decide (fieldB r 64 4 ≤ fld s (Reg.vfyCfg t) Fld.vfyCfgIter ∧ fieldB r 68 10 < fld s (Reg.vfyCfg t) Fld.vfyCfgMaxflip)
    && (fieldB r 78 2 == 0 || fld s (Reg.vfyCfg t) Fld.vfyCfgAltPass == 1)
    && (fieldB r 80 1 == 0 || fld s (Reg.vfyCfg t) Fld.vfyCfgFlyPass == 1)

/-- VFY_CWPASS and VFY_CWFAIL. -/
def countCw (t : Tid) (pass : Bool) (s : State) : State :=
  let a := if pass then (Reg.vfyCwpass t 0, Reg.vfyCwpass t 1) else (Reg.vfyCwfail t 0, Reg.vfyCwfail t 1)
  setPair a.1 a.2 (pair s a.1 a.2 + 1) s

/-- The extent of a report: the latest one of the dataset, or the oldest mark whose reports are not all in. -/
def reportExt (x : Tp) (mark : Bool) (n : W32) : Option Extent :=
  if mark then x.wl.exts.reverse.find? (fun e => e.isMark && decide (e.markSeen < 4 * maskCount e.mask))
  else x.wl.exts.find? (fun e => !e.isMark && e.dsnum == n)

/-- Change an extent. -/
def modExt (t : Tid) (e : Extent) (f : Extent → Extent) (s : State) : State :=
  modWl t (fun w => { w with exts := w.exts.map (fun y => if y.isMark == e.isMark && y.dsnum == e.dsnum && y.lpos == e.lpos then f y else y) }) s

/-- The result of a rewrite copy in slot m on track k (R103-R107). A copy that has failed on the track before is not judged again
(R97); one that a resume queued again is logged, and not queued (R110). -/
def copyResult (t : Tid) (e : Extent) (k m : Nat) (pass : Bool) (s : State) : State :=
  match e.rw.find? (fun r => (maskTracks e.mask)[r.lam]? == some k && r.q == m - e.ndat - 1) with
  | none => s
  | some r =>
    let n : W32 := e.dsnum - BitVec.ofNat 32 r.b
    if pass then passCw t n r.idx s
    else
      match dsOf (tpOf s t) n with
      | none => s
      | some d =>
        let c := d.cw.get Cw.reset r.idx
        if c.tracks.contains k then s
        else
        let s := modDs t n (fun d => { d with cw := d.cw.set Cw.reset r.idx { c with tracks := c.tracks ++ [k] } }) s
        if r.again then unresolve t n r.idx s
        else if c.st = .pending then queueCopy t n r.idx (c.tracks.headD k) (c.tracks ++ [k]) (r.copy + 1) s
        else if d.ok then unresolve t n r.idx s
        else s

/-- Results of copies are known once a directory passed or none did (R103). -/
def copyReady (e : Extent) : Bool := e.dirPass || decide (maskCount e.mask ≤ e.dirSeen)

/-- Judge the copies of an extent that wait for its directory: they are counted with their result, which is a failure where no
directory passed (R103). -/
def judgeCopies (t : Tid) (n : W32) (s : State) : State :=
  match reportExt (tpOf s t) false n with
  | none => s
  | some e =>
    if copyReady e then
      forAll e.dirWait (fun w s => copyResult t e w.1 w.2.1 (w.2.2 && e.dirPass) (countCw t (w.2.2 && e.dirPass) s))
        (modExt t e (fun y => { y with dirWait := [] }) s)
    else s

/-! ### Lane fault events (R113-R117) -/

/-- One lane's verify event (R113, R115): counted and logged; the M-th within T extents is permanent. A lane that is retired already
goes on recording its events. -/
def laneEvent (t : Tid) (n : W32) (k : Nat) (s : State) : State :=
  let v := (tpOf s t).vfy
  let l := v.lanes.get Lane.reset k
  let win := fld s (Reg.vfyLfcfg t) Fld.vfyLfcfgT
  let ev := v.extNo :: l.events.filter (fun e => decide (v.extNo < e + win))
  let u := unitId 0 (64 * t.val + k)
  let detail := laneDetail n k
  let s := modVfy t (fun v => { v with lanes := v.lanes.set Lane.reset k { l with events := ev.take 15 } }) s
  let s := bumpFld (Reg.vfyLane t k) Fld.vfyLaneFevcnt (countEvent u s)
  let s := raiseFld Reg.fltStat Fld.fltStatNewesc (logFault u 1 1 ev.length detail s)
  if fld s (Reg.vfyLfcfg t) Fld.vfyLfcfgM ≤ ev.length then retireLane t k 1 detail s else s

/-- Every live track's last data slot of an extent has been judged: lane events, or one media event (R113, R114). -/
def judgeExtent (t : Tid) (e : Extent) (s : State) : State :=
  let thr := fld s (Reg.vfyLfcfg t) Fld.vfyLfcfgExtThr
  let hit := (maskTracks e.mask).filter (fun k => decide (thr ≤ e.fails.get 0 k))
  let s := modVfy t (fun v => { v with extNo := v.extNo + 1 }) s
  if fld s (Reg.vfyLfcfg t) Fld.vfyLfcfgMediaN ≤ hit.length then bumpFld (Reg.vfyMedia t) Fld.vfyMediaMediaev s
  else forAll hit (laneEvent t e.dsnum) s

/-- The report of a track's last data slot has arrived (R113). -/
def judgeTrack (t : Tid) (n : W32) (k : Nat) (s : State) : State :=
  match reportExt (tpOf s t) false n with
  | none => s
  | some e =>
    if e.judged.get 0 k = 1 ∨ !bitOf e.mask.toNat k then s
    else
      let s := modExt t e (fun y => { y with judged := y.judged.set 0 k 1 }) s
      let s := modVfy t (fun v => { v with lanes := v.lanes.set Lane.reset k { v.lanes.get Lane.reset k with lastFails := min 255 (e.fails.get 0 k) } }) s
      if e.judged.cells.length + 1 = maskCount e.mask then judgeExtent t e s else s

/-- A mark slot's report; when all are in, a mark of which no slot passed on more than half of its tracks is logged (R103). -/
def markReport (t : Tid) (k : Nat) (pass : Bool) (s : State) : State :=
  match reportExt (tpOf s t) true 0xFFFFFFFF with
  | none => s
  | some e =>
    let p := if pass then e.markPass.set 0 k 1 else e.markPass
    let s := modExt t e (fun y => { y with markSeen := y.markSeen + 1, markPass := p }) s
    let n := maskCount e.mask
    if e.markSeen + 1 = 4 * n then
      if n < 2 * (n - p.cells.length) then logFault (unitId 7 t.val) 0 0 0 (BitVec.setWidth 64 e.lpos) s
      else if e.typ = 0 then modWl t (fun w => { w with eodMarks := w.eodMarks + 1 }) s
      else s
    else s

/-- A slot of KIND 2, 3 or 4 is counted (R103). -/
def countKind (t : Tid) (kind : Nat) (s : State) : State :=
  modVfy t (fun v => { v with kinds := v.kinds.set 0 kind (v.kinds.get 0 kind + 1) }) s

/-- One report (R102, R103, R113). -/
def reportIn (t : Tid) (r : BitVec 128) (s : State) : State :=
  let n : W32 := partB r 0 32
  let m := fieldB r 32 9
  let k := fieldB r 41 6
  let i := fieldB r 50 13
  let pass := reportPass s t r
  let s := match fieldB r 47 3 with
    | 0 =>
      let s := countCw t pass s
      if pass then passCw t n i s
      else
        let s := match reportExt (tpOf s t) false n with
          | some e => modExt t e (fun y => { y with fails := y.fails.set 0 k (y.fails.get 0 k + 1) }) s
          | none => s
        failOriginal t n i k s
    | 1 =>
      match reportExt (tpOf s t) false n with
      | some e => judgeCopies t n (modExt t e (fun y => { y with dirWait := y.dirWait ++ [(k, m, pass)] }) s)
      | none => countCw t pass s
    | 2 =>
      let s := countKind t 2 s
      match reportExt (tpOf s t) false n with
      | some e => judgeCopies t n (modExt t e (fun y => { y with dirSeen := y.dirSeen + 1, dirPass := y.dirPass || pass }) s)
      | none => s
    | 3 => markReport t k pass (countKind t 3 s)
    | n => countKind t n s
  match reportExt (tpOf s t) false n with
  | some e => if m + 1 = e.ndat then judgeTrack t n k s else s
  | none => s

/-- VERIFY_REPORT (R102): a report of verify mode; it leaves the reports on their way. None comes over a UCIe module that is down
(R15). -/
def verifyReportOp (t : Tid) (r : BitVec 128) (s : State) : State :=
  if isOffline s t then s
  else
  let s := modRc t (fun x => { x with reports := x.reports.erase r }) s
  if rcMode s t.val = 1 then reportIn t r s else s

/-! ### VFY.ARM, RWQ.POLICY (R47, R48, R106, R108) -/

/-- VFY.ARM (R108): VFY takes the descriptor once a MAPSET of its slot has completed (R50). One that arms a dataset again leaves the
earlier one to complete with it (R45). -/
def vfyArmOp (t : Tid) (s : State) : State :=
  onHead t 4 1 1 (fun y s =>
    let d := y.desc
    let n : W32 := partB d 64 32
    let tok : W32 := partB d 96 32
    let slot := fieldB d 128 1
    if mapPending (tpOf s t) slot y.order then s
    else if descFits d 0 (~~~0) 3 0 && dsToken s t tok && (mapSlot (tpOf s t) slot).isSome then
      let s := if (dsOf (tpOf s t) n).isSome then s
        else modVfy t (fun v => { v with ds := v.ds ++ [{ Ds.reset with dsnum := n, token := tok }] }) s
      modDs t n (fun x => { x with
        more := x.more ++ (x.armed.map (fun k => (k, x.rel))).toList
        armed := some y.ticket, rel := fieldB d 129 1 == 1, token := tok }) (takeDesc t 4 y.ticket s)
    else reject t 4 y s) s

/-- Every codeword is settled (R107). -/
def dsSettled (d : Ds) : Bool := (d.cw.cells.filter (fun c => c.2.st != .pending)).length == 8192

/-- Unresolved codewords of each sub-dataset. -/
def unresOf (d : Ds) : List Nat :=
  (List.range 64).map (fun u => ((d.cw.range (128 * u) 128).filter (fun c => c.2.st == .unresolved)).length)

/-- Clear REPLAY of the recovery entries whose records are all verified: those of the transport whose datasets reach up to n
(R315). -/
def clearReplay (t : Tid) (s : State) : State :=
  { s with pwr := { s.pwr with rlog := s.pwr.rlog.map (fun e =>
      match streamOf s e.scid.toNat with
      | some x =>
        if e.t.toNat = t.val ∧ e.replay ∧ x.read = false
            ∧ x.recs.all (fun r => r.verified || decide (r.seq.toNat < e.first.toNat ∨ e.first.toNat + e.count.toNat ≤ r.seq.toNat))
            ∧ e.first.toNat + e.count.toNat ≤ x.next.toNat then
          { e with replay := false } else e
      | none => e) } }

/-- A dataset stands as verified: its records no longer wait for it (R108, R109, R258). -/
def acceptDs (t : Tid) (d : Ds) (s : State) : State :=
  clearReplay t (verifyDataset t.val d.dsnum d.recs (modDs t d.dsnum (fun y => { y with ok := true, armed := none, more := [] })
    (modVfy t (fun v => { v with lastOk := d.dsnum }) s)))

/-- A VFY.ARM whose codewords are all settled completes (R108, R109). Which of equally bad sub-datasets WORSTS names is left open (log
entry 22). -/
def settleArm (t : Tid) (d : Ds) (k : BitVec 16) (s : State) : State :=
  let val : W32 := BitVec.ofNat 32 (rewritten d)
  let un := unresOf d
  let worst := un.foldl max 0
  if worst = 0 then
    let s := acceptDs t d s
    let s := if d.rel || d.more.any (fun m => m.2) then releaseFor 2 (4 + t.val) d.token s else s
    finish t 4 k stOk val (forAll d.more (fun m => finish t 4 m.1 stOk val) s)
  else
    let s := setReg (Reg.vfyIncds t) d.dsnum s
    let s := setFld (Reg.vfyInc t) Fld.vfyIncUnres (un.foldl (· + ·) 0) s
    let s := setFld (Reg.vfyInc t) Fld.vfyIncWorstn worst s
    let ties := (List.range 64).filter (fun u => un.getD u 0 == worst)
    let f := takeFree s
    let s := setFld (Reg.vfyInc t) Fld.vfyIncWorsts (ties.getD (f.1 % ties.length) 0) f.2
    let s := finish t 4 k stIncomplete val (forAll d.more (fun m => finish t 4 m.1 stIncomplete val)
      (modDs t d.dsnum (fun y => { y with armed := none, more := [] }) s))
    if worst ≤ fld s (Reg.vfyCfg t) Fld.vfyCfgIncLimit then acceptDs t d s
    else if 4 ≤ d.attempts then disableWrites t 1 s
    else modDs t d.dsnum (fun y => { y with attempts := y.attempts + 1 }) s

/-- VFY_ARM_SETTLED (R108): the first armed dataset all of whose codewords are settled. -/
def vfySettleOp (t : Tid) (s : State) : State :=
  match (tpOf s t).vfy.ds.find? (fun d => d.armed.isSome && dsSettled d) with
  | none => s
  | some d =>
    match d.armed with
    | some k => settleArm t d k s
    | none => s

/-- RWQ.POLICY (R106). -/
def rwqPolicyOp (t : Tid) (s : State) : State :=
  onHead t 5 1 1 (fun y s =>
    let n := descArg y.desc
    if descFits y.desc 7 0xFFFF 0 0 && decide (1 ≤ n) then
      finish t 5 y.ticket stOk 0 (modVfy t (fun v => { v with copies := n, slotLimit := fieldB y.desc 64 16 }) s)
    else reject t 5 y s) s

/-- The codeword in slot m of lane k is damaged in the extent being written: it is queued for rewrite as a failed codeword, an original
or a copy (R30, R97). A directory, a mark and filler are not rewritten (R103). -/
def damaged (t : Tid) (e : Extent) (k m : Nat) (s : State) : State :=
  match (maskTracks e.mask).idxOf? k with
  | none => s
  | some lam =>
    if m < e.ndat then
      match (lambdaCws (maskCount e.mask) lam)[m]? with
      | some i => failOriginal t e.dsnum i k s
      | none => s
    else if e.ndat < m then copyResult t e k m false s
    else s

/-- WL_UNDERRUN (R30, R97): while WL writes, the FIFO of a lane that the head has runs empty in slot m of the descriptor in progress, or
of the gap fill behind the latest one; the lane writes zeros up to the slot boundary, from a bit that the row does not give. -/
def wlUnderrunOp (l m : Nat) (s : State) : State :=
  let t := laneT l
  let k := laneK l
  let w := (tpOf s t).wl
  if (w.cur.isSome ∨ w.gap = true) ∧ bitOf (tpOf s t).head.missing.toNat k = false then
    let s := cdcEvent Fld.glbCdcerrWlUnderrun (some l) (bumpFld (Reg.wlCnt t) Fld.wlCntUnderrun s)
    let f := takeFree s
    let s := modWl t (fun w => { w with out := cutLane k m f.1 w.out }) f.2
    match w.cur with
    | some c => if c.op = 1 then damaged t (w.exts.headD Extent.reset) k m s else s
    | none => s
  else s

/-- VFY_LANECMD with CMD = 2 (R117). -/
def laneReturn (t : Tid) (k : Nat) (s : State) : State :=
  let x := tpOf s t
  if x.seq.st = .running ∨ x.seq.st = .waiting then logIgnored (unitId 0 (64 * t.val + k)) 2 s
  else
    let s := modVfy t (fun v => { v with
      failmask := v.failmask &&& ~~~(BitVec.ofNat 64 (2 ^ k))
      lanes := v.lanes.set Lane.reset k { Lane.reset with calFails := (v.lanes.get Lane.reset k).calFails } }) s
    if bitOf x.vfy.failmask.toNat k then
      regrant (logFault (unitId 0 (64 * t.val + k)) 4 0 0 0 (markReturned (unitId 0 (64 * t.val + k)) s))
    else s

end Sys2Proof.Machine
end

