-- ==== Sys2Proof/Machine/Codec.lean ====
section
/-! DEFINITION. The codec array (R158-R181): the dispatcher and its arbitration, compression jobs and the work items they make,
points, decompression jobs, host offload, engines that fault. A compression engine's report is what its search found (Coding); the coded
bytes, the limits, the contexts, record headers and trailers, CRCs and stop rules are computed here, and decompression wholly. -/
namespace Sys2Proof.Machine

/-- A stream context (R167). -/
def ctxOf (s : State) (scid : Nat) : Ctx := s.codec.ctx.get Ctx.reset scid
/-- Change a stream context: a write of it, which ends what hash tables hold of it (R160). -/
def modCtx (scid : Nat) (f : Ctx → Ctx) (s : State) : State :=
  modCodec (fun c => { c with
    ctx := c.ctx.set Ctx.reset scid (f (c.ctx.get Ctx.reset scid)), writes := c.writes.set 0 scid (c.writes.get 0 scid + 1) }) s

/-- Continue a CRC-32C over more bytes (R70). -/
def crcMore (c : W32) (l : List Byte) : W32 := l.foldl crcByte (c ^^^ 0xFFFFFFFF) ^^^ 0xFFFFFFFF

/-- A context runs on an engine. -/
def ctxRunning (s : State) (scid : Nat) : Bool :=
  (List.range 64).any (fun e => match (engOf s e).job with
    | some j => j.scid.toNat == scid
    | none => false)

/-- Payload bytes decoded in buffers that slice t holds and not yet taken by a decompressor (R198). -/
def decodedFill (s : State) (t : Tid) : Nat :=
  ((tpOf s t).enc.bufs.cells.map (fun c => match c.2 with
    | some b => if tokenHeld s (4 + t.val) (BitVec.ofNat 32 c.1) then b.fill else 0
    | none => 0)).foldl (· + ·) 0

/-- n decoded bytes are taken out of buffers, in order. -/
def takeFill : Nat → List (Nat × Option ReadBuf) → List (Nat × Option ReadBuf)
  | _, [] => []
  | n, (k, none) :: l => (k, none) :: takeFill n l
  | n, (k, some b) :: l => (k, some { b with fill := b.fill - n }) :: takeFill (n - b.fill) l

/-- A decompressor has taken n bytes of the payload that slice t decoded (R198). -/
def takeDecoded (t : Tid) (n : Nat) (s : State) : State := modEnc t (fun e => { e with bufs := ⟨takeFill n e.bufs.cells⟩ }) s

/-- Decompressed bytes leave the fill of slice t: delivered, or given up (R198). -/
def dropDecoded (t : Tid) (n : Nat) (s : State) : State := modTp t (fun y => { y with yoyo := { y.yoyo with rdBytes := y.yoyo.rdBytes - n } }) s

/-! ### History tokens (R168, R169) -/

/-- Release every token of a context, for the compressors (agent 1) or the decompressors (agent 2). -/
def dropHistory (scid : Nat) (s : State) : State :=
  let c := ctxOf s scid
  let s := forAll c.toks (fun k => releaseFor 1 (if c.dir then 2 else 1) k.1) s
  modCtx scid (fun c => { c with toks := [] }) s

/-- History is gone: tokens released, HVALID = 0. -/
def endHistory (scid : Nat) (s : State) : State := modCtx scid (fun c => { c with hvalid := false }) (dropHistory scid s)

/-- How many of the oldest tokens lie wholly outside the window, given the bytes of the newest buffer not yet reached. -/
def outOfWindow (win rest : Nat) : List (W32 × Nat) → Nat
  | [] => 0
  | _ :: l =>
    let after := (l.map (fun k => k.2)).foldl (· + ·) 0
    if l ≠ [] ∧ win + rest ≤ after then 1 + outOfWindow win rest l else 0

/-- List a buffer, on which a reference has just been taken; a 33rd entry releases the oldest (R168). -/
def appendToken (scid : Nat) (k : W32 × Nat) (s : State) : State :=
  let c := ctxOf s scid
  let s := if 32 ≤ c.toks.length then
      match c.toks with
      | [] => s
      | o :: r => modCtx scid (fun c => { c with toks := r }) (releaseFor 1 (if c.dir then 2 else 1) o.1 s)
    else s
  modCtx scid (fun c => { c with toks := c.toks ++ [k] }) s

/-- The tokens up to a buffer's are released and leave the list. -/
def dropThrough (scid : Nat) (tok : W32) (s : State) : State :=
  let c := ctxOf s scid
  let gone := c.toks.takeWhile (fun x => x.1 != tok)
  let s := forAll (gone ++ (c.toks.drop gone.length).take 1) (fun k => releaseFor 1 (if c.dir then 2 else 1) k.1) s
  modCtx scid (fun c => { c with toks := c.toks.drop (gone.length + 1) }) s

/-- Take a reference on a buffer and list it with its bytes (R168). A buffer listed last whose input goes on only has its count raised;
one that a decompressor fills again leaves the list first, with all before it. Where the reference cannot be taken the buffer is not
listed, and the history, which must reach back without a gap from the resume position, is released (log entry 40). -/
def listToken (scid : Nat) (k : W32 × Nat) (s : State) : State :=
  let c := ctxOf s scid
  let a := if c.dir then 2 else 1
  if !c.dir && (c.toks.getLast?.map (fun x => x.1)) == some k.1 then
    modCtx scid (fun c => { c with toks := c.toks.dropLast ++ [k] }) s
  else
    let s := if c.toks.any (fun x => x.1 == k.1) then dropThrough scid k.1 s else s
    let u := addrefFor 1 a k.1 s
    if bufHold (bufStored u (tokId k.1)) a = bufHold (bufStored s (tokId k.1)) a + 1 then appendToken scid k u
    else dropHistory scid u

/-- More input has landed in a listed buffer: its count of bytes of the stream's input rises (R167). -/
def growToken (scid : Nat) (tok : W32) (n : Nat) (s : State) : State :=
  modCodec (fun c =>
    let x := c.ctx.get Ctx.reset scid
    { c with ctx := c.ctx.set Ctx.reset scid { x with toks := x.toks.map (fun k => if k.1 = tok then (k.1, n) else k) } }) s

/-- The history bytes of a context, latest first, each with whether it lies in a poisoned range (R167, R168): the last bytes of the
listed buffers, short of rest bytes of the newest that lie past the resume position, as far back as the window reaches. -/
def ctxHist (s : State) (scid rest : Nat) : List (Byte × Bool) :=
  let c := ctxOf s scid
  let one (k : W32 × Nat) : List (Byte × Bool) := (bufGet s k.1 0 k.2).mapIdx (fun i b => (b, s.mem.poison.contains ((tokAddr s k.1 + i) / 128)))
  ((c.toks.flatMap one).reverse.drop rest).take (2 ^ c.winlog.toNat)

/-- Release the tokens outside the window; rest = bytes of the newest buffer past the resume position. -/
def trimHistory (scid rest : Nat) (s : State) : State :=
  let c := ctxOf s scid
  let n := outOfWindow (2 ^ c.winlog.toNat) rest c.toks
  let s := forAll (c.toks.take n) (fun k => releaseFor 1 (if c.dir then 2 else 1) k.1) s
  modCtx scid (fun c => { c with toks := c.toks.drop n }) s

/-! ### Pending input of a write stream (R159, R172) -/

/-- Records of a stream whose final block has not been coded. -/
def uncoded (x : Stream) : List Rec := x.recs.filter (fun r => !r.coded)

/-- Input that can be offered at once: up to the first record that is not all there. -/
def pendingIn : List Rec → Nat
  | [] => 0
  | r :: l => if r.got < r.len then r.got - r.used else r.len - r.used + pendingIn l

/-- A record waits for its end only: it is all there and consumed. -/
def endsOnly (x : Stream) : Bool := match uncoded x with
  | r :: _ => r.got == r.len && r.used == r.len
  | [] => false

/-- Input bytes of the stream before a place. -/
def before (seq : W32) (n : Nat) : List Rec → Nat
  | [] => 0
  | r :: l =>
    if r.seq.toNat < seq.toNat then r.len - r.used + before seq n l
    else if r.seq = seq then n - r.used else 0

/-- The stream's next point: how far away it is, and whether a FLUSH point is there (R172). -/
def nextPoint (s : State) (scid : BitVec 16) (x : Stream) : Option (Nat × Bool) :=
  let l := s.codec.drains.flatMap (fun d => (d.scids.filter (fun p => p.1 == scid)).map (fun p => (before p.2.1 p.2.2 (uncoded x), d.ticket.isNone)))
  l.foldl (fun a p => match a with
    | none => some p
    | some q => if p.1 < q.1 then some p else if p.1 = q.1 then some (q.1, p.2 || q.2) else some q) none

/-- Bytes of the stream's next job: its pending input up to 262,144 bytes and its next point (R159, R164). -/
def jobSize (s : State) (scid : BitVec 16) (x : Stream) : Nat :=
  let n := min 262144 (pendingIn (uncoded x))
  match nextPoint s scid x with
  | some p => min n p.1
  | none => n

/-- The open dataset of t as the work items that wait leave it; none where none is open, or where it closes behind them. -/
def dsAhead (x : Tp) : Option OpenDs := match x.asm.opn with
  | none => none
  | some o =>
    let o := x.asm.items.foldl (fun o i => if i.data = [] then o else placedDs o i) o
    if x.asm.items.any (fun i => i.flush || i.full) || decide (freeRoom o < 72) then none else some o

/-- The open dataset of t takes records: it is of KIND 0, and the slice holds its buffer (R89, R24). -/
def takesRecords (s : State) (t : Tid) : Bool := match dsAhead (tpOf s t) with
  | some o => o.kind == 0 && tokenHeld s (4 + t.val) o.token
  | none => false

/-- The compressor holds a credit of its link to the assembler of t (R26), one at least while nothing waits there (log entry 46). -/
def asmCredit (s : State) (t : Tid) : Bool := match (tpOf s t).asm.items with
  | [] => true
  | l => decide (l.length ≤ Config.asmCredits)

/-- Whether a write stream has a job to offer (R159): without a credit the compressor stops (R26). -/
def offersJob (s : State) (scid : BitVec 16) (x : Stream) : Bool :=
  !x.read && takesRecords s (tid x.t) && asmCredit s (tid x.t) && !ctxRunning s scid.toNat && !s.codec.parked.contains scid
    && (decide (0 < jobSize s scid x) || endsOnly x || (nextPoint s scid x).any (fun p => p.1 == 0))

/-- Output space of the open dataset for a job of the stream (R170): coded bytes that fit behind the items that wait, in the segment the
record goes on with, or behind a new segment header and, for a new record, the record header. -/
def jobSpace (s : State) (scid : BitVec 16) (x : Stream) : Nat :=
  match dsAhead (tpOf s (tid x.t)) with
  | none => 0
  | some o =>
    let c := ctxOf s scid.toNat
    let g := itemSeg o { Item.reset with scid := scid, seq := c.seq, first := !c.inrec }
    4096 + payloadRoom - (g.off + 16 + g.len) - (if c.inrec then 0 else 48)

/-! ### The dispatcher (R23, R159-R161) -/

/-- An engine takes jobs: not retired, free, and even-numbered while dispatch is halved (R161, R357). -/
def engFree (s : State) (e : Nat) : Bool :=
  (engOf s e).job.isNone && s.codec.retired.get 0 e == 0 && (!s.pwr.therm || e % 2 == 0)

/-- Requester of a job: its slice, or 8 = host offload (R23). -/
def requester (s : State) (r : JobReq) : Nat :=
  match r with
  | .write scid => ((streamOf s scid.toNat).map (fun x => x.t)).getD 0
  | .expand t => t.val
  | .offload => 8

/-- The descriptor of a queued COMP.EXPAND. -/
def expandDesc (s : State) (t : Nat) (k : BitVec 16) : Option (BitVec 256) :=
  ((tpOf s (tid t)).comp.slots.find? (fun y => y.ticket == k)).map (fun y => y.desc)

/-- SCID of an EXPAND. -/
def expScid (d : BitVec 256) : Nat := fieldB d 32 16

/-- The oldest COMP.EXPAND of a slice whose context is not running and whose output buffer the slice holds (R24). -/
def nextExpand (s : State) (t : Nat) : Option (BitVec 16 × BitVec 256) :=
  (s.codec.expands.filter (fun e => e.1 == t)).findSome? (fun e => match expandDesc s t e.2 with
    | some d =>
      if ctxRunning s (expScid d) || !(fieldB d 128 32 == 0 || tokenHeld s (4 + t) (partB d 96 32)) then none else some (e.2, d)
    | none => none)

/-- The write stream of a slice that is served next: the one with the oldest pending input, else one with an end or a point to
make (R159). -/
def nextWrite (s : State) (t : Nat) : Option (BitVec 16 × Nat) :=
  let ok (k : BitVec 16) : Option (BitVec 16 × Nat) := match streamOf s k.toNat with
    | some x => if x.t = t ∧ offersJob s k x then some (k, jobSize s k x) else none
    | none => none
  match s.codec.arrivals.findSome? (fun a => ok a.1) with
  | some r => some r
  | none => (writeStreams s t).findSome? (fun x => ok (BitVec.ofNat 16 x.1))

/-! ### Host offload entries (R179, R180) -/

/-- Entries of the offload ring. -/
def offSize (s : State) : Nat := 2 ^ fld s Reg.codecOqcfg Fld.codecOqcfgSize
/-- Host address of the entry with count i: TAIL and HEAD count entries modulo 2^16, and the ring's size gives the place (log
entry 23). -/
def offAddr (s : State) (i : Nat) : Nat := pair s (Reg.codecOqbase 0) (Reg.codecOqbase 1) + 64 * (i % offSize s)
/-- Bytes [o, o + n) of entry i. -/
def offField (s : State) (i o n : Nat) : Nat := memLe s.hostMem (offAddr s i + o) n
/-- The internal context of an entry. -/
def offCtx (i : Nat) : Nat := 40960 + i % 24576
/-- The entry's fields are valid (R179). -/
def offValid (s : State) (i : Nat) : Bool :=
  let op := offField s i 0 1
  let cod := offField s i 1 1
  let win := offField s i 2 1
  let code := offField s i 3 1
  (op == 1 || op == 2) && ((cod == 0 && win == 15) || (cod == 1 && decide (15 ≤ win ∧ win ≤ 20)))
    && decide (code / 4 ≤ 3) && decide (1 ≤ offField s i 0x18 4) && offField s i 4 4 == 0 && offField s i 0x20 8 == 0 && offField s i 0x28 8 == 0
    && offField s i 0x3D 2 == 0

/-- The device writes an entry's results, DONE last; the head moves past every finished entry in order, with a message for each
advance (R179, R180). -/
def offFinish (i : Nat) (st : BitVec 8) (consumed produced : Nat) (crc : W32) (s : State) : State :=
  let a := offAddr s i
  let s := hostWrite (a + 0x30) (leBytes 4 consumed ++ leBytes 4 produced ++ leBytes 4 crc.toNat ++ [st]) s
  let s := hostWrite (a + 0x3F) [1] s
  modCodec (fun c => { c with offDone := c.offDone ++ [i], ctx := c.ctx.set Ctx.reset (offCtx i) Ctx.reset }) s

/-- CODEC_OQHEAD advances past one finished entry (R180). -/
def offAdvanceOne (s : State) : State :=
  let h := fld s Reg.codecOqhead Fld.codecOqheadHead
  if s.codec.offDone.contains h then
    let s := setFld Reg.codecOqhead Fld.codecOqheadHead ((h + 1) % 65536) s
    let s := modCodec (fun c => { c with offDone := c.offDone.filter (fun i => i != h) }) s
    { s with hif := { s.hif with msix := fld s Reg.codecOqcfg Fld.codecOqcfgVector :: s.hif.msix } }
  else s

/-- OFFLOAD_HEAD_ADVANCE (R180). -/
def offAdvance (s : State) : State := forAll s.codec.offDone (fun _ s => offAdvanceOne s) s

/-- The entry the next offload job works on, for compression or expansion: one begun before it, or the next submitted one. -/
def nextOffload (s : State) (cz : Bool) : Option (Nat × Bool) :=
  let n := (s.codec.offNext + 65536 - fld s Reg.codecOqhead Fld.codecOqheadHead) % 65536
  let open' := ((List.range n).map (fun i => (fld s Reg.codecOqhead Fld.codecOqheadHead + i) % 65536)).filter (fun i =>
    !s.codec.offDone.contains i && !ctxRunning s (offCtx i) && (offField s i 0 1 == 1) == cz)
  match open' with
  | i :: _ => some (i, false)
  | [] =>
    if fld s Reg.codecOqcfg Fld.codecOqcfgEn = 1 ∧ s.codec.offNext ≠ s.codec.offTail ∧ (offField s s.codec.offNext 0 1 == 1) = cz then
      some (s.codec.offNext, true)
    else none

/-- Input bytes of an entry's next piece (R159). -/
def offPiece (s : State) (i : Nat) : Nat := min 262144 (offField s i 0x18 4 - (ctxOf s (offCtx i)).rin)

/-- The next job of a requester for one kind of engine, and its input bytes (R23). -/
def nextJob (s : State) (cz : Bool) (r : Nat) : Option (JobReq × Nat) :=
  if r = 8 then (nextOffload s cz).map (fun i => (.offload, offPiece s i.1))
  else if cz then (nextWrite s r).map (fun w => (.write w.1, w.2))
  else (nextExpand s r).map (fun e => (.expand (tid r), fieldB e.2 128 32))

/-- Deficit round robin (R23): from the requester whose turn it is, the first whose credit covers its next job; a turn that comes round
adds 256 KiB, and a requester with no job for the free kind of engine forfeits it. Compression and decompression share the turn and the
credits (log entry 41). -/
def drrPick (s : State) (cz : Bool) : Nat → Nat → SMap Nat → Option (Nat × SMap Nat)
  | 0, _, _ => none
  | fuel + 1, r, credit =>
    match nextJob s cz r with
    | none => drrPick s cz fuel ((r + 1) % 9) ((credit.set 0 r 0).set 0 ((r + 1) % 9) (credit.get 0 ((r + 1) % 9) + 262144))
    | some j =>
      if j.2 ≤ credit.get 0 r then some (r, credit.set 0 r (credit.get 0 r - j.2))
      else drrPick s cz fuel ((r + 1) % 9) (credit.set 0 ((r + 1) % 9) (credit.get 0 ((r + 1) % 9) + 262144))

/-- Turns after which every requester's credit covers its next job: input pieces reach 8 MiB, 32 quanta. -/
abbrev drrTurns : Nat := 306

/-- An engine may take a job of a context (R160, R161): not the one on which the job was abandoned, and the free engine that last ran
the context before any other. -/
def engineFor (s : State) (scid e : Nat) : Bool :=
  let p := s.codec.ranOn.get 0 scid
  s.codec.avoid.get 0 scid != e + 1
    && (p == e + 1 || p == 0 || decide ((p ≤ 32) ≠ (e < 32)) || p == s.codec.avoid.get 0 scid || !engFree s (p - 1))

/-- Bytes of history that a hash table is primed with (R160). -/
def primed (s : State) (scid : Nat) : Nat :=
  let c := ctxOf s scid
  min (min (2 ^ c.winlog.toNat) (fld s Reg.czCfg Fld.czCfgPrime * 4096)) ((c.toks.map (fun k => k.2)).foldl (· + ·) 0)

/-- Put a job on an engine (R159, R160): an engine whose latest job ran the context, with nothing written to it since, keeps its hash
table; else the other slot takes the context and its table is primed. -/
def startJob (e : Nat) (j : Job) (s : State) : State :=
  let k := j.scid.toNat
  let n := primed s k
  let w := s.codec.writes.get 0 k
  let s := modCodec (fun c => { c with ranOn := c.ranOn.set 0 k (e + 1), avoid := c.avoid.set 0 k 0 }) s
  modEng e (fun x =>
    let aff := x.last == j.scid && x.seen == w
    { x with job := some j, last := j.scid, aff := aff, slot := if aff then x.slot else 1 - x.slot, reach := if aff then x.reach else n }) s

/-- An EXPAND of length 0 discards the record in progress and the history (R176). -/
def zeroExpand (t : Tid) (k : BitVec 16) (scid : Nat) (s : State) : State :=
  let s := dropDecoded t (ctxOf s scid).dBytes.length s
  let s := modCtx scid (fun c => { c with inrec := false, dBytes := [], dec := Dec.reset }) (endHistory scid s)
  let s := modCodec (fun c => { c with expands := c.expands.filter (fun e => e != (t.val, k)) }) s
  finish t 0 k stOk 0 s

/-- Start the job of a write stream. -/
def startWrite (e : Nat) (scid : BitVec 16) (s : State) : State :=
  match streamOf s scid.toNat with
  | none => s
  | some x =>
    let n := jobSize s scid x
    let ends := (uncoded x).any (fun r => r.got == r.len && before r.seq r.len (uncoded x) == n)
    let point := match nextPoint s scid x with
      | some p => if p.1 = n then some p.2 else none
      | none => none
    let named := (s.codec.drains.filter (fun d => d.scids.any (fun p => p.1 == scid))).filterMap (fun d => d.ticket.map (fun k => (d.t, k)))
    startJob e { Job.reset with
      scid := scid, t := some x.t, inLen := n, limit := jobSpace s scid x, fin := ends, drains := named, point := point } s

/-- Start the job of a COMP.EXPAND. -/
def startExpand (e : Nat) (t : Tid) (k : BitVec 16) (d : BitVec 256) (s : State) : State :=
  let scid : BitVec 16 := BitVec.ofNat 16 (expScid d)
  if fieldB d 128 32 = 0 then zeroExpand t k scid.toNat s
  else
    let out : W32 := partB d 96 32
    let lim := fieldB d 160 32
    let s := modCodec (fun c => { c with expands := c.expands.filter (fun x => x != (t.val, k)) }) s
    startJob e { Job.reset with
      scid := scid, t := some t.val, expand := some k, inTok := partB d 64 32, inLen := fieldB d 128 32, outTok := out
      limit := if lim = 0 then tokSize s out else min lim (tokSize s out) } s

/-- Begin or go on with an offload entry; one with an invalid field completes REJECTED (R180). -/
def startOffload (e : Nat) (i : Nat) (fresh : Bool) (s : State) : State :=
  let s := if fresh then modCodec (fun c => { c with offNext := (c.offNext + 1) % 65536 }) s else s
  if !offValid s i then offAdvance (offFinish i stRejected 0 0 0 s)
  else
    let n := offPiece s i
    let c := ctxOf s (offCtx i)
    let cz : Bool := offField s i 0 1 == 1
    let s := if fresh then modCtx (offCtx i) (fun _ => { Ctx.reset with
        dir := !cz, coding := BitVec.ofNat 8 (offField s i 1 1), winlog := BitVec.ofNat 8 (offField s i 2 1)
        codeSel := BitVec.ofNat 8 (offField s i 3 1 % 4), level := BitVec.ofNat 8 (offField s i 3 1 / 4) }) s else s
    startJob e { Job.reset with
      scid := BitVec.ofNat 16 (offCtx i), entry := some i, inLen := n
      limit := if cz then offField s i 0x1C 4 - c.rout else min 262144 (offField s i 0x1C 4 - c.dec.out)
      fin := c.rin + n == offField s i 0x18 4 } s

/-- The context of the next job of a requester for one kind of engine. -/
def jobScid (s : State) (cz : Bool) (r : JobReq) : Option Nat := match r with
  | .write scid => some scid.toNat
  | .expand t => (nextExpand s t.val).map (fun e => expScid e.2)
  | .offload => (nextOffload s cz).map (fun i => offCtx i.1)

/-- COMP_JOB_DISPATCH (R159): the requester whose turn it is gets the free engine. -/
def dispatchOp (r : JobReq) (e : Nat) (s : State) : State :=
  let cz : Bool := decide (e < 32)
  if engFree s e && (jobScid s cz r).any (fun k => engineFor s k e) then
    match drrPick s cz drrTurns s.codec.turn s.codec.credit with
    | none => s
    | some (q, credit) =>
      match nextJob s cz q with
      | none => s
      | some (j, _) =>
        if j = r then
          let s := modCodec (fun c => { c with turn := q, credit := credit }) s
          match r with
          | .write scid => startWrite e scid s
          | .expand t => match nextExpand s t.val with
            | some (k, d) => startExpand e t k d s
            | none => s
          | .offload => match nextOffload s cz with
            | some (i, fresh) => startOffload e i fresh s
            | none => s
        else s
  else s

/-! ### A compression job stops (R165, R166, R170-R174) -/

/-- What of a job's input falls to each record: the record, its input bytes, whether it ends with them (R159, R164). -/
def jobPieces : List Rec → Nat → List (Rec × Nat × Bool)
  | [], _ => []
  | r :: l, n =>
    let k := min (r.got - r.used) n
    if r.used + k = r.len then (r, k, true) :: (if k < n then jobPieces l (n - k) else []) else [(r, k, false)]

/-- What an engine found for a piece is what it can have found (R160-R165, R168): its matches copy the input, and the dynamic codes it
reckoned with serve the block. -/
def codingFits (c : Ctx) (empty : Bool) (reach : Nat) (past src : List (Byte × Bool)) (x : Coding) : Bool :=
  let code := c.codeSel.toNat
  empty || code == 1 || (copiesFit c.winlog.toNat (min reach past.length) x.copies past src
    && (code == 2 || (code == 0 && src.isEmpty) || dynFits (c.coding == 1) x (src.map (fun b => b.1))))

/-- Code a piece (R165, R166, R170, R171), behind the pending bits of its context. -/
def codePiece (c : Ctx) (room : Nat) (how : PieceEnd) (empty : Bool) (x : Coding) (input : List Byte) : PieceOut :=
  putPiece (8 * room) how c.codeSel.toNat (c.coding == 1) empty x input (bitList c.pcnt c.pend.toNat)

/-- The context's fields let a job run (R170). -/
def ctxValid (c : Ctx) : Bool :=
  ((c.coding == 0 && c.winlog == 15) || (c.coding == 1 && decide (15 ≤ c.winlog.toNat ∧ c.winlog.toNat ≤ 20)))
    && decide (c.codeSel.toNat ≤ 3 ∧ c.pcnt ≤ 63)

/-- The record header (R69, R173). -/
def recHeader (c : Ctx) (r : Rec) (dep : Bool) : List Byte :=
  let h := leBytes 16 r.objid.toNat ++ leBytes 8 r.len ++ zeros 12 ++ [c.coding, c.winlog] ++ leBytes 2 dep.toNat ++ leBytes 4 c.hbase.toNat
  h ++ leBytes 4 (crc32c h).toNat

/-- The record trailer (R69, R173). -/
def recTrailer (clen : Nat) (crc : W32) : List Byte :=
  let h := leBytes 8 clen ++ leBytes 4 crc.toNat
  h ++ leBytes 4 (crc32c h).toNat

/-- Parts of the record's input buffers in bytes [a, a + n): token, offset in the buffer, length, bytes of the buffer. -/
def bufParts (a n : Nat) : Nat → List (W32 × Nat) → List (W32 × Nat × Nat × Nat)
  | _, [] => []
  | p, (k, m) :: l =>
    let lo := max a p
    let hi := min (a + n) (p + m)
    if lo < hi then (k, lo - p, hi - lo, m) :: bufParts a n (p + m) l else bufParts a n (p + m) l

/-- Read the input of a piece: poisoned or not, and the bytes (R168, R173). -/
def readParts : List (W32 × Nat × Nat × Nat) → State → Bool × List Byte × State
  | [], s => (false, [], s)
  | (k, o, n, _) :: l, s =>
    let r := demandRead (tokAddr s k + o) n s
    let q := readParts l r.2
    (r.1 || q.1, bufGet r.2 k o n ++ q.2.1, q.2.2)

/-- Whether each byte of an input lies in a poisoned range. -/
def partFlags (s : State) (l : List (W32 × Nat × Nat × Nat)) : List Bool :=
  l.flatMap (fun p => (List.range p.2.2.1).map (fun i => s.mem.poison.contains ((tokAddr s p.1 + p.2.1 + i) / 128)))

/-- A record begins with a history break (R169). -/
def breaksAt (s : State) (scid : Nat) (r : Rec) : Bool :=
  let c := ctxOf s scid
  let brk := fld s Reg.czCfg Fld.czCfgBrkmb
  !c.hvalid || (fld s Reg.czCfg Fld.czCfgBrkObj == 1 && c.objid != r.objid) || (brk != 0 && decide (brk * 2 ^ 20 ≤ c.hbytes)) || c.prec

/-- A record begins: history is kept or broken (R169). -/
def openRecord (scid : Nat) (r : Rec) (s : State) : State :=
  let s := if breaksAt s scid r then
      modCtx scid (fun c => { c with hvalid := true, hbytes := 0, hbase := r.seq }) (dropHistory scid s)
    else s
  modCtx scid (fun c => { c with inrec := true, prec := false, rin := 0, rout := 0, rcrc := 0, seq := r.seq, objid := r.objid }) s

/-- Bytes of the buffer at a place of a record's input that lie past it, where that buffer is the newest listed. -/
def pastResume (c : Ctx) (used : Nat) (p : Nat) : List (W32 × Nat) → Nat
  | [] => 0
  | (k, m) :: l =>
    if used ≤ p + m ∧ p < used then (if (c.toks.getLast?.map (fun x => x.1)) = some k then p + m - used else 0) else pastResume c used (p + m) l

/-- Take input of a stream out of the arrivals. -/
def takeArrivals (scid : BitVec 16) : Nat → List (BitVec 16 × Nat) → List (BitVec 16 × Nat)
  | _, [] => []
  | n, (k, m) :: l =>
    if k ≠ scid then (k, m) :: takeArrivals scid n l
    else if m ≤ n then takeArrivals scid (n - m) l
    else (k, m - n) :: l

/-- What a stopped job has done so far: input consumed, coded bytes, blocks of each coding, and whether it stopped for want of space. -/
structure JobOut where
  used : Nat
  bytes : Nat
  stored : Nat
  static : Nat
  dyn : Nat
  space : Bool
deriving DecidableEq, Repr

/-- A piece has been coded: the context moves on, and a work item goes to the assembler (R25, R167-R173). -/
def pieceDone (t : Tid) (scid : BitVec 16) (r : Rec) (done flush : Bool) (lim : Nat) (input : List Byte) (flags : List Bool) (o : PieceOut)
    (s : State) : State :=
  let k := scid.toNat
  let begins := !(ctxOf s k).inrec
  let dep := begins && !breaksAt s k r
  let s := if begins then openRecord k r s else s
  let parts := bufParts r.used o.used 0 r.bufs
  let poison := (flags.take o.used).any id
  let s := if poison then codecError Fld.codecErrPoison k s else s
  let s := forAll parts (fun p => listToken k (p.1, p.2.2.2)) s
  let n := wholeBytes lim o
  let pend := o.bits.drop (8 * n)
  let s := modCtx k (fun c => { c with
    prec := c.prec || poison, rin := c.rin + o.used, rout := c.rout + n, rcrc := crcMore c.rcrc (input.take o.used), hbytes := c.hbytes + o.used
    pend := BitVec.ofNat 64 (streamNat pend), pcnt := pend.length, lastuse := BitVec.ofNat 32 (nowMs s) }) s
  let s := trimHistory k (pastResume (ctxOf s k) (r.used + o.used) 0 r.bufs) s
  let c := ctxOf s k
  let data := (if begins then recHeader c r dep else []) ++ packBits n o.bits
    ++ (if done then recTrailer c.rout (if c.prec then c.rcrc ^^^ 0xFFFFFFFF else c.rcrc) else [])
  let lastRec : Bool := done && ((streamOf s k).map (fun x => x.recs.all (fun y => y.cmd != r.cmd || decide (y.seq.toNat ≤ r.seq.toNat)))).getD true
  let item : Item := {
    xport := BitVec.ofNat 3 t.val, ctag := r.cmd, scid := scid, token := (parts.head?.map (fun p => p.1)).getD 0, seq := r.seq, flush := flush
    last := lastRec, stored := decide (0 < o.stored), poison := poison, first := begins, fin := done, full := o.space, data := data }
  let s := modRec k r.seq (fun y => { y with used := y.used + o.used, coded := done }) s
  let s := if done then modCtx k (fun c => { c with inrec := false }) s else s
  if data.isEmpty && !flush && !o.space then s else modAsm t (fun a => { a with items := a.items ++ [item] }) s

/-- A piece that ends with nothing done leaves its context as it is; an output space that ended is still reported (R170). -/
def pieceNone (t : Tid) (scid : BitVec 16) (r : Rec) (o : PieceOut) (s : State) : State :=
  if o.space then
    modAsm t (fun a => { a with items := a.items ++ [{ Item.reset with
      xport := BitVec.ofNat 3 t.val, ctag := r.cmd, scid := scid, seq := r.seq, full := true }] }) s
  else s

/-- The pieces of a stopped job in order, in an output space of room bytes. None where the engine's report is none it can have made. A
piece that is not consumed whole ends the job (R170). -/
def piecesDone (t : Tid) (j : Job) (reach : Nat) : List (Rec × Nat × Bool) → List Coding → Nat → JobOut → State → Option (JobOut × State)
  | [], _, _, a, s => some (a, s)
  | (r, n, ends) :: l, xs, room, a, s =>
    let k := j.scid.toNat
    let c := ctxOf s k
    let past := if !c.inrec && breaksAt s k r then [] else ctxHist s k (pastResume c r.used 0 r.bufs)
    let parts := bufParts r.used n 0 r.bufs
    let q := readParts parts s
    let s := q.2.2
    let flags := partFlags s parts
    let x := xs.headD ⟨[], [], [], [], []⟩
    let how : PieceEnd := if ends then .final else if l.isEmpty && j.point.isSome then .point else .inside
    if codingFits c (r.len == 0) (reach + a.used) past (q.2.1.zip flags) x then
      let o := codePiece c room how (r.len == 0) x q.2.1
      let m := wholeBytes (8 * room) o
      let done := ends && !o.space
      let flush := l.isEmpty && !o.space && decide (o.used = n ∧ 0 < j.inLen) && j.point == some true
      let idle := o.used == 0 && !done && o.bits.length == c.pcnt && m == 0
      let s := if idle then pieceNone t j.scid r o s else pieceDone t j.scid r done flush (8 * room) q.2.1 flags o s
      let a : JobOut := ⟨a.used + o.used, a.bytes + m, a.stored + o.stored, a.static + o.static, a.dyn + o.dyn, o.space⟩
      if done && !l.isEmpty then piecesDone t j reach l (xs.drop 1) ((room - m - 16) / 8 * 8 - 64) a s else some (a, s)
    else none

/-- CZ_NSTORED, CZ_NSTATIC, CZ_NDYN, CZ_BIN, CZ_BOUT. -/
def countBlocks (a : JobOut) (s : State) : State :=
  let add (r : Nat → Nat) (v : Nat) (s : State) : State := setPair (r 0) (r 1) (pair s (r 0) (r 1) + v) s
  add Reg.czBout a.bytes (add Reg.czBin a.used (add Reg.czNdyn a.dyn (add Reg.czNstatic a.static (add Reg.czNstored a.stored s))))

/-- The drains that caused a job count its bytes (R172). -/
def countDrains (j : Job) (bytes : Nat) (s : State) : State :=
  modCodec (fun c => { c with drains := c.drains.map (fun d =>
    if d.ticket.any (fun k => j.drains.contains (d.t, k)) then { d with bytes := d.bytes + bytes } else d) }) s

/-- The stream has come to its points at distance 0 (R172). -/
def reachPoints (scid : BitVec 16) (s : State) : State :=
  match streamOf s scid.toNat with
  | none => s
  | some x =>
    let here (p : BitVec 16 × W32 × Nat) : Bool := p.1 == scid && before p.2.1 p.2.2 (uncoded x) == 0
    modCodec (fun c => { c with
      drains := (c.drains.map (fun d => { d with scids := d.scids.filter (fun p => !here p) })).filter (fun d => !(d.ticket.isNone && d.scids.isEmpty)) }) s

/-- A FLUSH point at which no data is left to send: a work item with FLUSH = 1 and no data goes to the assembler, with the command's tag,
when the open dataset holds, or is to hold, a segment of an unsealed record of the stream (R172). -/
def flushItem (scid ctag : BitVec 16) (x : Stream) (s : State) : State :=
  let t := tid x.t
  let a := (tpOf s t).asm
  let held := a.items.any (fun i => i.scid == scid && !i.data.isEmpty) || a.opn.any (fun o => o.segs.any (fun g =>
    g.typ == 1 && g.scid == scid && x.recs.any (fun r => r.seq == g.seq && !r.sealed)))
  if held then
    modAsm t (fun a => { a with items := a.items ++ [{ Item.reset with xport := BitVec.ofNat 3 t.val, ctag := ctag, scid := scid, flush := true }] }) s
  else s

/-- The tag of the command whose FLUSH point a stream has come to. -/
def flushTag (s : State) (scid : BitVec 16) (x : Stream) : BitVec 16 :=
  ((s.codec.drains.find? (fun d => d.ticket.isNone && d.scids.any (fun p =>
    p.1 == scid && before p.2.1 p.2.2 (uncoded x) == 0))).map (fun d => d.tag)).getD 0xFFFF

/-- The pieces of a write stream's job have been coded: input leaves the arrivals and the fill, points are reached, and a stream that
consumed nothing waits (R159, R172). -/
def writeJobDone (t : Tid) (j : Job) (x : Stream) (a : JobOut) (s : State) : State :=
  let s := countDrains j a.bytes (countBlocks a s)
  let s := modCodec (fun c => { c with arrivals := takeArrivals j.scid a.used c.arrivals }) s
  let s := modTp t (fun x => { x with yoyo := { x.yoyo with hostBytes := x.yoyo.hostBytes - a.used } }) s
  if j.point.isSome && a.used == j.inLen && !a.space then
    let tag := flushTag s j.scid ((streamOf s j.scid.toNat).getD x)
    let s := reachPoints j.scid s
    if j.point = some true ∧ j.inLen = 0 then flushItem j.scid tag x s else s
  else if a.used = 0 ∧ !a.space then modCodec (fun c => { c with parked := c.parked ++ [j.scid] }) s
  else s

/-- The engine is free, and its hash table holds the context up to the resume position (R160). -/
def freeEngine (e : Nat) (j : Job) (used : Nat) (s : State) : State :=
  let w := s.codec.writes.get 0 j.scid.toNat
  modEng e (fun x => { x with job := none, reach := x.reach + used, seen := w }) s

/-- A write stream's job stops (R170). An invalid context field stops it with nothing done. -/
def compWriteDone (e : Nat) (t : Tid) (j : Job) (l : List Coding) (s : State) : State :=
  match streamOf s j.scid.toNat with
  | none => modEng e (fun x => { x with job := none }) s
  | some x =>
    if !ctxValid (ctxOf s j.scid.toNat) then
      modCodec (fun c => { c with parked := c.parked ++ [j.scid] }) (modEng e (fun x => { x with job := none }) s)
    else
      match piecesDone t j (engOf s e).reach (jobPieces (uncoded x) j.inLen) l j.limit ⟨0, 0, 0, 0, 0, false⟩ s with
      | none => s
      | some (a, s) => freeEngine e j a.used (writeJobDone t j x a s)

/-- An offload compression job stops (R179, R180): a piece of an entry with no record header, trailer or earlier history. -/
def compOffloadDone (e i : Nat) (j : Job) (l : List Coding) (s : State) : State :=
  let k := j.scid.toNat
  let src := offField s i 8 8
  let c := ctxOf s k
  let input := s.hostMem.read 0 (src + c.rin) j.inLen
  let back := min c.rin (2 ^ c.winlog.toNat)
  let past := (s.hostMem.read 0 (src + c.rin - back) back).reverse.map (fun b => (b, false))
  let x := l.headD ⟨[], [], [], [], []⟩
  if codingFits c false ((engOf s e).reach) past (input.map (fun b => (b, false))) x then
    let o := codePiece c j.limit (if j.fin then .final else .inside) false x input
    let n := wholeBytes (8 * j.limit) o
    let pend := o.bits.drop (8 * n)
    let s := hostWrite (offField s i 0x10 8 + c.rout) (packBits n o.bits) s
    let s := countBlocks ⟨o.used, n, o.stored, o.static, o.dyn, o.space⟩ s
    let c' := { c with
      rin := c.rin + o.used, rout := c.rout + n, rcrc := crcMore c.rcrc (input.take o.used), pend := BitVec.ofNat 64 (streamNat pend), pcnt := pend.length }
    let s := freeEngine e j o.used (modCtx k (fun _ => c') s)
    if o.space then offAdvance (offFinish i 0x14 c'.rin c'.rout c'.rcrc s)
    else if j.fin then offAdvance (offFinish i stOk c'.rin c'.rout c'.rcrc s)
    else s
  else s

/-- COMP_JOB_STOP (R170). -/
def compStopOp (e : Nat) (l : List Coding) (s : State) : State :=
  match (engOf s e).job with
  | none => s
  | some j =>
    match j.entry, j.t with
    | some i, _ => compOffloadDone e i j l s
    | none, some t => compWriteDone e (tid t) j l s
    | none, none => s

/-! ### Points (R172) -/

/-- Where the input received so far of a stream ends. -/
def inputEnd (x : Stream) : Option (W32 × Nat) :=
  match (uncoded x).filter (fun r => decide (0 < r.got) || r.len == 0) with
  | [] => none
  | l => l.getLast?.map (fun r => (r.seq, r.got))

/-- A point of a stream needs a job: pending input, an open record, or pending bits (R172). -/
def pointNeedsJob (s : State) (scid : Nat) (x : Stream) : Bool :=
  decide (0 < pendingIn (uncoded x)) || endsOnly x || (ctxOf s scid).inrec || decide (0 < (ctxOf s scid).pcnt)

/-- The place of a point made now. -/
def pointPlace (x : Stream) : W32 × Nat := (inputEnd x).getD (x.next, 0)

/-- A FLUSH point of a stream (R172), made at once where nothing is pending; ctag is the tag of the command that makes it. -/
def flushPoint (scid ctag : BitVec 16) (x : Stream) (s : State) : State :=
  let s := modCodec (fun c => { c with parked := c.parked.filter (fun k => k != scid) }) s
  if pointNeedsJob s scid.toNat x || ctxRunning s scid.toNat then
    modCodec (fun c => { c with drains := c.drains ++ [⟨x.t, none, [(scid, (pointPlace x).1, (pointPlace x).2)], 0, ctag⟩] }) s
  else flushItem scid ctag x s

/-- COMP.DRAIN (R172, R47). -/
def compDrainOp (t : Tid) (s : State) : State :=
  onHead t 0 1 2 (fun y s =>
    let a := descArg y.desc
    let all := writeStreams s t.val
    let named := if a = 0xFFFFFFFF then all else all.filter (fun x => x.1 == a)
    if descFits y.desc 0xFFFFFFFF 0 0 0 && (a == 0xFFFFFFFF || !named.isEmpty) then
      let scids := (named.filter (fun x => pointNeedsJob s x.1 x.2 || ctxRunning s x.1)).map (fun x =>
        (BitVec.ofNat 16 x.1, (pointPlace x.2).1, (pointPlace x.2).2))
      let s := modCodec (fun c => { c with
        parked := c.parked.filter (fun k => !named.any (fun x => x.1 == k.toNat))
        drains := c.drains ++ [⟨t.val, some y.ticket, scids, 0, 0xFFFF⟩] }) s
      takeDesc t 0 y.ticket s
    else reject t 0 y s) s

/-- DRAIN_COMPLETE (R172): the oldest drain of the slice whose streams have all reached their points. -/
def drainDoneOp (t : Tid) (s : State) : State :=
  match s.codec.drains.find? (fun d => d.t == t.val && d.ticket.isSome && d.scids.isEmpty) with
  | none => s
  | some d =>
    match d.ticket with
    | none => s
    | some k => finish t 0 k stOk (BitVec.ofNat 32 d.bytes) (modCodec (fun c => { c with drains := c.drains.erase d }) s)

/-! ### Decompression (R175-R178) -/

abbrev stBadcode : BitVec 8 := 0x10
abbrev stCrcMismatch : BitVec 8 := 0x11
abbrev stLengthMismatch : BitVec 8 := 0x12
abbrev stNoHistory : BitVec 8 := 0x13
abbrev stNeedOutput : BitVec 8 := 0x14
abbrev stNeedInput : BitVec 8 := 0x15

/-- COMP.EXPAND (R175, R47): taken by the dispatcher. -/
def compExpandOp (t : Tid) (s : State) : State :=
  onHead t 0 2 2 (fun y s =>
    let d := y.desc
    let a := descArg d
    let ok := match streamOf s a with
      | some x => x.read && x.t == t.val && decide (a < 40960)
      | none => false
    let inTok : W32 := partB d 64 32
    let outTok : W32 := partB d 96 32
    let n := fieldB d 128 32
    if descFits d 0xFFFFFFFF (~~~0) (~~~0) 0 && ok
        && (n == 0 || (tokenHeld s (4 + t.val) inTok && tokenHeld s (4 + t.val) outTok && decide (n ≤ tokSize s inTok))) then
      let s := takeDesc t 0 y.ticket s
      if n = 0 ∧ !ctxRunning s a ∧ !s.codec.expands.any (fun e => ((expandDesc s e.1 e.2).map expScid) == some a) then zeroExpand t y.ticket a s
      else modCodec (fun c => { c with expands := c.expands ++ [(t.val, y.ticket)] }) s
    else reject t 0 y s) s

/-- A record header read back is usable (R69, R176). -/
def headGood (h : List Byte) : Bool :=
  leAt h 44 4 == (crc32c (h.take 44)).toNat
    && ((leAt h 36 1 == 0 && leAt h 37 1 == 15) || (leAt h 36 1 == 1 && decide (15 ≤ leAt h 37 1 ∧ leAt h 37 1 ≤ 20)))

/-- A record of a read stream has been decoded, or given up: it waits for delivery under the segment it came from (R263). -/
def deliver (t : Tid) (scid : Nat) (st : BitVec 8) (s : State) : State :=
  match streamOf s scid with
  | none => dropDecoded t (ctxOf s scid).dBytes.length s
  | some x =>
    match (tpOf s t).asm.disarm.find? (fun d => d.1 == x.posScid) with
    | none => dropDecoded t (ctxOf s scid).dBytes.length s
    | some d =>
      let c := ctxOf s scid
      let s := modAsm t (fun a => { a with disarm := a.disarm.erase d })  s
      modStream scid (fun x => { x with dec := x.dec ++ [⟨d.2.2, d.2.1, c.dOlen.toNat, st, c.dBytes, false⟩] }) s

/-- The CODEC_ERR event of a status, if it has one. -/
def statusError (st : BitVec 8) (guard : Bool) (scid : Nat) (s : State) : State :=
  if st = stBadcode then codecError Fld.codecErrBadcode scid s
  else if st = stCrcMismatch then codecError Fld.codecErrCrc scid s
  else if st = stLengthMismatch then codecError Fld.codecErrLength scid s
  else if st = stLimit then codecError (if guard then Fld.codecErrGuard else Fld.codecErrLimit) scid s
  else if st = stNoHistory then codecError Fld.codecErrNohist scid s
  else if st = stPoisoned then codecError Fld.codecErrPoison scid s
  else s

/-- Bytes of a range before its first poisoned line (R297). -/
def cleanBytes (s : State) (a n : Nat) : Nat :=
  (s.mem.poison.filter (fun l => decide (l * 128 < a + n ∧ a < l * 128 + 128))).foldl (fun m l => min m (l * 128 - a)) n

/-- The status at a record's end (R178): c is the context as the job leaves it, o the decoder, left whether input is left in the piece. -/
def endStatus (c : Ctx) (d : Dec) (crc : W32) (left : Bool) : BitVec 8 :=
  if left ∨ leAt d.trl 12 4 ≠ (crc32c (d.trl.take 12)).toNat then stBadcode
  else if d.out ≠ c.dOlen.toNat ∨ ceilDiv d.bits 8 ≠ leAt d.trl 0 8 then stLengthMismatch
  else if crc.toNat ≠ leAt d.trl 8 4 then stCrcMismatch
  else stOk

/-- The status of a job by why its decoder stopped, and whether it was the ratio guard (R177, R178): lim is the descriptor's limit, 0 =
none; clean whether the whole piece was read without poison. -/
def expandStatus (c : Ctx) (lim : Nat) (clean : Bool) (r : DecRun) (x : DecEnd) : BitVec 8 × Bool := match x with
  | .ended => (endStatus c r.d (crcMore c.rcrc r.out.reverse) (!r.bits.isEmpty || !clean), false)
  | .input => (if clean then stNeedInput else stPoisoned, false)
  | .output => (if lim ≠ 0 ∧ lim ≤ r.n then stLimit else stNeedOutput, false)
  | .guard => (stLimit, true)
  | .bad => (stBadcode, false)

/-- The decoder state to save (R175, R178): after NEED_INPUT the bits of an element cut off go on before the next piece; after
NEED_OUTPUT decoding resumes at the bit offset within the same piece. before are the bits the job began with ahead of the piece. -/
def savedDec (c : Ctx) (bits : List Bool) (r : DecRun) (x : DecEnd) : Dec :=
  let eaten := bits.length - r.bits.length
  match x with
  | .input => { r.d with off := 0, carry := r.bits }
  | .output => { r.d with off := c.dec.off + (eaten - c.dec.carry.length), carry := c.dec.carry.drop eaten }
  | _ => Dec.reset

/-- A stop that discards the record and the history. -/
def discardsRecord (st : BitVec 8) : Bool := st != stOk && st != stNeedInput && st != stNeedOutput && st != stNoHistory

/-- What a decompression engine decodes a piece with (R175-R177). -/
def decEnv (s : State) (scid room : Nat) (trl : Bool) (hist : List Byte) : DecEnv :=
  let c := ctxOf s scid
  ⟨c.coding == 1, c.winlog.toNat, fld s Reg.dzGuard Fld.dzGuardRatio, room, trl, hist⟩

/-- The bits of a job: those carried over, then the piece's from the bit offset on, up to its first poisoned range. -/
def pieceBits (s : State) (j : Job) : List Bool :=
  let d := (ctxOf s j.scid.toNat).dec
  d.carry ++ (streamBits (bufGet s j.inTok 0 (cleanBytes s (tokAddr s j.inTok) j.inLen))).drop d.off

/-- A job on a COMP.EXPAND decodes its piece (R175-R178). -/
def expandRun (s : State) (j : Job) : DecRun × DecEnd :=
  let scid := j.scid.toNat
  decode (decEnv s scid j.limit true ((ctxHist s scid 0).map (fun b => b.1))) (ctxOf s scid).dec (pieceBits s j)

/-- A COMP.EXPAND job that is decoding stops: output written, context saved or discarded, completion posted (R178). -/
def expandDone (t : Tid) (k : BitVec 16) (j : Job) (lim : Nat) (s : State) : State :=
  let scid := j.scid.toNat
  let c := ctxOf s scid
  let q := expandRun s j
  let bytes := q.1.out.reverse
  let (st, guard) := expandStatus c lim (cleanBytes s (tokAddr s j.inTok) j.inLen == j.inLen) q.1 q.2
  let d := savedDec c (pieceBits s j) q.1 q.2
  let s := statusError st guard scid (bufPut j.outTok 0 bytes s)
  let s := modCtx scid (fun c => { c with
    dec := d, rcrc := crcMore c.rcrc bytes, dBytes := c.dBytes ++ bytes, lastuse := BitVec.ofNat 32 (nowMs s) }) s
  let s := if bytes = [] then s else trimHistory scid 0 (listToken scid (j.outTok, bytes.length) s)
  let s := modTp t (fun x => { x with yoyo := { x.yoyo with rdBytes := x.yoyo.rdBytes + bytes.length } }) s
  let s := takeDecoded t (((pieceBits s j).length - q.1.bits.length) / 8) s
  let s := if st = stOk ∨ discardsRecord st then deliver t scid st s else s
  let s := if st = stOk then modCtx scid (fun c => { c with inrec := false, hvalid := true, dBytes := [] }) s
    else if discardsRecord st then modCtx scid (fun c => { c with inrec := false, dBytes := [] }) (endHistory scid s)
    else s
  finish t 0 k st (BitVec.ofNat 32 bytes.length) s

/-- A job that takes a new record reads its header first (R176). -/
def expandHeader (j : Job) (s : State) : Option (BitVec 8) × State :=
  let scid := j.scid.toNat
  let c := ctxOf s scid
  if c.inrec then (none, s)
  else
    let h := bufGet s j.inTok 0 48
    let base : W32 := BitVec.ofNat 32 (leAt h 40 4)
    if cleanBytes s (tokAddr s j.inTok) j.inLen < min 48 j.inLen then (some stPoisoned, s)
    else if j.inLen < 48 ∨ !headGood h then (some stBadcode, s)
    else if bitOf (leAt h 38 2) 0 ∧ !(c.hvalid && c.hbase == base) then (some stNoHistory, s)
    else
      let s := if bitOf (leAt h 38 2) 0 then s else modCtx scid (fun c => { c with hbase := base }) (dropHistory scid s)
      (none, modCtx scid (fun c => { c with
        inrec := true, coding := BitVec.ofNat 8 (leAt h 36 1), winlog := BitVec.ofNat 8 (leAt h 37 1), rcrc := 0
        dec := { Dec.reset with off := 384 }, dBytes := [], dOlen := BitVec.ofNat 64 (leAt h 16 8), objid := BitVec.ofNat 128 (leAt h 0 16) }) s)

/-- The status of a record whose header ends the job (R90, R176): a header whose HCRC fails ends the record UNCORRECTABLE. -/
def headStatus (s : State) (j : Job) (st : BitVec 8) : BitVec 8 :=
  let h := bufGet s j.inTok 0 48
  if st = stBadcode ∧ 48 ≤ j.inLen ∧ leAt h 44 4 ≠ (crc32c (h.take 44)).toNat then stUncorrectable else st

/-- A COMP.EXPAND job stops (R178). -/
def expandJobDone (t : Tid) (k : BitVec 16) (j : Job) (s : State) : State :=
  let lim := ((expandDesc s t.val k).map (fun d => fieldB d 160 32)).getD 0
  let r := demandRead (tokAddr s j.inTok) j.inLen s
  let q := expandHeader j r.2
  match q.1 with
  | none => expandDone t k j lim q.2
  | some st =>
    let s := statusError st false j.scid.toNat q.2
    let s := if st = stNoHistory then s
      else
        let s := modCtx j.scid.toNat (fun c => { c with dBytes := [], dOlen := 0 }) s
        endHistory j.scid.toNat (deliver t j.scid.toNat (headStatus s j st) s)
    finish t 0 k st 0 s

/-- A host offload expansion decodes the rest of its entry's input, up to 262,144 bytes of output (R159, R179): no header, no trailer,
no history before the entry. -/
def offloadRun (s : State) (i : Nat) (j : Job) : DecRun × DecEnd :=
  let c := ctxOf s j.scid.toNat
  let at' := c.dec.bits / 8
  let bits := (streamBits (s.hostMem.read 0 (offField s i 8 8 + at') (offField s i 0x18 4 - at'))).drop (c.dec.bits % 8)
  decode (decEnv s j.scid.toNat j.limit false (c.dBytes.reverse.take (2 ^ c.winlog.toNat))) c.dec bits

/-- A host offload expansion stops (R179, R180). -/
def expandOffloadDone (i : Nat) (j : Job) (s : State) : State :=
  let c := ctxOf s j.scid.toNat
  let q := offloadRun s i j
  let bytes := q.1.out.reverse
  let s := hostWrite (offField s i 0x10 8 + c.dec.out) bytes s
  let c' := { c with dec := q.1.d, rcrc := crcMore c.rcrc bytes, rin := ceilDiv q.1.d.bits 8, inrec := true, dBytes := c.dBytes ++ bytes }
  let s := modCtx j.scid.toNat (fun _ => c') s
  let done (st : BitVec 8) (guard : Bool) (s : State) : State :=
    offAdvance (offFinish i st c'.rin c'.dec.out c'.rcrc (statusError st guard j.scid.toNat s))
  match q.2 with
  | .guard => done stLimit true s
  | .ended => done (if c'.rin = offField s i 0x18 4 then stOk else stBadcode) false s
  | .bad => done stBadcode false s
  | .input => done stNeedInput false s
  | .output => if offField s i 0x1C 4 ≤ c'.dec.out then done stNeedOutput false s else s

/-- EXPAND_JOB_STOP (R178). -/
def expStopOp (e : Nat) (s : State) : State :=
  match (engOf s (32 + e)).job with
  | none => s
  | some j =>
    let go (s : State) : State := match j.entry, j.t, j.expand with
      | some i, _, _ => expandOffloadDone i j s
      | none, some t, some k => expandJobDone (tid t) k j s
      | _, _, _ => s
    freeEngine (32 + e) j 0 (go (modEng (32 + e) (fun x => { x with job := none }) s))

/-! ### Engines (R161), idle history (R169), the offload registers -/

/-- CODEC_ENGINE_FAULT (R161, R324 classes 2 and 3). -/
def engineFaultOp (e : Nat) (s : State) : State :=
  if (engOf s e).job.isSome then faultEvent (if e < 32 then unitId 2 e else unitId 3 (e - 32)) 0 0 (abandonJob e s) else s

/-- HISTORY_IDLE_RELEASE (R169). -/
def historyIdleOp (scid : Nat) (s : State) : State :=
  if fld s Reg.czHidle Fld.czHidleMs ≠ 0 ∧ (ctxOf s scid).hvalid ∧ (ctxOf s scid).dir = false ∧ !ctxRunning s scid then endHistory scid s else s

/-- A write of CODEC_ENG.RETIRED: firmware's alone (R161, R181). -/
def codecRetireOp (e : Nat) (retired : Bool) (s : State) : State :=
  let u := if e < 32 then unitId 2 e else unitId 3 (e - 32)
  if retired then retireCodec e s
  else markReturned u { s with codec := { s.codec with retired := s.codec.retired.set 0 e 0 } }

/-- OFFLOAD_SUBMIT (R179): a TAIL more than the ring ahead of HEAD is ignored and logged. -/
def offSubmitOp (tail : Nat) (s : State) : State :=
  let h := fld s Reg.codecOqhead Fld.codecOqheadHead
  if (tail + 65536 - h) % 65536 ≤ offSize s then
    setFld Reg.codecOqtail Fld.codecOqtailTail tail (modCodec (fun c => { c with offTail := tail }) s)
  else logAccess Reg.codecOqtail s

/-- OFFLOAD_ENABLE (R180): SIZE may change only while EN = 0, and must lie in 4-16. -/
def offEnableOp (cfg : W32) (s : State) : State :=
  let en := fieldB cfg 0 1
  let size := fieldB cfg 1 5
  let s := setFld Reg.codecOqcfg Fld.codecOqcfgVector (fieldB cfg 16 11) s
  let s := if fld s Reg.codecOqcfg Fld.codecOqcfgEn = 1 ∨ size = fld s Reg.codecOqcfg Fld.codecOqcfgSize then s
    else if 4 ≤ size ∧ size ≤ 16 then setFld Reg.codecOqcfg Fld.codecOqcfgSize size s
    else logAccess Reg.codecOqcfg s
  setFld Reg.codecOqcfg Fld.codecOqcfgEn en s

end Sys2Proof.Machine
end

