-- ==== Sys2Proof/Machine/SeqCore.lean ====
section
/-! DEFINITION. Rhoval-F inside one sequencer (R37, R40, R41): registers, data memory, arithmetic, loads and stores,
descriptor-register operations, branches and jumps. What reaches other blocks is in Sequencer.lean. -/
namespace Sys2Proof.Machine

/-- General register r; g0 reads zero (R37). -/
def gGet (q : Seq) (r : BitVec 5) : W64 := if r = 0 then 0 else q.g.get 0 r.toNat

/-- Write general register r; a write to g0 is ignored (R37). -/
def gSet (r : BitVec 5) (v : W64) (q : Seq) : Seq := if r = 0 then q else { q with g := q.g.set 0 r.toNat v }

/-- Descriptor register n (R37). -/
def dGet (q : Seq) (n : Nat) : BitVec 256 := q.d.get 0 n

/-- Write descriptor register n. -/
def dSet (n : Nat) (v : BitVec 256) (q : Seq) : Seq := { q with d := q.d.set 0 n v }

/-- The instruction word at PC (R37); the address wraps in the 64 KiB of code memory (log entry 11). -/
def fetchWord (q : Seq) : W32 := BitVec.ofNat 32 (memLe q.code (q.pc.toNat / 4 * 4) 4)

/-- PC moves past the instruction. -/
def nextPc (q : Seq) : Seq := { q with pc := q.pc + 4 }

/-- Exception causes (R54). -/
abbrev exIllegal : Nat := 1
abbrev exImemRange : Nat := 2
abbrev exDmemAlign : Nat := 3
abbrev exDmemRange : Nat := 4
abbrev exDescPort : Nat := 5
abbrev exWatchdog : Nat := 6
abbrev exBreak : Nat := 7

/-- How an instruction ends: done, with the cycles it took (R40), or in an exception with its cause and EVAL (R54). -/
inductive FRes where
  | ok (q : Seq) (cycles : Nat)
  | exc (cause : Nat) (eval : W64)
deriving DecidableEq, Repr

/-- The cause a data access of n bytes at a raises, if any (R41, log entry 8). -/
def dataFault (a : W64) (n : Nat) : Option Nat :=
  let mis := a.toNat % n ≠ 0
  let out := 65536 < a.toNat + n
  if mis ∧ out then some (if Config.alignFirst then exDmemAlign else exDmemRange)
  else if mis then some exDmemAlign
  else if out then some exDmemRange
  else none

/-- The ALU functions (R40) and their cycles; func is one of the defined codes. -/
def fAlu (func : BitVec 11) (a b : W64) : W64 × Nat :=
  let sh := fieldB b 0 6
  match func.toNat with
  | 0x000 => (a + b, 1)
  | 0x001 => (a - b, 1)
  | 0x002 => (a &&& b, 1)
  | 0x003 => (a ||| b, 1)
  | 0x004 => (a ^^^ b, 1)
  | 0x005 => (a <<< sh, 1)
  | 0x006 => (a >>> sh, 1)
  | 0x007 => (a.sshiftRight sh, 1)
  | 0x008 => (if a.slt b then 1 else 0, 1)
  | 0x009 => (if a.ult b then 1 else 0, 1)
  | 0x00A => (a * b, 3)
  | 0x00B => (BitVec.ofNat 64 (a.toNat * b.toNat / 2 ^ 64), 3)
  | 0x00C => (if a.slt b then a else b, 1)
  | 0x00D => (if a.slt b then b else a, 1)
  | 0x00E => (if a.ult b then a else b, 1)
  | 0x00F => (if a.ult b then b else a, 1)
  | 0x010 => (BitVec.ofNat 64 (popCount 64 a.toNat), 1)
  | 0x011 => (BitVec.ofNat 64 (((List.range 64).find? (fun i => bitOf a.toNat (63 - i))).getD 64), 1)
  | _ => (BitVec.ofNat 64 (((List.range 64).find? (fun i => bitOf a.toNat i)).getD 64), 1)

/-- A register result, one cycle unless said otherwise. -/
def fWrite (rd : BitVec 5) (v : W64) (cycles : Nat) (q : Seq) : FRes := .ok (nextPc (gSet rd v q)) cycles

/-- A load of n bytes, zero-extended (LD, LW). -/
def fLoad (rd ra : BitVec 5) (imm : BitVec 16) (n cycles : Nat) (q : Seq) : FRes :=
  let a := gGet q ra + sext16 imm
  match dataFault a n with
  | some c => .exc c a
  | none => fWrite rd (BitVec.ofNat 64 (memLe q.data a.toNat n)) cycles q

/-- A store of the low n bytes of rd (ST, SW). -/
def fStore (rd ra : BitVec 5) (imm : BitVec 16) (n cycles : Nat) (q : Seq) : FRes :=
  let a := gGet q ra + sext16 imm
  match dataFault a n with
  | some c => .exc c a
  | none => .ok (nextPc { q with data := q.data.write 0 a.toNat (leBytes n (gGet q rd).toNat) }) cycles

/-- DLD: 32 bytes into a descriptor register. -/
def fDld (rd ra : BitVec 5) (imm : BitVec 16) (q : Seq) : FRes :=
  let a := gGet q ra + sext16 imm
  match dataFault a 32 with
  | some c => .exc c a
  | none => .ok (nextPc (dSet (fieldB rd 0 3) (BitVec.ofNat 256 (memLe q.data a.toNat 32)) q)) 2

/-- DST: a descriptor register into 32 bytes. -/
def fDst (rd ra : BitVec 5) (imm : BitVec 16) (q : Seq) : FRes :=
  let a := gGet q ra + sext16 imm
  match dataFault a 32 with
  | some c => .exc c a
  | none => .ok (nextPc { q with data := q.data.write 0 a.toNat (leBytes 32 (dGet q (fieldB rd 0 3)).toNat) }) 2

/-- A transfer of control; a target outside the image's code raises IMEM_RANGE (R41). -/
def fJump (target : W64) (q : Seq) : FRes :=
  if target.toNat < q.codeSize then .ok { q with pc := BitVec.setWidth 16 target } 1 else .exc exImemRange target

/-- The target of a branch or of JAL. -/
def fTarget (q : Seq) (imm : BitVec 16) : W64 := BitVec.setWidth 64 q.pc + sext16 imm * 4

/-- A jump that writes a link register when it is taken. -/
def fLink (rd : BitVec 5) (target : W64) (q : Seq) : FRes :=
  match fJump target q with
  | .ok q' n => .ok (gSet rd (BitVec.setWidth 64 q.pc + 4) q') n
  | .exc c v => .exc c v

/-- Whether a branch is taken (R40). -/
def fTaken (op : FBr) (a b : W64) : Bool :=
  match op with
  | .beq => a == b
  | .bne => a != b
  | .blt => a.slt b
  | .bge => !a.slt b
  | .bltu => a.ult b
  | .bgeu => !a.ult b

/-- A conditional branch. -/
def fBranch (op : FBr) (ra rb : BitVec 5) (imm : BitVec 16) (q : Seq) : FRes :=
  if fTaken op (gGet q ra) (gGet q rb) then fJump (fTarget q imm) q else .ok (nextPc q) 1

/-- The instructions that act inside the sequencer alone; none for the others. The instruction is legal (R38). -/
def fLocal (i : FInstr) (q : Seq) : Option FRes :=
  match i with
  | .reg rd ra rb func => some (fWrite rd (fAlu func (gGet q ra) (gGet q rb)).1 (fAlu func (gGet q ra) (gGet q rb)).2 q)
  | .branch op ra rb imm => some (fBranch op ra rb imm q)
  | .stage _ _ _ _ _ _ => none
  | .imm op rd ra imm =>
    let a := gGet q ra
    let zx : W64 := BitVec.setWidth 64 imm
    let sx : W64 := sext16 imm
    let sh := fieldB imm 0 6
    match op with
    | .addi => some (fWrite rd (a + sx) 1 q)
    | .andi => some (fWrite rd (a &&& zx) 1 q)
    | .ori => some (fWrite rd (a ||| zx) 1 q)
    | .xori => some (fWrite rd (a ^^^ zx) 1 q)
    | .slti => some (fWrite rd (if a.slt sx then 1 else 0) 1 q)
    | .sltiu => some (fWrite rd (if a.ult sx then 1 else 0) 1 q)
    | .lui => some (fWrite rd ((BitVec.setWidth 32 imm <<< 16).signExtend 64) 1 q)
    | .slli => some (fWrite rd (a <<< sh) 1 q)
    | .srli => some (fWrite rd (a >>> sh) 1 q)
    | .srai => some (fWrite rd (a.sshiftRight sh) 1 q)
    | .ld => some (fLoad rd ra imm 8 2 q)
    | .st => some (fStore rd ra imm 8 2 q)
    | .lw => some (fLoad rd ra imm 4 1 q)
    | .sw => some (fStore rd ra imm 4 1 q)
    | .dld => some (fDld rd ra imm q)
    | .dst => some (fDst rd ra imm q)
    | .dins =>
      let n := fieldB rd 0 3
      let p := fieldB imm 0 8
      let w := fieldB imm 8 6 + 1
      some (.ok (nextPc (dSet n (BitVec.ofNat 256 (putField (dGet q n).toNat p w a.toNat)) q)) 1)
    | .dext => some (fWrite rd (BitVec.ofNat 64 (fieldB (dGet q (fieldB ra 0 3)) (fieldB imm 0 8) (fieldB imm 8 6 + 1))) 1 q)
    | .dclr => some (.ok (nextPc (dSet (fieldB rd 0 3) 0 q)) 1)
    | .jal => some (fLink rd (fTarget q imm) q)
    | .jalr => some (fLink rd ((a + sx) &&& ~~~3) q)
    | .evclr => some (.ok (nextPc { q with latched := q.latched &&& ~~~a }) 1)
    | .eret => some (if q.exl then
        match fJump q.epc { q with exl := false } with
        | .ok q' n => .ok q' n
        | .exc c v => .exc c v
      else .exc exIllegal (BitVec.setWidth 64 (encodeF i)))
    | .brk => some (.exc exBreak 0)
    | .halt => some (.ok { q with st := .halted } 1)
    | .wait => none
    | .post => none
    | .bar => none
    | .mfs => none
    | .mts => none

end Sys2Proof.Machine
end

