-- ==== Sys2Proof/Machine/SeqOps.lean ====
section
/-! DEFINITION. Transport sequencers (R37-R57): instructions that reach other blocks, waits, barriers, exceptions, halting, the
watchdog, and the commands of TS_CTRL. -/
namespace Sys2Proof.Machine

/-- Change the sequencer of slice t. -/
def modSeq (t : Tid) (f : Seq → Seq) (s : State) : State := modTp t (fun x => { x with seq := f x.seq }) s
/-- Sequencer TSt. -/
def seqOf (s : State) (t : Tid) : Seq := (tpOf s t).seq

/-! ### Barriers (R53) -/

/-- The mask that a sequencer waits on in a barrier not yet released. -/
def barMask (q : Seq) : Option (BitVec 8) :=
  match q.st, q.wait, q.barRes with
  | .waiting, .bar _ m, none => some m
  | _, _, _ => none

/-- A sequencer that runs or waits. -/
def seqActive (q : Seq) : Bool := q.st == .running || q.st == .waiting

/-- Release a sequencer's barrier with a result. -/
def barSet (t : Tid) (r : BitVec 2) (s : State) : State := modSeq t (fun q => { q with barRes := some r }) s

/-- A sequencer stops running or waiting: barriers that name it are released with 0. -/
def barLeave (t : Tid) (s : State) : State :=
  forAll allT (fun u s => match barMask (seqOf s u) with
    | some m => if u ≠ t ∧ bitOf m.toNat t.val then barSet u 0 s else s
    | none => s) s

/-- Sequencer t, waiting with mask m, has joined: other masks release with 2, an absent participant with 0, the last arrival
with 1. -/
def barJoin (t : Tid) (m : BitVec 8) (s : State) : State :=
  let named := allT.filter (fun u => bitOf m.toNat u.val)
  let clash := named.any (fun u => match barMask (seqOf s u) with
    | some k => k != m
    | none => false)
  let s' := forAll allT (fun u s => match barMask (seqOf s u) with
    | some k => if u ≠ t ∧ k ≠ m ∧ bitOf k.toNat t.val then barSet u 2 s else s
    | none => s) s
  if clash then barSet t 2 s'
  else if named.any (fun u => !seqActive (seqOf s u)) then
    forAll named (fun u s => if barMask (seqOf s u) = some m then barSet u 0 s else s) s'
  else if named.all (fun u => barMask (seqOf s u) == some m) then forAll named (fun u s => barSet u 1 s) s'
  else s'

/-! ### Halting (R57) and the end of the last wrap (R118) -/

/-- A write program halts past the end-of-wrap warning of the cartridge's last wrap. -/
def endOfVolume (s : State) (t : Tid) : Bool :=
  let x := tpOf s t
  x.seq.wrote && x.loaded && decide (x.mot.eotw.toNat ≤ x.mot.lpos.toNat) && x.mot.eotw != 0
    && decide (x.mot.wrap + 1 = fld s (Reg.mcNwrap t) Fld.mcNwrapNwrap)

/-- A write program halts with fewer live tracks than its format needs, after the close-out of R116. -/
def tooFewTracks (s : State) (t : Tid) : Bool :=
  let x := tpOf s t
  x.seq.wrote && x.loaded && decide (maskCount (liveMask x) < fewestLive x ∧ x.head.kind ≠ 0)

/-- The sequencer enters HALTED: MODE follows (R145), and Puppeteer may start it again at once (R254). -/
def haltSeq (t : Tid) (s : State) : State :=
  let s := haltMode t s
  let s := modSeq t (fun q => { q with st := .halted, wait := .none, haltp := false, step := false, barRes := none }) s
  startPending t (barLeave t s)

/-- HALT ends a program (R40). After the close-out on the last wrap, or with too few live tracks left, the transport becomes
write-disabled (R116, R118; log entry 20). -/
def haltProgram (t : Tid) (s : State) : State :=
  haltSeq t (if endOfVolume s t then disableWrites t 4 s else if tooFewTracks s t then disableWrites t 2 s else s)

/-- After an instruction under STEP the sequencer halts (TS_CTRL). -/
def stepDone (t : Tid) (s : State) : State := if (seqOf s t).step ∧ (seqOf s t).st = .running then haltSeq t s else s

/-! ### Exceptions (R54, R55) -/

/-- Discard the slice's unstarted descriptors, each FLUSHED, and close its open dataset (TS_CTRL.FLUSHQ). -/
def flushQueues (t : Tid) (s : State) : State :=
  let s := forAll (List.range 9) (fun n s =>
    forAll ((portOpen (portOf (tpOf s t) n)).filter (fun y => !y.started)) (fun y => finish t n y.ticket stFlushed 0) s) s
  closeDataset t 3 s

/-- The sequencer fails: logged as a class-10 fault; Puppeteer stops the transport, flushes its queues and installs the image again
once the started descriptors have completed (R55, R324). -/
def failSeq (t : Tid) (cause : Nat) (eval : W64) (s : State) : State :=
  let pc := (seqOf s t).pc
  let s := modSeq t (fun q => { q with
    st := .failed, wait := .none, haltp := false, step := false, barRes := none, ecause := BitVec.ofNat 6 cause, eval := eval }) s
  let s := barLeave t s
  let s := faultEvent (unitId 10 t.val) cause (BitVec.ofNat 64 (pc.toNat + 2 ^ 32 * fieldB eval 0 32)) s
  let s := flushQueues t (commandStop t s)
  modTp t (fun x => reinstallWhenDone { x with reinstall := true }) s

/-- An exception (R55); TS_FCNT counts it. -/
def raiseExc (t : Tid) (cause : Nat) (eval : W64) (s : State) : State :=
  let s := bumpFld (Reg.tsFcnt t) Fld.tsFcntExccnt s
  let s := if cause = exWatchdog then
      modSeq t (fun q => { q with wdog := 0 }) (bumpFld (Reg.tsFcnt t) Fld.tsFcntWdcnt s)
    else s
  let q := seqOf s t
  if q.exl = false ∧ q.evec ≠ 0 then
    stepDone t (modSeq t (fun q => { q with
      epc := BitVec.setWidth 64 q.pc, ecause := BitVec.ofNat 6 cause, eval := eval, exl := true, pc := BitVec.setWidth 16 q.evec }) s)
  else failSeq t cause eval s

/-- The watchdog's limit in cycles, reached (R56). -/
def wdogDue (s : State) (t : Tid) : Bool :=
  let l := fld s (Reg.tsWdog t) Fld.tsWdogLimit
  l != 0 && decide (l * 1024 ≤ (seqOf s t).wdog)

/-- WATCHDOG at an instruction boundary. -/
def raiseWdog (t : Tid) (s : State) : State := raiseExc t exWatchdog (BitVec.ofNat 64 (seqOf s t).wdog) s

/-! ### Special registers (R42) -/

/-- The value of special register n. SR8 shows the 32 bits of LPOS, zero-extended, also where LPOS is negative (log entry 36). -/
def readSr (s : State) (t : Tid) (n : Nat) : W64 :=
  let x := tpOf s t
  match n with
  | 0 => BitVec.ofNat 64 t.val
  | 1 => x.seq.cycle
  | 2 => x.seq.timer
  | 3 => evp x
  | 4 => x.seq.evec
  | 5 => x.seq.epc
  | 6 => BitVec.setWidth 64 x.seq.ecause
  | 7 => x.seq.eval
  | 8 => BitVec.setWidth 64 x.mot.lpos
  | 9 => x.seq.lposcmp
  | 10 => BitVec.ofNat 64 x.mot.wrap
  | 11 => BitVec.ofNat 64 (openQuot x.mot.vtape.natAbs 16)
  | 12 => BitVec.ofNat 64 (budget s t)
  | 13 => x.vfy.failmask ||| x.head.missing
  | 14 => BitVec.ofNat 64 (x.seq.fmtid.toNat + 2 ^ 16 * x.seq.version.toNat)
  | _ => BitVec.ofNat 64 x.head.kind

/-- Write a writable special register. -/
def writeSr (n : Nat) (v : W64) (q : Seq) : Seq :=
  match n with
  | 2 => { q with timer := v }
  | 4 => { q with evec := v }
  | 5 => { q with epc := v }
  | _ => { q with lposcmp := v }

/-! ### Instructions (R40-R53) -/

/-- The instruction has taken n cycles. -/
def addCycles (n : Nat) (q : Seq) : Seq := { q with cycle := q.cycle + BitVec.ofNat 64 n, wdog := q.wdog + n }

/-- A wait ends with a value in rd: the sequencer runs on and the watchdog's count is cleared (R52, R56). -/
def endWait (t : Tid) (rd : BitVec 5) (v : W64) (s : State) : State :=
  stepDone t (modSeq t (fun q => { nextPc (gSet rd v q) with st := .running, wait := .none, barRes := none, wdog := 0 }) s)

/-- The sequencer waits. -/
def beginWait (t : Tid) (w : Waiting) (s : State) : State := modSeq t (fun q => { q with st := .waiting, wait := w, barRes := none }) s

/-- The oldest completion of a port leaves it. -/
def popCpl (t : Tid) (n : Nat) (s : State) : State := modPort t n (fun p => { p with cpl := p.cpl.drop 1 }) s

/-- A descriptor with its ticket written in (R43). -/
def ticketed (d : BitVec 256) (k : BitVec 16) : BitVec 256 := BitVec.ofNat 256 (putField d.toNat 16 16 k.toNat)

/-- Enqueue a descriptor on a port with the port's next ticket (R44). -/
def enqueue (t : Tid) (n : Nat) (d : BitVec 256) (s : State) : State :=
  modTp t (fun x =>
    let p := portOf x n
    let y : Slot := { Slot.reset with ticket := p.nextTicket, desc := ticketed d p.nextTicket, order := x.issueNo }
    { setPort n { p with nextTicket := p.nextTicket + 1, slots := p.slots ++ [y] } x with issueNo := x.issueNo + 1 }) s

/-- The instruction word of an instruction, as EVAL of ILLEGAL shows it (R54). -/
def illegalEval (i : FInstr) : W64 := BitVec.setWidth 64 (encodeF i)

/-- One cycle has passed and the next instruction follows. -/
def doneSeq (t : Tid) (s : State) : State := stepDone t (modSeq t (fun q => addCycles 1 (nextPc q)) s)

/-- ISSUE (R44). -/
def fIssue (t : Tid) (port : BitVec 4) (dreg : BitVec 3) (rt : BitVec 5) (nb : Bool) (s : State) : State :=
  let q := seqOf s t
  let d := dGet q dreg.toNat
  let p := portOf (tpOf s t) port.toNat
  if descPort d ≠ port.toNat then raiseExc t exDescPort (BitVec.ofNat 64 (descPort d + 256 * port.toNat)) s
  else if portFree port.toNat p then
    doneSeq t (modSeq t (gSet rt (BitVec.setWidth 64 p.nextTicket)) (enqueue t port.toNat d s))
  else if nb then doneSeq t (modSeq t (gSet rt (~~~0)) s)
  else beginWait t (.issue rt port.toNat dreg.toNat) s

/-- POP (R45). -/
def fPop (t : Tid) (port : BitVec 4) (rt : BitVec 5) (nb : Bool) (s : State) : State :=
  match (portOf (tpOf s t) port.toNat).cpl with
  | c :: _ => doneSeq t (modSeq t (gSet rt c) (popCpl t port.toNat s))
  | [] => if nb then doneSeq t (modSeq t (gSet rt (~~~0)) s) else beginWait t (.pop rt port.toNat) s

/-- WAIT (R52). -/
def fWait (t : Tid) (i : FInstr) (rd ra : BitVec 5) (imm : BitVec 16) (s : State) : State :=
  let m := gGet (seqOf s t) ra
  if m &&& definedEvents = 0 ∧ imm = 0 then raiseExc t exIllegal (illegalEval i) s
  else if evp (tpOf s t) &&& m ≠ 0 then endWait t rd (evp (tpOf s t) &&& m) (modSeq t (addCycles 1) s)
  else beginWait t (.wait rd m imm) s

/-- BAR (R53). The rule gives a BAR whose ra lacks the sequencer's own bit, or has a bit above 7, no result: that it raises ILLEGAL
is the model's choice (log entry 36). -/
def fBar (t : Tid) (i : FInstr) (rd ra : BitVec 5) (s : State) : State :=
  let m := gGet (seqOf s t) ra
  if !bitOf m.toNat t.val ∨ 256 ≤ m.toNat then raiseExc t exIllegal (illegalEval i) s
  else barJoin t (BitVec.setWidth 8 m) (beginWait t (.bar rd (BitVec.setWidth 8 m)) s)

/-- POST (R40, R51). -/
def fPost (t : Tid) (ra : BitVec 5) (s : State) : State :=
  let m := gGet (seqOf s t) ra
  doneSeq t (setEvents (allT.filter (fun u => bitOf m.toNat u.val)) (evSq t.val) s)

/-- The effect of a legal instruction. -/
def fExec (t : Tid) (i : FInstr) (s : State) : State :=
  match fLocal i (seqOf s t) with
  | some (.ok q n) =>
    let s := modSeq t (fun _ => addCycles n q) s
    if q.st = .halted then haltProgram t s else stepDone t s
  | some (.exc c v) => raiseExc t c v s
  | none =>
    match i with
    | .stage .issue port dreg rt nb _ => fIssue t port dreg rt nb s
    | .stage .pop port _ rt nb _ => fPop t port rt nb s
    | .imm .wait rd ra imm => fWait t i rd ra imm s
    | .imm .bar rd ra _ => fBar t i rd ra s
    | .imm .post _ ra _ => fPost t ra s
    | .imm .mfs rd _ imm => doneSeq t (modSeq t (gSet rd (readSr s t imm.toNat)) s)
    | .imm .mts _ ra imm => doneSeq t (modSeq t (fun q => writeSr imm.toNat (gGet q ra) q) s)
    | _ => s

/-- The instruction at PC, where the word there is one (R38). -/
def fFetch (q : Seq) : Option FInstr :=
  match decodeF (fetchWord q) with
  | some i => if legalF i then some i else none
  | none => none

/-- At an instruction boundary the watchdog and a halt request come first (R56, R57); then an illegal word raises ILLEGAL. The
instruction i runs where it is the one at PC. -/
def runInstr (t : Tid) (i : FInstr) (s : State) : State :=
  if (seqOf s t).st ≠ .running then s
  else if wdogDue s t then raiseWdog t s
  else if (seqOf s t).haltp then haltSeq t s
  else
    match fFetch (seqOf s t) with
    | none => raiseExc t exIllegal (BitVec.setWidth 64 (fetchWord (seqOf s t))) s
    | some j => if j = i then fExec t i s else s

/-! ### Ends of waits (R44, R45, R52, R53) -/

/-- ISSUE_SLOT_FREED. -/
def issueFreedOp (t : Tid) (s : State) : State :=
  let q := seqOf s t
  match q.st, q.wait with
  | .waiting, .issue rt port dreg =>
    let p := portOf (tpOf s t) port
    if portFree port p then endWait t rt (BitVec.setWidth 64 p.nextTicket) (enqueue t port (dGet q dreg) s) else s
  | _, _ => s

/-- POP_COMPLETION_ARRIVAL. -/
def popArrivalOp (t : Tid) (s : State) : State :=
  let q := seqOf s t
  match q.st, q.wait with
  | .waiting, .pop rt port =>
    match (portOf (tpOf s t) port).cpl with
    | c :: _ => endWait t rt c (popCpl t port s)
    | [] => s
  | _, _ => s

/-- WAIT_EVENT_RELEASE. -/
def waitReleaseOp (t : Tid) (s : State) : State :=
  let q := seqOf s t
  match q.st, q.wait with
  | .waiting, .wait rd m _ => if evp (tpOf s t) &&& m ≠ 0 then endWait t rd (evp (tpOf s t) &&& m) s else s
  | _, _ => s

/-- WAIT_TIMEOUT: events that fall in the same cycle win. -/
def waitTimeoutOp (t : Tid) (s : State) : State :=
  let q := seqOf s t
  match q.st, q.wait with
  | .waiting, .wait rd m us => if us = 0 then s else endWait t rd (evp (tpOf s t) &&& m) s
  | _, _ => s

/-- BAR_RELEASE. -/
def barReleaseOp (t : Tid) (s : State) : State :=
  let q := seqOf s t
  match q.st, q.wait, q.barRes with
  | .waiting, .bar rd _, some r => endWait t rd (BitVec.setWidth 64 r) s
  | _, _, _ => s

/-- SEQ_TIMER_EXPIRY (R42). -/
def timerExpiryOp (t : Tid) (s : State) : State :=
  if (seqOf s t).timer = 0 then s else setEvent t evTimer (modSeq t (fun q => { q with timer := 0 }) s)

/-- WATCHDOG_EXPIRY (R56). -/
def watchdogOp (t : Tid) (s : State) : State :=
  if (seqOf s t).st = .running ∧ wdogDue s t then raiseWdog t s else s

/-- HALT_TAKE (R57): a wait ends without effect. -/
def haltTakeOp (t : Tid) (s : State) : State := if (seqOf s t).haltp ∧ seqActive (seqOf s t) then haltSeq t s else s

/-! ### TS_CTRL (R57, R254, R324) -/

/-- A halt is requested of a sequencer that runs or waits. -/
def haltRequest (t : Tid) (s : State) : State := modSeq t (fun q => if seqActive q then { q with haltp := true } else q) s

/-- TS_CTRL.RUN. -/
def tsRunOp (t : Tid) (s : State) : State :=
  match (seqOf s t).st with
  | .loaded => modSeq t (startSeq (fld s (Reg.tsCtrl t) Fld.tsCtrlEntry == 0)) s
  | .halted => modSeq t (fun q => { q with st := .running, wait := .none }) s
  | _ => s

/-- TS_CTRL.STEP: one instruction from HALTED (needs DBG_EN). -/
def tsStepOp (t : Tid) (s : State) : State :=
  if (seqOf s t).st = .halted ∧ dbgEn s t then
    let s := modSeq t (fun q => { q with st := .running, step := true, wait := .none }) s
    if wdogDue s t then raiseWdog t s
    else match fFetch (seqOf s t) with
      | none => raiseExc t exIllegal (BitVec.setWidth 64 (fetchWord (seqOf s t))) s
      | some i => fExec t i s
  else s

/-- TS_CTRL.RESTART. -/
def tsRestartOp (t : Tid) (s : State) : State :=
  let x := tpOf s t
  if x.seq.st = .halted ∧ !tpBusy x ∧ !tpCpls x then modSeq t (restartSeq (fld s (Reg.tsCtrl t) Fld.tsCtrlEntry == 0)) s
  else logIgnored (unitId 10 t.val) 6 s

/-- TS_CTRL.FLUSHQ. -/
def tsFlushOp (t : Tid) (s : State) : State :=
  if (seqOf s t).st = .halted ∨ (seqOf s t).st = .failed then flushQueues t s else s

/-- A write of TS_EVPOST (R51). -/
def tsEvpostOp (t : Tid) (pp : BitVec 8) (s : State) : State := forAll (setBits 8 pp.toNat) (fun n => setEvent t (evPp n)) s

end Sys2Proof.Machine
end

