-- ==== Sys2Proof/Machine/Loops.lean ====
section
/-! DEFINITION. Marionette's loops (R205-R223, R234-R238): supervision stops, actuator frames, triggers, Rhoval-L, the commit,
injection, capture, relay and autotune. -/
namespace Sys2Proof.Machine

/-! ### Numbers -/

/-- Saturation to 32 bits (R59). -/
def sat32 (x : Int) : Int := clampInt (-(2 ^ 31)) (2 ^ 31 - 1) x
/-- A value limited by two coefficients (R59, R213, R220); with the lower limit above the upper one the spec gives no value (log
entry 33). -/
def limitC (lo hi x : Int) : Int := if hi < lo then sat32 (Config.emptyLimits lo hi x) else clampInt lo hi x

/-- Saturation to 72 bits (R59). -/
def sat72 (x : Int) : Int := clampInt (-(2 ^ 71)) (2 ^ 71 - 1) x
/-- A 32-bit pattern. -/
def w32 (x : Int) : W32 := BitVec.ofInt 32 x
/-- A quotient of a signed number whose rounding the spec leaves open (log entry 9). -/
def openQuotI (n : Int) (d : Nat) : Int := if 0 ≤ n then openQuot n.toNat d else -(openQuot (-n).toNat d : Nat)
/-- A quotient rounded to the nearest whole number, halves up. -/
def roundQuot (n : Int) (d : Nat) : Int := (2 * n + d) / (2 * d : Nat)
/-- π scaled by 2^80. -/
abbrev pi80 : Nat := 3797952473636338580787993

/-- Bits n-1 to 0 of the square root of v, found from the top; r is the root so far. -/
def isqrtBits (v : Nat) : Nat → Nat → Nat
  | 0, r => r
  | n + 1, r => if (r + 2 ^ n) ^ 2 ≤ v then isqrtBits v n (r + 2 ^ n) else isqrtBits v n r
/-- Whole square root of a number below 2^320. -/
def isqrt (v : Nat) : Nat := isqrtBits v 160 0

/-- Loop l of the eight transports (R205). -/
def loopT (l : Nat) : Tid := tid (l / 4)
/-- The unit identifier of a loop (R36, R205). -/
def loopUnit (l : Nat) : BitVec 16 := unitId 8 l

/-! ### Actuator links (R213, R348) -/

/-- CRC-8 with polynomial 0x07 over 32 bits, most significant first (R348). -/
def crc8 (w : BitVec 32) : BitVec 8 :=
  (List.range 32).foldl (fun (c : BitVec 8) i =>
    if c.getLsbD 7 != w.getLsbD (31 - i) then (c <<< 1) ^^^ 0x07 else c <<< 1) 0

/-- A frame on an actuator link, the first bit sent in bit 55 (R348). -/
def actFrame (ch : BitVec 4) (seq : BitVec 4) (cmd : BitVec 16) (en brake rep : Bool) : BitVec 56 :=
  let body : BitVec 32 := ch ++ seq ++ cmd ++ BitVec.ofBool en ++ BitVec.ofBool brake ++ BitVec.ofBool rep ++ (0 : BitVec 5)
  (0x55D5 : BitVec 16) ++ body ++ crc8 body

/-- EN and BRAKE of loop n: reel links send EN = 0 and BRAKE = 1 while R232 applies. -/
def actDrive (x : Tp) (n : Nat) : Bool × Bool := if n < 2 ∧ x.mot.reelStop = true then (false, true) else (true, false)

/-- Send a loop's committed command (R213 step 4, R348). -/
def sendCommand (l : Nat) (s : State) : State :=
  let x := tpOf s (loopT l)
  let d := actDrive x (l % 4)
  modLoop l (fun p => { p with
    linkSeq := p.linkSeq + 1
    frame := actFrame (BitVec.ofNat 4 (l % 4)) (p.linkSeq + 1) (partB p.cmdv 16 16) d.1 d.2 false }) s

/-- Send a loop's latest frame again, with the drive bits in force and REPEAT as given (R232, R349). -/
def resendFrame (rep : Bool) (l : Nat) (s : State) : State :=
  let d := actDrive (tpOf s (loopT l)) (l % 4)
  modLoop l (fun p =>
    if p.frame = 0 then p
    else { p with frame := actFrame (BitVec.ofNat 4 (l % 4)) p.linkSeq (partB p.frame 16 16) d.1 d.2 rep }) s

/-! ### Supervision stops (R230-R232) -/

/-- Causes that are fault events of unit class 7 (R324). -/
def causeFault (cause : Nat) : Bool := decide (cause = 1 ∨ (3 ≤ cause ∧ cause ≤ 6) ∨ cause = 8)

/-- Step 1 of a supervision stop (R231); a condition during a stop already running is only logged, and a FAULTED transport is
not supervised (R230). -/
def supervisionStop (t : Tid) (cause n : Nat) (s : State) : State :=
  let m := (tpOf s t).mot
  let u := unitId 7 t.val
  if m.st = .faulted then s
  else if m.st = .stopping then logFault u 0 cause 0 0 s
  else
    let s := if causeFault cause then faultEvent u cause 0 s else logFault u 0 cause 0 0 s
    let s := bumpFld (Reg.mcTcnt t) Fld.mcTcntStops s
    let reel := cause = 2 ∧ n < 2
    let s := modMot t (fun m => { m with
      cause := cause, cloop := n, st := .stopping, armed := none, armGo := false, armMiss := 0, setv := m.vtape
      reelStop := m.reelStop || reel, tensOn := m.tensOn && !reel, overT := 0, tensT := 0, encTA := 0, encTB := 0, svLoss := 0 }) s
    let s := modTp t (fun x => { x with yoyo := { x.yoyo with pause := 0, pauseEnd := false } }) s
    let s := if reel then resendFrame false (4 * t.val) (resendFrame false (4 * t.val + 1) s) else s
    notice 5 (motMotionFault t (setEvent t evMotfault (wlMotionFault t s)))

/-! ### Coefficients, integrator, banks (R214, R218-R220) -/

/-- A coefficient of a bank (R214). -/
def coefOf (p : MLoop) (bank : Bool) (i : Nat) : BitVec 64 := if bank then p.coefB.get 0 i else p.coefA.get 0 i
/-- Its value field, signed. -/
def coefVal (p : MLoop) (bank : Bool) (i : Nat) : Int := signedOf 32 (fieldB (coefOf p bank i) 0 32)
/-- Its shift field. -/
def coefShift (p : MLoop) (bank : Bool) (i : Nat) : Nat := fieldB (coefOf p bank i) 32 5

/-- The 64 coefficients from key k of a store, at keys from 0. -/
def coefSet (m : SMap (BitVec 64)) (k : Nat) : SMap (BitVec 64) := m.copyTo k 64 {} 0 0

/-- Replace a bank. -/
def setBank (bank : Bool) (m : SMap (BitVec 64)) (p : MLoop) : MLoop := if bank then { p with coefB := m } else { p with coefA := m }

/-- State word w, signed. -/
def wordOf (p : MLoop) (w : Nat) : Int := (p.words.get 0 w).toInt

/-- A selected bank comes into use at a trigger: the integrator is clamped and the hold engaged (R218, R220). -/
def takeBank (p : MLoop) : MLoop :=
  match p.selPend with
  | none => p
  | some b =>
    let v := wordOf p 0
    let v2 := limitC (coefVal p b 60) (coefVal p b 61) v
    let hold := p.isat || decide (v2 ≠ v)
    let high := if v2 ≠ v then decide (v2 < v) else decide (v = coefVal p p.bank 61)
    { p with
      selPend := none, swap := true, bank := b, words := p.words.set 0 0 (w32 v2)
      awh := hold || p.awh, awdir := if hold then high else p.awdir, lh := if hold then w32 v2 else p.lh }

/-- A store to the integrator: clamped to [IMIN, IMAX], then held at L_h (R220). Answers also whether the clamp acted. -/
def storeInteg (v : Int) (p : MLoop) : MLoop × Bool :=
  let c := limitC (coefVal p p.bank 60) (coefVal p p.bank 61) v
  let h := p.lh.toInt
  let inside := if p.awdir then decide (c < h) else decide (h < c)
  let c2 := if p.awh && !inside then h else c
  ({ p with words := p.words.set 0 0 (w32 c2), isat := decide (c ≠ v), awh := p.awh && !inside }, decide (c ≠ v))

/-- A mode change takes effect at the loop's trigger (R216, R217, R237). -/
def takeMode (l : Nat) (s : State) : State :=
  let p := getLoop s l
  let t := l / 4
  let n := l % 4
  let want := match fld s (Reg.mcLctl t n) Fld.mcLctlMode with
    | 1 => LoopMode.auto
    | 2 => LoopMode.relay
    | _ => LoopMode.manual
  let want := if p.hasProg then want else LoopMode.manual
  if p.mode = .fault ∨ p.mode = want then s
  else
    let s := if p.mode = .auto ∧ want = .manual then setReg (Reg.mcMan t n) p.cmdv s else s
    modLoop l (fun p => { p with mode := want, first := p.first || want = .auto, relayHi := none }) s

/-! ### Injection (R235) -/

/-- Sum of the terms of the sine series, scaled by 2^80: x2 = x² scaled, term number k. -/
def sinSum (x2 : Int) : Nat → Nat → Int → Int
  | 0, _, _ => 0
  | f + 1, k, term => term + sinSum x2 f (k + 1) (-(term * x2 / 2 ^ 80) / ((2 * k + 2) * (2 * k + 3) : Nat))

/-- sin of 2π num/den, scaled by 2^80; exact where it is 0, ±1/2 or ±1. -/
def sinTurns (num : Int) (den : Nat) : Int :=
  let f := num % den
  let f := if den < 2 * f then f - den else f
  let one : Int := 2 ^ 80
  if f = 0 ∨ 2 * f = den then 0
  else if 4 * f = den then one
  else if 4 * f = -(den : Int) then -one
  else if 12 * f = den ∨ 12 * f = 5 * den then one / 2
  else if 12 * f = -(den : Int) ∨ 12 * f = -(5 * den : Int) then -(one / 2)
  else
    let x := 2 * (pi80 : Int) * f / den
    sinSum (x * x / one) 24 0 x

/-- Next bit of x^15 + x^14 + 1 (R235, log entry 25). -/
def prbsStep (r : BitVec 15) : Bool × BitVec 15 :=
  let b := r.getLsbD 14 != r.getLsbD 13
  (b, (r <<< 1) ||| BitVec.setWidth 15 (BitVec.ofBool b))

/-- MC_INJ's loop. -/
def injLoop (s : State) : Nat := fld s Reg.mcInj Fld.mcInjLoop

/-- The sample of a sine or chirp at c CCLK cycles of 0.8 ns since GO (R235); mHz and ms as the registers hold them. -/
def injSine (s : State) (c : Nat) : Int :=
  let f0 : Int := fld s Reg.mcInjf0 Fld.mcInjf0F0
  let f1 : Int := fld s Reg.mcInjf1 Fld.mcInjf1F1
  let dur := fld s Reg.mcInjdur Fld.mcInjdurDur
  let amp := signedOf 32 (fld s Reg.mcInjamp Fld.mcInjampAmp)
  let y := if fld s Reg.mcInj Fld.mcInjWave = 1 then sinTurns (f0 * c) 1250000000000
    else sinTurns (f0 * c * 80000000 * dur + (f1 - f0) * c * c * 32) (100000000000000000000 * dur)
  sat32 (openQuotI (amp * y) (2 ^ 80))

/-- The generator at a trigger of its loop (R235). -/
def injTrigger (l : Nat) (s : State) : State :=
  let g := s.mrn.inj
  if g.active ∧ injLoop s = l then
    let wave := fld s Reg.mcInj Fld.mcInjWave
    let set (g : Inj) (s : State) : State := { s with mrn := { s.mrn with inj := { g with n := g.n + 1 } } }
    if wave = 3 then
      let amp := signedOf 32 (fld s Reg.mcInjamp Fld.mcInjampAmp)
      if g.n % fld s Reg.mcInjdur Fld.mcInjdurHold = 0 then
        if 32767 ≤ g.bits then set { g with sample := 0 } s
        else
          let b := prbsStep g.lfsr
          set { g with lfsr := b.2, bits := g.bits + 1, sample := sat32 (if b.1 then amp else -amp) } s
      else set g s
    else if wave = 0 then set { g with sample := 0 } s
    else set { g with sample := injSine s (s.clk - g.start) } s
  else s

/-- The sample added to a channel of loop l: side 0 input, 1 output. -/
def injected (s : State) (l side ch : Nat) : Int :=
  if s.mrn.inj.active ∧ injLoop s = l ∧ fld s Reg.mcInj Fld.mcInjSide = side ∧ fld s Reg.mcInj Fld.mcInjCh = ch then s.mrn.inj.sample
  else 0

/-! ### Inputs (R212) -/

/-- FLAGS of loop l. -/
def loopFlags (s : State) (l : Nat) : Nat :=
  let x := tpOf s (loopT l)
  let p := getLoop s l
  let n := l % 4
  let odd := x.mot.wrap % 2 = 1
  (match p.mode with
    | .auto => 1
    | .relay => 2
    | _ => 0)
  + 4 * p.first.toNat + 8 * p.swap.toNat
  + 16 * (if n < 2 then fld s (Reg.mcRc (l / 4) n) Fld.mcRcLearn else 0) + 32 * p.awh.toNat + 64 * x.wl.wen.toNat
  + 128 * (if x.mot.st = .stopping then 1 else 0) + 256 * fieldB x.mot.lastFrame 26 1
  + 512 * (if (n = 0 ∧ odd) ∨ (n = 1 ∧ !odd) then 1 else 0)

/-- Input channel ch of loop l as it stands. -/
def loopInput (s : State) (l ch : Nat) : Int :=
  let t := l / 4
  let m := (tpOf s (loopT l)).mot
  match ch with
  | 0 => m.setv
  | 1 => m.vtape
  | 2 => m.accel
  | 3 => signedOf 16 (fieldB m.motion 0 16)
  | 4 => signedOf 16 (fld s (Reg.mcTens t) Fld.mcTensTsp)
  | 5 => m.omA
  | 6 => m.omB
  | 7 => fld s (Reg.mcRad t) Fld.mcRadRada
  | 8 => fld s (Reg.mcRad t) Fld.mcRadRadb
  | 9 => (if fieldB m.lastFrame 24 2 = 0 then 0 else 1) + 2 * fieldB m.motion 40 1
  | 10 => signedOf 24 (fieldB m.lastFrame 0 24)
  | 11 => m.ysp
  | 12 => signedOf 24 (fieldB m.motion 16 24)
  | 13 => signedOf 32 (fld s (Reg.mcMan t (l % 4)) Fld.mcManMan)
  | 14 => loopFlags s l
  | _ => if l % 4 = 2 then fieldB m.lastFrame 64 32 else 0

/-- Latch the input channels of loop l, with any injection. -/
def latchInputs (l : Nat) (s : State) : State :=
  let v := (List.range 16).map (fun ch =>
    let d := injected s l 0 ch
    if d = 0 then w32 (loopInput s l ch) else w32 (sat32 (loopInput s l ch + d)))
  modLoop l (fun p => { p with ins := (SMap.mk []).write 0 0 v }) s

/-! ### Capture (R236) -/

/-- A capture source: bit 4 = output, bits 3-0 the channel. Output 0 is the committed command. -/
def capSource (p : MLoop) (sel : Nat) : W32 :=
  if sel < 16 then p.ins.get 0 sel else if sel = 16 then p.cmdv else p.outs.get 0 (sel - 16)

/-- Write one capture record after an evaluation of loop l. -/
def capture (l : Nat) (s : State) : State :=
  if s.mrn.capArmed ∧ !s.mrn.capWait ∧ fld s Reg.mcCap Fld.mcCapLoop = l ∧ s.mrn.capCount < 16384 then
    let p := getLoop s l
    let start := if s.mrn.capCount = 0 then s.clk else s.mrn.capStart
    let w0 := (s.clk - start) * 8 / 25 / 16
    let r : BitVec 128 := capSource p (fld s Reg.mcCap Fld.mcCapSel2) ++ capSource p (fld s Reg.mcCap Fld.mcCapSel1)
      ++ capSource p (fld s Reg.mcCap Fld.mcCapSel0) ++ BitVec.ofNat 32 w0
    let n := s.mrn.capCount + 1
    let s := { s with mrn := { s.mrn with
      capRecs := s.mrn.capRecs.set 0 s.mrn.capCount r, capCount := n, capStart := start, capArmed := decide (n < 16384) } }
    if n = 16384 then raiseFld Reg.mcCap Fld.mcCapDone s else s
  else s

/-- MC_CAP.ARM (R236). -/
def armLoopCapture (s : State) : State :=
  let s := setFld Reg.mcCap Fld.mcCapDone 0 s
  { s with mrn := { s.mrn with capArmed := true, capCount := 0, capWait := fld s Reg.mcCap Fld.mcCapTrig == 1 } }

/-- MC_INJ.GO (R235, R236): with WAVE = 0 nothing is injected. -/
def startInjection (s : State) : State :=
  if fld s Reg.mcInj Fld.mcInjWave = 0 then s
  else { s with mrn := { s.mrn with inj := { Inj.reset with active := true, start := s.clk }, capWait := false } }

/-! ### Autotune (R238) -/

/-- A captured word, 1 to 3, of record j. -/
def capWord (s : State) (j w : Nat) : Int := signedOf 32 (fieldB (s.mrn.capRecs.get 0 j) (32 * w) 32)

/-- Largest less smallest of a list. -/
def peakToPeak : List Int → Int
  | [] => 0
  | a :: r => r.foldl max a - r.foldl min a

/-- Set a field of a register from a signed number. -/
def setSigned (off : Nat) (f : Fld) (x : Int) (s : State) : State := setFld off f (patternOf f.w x) s

/-- Start: Puppeteer captures CMD and both relay channels of the loop (R238 step 1). The conditions of R238 come first. -/
def tuneStart (l : Nat) (s : State) : State :=
  let t := l / 4
  let n := l % 4
  let x := tpOf s (loopT l)
  let p := getLoop s l
  let fit := x.mot.accel = 0 ∧ (x.wl.wen = false ∨ (n = 2 ∧ rcMode s t = 2))
  if x.mot.st = .running ∧ fit ∧ p.hasProg = true ∧ p.mode ≠ .fault ∧ s.mrn.tune.isNone then
    let s := setFld Reg.mcCap Fld.mcCapLoop l (setFld Reg.mcCap Fld.mcCapTrig 0 s)
    let s := setFld Reg.mcCap Fld.mcCapSel0 16 s
    let s := setFld Reg.mcCap Fld.mcCapSel1 (fld s (Reg.mcRlych t n) Fld.mcRlychSpch) s
    let s := setFld Reg.mcCap Fld.mcCapSel2 (fld s (Reg.mcRlych t n) Fld.mcRlychMeasch) s
    let s := armLoopCapture s
    { s with mrn := { s.mrn with tune := some ⟨l, 0, 1⟩ } }
  else s

/-- The loop returns to AUTO with its banks unchanged, and the abort is logged (R238). -/
def tuneAbort (s : State) : State :=
  match s.mrn.tune with
  | none => s
  | some k =>
    let s := setFld (Reg.mcLctl (k.l / 4) (k.l % 4)) Fld.mcLctlMode 1 s
    logFault (loopUnit k.l) 0 0 0 0 { s with mrn := { s.mrn with tune := none, capArmed := false } }

/-- Step 1 done, step 2: the relay begins. -/
def tuneRelay (k : Tune) (s : State) : State :=
  let t := k.l / 4
  let n := k.l % 4
  let p := getLoop s k.l
  let js := List.range 100
  let bias := openQuotI ((js.map (fun j => capWord s j 1)).foldl (· + ·) 0) 100
  let h := sat32 (2 * peakToPeak (js.map (fun j => capWord s j 2 - capWord s j 3)))
  let d := openQuotI (coefVal p p.bank 63 - coefVal p p.bank 62) 20
  let s := setSigned (Reg.mcRlyb t n) Fld.mcRlybBias bias (setSigned (Reg.mcRlyh t n) Fld.mcRlyhH h
    (setSigned (Reg.mcRlyd t n) Fld.mcRlydD (sat32 d) s))
  let s := setFld (Reg.mcLctl t n) Fld.mcLctlMode 2 s
  armLoopCapture { s with mrn := { s.mrn with tune := some { k with phase := 2 } } }

/-- A coefficient for K = num/den: the largest shift that keeps |round(K 2^shift)| < 2^31 (R238 step 5). -/
def coefFor (num : Int) (den : Nat) : Nat → BitVec 64
  | 0 => BitVec.ofNat 64 (patternOf 32 (sat32 (roundQuot num den)))
  | sh + 1 =>
    let v := roundQuot (num * 2 ^ (sh + 1)) den
    if v.natAbs < 2 ^ 31 then BitVec.ofNat 64 (patternOf 32 v + 2 ^ 32 * (sh + 1)) else coefFor num den sh

/-- The records at which the committed command changed. -/
def tuneSwitches (s : State) : List Nat :=
  (List.range s.mrn.capCount).filter (fun j => decide (1 ≤ j) && decide (capWord s j 1 ≠ capWord s (j - 1) 1))

/-- After switch 12 (R238 steps 3-5). Times are in units of 16 MRCLK cycles, 40 ns. -/
def tuneFinish (k : Tune) (s : State) : State :=
  let l := k.l
  let t := l / 4
  let n := l % 4
  let p := getLoop s l
  let sw := tuneSwitches s
  let at_ (i : Nat) : Nat := sw.getD (i - 1) 0
  let time (j : Nat) : Nat := fieldB (s.mrn.capRecs.get 0 j) 0 32
  let pp (i : Nat) : Int := peakToPeak ((List.range (at_ (i + 2) - at_ i)).map (fun o => capWord s (at_ i + o) 3))
  let a := ((List.range 6).map (fun i => pp (i + 5))).foldl (· + ·) 0
  let h := signedOf 32 (fld s (Reg.mcRlyh t n) Fld.mcRlyhH)
  let d := signedOf 32 (fld s (Reg.mcRlyd t n) Fld.mcRlydD)
  if sw.length < 12 ∨ a ≤ 12 * h then tuneAbort s
  else
    let root := isqrt ((a * a - 144 * h * h).toNat * 2 ^ 128)
    -- Kp = 0.4 × 4 D / (π a'), a' = root / (12 × 2^64)
    let kpN := 768 * d * 2 ^ 144
    let kpD := 40 * pi80 * root
    let span := time (at_ 12) - time (at_ 5)
    let f := if span = 0 then takeFree s else (span - 1, s)
    let s := f.2
    let pu := 2 * (f.1 + 1)
    let ts : Nat × Nat := if n = 2 then (fieldB (tpOf s (loopT l)).mot.lastFrame 64 32, 2560) else (2500, 1)
    let kp := coefFor kpN kpD 31
    let ki := coefFor (kpN * (70 * ts.1 : Nat)) (kpD * (8 * pu * ts.2)) 31
    let kd := coefFor (kpN * (12 * pu * ts.2 : Nat)) (kpD * (700 * ts.1)) 31
    let old := if p.bank then p.coefB else p.coefA
    let new := ((if n = 2 ∧ ts.1 ≠ 0 then old.set 0 2 kd else old).set 0 0 kp).set 0 1 ki
    let s := if n = 2 then
        modMot (loopT l) (fun m => { m with bandStore := new.copyTo 0 64 m.bandStore 0 (64 * m.band) }) s
      else
        setFld (Reg.mcLctl t n) Fld.mcLctlBanksel (!p.bank).toNat
          (modLoop l (fun q => { setBank (!p.bank) new q with selPend := some (!p.bank) }) s)
    let s := setFld (Reg.mcLctl t n) Fld.mcLctlMode 1 s
    { s with mrn := { s.mrn with tune := none, capArmed := false } }

/-- The autotune service follows the evaluations of its loop. -/
def tuneStep (l : Nat) (switched : Bool) (s : State) : State :=
  match s.mrn.tune with
  | none => s
  | some k =>
    if k.l ≠ l then s
    else if k.phase = 1 then (if s.mrn.capCount < 100 then s else tuneRelay k s)
    else
      let k := { k with sw := k.sw + switched.toNat }
      let s := { s with mrn := { s.mrn with tune := some k } }
      if k.sw < 12 then s else tuneFinish k s

/-! ### The commit (R213, R237) -/

/-- The side that a relay evaluation of loop l sets, BIAS + D or BIAS - D; none inside the band, where the previous relay CMD
stays (R237). -/
def relayTurn (p : MLoop) (s : State) (l : Nat) : Option Bool :=
  let e := (p.ins.get 0 (fld s (Reg.mcRlych (l / 4) (l % 4)) Fld.mcRlychSpch)).toInt
    - (p.ins.get 0 (fld s (Reg.mcRlych (l / 4) (l % 4)) Fld.mcRlychMeasch)).toInt
  let h := signedOf 32 (fld s (Reg.mcRlyh (l / 4) (l % 4)) Fld.mcRlyhH)
  if p.relayHi.isNone ∨ h < e then some true else if e < -h then some false else none

/-- The relay command of loop l (R237). -/
def relayValue (p : MLoop) (s : State) (l : Nat) : Int :=
  let b := signedOf 32 (fld s (Reg.mcRlyb (l / 4) (l % 4)) Fld.mcRlybBias)
  let d := signedOf 32 (fld s (Reg.mcRlyd (l / 4) (l % 4)) Fld.mcRlydD)
  match relayTurn p s l with
  | some true => sat32 (b + d)
  | some false => sat32 (b - d)
  | none => p.relayCmd.toInt

/-- Following-error time (R230): tick loops add 100 µs at each tick, the lateral loop its PERIOD at each evaluation. -/
def ferrTime (l add : Nat) (s : State) : State :=
  let lim := fld s (Reg.mcFe (l / 4) (l % 4)) Fld.mcFeFelim
  modLoop l (fun p =>
    let beyond := p.mode = .auto ∧ lim ≠ 0 ∧ lim < (p.outs.get 0 1).toInt.natAbs
    { p with feTime := if beyond then p.feTime + add else 0 }) s

/-- The wrap table entry of a wrap (R239). -/
def wrapEntry (m : Mot) (w : Nat) : Int := (m.wraps.get 0 w).toInt

/-- YSP after one lateral evaluation (R226, R228): toward the entry of the wrap a LOCATE or TURN seeks, by SEEK; else the
entry of the current wrap. -/
def stepYsp (seek : Nat) (m : Mot) : Mot :=
  match m.cur with
  | some c =>
    let on := (c.op = 2 ∨ c.op = 3) ∧ 2 ≤ c.step ∧ c.wrap ≠ m.wrap
    let valid := fieldB m.lastFrame 24 2 ≠ 0
    if on ∧ (c.seeking = true ∨ valid) then
      { m with ysp := clampInt (m.ysp - seek) (m.ysp + seek) (wrapEntry m c.wrap), cur := some { c with seeking := true } }
    else if on then m
    else { m with ysp := wrapEntry m m.wrap }
  | none => { m with ysp := wrapEntry m m.wrap }

/-- The commit at the end of an evaluation of loop l: staged outputs, the cycles it took and its SATF (R213). -/
def commitLoop (l : Nat) (staged : SMap W32) (written : List Nat) (cyc : Nat) (satf : Bool) (s : State) : State :=
  let t := l / 4
  let n := l % 4
  let outs := written.foldl (fun m ch =>
    let v := (staged.get 0 ch).toInt
    m.set 0 ch (w32 (if ch = 0 then v else sat32 (v + injected s l 1 ch)))) (getLoop s l).outs
  let s := modLoop l (fun p => { p with outs := outs }) s
  let p := getLoop s l
  let turn := relayTurn p s l
  let relay := relayValue p s l
  let cmd : Int := match p.mode with
    | .auto => (p.outs.get 0 0).toInt
    | .relay => relay
    | _ => signedOf 32 (fld s (Reg.mcMan t n) Fld.mcManMan)
  let cmd := sat32 (cmd + injected s l 1 0)
  let out := limitC (coefVal p p.bank 62) (coefVal p p.bank 63) cmd
  let switched := p.mode = .relay ∧ p.relayHi.isSome = true ∧ turn.isSome = true ∧ turn ≠ p.relayHi
  let s := modLoop l (fun p => { p with
    relayHi := if p.mode = .relay then turn.or p.relayHi else p.relayHi
    relayCmd := if p.mode = .relay then w32 relay else p.relayCmd
    cmdsat := decide (out ≠ cmd), cmdv := w32 out, words := p.words.set 0 1 (w32 out)
    consec := 0, lastcyc := cyc, satf := satf }) s
  let s := clearEvent (loopUnit l) s
  let s := if switched then bumpFld (Reg.mcRlyst t n) Fld.mcRlystSwitches s else s
  let s := sendCommand l s
  let s := if n = 2 then
      ferrTime l (fieldB (tpOf s (loopT l)).mot.lastFrame 64 32)
        (modMot (loopT l) (stepYsp (fld s (Reg.mcTurncfg t) Fld.mcTurncfgSeek)) s)
    else s
  tuneStep l switched (capture l s)

/-! ### Triggers and overruns (R207, R208, R216) -/

/-- An evaluation of loop l waits or runs. -/
def evalOpen (s : State) (l : Nat) : Bool := (getLoop s l).ready || (s.mrn.ev.map (fun e => e.l)) == some l

/-- An overrun (R208): the outputs are held; the third in a row puts the loop in FAULT and stops the transport. -/
def loopOverrun (l : Nat) (s : State) : State :=
  if evalOpen s l then
    let s := modLoop l (fun p => { p with ready := false, consec := p.consec + 1 }) s
    let s := if (s.mrn.ev.map (fun e => e.l)) = some l then { s with mrn := { s.mrn with ev := none } } else s
    let s := bumpFld (Reg.mcOvcnt (l / 4) (l % 4)) Fld.mcOvcntOvrcnt (raiseFld (Reg.mcLstat (l / 4) (l % 4)) Fld.mcLstatOvr s)
    let s := faultEvent (loopUnit l) 0 0 s
    if (getLoop s l).consec < 3 then s
    else supervisionStop (loopT l) 2 (l % 4) (modLoop l (fun p => { p with mode := .fault }) s)
  else s

/-- A trigger of loop l whose next one falls after the given time (R216). A loop without a program drives MAN (log entry 25). -/
def trigger (l : Nat) (fs : Nat) (s : State) : State :=
  if (getLoop s l).mode = .fault then s
  else if l % 4 = 2 ∧ (getLoop s l).ready = true then latchInputs l s
  else
    let s := loopOverrun l s
    let s := takeMode l (modLoop l takeBank s)
    if (getLoop s l).mode = .fault then s
    else
      let s := latchInputs l (injTrigger l s)
      if (getLoop s l).hasProg then modLoop l (fun p => { p with ready := true, trigNo := s.clk * 800000 + fs }) s
      else commitLoop l {} [] 0 false s

/-- The ready loop with the earliest deadline, the lowest l of equals (R207). -/
def nextReady (s : State) : Option Nat :=
  (List.range 32).foldl (fun a l =>
    if (getLoop s l).ready then
      match a with
      | none => some l
      | some b => if (getLoop s l).trigNo < (getLoop s b).trigNo then some l else a
    else a) none

/-- The arithmetic unit takes its next evaluation when it is free (R207); SATF is clear (R59). -/
def beginEval (s : State) : State :=
  if s.mrn.ev.isSome then s
  else
    match nextReady s with
    | none => s
    | some l =>
      let pc := (getLoop s l).entry.toNat
      let s := modLoop l (fun p => { p with ready := false, first := false, swap := false }) s
      { s with mrn := { s.mrn with ev := some { LEval.reset with l := l, pc := pc } } }

/-! ### Rhoval-L (R59, R60) -/

/-- Read a v register (R37). -/
def vGet (s : State) (r : BitVec 5) : Int := if r = 0 then 0 else (s.mrn.v.get 0 r.toNat).toInt
/-- Write a v register with saturation; SATF records a saturation (R59). -/
def vSet (r : BitVec 5) (x : Int) (s : State) : State :=
  let y := sat32 x
  let m := s.mrn
  let ev := m.ev.map (fun e => { e with satf := e.satf || decide (y ≠ x) })
  { s with mrn := { m with ev := ev, v := if r = 0 then m.v else m.v.set 0 r.toNat (w32 y) } }
/-- Set SATF. -/
def setSatf (b : Bool) (s : State) : State := { s with mrn := { s.mrn with ev := s.mrn.ev.map (fun e => { e with satf := e.satf || b }) } }
/-- An accumulator. -/
def accGet (s : State) (i : Bool) : Int := if i then s.mrn.acc1.toInt else s.mrn.acc0.toInt
/-- Write an accumulator with saturation. -/
def accSet (i : Bool) (x : Int) (s : State) : State :=
  let y := BitVec.ofInt 72 (sat72 x)
  let s := setSatf (decide (sat72 x ≠ x)) s
  if i then { s with mrn := { s.mrn with acc1 := y } } else { s with mrn := { s.mrn with acc0 := y } }

/-- Bits of two 32-bit values, as a number. -/
def vBits (f : W32 → W32 → W32) (a b : Int) : Int := (f (w32 a) (w32 b)).toInt

/-- The ALU of Rhoval-L, before saturation (R59). -/
def lAluVal (func : Nat) (a b : Int) : Int :=
  let sh := (w32 b).toNat % 32
  match func with
  | 0 => a + b
  | 1 => a - b
  | 2 => vBits (· &&& ·) a b
  | 3 => vBits (· ||| ·) a b
  | 4 => vBits (· ^^^ ·) a b
  | 5 => min a b
  | 6 => max a b
  | 7 => a.natAbs
  | 8 => a * 2 ^ sh
  | _ => a / 2 ^ sh

/-- The angle bin of reel r of a transport (R211). -/
def angleBin (s : State) (t : Tid) (r : Nat) : Nat :=
  let m := (tpOf s t).mot
  let cpr := fld s (Reg.mcEnc t) (if r = 0 then Fld.mcEncCpra else Fld.mcEncCprb)
  let res := 2 ^ fld s (Reg.mcRc t r) Fld.mcRcRes
  (if r = 0 then m.encA else m.encB) * 1024 / cpr % 1024 / res * res

/-- Bin of a repetitive controller: of reel r. -/
def binGet (m : Mot) (r i : Nat) : W32 := if r = 0 then m.binsA.get 0 i else m.binsB.get 0 i
/-- Write a bin. -/
def binSet (r i : Nat) (v : W32) (m : Mot) : Mot :=
  if r = 0 then { m with binsA := m.binsA.set 0 i v } else { m with binsB := m.binsB.set 0 i v }
/-- Zero the bins of a controller. -/
def binClear (r : Nat) (m : Mot) : Mot := if r = 0 then { m with binsA := {}, satA := {} } else { m with binsB := {}, satB := {} }

/-- RCU writes a bin; one held at saturation for a full revolution is a fault event of class 9, for which Puppeteer clears the
bins (R59, R324). -/
def rcuStore (t : Tid) (r i : Nat) (v : W32) (s : State) : State :=
  let cpr := fld s (Reg.mcEnc t) (if r = 0 then Fld.mcEncCpra else Fld.mcEncCprb)
  let m := (tpOf s t).mot
  let now := (if r = 0 then m.turnsA else m.turnsB) + 1
  let sat := if r = 0 then m.satA else m.satB
  let atLimit := v = 0x7FFFFFFF ∨ v = 0x80000000
  let since := sat.get 0 i
  let sat2 := if atLimit then (if since = 0 then sat.set 0 i now else sat) else sat.set 0 i 0
  let s := modMot t (fun m => let m := binSet r i v m
    if r = 0 then { m with satA := sat2 } else { m with satB := sat2 }) s
  if atLimit ∧ since ≠ 0 ∧ cpr ≠ 0 ∧ cpr ≤ now - since then
    modMot t (binClear r) (faultEvent (unitId 9 (2 * t.val + r)) 0 0 s)
  else s

/-- The next instruction of the evaluation, n words on. -/
def lAdvance (n : Int) (s : State) : State :=
  { s with mrn := { s.mrn with busy := s.mrn.busy + 1, ev := s.mrn.ev.map (fun e => { e with pc := ((e.pc : Int) + 4 * n).toNat, cyc := e.cyc + 1 }) } }

/-- A branch is taken (R59). -/
def lTaken (op : LBr) (a b : Int) (satf : Bool) : Bool :=
  match op with
  | .beq => decide (a = b)
  | .bne => decide (a ≠ b)
  | .blt => decide (a < b)
  | .bge => decide (b ≤ a)
  | .bsat => satf
  | .bnsat => !satf

/-- The product of va and a coefficient, shifted (R59). -/
def lProduct (s : State) (l : Nat) (va : BitVec 5) (ci : BitVec 6) : Int :=
  let p := getLoop s l
  vGet s va * coefVal p p.bank ci.toNat / 2 ^ coefShift p p.bank ci.toNat

/-- An I-format instruction of Rhoval-L other than END (R59). -/
def lImm (op : LOp) (rd ra : BitVec 5) (imm : BitVec 16) (e : LEval) (s : State) : State :=
  let p := getLoop s e.l
  let a := vGet s ra
  let i6 := fieldB imm 0 6
  let r := e.l % 4
  match op with
  | .addis => vSet rd (a + imm.toInt) s
  | .ldi => vSet rd imm.toInt s
  | .ldhi => vSet rd (BitVec.toInt (imm ++ partB (w32 a) 0 16 : W32)) s
  | .lds => vSet rd (wordOf p i6) s
  | .sts =>
    if i6 = 0 then
      let q := storeInteg a p
      setSatf q.2 (modLoop e.l (fun _ => q.1) s)
    else modLoop e.l (fun p => { p with words := p.words.set 0 i6 (w32 a) }) s
  | .lin => vSet rd (p.ins.get 0 (fieldB imm 0 4)).toInt s
  | .lout =>
    let ch := fieldB imm 0 4
    if ch < 8 then
      { s with mrn := { s.mrn with ev := some { e with staged := e.staged.set 0 ch (w32 a), written := if e.written.contains ch then e.written else e.written ++ [ch] } } }
    else s
  | .rdacc => vSet rd (accGet s (fieldB imm 5 1 == 1) / 2 ^ fieldB imm 0 5) s
  | .ldacc => accSet (fieldB imm 5 1 == 1) (a * 2 ^ fieldB imm 0 5) s
  | .clamp =>
    let v := limitC (coefVal p p.bank i6) (coefVal p p.bank (i6 + 1)) a
    setSatf (decide (v ≠ a)) (vSet rd v s)
  | .rcl => vSet rd (binGet (tpOf s (loopT e.l)).mot r (((angleBin s (loopT e.l) r : Int) + imm.toInt) % 1024).toNat).toInt s
  | .rcu => rcuStore (loopT e.l) r (((angleBin s (loopT e.l) r : Int) + imm.toInt) % 1024).toNat (w32 a) s
  | .lend => s

/-- Execute a legal instruction of the evaluation in progress. -/
def lExec (i : LInstr) (e : LEval) (s : State) : State :=
  match i with
  | .reg rd ra rb func => lAdvance 1 (vSet rd (lAluVal func.toNat (vGet s ra) (vGet s rb)) s)
  | .imm .lend _ _ _ =>
    let s := { s with mrn := { s.mrn with ev := none, busy := s.mrn.busy + 1 } }
    commitLoop e.l e.staged e.written (e.cyc + 1) e.satf s
  | .imm op rd ra imm => lAdvance 1 (lImm op rd ra imm e s)
  | .mul .mac acc va ci _ => lAdvance 1 (accSet acc (accGet s acc + lProduct s e.l va ci) s)
  | .mul .msu acc va ci _ => lAdvance 1 (accSet acc (accGet s acc - lProduct s e.l va ci) s)
  | .mul .macz acc va ci _ => lAdvance 1 (accSet acc (lProduct s e.l va ci) s)
  | .branch op ra rb imm =>
    lAdvance (if lTaken op (vGet s ra) (vGet s rb) e.satf then imm.toInt else 1) s

/-- The instruction at the evaluation's address; none where it is illegal (R38, R59). An address beyond the loop code wraps at 32,768
bytes without an exception: the model's choice (log entry 36). -/
def lFetch (s : State) (e : LEval) : Option LInstr :=
  match decodeL (BitVec.ofNat 32 (memLe s.mrn.code (e.pc % 32768) 4)) with
  | some i => if legalL (e.l % 4 < 2) i then some i else none
  | none => none

/-- A row of Rhoval-L: the unit takes an evaluation if it is free; the row acts if it is the instruction that stands next. An
illegal instruction abandons the evaluation, and so does a 257th cycle (R60, R208). -/
def runL (i : LInstr) (s : State) : State :=
  let s := beginEval s
  match s.mrn.ev with
  | none => s
  | some e =>
    match lFetch s e with
    | none => loopOverrun e.l s
    | some j => if j = i then (if e.cyc < 256 then lExec j e s else loopOverrun e.l s) else s

/-- The evaluation in progress to its end: at most n more instructions. -/
def runEval : Nat → State → State
  | 0, s => (s.mrn.ev.map (fun e => loopOverrun e.l s)).getD s
  | n + 1, s =>
    match s.mrn.ev with
    | none => s
    | some e =>
      match lFetch s e with
      | none => loopOverrun e.l s
      | some j => runEval n (lExec j e s)

/-- LOOP_EVALUATION (R207). -/
def loopEvalOp (s : State) : State :=
  let s := beginEval s
  match s.mrn.ev with
  | none => s
  | some e => runEval (256 - e.cyc) s

/-- LOOP_OVERRUN (R208). -/
def loopOverrunOp (l : Nat) (s : State) : State := loopOverrun l s

end Sys2Proof.Machine
end

