-- ==== Sys2Proof/Machine/Motion.lean ====
section
/-! DEFINITION. Motion of the transports: servo frames (R150-R154), the 10 kHz tick (R206), Yo-yo's law and pauses (R198-R203),
MOT descriptors (R224-R229), armed starts (R227), standstill, supervision timers (R230), tension (R361). -/
namespace Sys2Proof.Machine

/-- Change Yo-yo's state of transport t. -/
def modYoyo (t : Tid) (f : Yoyo → Yoyo) (s : State) : State := modTp t (fun x => { x with yoyo := f x.yoyo }) s

/-! ### Positions (R153) -/

/-- The wrap-relative LPOS of a tape LPOS on wrap w. -/
def relPos (s : State) (t : Tid) (w : Nat) (tape : Int) : Int :=
  if w % 2 = 0 then tape - fld s (Reg.svBow0 t) Fld.svBow0Bow else fld s (Reg.svBow1 t) Fld.svBow1Bow - tape

/-- The tape LPOS of a position on wrap w. -/
def tapePos (s : State) (t : Tid) (w : Nat) (p : Int) : Int :=
  if w % 2 = 0 then fld s (Reg.svBow0 t) Fld.svBow0Bow + p else fld s (Reg.svBow1 t) Fld.svBow1Bow - p

/-- Tape LPOS as counted. -/
def tapeNow (s : State) (t : Tid) : Int := (tpOf s t).mot.lpCount.toNat

/-- SR10 takes a new wrap: SR8 is counted on it, and when the reels exchange their roles both reel loops take a FIRST transfer
at their next trigger (R223, R226, R228). -/
def setWrap (t : Tid) (w : Nat) (s : State) : State :=
  let old := (tpOf s t).mot.wrap
  let s := modMot t (fun m => { m with wrap := w, lpos := w32 (relPos s t w (tapeNow s t)) }) s
  if old % 2 = w % 2 then s
  else modLoop (4 * t.val) (fun p => { p with first := true }) (modLoop (4 * t.val + 1) (fun p => { p with first := true }) s)

/-! ### Speed sources (R96, R199, R225) -/

/-- F_t in bytes (R198): in the read direction the payload decoded in buffers that the slice holds and not yet decompressed, and the
decompressed bytes not yet delivered (log entry 44). -/
def fillBytes (s : State) (t : Tid) : Nat :=
  let x := tpOf s t
  if rcMode s t = 2 then x.yoyo.rdBytes + decodedFill s t else x.yoyo.hostBytes + x.yoyo.dsBytes

/-- The calibration speed of a band, mm/s (R123). -/
def calSpeed (b : Nat) : Nat := [3125, 4625, 6500, 8750].getD b 0

/-- The set-point of the transport's speed source, 0.1 mm/s (R96). -/
def sourceSpeed (s : State) (t : Tid) : Nat :=
  let x := tpOf s t
  match x.mot.cur with
  | some c =>
    if c.op = 2 then 10 * fld s (Reg.mcAccel t) Fld.mcAccelVloc else if c.op = 4 then 0
    else if c.op = 5 then 10 * calSpeed (fld s (Reg.rcCal t) Fld.rcCalPass) else x.yoyo.out
  | none => if x.mot.armed.isSome then 10 * x.mot.armVr else x.yoyo.out

/-- The measured velocity lies within LOCKTOL of the source and within the format's range (R96). -/
def lockFits (s : State) (t : Tid) : Bool :=
  let v := (tpOf s t).mot.vtape.natAbs
  let sp := sourceSpeed s t
  decide (0 < sp ∧ absDiff (10 * v) (16 * sp) * 400 ≤ 16 * sp * fld s (Reg.wlCfg t) Fld.wlCfgLocktol
    ∧ 40000 ≤ v ∧ v ≤ 16 * topSpeed (tpOf s t))

/-- SPEED_LOCK (R96). -/
def speedLockOp (t : Tid) (s : State) : State :=
  if lockFits s t then modWl t (fun w => { w with locked := true }) s else s

/-- WL's drivers turn off as the tape is commanded to stop or turn with no descriptor in progress (log entry 25). -/
def wlQuiet (t : Tid) (s : State) : State := modWl t wlOff s

/-! ### MOT descriptors (R224-R229) -/

/-- What every MOT descriptor meets first: a transport that is stopping or faulted ends it MOTION_FAULT; it waits while another
runs, and while a command of Puppeteer waits, which goes first (R22); while WL has a descriptor in progress a STOP, LOCATE or TURN waits
(R224). -/
def motRow (t : Tid) (op : Nat) (valid : State → Slot → Bool) (f : Slot → State → State) (s : State) : State :=
  onHead t 8 op 4 (fun y s =>
    let m := (tpOf s t).mot
    if m.st = .stopping ∨ m.st = .faulted then finish t 8 y.ticket stMotionFault 0 s
    else if m.cur.isSome ∨ m.pup ≠ [] then s
    else if !valid s y then reject t 8 y s
    else if op ≠ 1 ∧ m.st ≠ .released ∧ (tpOf s t).wl.cur.isSome then s
    else f y (takeDesc t 8 y.ticket s)) s

/-- Yo-yo takes a mode (R199): sp starts from the measured speed within VMIN-VMAX, or at the fixed speed. -/
def yoyoMode (t : Tid) (mode v : Nat) (s : State) : State :=
  let m := (tpOf s t).mot
  let lo := 10 * fld s (Reg.yyLim t) Fld.yyLimVmin
  let hi := 10 * fld s (Reg.yyLim t) Fld.yyLimVmax
  let start := (clampInt lo hi (openQuot (10 * m.vtape.natAbs) 16)).toNat
  modYoyo t (fun y => { y with
    on := true, sel := mode, stopT := 0, fixedV := if mode = 2 then v else y.fixedV, sp := if mode = 2 then 10 * v else start }) s

/-- MOT_SPEED (R224, R227). -/
def motSpeedOp (t : Tid) (s : State) : State :=
  motRow t 1 (fun s y =>
    let v := fieldB y.desc 64 32
    descFits y.desc 3 0xFFFFFFFF 0 0 && decide (descArg y.desc ≤ 2)
      && (descArg y.desc != 2 || decide (2500 ≤ v ∧ v ≤ topSpeed (tpOf s t))))
    (fun y s =>
      let s := yoyoMode t (descArg y.desc) (fieldB y.desc 64 32) s
      goArmed t (modMot t (fun m => { m with cur := some { MotCur.reset with ticket := some y.ticket, op := 1 } }) s)) s

/-- A wrap operand is below MC_NWRAP, and the transport has tension (R224). -/
def wrapFits (s : State) (t : Tid) (y : Slot) : Bool :=
  decide (descArg y.desc < fld s (Reg.mcNwrap t) Fld.mcNwrapNwrap ∧ (tpOf s t).mot.st ≠ .released)

/-- A pause ends as another motion command begins. -/
def dropPause (t : Tid) (s : State) : State := modYoyo t (fun y => { y with pause := 0, pauseEnd := false }) s

/-- MOT_LOCATE (R226). -/
def motLocateOp (t : Tid) (s : State) : State :=
  motRow t 2 (fun s y => descFits y.desc 0xFFFFFFFF 0xFFFFFFFF 0 0 && wrapFits s t y)
    (fun y s => wlQuiet t (dropPause t (modMot t
      (beginLocate { MotCur.reset with ticket := some y.ticket, wrap := descArg y.desc, target := partB y.desc 64 32 }) s))) s

/-- MOT_TURN (R228); an armed start is disarmed (log entry 25). -/
def motTurnOp (t : Tid) (s : State) : State :=
  motRow t 3 (fun s y => descFits y.desc 0xFFFFFFFF 0 0 0 && wrapFits s t y)
    (fun y s => wlQuiet t (dropPause t (modMot t (fun m => { m with
      cur := some { MotCur.reset with ticket := some y.ticket, op := 3, wrap := descArg y.desc, step := if m.still then 2 else 1 }
      armed := none, armGo := false, armMiss := 0, st := .turning }) s))) s

/-- MOT_STOP (R229). -/
def motStopOp (t : Tid) (s : State) : State :=
  motRow t 4 (fun _ y => descFits y.desc 0 0 0 0) (fun y s => beginStop t (some y.ticket) (wlQuiet t s)) s

/-! ### LOCATE (R226) -/

/-- d_run as MC_RUNUP shows it: set at the start of a locate's travel. -/
def setRunup (t : Tid) (s : State) : State :=
  setFld (Reg.mcRunup t) Fld.mcRunupFrames (runUp s t (startSpeed s t)) s

/-- The run-up position of a LOCATE as a tape LPOS. -/
def locateGoal (s : State) (t : Tid) (c : MotCur) : Int :=
  tapePos s t c.wrap (c.target.toInt - runUp s t (startSpeed s t))

/-- Marionette's own locate: to the resume position of a pause, or back to the run-up position of a missed start (R200, R227). -/
def ownLocate (t : Tid) (target : W32) (s : State) : State :=
  modMot t (fun m => { m with
    cur := some { MotCur.reset with op := 2, wrap := m.wrap, target := target, step := if m.still then 2 else 1 }
    armed := none, armGo := false, st := .locating }) s

/-- The pause has ended at the run-up position: the tape goes (R200 step 4). -/
def resumePause (t : Tid) (s : State) : State :=
  let v := 10 * fld s (Reg.yyLim t) Fld.yyLimVmin
  goArmed t (modYoyo t (fun y => { y with pause := 0, pauseEnd := false, sp := v, out := v }) s)

/-- A pause ends; before step 3 completes the end waits for step 4 (R200). -/
def endPause (t : Tid) (s : State) : State :=
  match (tpOf s t).yoyo.pause with
  | 0 => s
  | 4 => resumePause t s
  | _ => modYoyo t (fun y => { y with pauseEnd := true }) s

/-- HOSTSYNC ends a write-direction pause (R200); a pause for want of SPDREF ends with it (R203). -/
def wakePause (t : Tid) (s : State) : State := if rcMode s t = 2 ∨ (tpOf s t).yoyo.sel = 1 then s else endPause t s

/-- The calibration passes begin where Puppeteer's LOCATE has come to rest ahead of LPOS 0 (R148 step 3): no start stays armed. -/
def beginPasses (t : Tid) (s : State) : State :=
  modMot t (fun m => { m with armed := none, armGo := false, armMiss := 0, st := .running, cur := some { MotCur.reset with op := 5 } }) s

/-- The LOCATE of step 2 of a calibration (R148): Puppeteer's own, while MODE is 3. -/
def forCalibration (s : State) (t : Tid) (c : MotCur) : Bool := c.ticket.isNone && c.tag.isNone && rcMode s t == 3

/-- Step 4 of a locate: the start is armed (R226, R227). It goes at once where WL holds a descriptor or this was the return
from a missed start; after a pause it waits for the pause's end. -/
def locateDone (t : Tid) (c : MotCur) (s : State) : State :=
  let s := setRunup t s
  let s := modMot t (fun m => { m with armed := some c.target, armGo := false, st := .tensioned, setv := 0 }) s
  let again := c.ticket.isNone && c.tag.isNone && decide ((tpOf s t).mot.armMiss ≠ 0)
  let s := if (tpOf s t).yoyo.pause = 3 then modYoyo t (fun y => { y with pause := 4 }) s else s
  let s := endMotion t stOk (tpOf s t).mot.lpos s
  let y := (tpOf s t).yoyo
  if y.pause = 4 then (if y.pauseEnd then resumePause t s else s)
  else if again || !(portOpen (tpOf s t).wlP).isEmpty then goArmed t s
  else s

/-- An approach missed (R226 step 3). -/
def approachMissed (t : Tid) (c : MotCur) (s : State) : State :=
  let s := bumpFld (Reg.mcRunup t) Fld.mcRunupMisses s
  if 3 ≤ c.misses + 1 then supervisionStop t 8 0 s
  else modMot t (fun m => { m with cur := some { c with step := 4, misses := c.misses + 1 } }) s

/-- A missed start: the transport returns to R_u and tries again; the third stops it (R227). -/
def startMissed (t : Tid) (p : W32) (s : State) : State :=
  let s := bumpFld (Reg.mcRunup t) Fld.mcRunupMisses s
  let n := (tpOf s t).mot.armMiss + 1
  if 3 ≤ n then supervisionStop t 8 0 s
  else ownLocate t p (modMot t (fun m => { m with armMiss := n }) s)

/-- A start is taken at P: WL starts its first descriptor there (R227, R96). -/
def startTaken (t : Tid) (s : State) : State :=
  let s := modMot t (fun m => { m with armed := none, armGo := false, armMiss := 0 }) s
  if wlReady s t then wlTake t s else s

/-! ### Standstill (R209) -/

/-- A supervision stop ends at standstill (R231 step 3); after an escalation Puppeteer clears the transport at once (R324
class 7). -/
def stopDone (t : Tid) (s : State) : State :=
  let s := modMot t (fun m => { m with st := .faulted, setv := 0 }) s
  let m := (tpOf s t).mot
  if causeFault m.cause && !s.flt.pendRetry.contains (unitId 7 t.val) then restoreLoops t (clearTransport t s) else s

/-- A commanded stop ends at standstill (R229). -/
def stopAtRest (t : Tid) (s : State) : State := endMotion t stOk 0 (modMot t (atRest s t) s)

/-- STANDSTILL (R209): it ends a stop, a step of a LOCATE or the first step of a TURN. -/
def standstillOp (t : Tid) (s : State) : State :=
  if 80 ≤ (tpOf s t).mot.vtape.natAbs then s
  else
    let s := modMot t (fun m => { m with still := true }) s
    let m := (tpOf s t).mot
    if m.st = .stopping then stopDone t s
    else
      match m.cur with
      | none => s
      | some c =>
        if c.op = 4 then stopAtRest t s
        else if c.op = 2 ∧ c.step = 3 ∧ (tapeNow s t - locateGoal s t c).natAbs ≤ 2 ∧ m.wrap = c.wrap then
          (if forCalibration s t c then beginPasses t (setRunup t s) else locateDone t c s)
        else if c.op = 2 ∧ (c.step = 3 ∨ c.step = 5) then approachMissed t c s
        else if (c.op = 2 ∧ (c.step = 1 ∨ c.step = 4)) ∨ (c.op = 3 ∧ c.step = 1) then
          modMot t (fun m => { m with cur := some { c with step := 2 } }) s
        else s

/-- YPOS lies within SETTLE of YSP, and YSP equals the entry of wrap w (R226, R228). -/
def settledOn (s : State) (t : Tid) (w : Nat) : Bool :=
  let m := (tpOf s t).mot
  decide ((signedOf 24 (fieldB m.lastFrame 0 24) - m.ysp).natAbs ≤ fld s (Reg.mcTurncfg t) Fld.mcTurncfgSettle
    ∧ m.ysp = wrapEntry m w)

/-- WRAP_SETTLE (R226). -/
def wrapSettleOp (t : Tid) (s : State) : State :=
  match (tpOf s t).mot.cur with
  | some c => if c.op = 2 ∧ 2 ≤ c.step ∧ settledOn s t c.wrap = true then setWrap t c.wrap s else s
  | none => s

/-- TURN_COMPLETE (R228). -/
def turnCompleteOp (t : Tid) (s : State) : State :=
  match (tpOf s t).mot.cur with
  | some c =>
    if c.op = 3 ∧ c.step = 2 ∧ settledOn s t c.wrap = true ∧ (tpOf s t).wl.locked = true then
      endMotion t stOk 0 (modMot t (fun m => { m with st := .running }) (setWrap t c.wrap s))
    else s
  | none => s

/-! ### Servo frames (R150-R154) -/

/-- The four bursts P, Q, R, S of a band, with the stripes numbered as they are written: a frame that opens with a seven-stripe burst
runs forward, one with a five-stripe burst in reverse (R150, R151). None where the burst counts do not match R150. -/
def bandBursts (b : List (List Nat)) : Option (Bool × List Nat × List Nat × List Nat × List Nat) :=
  match b with
  | [w, x, y, z] =>
    if b.map List.length = [7, 7, 5, 5] then some (false, w, x, y, z)
    else if b.map List.length = [5, 5, 7, 7] then some (true, z.reverse, y.reverse, x.reverse, w.reverse)
    else none
  | _ => none

/-- The sum over the stripes of two bursts of the time between them (R151). -/
def burstSum (a b : List Nat) : Nat := (List.zipWith absDiff a b).foldl (· + ·) 0

/-- 35 times Δ_PQ, Δ_PR and Δ_QS of a band: means over seven and five stripes (R151). -/
def bandMeans (b : List (List Nat)) : Nat × Nat × Nat :=
  match bandBursts b with
  | none => (0, 0, 0)
  | some (_, p, q, r, w) => (5 * burstSum p q, 7 * burstSum p r, 7 * burstSum q w)

/-- A band's frame is valid: burst counts match and 0.1 ≤ r ≤ 0.9 (R151). -/
def bandValid (b : List (List Nat)) : Bool :=
  let m := bandMeans b
  (bandBursts b).isSome && decide (0 < m.2.1 ∧ m.2.1 ≤ 10 * m.1 ∧ 10 * m.1 ≤ 9 * m.2.1)

/-- A band's lateral position (R151, R152). -/
def bandY (s : State) (t : Tid) (b : List (List Nat)) (off : Nat) : Int :=
  let m := bandMeans b
  let r16 := roundQuot (65536 * m.1 : Nat) m.2.1
  roundQuot (fld s (Reg.svK t) Fld.svKK * r16) 65536 - off

/-- The frame's data bit from one band (R151). -/
def bandBit (b : List (List Nat)) : Bool := decide (8417 * (bandMeans b).2.1 < 10000 * (bandMeans b).2.2)

/-- The band a frame's direction, data bit and times are taken from: A where it is valid, else B (R151, R152). -/
def frameBand (f : ServoIn) : Option (List (List Nat)) := if bandValid f.a then some f.a else if bandValid f.b then some f.b else none

/-- The direction of a frame, from the burst that opens it; a frame that shows none keeps the last one (R151). -/
def frameReverse (last : BitVec 128) (f : ServoIn) : Bool :=
  match (frameBand f).bind bandBursts with
  | some (r, _) => r
  | none => fieldB last 26 1 == 1

/-- The time of the frame's first P stripe, where a band is valid (R154). -/
def frameTime (f : ServoIn) : Option Nat := ((frameBand f).bind bandBursts).map (fun x => x.2.1.headD 0)

/-- PERIOD: from the previous frame's first P stripe, 0 where that is not known (R154). -/
def framePeriod (prev now : Option Nat) : W32 :=
  match prev, now with
  | some a, some b => if a < b ∧ b - a < 2 ^ 32 then BitVec.ofNat 32 (b - a) else 0
  | _, _ => 0

/-- The 7-bit check of a tape LPOS (R153): CRC with x^7 + x^3 + 1. -/
def lposCheck (v : BitVec 23) : BitVec 7 :=
  (List.range 23).foldl (fun (c : BitVec 7) i => if c.getLsbD 6 != v.getLsbD (22 - i) then (c <<< 1) ^^^ 0x09 else c <<< 1) 0

/-- The tape LPOS of 43 data bits in the order written, if sync, group ends and check hold (R153). -/
def lposWord (l : List Bool) : Option (BitVec 23) :=
  let groups := (List.range 6).map (fun g => (l.drop (7 + 6 * g)).take 6)
  let data := groups.flatMap (fun g => g.take 5)
  let v : BitVec 23 := BitVec.ofNat 23 (bitsNat (data.take 23))
  if l.length = 43 ∧ l.take 7 = [true, true, true, true, true, true, false] ∧ groups.all (fun g => !(g.getD 5 true)) = true
      ∧ bitsNat (data.drop 23) = (lposCheck v).toNat then some v
  else none

/-- The data bits of the last 43 frames in the order written, if none is missing: newest first as kept, reversed in forward
travel. -/
def wordBits (fwd : Bool) (l : List (Option Bool)) : List Bool :=
  let b := l.filterMap id
  if l.length = 43 ∧ b.length = 43 then (if fwd then b.reverse else b) else []

/-- The frame count and LPOS words (R153): count this frame, take its bit, look for a word. -/
def countFrame (fwd : Bool) (bit : Option Bool) (m : Mot) : Mot :=
  let n : BitVec 23 := if fwd then m.lpCount + 1 else m.lpCount - 1
  let same := decide ((fieldB m.lastFrame 26 1 = 0) = fwd)
  let l := (bit :: (if same then m.lpWord else [])).take 43
  let m := { m with lpCount := n, lpWord := l }
  match lposWord (wordBits fwd l) with
  | none => m
  | some v =>
    let here : BitVec 23 := if fwd then v + 42 else v
    let pairs := m.lpPrev = some (if fwd then v - 43 else v + 43)
    { m with lpPrev := some v, lpCount := if pairs then here else n, lv := m.lv || pairs }

/-- Put a signed number into a field of a record. -/
def recField (lo w : Nat) (x : Int) : Nat := patternOf w x * 2 ^ lo

/-- LPOS has moved from a to b: it reached p, either way. -/
def passes (a b p : Int) : Bool := decide ((a < p ∧ p ≤ b) ∨ (b ≤ p ∧ p < a))

/-- Position events of a frame (R42, R51): LPOSCMP reached, EOTW passed, BOTW passed against the direction of recording. -/
def positionEvents (t : Tid) (a b : Int) (s : State) : State :=
  let x := tpOf s t
  let s := if passes a b x.seq.lposcmp.toInt then setEvent t evLpos s else s
  let s := if passes a b x.mot.eotw.toInt then setEvent t evEotw s else s
  if b < x.mot.botw.toInt ∧ x.mot.botw.toInt ≤ a then setEvent t evBotw s else s

/-- An armed start reaches the frame boundary of P (R227). -/
def armedFrame (t : Tid) (a b : Int) (s : State) : State :=
  let m := (tpOf s t).mot
  match m.armed with
  | none => s
  | some p =>
    if m.armGo ∧ a < p.toInt ∧ p.toInt ≤ b then
      (if (tpOf s t).wl.locked then startTaken t s else startMissed t p s)
    else s

/-- A frame record reaches Marionette (R154, R207): bands valid, position, direction, DIS, period and time stamp. -/
def frameRecord (t : Tid) (va vb dis rev : Bool) (y : Int) (bit : Option Bool) (period tstamp : W32) (s : State) : State :=
  let a := (tpOf s t).mot.lpos.toInt
  let s := modMot t (countFrame (!rev) bit) s
  let m := (tpOf s t).mot
  let b := relPos s t m.wrap m.lpCount.toNat
  let r : BitVec 128 := BitVec.ofNat 128 (recField 0 24 y + 2 ^ 24 * va.toNat + 2 ^ 25 * vb.toNat + 2 ^ 26 * rev.toNat
    + 2 ^ 27 * m.lv.toNat + 2 ^ 28 * dis.toNat + recField 29 23 b + 2 ^ 64 * period.toNat + 2 ^ 96 * tstamp.toNat)
  let none_ := !va && !vb
  let loss := none_ && decide (16000 < m.vtape.natAbs)
  let s := modMot t (fun m => { m with
    lastFrame := r, frames := r :: m.frames, lpos := w32 b, svLoss := if loss then m.svLoss + 1 else 0 }) s
  let s := if none_ then bumpFld (Reg.svStat t) Fld.svStatInvcnt s else s
  let s := if dis then bumpFld (Reg.svStat t) Fld.svStatDiscnt s else s
  let y := (tpOf s t).yoyo
  let s := if fld s (Reg.yyOut t) Fld.yyOutEn = 1 ∧ (tpOf s t).wl.locked ∧ y.pause = 0 ∧ !m.still then
      modYoyo t (fun y => { y with spdout := y.spdout + 1 }) s else s
  let s := armedFrame t a b (positionEvents t a b (capLpos t (w32 b) s))
  trigger (4 * t.val + 2) (period.toNat * 15625) s

/-- SERVO_FRAME (R150-R152, R154). TSTAMP counts RCCLKc cycles of 1 ns, 64 units of the stripe timestamps; for a frame without a valid
band it is open. Nothing of a transport whose UCIe module is down reaches the F-die (R15). -/
def servoFrameOp (t : Tid) (f : ServoIn) (s : State) : State :=
  if isOffline s t then s
  else
    let va := bandValid f.a
    let vb := bandValid f.b
    let ya := bandY s t f.a (fld s (Reg.svOffa t) Fld.svOffaOff)
    let yb := bandY s t f.b (fld s (Reg.svOffb t) Fld.svOffbOff)
    let dis := va && vb && decide ((fld s (Reg.svCfg t) Fld.svCfgDisagree : Int) < (ya - yb).natAbs)
    let y := if va && vb then (if dis then ya else openQuotI (ya + yb) 2) else if va then ya else if vb then yb
      else signedOf 24 (fieldB (tpOf s t).mot.lastFrame 0 24)
    let bit := (frameBand f).map bandBit
    let now := frameTime f
    let stamp := match now with
      | some n => (BitVec.ofNat 32 (n / 64), s)
      | none => let r := takeFree s; (BitVec.ofNat 32 r.1, r.2)
    let period := framePeriod (tpOf s t).mot.lastP now
    let rev := frameReverse (tpOf s t).mot.lastFrame f
    let s := modMot t (fun m => { m with
      lastP := now, skewSum := if va && vb then m.skewSum + (ya - yb) else m.skewSum, skewN := if va && vb then m.skewN + 1 else m.skewN }) stamp.2
    frameRecord t va vb dis rev y bit period stamp.1 s

/-- SERVO_FRAME_TIMEOUT (R154): a record with both bands invalid at the expected frame time. -/
def servoTimeoutOp (t : Tid) (tstamp : W32) (s : State) : State :=
  if isOffline s t then s
  else
    let l := (tpOf s t).mot.lastFrame
    frameRecord t false false false (fieldB l 26 1 == 1) (signedOf 24 (fieldB l 0 24)) none 0 tstamp (modMot t (fun m => { m with lastP := none }) s)

/-- SKEW of a motion-sensor record: the mean of y_A - y_B over the frames of the conversion period valid on both bands; open without
one (R210). -/
def skewMean (s : State) (t : Tid) : Int × State :=
  let m := (tpOf s t).mot
  if m.skewN = 0 then let r := takeFree s; (r.1, r.2) else (openQuotI m.skewSum m.skewN, s)

/-- The motion-sensor record of a conversion: TENS, SKEW, SKV, zeros, MARK (R210). -/
def motionWord (tens : BitVec 16) (skew : Int) (skv : Bool) : BitVec 64 :=
  BitVec.ofNat 64 (tens.toNat + recField 16 24 skew + 2 ^ 40 * skv.toNat + 2 ^ 56 * 0xA5)

/-- MOTION_SENSOR_RECORD (R122, R210): the chiplet forms it from the tension ADC and the frames since the last one. -/
def motionRecordOp (t : Tid) (tens : BitVec 16) (s : State) : State :=
  if isOffline s t then s
  else
    let k := skewMean s t
    modMot t (fun m => { m with motion := motionWord tens k.1 (m.skewN != 0), skewSum := 0, skewN := 0 }) k.2

/-- A count after one edge, modulo CPR (R211). -/
def countEdge (cpr c : Nat) (up : Bool) : Nat := if up then (if cpr ≤ c + 1 then 0 else c + 1) else if c = 0 then cpr - 1 else c - 1

/-- ENCODER_EDGE (R211, R350). -/
def encoderEdgeOp (t : Tid) (reelB : Bool) (e : Edge) (s : State) : State :=
  let move (up : Bool) : State :=
    let d : Int := if up then 1 else -1
    if reelB then
      let cpr := fld s (Reg.mcEnc t) Fld.mcEncCprb
      modMot t (fun m => { m with encB := countEdge cpr m.encB up, tickB := m.tickB + d, turnsB := m.turnsB + 1 }) s
    else
      let cpr := fld s (Reg.mcEnc t) Fld.mcEncCpra
      modMot t (fun m => { m with encA := countEdge cpr m.encA up, tickA := m.tickA + d, turnsA := m.turnsA + 1 }) s
  match e with
  | .up => move true
  | .down => move false
  | .both => logFault (loopUnit (4 * t.val + reelB.toNat)) 0 0 0 0 s

/-! ### The tick (R206) -/

/-- Records that count for the velocity (R209). -/
def speedRecs (m : Mot) : List (BitVec 128) := m.frames.filter (fun r => decide (fieldB r 24 2 ≠ 0 ∧ fieldB r 64 32 ≠ 0))

/-- Sum of 200 µm / PERIOD over records as a fraction, 1/16 mm/s. -/
def periodSum : List (BitVec 128) → Nat × Nat
  | [] => (0, 1)
  | r :: l =>
    let q := periodSum l
    let p := fieldB r 64 32
    (204800000000 * q.2 + q.1 * p, q.2 * p)

/-- VTAPE from frame records, or from the encoders (R209). -/
def measureSpeed (t : Tid) (s : State) : State :=
  let m := (tpOf s t).mot
  let l := speedRecs m
  match l with
  | r :: _ =>
    let q := periodSum l
    let v := openQuot q.1 (q.2 * l.length)
    modMot t (fun m => { m with vsrc := false, vtape := if fieldB r 26 1 = 0 then v else -(v : Int) }) s
  | [] =>
    let ca := fld s (Reg.mcEnc t) Fld.mcEncCpra
    let cb := fld s (Reg.mcEnc t) Fld.mcEncCprb
    let ra := fld s (Reg.mcRad t) Fld.mcRadRada
    let rb := fld s (Reg.mcRad t) Fld.mcRadRadb
    if ca = 0 ∨ cb = 0 then
      let f := takeFree s
      modMot t (fun m => { m with vsrc := true, vtape := (BitVec.ofNat 32 f.1).toInt }) f.2
    else
      let v := openQuotI (160 * pi80 * (m.tickA * ra * cb + m.tickB * rb * ca)) (2 ^ 80 * ca * cb)
      modMot t (fun m => { m with vsrc := true, vtape := v }) s

/-- A radius estimate after a tick (R209); with the reel's count unchanged |VTAPE| / ω has no value. -/
def radiusNext (r v ticks cpr : Nat) (s : State) : Nat × State :=
  if ticks = 0 then takeFree s
  else (min 65535 (openQuot (63 * r * 320 * pi80 * ticks + v * cpr * 2 ^ 80) (64 * 320 * pi80 * ticks)), s)

/-- Both radius estimates, while |VTAPE| > 500 mm/s from frame records (R209). -/
def measureRadius (t : Tid) (s : State) : State :=
  let m := (tpOf s t).mot
  if 8000 < m.vtape.natAbs ∧ m.vsrc = false then
    let a := radiusNext (fld s (Reg.mcRad t) Fld.mcRadRada) m.vtape.natAbs m.tickA.natAbs (fld s (Reg.mcEnc t) Fld.mcEncCpra) s
    let s := setFld (Reg.mcRad t) Fld.mcRadRada a.1 a.2
    let b := radiusNext (fld s (Reg.mcRad t) Fld.mcRadRadb) m.vtape.natAbs m.tickB.natAbs (fld s (Reg.mcEnc t) Fld.mcEncCprb) s
    setFld (Reg.mcRad t) Fld.mcRadRadb b.1 b.2
  else s

/-- Upward and downward thresholds of the bands, mm/s (R123). -/
def bandUp (b : Nat) : Nat := [0, 3750, 5500, 7500].getD b 0
/-- Downward threshold of band b. -/
def bandDown (b : Nat) : Nat := [0, 3650, 5400, 7400].getD b 0

/-- The band after one sample at v, 1/16 mm/s (R123). -/
def bandNext (b v : Nat) : Nat :=
  if b < 3 ∧ 16 * bandUp (b + 1) ≤ v then b + 1 else if 0 < b ∧ v < 16 * bandDown b then b - 1 else b

/-- The band of the sample; a change raises SPEEDBAND, opens the hold window and copies the band's set into the lateral loop's
inactive bank (R123, R201, R219). -/
def assignBand (t : Tid) (s : State) : State :=
  let m := (tpOf s t).mot
  let b := bandNext m.band m.vtape.natAbs
  if b = m.band then s
  else
    let s := setEvent t evSpeedband (modMot t (fun m => { m with band := b }) s)
    let s := modYoyo t (fun y => { y with hold := decide (fld s (Reg.yySlew t) Fld.yySlewBandhold ≠ 0) }) s
    if fld s (Reg.mcLctl t 2) Fld.mcLctlBandsw = 1 then
      modLoop (4 * t.val + 2) (fun p => { setBank (!p.bank) (coefSet m.bandStore (64 * b)) p with selPend := some (!p.bank) }) s
    else s

/-- The frequency in use: the synthesiser moves from one word to the next linearly over 100 µs, 125,000 cycles of CCLK (R28, R99). -/
def freqNow (s : State) (t : Tid) : Nat :=
  let w := (tpOf s t).wl
  let step := openQuot (absDiff w.freq.toNat w.freqFrom.toNat * min 125000 (s.clk - w.freqClk)) 125000
  if w.freqFrom.toNat ≤ w.freq.toNat then w.freqFrom.toNat + step else w.freqFrom.toNat - step

/-- The frequency word F = 320,000 v, as the synthesiser clamps it (R98, R99). A synthesiser that stood still begins at its first word
(log entry 37). -/
def sendFreq (t : Tid) (s : State) : State :=
  let hi := if (tpOf s t).head.kind = 2 then 3200000000 else 1600000000
  let f := (clampInt 800000000 hi (20000 * (tpOf s t).mot.vtape.natAbs)).toNat
  let from' := if (tpOf s t).wl.freq = 0 then f else freqNow s t
  modWl t (fun w => { w with
    freqFrom := BitVec.ofNat 32 from', freq := BitVec.ofNat 32 f, freqClk := s.clk, locked := w.locked && lockFits s t }) s

/-- The target of the law, 0.1 mm/s: before slew and cap (R199, R201, R203). -/
def yoyoTarget (s : State) (t : Tid) : Nat :=
  let y := (tpOf s t).yoyo
  let lo := fld s (Reg.yyLim t) Fld.yyLimVmin
  let hi := fld s (Reg.yyLim t) Fld.yyLimVmax
  match y.sel with
  | 0 =>
    let f := fillBytes s t
    let a := fld s (Reg.yyLaw t) Fld.yyLawLow * 2 ^ 24
    let b := fld s (Reg.yyLaw t) Fld.yyLawHigh * 2 ^ 24
    let u := if rcMode s t = 2 then b - f else f - a
    let u := min u (b - a)
    let v := openQuot (10 * (lo * (b - a) + u * (hi - lo))) (b - a)
    if y.hold then
      let k := (tpOf s t).mot.band
      let v := if 0 < k then max v (10 * (bandDown k + 10)) else v
      if k < 3 then min v (10 * (bandUp (k + 1) - 10)) else v
    else v
  | 1 => 10 * (clampInt lo hi y.refv).toNat
  | _ => 10 * y.fixedV

/-- Yo-yo's set-point of the sample (R199, R200, R312). In fixed mode sp is the fixed speed, but for its return from a cap
through the slew limit. -/
def yoyoLaw (t : Tid) (s : State) : State :=
  let y := (tpOf s t).yoyo
  match y.lastFrozen with
  | some v => modYoyo t (fun y => { y with out := v }) s
  | none =>
    if !y.on then modYoyo t (fun y => { y with out := 0 }) s
    else if 2 ≤ y.pause then modYoyo t (fun y => { y with out := 0, capped := false }) s
    else
      let v := yoyoTarget s t
      let step := fld s (Reg.yySlew t) Fld.yySlewSlew
      let cap := 10 * fld s (Reg.yyCap t) Fld.yyCapCapv
      let sp := if y.sel = 2 then (if y.sp < v then min v (y.sp + step) else v) else (clampInt (y.sp - step) (y.sp + step) v).toNat
      let capped := decide (cap < sp)
      let s := if capped && !y.capped then bumpFld (Reg.yyCnt t) Fld.yyCntCaps s else s
      modYoyo t (fun y => { y with capped := capped, sp := min sp cap, out := min sp cap }) s

/-- The condition of a pause (R200). -/
def pauseFits (s : State) (t : Tid) : Bool :=
  let x := tpOf s t
  x.yoyo.on && x.yoyo.sel == 0 && x.yoyo.pause == 0 && x.yoyo.lastFrozen.isNone && decide (x.mot.st = .running) && x.mot.armed.isNone
    && x.yoyo.out == 10 * fld s (Reg.yyLim t) Fld.yyLimVmin
    && (if rcMode s t = 2 then decide (fld s (Reg.yyLaw t) Fld.yyLawHigh * 2 ^ 24 ≤ fillBytes s t)
      else decide (fillBytes s t < fld s (Reg.yyPause t) Fld.yyPauseStop * 2 ^ 24) && (portOpen x.wlP).isEmpty && x.wl.cur.isNone
        && !bitOf x.seq.latched.toNat evEotw)

/-- Step 3: Marionette stops the tape and locates back to the run-up position for P_r. -/
def pausePark (t : Tid) (s : State) : State :=
  let s := wlQuiet t (modYoyo t (fun y => { y with pause := 3, out := 0 }) s)
  ownLocate t (tpOf s t).yoyo.pR s

/-- Step 1: E and P_r (R200). In the read direction E is where the read element stands, and step 3 follows at once. -/
def pauseBegin (t : Tid) (s : State) : State :=
  let x := tpOf s t
  let read := rcMode s t = 2
  let lag := fieldB (reg s (Reg.vfyLag t)) (16 * (x.mot.wrap % 2)) 16
  let e : W32 := if read then x.mot.lpos - BitVec.ofNat 32 (lag / 200) else x.wl.endLpos
  let s := bumpFld (Reg.yyCnt t) Fld.yyCntPauses s
  let s := modYoyo t (fun y => { y with pause := 1, pauseEnd := false, stopT := 0, pE := e, pR := e + 1 }) s
  if read then pausePark t s else s

/-- A transport that follows SPDREF pauses while it is invalid (R203), under R200 from step 1: while it runs, no start is armed and WL has
no descriptor in progress (R96). -/
def refPause (t : Tid) (s : State) : State :=
  let x := tpOf s t
  if x.yoyo.on ∧ x.yoyo.sel = 1 ∧ !x.yoyo.refOk ∧ x.yoyo.pause = 0 ∧ x.mot.st = .running ∧ x.mot.armed.isNone ∧ x.mot.cur.isNone
      ∧ x.wl.cur.isNone ∧ x.yoyo.lastFrozen.isNone then pauseBegin t s else s

/-- STOPT's samples, and the ends of a pause that Yo-yo sees itself (R200, R203). -/
def pauseWatch (t : Tid) (s : State) : State :=
  let fit := pauseFits s t
  let s := modYoyo t (fun y => { y with stopT := if fit then y.stopT + 1 else 0 }) s
  let y := (tpOf s t).yoyo
  let f := fillBytes s t
  let start := fld s (Reg.yyPause t) Fld.yyPauseStart * 2 ^ 24
  let over_ := if y.sel = 1 then y.refOk
    else if rcMode s t = 2 then decide (f + start < fld s (Reg.yyLaw t) Fld.yyLawHigh * 2 ^ 24)
    else decide (start ≤ f) || budget s t.val == 0
  if y.pause ≠ 0 ∧ over_ = true then endPause t s else s

/-- Whole frames, the root of the speed at which a deceleration at A ends after d frames, 1/16 mm/s. -/
def brakeSpeed (a d : Nat) : Nat := isqrt (102400 * a * d)

/-- Where SETV is led, 1/16 mm/s, and the step of the command in progress (R225-R229, R231). -/
def setvGoal (s : State) (t : Tid) : Int × Option MotCur :=
  let x := tpOf s t
  let m := x.mot
  let out : Int := openQuot (16 * x.yoyo.out) 10
  let a := fld s (Reg.mcAccel t) Fld.mcAccelA
  let toward (goal : Int) : Int :=
    let d := goal - tapeNow s t
    let v : Int := min (brakeSpeed a d.natAbs) (16 * fld s (Reg.mcAccel t) Fld.mcAccelVloc)
    if 0 ≤ d then v else -v
  match m.st, m.cur with
  | .locating, some c =>
    let goal := locateGoal s t c
    let braking := c.step = 2 ∧ brakeSpeed a (goal - tapeNow s t).natAbs ≤ m.setv.natAbs
    let c := if braking then { c with step := if m.wrap = c.wrap then 3 else 5, back := m.lpCount } else c
    ((if c.step = 1 then 0 else if c.step = 4 then toward c.back.toNat else toward goal), some c)
  | .running, some c =>
    if c.op = 5 then
      let v : Int := 16 * calSpeed (fld s (Reg.rcCal t) Fld.rcCalPass)
      ((if fld s (Reg.rcCal t) Fld.rcCalDir = 1 then -v else v), some c)
    else ((if c.op = 4 then 0 else wrapSign m.wrap * (if m.armed.isSome then ((16 * m.armVr : Nat) : Int) else out)), some c)
  | .turning, some c => ((if c.step = 1 then 0 else wrapSign c.wrap * out), some c)
  | .running, none => (wrapSign m.wrap * (if m.armed.isSome then ((16 * m.armVr : Nat) : Int) else out), none)
  | _, c => (0, c)

/-- The acceleration limit of a tick (R225, R231, R312): A or ASTOP m/s² over 100 µs, 1/16 mm/s. -/
def setvStep (t : Tid) (s : State) : State :=
  let m := (tpOf s t).mot
  let g := setvGoal s t
  let stop := m.st = .stopping ∨ (s.pwr.commit.isSome ∧ (m.cur.map (fun c => c.op)) = some 4)
  let a := if stop then fld s (Reg.mcAccel t) Fld.mcAccelAstop else fld s (Reg.mcAccel t) Fld.mcAccelA
  let lim : Int := openQuot (16 * a) 10
  let v := clampInt (m.setv - lim) (m.setv + lim) g.1
  let s := if (m.cur.map (fun c => c.step)) = some 2 ∧ m.st = .locating then setRunup t s else s
  modMot t (fun m => { m with setv := v, accel := v - m.setv, cur := g.2 }) s

/-- Supervision timers of a tick (R230). -/
def superTimers (t : Tid) (s : State) : State :=
  let m := (tpOf s t).mot
  let v := m.vtape.natAbs
  let tens := signedOf 16 (fieldB m.motion 0 16)
  let outside := m.st ≠ .released ∧ (tens < signedOf 16 (fld s (Reg.mcTwin t) Fld.mcTwinTmin) ∨ signedOf 16 (fld s (Reg.mcTwin t) Fld.mcTwinTmax) < tens)
  let s := modMot t (fun m => { m with
    tensT := if outside then m.tensT + 1 else 0
    encTA := if 8000 < v ∧ m.tickA = 0 then m.encTA + 1 else 0
    encTB := if 8000 < v ∧ m.tickB = 0 then m.encTB + 1 else 0
    overT := if (if (tpOf s t).head.kind = 2 then 168000 else 84000) < v then m.overT + 1 else 0 }) s
  let s := forAll [0, 1, 3] (fun n s => ferrTime (4 * t.val + n) 6400000 s) s
  if m.st = .faulted then modMot t (fun m => { m with tensT := 0, encTA := 0, encTB := 0, overT := 0 }) s else s

/-- A supervision condition has held for its time (R230); 2 and 7 act at once elsewhere, and here for a loop in FAULT. -/
def causeHolds (s : State) (t : Tid) (cause n : Nat) : Bool :=
  let m := (tpOf s t).mot
  match cause with
  | 1 =>
    let l := 4 * t.val + n
    (getLoop s l).mode == .auto && fld s (Reg.mcFe t n) Fld.mcFeFelim != 0
      && decide (0 < (getLoop s l).feTime ∧ fld s (Reg.mcFet t n) Fld.mcFetFetime * 640000 ≤ (getLoop s l).feTime)
  | 2 => (getLoop s (4 * t.val + n)).mode == .fault && !(m.cause == 2 && (m.st == .stopping || m.st == .faulted))
  | 3 => decide (0 < m.tensT ∧ fld s (Reg.mcSup t) Fld.mcSupTtime * 10 ≤ m.tensT)
  | 4 => decide (0 < m.svLoss ∧ fld s (Reg.mcSup t) Fld.mcSupSvloss ≤ m.svLoss)
  | 5 => decide (100 ≤ m.encTA ∨ 100 ≤ m.encTB)
  | 6 => decide (10 ≤ m.overT)
  | _ => false

/-- SUPERVISION_STOP (R230, R231). -/
def supervisionOp (t : Tid) (cause n : Nat) (s : State) : State :=
  if causeHolds s t cause n then supervisionStop t cause (if cause ≤ 2 then n else 0) s else s

/-- UTIL over the last ms: ten ticks of transport 0, 400,000 cycles. -/
def utilTick (t : Tid) (s : State) : State :=
  if t = 0 ∧ (tpOf s t).mot.ticks % 10 = 0 then
    { s with mrn := { s.mrn with util := min 1000 (openQuot (1000 * s.mrn.busy) 400000), busy := 0 } }
  else s

/-- MARIONETTE_TICK (R206). A MOT.SPEED completes at the tick (R224). -/
def tickOp (t : Tid) (s : State) : State :=
  let s := measureRadius t (measureSpeed t s)
  let s := modMot t (fun m => { m with
    omA := 256 * m.tickA, omB := 256 * m.tickB, still := m.still && decide (m.vtape.natAbs < 80), ticks := m.ticks + 1 }) s
  let s := sendFreq t (assignBand t s)
  let s := refPause t (pauseWatch t (yoyoLaw t s))
  let s := setvStep t (nextPup t s)
  let s := superTimers t s
  let s := modMot t (fun m => { m with frames := [], tickA := 0, tickB := 0 }) s
  let s := if ((tpOf s t).mot.cur.map (fun c => c.op)) = some 1 then endMotion t stOk 0 s else s
  let s := forAll [0, 1, 3] (fun n s => trigger (4 * t.val + n) 100000000000 s) s
  utilTick t s

/-- FREQ_STALE (R99): the synthesiser holds its word. -/
def freqStaleOp (s : State) : State := cdcEvent Fld.glbCdcerrFreqStale none s

/-! ### Pauses (R200-R203) -/

/-- YOYO_PAUSE_START (R200); STOPT = 0 never pauses. -/
def pauseStartOp (t : Tid) (s : State) : State :=
  let n := fld s (Reg.yyPause t) Fld.yyPauseStopt
  let x := tpOf s t
  if n ≠ 0 ∧ n * 10 ≤ x.yoyo.stopT ∧ pauseFits s t = true ∧ x.mot.cur.isNone then pauseBegin t s else s

/-- PAUSE_DRIVERS_OFF (R200 step 2): the tape has moved verify lag + 200 µm beyond E. -/
def driversOffOp (t : Tid) (s : State) : State :=
  let x := tpOf s t
  let lag := fieldB (reg s (Reg.vfyLag t)) (16 * (x.mot.wrap % 2)) 16
  if x.yoyo.pause = 1 ∧ x.mot.cur.isNone ∧ x.yoyo.pE.toInt + ceilDiv (lag + 200) 200 ≤ x.mot.lpos.toInt then pausePark t s else s

/-- MAXPAUSE_EXPIRY (R200). -/
def maxPauseOp (t : Tid) (s : State) : State := wakePause t s

/-- BANDHOLD_EXPIRY (R201). -/
def bandHoldOp (t : Tid) (s : State) : State := modYoyo t (fun y => { y with hold := false }) s

/-- SPDREF is invalid: a transport that follows it pauses, at the latest when WL's descriptor in progress has ended (R203). -/
def refInvalid (t : Tid) (s : State) : State := refPause t (modYoyo t (fun y => { y with ref := [], refOk := false, refv := 0 }) s)

/-- SPDREF_PULSE (R203, R351): a rising edge, `period` MRCLK cycles after the last one counted. An edge less than 15 µs (6,000
cycles) after it is not counted and is logged; the log's code is the model's choice (log entry 35). -/
def refPulseOp (t : Tid) (period : Nat) (s : State) : State :=
  let y := (tpOf s t).yoyo
  let l := (period :: y.ref).take 8
  let sum := l.foldl (· + ·) 0
  -- f_ref below 11 kHz: n periods of 400 MHz cycles
  if period < 6000 then logFault (unitId 7 t.val) 0 0 0 0 s
  else if l.length < 8 then
    (if 400000000 < 11000 * period then refInvalid t s else modYoyo t (fun y => { y with ref := l }) s)
  else if 3200000000 < 11000 * sum then refInvalid t s
  else modYoyo t (fun y => { y with ref := l, refOk := true, refv := min 65535 (openQuot 640000000 sum) }) s

/-- SPDREF_INVALID (R203): no pulse for 2 ms. -/
def refInvalidOp (t : Tid) (s : State) : State := refInvalid t s

/-! ### Commands of MC_TCTL (R230, R233, R361) -/

/-- Tension on (R361). -/
def tensionOn (t : Tid) (s : State) : State :=
  if (tpOf s t).mot.st = .released then modMot t (fun m => { m with st := .tensioned, tensOn := true, setv := 0 }) s
  else logIgnored (unitId 7 t.val) 3 s

/-- Tension off (R361). -/
def tensionOff (t : Tid) (s : State) : State :=
  let m := (tpOf s t).mot
  if m.still ∧ m.st = .tensioned then
    modMot t (fun m => { m with st := .released, tensOn := false, armed := none, armGo := false, armMiss := 0 }) s
  else if m.still ∧ m.st = .faulted then modMot t (fun m => { m with tensOn := false }) s
  else logIgnored (unitId 7 t.val) 4 s

/-- MC_CLEAR: the reel links drive again (R232, R233). -/
def mcClearOp (t : Tid) (s : State) : State :=
  resendFrame false (4 * t.val) (resendFrame false (4 * t.val + 1) (clearTransport t s))

/-- ACTUATOR_HEARTBEAT (R349): the last frame again. In PS3 the links make no transitions (R340). -/
def heartbeatOp (l : Nat) (s : State) : State := if s.hif.ps = 3 then s else resendFrame true l s

/-- MC_RC.CLR (R221): reads 1 until done. -/
def rcClrOp (t : Tid) (r : Nat) (s : State) : State := raiseFld (Reg.mcRc t r) Fld.mcRcClr s

/-- RC_BIN_CLEAR_DONE. -/
def binClearDoneOp (t : Tid) (r : Nat) (s : State) : State :=
  if fld s (Reg.mcRc t r) Fld.mcRcClr = 1 then setFld (Reg.mcRc t r) Fld.mcRcClr 0 (modMot t (binClear r) s) else s

/-- INJECTION_END (R235): a chirp, a sine with a duration, or a PRBS after its 32,767 bits. -/
def injectionEndOp (s : State) : State :=
  let wave := fld s Reg.mcInj Fld.mcInjWave
  let over_ := match wave with
    | 1 => decide (fld s Reg.mcInjdur Fld.mcInjdurDur ≠ 0)
    | 2 => true
    | 3 => decide (32767 ≤ s.mrn.inj.bits)
    | _ => true
  if s.mrn.inj.active ∧ over_ = true then { s with mrn := { s.mrn with inj := { s.mrn.inj with active := false } } } else s

end Sys2Proof.Machine
end

