-- ==== Sys2Proof/Machine/RegRead.lean ====
section
/-! DEFINITION. What a register reads as (R7, R10): the stored word, with every field that shows another part of the state
computed from it; and the windows that show memories (R58, R124, R157, R239). -/
namespace Sys2Proof.Machine

/-- A word with fields replaced. -/
def withFlds (v : W32) (l : List (Fld × Nat)) : W32 := BitVec.ofNat 32 (l.foldl (fun a p => putField a p.1.lo p.1.w p.2) v.toNat)

/-- Word w (0 = lower) of a 64-bit quantity in two registers (R9). -/
def halfOf (v w : Nat) : W32 := BitVec.ofNat 32 (v / 2 ^ (32 * w))

/-! ### Global block -/

/-- GLB_CLKSTAT: the domains that run (R28, R279): the core and chiplet clocks once start-up has left its first step, less
what the power state stops. That HBCLK stops while HBM is in self-refresh (PS2) is the model's choice (log entry 35). -/
def clkStat (s : State) : List (Fld × Nat) :=
  let core : Bool := decide (2 ≤ s.boot) && s.hif.ps != 3
  let rc : Bool := decide (4 ≤ s.boot ∧ s.hif.ps < 2)
  let two (b : Bool) : Nat := if b then 3 else 0
  let stackRow := if s.hbmStacks = 1 then 3 else 15
  let ports := ((List.range 2).filter (fun p => !s.hif.perst.contains p)).foldl (fun a p => a + 2 ^ p) 0
  let wb := (allT.filter (fun t => decide ((tpOf s t).wl.freq ≠ 0))).foldl (fun a t => a + 2 ^ t.val) 0
  [(Fld.glbClkstatCclkRun, core.toNat), (Fld.glbClkstatZclkRun, (core && s.hif.ps == 0).toNat), (Fld.glbClkstatPpclkRun, core.toNat),
   (Fld.glbClkstatMrclkRun, core.toNat), (Fld.glbClkstatHbclkRun, if 3 ≤ s.boot ∧ s.hif.ps < 2 then stackRow else 0),
   (Fld.glbClkstatPeclkRun, if core then ports else 0), (Fld.glbClkstatWbclkRun, if core then wb else 0),
   (Fld.glbClkstatRcclkRun, two rc), (Fld.glbClkstatAdclkRun, two rc), (Fld.glbClkstatFlclkRun, core.toNat),
   (Fld.glbClkstatMeclkRun, core.toNat)]

/-- Registers of the global block. -/
def readGlobal (s : State) (off : Nat) (v : W32) : W32 :=
  if off = Reg.glbId then withFlds v [(Fld.glbIdPart, 0x8512), (Fld.glbIdFdieStep, s.fstep.toNat), (Fld.glbIdRcStep, s.rstep.toNat)]
  else if off = Reg.glbCfg then withFlds v [(Fld.glbCfgHbmStacks, s.hbmStacks), (Fld.glbCfgCcMode, s.ccMode.toNat)]
  else if off = Reg.glbClkstat then withFlds v (clkStat s)
  else if off = Reg.glbRst then withFlds v [(Fld.glbRstWarm, 0), (Fld.glbRstCause, s.rstCause)]
  else v

/-! ### Transport blocks -/

/-- TS_STAT.STATE. -/
def seqStateNo : SeqState → Nat
  | .empty => 0
  | .loaded => 1
  | .running => 2
  | .waiting => 3
  | .halted => 4
  | .failed => 5

/-- WL_STAT.STATE (R94, R96). -/
def wlState (s : State) (t : Tid) : Nat :=
  let x := tpOf s t
  if x.wl.faulted then 6
  else
    match x.wl.cur with
    | some c => if c.op = 1 then 1 else if c.op = 3 then 2 else 3
    | none =>
      if (portHead x.wlP).isSome ∧ (!x.wl.locked ∨ x.yoyo.pause ≠ 0) then 5
      else if (portHead x.wlP).isSome ∧ rcMode s t.val ≠ 1 then 7
      else if x.wl.gap then 4
      else 0

/-- Verify events of a lane within the last T extents (VFY_LANE.EVENTS, R115). -/
def laneEvents (s : State) (t : Tid) (k : Nat) : Nat :=
  let v := (tpOf s t).vfy
  ((v.lanes.get Lane.reset k).events.filter (fun e => decide (v.extNo < e + fld s (Reg.vfyLfcfg t) Fld.vfyLfcfgT))).length

/-- Free rewrite slots in the extent whose directory is next to be fixed (RWQ_STAT.FREE). -/
def rwFree (x : Tp) : Nat :=
  match x.wl.exts.find? (fun e => !e.isMark && !e.fixed) with
  | none => 0
  | some e => min 255 (maskCount e.mask * (e.nres - 1) - e.rw.length)

/-- Registers of transport t's block; o is the offset in the block. -/
def readTransport (s : State) (t : Tid) (off : Nat) (v : W32) : W32 :=
  let x := tpOf s t
  let q := x.seq
  let n := t.val
  if off = Reg.tsStat n then
    withFlds v [(Fld.tsStatState, seqStateNo q.st), (Fld.tsStatExl, q.exl.toNat), (Fld.tsStatHaltp, q.haltp.toNat), (Fld.tsStatCpend, levelEvents x)]
  else if off = Reg.tsPc n then withFlds v [(Fld.tsPcPc, q.pc.toNat)]
  else if off = Reg.tsExc n then withFlds v [(Fld.tsExcEcause, q.ecause.toNat), (Fld.tsExcEpc, q.epc.toNat)]
  else if off = Reg.tsEval n 0 then halfOf q.eval.toNat 0
  else if off = Reg.tsEval n 1 then halfOf q.eval.toNat 1
  else if off = Reg.tsEvp n 0 then halfOf (evp x).toNat 0
  else if off = Reg.tsEvp n 1 then halfOf (evp x).toNat 1
  else if off = Reg.tsEvpost n then withFlds v [(Fld.tsEvpostPp, fieldB q.latched 24 8)]
  else if off = Reg.tsImg n then withFlds v [(Fld.tsImgFmtid, q.fmtid.toNat), (Fld.tsImgVersion, q.version.toNat)]
  else if off = Reg.wlStat n then
    withFlds v [(Fld.wlStatState, wlState s t), (Fld.wlStatLocked, x.wl.locked.toNat), (Fld.wlStatQdepth, (portOpen x.wlP).length)]
  else if off = Reg.wlFreq n then BitVec.ofNat 32 (freqNow s t)
  else if Reg.vfyLane n 0 ≤ off ∧ off < Reg.vfyLane n 64 then
    let k := (off - Reg.vfyLane n 0) / 4
    let l := x.vfy.lanes.get Lane.reset k
    withFlds v [(Fld.vfyLaneEvents, min 15 (laneEvents s t k)), (Fld.vfyLaneSuspect, (suspect s t k).toNat),
      (Fld.vfyLaneFailed, (bitOf x.vfy.failmask.toNat k).toNat), (Fld.vfyLaneCause, l.cause), (Fld.vfyLaneLastfails, l.lastFails)]
  else if off = Reg.rwqStat n then withFlds v [(Fld.rwqStatPending, min 65535 x.vfy.rwq.length), (Fld.rwqStatFree, rwFree x)]
  else v

/-! ### Chiplets -/

/-- Registers of the chiplets: lane status and the lanes an engine serves. -/
def readChiplet (s : State) (off : Nat) (v : W32) : W32 :=
  let c := (off - 0x1000000) / 0x400000
  let o := (off - 0x1000000) % 0x400000
  if o < 0x200000 then
    let t := tid (4 * c + o / 0x80000)
    if 0x100 ≤ o % 0x80000 ∧ o % 0x80000 < 0x200 then
      let k := (o % 0x80000 - 0x100) / 4
      let l := getLane s (64 * t.val + k)
      withFlds v [(Fld.rcLstatFramed, l.framed.toNat), (Fld.rcLstatZone, l.zone), (Fld.rcLstatBand, l.band), (Fld.rcLstatPage, l.page),
        (Fld.rcLstatEngine, laneEngine s (64 * t.val + k))]
    else v
  else if 0x200100 ≤ o ∧ o < 0x200180 then withFlds v [(Fld.rcEngNlanes, (engLanes s (32 * c + (o - 0x200100) / 4)).length)]
  else v

/-! ### Codec and Toybox -/

/-- Registers of the codec block. -/
def readCodec (s : State) (off : Nat) (v : W32) : W32 :=
  if Reg.codecEng 0 ≤ off ∧ off < Reg.codecEng 64 then
    let e := (off - Reg.codecEng 0) / 4
    let x := engOf s e
    withFlds v [(Fld.codecEngRetired, s.codec.retired.get 0 e), (Fld.codecEngBusy, x.job.isSome.toNat),
      (Fld.codecEngAffine, (x.job.isSome && x.aff).toNat), (Fld.codecEngScid, x.last.toNat)]
  else v

/-- Registers of Toybox. -/
def readToybox (s : State) (off : Nat) (v : W32) : W32 :=
  if Reg.tbxQuota 0 ≤ off ∧ off < Reg.tbxQuota 8 then
    withFlds v [(Fld.tbxQuotaHeld, min 65535 (heldClass3 s (4 + (off - Reg.tbxQuota 0) / 4)))]
  else if Reg.tbxFree 0 ≤ off ∧ off < Reg.tbxFree 4 then withFlds v [(Fld.tbxFreeFree, freeCount s ((off - Reg.tbxFree 0) / 4))]
  else if Reg.tbxFbcnt 0 ≤ off ∧ off < Reg.tbxFbcnt 4 then
    withFlds v [(Fld.tbxFbcntWaiters, min 255 (waitList s.tbx ((off - Reg.tbxFbcnt 0) / 4)).length)]
  else if Reg.tbxInsp 0 ≤ off ∧ off < Reg.tbxInsp 4 then halfOf s.tbx.insp.toNat ((off - Reg.tbxInsp 0) / 4)
  else v

/-- YY_STAT.MODE (R198-R203). -/
def yyMode (s : State) (t : Tid) : Nat :=
  let y := (tpOf s t).yoyo
  if y.pause ≠ 0 then 5
  else if !y.on then 0
  else
    match y.sel with
    | 0 => if rcMode s t.val = 2 then 2 else 1
    | 1 => 3
    | _ => 4

/-- Registers of Yo-yo. -/
def readYoyo (s : State) (t : Tid) (off : Nat) (v : W32) : W32 :=
  let y := (tpOf s t).yoyo
  let n := t.val
  if off = Reg.yyFill n then BitVec.ofNat 32 (openQuot (fillBytes s t) 65536)
  else if off = Reg.yyStat n then
    withFlds v [(Fld.yyStatOut, openQuot y.out 10), (Fld.yyStatMode, yyMode s t), (Fld.yyStatCapped, y.capped.toNat), (Fld.yyStatHold, y.hold.toNat)]
  else if off = Reg.yySpd n then withFlds v [(Fld.yySpdRefv, if y.refOk then y.refv else 0)]
  else v

/-! ### Marionette -/

/-- MC_TSTAT.STATE. -/
def motStateNo : MotState → Nat
  | .released => 0
  | .tensioned => 1
  | .running => 2
  | .locating => 3
  | .turning => 4
  | .stopping => 5
  | .faulted => 6

/-- Registers of one transport in Marionette. -/
def readMotion (s : State) (t : Tid) (off : Nat) (v : W32) : W32 :=
  let m := (tpOf s t).mot
  let n := t.val
  if off = Reg.mcTstat n then
    withFlds v [(Fld.mcTstatState, motStateNo m.st), (Fld.mcTstatArmed, m.armed.isSome.toNat), (Fld.mcTstatBand, m.band),
      (Fld.mcTstatVsrc, m.vsrc.toNat), (Fld.mcTstatCause, m.cause), (Fld.mcTstatCloop, m.cloop)]
  else if off = Reg.mcVel n then BitVec.ofInt 32 m.vtape
  else if off = Reg.mcRc n 0 then withFlds v [(Fld.mcRcBin, angleBin s t 0)]
  else if off = Reg.mcRc n 1 then withFlds v [(Fld.mcRcBin, angleBin s t 1)]
  else v

/-- Registers of loop l. -/
def readLoop (s : State) (l : Nat) (off : Nat) (v : W32) : W32 :=
  let p := getLoop s l
  let t := l / 4
  let n := l % 4
  if off = Reg.mcLctl t n then if n = 2 then v else withFlds v [(Fld.mcLctlBandsw, 0)]
  else if off = Reg.mcLstat t n then
    withFlds v [(Fld.mcLstatActive, p.bank.toNat), (Fld.mcLstatFault, (p.mode == .fault).toNat), (Fld.mcLstatIsat, p.isat.toNat),
      (Fld.mcLstatAwh, p.awh.toNat), (Fld.mcLstatAwdir, p.awdir.toNat), (Fld.mcLstatSatf, p.satf.toNat),
      (Fld.mcLstatCmdsat, p.cmdsat.toNat), (Fld.mcLstatLastcyc, min 65535 p.lastcyc)]
  else if off = Reg.mcCmdv t n then p.cmdv
  else if off = Reg.mcFet t n then withFlds v [(Fld.mcFetFetmr, min 65535 (p.feTime / 640000))]
  else if off = Reg.mcOvcnt t n then withFlds v [(Fld.mcOvcntConsec, min 2 p.consec)]
  else v

/-- Registers of the Marionette block. -/
def readMarionette (s : State) (off : Nat) (v : W32) : W32 :=
  if off = Reg.mcGstat then withFlds v [(Fld.mcGstatUtil, s.mrn.util), (Fld.mcGstatFmtid, s.mrn.fmtid.toNat)]
  else if off = Reg.mcInj then withFlds v [(Fld.mcInjActive, s.mrn.inj.active.toNat)]
  else if off = Reg.mcCapcnt then withFlds v [(Fld.mcCapcntCount, s.mrn.capCount)]
  else if 0x1801000 ≤ off ∧ off < 0x1801800 then readMotion s (tid ((off - 0x1801000) / 0x100)) off v
  else if 0x1804000 ≤ off ∧ off < 0x1804800 then readLoop s ((off - 0x1804000) / 0x40) off v
  else v

/-! ### Host interface -/

/-- Endpoints present as a mask (HIF_STAT.EPS). -/
def epMask (s : State) : Nat := ((List.range 4).filter (endpointPresent s)).foldl (fun a e => a + 2 ^ e) 0

/-- Whether a queue has commands outstanding: fetched, and their completion not written (R244). -/
def outstanding (s : State) (n : Nat) : Bool := s.hif.cmds.any (fun c => c.queue == n) || (queueOf s n).ready.any (fun c => c.own)

/-- Registers of the host interface. -/
def readHost (s : State) (off : Nat) (v : W32) : W32 :=
  if off = Reg.hifStat then
    withFlds v [(Fld.hifStatPs, s.hif.ps), (Fld.hifStatPsbusy, s.hif.entering.isSome.toNat), (Fld.hifStatSelftest, s.hif.test.isSome.toNat),
      (Fld.hifStatEps, epMask s)]
  else if off = Reg.hifNotice then withFlds v [(Fld.hifNoticePending, min 64 s.hif.notices.length)]
  else if Reg.hifSqbase 0 0 ≤ off ∧ off < Reg.hifSqbase 1024 0 then
    let n := (off - Reg.hifSqbase 0 0) / 32
    let q := queueOf s n
    if off = Reg.hifQstat n then
      withFlds v [(Fld.hifQstatActive, (queueEn s n || outstanding s n).toNat), (Fld.hifQstatNeg, q.neg.toNat), (Fld.hifQstatVer, q.ver),
        (Fld.hifQstatSqhead, q.head)]
    else v
  else v

/-- Registers of the mailbox (R283). -/
def readMailbox (s : State) (off : Nat) (v : W32) : W32 :=
  if off = Reg.mbxCtl then withFlds v [(Fld.mbxCtlGo, 0), (Fld.mbxCtlBusy, s.hif.mbxBusy.toNat)]
  else if Reg.mbxData 0 ≤ off ∧ off < Reg.mbxData 1024 then BitVec.ofNat 32 (memLe s.hif.mbxData (off - Reg.mbxData 0) 4)
  else v

/-! ### Memory, cache, power, faults, telemetry -/

/-- Registers of the context cache. -/
def readCache (s : State) (off : Nat) (v : W32) : W32 :=
  let c := s.cache
  if off = Reg.ccCtrl then withFlds v [(Fld.ccCtrlEn, c.enabled.toNat), (Fld.ccCtrlInitdone, c.initDone.toNat)]
  else if off = Reg.ccWays then withFlds v [(Fld.ccWaysPwr, if s.ccMode then c.pwr.toNat else 0xFFFF), (Fld.ccWaysRet, c.ret.toNat)]
  else if off = Reg.ccSp then withFlds v [(Fld.ccSpSpways, c.sp.toNat), (Fld.ccSpSpready, c.spReady.toNat)]
  else if off = Reg.ccRngcmd then withFlds v [(Fld.ccRngcmdBusy, c.rngBusy.toNat)]
  else if off = Reg.ccHits 0 then halfOf c.hits 0
  else if off = Reg.ccHits 1 then halfOf c.hits 1
  else if off = Reg.ccMisses 0 then halfOf c.misses 0
  else if off = Reg.ccMisses 1 then halfOf c.misses 1
  else if off = Reg.ccWbacks 0 then halfOf c.wbacks 0
  else if off = Reg.ccWbacks 1 then halfOf c.wbacks 1
  else v

/-- Registers of memory ECC. -/
def readMem (s : State) (off : Nat) (v : W32) : W32 :=
  let m := s.mem
  if off = Reg.memHome then withFlds v [(Fld.memHomeHome, m.home), (Fld.memHomeMirror, m.mirror), (Fld.memHomeMirrored, m.mirrored.toNat)]
  else if off = Reg.scrPos 0 then halfOf m.scrPos 0
  else if off = Reg.scrPos 1 then halfOf m.scrPos 1
  else if off = Reg.memFlipsel then withFlds v [(Fld.memFlipselArm, m.flipArm.toNat)]
  else v

/-- D_t in 64 KiB units, rounded up (WU_DEBIT). -/
def debitUnits (s : State) (t : Nat) : Nat := min (2 ^ 24 - 1) (ceilDiv (s.pwr.debit.get 0 t) 65536)

/-- Registers of power supervision. -/
def readPower (s : State) (off : Nat) (v : W32) : W32 :=
  let p := s.pwr
  if off = Reg.pwrStat then withFlds v [(Fld.pwrStatVin, tenMv p.vin), (Fld.pwrStatVhu, tenMv p.vhu)]
  else if off = Reg.wuMeas then withFlds v [(Fld.wuMeasBusy, p.huTest.toNat), (Fld.wuMeasStart, 0)]
  else if Reg.wuGrant 0 ≤ off ∧ off < Reg.wuGrant 8 then withFlds v [(Fld.wuGrantGrant, min (2 ^ 24 - 1) (p.grant.get 0 ((off - Reg.wuGrant 0) / 4) / 65536))]
  else if Reg.wuDebit 0 ≤ off ∧ off < Reg.wuDebit 8 then withFlds v [(Fld.wuDebitDebit, debitUnits s ((off - Reg.wuDebit 0) / 4))]
  else if off = Reg.pwrTherm then
    withFlds v [(Fld.pwrThermTemp, patternOf 16 p.temp), (Fld.pwrThermThrottled, p.therm.toNat), (Fld.pwrThermTrip, p.trip.toNat)]
  else v

/-! ### The counters of the device (R331, R333) -/

/-- The offsets of a row of the register table. -/
def rowOffs (base : Nat) : List (Nat × Nat) → List Nat
  | [] => [base]
  | (c, d) :: r => (List.range c).flatMap (fun i => rowOffs (base + i * d) r)

/-- The RC fields of a row, at each of its offsets: offset, lowest bit, width. -/
def rowCounters (r : RRow) : List (Nat × Nat × Nat) :=
  (rowOffs r.base r.dims).flatMap (fun o => (r.fields.filter (fun f => f.acc = .rc)).map (fun f => (o, f.lo, f.w)))

/-- Counters that a read does not clear; those of 64 bits stand at their lower register (R331). -/
def wideCounters : List (Nat × Nat × Nat) :=
  allT.flatMap (fun t => [(Reg.vfyCwpass t.val 0, 0, 64), (Reg.vfyCwfail t.val 0, 0, 64)])
    ++ [(Reg.czNstored 0, 0, 64), (Reg.czNstatic 0, 0, 64), (Reg.czNdyn 0, 0, 64), (Reg.czBin 0, 0, 64), (Reg.czBout 0, 0, 64),
      (Reg.ccHits 0, 0, 64), (Reg.ccMisses 0, 0, 64), (Reg.ccWbacks 0, 0, 64), (Reg.scrStat, 0, 16)]

/-- Every counter of the device, in the order of the snapshot (log entry 27). -/
def counterList : List (Nat × Nat × Nat) := regRows.flatMap rowCounters ++ wideCounters

/-- Registers of the fault log and telemetry block. -/
def readFault (s : State) (off : Nat) (v : W32) : W32 :=
  if off = Reg.fltStat then withFlds v [(Fld.fltStatHealth, health s), (Fld.fltStatNret, min 65535 s.flt.retired.length)]
  else if off = Reg.telCtrl then withFlds v [(Fld.telCtrlFreeze, 0), (Fld.telCtrlDone, s.tel.done.toNat), (Fld.telCtrlGen, s.tel.gen.toNat)]
  else if off = Reg.telStat then withFlds v [(Fld.telStatNcnt, counterList.length)]
  else v

/-- What the register at an offset shows; a read's own effects (R9, R10) come on top. -/
def regVal (s : State) (off : Nat) : W32 :=
  let v := reg s off
  if off < 0x100000 then readGlobal s off v
  else if off < 0x400000 then readHost s off v
  else if off < 0x410000 then readToybox s off v
  else if off < 0x600000 then readYoyo s (tid ((off - 0x410000) / 0x100)) off v
  else if off < 0x800000 then readCodec s off v
  else if off < 0x1000000 then readTransport s (tid ((off - 0x800000) / 0x100000)) off v
  else if off < 0x1800000 then readChiplet s off v
  else if off < 0x1A00000 then readMarionette s off v
  else if off < 0x1B00000 then readCache s off v
  else if off < 0x1C00000 then readMem s off v
  else if off < 0x1D00000 then readPower s off v
  else if off < 0x1E00000 then readFault s off v
  else readMailbox s off v

/-! ### Windows on memories -/

/-- A 32-bit word of a wider table: word o div 4 of entries of n words. -/
def tableWord (f : Nat → Nat) (o n : Nat) : W32 := halfOf (f (o / (4 * n))) (o % (4 * n) / 4)

/-- R58: registers, code and data of a sequencer. -/
def readSeqWindow (q : Seq) (o : Nat) : Option W32 :=
  if 0x1000 ≤ o ∧ o < 0x1100 then some (tableWord (fun i => if i = 0 then 0 else (q.g.get 0 i).toNat) (o - 0x1000) 2)
  else if 0x1100 ≤ o ∧ o < 0x1200 then some (tableWord (fun i => (q.d.get 0 i).toNat) (o - 0x1100) 8)
  else if 0x20000 ≤ o ∧ o < 0x30000 then some (BitVec.ofNat 32 (memLe q.code (o - 0x20000) 4))
  else if 0x30000 ≤ o ∧ o < 0x40000 then some (BitVec.ofNat 32 (memLe q.data (o - 0x30000) 4))
  else none

/-- The zone table, the presets and the latest calibration results (R124, R157, RC_CALRES). -/
def readRcWindow (r : RcT) (o : Nat) : Option W32 :=
  if 0x2000 ≤ o ∧ o < 0x3000 then some (BitVec.ofNat 32 (memLe r.calres (o - 0x2000) 4))
  else if 0x40000 ≤ o ∧ o < 0x50000 then some (r.zones.get 0 ((o - 0x40000) / 4))
  else if 0x50000 ≤ o ∧ o < 0x50800 then some (BitVec.ofNat 32 (memLe r.presets (o - 0x50000) 4))
  else none

/-- The tables of Marionette (R239); o from the start of its block. -/
def readMcWindow (s : State) (o : Nat) : Option W32 :=
  if 0x10000 ≤ o ∧ o < 0x18000 then
    let i := (o - 0x10000) / 8
    let p := getLoop s (i / 128)
    some (halfOf ((if i / 64 % 2 = 0 then p.coefA else p.coefB).get 0 (i % 64)).toNat (o / 4 % 2))
  else if 0x20000 ≤ o ∧ o < 0x24000 then
    let i := (o - 0x20000) / 8
    some (halfOf ((tpOf s (tid (i / 256))).mot.bandStore.get 0 (i % 256)).toNat (o / 4 % 2))
  else if 0x30000 ≤ o ∧ o < 0x32000 then
    let i := (o - 0x30000) / 4
    some ((getLoop s (i / 64)).words.get 0 (i % 64))
  else if 0x40000 ≤ o ∧ o < 0x50000 then
    let i := (o - 0x40000) / 4
    let m := (tpOf s (tid (i / 2048))).mot
    some ((if i / 1024 % 2 = 0 then m.binsA else m.binsB).get 0 (i % 1024))
  else if 0x60000 ≤ o ∧ o < 0x64000 then
    let i := (o - 0x60000) / 4
    some (BitVec.setWidth 32 ((tpOf s (tid (i / 512))).mot.wraps.get 0 (i % 512)))
  else if 0x80000 ≤ o ∧ o < 0xC0000 then some (tableWord (fun j => (s.mrn.capRecs.get 0 j).toNat) (o - 0x80000) 4)
  else if 0x100000 ≤ o ∧ o < 0x108000 then some (BitVec.ofNat 32 (memLe s.mrn.code (o - 0x100000) 4))
  else none

/-- A word of a window on a memory, where the offset lies in one. -/
def windowVal (s : State) (off : Nat) : Option W32 :=
  if 0x800000 ≤ off ∧ off < 0x1000000 then readSeqWindow (tpOf s (tid ((off - 0x800000) / 0x100000))).seq (off % 0x100000)
  else if 0x1000000 ≤ off ∧ off < 0x1800000 then
    let o := (off - 0x1000000) % 0x400000
    if o < 0x200000 then readRcWindow (tpOf s (tid (4 * ((off - 0x1000000) / 0x400000) + o / 0x80000))).rc (o % 0x80000) else none
  else if 0x1800000 ≤ off ∧ off < 0x1A00000 then readMcWindow s (off - 0x1800000)
  else none

end Sys2Proof.Machine
end

