-- ==== Sys2Proof/Machine/HostSettle.lean ====
section
/-! DEFINITION. How host stream commands take their turn and end (R252, R255-R266): activation in stream order, discards,
deliveries, the completion conditions of WRITE_RECORDS, FLUSH, COMMIT and CLOSE_STREAM, and settleHost, which every row that can
bring one of them about calls at its end. -/
namespace Sys2Proof.Machine

/-! ### Fields of an entry and order within a stream (R246, R253, R261) -/

/-- A byte of the command-specific fields. -/
def csByte (e : Entry) (o : Nat) : Nat := csField e o 1

/-- Opcodes 0x11 to 0x16 name one stream that is open. -/
def onStream (e : Entry) : Bool := decide (0x11 ≤ e.opc.toNat ∧ e.opc.toNat ≤ 0x16)

/-- REPLACE of a WRITE_RECORDS; INDEX of a COMMIT. -/
def csBit0 (e : Entry) : Bool := bitOf (csByte e 0x18) 0

/-- Outstanding commands of one stream, in fetch order. -/
def cmdsOf (s : State) (scid : BitVec 16) : List Cmd := s.hif.cmds.filter (fun c => onStream c.e && c.e.scid == scid)

/-- Those fetched before a command. -/
def earlierOf (s : State) (c : Cmd) : List Cmd := (cmdsOf s c.e.scid).takeWhile (fun k => k.e.tag != c.e.tag)

/-- A command lets the next one of its stream begin: a WRITE_RECORDS once its data has been received, FLUSH and COMMIT once
they wait (R256, R261, log entry 26). -/
def passed (x : Stream) (c : Cmd) : Bool :=
  c.active && (if c.e.opc = 0x12 then (cmdRecs x c).all (fun r => recGot r || r.unver) else c.e.opc == 0x14 || c.e.opc == 0x15)

/-- It is the command's turn. -/
def hasTurn (s : State) (x : Stream) (c : Cmd) : Bool := (earlierOf s c).all (passed x)

/-- EHP version of the command's queue (R250, R251). -/
def cmdVer (s : State) (c : Cmd) : Nat := (queueOf s c.queue).ver

/-- A command uses scatter lists under a version without them (R251). -/
def sglDenied (s : State) (c : Cmd) : Bool := entrySgl c.e && decide (cmdVer s c < 2)

/-! ### Tables (R256, R262) -/

/-- The pieces of the command's table of 32-byte entries. -/
def tablePieces (s : State) (c : Cmd) : Option (List (Nat × Nat)) :=
  hostPieces s (entrySgl c.e) c.e.dptr.toNat (32 * c.e.count.toNat)

/-- Entries of 32 bytes. -/
def entries32 : Nat → List Byte → List (List Byte)
  | 0, _ => []
  | n + 1, l => l.take 32 :: entries32 n (l.drop 32)

/-- The records that a WRITE_RECORDS table describes, from a SEQ on; none where a LEN exceeds 2^40 - 1 or a record's scatter
list falls short (R246, R256). -/
def tableRecs (s : State) (c : Cmd) : W32 → List (List Byte) → Option (List Rec)
  | _, [] => some []
  | q, b :: l =>
    let a := leAt b 0 8
    let n := leAt b 8 8
    if n < 2 ^ 40 ∧ (hostPieces s (entrySgl c.e) a n).isSome = true then
      (tableRecs s c (q + 1) l).map (fun r =>
        { Rec.reset with seq := q, objid := BitVec.ofNat 128 (leAt b 16 16), addr := BitVec.ofNat 64 a, len := n, cmd := c.e.tag } :: r)
    else none

/-- The records of a WRITE_RECORDS command, from a SEQ on. -/
def newRecs (s : State) (c : Cmd) (from' : W32) : Option (List Rec) :=
  match tablePieces s c with
  | none => none
  | some ps => tableRecs s c from' (entries32 c.e.count.toNat (readPieces s.hostMem ps))

/-- Append the records of a WRITE_RECORDS, which becomes ACTIVE. -/
def appendRecs (c : Cmd) (l : List Rec) (s : State) : State :=
  let s := modCmd c.e.tag (fun k => { k with
    active := true, first := ((streamOf s c.e.scid.toNat).map (fun x => x.next)).getD 0
    wt := k.wt || (match streamOf s c.e.scid.toNat with
      | some x => s.pwr.grant.get 0 x.t == 0
      | none => false) }) s
  modStream c.e.scid.toNat (fun x => { x with recs := x.recs ++ l, next := x.next + BitVec.ofNat 32 l.length }) s

/-! ### Discarding records (R257, R271) -/

/-- Remove n bytes of a stream from the back of the arrivals. -/
def trimArrivals (scid : BitVec 16) : Nat → List (BitVec 16 × Nat) → List (BitVec 16 × Nat)
  | _, [] => []
  | n, (k, m) :: l =>
    if k ≠ scid then (k, m) :: trimArrivals scid n l
    else if m ≤ n then trimArrivals scid (n - m) l
    else (k, m - n) :: l

/-- A stream's job is given up without a trace: its record is discarded. -/
def dropJob (scid : BitVec 16) (s : State) : State :=
  forAll (List.range 64) (fun e s => match (engOf s e).job with
    | some j => if j.scid = scid ∧ j.entry.isNone then modEng e (fun x => { x with job := none }) s else s
    | none => s) s

/-- Discard the records of a stream from SEQ on (R257): buffers released, charges credited, segments out of the open dataset,
the record in progress and the history dropped where they are concerned; N becomes SEQ. -/
def discardFrom (scid : BitVec 16) (from' : W32) (s : State) : State :=
  match streamOf s scid.toNat with
  | none => s
  | some x =>
    let gone := x.recs.filter (fun r => decide (from'.toNat ≤ r.seq.toNat))
    let t := tid x.t
    let s := forAll gone releaseBufs s
    let s := forAll gone (fun r s => if r.acked then creditLedger x.t ((r.dss.map (fun d => d.2)).foldl (· + ·) 0) s else s) s
    let s := discardSegs t scid from' s
    let c := ctxOf s scid.toNat
    let s := if c.inrec ∧ from'.toNat ≤ c.seq.toNat then
        modCtx scid.toNat (fun c => { c with inrec := false, pend := 0, pcnt := 0 }) s else s
    let s := if gone.any (fun r => decide (0 < r.used)) then endHistory scid.toNat s else s
    let left := (gone.map (fun r => r.got - r.used)).foldl (· + ·) 0
    let s := modCodec (fun c => { c with
      arrivals := (trimArrivals scid left c.arrivals.reverse).reverse
      parked := c.parked.filter (fun k => k != scid)
      drains := c.drains.map (fun d => { d with scids := d.scids.map (fun p =>
        if p.1 = scid ∧ from'.toNat ≤ p.2.1.toNat then (scid, from', 0) else p) }) }) s
    let s := modTp t (fun y => { y with yoyo := { y.yoyo with hostBytes := y.yoyo.hostBytes - left } }) s
    let s := { s with hif := { s.hif with cmds := s.hif.cmds.map (fun c =>
      if c.e.scid = scid ∧ c.active = true ∧ from'.toNat < c.seqAt.toNat then { c with seqAt := from' } else c) } }
    modStream scid.toNat (fun x => { x with
      recs := x.recs.filter (fun r => decide (r.seq.toNat < from'.toNat)), next := from'
      unsealed := if from'.toNat < x.unsealed.toNat then from' else x.unsealed }) s

/-- REPLACE_DISCARD (R257): the assembler takes the discard once no job of the stream runs. -/
def replaceDiscard (scid : BitVec 16) (s : State) : State :=
  match streamOf s scid.toNat, (cmdsOf s scid).find? (fun c => !c.active) with
  | some x, some c =>
    let from' : W32 := BitVec.ofNat 32 (csField c.e 0x1C 4)
    if c.e.opc = 0x12 ∧ csBit0 c.e = true ∧ hasTurn s x c = true ∧ !ctxRunning s scid.toNat ∧ from'.toNat ≤ x.next.toNat then
      if from'.toNat < x.unsealed.toNat ∨ x.recs.any (fun r => r.sealed && decide (from'.toNat ≤ r.seq.toNat)) = true then
        endCmd c.e.tag hsSealed 0 0x1C s
      else
        match newRecs s c from' with
        | none => endCmd c.e.tag stRejected 0 0x08 s
        | some l => appendRecs c l (discardFrom scid from' s)
    else s
  | _, _ => s

/-! ### Delivery (R262-R264) -/

/-- Entry i of the command's table. -/
def tableEntry (s : State) (ps : List (Nat × Nat)) (i : Nat) : List Byte := readPieces s.hostMem (takePieces 32 (dropPieces (32 * i) ps))

/-- The device writes OLEN, SEQ and RSTAT of a table entry. -/
def putResult (ps : List (Nat × Nat)) (i olen : Nat) (q : W32) (st : BitVec 8) (s : State) : State :=
  writePieces (leBytes 8 olen ++ leBytes 4 q.toNat ++ [st]) (dropPieces (32 * i + 16) ps) s

/-- What delivering one record led to. -/
inductive Given where
  | ok (s : State)
  | short (s : State)
  | badList

/-- Deliver a record at table entry i: its data, then OLEN, SEQ and RSTAT; nothing is written of a record that does not fit
(R262, R263). -/
def giveRecord (c : Cmd) (ps : List (Nat × Nat)) (i : Nat) (q : W32) (bytes : List Byte) (s : State) : Given :=
  let b := tableEntry s ps i
  if leAt b 8 8 < bytes.length then .short (putResult ps i bytes.length q hsTooSmall s)
  else
    match hostPieces s (entrySgl c.e) (leAt b 0 8) bytes.length with
    | none => .badList
    | some w => .ok (putResult ps i bytes.length q stOk (writePieces bytes w s))

/-- End a READ_RECORDS with the records delivered so far. -/
def endRead (c : Cmd) (st : BitVec 8) (n off : Nat) (s : State) : State := endCmd c.e.tag st (BitVec.ofNat 64 n) off s

/-- A record of a write stream as its held buffers give it, and whether a buffer is poisoned. -/
def heldBytes (r : Rec) (s : State) : Bool × List Byte × State := readParts (bufParts 0 r.len 0 r.bufs) s

/-- READ_RECORDS on a write stream (R264): n entries are left, i is the next one. -/
def readHeld (c : Cmd) (ps : List (Nat × Nat)) : Nat → Nat → W32 → State → State
  | 0, i, _, s => endRead c stOk i 0xFFFF s
  | n + 1, i, q, s =>
    match ((streamOf s c.e.scid.toNat).bind (fun x => x.recs.find? (fun r => r.seq == q))) with
    | none => endRead c hsNotResident i 0x1C s
    | some r =>
      if r.sealed ∨ !recGot r then endRead c hsNotResident i 0x1C s
      else
        let h := heldBytes r s
        if h.1 then endRead c stPoisoned i 0xFFFF (putResult ps i r.len q stPoisoned h.2.2)
        else
          match giveRecord c ps i q h.2.1 h.2.2 with
          | .ok s => readHeld c ps n (i + 1) (q + 1) s
          | .short s => endRead c hsTooSmall i 0xFFFF s
          | .badList => endRead c stRejected i 0x08 s

/-- Whether a decoded record lies before the stream's position. -/
def beforePos (x : Stream) (d : Deliv) : Bool :=
  match x.pos with
  | none => false
  | some (ds, q) => !d.eod && decide (d.dsnum.toNat < ds.toNat ∨ (d.dsnum = ds ∧ d.seq.toNat < q.toNat))

/-- The first decoded record is used up: delivered, failed or passed over. -/
def dropFirst (scid : Nat) (d : Deliv) (move : Bool) (s : State) : State :=
  match streamOf s scid with
  | none => s
  | some x =>
    let s := dropDecoded (tid x.t) d.bytes.length s
    modStream scid (fun x => { x with dec := x.dec.drop 1, pos := if move then some (d.dsnum, d.seq + 1) else x.pos }) s

/-- The host bytes of a record that failed are undefined: free bytes over the space of its entry (R263). -/
def freeBytes (c : Cmd) (ps : List (Nat × Nat)) (i olen : Nat) (s : State) : State :=
  let b := tableEntry s ps i
  let n := min olen (leAt b 8 8)
  match hostPieces s (entrySgl c.e) (leAt b 0 8) n with
  | none => s
  | some w => let f := takeFree s
    writePieces (leBytes n f.1) w f.2

/-- READ_RECORDS on a read stream takes decoded records while there are any (R263). -/
def readDecoded (c : Cmd) (ps : List (Nat × Nat)) : List Deliv → Nat → State → State
  | [], i, s => modCmd c.e.tag (fun k => { k with done := i }) s
  | d :: l, i, s =>
    match streamOf s c.e.scid.toNat with
    | none => s
    | some x =>
      if beforePos x d then readDecoded c ps l i (dropFirst c.e.scid.toNat d false s)
      else if d.eod then endRead c hsEndOfData i 0xFFFF (writePieces [hsEndOfData] (dropPieces (32 * i + 28) ps) s)
      else if d.st ≠ stOk then
        endRead c d.st i 0xFFFF
          (dropFirst c.e.scid.toNat d true (putResult ps i d.olen d.seq d.st (freeBytes c ps i d.olen s)))
      else
        match giveRecord c ps i d.seq d.bytes s with
        | .short s => endRead c hsTooSmall i 0xFFFF s
        | .badList => endRead c stRejected i 0x08 s
        | .ok s =>
          let s := dropFirst c.e.scid.toNat d true s
          if i + 1 = c.e.count.toNat then endRead c stOk (i + 1) 0xFFFF s else readDecoded c ps l (i + 1) s

/-- An ACTIVE READ_RECORDS of a read stream goes on. -/
def readOn (c : Cmd) (s : State) : State :=
  match streamOf s c.e.scid.toNat, tablePieces s c with
  | some x, some ps => readDecoded c ps x.dec c.done s
  | _, _ => s

/-! ### A command's turn (R253-R266, steps 6 and 7 of R362) -/

/-- A WRITE_RECORDS has its turn; with REPLACE it waits for the assembler to take the discard. -/
def turnWrite (c : Cmd) (x : Stream) (s : State) : State :=
  let from' : W32 := BitVec.ofNat 32 (csField c.e 0x1C 4)
  if x.read then endCmd c.e.tag hsDirection 0 0xFFFF s
  else if writeDisabled s (tid x.t) then endCmd c.e.tag hsWriteDisabled 0 0xFFFF s
  else if csBit0 c.e ∧ x.next.toNat < from'.toNat then endCmd c.e.tag stRejected 0 0x1C s
  else if sglDenied s c ∨ (csBit0 c.e = true ∧ cmdVer s c = 0) then endCmd c.e.tag hsVersion 0 0xFFFF s
  else if csBit0 c.e then s
  else
    match newRecs s c x.next with
    | none => endCmd c.e.tag stRejected 0 0x08 s
    | some l => appendRecs c l s

/-- A READ_RECORDS has its turn. -/
def turnRead (c : Cmd) (x : Stream) (s : State) : State :=
  if x.read ∧ x.pos.isNone then endCmd c.e.tag hsNotLocated 0 0xFFFF s
  else if sglDenied s c then endCmd c.e.tag hsVersion 0 0xFFFF s
  else
    match tablePieces s c with
    | none => endCmd c.e.tag stRejected 0 0x08 s
    | some ps =>
      if x.read then readOn { c with active := true } (modCmd c.e.tag (fun k => { k with active := true }) s)
      else readHeld c ps c.e.count.toNat 0 (BitVec.ofNat 32 (csField c.e 0x1C 4)) s

/-- A FLUSH or COMMIT has its turn (R266): FLUSH point, HOSTSYNC. -/
def turnFlush (c : Cmd) (x : Stream) (s : State) : State :=
  if x.read then endCmd c.e.tag hsDirection 0 0xFFFF s
  else if sglDenied s c ∨ (c.e.opc = 0x15 ∧ csBit0 c.e = true ∧ cmdVer s c < 2) then endCmd c.e.tag hsVersion 0 0xFFFF s
  else
    let s := modCmd c.e.tag (fun k => { k with active := true, seqAt := x.next }) s
    wakePause (tid x.t) (setEvent (tid x.t) evHostsync (flushPoint c.e.scid c.e.tag x s))

/-- Whether every other write stream of a transport is closing. -/
def lastToClose (s : State) (scid t : Nat) : Bool := (writeStreams s t).all (fun y => y.1 == scid || y.2.closing)

/-- A stream begins to close (R255): a write stream makes a FLUSH point, a read stream gives up what it has decoded. -/
def beginClose (scid tag : BitVec 16) (x : Stream) (s : State) : State :=
  if x.read then
    let s := dropDecoded (tid x.t) ((x.dec.map (fun d => d.bytes.length)).foldl (· + ·) (ctxOf s scid.toNat).dBytes.length) s
    modStream scid.toNat (fun x => { x with closing := true, dec := [] }) s
  else
    let s := flushPoint scid tag x s
    modStream scid.toNat (fun y => { y with closing := true, mark := lastToClose s scid.toNat x.t }) s

/-- A CLOSE_STREAM has its turn. -/
def turnClose (c : Cmd) (x : Stream) (s : State) : State :=
  if sglDenied s c then endCmd c.e.tag hsVersion 0 0xFFFF s
  else beginClose c.e.scid c.e.tag x (modCmd c.e.tag (fun k => { k with active := true, seqAt := x.next }) s)

/-- The record that a LOCATE names (R265): an object, or the first FIRST segment of a dataset. -/
def locateGoalRec (s : State) (t : Tid) (e : Entry) : Option ObjEnt :=
  let known := (tpOf s t).idx.known
  if csByte e 0x18 = 0 then findObj known (BitVec.ofNat 128 (csField e 0x20 16))
  else
    let ds : W32 := BitVec.ofNat 32 (csField e 0x20 4)
    (known.filter (fun o => o.dsnum == ds)).foldl (fun a o => match a with
      | none => some o
      | some p => if o.off.toNat < p.off.toNat then some o else some p) none

/-- A LOCATE has its turn: Puppeteer issues MOT.LOCATE (R22, R265). -/
def turnLocate (c : Cmd) (x : Stream) (s : State) : State :=
  let t := tid x.t
  if !x.read then endCmd c.e.tag hsDirection 0 0xFFFF s
  else
    let o := locateGoalRec s t c.e
    match o, o.bind (fun o => (tpOf s t).idx.places.find? (fun p => p.dsnum == o.dsnum)) with
    | some o, some p =>
      if sglDenied s c ∨ (csByte c.e 0x18 = 1 ∧ cmdVer s c < 2) then endCmd c.e.tag hsVersion 0 0xFFFF s
      else
        let k : MotCur := { MotCur.reset with
          tag := some c.e.tag, op := 2, wrap := p.wrap.toNat, target := p.lpos, dsnum := o.dsnum, seq := o.seq, scid := o.scid }
        let s := modCmd c.e.tag (fun k => { k with active := true }) s
        let m := (tpOf s t).mot
        if m.st = .stopping ∨ m.st = .faulted then endHostLocate k stMotionFault s
        else nextPup t (modMot t (fun m => { m with pup := m.pup ++ [k] }) s)
    | _, _ => endCmd c.e.tag stNotFound 0 0x20 s

/-- A QUEUED stream command that has its turn begins (R252, R261). -/
def turnOf (tag : BitVec 16) (s : State) : State :=
  match cmdOf s tag with
  | none => s
  | some c =>
    if c.active ∨ !onStream c.e then s
    else
      match streamOf s c.e.scid.toNat with
      | none => endCmd tag hsNoStream 0 0x04 s
      | some x =>
        if !hasTurn s x c then s
        else
          match c.e.opc.toNat with
          | 0x11 => turnClose c x s
          | 0x12 => turnWrite c x s
          | 0x13 => turnRead c x s
          | 0x16 => turnLocate c x s
          | _ => turnFlush c x s

/-! ### Completion conditions -/

/-- A WRITE_RECORDS (R258, R259). -/
def doneWrite (c : Cmd) (x : Stream) (s : State) : State :=
  let l := cmdRecs x c
  if l.all (fun r => r.verified && r.indexed) ∧ (c.wt = true ∨ c.ready.isNone = true) then
    endCmd c.e.tag stOk (writeResult c.first l.length false) 0xFFFF s
  else if c.wt then s
  else if l.all (fun r => r.placed) then
    let charge := (l.map (fun r => r.charge)).foldl (· + ·) 0
    if s.pwr.grant.get 0 x.t < charge then modCmd c.e.tag (fun k => { k with wt := true, ready := none }) s
    else if c.ready.isNone then
      modCmd c.e.tag (fun k => { k with ready := some s.hif.order }) { s with hif := { s.hif with order := s.hif.order + 1 } }
    else s
  else s

/-- A FLUSH (R266). -/
def doneFlush (c : Cmd) (x : Stream) (s : State) : State :=
  if !(earlierOf s c).isEmpty then s
  else if sealedBefore x c.seqAt then endCmd c.e.tag stOk 0 0xFFFF s
  else if x.recs.any (fun r => r.unver && !r.sealed && decide (r.seq.toNat < c.seqAt.toNat)) then endCmd c.e.tag hsUnverified 0 0xFFFF s
  else s

/-- An index dataset still waits for its verification. -/
def indexWaits (x : Tp) : Bool := x.idx.frozen.isSome || x.vfy.ds.any (fun d => d.kind == 1 && !d.ok)

/-- A COMMIT (R266): with INDEX, PP1 goes out once its records are sealed, and the index it asks for must be verified too. -/
def doneCommit (c : Cmd) (x : Stream) (s : State) : State :=
  let y := tpOf s (tid x.t)
  if unverBefore x c.seqAt then
    if (earlierOf s c).isEmpty then endCmd c.e.tag hsUnverified 0 0xFFFF s else s
  else if csBit0 c.e ∧ c.posted = false then
    if sealedBefore x c.seqAt then
      setEvent (tid x.t) (evPp 1) (modCmd c.e.tag (fun k => { k with posted := true, gen0 := y.idx.gen.toNat }) s)
    else s
  else if (earlierOf s c).isEmpty ∧ verifiedBefore x c.seqAt = true
      ∧ (csBit0 c.e = false ∨ (y.idx.gen.toNat ≠ c.gen0 ∧ indexWaits y = false)) then
    endCmd c.e.tag stOk (BitVec.ofNat 64 y.vfy.lastOk.toNat) 0xFFFF s
  else s

/-- An ABORT that took effect ends once the completion of its target has been posted (R270). -/
def doneAbort (c : Cmd) (s : State) : State :=
  let k : BitVec 16 := BitVec.ofNat 16 (csField c.e 0x18 2)
  if s.hif.q.cells.any (fun x => x.2.ready.any (fun r => r.own && r.tag == k)) then s else endCmd c.e.tag stOk 0 0xFFFF s

/-- An ACTIVE command of a stream ends if its condition is met, or a READ goes on. -/
def doneOf (tag : BitVec 16) (s : State) : State :=
  match cmdOf s tag with
  | none => s
  | some c =>
    if c.active ∧ c.e.opc = 0x04 then doneAbort c s
    else if !c.active ∨ !onStream c.e then s
    else
      match streamOf s c.e.scid.toNat with
      | none => s
      | some x =>
        match c.e.opc.toNat with
        | 0x12 => doneWrite c x s
        | 0x13 => readOn c s
        | 0x14 => doneFlush c x s
        | 0x15 => doneCommit c x s
        | _ => s

/-! ### Closing (R255, R243) -/

/-- Every record of the stream is verified or has been reported unverified. -/
def allSettled (x : Stream) : Bool := x.recs.all (fun r => r.verified || r.unver)

/-- The end-of-data mark is no longer waited for: it has been verified since PP0, or the transport cannot write it any more. -/
def markSettled (s : State) (x : Stream) : Bool :=
  let y := tpOf s (tid x.t)
  (x.posted && y.wl.eodMarks != x.mark0) || writeDisabled s (tid x.t)
    || (x.posted && (y.seq.st == .halted || y.seq.st == .failed || y.seq.st == .empty) && y.seq.startPend.isNone)

/-- Everything of a stream goes: buffers, context, points, pending input; its SCID is free (R255). -/
def freeStream (scid : BitVec 16) (x : Stream) (s : State) : State :=
  let s := forAll x.recs releaseBufs s
  let s := dropJob scid (dropHistory scid.toNat s)
  let left := (x.recs.map (fun r => r.got - r.used)).foldl (· + ·) 0
  let s := modCodec (fun c => { c with
    ctx := c.ctx.set Ctx.reset scid.toNat Ctx.reset
    arrivals := c.arrivals.filter (fun a => a.1 != scid), parked := c.parked.filter (fun k => k != scid)
    drains := (c.drains.map (fun d => { d with scids := d.scids.filter (fun p => p.1 != scid) })).filter
      (fun d => !(d.ticket.isNone && d.scids.isEmpty)) }) s
  let s := modTp (tid x.t) (fun y => { y with
    yoyo := { y.yoyo with hostBytes := y.yoyo.hostBytes - (if x.read then 0 else left) }
    asm := if x.read then { y.asm with disarm := [] } else y.asm }) s
  setStream scid.toNat none s

/-- A closing stream has closed: CLOSE_STREAM ends OK, any later command of the SCID NO_STREAM. -/
def endClose (scid : BitVec 16) (x : Stream) (s : State) : State :=
  let l := cmdsOf s scid
  let s := freeStream scid x s
  forAll l (fun c s =>
    if c.e.opc = 0x11 ∧ c.active = true then endCmd c.e.tag stOk (BitVec.ofNat 64 x.next.toNat) 0xFFFF s
    else endCmd c.e.tag hsNoStream 0 0x04 s) s

/-- Nothing outstanding of the stream stands before its close. -/
def closeAlone (s : State) (scid : BitVec 16) : Bool :=
  match cmdsOf s scid with
  | [] => true
  | c :: _ => c.e.opc == 0x11 && c.active

/-- A closing stream moves on (R255). -/
def closeOn (k : Nat) (s : State) : State :=
  let scid : BitVec 16 := BitVec.ofNat 16 k
  match streamOf s k with
  | none => s
  | some x =>
    if !x.closing ∨ !closeAlone s scid then s
    else if x.read then (if ctxRunning s k then s else endClose scid x s)
    else if !allSettled x then s
    else if !x.mark ∨ markSettled s x = true then endClose scid x s
    else if x.posted then s
    else if (writeStreams s x.t).all (fun y => y.2.recs.all (fun r => r.sealed || r.unver)) then
      setEvent (tid x.t) (evPp 0) (modStream k (fun y => { y with posted := true, mark0 := (tpOf s (tid x.t)).wl.eodMarks }) s)
    else s

/-! ### Retirement, and the whole -/

/-- Records that nothing waits for any more leave the stream: verified and indexed, and their command has ended. -/
def retireRecs (k : Nat) (s : State) : State :=
  match streamOf s k with
  | none => s
  | some x =>
    let done (r : Rec) : Bool := r.sealed && r.verified && r.indexed
      && !s.hif.cmds.any (fun c => onStream c.e && c.e.opc == 0x12 && c.e.scid.toNat == k && c.active && c.e.tag == r.cmd && decide (c.first.toNat ≤ r.seq.toNat))
    if x.recs.any done then modStream k (fun x => { x with recs := x.recs.filter (fun r => !done r) }) s else s

/-- One pass over the outstanding commands and the streams. -/
def settlePass (s : State) : State :=
  let s := forAll (s.hif.cmds.map (fun c => c.e.tag)) (fun k s => doneOf k (turnOf k s)) s
  let s := forAll ((openStreams s).map (fun x => x.1)) closeOn s
  forAll ((openStreams s).map (fun x => x.1)) retireRecs s

/-- Repeat a step. -/
def times (f : State → State) : Nat → State → State
  | 0, s => s
  | n + 1, s => times f n (f s)

/-- Every stream command whose turn or end has come begins or ends; one pass more than there are commands and streams, so that
what one pass makes possible the next one does. -/
def settleHost (s : State) : State := times settlePass (s.hif.cmds.length + 1) s

/-- LEDGER_POST (R259): the oldest ready command of the transport is posted when its charge fits BUDGET. -/
def ledgerPostOp (t : Tid) (s : State) : State :=
  let mine := s.hif.cmds.filter (fun c => c.ready.isSome && !c.wt
    && (match streamOf s c.e.scid.toNat with
      | some x => x.t == t.val
      | none => false))
  match mine.foldl (fun a c => match a with
      | none => some c
      | some b => if c.ready.getD 0 < b.ready.getD 0 then some c else some b) none with
  | none => s
  | some c =>
    match streamOf s c.e.scid.toNat with
    | none => s
    | some x =>
      let l := cmdRecs x c
      let charge := (l.map (fun r => r.charge)).foldl (· + ·) 0
      if budget s t.val < charge then s
      else
        let left := (l.map (fun r => (r.dss.map (fun d => d.2)).foldl (· + ·) 0)).foldl (· + ·) 0
        let s := debitLedger t.val left s
        let s := modStream c.e.scid.toNat (fun x => { x with recs := x.recs.map (fun r =>
          if l.any (fun y => y.seq == r.seq) then { r with acked := true } else r) }) s
        endCmd c.e.tag stOk (writeResult c.first l.length true) 0xFFFF s

end Sys2Proof.Machine
end

