-- ==== Sys2Proof/Machine/Pages.lean ====
section
/-! DEFINITION. What the device tells the host in blocks of bytes: the IDENTIFY structure (R274), the log pages (R275, R315, R329,
R330, R331), and the log entry of a self-test. -/
namespace Sys2Proof.Machine

/-- The 32 bits of a register as 4 bytes. -/
def regBytes (s : State) (off : Nat) : List Byte := leBytes 4 (regVal s off).toNat

/-- Tracks of a transport that write; an offline one counts 0 (R330). -/
def liveTracks (s : State) (t : Tid) : Nat := if isOffline s t then 0 else maskCount (liveMask (tpOf s t))

/-- The user rate at top speed in MB/s for n live tracks (R83, R274; rounding open). -/
def userMBs (x : Tp) (n : Nat) : Nat :=
  let r := userRate n (topSpeed x)
  if n = 0 then 0 else openQuot r.1 (r.2 * 1000000)

/-- Engines of the codec in service: compression from 0, decompression from 32. -/
def liveCodec (s : State) (from' : Nat) : Nat := ((List.range 32).filter (fun e => s.codec.retired.get 0 (from' + e) == 0)).length

/-- Bit n of a flag byte. -/
def flagBit (b : Bool) (n : Nat) : Nat := if b then 2 ^ n else 0

/-- The 32 bytes of transport t in IDENTIFY (R274). -/
def identTransport (s : State) (t : Tid) : List Byte :=
  let x := tpOf s t
  let flags := flagBit (decide (x.head.kind ≠ 0)) 0 + flagBit (decide (x.head.kind = 2)) 1 + flagBit x.loaded 2 + flagBit x.formatted 3
    + flagBit (writeDisabled s t) 4
  let n := maskCount (liveMask x)
  padTo 32 (leBytes 1 flags ++ leBytes 1 n ++ leBytes 2 x.seq.fmtid.toNat ++ leBytes 4 (userMBs x n)
    ++ leBytes 8 (budget s t.val) ++ leBytes 8 x.vfy.failmask.toNat)

/-- The first queue of an endpoint and how many it owns (R241). -/
def ownedQueues (s : State) (ep : Nat) : Nat × Nat :=
  let split := if ep / 2 = 0 then s.bif0 else s.bif1
  if split then (256 * ep, 256) else (512 * (ep / 2), 512)

/-- IDENTIFY (R274). -/
def identBytes (s : State) (ep : Nat) : List Byte :=
  let head := regBytes s Reg.glbId ++ leBytes 1 (if s.hbmStacks = 1 then 2 else 4) ++ leBytes 1 (epMask s) ++ leBytes 2 7
    ++ leBytes 4 Config.firmwareVersion ++ leBytes 2 (ownedQueues s ep).1 ++ leBytes 2 (ownedQueues s ep).2
    ++ leBytes 4 5 ++ leBytes 4 2000 ++ leBytes 4 50000
  let cz := liveCodec s 0
  let dz := liveCodec s 32
  padTo 4096 (padTo 64 head ++ allT.flatMap (identTransport s)
    ++ leBytes 1 (liveEngines s 0) ++ leBytes 1 (liveEngines s 1) ++ leBytes 1 cz ++ leBytes 1 dz
    ++ leBytes 2 (fieldB (reg s Reg.tbxGrpret) 0 16) ++ zeros 2 ++ leBytes 4 (8000 * cz) ++ leBytes 4 (8000 * dz))

/-! ### Log pages (R275) -/

/-- A ring of n entries, given newest first, as it lies in memory; count = entries it has taken, size = bytes of an entry. -/
def ringBytes (n size count : Nat) (newest : List (List Byte)) : List Byte :=
  let l := newest.reverse
  let l := if l.length < n then l ++ List.replicate (n - l.length) (zeros size)
    else l.drop (n - count % n) ++ l.take (n - count % n)
  l.flatMap (fun b => b)

/-- A fault-log entry (R329). -/
def faultBytes (e : FltEnt) : List Byte :=
  leBytes 8 e.ms ++ leBytes 2 e.unit.toNat ++ leBytes 1 e.kind ++ leBytes 1 e.code ++ leBytes 2 e.win ++ zeros 2
    ++ leBytes 8 e.detail.toNat ++ zeros 8

/-- The health log (R330). -/
def healthPage (s : State) : List Byte :=
  let ret (c : Nat) : Nat := (s.flt.retired.filter (fun u => unitClass u == c)).length
  let writing := allT.filter (fun t => decide ((tpOf s t).head.kind ≠ 0) && !writeDisabled s t)
  padTo 256 (leBytes 4 0x4C544C48 ++ leBytes 4 s.flt.healthGen.toNat ++ leBytes 1 (health s) ++ zeros 3 ++ leBytes 4 s.flt.hours
    ++ leBytes 2 (patternOf 16 s.pwr.tmax) ++ zeros 14
    ++ (List.range 12).flatMap (fun c => leBytes 2 (ret c)) ++ allT.flatMap (fun t => leBytes 1 (liveTracks s t))
    ++ leBytes 1 ((allT.filter (writeDisabled s)).foldl (fun a t => a + 2 ^ t.val) 0) ++ zeros 1
    ++ leBytes 2 (fieldB (reg s Reg.tbxGrpret) 0 16) ++ leBytes 1 (liveEngines s 0) ++ leBytes 1 (liveEngines s 1)
    ++ leBytes 1 (liveCodec s 0) ++ leBytes 1 (liveCodec s 32)
    ++ leBytes 4 ((writing.map (fun t => userMBs (tpOf s t) (liveTracks s t))).foldl (· + ·) 0)
    ++ leBytes 2 (fld s Reg.pwrCnt Fld.pwrCntCommits))

/-- The fault log (R329). -/
def faultPage (s : State) : List Byte :=
  padTo 64 (leBytes 4 0x474C5446 ++ leBytes 4 s.flt.count ++ leBytes 4 (s.flt.count % 4096))
    ++ ringBytes 4096 32 s.flt.count (s.flt.log.map faultBytes)

/-- An entry of the recovery log (R315). -/
def rlogBytes (e : RlogEnt) : List Byte :=
  leBytes 2 e.scid.toNat ++ leBytes 1 e.t.toNat ++ leBytes 1 (flagBit e.replay 0 + flagBit e.ledger 1) ++ leBytes 4 e.first.toNat
    ++ leBytes 4 e.count.toNat ++ leBytes 4 e.dsnum.toNat ++ zeros 8

/-- The telemetry snapshot (R331). -/
def counterPage (s : State) : List Byte :=
  let head := padTo 64 (leBytes 4 0x54534C54 ++ leBytes 4 s.tel.gen.toNat ++ leBytes 4 counterList.length ++ leBytes 8 s.tel.ms)
  head ++ counterList.flatMap (fun c => leBytes 4 c.1 ++ leBytes 1 c.2.1 ++ zeros 3 ++ leBytes 8 (s.tel.shadow.get 0 (c.1 * 32 + c.2.1)).toNat)

/-- The bytes of a log page; none where the page does not exist. -/
def logPage (s : State) (page : Nat) : Option (List Byte) :=
  match page with
  | 1 => some (ringBytes 256 32 s.hif.errNo s.hif.errs)
  | 2 => some (healthPage s)
  | 3 => some (faultPage s)
  | 4 => some (s.hif.tests.flatMap (fun b => b))
  | 5 => some (leBytes 4 s.hif.unver.length ++ leBytes 4 s.hif.unverGen.toNat ++ zeros 8 ++ s.hif.unver.flatMap (fun b => b))
  | 6 => some (s.pwr.rlogHead ++ s.pwr.rlog.flatMap rlogBytes)
  | 7 => some (counterPage s)
  | _ => none

/-- Bytes [off, off + n) of a page; beyond its end they are zero (R275). -/
def pageCut (l : List Byte) (off n : Nat) : List Byte := padTo n (l.drop off)

/-- An entry of page 0x04 (R275; the spec lists its contents and not their places, log entry 27). -/
def testEntry (typ : Nat) (st : BitVec 8) (seg : Nat) (unit : BitVec 16) (secs susp ms : Nat) : List Byte :=
  leBytes 1 typ ++ [st] ++ leBytes 1 seg ++ zeros 1 ++ leBytes 2 unit.toNat ++ leBytes 2 susp ++ leBytes 4 secs ++ zeros 4
    ++ leBytes 8 ms ++ zeros 8

end Sys2Proof.Machine
end

