-- ==== Sys2Proof/Machine/HostCmd.lean ====
section
/-! DEFINITION. Host commands: fetching, the checks of R362, NEGOTIATE, IDENTIFY, GET_LOG, SET_FEATURE, ABORT, SELF_TEST,
OPEN_STREAM, the mailbox (R283), power states (R279, R280), and what an FLR or a link-down ends (R243). -/
namespace Sys2Proof.Machine

/-! ### Checks on an entry (R246, R253, R362 steps 3 and 4) -/

/-- The opcodes of R253. -/
def knownOpc (n : Nat) : Bool := decide (n ≤ 5 ∨ (8 ≤ n ∧ n ≤ 0xB) ∨ (0x10 ≤ n ∧ n ≤ 0x16))

/-- The command-specific fields of an opcode: offset and length. -/
def csFields (n : Nat) : List (Nat × Nat) :=
  match n with
  | 0x00 => [(0x18, 2), (0x1A, 2)]
  | 0x02 => [(0x18, 1), (0x1C, 4)]
  | 0x03 => [(0x18, 1), (0x1C, 4), (0x20, 8)]
  | 0x04 => [(0x18, 2), (0x1A, 2)]
  | 0x05 => [(0x18, 1), (0x19, 1)]
  | 0x08 => [(0x18, 1)]
  | 0x09 => [(0x18, 1)]
  | 0x0A => [(0x18, 1), (0x1C, 4), (0x20, 16)]
  | 0x0B => [(0x18, 1)]
  | 0x10 => [(0x18, 1), (0x19, 1), (0x1A, 1), (0x1B, 1), (0x1C, 1), (0x1D, 1), (0x1E, 1), (0x20, 4)]
  | 0x12 => [(0x18, 1), (0x1C, 4)]
  | 0x13 => [(0x1C, 4)]
  | 0x15 => [(0x18, 1)]
  | 0x16 => [(0x18, 1), (0x20, 16)]
  | _ => []

/-- Whether a byte offset belongs to a field of the opcode. -/
def inField (n o : Nat) : Bool := (csFields n).any (fun f => decide (f.1 ≤ o ∧ o < f.1 + f.2))

/-- The first command-specific byte that is not used and not zero. -/
def strayByte (e : Entry) : Option Nat :=
  ((List.range 40).map (fun i => 0x18 + i)).find? (fun o => !inField e.opc.toNat o && csByte e o != 0)

/-- The largest value of a power-state setting, timers, acknowledgement mode, coalescing, notice queue, resume delay and the
clear command: whether VALUE fits FID (R276). -/
def featureValueFits (fid v : Nat) : Bool :=
  match fid with
  | 1 => decide (v ≤ 3)
  | 2 => decide (v < 2 ^ 48)
  | 3 => decide (v ≤ 1)
  | 4 => decide (v < 2 ^ 24)
  | 5 => decide (v < 2 ^ 16 ∧ fieldOf v 10 5 = 0)
  | 6 => decide (v < 2 ^ 16)
  | _ => v == 0

/-- The offset of the first invalid field of a known command (R253, R35; step 4 of R362). -/
def badField (e : Entry) : Option Nat :=
  let b := csByte e
  let checks : List (Nat × Bool) :=
    match e.opc.toNat with
    | 0x01 => [(0x10, decide (4096 ≤ e.dlen.toNat))]
    | 0x02 => [(0x10, e.dlen.toNat % 4 == 0), (0x18, decide (1 ≤ b 0x18 ∧ b 0x18 ≤ 7))]
    | 0x03 => [(0x18, decide (1 ≤ b 0x18 ∧ b 0x18 ≤ 7)),
        (0x1C, b 0x18 == 3 && decide (csField e 0x1C 4 < 40960) || b 0x18 == 4 && decide (csField e 0x1C 4 < 1024) || csField e 0x1C 4 == 0),
        (0x20, featureValueFits (b 0x18) (csField e 0x20 8))]
    | 0x04 => [(0x1A, decide (csField e 0x1A 2 < 1024))]
    | 0x05 => [(0x18, b 0x18 == 1 || b 0x18 == 2)]
    | 0x08 => [(0x18, decide (b 0x18 < 8))]
    | 0x09 => [(0x18, decide (b 0x18 < 8))]
    | 0x0A => [(0x18, decide (b 0x18 < 8)), (0x1C, csField e 0x1C 4 == 0x464D5456)]
    | 0x10 => [(0x18, decide (b 0x18 < 8)), (0x19, decide (b 0x19 ≤ 1)), (0x1A, decide (b 0x1A ≤ 1)),
        (0x1B, b 0x19 == 1 || b 0x1B == 15 || (b 0x1A == 1 && decide (15 ≤ b 0x1B ∧ b 0x1B ≤ 20))),
        (0x1C, decide (b 0x1C ≤ 3)), (0x1D, decide (b 0x1D ≤ 3)), (0x1E, decide (b 0x1E ≤ 1))]
    | 0x12 => [(0x14, decide (1 ≤ e.count.toNat ∧ e.count.toNat ≤ 4096)), (0x18, decide (b 0x18 ≤ 1))]
    | 0x13 => [(0x14, decide (1 ≤ e.count.toNat ∧ e.count.toNat ≤ 4096))]
    | 0x15 => [(0x18, decide (b 0x18 ≤ 1))]
    | 0x16 => [(0x18, decide (b 0x18 ≤ 1)), (0x24, b 0x18 == 0 || csField e 0x24 12 == 0)]
    | _ => []
  (checks.find? (fun c => !c.2)).map (fun c => c.1)

/-- Commands that carry an SCID (R246). -/
def streamCmd (e : Entry) : Bool := decide (0x10 ≤ e.opc.toNat ∧ e.opc.toNat ≤ 0x16)

/-- Step 4 of R362: the offset of the first reserved byte that is not zero, or of the first invalid field. -/
def fieldError (e : Entry) : Option Nat :=
  if e.flags.toNat / 2 ≠ 0 then some 0x01
  else if (if streamCmd e then decide (40960 ≤ e.scid.toNat) else e.scid != 0xFFFF) then some 0x04
  else if e.rsv ≠ 0 then some 0x06
  else
    match badField e, strayByte e with
    | some a, some b => some (min a b)
    | some a, none => some a
    | none, b => b

/-! ### Self-test (R272, R273) -/

/-- A mailbox completion (R283): STATUS and RESULT; the spec gives its other fields no value. -/
def mailboxEnd (st : BitVec 8) (result : W64) (s : State) : State :=
  let f := takeFree s
  let b := leBytes 6 f.1 ++ [st] ++ leBytes 1 (f.1 / 2 ^ 48) ++ leBytes 8 result.toNat
  let s := forAll (List.range 4) (fun i s => setReg (Reg.mbxCpl i) (BitVec.ofNat 32 (leAt b (4 * i) 4)) s) f.2
  { s with hif := { s.hif with mbxBusy := false } }

/-- The self-test ends: its entry in page 0x04 and the end of its command. -/
def testDone (x : STest) (st : BitVec 8) (s : State) : State :=
  let u : BitVec 16 := (x.fail.map (fun f => f.1)).getD 0xFFFF
  let seg := (x.fail.map (fun f => f.2)).getD 0
  let f := takeFree s
  let s := f.2
  let s := { s with hif := { s.hif with
    test := none, tests := (testEntry x.typ st seg u f.1 x.suspAll (nowMs s) :: s.hif.tests).take 8 } }
  let r : W64 := BitVec.ofNat 64 (u.toNat + 2 ^ 16 * seg)
  match x.queue with
  | some _ => endCmd x.tag st r 0xFFFF s
  | none => mailboxEnd st r s

/-- The last segment of a test (R272). -/
def lastSegment (typ : Nat) : Nat := if typ = 2 then 7 else 5

/-- The test goes on with its next segment, or ends. -/
def testNext (x : STest) (s : State) : State :=
  if lastSegment x.typ ≤ x.seg then testDone x (if x.fail.isSome then hsSelfTestFailed else stOk) s
  else { s with hif := { s.hif with test := some { x with seg := x.seg + 1, suspN := 0 } } }

/-- A command other than IDENTIFY, GET_LOG and ABORT has been fetched: a running test suspends; a segment interrupted eight times
in succession is passed over (R273). -/
def testSuspend (s : State) : State :=
  match s.hif.test with
  | none => s
  | some x =>
    if x.susp then s
    else
      let x := { x with susp := true, suspN := x.suspN + 1, suspAll := x.suspAll + 1 }
      if 8 ≤ x.suspN then testNext x s else { s with hif := { s.hif with test := some x } }

/-- SELF_TEST_RESUME (R273): the interrupted segment restarts. -/
def testResume (s : State) : State :=
  match s.hif.test with
  | some x => if x.susp then { s with hif := { s.hif with test := some { x with susp := false } } } else s
  | none => s

/-- Whether segments 6 and 7 run: some transport of XMASK is loaded and has no open stream (R272). -/
def testQualifies (s : State) (x : STest) : Bool :=
  (setBits 8 x.xmask.toNat).any (fun t => (tpOf s (tid t)).loaded && !(openStreams s).any (fun y => y.2.t == t))

/-- SELF_TEST_SEGMENT_END (R272): a failure is a permanent fault of its unit and ends the test. -/
def testSegmentEnd (fail : Option (BitVec 16)) (s : State) : State :=
  match s.hif.test with
  | none => s
  | some x =>
    if x.susp then s
    else
      match fail with
      | none => testNext x s
      | some u =>
        if 6 ≤ x.seg ∧ !testQualifies s x then testNext x s
        else
          let s := escalate u 0 0 (logFault u 5 0 0 0 s)
          testDone { x with fail := some (u, x.seg) } hsSelfTestFailed s

/-- Begin a self-test; one at a time (R272). -/
def testBegin (typ xmask : Nat) (queue : Option Nat) (tag : BitVec 16) (s : State) : State :=
  { s with hif := { s.hif with
    entering := none
    test := some { STest.reset with typ := typ, xmask := BitVec.ofNat 8 xmask, seg := 1, queue := queue, tag := tag } } }

/-! ### Power states (R279, R280) -/

/-- No codec job runs or is pending, and the offload ring is empty (PS1). -/
def codecIdle (s : State) : Bool :=
  (List.range 64).all (fun e => (engOf s e).job.isNone) && s.codec.expands.isEmpty
    && (openStreams s).all (fun x => x.2.read || !offersJob s (BitVec.ofNat 16 x.1) x.2)
    && decide (s.codec.offNext = s.codec.offTail) && decide (fld s Reg.codecOqhead Fld.codecOqheadHead = s.codec.offTail)

/-- No command outstanding on any stream, no ledger charge, no MOT descriptor, every transport at standstill (PS2). -/
def tapeIdle (s : State) : Bool :=
  s.hif.cmds.all (fun c => !onStream c.e) && allT.all (fun t => s.pwr.debit.get 0 t.val == 0)
    && allT.all (fun t => (tpOf s t).mot.cur.isNone && (portOpen (tpOf s t).motP).isEmpty && (tpOf s t).mot.pup.isEmpty && (tpOf s t).mot.still)

/-- The conditions of a power state but for its timer, with those of the states above it. -/
def psFits (s : State) (n : Nat) : Bool :=
  s.hif.test.isNone && codecIdle s && (decide (n < 2) || tapeIdle s) && (decide (n < 3) || Config.l12Enabled)

/-- Back in PS0 (R280); the transports that PS3 released are tensioned again (R279). -/
def wakeUp (s : State) : State :=
  let s := if s.hif.ps = 3 then
      forAll allT (fun t => modMot t (fun m =>
        if (tpOf s t).loaded ∧ m.st = .released then { m with st := .tensioned, tensOn := true } else m)) s
    else s
  { s with hif := { s.hif with ps := 0, entering := none } }

/-- POWER_STATE_IDLE_EXPIRY (R279): the next deeper state is entered when its timer is not zero and its conditions hold. -/
def psExpiry (s : State) : State :=
  let n := s.hif.ps + 1
  let timer := match n with
    | 1 => fld s Reg.hifPscfg Fld.hifPscfgIdle1
    | 2 => fld s Reg.hifPscfg2 Fld.hifPscfg2Idle2
    | _ => fld s Reg.hifPscfg2 Fld.hifPscfg2Idle3
  if n ≤ 3 ∧ timer ≠ 0 ∧ s.hif.entering.isNone = true ∧ psFits s n = true ∧ s.pwr.commit.isNone = true then
    { s with hif := { s.hif with entering := some n } }
  else s

/-- RCCLK stops: X-RC-UP is held in reset, and no row and no report on its way is delivered later (R31). -/
def dropRcUp (s : State) : State := forAll allT (fun t => modRc t (fun x => { x with rows := [], reports := [] })) s

/-- POWER_STATE_ENTRY_DONE (R279); PS2 stops RCCLK, PS3 releases tension. -/
def psEntered (s : State) : State :=
  match s.hif.entering with
  | none => s
  | some n =>
    let s := if n = 3 then
        forAll allT (fun t => modMot t (fun m => if m.st = .tensioned then { m with st := .released, tensOn := false } else m)) s
      else s
    let s := if 2 ≤ n then dropRcUp s else s
    { s with hif := { s.hif with ps := n, entering := none } }

/-! ### SET_FEATURE (R276) -/

/-- What SET_FEATURE does: its status, the previous value, the state after it. ep is the queue's endpoint; the fields have
passed step 4 of R362. -/
def setFeatureOp (ep fid index v : Nat) (s : State) : BitVec 8 × Nat × State :=
  match fid with
  | 1 =>
    if v ≤ s.hif.ps then (stOk, s.hif.ps, if v = 0 then { s with hif := { s.hif with entering := none } } else s)
    else if psFits s v then (stOk, s.hif.ps, { s with hif := { s.hif with entering := some v } })
    else (hsBusy, 0, s)
  | 2 =>
    let old := fld s Reg.hifPscfg Fld.hifPscfgIdle1 + 2 ^ 16 * fld s Reg.hifPscfg2 Fld.hifPscfg2Idle2
      + 2 ^ 32 * fld s Reg.hifPscfg2 Fld.hifPscfg2Idle3
    (stOk, old, setFld Reg.hifPscfg Fld.hifPscfgIdle1 (fieldOf v 0 16)
      (setFld Reg.hifPscfg2 Fld.hifPscfg2Idle2 (fieldOf v 16 16) (setFld Reg.hifPscfg2 Fld.hifPscfg2Idle3 (fieldOf v 32 16) s)))
  | 3 =>
    match streamOf s index with
    | none => (stRejected, 0, s)
    | some x =>
      if x.read then (stRejected, 0, s)
      else if v = 1 ∧ (queueOf s x.queue).ver = 0 then (hsVersion, 0, s)
      else (stOk, x.ledger.toNat, modStream index (fun x => { x with ledger := v == 1 }) s)
  | 4 =>
    if queueOwner s index ≠ ep then (stRejected, 0, s)
    else
      (stOk, fld s (Reg.hifQcoal index) Fld.hifQcoalCount + 2 ^ 8 * fld s (Reg.hifQcoal index) Fld.hifQcoalTime,
        setFld (Reg.hifQcoal index) Fld.hifQcoalCount (fieldOf v 0 8) (setFld (Reg.hifQcoal index) Fld.hifQcoalTime (fieldOf v 8 16) s))
  | 5 =>
    (stOk, fld s Reg.hifNotice Fld.hifNoticeQueue + 2 ^ 15 * fld s Reg.hifNotice Fld.hifNoticeEn,
      setFld Reg.hifNotice Fld.hifNoticeQueue (fieldOf v 0 10) (setFld Reg.hifNotice Fld.hifNoticeEn (fieldOf v 15 1) s))
  | 6 => (stOk, fld s Reg.hifStcfg Fld.hifStcfgResume, setFld Reg.hifStcfg Fld.hifStcfgResume v s)
  | _ => (stOk, 0, { s with hif := { s.hif with unver := [], unverGen := s.hif.unverGen + 1 } })

/-! ### Fetching -/

/-- A queue's next entry can be fetched (R244, R245, R242): the boot sequence has ended, the device is in PS0, and no power-fail
commit has stopped intake (R312). -/
def canFetch (s : State) (n : Nat) : Bool :=
  queueEn s n && !queueErr s n && decide (9 ≤ s.boot) && s.hif.ps == 0 && s.pwr.commit.isNone && !s.pwr.commitEnded
    && (queueOf s n).head != (queueOf s n).tail

/-- The entry at the head of queue n is fetched and checked as far as step 5 of R362, and f goes on with it. -/
def fetchCmd (opc n : Nat) (e : Entry) (f : Cmd → State → State) (s : State) : State :=
  if !canFetch s n ∨ (e.opc.toNat ≠ opc ∧ knownOpc e.opc.toNat = true) then s
  else
    let s := modQueue n (fun q => { q with head := (q.head + 1) % sqEntries s n }) s
    let s := if e.opc = 1 ∨ e.opc = 2 ∨ e.opc = 4 then s else testSuspend s
    if tagInUse s e.tag then
      makeReady n ⟨e.tag, hsTagInUse, 0, false⟩ (logCommandError n e hsTagInUse 2 (hifError Fld.hifErrTagdup n s))
    else
      let c : Cmd := { Cmd.reset with queue := n, e := e }
      let s := { s with hif := { s.hif with cmds := s.hif.cmds ++ [c] } }
      if (queueOf s n).neg = false ∧ e.opc ≠ 0 ∧ e.opc ≠ 1 then endCmd e.tag hsNotNegotiated 0 0xFFFF s
      else if !knownOpc e.opc.toNat then endCmd e.tag hsInvalidOpcode 0 0 s
      else
        match fieldError e with
        | some o => endCmd e.tag stRejected 0 o s
        | none =>
          if onStream e then
            match streamOf s e.scid.toNat with
            | none => endCmd e.tag hsNoStream 0 4 s
            | some x => if x.queue ≠ n then endCmd e.tag hsWrongQueue 0 4 s else settleHost (f c s)
          else settleHost (f c s)

/-- A command that is not bound to a stream ends VERSION where it uses a scatter list its queue's version lacks (step 7). -/
def needVersion (c : Cmd) (f : State → State) (s : State) : State :=
  if sglDenied s c then endCmd c.e.tag hsVersion 0 0x01 s else f s

/-- The command's output at DPTR, then its end; a scatter list that falls short ends it REJECTED (R246). -/
def finishOut (c : Cmd) (l : List Byte) (result : W64) (s : State) : State :=
  match hostPieces s (entrySgl c.e) c.e.dptr.toNat l.length with
  | none => endCmd c.e.tag stRejected 0 0x08 s
  | some ps => endCmd c.e.tag stOk result 0xFFFF (writePieces l ps s)

/-! ### The commands of R253 that act at once -/

/-- The highest version within a range: its field value and its number (R250). -/
def pickVersion (lo hi : Nat) : Option (Nat × Nat) :=
  [(2, 0x200), (1, 0x101), (0, 0x100)].find? (fun v => decide (lo ≤ v.2 ∧ v.2 ≤ hi))

/-- NEGOTIATE (R250). -/
def negotiateOp (c : Cmd) (s : State) : State :=
  if s.hif.cmds.any (fun k => k.queue == c.queue && k.e.tag != c.e.tag) || (queueOf s c.queue).ready.any (fun r => r.own) then
    endCmd c.e.tag hsBusy 0 0xFFFF s
  else
    match pickVersion (csField c.e 0x18 2) (csField c.e 0x1A 2) with
    | none => endCmd c.e.tag hsVersion 0 0x18 s
    | some v => endCmd c.e.tag stOk (BitVec.ofNat 64 v.2) 0xFFFF (modQueue c.queue (fun q => { q with neg := true, ver := v.1 }) s)

/-- IDENTIFY (R274). -/
def identifyOp (c : Cmd) (s : State) : State :=
  needVersion c (fun s => finishOut c (identBytes s (queueOwner s c.queue)) 0 s) s

/-- GET_LOG (R275). -/
def getLogOp (c : Cmd) (s : State) : State :=
  needVersion c (fun s =>
    match logPage s (csByte c.e 0x18) with
    | none => endCmd c.e.tag stRejected 0 0x18 s
    | some l => finishOut c (pageCut l (csField c.e 0x1C 4) c.e.dlen.toNat) (BitVec.ofNat 64 c.e.dlen.toNat) s) s

/-- SET_FEATURE (R276). -/
def setFeatureCmd (c : Cmd) (s : State) : State :=
  needVersion c (fun s =>
    let r := setFeatureOp (queueOwner s c.queue) (csByte c.e 0x18) (csField c.e 0x1C 4) (csField c.e 0x20 8) s
    endCmd c.e.tag r.1 (BitVec.ofNat 64 r.2.1) (if r.1 = stRejected then 0x1C else 0xFFFF) r.2.2) s

/-- SELF_TEST (R272). -/
def selfTestOp (c : Cmd) (s : State) : State :=
  if s.hif.test.isSome then endCmd c.e.tag hsBusy 0 0xFFFF s
  else needVersion c (fun s => testBegin (csByte c.e 0x18) (csByte c.e 0x19) (some c.queue) c.e.tag
    (modCmd c.e.tag (fun k => { k with active := true }) s)) s

/-! ### ABORT (R270, R271) -/

/-- An ACTIVE WRITE_RECORDS is aborted: fetching stops, the record being fetched and the unfetched ones are discarded. -/
def abortWrite (c : Cmd) (st : BitVec 8) (s : State) : State :=
  match streamOf s c.e.scid.toNat with
  | none => endCmd c.e.tag st 0 0xFFFF s
  | some x =>
    let s := match (cmdRecs x c).find? (fun r => !recGot r) with
      | none => s
      | some r => discardFrom c.e.scid r.seq (dropJob c.e.scid s)
    let n := ((streamOf s c.e.scid.toNat).map (fun x => (cmdRecs x c).length)).getD 0
    endCmd c.e.tag st (writeResult c.first n false) 0xFFFF s

/-- A LOCATE is aborted: MOT.STOP is issued and the stream is left without a position. -/
def abortLocate (c : Cmd) (st : BitVec 8) (s : State) : State :=
  match streamOf s c.e.scid.toNat with
  | none => endCmd c.e.tag st 0 0xFFFF s
  | some x =>
    let t := tid x.t
    let s := modStream c.e.scid.toNat (fun x => { x with pos := none, dec := [] }) (endCmd c.e.tag st 0 0xFFFF s)
    let m := (tpOf s t).mot
    if m.cur.any (fun k => k.tag == some c.e.tag) then
      commandStop t (dropMotion t (modMot t (fun m => { m with cur := m.cur.map (fun k => { k with tag := none }) }) s))
    else modMot t (fun m => { m with pup := m.pup.filter (fun k => k.tag != some c.e.tag) }) s

/-- The effect of ABORTED on an ACTIVE command that R271 lists; none where it lists no effect. -/
def abortActive (c : Cmd) (st : BitVec 8) (s : State) : Option State :=
  match c.e.opc.toNat with
  | 0x12 => some (abortWrite c st s)
  | 0x13 => some (endRead c st c.done 0xFFFF s)
  | 0x16 => some (abortLocate c st s)
  | 0x14 => some (endCmd c.e.tag st 0 0xFFFF s)
  | 0x15 => some (endCmd c.e.tag st 0 0xFFFF s)
  | 0x05 => match s.hif.test with
    | some x => if x.tag = c.e.tag ∧ x.queue.isSome = true then some (testDone x st s) else none
    | none => none
  | _ => none

/-- A tag is COMPLETING or DONE on a queue (R252). -/
def tagEnded (s : State) (n : Nat) (tag : BitVec 16) : Bool :=
  (queueOf s n).ready.any (fun r => r.own && r.tag == tag) || (queueOf s n).tags.contains (some tag)

/-- ABORT (R270). -/
def abortOp (c : Cmd) (s : State) : State :=
  needVersion c (fun s =>
    let k : BitVec 16 := BitVec.ofNat 16 (csField c.e 0x18 2)
    let n := csField c.e 0x1A 2
    match cmdOf s k with
    | some y =>
      if y.queue ≠ n then endCmd c.e.tag hsNoSuchTag 0 0x18 s
      else
        let s := modCmd c.e.tag (fun x => { x with active := true }) s
        if onStream y.e ∧ y.active = false then endCmd k hsAborted 0 0xFFFF s
        else
          match abortActive y hsAborted s with
          | some s => s
          | none => endCmd c.e.tag hsNotAbortable 0 0xFFFF s
    | none => endCmd c.e.tag (if tagEnded s n k then hsAbortTooLate else hsNoSuchTag) 0 0x18 s) s

/-! ### OPEN_STREAM (R254) -/

/-- The first condition of R254 that stops an OPEN_STREAM. -/
def openError (c : Cmd) (s : State) : Option (BitVec 8) :=
  let b := csByte c.e
  let t := tid (b 0x18)
  let on := (openStreams s).filter (fun x => x.2.t == t.val)
  if (streamOf s c.e.scid.toNat).isSome then some hsScidInUse
  else if !(tpOf s t).loaded then some hsNotLoaded
  else if !(tpOf s t).formatted then some hsUnformatted
  else if b 0x19 = 0 ∧ on.any (fun x => x.2.read) = true then some hsDirection
  else if b 0x19 = 0 ∧ writeDisabled s t = true then some hsWriteDisabled
  else if b 0x19 = 0 ∧ b 0x1E = 1 ∧ cmdVer s c = 0 then some hsVersion
  else if b 0x19 = 1 ∧ on ≠ [] then some hsDirection
  else if b 0x19 = 1 ∧ (b 0x1A ≠ 0 ∨ b 0x1B ≠ 0 ∨ b 0x1C ≠ 0 ∨ b 0x1D ≠ 0) then some stRejected
  else if sglDenied s c then some hsVersion
  else none

/-- Firmware hands the write entry the append position of the loaded cartridge (R87, R254). -/
def handPosition (t : Tid) (s : State) : State :=
  modTp t (fun x => { x with handed := (x.cart.bind volEnd).map (fun e => (e.wrap, e.lpos)) }) s

/-- OPEN_STREAM (R254): the first write stream, or the read stream, of a transport starts its program. -/
def openStreamOp (c : Cmd) (s : State) : State :=
  match openError c s with
  | some st => endCmd c.e.tag st 0 (if st = stRejected then 0x1A else 0xFFFF) s
  | none =>
    let b := csByte c.e
    let t := tid (b 0x18)
    let rd : Bool := b 0x19 == 1
    let first := rd || (writeStreams s t.val).all (fun x => x.2.closing)
    let q : W32 := BitVec.ofNat 32 (csField c.e 0x20 4)
    let k := c.e.scid.toNat
    let s := modCtx k (fun _ => { Ctx.reset with
      dir := rd, coding := BitVec.ofNat 8 (b 0x1A), winlog := BitVec.ofNat 8 (b 0x1B), codeSel := BitVec.ofNat 8 (b 0x1C)
      level := BitVec.ofNat 8 (b 0x1D) }) (dropHistory k s)
    let s := setStream k (some { Stream.reset with
      t := t.val, read := rd, queue := c.queue, ledger := b 0x1E == 1, next := q, unsealed := q }) s
    let s := endCmd c.e.tag stOk 0 0xFFFF s
    let s := if first && !rd then handPosition t s else s
    if first then startAtEntry t (!rd) s else s

/-- A command that names a stream waits for its turn; WRITE_RECORDS keeps the acknowledgement mode it was fetched under (R276). -/
def streamCmdOp (c : Cmd) (s : State) : State :=
  match streamOf s c.e.scid.toNat with
  | none => s
  | some x => modCmd c.e.tag (fun k => { k with wt := !x.ledger }) s

/-! ### Completions, doorbells, queues -/

/-- COMPLETION_POST (R248). -/
def completionPost (n : Nat) (s : State) : State :=
  match (queueOf s n).ready with
  | [] => s
  | c :: r =>
    if cqRoom s n then
      settleHost (postEntry n c.tag (if c.own then some c.tag else none) c.status c.result (modQueue n (fun q => { q with ready := r }) s))
    else s

/-- COALESCE_TIMEOUT (R249). -/
def coalesceTimeout (n : Nat) (s : State) : State :=
  if (queueOf s n).timing ∧ fld s (Reg.hifQcfg n) Fld.hifQcfgIen = 1 then signalQueue n s else s

/-- NOTICE_POST (R277, R278): the oldest notice goes to the notice queue while that has room. -/
def noticePost (s : State) : State :=
  let n := fld s Reg.hifNotice Fld.hifNoticeQueue
  match s.hif.notices with
  | [] => s
  | k :: r =>
    if fld s Reg.hifNotice Fld.hifNoticeEn = 1 ∧ queueEn s n = true ∧ cqRoom s n = true ∧ s.hif.ps = 0 then
      postEntry n (BitVec.ofNat 16 k) none hsNotice 0 { s with hif := { s.hif with notices := r } }
    else s

/-- Whether a source may reach the registers and doorbells of queue n (R241). -/
def queueReach (s : State) (src : Src) (n : Nat) : Bool :=
  match src with
  | .puppeteer => true
  | .host ep => ep.val == queueOwner s n

/-- An access to a queue through another endpoint: ignored, with HIF_ERR.WRONGEP (R241). -/
def wrongEp (n : Nat) (s : State) : State := hifError Fld.hifErrWrongep n s

/-- A doorbell that is ignored and logged (R245). -/
def badDoorbell (off n : Nat) (s : State) : State := logAccess off (hifError Fld.hifErrDberr n s)

/-- SQ_TAIL_DOORBELL (R245). -/
def tailDoorbell (src : Src) (n ptr : Nat) (s : State) : State :=
  let s := wakeUp s
  if !queueReach s src n then wrongEp n s
  else if !queueEn s n ∨ sqEntries s n ≤ ptr then badDoorbell (Reg.hifSqtdb n) n s
  else modQueue n (fun q => { q with tail := ptr }) s

/-- Entries of the completion ring that a new head releases; none where it passes the last posted entry (R245). -/
def headSteps (s : State) (n ptr : Nat) : Option Nat :=
  let q := queueOf s n
  let c := cqEntries s n
  if c ≤ ptr then none
  else
    let k := (ptr + c - q.cqHead) % c
    if k ≤ q.cqUsed then some (if k = 0 ∧ ptr ≠ q.cqHead then c else k) else none

/-- CQ_HEAD_DOORBELL (R245, R248, R249): released entries free their tags. -/
def headDoorbell (src : Src) (n ptr : Nat) (s : State) : State :=
  let s := wakeUp s
  if !queueReach s src n then wrongEp n s
  else if !queueEn s n then badDoorbell (Reg.hifCqhdb n) n s
  else
    match headSteps s n ptr with
    | none => badDoorbell (Reg.hifCqhdb n) n s
    | some k =>
      settleHost (modQueue n (fun q => { q with
        cqHead := ptr, cqUsed := q.cqUsed - k, tags := q.tags.drop k
        timing := if q.cqUsed ≤ k then false else q.timing }) s)

/-- Whether commands fetched from queue n, or entries not released, remain (QSTAT.ACTIVE but for EN). -/
def queueBusy (s : State) (n : Nat) : Bool := outstanding s n

/-- Enabling an idle queue begins its rings anew; it starts unnegotiated (R244, R250; log entry 26). -/
def enableQueue (n : Nat) (s : State) : State :=
  let busy := queueBusy s n
  modQueue n (fun q => if busy then { q with neg := false, ver := 0 } else { Queue.reset with ready := q.ready }) s

/-- QUEUE_ENABLE (R244, R282): base, size and vector change only while EN = 0; an enable with bad bases or sizes is refused. -/
def queueEnable (src : Src) (n : Nat) (cfg : W32) (s : State) : State :=
  let s := wakeUp s
  let off := Reg.hifQcfg n
  if !queueReach s src n then wrongEp n s
  else
    let en := queueEn s n
    let same := fieldB cfg 0 21 == fieldB (reg s off) 0 21
    let s := if en ∧ !same then logAccess off s else s
    let s := if en then s else
      setFld off Fld.hifQcfgSqsize (fieldB cfg 0 5) (setFld off Fld.hifQcfgCqsize (fieldB cfg 5 5) (setFld off Fld.hifQcfgVector (fieldB cfg 10 11) s))
    let s := setFld off Fld.hifQcfgIen (fieldB cfg 21 1) s
    if fieldB cfg 31 1 = 0 then setFld off Fld.hifQcfgEn 0 s
    else if en then s
    else
      let sq := fld s off Fld.hifQcfgSqsize
      let cq := fld s off Fld.hifQcfgCqsize
      if pair s (Reg.hifSqbase n 0) (Reg.hifSqbase n 1) % 4096 = 0 ∧ pair s (Reg.hifCqbase n 0) (Reg.hifCqbase n 1) % 4096 = 0
          ∧ sq ≤ cq ∧ 4 ≤ sq ∧ cq ≤ 16 then
        enableQueue n (setFld off Fld.hifQcfgEn 1 (setFld off Fld.hifQcfgCfgerr 0 s))
      else hifError Fld.hifErrCfgerr n (setFld off Fld.hifQcfgCfgerr 1 s)

/-- QUEUE_ERR_CLEAR (R282). -/
def queueErrClear (src : Src) (n : Nat) (s : State) : State :=
  let s := wakeUp s
  if queueReach s src n then setFld (Reg.hifQstat n) Fld.hifQstatErr 0 s else wrongEp n s

/-- HOST_MEMORY_ERROR (R242): the command that needed the data ends HOST_MEMORY, or the queue's fetching stops. -/
def hostMemoryError (n : Nat) (tag : Option (BitVec 16)) (s : State) : State :=
  let bad (s : State) : State := faultEvent (unitId 11 (queueOwner s n / 2)) 0 0 (hifError Fld.hifErrHostmem n s)
  match tag with
  | none => if queueEn s n then bad (raiseFld (Reg.hifQstat n) Fld.hifQstatErr s) else s
  | some k =>
    match cmdOf s k with
    | none => s
    | some c =>
      if c.queue ≠ n then s
      else if c.e.opc = 0x12 ∧ c.active = true then settleHost (abortWrite c hsHostMemory (bad s))
      else if onStream c.e ∧ c.e.opc ≠ 0x12 ∧ c.e.opc ≠ 0x13 then s
      else settleHost (endCmd k hsHostMemory (BitVec.ofNat 64 c.done) 0xFFFF (bad s))

/-! ### FLR and link-down (R243, R353) -/

/-- A command fetched from a queue that an FLR disabled: QUEUED ones end without effect, those of R271 with its effect, all others
run on; no completion is posted. -/
def killCmd (tag : BitVec 16) (s : State) : State :=
  match cmdOf s tag with
  | none => s
  | some c =>
    let s := modCmd tag (fun k => { k with dead := true, wt := true, ready := none }) s
    let c := { c with dead := true }
    if onStream c.e ∧ c.active = false then endCmd tag hsAborted 0 0xFFFF s
    else
      match abortActive c hsAborted s with
      | some s => s
      | none => s

/-- Disable a queue: no completion of its commands is posted, its streams close (R243). -/
def killQueue (n : Nat) (s : State) : State :=
  let s := setFld (Reg.hifQcfg n) Fld.hifQcfgEn 0 s
  let s := forAll ((s.hif.cmds.filter (fun c => c.queue == n)).map (fun c => c.e.tag)) killCmd s
  let s := modQueue n (fun q => { q with ready := [], tags := [], cqUsed := 0, timing := false, unsig := 0, neg := false, ver := 0 }) s
  forAll ((openStreams s).filter (fun x => x.2.queue == n && !x.2.closing)) (fun x => beginClose (BitVec.ofNat 16 x.1) 0xFFFF x.2) s

/-- Disable every queue of an endpoint. -/
def killEndpoint (ep : Nat) (s : State) : State :=
  let o := ownedQueues s ep
  if endpointPresent s ep then
    let live := (List.range o.2).filter (fun i => queueEn s (o.1 + i) || queueBusy s (o.1 + i) || (queueOf s (o.1 + i)).cqUsed != 0
      || (openStreams s).any (fun x => x.2.queue == o.1 + i))
    settleHost (forAll live (fun i => killQueue (o.1 + i)) s)
  else s

/-- PERST_ASSERT (R353): the port's endpoints go through a link-down and stay in reset. -/
def perstAssert (p : Nat) (s : State) : State :=
  let s := killEndpoint (2 * p + 1) (killEndpoint (2 * p) s)
  { s with hif := { s.hif with perst := if s.hif.perst.contains p then s.hif.perst else s.hif.perst ++ [p] } }

/-! ### Mailbox (R283) -/

/-- The submission entry in MBX_SUB. -/
def mailboxEntry (s : State) : Entry :=
  let b := (List.range 16).flatMap (fun i => leBytes 4 (reg s (Reg.mbxSub i)).toNat)
  { opc := BitVec.ofNat 8 (leAt b 0 1), flags := BitVec.ofNat 8 (leAt b 1 1), tag := BitVec.ofNat 16 (leAt b 2 2)
    scid := BitVec.ofNat 16 (leAt b 4 2), rsv := BitVec.ofNat 16 (leAt b 6 2), dptr := BitVec.ofNat 64 (leAt b 8 8)
    dlen := BitVec.ofNat 32 (leAt b 16 4), count := BitVec.ofNat 32 (leAt b 20 4), cs := BitVec.ofNat 320 (leAt b 24 40) }

/-- A mailbox command fails: page 0x01 names no queue by 0xFFFF. -/
def mailboxFail (e : Entry) (st : BitVec 8) (off : Nat) (s : State) : State := mailboxEnd st 0 (logCommandError 0xFFFF e st off s)

/-- Mailbox output. -/
def mailboxOut (l : List Byte) (result : W64) (s : State) : State :=
  mailboxEnd stOk result { s with hif := { s.hif with mbxData := ({} : SMap Byte).write 0 0 l } }

/-- MBX_GO (R283). -/
def mailboxGo (src : Src) (s : State) : State :=
  let s := wakeUp s
  if s.hif.mbxBusy then logAccess Reg.mbxCtl s
  else
    let e := mailboxEntry s
    let ep := match src with
      | .host ep => ep.val
      | .puppeteer => 0
    let s := if e.opc = 1 ∨ e.opc = 2 then s else testSuspend s
    if !(e.opc = 1 ∨ e.opc = 2 ∨ e.opc = 3 ∨ e.opc = 5) then mailboxFail e stRejected 0 s
    else
      match fieldError e with
      | some o => mailboxFail e stRejected o s
      | none =>
        if (e.opc = 1 ∨ e.opc = 2) ∧ 4096 < e.dlen.toNat then mailboxFail e stRejected 0x10 s
        else if e.opc = 5 ∧ s.hif.test.isSome = true then mailboxFail e hsBusy 0xFFFF s
        else if entrySgl e then mailboxFail e hsVersion 1 s
        else
          match e.opc.toNat with
          | 1 => mailboxOut (identBytes s ep) 0 s
          | 2 =>
            match logPage s (csByte e 0x18) with
            | none => mailboxFail e stRejected 0x18 s
            | some l => mailboxOut (pageCut l (csField e 0x1C 4) e.dlen.toNat) (BitVec.ofNat 64 e.dlen.toNat) s
          | 3 =>
            let r := setFeatureOp ep (csByte e 0x18) (csField e 0x1C 4) (csField e 0x20 8) s
            if r.1 = stOk then mailboxOut [] (BitVec.ofNat 64 r.2.1) r.2.2 else mailboxFail e r.1 0xFFFF r.2.2
          | _ => testBegin (csByte e 0x18) (csByte e 0x19) none e.tag { s with hif := { s.hif with mbxBusy := true } }

/-! ### Record data (R256) -/

/-- The class of the buffer for the next n bytes of a record: the smallest that holds them (log entry 15). -/
def inputClass (n : Nat) : Nat := if n ≤ classSize 0 then 0 else if n ≤ classSize 1 then 1 else if n ≤ classSize 2 then 2 else 3

/-- An input buffer for the host interface: one it was given after a wait, or a new one; it falls back, then waits (R188). -/
def inputBuffer (cls : Nat) (s : State) : Option W32 × State :=
  match s.tbx.given.find? (fun g => g.1 == 0 && g.2.1 == 0 && g.2.2.1 == stOk && tokenHeld s 0 g.2.2.2) with
  | some g => (some g.2.2.2, { s with tbx := { s.tbx with given := s.tbx.given.erase g } })
  | none =>
    if ((List.range 4).flatMap (waitList s.tbx) ++ s.tbx.retry).any (fun w => w.port == 0 && w.agent == 0) then (none, s)
    else
      let r := allocFor 0 0 cls 0 s
      match r.1 with
      | some k => (some k, r.2)
      | none => allocFor 0 0 cls 1 r.2

/-- The record of a stream that is being fetched: the first of the WRITE_RECORDS in turn that is not all there. -/
def fetching (s : State) (x : Stream) : Option (Rec × Cmd) :=
  match x.recs.find? (fun r => !recGot r && !r.unver) with
  | none => none
  | some r => (cmdOf s r.cmd).map (fun c => (r, c))

/-- Bytes that fit the record's buffers already held. -/
def bufRoom (s : State) (r : Rec) : Nat := match r.bufs.getLast? with
  | some (k, n) => tokSize s k - n
  | none => 0

/-- Put bytes behind those of the record's last buffer, or into a new one. -/
def addInput (r : Rec) (l : List Byte) (new : Option W32) (s : State) : State × List (W32 × Nat) :=
  match new with
  | some k => (bufPut k 0 l s, r.bufs ++ [(k, l.length)])
  | none =>
    match r.bufs.getLast? with
    | some (k, n) => (bufPut k n l s, r.bufs.dropLast ++ [(k, n + l.length)])
    | none => (s, r.bufs)

/-- HOST_READ_DATA (R256): len bytes of the record being fetched arrive; a buffer takes a piece of at most 1 MiB of the record. -/
def hostReadData (scid : BitVec 16) (len : Nat) (s : State) : State :=
  match streamOf s scid.toNat with
  | none => s
  | some x =>
    match fetching s x with
    | none => s
    | some (r, c) =>
      let want := min (r.len - r.got) (2 ^ 20 - r.got % 2 ^ 20)
      let b : Option (Option W32) × State :=
        if 0 < bufRoom s r ∧ r.got % 2 ^ 20 ≠ 0 then (some none, s)
        else
          let q := inputBuffer (inputClass want) s
          (q.1.map some, q.2)
      match b.1 with
      | none => b.2
      | some new =>
        let s := b.2
        let room := match new with
          | some k => tokSize s k
          | none => bufRoom s r
        let n := min (min len want) room
        match hostPieces s (entrySgl c.e) r.addr.toNat r.len with
        | none => settleHost (abortWrite c stRejected s)
        | some ps =>
          let l := readPieces s.hostMem (takePieces n (dropPieces r.got ps))
          let q := addInput r l new s
          let s := modRec scid.toNat r.seq (fun y => { y with got := y.got + l.length, bufs := q.2 }) q.1
          let s := forAll (q.2.drop (q.2.length - 1)) (fun b => growToken scid.toNat b.1 b.2) s
          let s := modCodec (fun k => { k with
            arrivals := k.arrivals ++ [(scid, l.length)], parked := k.parked.filter (fun p => p != scid) }) s
          let s := modTp (tid x.t) (fun y => { y with yoyo := { y.yoyo with hostBytes := y.yoyo.hostBytes + l.length } }) s
          settleHost s

end Sys2Proof.Machine
end

