-- ==== Sys2Proof/Machine/Program.lean ====
section
/-! DEFINITION. Program images: the checks of R62 on the layout of R61, installing an F image (R63) and an L image (R215),
LOAD_PROGRAM (R269). -/
namespace Sys2Proof.Machine

/-! ### Parts of an image (R61) -/

/-- CODE_SIZE. -/
def imgCode (l : List Byte) : Nat := leAt l 0x0C 4
/-- DATA_SIZE. -/
def imgData (l : List Byte) : Nat := leAt l 0x10 4
/-- Where the data begins: each part starts on a 4-byte boundary. -/
def imgDataAt (l : List Byte) : Nat := 256 + ceilDiv (imgCode l) 4 * 4
/-- Where the key field begins. -/
def imgKeyAt (l : List Byte) : Nat := imgDataAt l + ceilDiv (imgData l) 4 * 4
/-- PROFILE. -/
def imgProfile (l : List Byte) : Nat := leAt l 6 1
/-- KEY_SLOT. -/
def imgSlot (l : List Byte) : Nat := leAt l 7 1
/-- FMTID. -/
def imgFmtid (l : List Byte) : Nat := leAt l 8 2
/-- FLAGS. -/
def imgFlags (l : List Byte) : Nat := leAt l 0x21 1
/-- LOOP_TABLE entry of a loop. -/
def imgLoop (l : List Byte) (n : Nat) : Nat := leAt l (0x40 + 4 * n) 4

/-! ### The checks of R62 -/

/-- Check 1: MAGIC, HDR_VER and the reserved fields; fields that R61 gives as zero for the profile count as reserved. -/
def imgHeaderGood (l : List Byte) : Bool :=
  leAt l 0 4 == 0x49564852 && leAt l 4 2 == 1 && decide (imgProfile l ≤ 1) && decide (imgSlot l < 8)
    && leAt l 0x22 30 == 0 && decide (imgFlags l / 4 = 0)
    && (if imgProfile l = 0 then leAt l 0x40 128 == 0 else leAt l 0x14 12 == 0)

/-- Check 2: the fused slot holds the digest of the key field and is not revoked. -/
def imgKeyGood (s : State) (l : List Byte) : Bool :=
  (s.fuses.get 0 (imgSlot l)).toNat == sha384 (padTo 100 (cut l (imgKeyAt l) 100)) && !bitOf s.revoked.toNat (imgSlot l)
    && s.fuses.get 0 (imgSlot l) != 0

/-- Check 3: the signature verifies. -/
def imgSigGood (l : List Byte) : Bool :=
  let k := imgKeyAt l
  leAt l k 1 == 4 && ecdsaGood (sha384 (l.take (k + 100))) (beAt l (k + 1) 48) (beAt l (k + 49) 48) (beAt l (k + 100) 48) (beAt l (k + 148) 48)

/-- Check 4: which slots sign which FMTID. -/
def imgIdGood (l : List Byte) : Bool :=
  if imgSlot l < 4 then decide (1 ≤ imgFmtid l ∧ imgFmtid l ≤ 0x7FFF) else decide (0x8000 ≤ imgFmtid l ∧ imgFmtid l ≤ 0xFFFE)

/-- Whether the loop program that stands next at pc ends within n instructions with every branch forward (R60). It ends at the first
END that no earlier branch jumps over (reach is the furthest target), or with the code (log entry 36). -/
def loopEnds (code : List Byte) : Nat → Nat → Nat → Bool
  | 0, _, _ => false
  | n + 1, pc, reach =>
    if code.length ≤ pc then true
    else
      match decodeL (BitVec.ofNat 32 (leAt code pc 4)) with
      | some (.branch _ _ _ imm) => decide (1 ≤ imm.toInt) && loopEnds code n (pc + 4) (max reach (pc + 4 * imm.toNat))
      | some (.imm .lend _ _ _) => decide (reach ≤ pc) || loopEnds code n (pc + 4) reach
      | _ => loopEnds code n (pc + 4) reach

/-- The image loader's own limits on an L image (R60): every loop program has at most 256 instructions and branches forward only. -/
def imgLoopsGood (l : List Byte) : Bool :=
  (List.range 32).all (fun n => imgLoop l n == 0xFFFFFFFF || loopEnds (cut l 256 (imgCode l)) 256 (imgLoop l n) 0)

/-- Check 5: sizes and entry addresses, and the limits of R60 on an L image. -/
def imgSizesGood (l : List Byte) : Bool :=
  let c := imgCode l
  imgCode l % 4 == 0 && l.length == imgKeyAt l + 196
    && (if imgProfile l = 0 then
        decide (c ≤ 65536 ∧ imgData l ≤ 65536 ∧ leAt l 0x14 4 < c ∧ leAt l 0x18 4 < c ∧ leAt l 0x1C 4 < c)
      else
        decide (c ≤ 32768 ∧ imgData l ≤ 32768)
          && (List.range 32).all (fun n => imgLoop l n == 0xFFFFFFFF || decide (imgLoop l n < c)) && imgLoopsGood l)

/-- Check 6 for one target port: FLAGS match its head module. -/
def imgHeadGood (s : State) (l : List Byte) (t : Tid) : Bool :=
  let k := (tpOf s t).head.kind
  (!bitOf (imgFlags l) 0 || k == 2) && (!bitOf (imgFlags l) 1 || k == 1)

/-- Check 7 for one target (F): the sequencer may take an image, and no dataset is open. -/
def seqTakesImage (x : Tp) : Bool :=
  (x.seq.st == .empty || x.seq.st == .loaded || x.seq.st == .halted || x.seq.st == .failed) && x.asm.opn.isNone

/-- The first check that an image fails, with the transport concerned where there is one. -/
def imgError (s : State) (l : List Byte) (targets : List Tid) : Option (Nat × Option Tid) :=
  if !imgHeaderGood l then some (1, none)
  else if !imgKeyGood s l then some (2, none)
  else if !imgSigGood l then some (3, none)
  else if !imgIdGood l then some (4, none)
  else if !imgSizesGood l then some (5, none)
  else if s.fstep.toNat < leAt l 0x20 1 then some (6, none)
  else
    match targets.find? (fun t => !imgHeadGood s l t) with
    | some t => some (6, some t)
    | none =>
      if imgProfile l = 0 then (targets.find? (fun t => !seqTakesImage (tpOf s t))).map (fun t => (7, some t))
      else if (List.range 32).all (fun n => (getLoop s n).mode == .manual) then none else some (7, none)

/-! ### Installing -/

/-- A memory holding bytes from address 0. -/
def memOf (l : List Byte) : SMap Byte := ({} : SMap Byte).write 0 0 l

/-- Install an F image on transport t (R63); a permanent sequencer fault no longer bars its writes (R324), and the program starts with
three copies and 65,535 slots (R106). -/
def installF (l : List Byte) (t : Tid) (s : State) : State :=
  modTp t (fun x =>
    { (zeroTickets x) with
      seqDis := false, reinstall := false, vfy := { x.vfy with copies := 3, slotLimit := 65535 }
      seq := installSeq { x.seq with
        code := memOf (cut l 256 (imgCode l)), codeSize := imgCode l, imgData := memOf (cut l (imgDataAt l) (imgData l))
        entryWrite := BitVec.ofNat 32 (leAt l 0x14 4), entryRead := BitVec.ofNat 32 (leAt l 0x18 4), imgEvec := BitVec.ofNat 32 (leAt l 0x1C 4)
        fmtid := BitVec.ofNat 16 (imgFmtid l), version := BitVec.ofNat 16 (leAt l 0x0A 2) } })
    { s with images := s.images.set [] (16 + t.val) l }

/-- The 64 coefficient words at an offset of the DATA. -/
def bankAt (d : List Byte) (o : Nat) : SMap W64 :=
  (List.range 64).foldl (fun m i => m.set 0 i (BitVec.ofNat 64 (leAt d (o + 8 * i) 8))) {}

/-- One loop takes its part of an L image: entry, banks, state words zero, bank A active, manual mode (R215). -/
def installLoop (l d : List Byte) (n : Nat) (s : State) : State :=
  let t := tid (n / 4)
  let band := (tpOf s t).mot.band
  let swap : Bool := n % 4 == 2 && fld s (Reg.mcLctl (n / 4) (n % 4)) Fld.mcLctlBandsw == 1
  let bank := if swap then bankAt d (16384 + 512 * (4 * (n / 4) + band)) else bankAt d (512 * n)
  modLoop n (fun p => { p with
    coefA := bank, coefB := bank, words := {}, bank := false, selPend := none, ready := false
    hasProg := imgLoop l n != 0xFFFFFFFF, entry := BitVec.ofNat 32 (imgLoop l n) }) s

/-- The band store of transport t: four sets of 64 coefficients (R215). -/
def installBands (d : List Byte) (t : Tid) (s : State) : State :=
  let b := (List.range 256).foldl (fun b i => b.set 0 i (BitVec.ofNat 64 (leAt d (16384 + 2048 * t.val + 8 * i) 8))) ({} : SMap W64)
  modMot t (fun m => { m with bandStore := b }) s

/-- Install an L image (R215): evaluations are suspended; bins are kept. -/
def installL (l : List Byte) (s : State) : State :=
  let d := padTo 32768 (cut l (imgDataAt l) (imgData l))
  let s := { s with
    mrn := { s.mrn with code := memOf (cut l 256 (imgCode l)), fmtid := BitVec.ofNat 16 (imgFmtid l), ev := none }
    images := s.images.set [] 24 l }
  forAll (List.range 32) (installLoop l d) (forAll allT (installBands d) s)

/-- Install an image that has passed its checks. -/
def installImage (l : List Byte) (targets : List Tid) (s : State) : State :=
  if imgProfile l = 0 then forAll targets (installF l) s else installL l s

/-- LOAD_PROGRAM (R269): nothing is installed unless every target passes; the reason goes to the fault log (R62). -/
def loadProgramOp (c : Cmd) (s : State) : State :=
  needVersion c (fun s =>
    match cmdData s c.e c.e.dlen.toNat with
    | none => endCmd c.e.tag stRejected 0 0x08 s
    | some l =>
      let mask := csByte c.e 0x18
      let targets := (setBits 8 mask).map tid
      if imgProfile l = 1 ∧ mask ≠ 0 then endCmd c.e.tag stRejected 0 0x18 s
      else
        match imgError s l targets with
        | none => endCmd c.e.tag stOk 0 0xFFFF (forAll targets startPending (installImage l targets s))
        | some (r, some t) =>
          endCmd c.e.tag hsLoadFailed (BitVec.ofNat 64 (r + 2 ^ 8 * t.val)) 0xFFFF (logFault (unitId 10 t.val) 0 r 0 0 s)
        | some (r, none) =>
          let f := takeFree s
          endCmd c.e.tag hsLoadFailed (BitVec.ofNat 64 (r + 2 ^ 8 * (f.1 % 256))) 0xFFFF (logFault 0xFFFF 0 r 0 0 f.2)) s

/-- At boot, firmware installs an image of the boot flash under the same checks (R63, R215). -/
def installBoot (n : Nat) (targets : List Tid) (s : State) : State :=
  let l := s.images.get [] n
  match imgError s l targets with
  | none => installImage l targets s
  | some (r, t) => logFault ((t.map (fun t => unitId 10 t.val)).getD 0xFFFF) 0 r 0 0 s

/-- A warm reset installs again what was installed before, from the program image store (R321). -/
def reinstallAll (s : State) : State :=
  let s := if s.images.get [] 24 = [] then s else installL (s.images.get [] 24) s
  forAll allT (fun t s => if s.images.get [] (16 + t.val) = [] then s else installF (s.images.get [] (16 + t.val)) t s) s

end Sys2Proof.Machine
end

