-- ==== Sys2Proof/Machine/Media.lean ====
section
/-! DEFINITION. Cartridges: LOAD with its calibration (R148, R149, R267), UNLOAD and FORMAT_VOLUME (R268), and what the tape
holds of a volume when the device lets go of it. -/
namespace Sys2Proof.Machine

/-- A LOAD or UNLOAD of the transport is running. -/
def mediaBusy (s : State) (t : Tid) : Bool := s.hif.cmds.any (fun c => c.active && c.e.opc == 0x08 && csByte c.e 0x18 == t.val)

/-! ### LOAD (R267, R148) -/

/-- 2 tan 9 degrees times 10^15 (R152). -/
abbrev tan9x2 : Nat := 316768880649072

/-- SV_K for a track pitch in nm, and SV_OFF for a reference line at a distance of the P and Q bursts in nm: y = 0 there (R152; the
roundings are open, log entry 9). -/
def svGain (pitch : Nat) : Nat := openQuot (1024 * 120000 * 10 ^ 15) (tan9x2 * pitch)
def svOffset (k ref : Nat) : Nat := openQuot (k * ref) 120000

/-- YSP of a wrap in units of 1/1024 pitch, from its position in nm (R148). -/
def wrapYsp (pitch : Nat) (pos : Int) : BitVec 24 := BitVec.ofInt 24 (openQuotI (1024 * pos) pitch)

/-- The wrap table of MC_NWRAP entries, from the positions in cartridge memory and the track pitch of the head module (R148, R239). -/
def loadWraps (pitch : Nat) (c : Cart) (m : SMap (BitVec 24)) : SMap (BitVec 24) :=
  (List.range c.wraps).foldl (fun m w => m.set 0 w (wrapYsp pitch (c.wrapPos.get 0 w))) m

/-- The calibration dataset header that firmware builds from cartridge memory (R88, R148). -/
def calHeader (c : Cart) : List Byte :=
  (fwDataset c.calFmt.1.toNat c.calFmt.2.1.toNat 0xFFFFFFFF 0 4 c.calFmt.2.2 [] 0 0).take 4096

/-- Step 1: what firmware takes from cartridge memory and the head module's EEPROM, the bins of the repetitive controllers cleared
(R221), the reels tensioned, MODE = 3. -/
def seatCart (t : Tid) (c : Cart) (s : State) : State :=
  let n := t.val
  let pitch := (tpOf s t).head.pitch
  let k := svGain pitch
  let s := setFld (Reg.svK n) Fld.svKK k s
  let s := setFld (Reg.svOffa n) Fld.svOffaOff (svOffset k c.refLine.1) (setFld (Reg.svOffb n) Fld.svOffbOff (svOffset k c.refLine.2) s)
  let s := setFld (Reg.rcZctl n) Fld.rcZctlWraplen c.wrapLen.toNat s
  let s := setFld (Reg.svBow0 n) Fld.svBow0Bow c.bow0.toNat (setFld (Reg.svBow1 n) Fld.svBow1Bow c.bow1.toNat s)
  let s := setFld (Reg.mcNwrap n) Fld.mcNwrapNwrap c.wraps s
  let s := setFld (Reg.mcRad n) Fld.mcRadRada c.radA.toNat (setFld (Reg.mcRad n) Fld.mcRadRadb c.radB.toNat s)
  let s := modMot t (fun m => { m with
    wraps := loadWraps pitch c m.wraps, eotw := c.eotw, botw := c.botw, st := if m.st = .released then .tensioned else m.st
    tensOn := true, armed := none, armGo := false, armMiss := 0, wrap := 0, lv := false, binsA := {}, binsB := {} }) s
  let s := modRc t (fun r => { r with refHead := calHeader c }) s
  setFld (Reg.rcCal n) Fld.rcCalPass 0 (setFld (Reg.rcCal n) Fld.rcCalDir 0 (setRcMode t 3 s))

/-- An index that firmware writes with the installed program (R88, R316): an index-follows mark and its datasets, at positions that
follow one another; where they lie the spec does not say (log entry 37). -/
def fwIndex (fmtid version : Nat) (mask : W64) (first : W32) (wrap : Nat) (b : List Byte) (s : State) (at' : Nat) :
    List TapeItem × Nat × State :=
  let n := extentSlots (maskCount mask)
  let parts := indexParts (b.length + 1) b
  let f := takeFree s
  let m : TapeItem := ⟨some 2, first - 1, wrap, BitVec.ofNat 32 at', 1, []⟩
  let start := at' + f.1
  let ds := parts.zipIdx.map (fun p =>
    let lpos : W32 := BitVec.ofNat 32 (start + p.2 * bitsFrames (slotLen * n))
    let num : W32 := first + BitVec.ofNat 32 p.2
    (⟨none, num, wrap, lpos, bitsFrames (slotLen * n), fwDataset fmtid version num wrap 1 mask (fwSegment 2 0xFFFF p.2 p.1) 1 0⟩ : TapeItem))
  (m :: ds, start + parts.length * bitsFrames (slotLen * n), f.2)

/-- The index entries that a power-fail commit saved become an index after the end-of-data mark, and a new end-of-data mark follows
(R316). -/
def appendSaved (t : Tid) (s : State) : State :=
  let l := s.pwr.savedIdx.get [] t.val
  let q := (tpOf s t).seq
  match (tpOf s t).cart with
  | none => s
  | some c =>
    match volEnd c with
    | none => s
    | some e =>
      if l = [] then s
      else
        let ix := loadIndex c
        let b := indexBytes (ix.gen + 1) c.idxDs l ix.locs
        let eod := c.tape.takeWhile (fun i => !(i.mark == some 0 && i.wrap == e.wrap && i.lpos == e.lpos))
        let old := c.tape.filter (fun i => i.mark == some 0 && i.wrap == e.wrap && i.lpos == e.lpos)
        let f := takeFree s
        let r := fwIndex q.fmtid.toNat q.version.toNat (liveMask (tpOf s t)) (e.last + 1) e.wrap b f.2 (e.lpos.toNat + f.1)
        let last : W32 := e.last + BitVec.ofNat 32 (r.1.length - 1)
        let g := takeFree r.2.2
        let new : TapeItem := ⟨some 0, last, e.wrap, BitVec.ofNat 32 (r.2.1 + g.1), 1, []⟩
        let s := modCart t (fun c => { c with tape := eod ++ old ++ r.1 ++ [new], idxDs := e.last + 1
                                              idxLpos := (r.1[1]?.map (fun i => i.lpos)).getD 0 }) g.2
        { s with pwr := { s.pwr with savedIdx := s.pwr.savedIdx.set [] t.val [] } }

/-- A lane that failed its calibration at this LOAD and at the one before is retired (R149, R324 class 0). -/
def judgeLane (t : Tid) (k : Nat) (s : State) : State :=
  let bad := bitOf (reg s (Reg.rcCalres t.val (k / 32))).toNat (k % 32)
  let n := ((tpOf s t).vfy.lanes.get Lane.reset k).calFails
  let s := modTp t (fun x => { x with vfy := { x.vfy with
    lanes := x.vfy.lanes.set Lane.reset k { x.vfy.lanes.get Lane.reset k with calFails := if bad then min 2 (n + 1) else 0 } } }) s
  if !bad then s
  else
    let d := laneDetail 0xFFFFFFFF k
    let s := logFault (unitId 0 (64 * t.val + k)) 0 2 0 d s
    if 1 ≤ n then retireLane t k 3 d s else s

/-- The learning of a repetitive controller begins again with a new cartridge (R324 class 9). -/
def freshBins (t : Tid) (s : State) : State :=
  forAll [0, 1] (fun r s =>
    let u := unitId 9 (2 * t.val + r)
    let s := if s.flt.retired.contains u then setFld (Reg.mcRc t.val r) Fld.mcRcLearn 1 (markReturned u s) else s
    { s with flt := { s.flt with esc := s.flt.esc.set [] u.toNat [] } }) s

/-- RESULT of LOAD: FMTID and VERSION of the label, 0 without one, and the last DSNUM of the volume (R253). -/
def loadResult (c : Cart) : BitVec 64 :=
  BitVec.ofNat 64 (((cartLabel c).map (fun i => leAt i.bytes 4 4)).getD 0 + 2 ^ 32 * ((volEnd c).map (fun e => e.last.toNat)).getD 0xFFFFFFFF)

/-- Steps 3 and 4: the label is read, the index by PREV, and the append position found; the transport stands tensioned with no start
armed, on the wrap where it last read; its LPOS there is not defined. -/
def loadFinish (t : Tid) (s : State) : State :=
  let s := appendSaved t s
  match (tpOf s t).cart with
  | none => s
  | some c =>
    let f := takeFree s
    let e := volEnd c
    let s := modTp t (fun x => { x with
      loaded := true, formatted := (cartLabel c).isSome
      idx := loadIndex c
      wl := { x.wl with exts := [], lastDs := (e.map (fun v => v.last)).getD 0xFFFFFFFF }
      vfy := { x.vfy with ds := [], rwq := [], slotUse := {} }
      mot := { x.mot with
        wrap := (e.map (fun v => v.wrap)).getD 0, lpos := BitVec.ofNat 32 f.1, still := true, setv := 0, cur := none } }) f.2
    let s := regrant (freshBins t s)
    match s.hif.cmds.find? (fun k => k.active && k.e.opc == 0x08 && csByte k.e 0x18 == t.val) with
    | none => s
    | some k => endCmd k.e.tag stOk (loadResult c) 0xFFFF s

/-- Step 2 of a calibration: Puppeteer's LOCATE to wrap 0 at the run-up distance before LPOS 0 that cartridge memory gives (R148). -/
def calLocate (t : Tid) (c : Cart) (s : State) : State :=
  nextPup t (modMot t (fun m => { m with pup := m.pup ++ [{ MotCur.reset with op := 2, wrap := 0, target := 0 - c.calRun }] }) s)

/-- LOAD (R267): accepted, it raises MEDIA; the calibration passes then end one by one. -/
def loadOp (c : Cmd) (s : State) : State :=
  let t := tid (csByte c.e 0x18)
  if (tpOf s t).loaded ∨ mediaBusy s t = true then endCmd c.e.tag hsBusy 0 0xFFFF s
  else
    match (tpOf s t).cart with
    | none => endCmd c.e.tag hsNotLoaded 0 0xFFFF s
    | some k =>
      if (tpOf s t).head.kind = 0 then endCmd c.e.tag hsNotLoaded 0 0xFFFF s
      else
        needVersion c (fun s =>
          let s := setEvent t evMedia s
          if k.evf2 ∧ (tpOf s t).head.kind = 1 then endCmd c.e.tag hsFormatUnsupported 0 0xFFFF s
          else
            let s := seatCart t k (modCmd c.e.tag (fun x => { x with active := true }) s)
            if k.calRegion then calLocate t k s else loadFinish t (setRcMode t 2 s)) s

/-- The tape has passed LPOS 0-2,047 in the direction of the pass (R148). -/
def passOver (s : State) (t : Tid) (reverse : Bool) : Bool :=
  let p := (tpOf s t).mot.lpos.toInt
  decide ((tpOf s t).mot.cur.map (fun c => c.op) = some 5) && (if reverse then decide (p ≤ 0) else decide (2047 ≤ p))

/-- CALIBRATION_PASS_END (R148, R149): the pass that RC_CAL names has ended; forward then reverse for each band. After the last the tape
stops. -/
def calPassEnd (t : Tid) (band : Nat) (reverse : Bool) (res : List CalLane) (s : State) : State :=
  let n := t.val
  if mediaBusy s t ∧ rcMode s n = 3 ∧ fld s (Reg.rcCal n) Fld.rcCalPass = band ∧ fld s (Reg.rcCal n) Fld.rcCalDir = reverse.toNat
      ∧ passOver s t reverse then
    let s := forAll res (fun c s => if bitOf (tpOf s t).head.missing.toNat c.k.val then s
      else calLane t band reverse.toNat (calResult s t c.k.val reverse c.adc c.preset.toNat) s) s
    if !reverse then setFld (Reg.rcCal n) Fld.rcCalDir 1 s
    else if band + 1 < (if (tpOf s t).head.kind = 2 then 4 else 2) then
      setFld (Reg.rcCal n) Fld.rcCalPass (band + 1) (setFld (Reg.rcCal n) Fld.rcCalDir 0 s)
    else loadFinish t (setRcMode t 2 (forAll (List.range 64) (judgeLane t) s))
  else s

/-! ### UNLOAD and FORMAT_VOLUME (R268) -/

/-- Whether a transport has an open stream. -/
def hasStreams (s : State) (t : Tid) : Bool := (openStreams s).any (fun x => x.2.t == t.val)

/-- Cartridge memory takes the location of the latest index (R89, R268). -/
def recordIndex (t : Tid) (s : State) : State :=
  let i := (tpOf s t).idx
  modCart t (fun c => { c with
    idxDs := i.prev, idxLpos := ((i.places.find? (fun p => p.dsnum == i.prev)).map (fun p => p.lpos)).getD c.idxLpos }) s

/-- UNLOAD: MODE becomes 0 (R145); the tape rewinds to the run-up of wrap 0 and tension is released; a write-disable that R118 ties to the cartridge
ends. -/
def unloadOp (c : Cmd) (s : State) : State :=
  let t := tid (csByte c.e 0x18)
  if hasStreams s t then endCmd c.e.tag hsStreamsOpen 0 0xFFFF s
  else if mediaBusy s t then endCmd c.e.tag hsBusy 0 0xFFFF s
  else if !(tpOf s t).loaded then endCmd c.e.tag hsNotLoaded 0 0xFFFF s
  else
    needVersion c (fun s =>
      let s := setEvent t evMedia s
      if (tpOf s t).mot.st = .faulted ∨ (tpOf s t).mot.st = .stopping then endCmd c.e.tag stMotionFault 0 0xFFFF s
      else
        let s := recordIndex t (setRcMode t 0 (dropMotion t s))
        let v := startSpeed s t
        let s := modTp t (fun x => { x with
          loaded := false, formatted := false, idx := Idx.reset, wrDis := if x.wrDis = 4 then 0 else x.wrDis
          yoyo := { x.yoyo with pause := 0, pauseEnd := false, on := false, out := 0 }
          mot := { x.mot with
            st := .released, tensOn := false, armed := none, armGo := false, armMiss := 0, still := true, setv := 0
            wrap := 0, lpos := 0 - BitVec.ofNat 32 (runUp s t v) } }) s
        endCmd c.e.tag stOk 0 0xFFFF (regrant s)) s

/-- The volume label dataset: one segment of TYPE 1 with the volume identifier and the time of the format in seconds since 1970 (R88);
the segment's SCID and SEQ are open (log entry 37). -/
def labelDataset (fmtid version : Nat) (mask : W64) (volid time scid seq : Nat) : List Byte :=
  fwDataset fmtid version 0 0 3 mask (fwSegment 1 scid seq (leBytes 16 volid ++ leBytes 8 time)) 1 0

/-- The fixed regions of wrap 0 (R88): calibration datasets up to LPOS 2,047, the label, an index-follows mark and an empty index, and
the end-of-data mark. The time of the format, and where what follows the label lies, the spec leaves open (log entry 37). -/
def fixedRegions (t : Tid) (volid : Nat) (s : State) : List TapeItem × State :=
  let x := tpOf s t
  let fm := x.seq.fmtid.toNat
  let ver := x.seq.version.toNat
  let mask := liveMask x
  let frames := bitsFrames (slotLen * extentSlots (maskCount mask))
  let time := takeFree s
  let scid := takeFree time.2
  let seq := takeFree scid.2
  let pos := takeFree seq.2
  let cal : TapeItem := ⟨none, 0xFFFFFFFF, 0, 0, 2048, fwDataset fm ver 0xFFFFFFFF 0 4 mask [] 0 0⟩
  let label : TapeItem := ⟨none, 0, 0, 2048, frames, labelDataset fm ver mask volid time.1 scid.1 seq.1⟩
  let ix := fwIndex fm ver mask 1 0 (indexBytes 1 0xFFFFFFFF [] []) pos.2 (2048 + frames + pos.1)
  let eod := takeFree ix.2.2
  ([cal, label] ++ ix.1 ++ [⟨some 0, 1, 0, BitVec.ofNat 32 (ix.2.1 + eod.1), 1, []⟩], eod.2)

/-- FORMAT_VOLUME (R88, R268): MODE is 1 while it writes and 2 at its end (R145); the fixed regions of R88 replace any earlier volume, in
the format of the installed program. -/
def formatOp (c : Cmd) (s : State) : State :=
  let t := tid (csByte c.e 0x18)
  let q := (tpOf s t).seq
  if !(tpOf s t).loaded then endCmd c.e.tag hsNotLoaded 0 0xFFFF s
  else if hasStreams s t then endCmd c.e.tag hsStreamsOpen 0 0xFFFF s
  else if writeDisabled s t then endCmd c.e.tag hsWriteDisabled 0 0xFFFF s
  else if q.fmtid = 0 then endCmd c.e.tag stRejected 0 0x18 s
  else
    needVersion c (fun s =>
      let r := fixedRegions t (csField c.e 0x20 16) (setRcMode t 1 s)
      let g := takeFree r.2
      let s := modCart t (fun k => { k with
        evf2 := q.fmtid == 2, tape := r.1, calRegion := true, calFmt := (q.fmtid, q.version, liveMask (tpOf s t)), idxDs := 1
        idxLpos := (r.1[3]?.map (fun i => i.lpos)).getD 0 }) g.2
      let s := modTp t (fun x => { x with
        formatted := true
        idx := { Idx.reset with gen := 1, prev := 1, locs := (r.1.filter inSequence).map itemLoc, places := (r.1.filter inSequence).map itemLoc }
        wl := { x.wl with exts := [], lastDs := 1 }
        mot := { x.mot with wrap := 0, lpos := BitVec.ofNat 32 g.1, armed := none, armGo := false, armMiss := 0 } }) s
      endCmd c.e.tag stOk 0 0xFFFF (setRcMode t 2 s)) s

end Sys2Proof.Machine
end

