-- ==== Sys2Proof/Machine/SysArea.lean ====
section
/-! DEFINITION. The structures of the system areas that agents see as memory (R285): the buffer records of every group (R187) and the
stream contexts of the home and mirror groups (R167, R175). Each has one home in State; a read of its place shows its image and a write
there changes it (log entry 43). -/
namespace Sys2Proof.Machine

/-- The home group's structures begin here in a group (R285). -/
abbrev homeStructs : Nat := 0x3000000

/-! ### Images -/

/-- The bytes of a token list entry (R167). -/
def tokenBytes (k : W32 × Nat) : List Byte := leBytes 4 k.1.toNat ++ leBytes 4 (k.2 % 2 ^ 24)

/-- Code lengths, two to a byte, the lower-numbered code in bits [3:0] (R175). -/
def lensBytes : List Nat → List Byte
  | [] => []
  | [a] => [BitVec.ofNat 8 (a % 16)]
  | a :: b :: l => BitVec.ofNat 8 (a % 16 + 16 * (b % 16)) :: lensBytes l

/-- The decoder state in bytes 0x18-0x4F of a read-direction context: the spec lists what they hold and not where, so their bytes are
free (R175, log entry 43). -/
def decoderBytes (c : Ctx) : List Byte :=
  let d := c.dec
  (List.range 56).map (fun i => Config.decoderByte i ([d.bits, d.out, c.rcrc.toNat, d.off, d.rest, d.dist, d.left, d.typ] ++ d.trl.map (fun b => b.toNat)))

/-- Bytes 0x00-0x17 of a context (R167). -/
def ctxHead (scid : Nat) (c : Ctx) : List Byte :=
  leBytes 2 scid ++ [BitVec.ofNat 8 c.dir.toNat, c.coding, c.winlog, c.codeSel, c.level,
    BitVec.ofNat 8 (c.hvalid.toNat + 2 * c.inrec.toNat + 4 * c.prec.toNat)]
    ++ leBytes 8 c.pend.toNat ++ leBytes 1 c.pcnt ++ leBytes 1 c.toks.length ++ [0, 0] ++ leBytes 4 c.hbase.toNat

/-- Bytes 0x18-0xFF of a context: the write fields (R167), or the decoder state and the code lengths of the dynamic block (R175). -/
def ctxBody (c : Ctx) : List Byte :=
  if c.dir then decoderBytes c ++ zeros 8 ++ (if c.dec.typ = 3 then lensBytes (c.dec.ll ++ c.dec.dl) else [])
  else leBytes 8 c.rin ++ leBytes 8 c.rout ++ leBytes 4 c.rcrc.toNat ++ leBytes 4 c.seq.toNat ++ leBytes 16 c.objid.toNat
    ++ leBytes 8 c.hbytes ++ leBytes 4 c.lastuse.toNat

/-- The 512 bytes of a stream context (R167); one never opened is zero. -/
def ctxImage (scid : Nat) (c : Ctx) : List Byte :=
  if c = Ctx.reset then zeros 512
  else padTo 256 (ctxHead scid c ++ ctxBody c) ++ padTo 256 (c.toks.flatMap tokenBytes)

/-- The 16 bytes of a buffer record (R187). -/
def recImage (r : BufRec) : List Byte := leBytes 16 (recBits r).toNat

/-! ### From images -/

/-- The token list that 256 bytes hold, NTOK of them. -/
def tokensOf (n : Nat) (l : List Byte) : List (W32 × Nat) :=
  (List.range n).map (fun i => (BitVec.ofNat 32 (leAt l (8 * i) 4), leAt l (8 * i + 4) 3))

/-- The code lengths that bytes hold, n of them. -/
def lensOf (n : Nat) (l : List Byte) : List Nat :=
  (List.range n).map (fun i => fieldOf ((l.getD (i / 2) 0).toNat) (4 * (i % 2)) 4)

/-- A context as its image says; the decoder state, whose places are not given, stays. -/
def ctxOfImage (c : Ctx) (l : List Byte) : Ctx :=
  let b (o n : Nat) := leAt l o n
  let c : Ctx := { c with
    dir := bitOf (b 2 1) 0, coding := BitVec.ofNat 8 (b 3 1), winlog := BitVec.ofNat 8 (b 4 1), codeSel := BitVec.ofNat 8 (b 5 1)
    level := BitVec.ofNat 8 (b 6 1), hvalid := bitOf (b 7 1) 0, inrec := bitOf (b 7 1) 1, prec := bitOf (b 7 1) 2
    pend := BitVec.ofNat 64 (b 8 8), pcnt := b 16 1 % 64, toks := tokensOf (min 32 (b 17 1)) (l.drop 256), hbase := BitVec.ofNat 32 (b 20 4) }
  if c.dir then
    let x := lensOf (c.dec.ll.length + c.dec.dl.length) (l.drop 0x58)
    if c.dec.typ = 3 then { c with dec := { c.dec with ll := x.take c.dec.ll.length, dl := x.drop c.dec.ll.length } } else c
  else { c with
    rin := b 24 8, rout := b 32 8, rcrc := BitVec.ofNat 32 (b 40 4), seq := BitVec.ofNat 32 (b 44 4), objid := BitVec.ofNat 128 (b 48 16)
    hbytes := b 64 8, lastuse := BitVec.ofNat 32 (b 72 4) }

/-- A buffer record as its image says. -/
def recOfImage (r : BufRec) (l : List Byte) : BufRec :=
  let v := leNat l
  { r with
    st := match fieldOf v 0 2 with
      | 0 => .free
      | 1 => .allocated
      | _ => .quarantined
    retiring := bitOf v 2, gen := BitVec.ofNat 8 (fieldOf v 4 8), owner := BitVec.ofNat 4 (fieldOf v 12 4)
    hold := (List.range 12).foldl (fun m a => m.set 0 a (fieldOf v (32 + 8 * a) 8)) {} }

/-! ### Places -/

/-- What lies at an address of a system area: a buffer record, or a stream context, with the address's offset in it. -/
inductive SysPlace where
  | record (id off : Nat)
  | context (scid off : Nat)
deriving DecidableEq, Repr

/-- The record of index j whose copy begins base bytes into group g. -/
def recordPlace (s : State) (g o base : Nat) : Option SysPlace :=
  if base ≤ o ∧ o < base + 0x1000000 ∧ (classOf s (g * 2 ^ 20 + (o - base) / 16)).isSome then
    some (.record (g * 2 ^ 20 + (o - base) / 16) ((o - base) % 16))
  else none

/-- The structure at an address (R285): both copies of a group's records, and the contexts of the home group and of its mirror. -/
def sysPlace (s : State) (a : Nat) : Option SysPlace :=
  if a < groupAddr 0 then none
  else
    let g := (a - groupAddr 0) / 0x400000000
    let o := a - groupAddr g
    match recordPlace s g o 0 <|> recordPlace s g o 0x1000100 with
    | some p => some p
    | none =>
      if homeStructs ≤ o ∧ o < 0x5000000 ∧ (g = s.mem.home ∨ (g = s.mem.mirror ∧ s.mem.mirrored = true)) then
        some (.context ((o - homeStructs) / 512) ((o - homeStructs) % 512))
      else none

/-- The byte of a structure at an address; none where no structure lies. -/
def sysByte (s : State) (a : Nat) : Option Byte := match sysPlace s a with
  | some (.record id o) => (recImage (bufRec s id))[o]?
  | some (.context k o) => (ctxImage k (ctxOf s k))[o]?
  | none => none

/-- Bytes read from an address as agents see them; a poisoned line shows its poison. -/
def sysView (s : State) (a : Nat) (l : List Byte) : List Byte :=
  l.mapIdx (fun i b => if s.mem.poison.contains ((a + i) / 128) then b else (sysByte s (a + i)).getD b)

/-- One byte is written to a structure. -/
def sysWriteByte (a : Nat) (b : Byte) (s : State) : State := match sysPlace s a with
  | some (.record id o) => setBuf id (recOfImage (bufStored s id) ((recImage (bufRec s id)).set o b)) s
  | some (.context k o) => modCtx k (fun c => ctxOfImage c ((ctxImage k c).set o b)) s
  | none => s

/-- Bytes written to an address reach the structures that lie there. -/
def sysWrite : Nat → List Byte → State → State
  | _, [], s => s
  | a, b :: l, s => sysWrite (a + 1) l (sysWriteByte a b s)

end Sys2Proof.Machine
end

