-- ==== Sys2Proof/Machine/MemOps.lean ====
section
/-! DEFINITION. The context cache and its scratchpad (R288-R295), the system areas behind it with their mirror copies (R285, R286,
R298), the scrubber (R299), flips and remaps (R300, R303). -/
namespace Sys2Proof.Machine

/-- Change the context cache. -/
def modCache (f : Cache → Cache) (s : State) : State := { s with cache := f s.cache }

/-! ### System areas in HBM -/

/-- The mirror copy of an address in the home group's structures, while mirroring is active (R285, R286). -/
def mirrorOf (s : State) (a : Nat) : Option Nat :=
  match groupOfAddr s a with
  | none => none
  | some g =>
    let o := a - groupAddr g
    if s.mem.mirrored ∧ g = s.mem.home ∧ homeStructs ≤ o ∧ o < systemArea then some (groupAddr s.mem.mirror + o) else none

/-- Bytes reach a system area; writes to the home group's structures are made to the mirror group too. -/
def sysPut (a : Nat) (l : List Byte) (s : State) : State :=
  match mirrorOf s a with
  | none => hbmPut a l s
  | some b => hbmPut b l (hbmPut a l s)

/-- The other copy of a buffer record (R285). -/
def recordTwin (s : State) (a : Nat) : Option Nat :=
  match groupOfAddr s a with
  | none => none
  | some g =>
    let o := a - groupAddr g
    if o < 0x1000000 then some (a + 0x1000100)
    else if 0x1000100 ≤ o ∧ o < 0x2000100 then some (a - 0x1000100) else none

/-- The BUFID whose record a copy at an address belongs to. -/
def recordOwner (s : State) (a : Nat) : Option Nat :=
  match groupOfAddr s a with
  | none => none
  | some g =>
    let o := a - groupAddr g
    if o < 0x1000000 then some (g * 2 ^ 20 + o / 16)
    else if 0x1000100 ≤ o ∧ o < 0x2000100 then some (g * 2 ^ 20 + (o - 0x1000100) / 16) else none

/-- A good copy of a beat elsewhere: none of its bits wrong, its line not poisoned. -/
def beatGood (s : State) (a : Nat) : Bool := s.mem.bad.get 0 (a / 8) == 0 && !s.mem.poison.contains (a / 128)

/-- An uncorrectable beat outside the buffers is read from its other copy, or its line is poisoned (R298). -/
def repairBeat (a : Nat) (s : State) : State :=
  match recordTwin s a with
  | some b =>
    if beatGood s b then hbmPut a (hbmGet s b 8) s
    else
      match recordOwner s a with
      | some k => setBuf k { bufStored s k with st := .quarantined, badRec := true } s
      | none => s
  | none =>
    match mirrorOf s a with
    | some b => if beatGood s b then hbmPut a (hbmGet s b 8) s else poisonLine (a / 128) s
    | none => poisonLine (a / 128) s

/-- A beat in error outside the buffers is met by a read (R296, R298). -/
def meetSys (f : Fld) (b : Nat × Nat) (s : State) : State :=
  if b.2 = 1 then bumpFld Reg.memCecnt Fld.memCecntHbm { s with mem := { s.mem with bad := s.mem.bad.set 0 b.1 0 } }
  else
    let a := b.1 * 8
    let u := unitId 4 (pseudoOf a)
    faultEvent u 0 (BitVec.ofNat 64 a) (repairBeat a (memError f u a s))

/-- Read the 128-byte line that the cache fills, with its errors handled. -/
def readLine (line : Nat) (s : State) : List Byte × State :=
  let s := forAll (s.mem.bad.range (line * 16) 16) (meetSys Fld.memErrHbmUe) s
  let s := if s.mem.poison.contains line then memError Fld.memErrPoisonRd (unitId 4 (pseudoOf (line * 128))) (line * 128) s else s
  (hbmGet s (line * 128) 128, s)

/-! ### Lookup (R288) -/

/-- The set of an address: A[19:7] XOR (A[37:34] << 9). -/
def cacheSet (line : Nat) : Nat := (line % 8192) ^^^ ((line / 2 ^ 27) % 16 * 512)

/-- The cache works: enabled in INV mode, always in PWRDN mode (R293). -/
def cacheOn (s : State) : Bool := s.ccMode || s.cache.enabled

/-- A way is enabled for caching: powered, not retired, not scratchpad, not being cleaned (R289). -/
def wayOn (s : State) (w : Nat) : Bool :=
  (!s.ccMode || bitOf s.cache.pwr.toNat w) && !bitOf s.cache.ret.toNat w && !(8 ≤ w && bitOf s.cache.sp.toNat (w - 8))
    && !s.cache.clean.any (fun c => c.1 == w)

/-- The line held at a set and way. -/
def lineAt (s : State) (set w : Nat) : Line := s.cache.lines.get Line.reset (16 * set + w)

/-- Put a line at a set and way. -/
def putLine (set w : Nat) (l : Line) (s : State) : State := modCache (fun c => { c with lines := c.lines.set Line.reset (16 * set + w) l }) s

/-- The way that holds a line. -/
def wayOf (s : State) (line : Nat) : Option Nat :=
  (List.range 16).find? (fun w => (lineAt s (cacheSet line) w).valid && (lineAt s (cacheSet line) w).tag == line)

/-- Bytes [o, o + l.length) of a list replaced. -/
def patch (b : List Byte) (o : Nat) (l : List Byte) : List Byte := b.take o ++ l.take (b.length - o) ++ b.drop (o + l.length)

/-! ### Errors in the cache's own memory (R296, R303) -/

/-- An armed flip of way w's data macro corrupts the next line written to the way (R303). -/
def flipWay (w set : Nat) (s : State) : State :=
  if s.mem.flipArm ∧ fld s Reg.memFlipsel Fld.memFlipselKind = 0 ∧ fld s Reg.memFlipsel Fld.memFlipselTarget = 2 * w then
    { s with mem := { s.mem with flipArm := false, sramBad := s.mem.sramBad.set 0 (2 * w * 65536 + set) (flipBits s) } }
  else { s with mem := { s.mem with sramBad := s.mem.sramBad.set 0 (2 * w * 65536 + set) 0 } }

/-- Write a line's content into a way. -/
def storeLine (set w : Nat) (l : Line) (s : State) : State := flipWay w set (putLine set w l s)

/-- A dirty line is written back at once (R293, R294). -/
def writeBack (l : Line) (s : State) : State :=
  if l.valid ∧ l.dirty then modCache (fun c => { c with wbacks := c.wbacks + 1 }) (sysPut (l.tag * 128) l.bytes s) else s

/-- What a hit meets in the way's memory: a correction, or an uncorrectable word, after which the line is gone (R296). Answers
whether the line still serves. -/
def checkLine (line w : Nat) (s : State) : Bool × State :=
  let set := cacheSet line
  let k := 2 * w * 65536 + set
  let n := s.mem.sramBad.get 0 k
  if n = 0 then (true, s)
  else
    let s := { s with mem := { s.mem with sramBad := s.mem.sramBad.set 0 k 0 } }
    if n = 1 then (true, bumpFld Reg.memCecnt Fld.memCecntSram s)
    else
      let l := lineAt s set w
      let s := sramEvent (2 * w) set (memError Fld.memErrSramUe (unitId 5 (2 * w)) k (putLine set w Line.reset s))
      if l.dirty then (false, poisonLine line s) else (false, bumpFld Reg.memCecnt Fld.memCecntRefetch s)

/-! ### Misses (R289-R291) -/

/-- The way a new line goes into: the lowest invalid one enabled for caching, else the one at the set's pointer; a way reserved for
another fill is passed over. -/
def victimWay (s : State) (set : Nat) : Option Nat :=
  let free (w : Nat) : Bool := wayOn s w && !s.cache.fills.any (fun f => f.set == set && f.way == w)
  match (List.range 16).find? (fun w => free w && !(lineAt s set w).valid) with
  | some w => some w
  | none =>
    let p := s.cache.rr.get 0 set
    ((List.range 16).map (fun i => (p + i) % 16)).find? free

/-- The next way enabled for caching after the set's pointer. -/
def nextRr (s : State) (set : Nat) : Nat :=
  let p := s.cache.rr.get 0 set
  (((List.range 16).map (fun i => (p + 1 + i) % 16)).find? (wayOn s)).getD p

/-- A miss can be taken now: a way, a miss-queue entry, and room in the eviction buffer for a dirty victim. -/
def missFits (s : State) (line : Nat) : Option Nat :=
  match victimWay s (cacheSet line) with
  | none => none
  | some w =>
    let v := lineAt s (cacheSet line) w
    if 64 ≤ s.cache.fills.length ∨ (v.valid = true ∧ v.dirty = true ∧ 16 ≤ s.cache.evict.length) then none else some w

/-- Allocate a line: the victim leaves, a dirty one for the eviction buffer, and the fill waits for its write (R289, R291). -/
def allocLine (line w : Nat) (prefetch : Bool) (s : State) : State :=
  let set := cacheSet line
  let v := lineAt s set w
  let dirty := v.valid && v.dirty
  let s := modCache (fun c => { c with
    evict := if dirty then c.evict ++ [(v.tag, v.bytes)] else c.evict
    fills := c.fills ++ [⟨line, set, w, prefetch, if dirty then some v.tag else none⟩] }) s
  let s := putLine set w Line.reset s
  let n := nextRr s set
  modCache (fun c => { c with rr := c.rr.set 0 set n }) s

/-- A line is absent: not cached, not being filled, not being evicted. -/
def lineAbsent (s : State) (line : Nat) : Bool :=
  (wayOf s line).isNone && !s.cache.fills.any (fun f => f.line == line) && !s.cache.evict.any (fun e => e.1 == line)

/-- A read miss on X fetches X + 1 of the same 4 KiB page too, where it is absent and the miss queue has room. -/
def prefetchNext (line : Nat) (s : State) : State :=
  if (line + 1) % 32 = 0 ∨ !lineAbsent s (line + 1) then s
  else
    match missFits s (line + 1) with
    | none => s
    | some w => allocLine (line + 1) w true s

/-- The streaming count of an agent after an access (R290). -/
def countStream (a : CAgent) (line : Nat) (write : Bool) : CAgent :=
  if !write then { a with count := 0 }
  else if line = a.lastW + 1 then { lastW := line, count := min 16 (a.count + 1) }
  else { lastW := line, count := 0 }

/-- Data of the line of an address served to an agent, with the structures that lie there (R285). -/
def serve (agent addr : Nat) (l : List Byte) (s : State) : State :=
  modCache (fun c => { c with reads := (agent, addr, sysView s (addr / 128 * 128) l) :: c.reads }) s

/-- An access to memory behind the cache's back. -/
def directAccess (r : MissReq) (s : State) : State :=
  match r.wr with
  | some l => sysPut r.addr l s
  | none =>
    let q := readLine (r.addr / 128) s
    serve r.agent r.addr q.1 q.2

/-- A hit in way w. -/
def hitAccess (r : MissReq) (w : Nat) (s : State) : State :=
  let line := r.addr / 128
  let l := lineAt s (cacheSet line) w
  let s := modCache (fun c => { c with hits := c.hits + 1 }) s
  match r.wr with
  | none => serve r.agent r.addr l.bytes s
  | some b => storeLine (cacheSet line) w { l with dirty := true, bytes := patch l.bytes (r.addr % 128) b } s

/-- A miss: the request waits where it cannot be taken; a streaming write miss is not allocated (R289-R291). -/
def missAccess (r : MissReq) (s : State) : State :=
  let line := r.addr / 128
  let wait (s : State) : State := modCache (fun c => { c with waits := c.waits ++ [r] }) s
  if s.cache.evict.any (fun e => e.1 == line) || s.cache.fills.any (fun f => f.line == line) then wait s
  else
    let s := modCache (fun c => { c with misses := c.misses + 1 }) s
    if r.wr.isSome ∧ 16 ≤ (s.cache.agents.get CAgent.reset r.agent).count then directAccess r s
    else
      match missFits s line with
      | none => wait s
      | some w =>
        let s := wait (allocLine line w false s)
        if r.wr.isNone then prefetchNext line s else s

/-- One access of an agent to a system area (R288). -/
def cacheLookup (r : MissReq) (s : State) : State :=
  let line := r.addr / 128
  if !cacheOn s then directAccess r s
  else
    match wayOf s line with
    | none => missAccess r s
    | some w =>
      let q := checkLine line w s
      if q.1 then hitAccess r w q.2 else missAccess r q.2

/-- CACHE_ACCESS: an access outside the system areas bypasses the cache, one outside HBM is rejected (R284, R288). -/
def cacheAccess (agent addr : Nat) (wr : Option (List Byte)) (s : State) : State :=
  let r : MissReq := ⟨agent, addr, wr.map (fun l => l.take (128 - addr % 128))⟩
  match groupOfAddr s addr with
  | none => badAddress addr s
  | some _ =>
    if inSystem s addr then
      let s := sysWrite addr (r.wr.getD []) s
      let a := countStream (s.cache.agents.get CAgent.reset agent) (addr / 128) wr.isSome
      cacheLookup r (modCache (fun c => { c with agents := c.agents.set CAgent.reset agent a }) s)
    else
      match r.wr with
      | some l => hbmPut addr l s
      | none => serve agent addr (hbmGet (demandRead (addr / 128 * 128) 128 s).2 (addr / 128 * 128) 128) (demandRead (addr / 128 * 128) 128 s).2

/-- The requests whose line is neither being filled nor being evicted any more are taken again, in their order. -/
def retryWaits (s : State) : State :=
  let ready (r : MissReq) : Bool := !s.cache.fills.any (fun f => f.line == r.addr / 128) && !s.cache.evict.any (fun e => e.1 == r.addr / 128)
  let l := s.cache.waits.filter ready
  forAll l cacheLookup (modCache (fun c => { c with waits := c.waits.filter (fun r => !ready r) }) s)

/-- CACHE_FILL (R289): the line arrives and serves the requests that wait for it. -/
def cacheFill (line : Nat) (s : State) : State :=
  match s.cache.fills.find? (fun f => f.line == line && f.blocked.isNone) with
  | none => s
  | some f =>
    let q := readLine line s
    let mine := q.2.cache.waits.filter (fun r => r.addr / 128 == line)
    let s := modCache (fun c => { c with fills := c.fills.erase f, waits := c.waits.filter (fun r => r.addr / 128 != line) }) q.2
    let s := storeLine f.set f.way { valid := true, dirty := false, tag := line, bytes := q.1 } s
    let s := forAll mine (fun r s =>
      let l := lineAt s f.set f.way
      match r.wr with
      | none => serve r.agent r.addr l.bytes s
      | some b => putLine f.set f.way { l with dirty := true, bytes := patch l.bytes (r.addr % 128) b } s) s
    retryWaits s

/-! ### Snoops and evictions (R291, R292) -/

/-- A write of bytes within one line that reaches an HBM controller past the cache (R292). -/
def snoopOne (addr : Nat) (l : List Byte) (scrub : Bool) (s : State) : State :=
  let line := addr / 128
  let s := if scrub then s else sysWrite addr l s
  if !inSystem s addr then hbmPut addr l s
  else if s.cache.evict.any (fun e => e.1 == line) then modCache (fun c => { c with snoopHeld := c.snoopHeld ++ [(addr, l)] }) s
  else
    match wayOf s line with
    | none => sysPut addr l s
    | some w =>
      let x := lineAt s (cacheSet line) w
      if !x.dirty then sysPut addr l (putLine (cacheSet line) w Line.reset s)
      else if scrub then s
      else sysPut addr l (putLine (cacheSet line) w { x with bytes := patch x.bytes (addr % 128) l } s)

/-- The same for bytes over several lines; fuel bounds the lines. -/
def snoopBytes (scrub : Bool) : Nat → Nat → List Byte → State → State
  | 0, _, _, s => s
  | _ + 1, _, [], s => s
  | n + 1, addr, b :: l, s =>
    let k := 128 - addr % 128
    snoopBytes scrub n (addr + k) ((b :: l).drop k) (snoopOne addr ((b :: l).take k) scrub s)

/-- SNOOP_WRITE. -/
def snoopWrite (addr : Nat) (l : List Byte) (scrub : Bool) (s : State) : State :=
  match groupOfAddr s addr with
  | none => badAddress addr s
  | some _ => snoopBytes scrub l.length addr l s

/-- EVICTION_ACCEPT (R291): the write goes to memory, held snoops of the line follow, fills it blocked are issued, and requests
that stalled on it proceed. -/
def evictionAccept (line : Nat) (s : State) : State :=
  match s.cache.evict.find? (fun e => e.1 == line) with
  | none => s
  | some e =>
    let s := modCache (fun c => { c with
      evict := c.evict.erase e, wbacks := c.wbacks + 1
      fills := c.fills.map (fun f => if f.blocked == some line then { f with blocked := none } else f) }) s
    let s := sysPut (line * 128) e.2 s
    let held := s.cache.snoopHeld.filter (fun h => h.1 / 128 == line)
    let s := modCache (fun c => { c with snoopHeld := c.snoopHeld.filter (fun h => h.1 / 128 != line) }) s
    retryWaits (forAll held (fun h => snoopOne h.1 h.2 true) s)

/-! ### Control (R293, R294) -/

/-- Lines of the cache that fit a condition on set, way and line. -/
def linesWhere (s : State) (p : Nat → Line → Bool) : List (Nat × Line) := s.cache.lines.cells.filter (fun c => c.2.valid && p (c.1 % 16) c.2)

/-- Write back the dirty ones of some lines, and invalidate them or keep them clean. -/
def cleanSome (p : Nat → Line → Bool) (back keep : Bool) (s : State) : State :=
  forAll (linesWhere s p) (fun c s =>
    let s := if back then writeBack c.2 s else s
    putLine (c.1 / 16) (c.1 % 16) (if keep then { c.2 with dirty := false } else Line.reset) s) s

/-- A way being cleaned is clean: its dirty lines are written back and it holds nothing (R293). -/
def emptyWay (w : Nat) (s : State) : State :=
  let s := cleanSome (fun v _ => v == w) true false s
  modCache (fun c => { c with clean := c.clean.filter (fun x => x.1 != w) }) s

/-- CC_INIT (R293): INV mode only. -/
def ccInit (s : State) : State := if s.ccMode then s else modCache (fun c => { c with initBusy := true, initDone := false }) s

/-- CC_INIT_DONE. -/
def ccInitDone (s : State) : State :=
  if s.cache.initBusy then modCache (fun c => { c with lines := {}, rr := {}, initBusy := false, initDone := true }) s else s

/-- CC_ENABLE (R293). -/
def ccEnable (en : Bool) (s : State) : State :=
  if s.ccMode then s
  else if en then (if s.cache.initDone then modCache (fun c => { c with enabled := true }) s else logAccess Reg.ccCtrl s)
  else modCache (fun c => { c with enabled := false }) (cleanSome (fun _ _ => true) true true s)

/-- CC_WAY_POWER (R293): PWRDN mode only. -/
def ccWayPower (ways : BitVec 16) (s : State) : State :=
  if !s.ccMode then s
  else
    let down := (List.range 16).filter (fun w => bitOf s.cache.pwr.toNat w && !bitOf ways.toNat w)
    let up := (List.range 16).filter (fun w => !bitOf s.cache.pwr.toNat w && bitOf ways.toNat w)
    let s := forAll up (fun w s => if s.cache.clean.any (fun c => c.1 == w && c.2 == 0) then emptyWay w s else s) s
    modCache (fun c => { c with pwr := ways, clean := c.clean ++ down.map (fun w => (w, 0)) }) s

/-- CC_WAY_RETIRE (R293): a bit once set stays. -/
def ccWayRetire (ways : BitVec 16) (s : State) : State := forAll (setBits 16 ways.toNat) retireWay s

/-- CC_WAY_CLEAN_DONE (R293). -/
def ccWayCleanDone (w : Nat) (s : State) : State := if s.cache.clean.any (fun c => c.1 == w && c.2 != 2) then emptyWay w s else s

/-- A range operation (R294): cmd 1 cleans, 2 cleans and invalidates, 3 discards. -/
def ccRange (cmd : Nat) (s : State) : State :=
  if s.cache.rngBusy then logAccess Reg.ccRngcmd s
  else
    let b := pair s (Reg.ccRngbase 0) (Reg.ccRngbase 1) / 128
    let n := fld s Reg.ccRnglen Fld.ccRnglenLines
    let s := setFld Reg.ccRngcmd Fld.ccRngcmdCmd cmd (modCache (fun c => { c with rngBusy := true }) s)
    cleanSome (fun _ l => decide (b ≤ l.tag ∧ l.tag < b + n)) (cmd != 3) (cmd == 1) s

/-- CC_RANGE_WALK_DONE. -/
def ccRangeDone (s : State) : State := modCache (fun c => { c with rngBusy := false }) s

/-- CC_SCRATCHPAD (R295): ways to scratchpad are cleaned first; ways back to caching start with every tag invalid. -/
def ccScratchpad (sp : BitVec 8) (s : State) : State :=
  let on := (List.range 8).filter (fun i => !bitOf s.cache.sp.toNat i && bitOf sp.toNat i)
  let off := (List.range 8).filter (fun i => bitOf s.cache.sp.toNat i && !bitOf sp.toNat i)
  let s := forAll off (fun i s => modCache (fun c => { c with spMem := c.spMem.clear (i * 2 ^ 20) (2 ^ 20) }) (emptyWay (8 + i) s)) s
  modCache (fun c => { c with
    sp := sp, spReady := c.spReady &&& sp, clean := c.clean ++ on.map (fun i => (8 + i, 2)) }) s

/-- SCRATCHPAD_READY (R295). -/
def scratchpadReady (i : Nat) (s : State) : State :=
  if s.cache.clean.any (fun c => c.1 == 8 + i && c.2 == 2) then
    modCache (fun c => { c with spMem := c.spMem.clear (i * 2 ^ 20) (2 ^ 20), spReady := c.spReady ||| BitVec.ofNat 8 (2 ^ i) }) (emptyWay (8 + i) s)
  else s

/-- The scratchpad window (R284). -/
abbrev spWindow : Nat := 0x001000000000

/-- SCRATCHPAD_ACCESS (R295): only Puppeteer and the slices reach the window; a slot not ready reads zero, and the access is
logged. -/
def scratchpadAccess (agent addr : Nat) (wr : Option (List Byte)) (s : State) : State :=
  let o := addr - spWindow
  if addr < spWindow ∨ 0x800000 ≤ o ∨ !(agent == 3 || decide (4 ≤ agent ∧ agent < 12)) then badAddress addr s
  else if bitOf s.cache.spReady.toNat (o / 2 ^ 20) then
    match wr with
    | some l => modCache (fun c => { c with spMem := c.spMem.write 0 o (l.take (128 - o % 128)) }) s
    | none => serve agent addr (s.cache.spMem.read 0 (o / 128 * 128) 128) s
  else
    let s := logAccess addr s
    match wr with
    | some _ => s
    | none => serve agent addr (zeros 128) s

/-! ### The scrubber (R299) -/

/-- Bytes of group g that the scrubber reads: all of it, or the system area of a retired group. -/
def scrubEnd (s : State) (g : Nat) : Nat := if groupRetired s g then systemArea else groupBytes

/-- The address after a line, and whether the pass is complete. -/
def scrubNext (s : State) (a : Nat) : Nat × Bool :=
  let g := (a - groupAddr 0) / 0x400000000
  if a + 128 < groupAddr g + scrubEnd s g then (a + 128, false)
  else if g + 1 < groupCount s then (groupAddr (g + 1), false)
  else (groupAddr 0, true)

/-- A correction or poison of the scrubber that meets a dirty cached copy is dropped (R292). -/
def scrubBeat (b : Nat × Nat) (s : State) : State :=
  let a := b.1 * 8
  if inSystem s a then
    match wayOf s (a / 128) with
    | some w => if (lineAt s (cacheSet (a / 128)) w).dirty then s else meetSys Fld.memErrScrubUe b (putLine (cacheSet (a / 128)) w Line.reset s)
    | none => meetSys Fld.memErrScrubUe b s
  else meetBeat Fld.memErrScrubUe b s

/-- SCRUB_LINE: it starts only after the sweep, and pauses in PS2 and PS3. -/
def scrubLine (s : State) : State :=
  if fld s Reg.scrCfg Fld.scrCfgEn = 1 ∧ s.mem.swept = true ∧ s.hif.ps < 2 then
    let a := s.mem.scrPos
    let before := s.mem.poison.length
    let s := forAll (s.mem.bad.range (a / 8) 16) scrubBeat s
    let s := if before < s.mem.poison.length then bumpFld Reg.scrStat Fld.scrStatUecnt s else s
    let n := scrubNext s a
    let s := if n.2 then setFld Reg.scrStat Fld.scrStatPasses (fld s Reg.scrStat Fld.scrStatPasses + 1) s else s
    { s with mem := { s.mem with scrPos := n.1 } }
  else s

/-! ### Flips and remaps (R300, R303) -/

/-- Whether a flip target names a memory of this part: a pseudo-channel is one of those the stacks have (R35, R16). -/
def flipTargetFits (s : State) (sel : BitVec 13) : Bool :=
  fieldB sel 12 1 == 0 || decide (fieldB sel 0 12 < if s.hbmStacks = 1 then 64 else 128)

/-- MEM_FLIP_ARM (R303): [11:0] TARGET, [12] KIND; an invalid target is rejected (R35). -/
def memFlipArm (sel : BitVec 13) (s : State) : State :=
  if !flipTargetFits s sel then logAccess Reg.memFlipsel s
  else
  let s := setFld Reg.memFlipsel Fld.memFlipselTarget (fieldB sel 0 12) (setFld Reg.memFlipsel Fld.memFlipselKind (fieldB sel 12 1) s)
  { s with mem := { s.mem with flipArm := true } }

end Sys2Proof.Machine
end

