-- ==== Sys2Proof/Machine/Ml1.lean ====
section
/-! DEFINITION. ML-1, the shipped loop image (R208, R215, R217, R222, R223): its programs by the laws that the spec gives, its
coefficients free. DESIGN CHOICE: the spec gives the laws and not the code (log entry 45). -/
namespace Sys2Proof.Machine

/-! ### Writing a program -/

/-- A 16-bit immediate. -/
def mlImm (n : Nat) : BitVec 16 := BitVec.ofNat 16 n
/-- An ALU instruction. -/
def mlAlu (func : Nat) (rd ra rb : BitVec 5) : LInstr := .reg rd ra rb (BitVec.ofNat 11 func)
/-- ADDS. -/
def mlAdd (rd ra rb : BitVec 5) : LInstr := mlAlu 0 rd ra rb
/-- SUBS. -/
def mlSub (rd ra rb : BitVec 5) : LInstr := mlAlu 1 rd ra rb
/-- IN of a channel. -/
def mlIn (rd : BitVec 5) (ch : Nat) : LInstr := .imm .lin rd 0 (mlImm ch)
/-- OUT of a channel. -/
def mlOut (ch : Nat) (ra : BitVec 5) : LInstr := .imm .lout 0 ra (mlImm ch)
/-- LDS of a state word. -/
def mlLds (rd : BitVec 5) (w : Nat) : LInstr := .imm .lds rd 0 (mlImm w)
/-- STS of a state word. -/
def mlSts (w : Nat) (ra : BitVec 5) : LInstr := .imm .sts 0 ra (mlImm w)
/-- MACZ of accumulator 0 or 1. -/
def mlMacz (acc : Bool) (va : BitVec 5) (c : Nat) : LInstr := .mul .macz acc va (BitVec.ofNat 6 c) 0
/-- MAC. -/
def mlMac (acc : Bool) (va : BitVec 5) (c : Nat) : LInstr := .mul .mac acc va (BitVec.ofNat 6 c) 0
/-- MSU. -/
def mlMsu (acc : Bool) (va : BitVec 5) (c : Nat) : LInstr := .mul .msu acc va (BitVec.ofNat 6 c) 0
/-- RDACC without a shift. -/
def mlRd (rd : BitVec 5) (acc : Bool) : LInstr := .imm .rdacc rd 0 (mlImm (32 * acc.toNat))
/-- vd ← some bits of FLAGS, which stand in v1. -/
def mlFlag (rd : BitVec 5) (mask : Nat) : List LInstr := [.imm .ldi rd 0 (mlImm mask), mlAlu 2 rd rd 1]
/-- Pass over a part when a condition on two registers holds. -/
def mlSkip (op : LBr) (ra rb : BitVec 5) (l : List LInstr) : List LInstr := .branch op ra rb (mlImm (l.length + 1)) :: l
/-- The first part when ra is not 0, else the second. -/
def mlIf (ra : BitVec 5) (yes no : List LInstr) : List LInstr :=
  mlSkip .beq ra 0 (yes ++ [.branch .beq 0 0 (mlImm (no.length + 1))]) ++ no

/-! ### The programs (R222, R223) -/

/-- INTEG in v13 for base v11 (CMD without INTEG) and error v4, and in v15 as it is stored: INTEG + KI·error; where register f is
not 0 the value with which CMD is MAN (R217), or, where v17 says that the loop was in AUTO before (an exchange of the reels), the
value with which CMD is the last committed one. -/
def mlInteg (f : BitVec 5) : List LInstr :=
  mlIf f ([.imm .ldi 14 0 (mlImm 1), mlIn 13 13] ++ mlSkip .bne 17 14 [mlLds 13 1] ++ [mlSub 13 13 11])
    [mlLds 13 0, mlMacz true 4 1, mlRd 14 true, mlAdd 13 13 14]
  ++ [mlSts 0 13, mlLds 15 0]

/-- CMD, in v16, is limited and goes out. -/
def mlCmd : List LInstr := [.imm .clamp 16 16 (mlImm 62), mlOut 0 16]

/-- v9 ← v10 · v6 for a v6 below 2^16: an addition for each of its bits. -/
def mlProduct : List LInstr :=
  [.imm .ldi 9 0 0, .imm .ldi 8 0 (mlImm 1)]
    ++ (List.replicate 16 ([mlAlu 2 7 6 8] ++ mlSkip .beq 7 0 [mlAdd 9 9 10] ++ [mlAdd 10 10 10, mlAdd 8 8 8])).flatten

/-- The repetitive controller learns (R222): W - (W >> FSH) + KL·e into the bin of the angle; coefficient 5 is 1 with FSH as its shift. -/
def mlLearn : List LInstr :=
  let store : List LInstr := [.imm .rcl 7 0 0, .imm .ldacc 0 7 (mlImm 32), mlMsu true 7 5, mlMac true 4 4, mlRd 8 true, .imm .rcu 0 8 0]
  let steady := [mlIn 7 2] ++ mlSkip .bne 7 0 store
  let free := [.imm .clamp 7 13 (mlImm 60)] ++ mlSkip .bne 7 13 steady
  let auto := mlFlag 3 3 ++ [.imm .ldi 7 0 (mlImm 1)] ++ mlSkip .bne 3 7 free
  mlFlag 3 16 ++ mlSkip .beq 3 0 auto

/-- Both reels from where the radius stands in v6 (R222, R223). -/
def mlReel : List LInstr :=
  [mlIn 1 14, mlLds 17 10]
    ++ mlFlag 3 0x200
    ++ mlIf 3 [mlIn 4 0, mlIn 5 1, mlSub 4 4 5, mlMacz false 4 0] [mlIn 4 4, mlIn 5 3, mlSub 4 4 5, mlMacz false 4 2]
    ++ [mlOut 1 4, mlIn 10 2] ++ mlProduct
    ++ [mlMac false 9 3, mlRd 11 false, .imm .rcl 12 0 Config.ml1Lead, mlAdd 11 11 12]
    ++ mlFlag 3 4 ++ mlInteg 3 ++ [mlAdd 16 11 15] ++ mlCmd
    ++ mlFlag 3 3 ++ [mlSts 10 3]
    ++ mlLearn ++ [.imm .lend 0 0 0]

/-- The lateral and the skew loop: the law runs while bit `valid` of VALID is 1; else CMD is held, and a FIRST transfer sets CMD to MAN
and stays due, in state word 10, until the law runs. -/
def mlGated (valid : Nat) (law : List LInstr) : List LInstr :=
  [.imm .ldi 17 0 0] ++ mlFlag 3 4 ++ [mlLds 18 10, mlAlu 3 18 18 3, mlIn 19 9, .imm .ldi 20 0 (mlImm valid), mlAlu 2 19 19 20]
    ++ mlIf 19 (law ++ mlCmd ++ [mlSts 10 0])
      ([mlSts 10 18] ++ mlSkip .beq 3 0 ([mlIn 16 13] ++ mlCmd))
    ++ [.imm .lend 0 0 0]

/-- The biquad notch on v16: y = b0 x + b1 x1 + b2 x2 - a1 y1 - a2 y2, with x1, x2, y1 and y2 in state words 3 to 6; in a FIRST transfer
it starts at rest on x. -/
def mlNotch : List LInstr :=
  mlIf 18 [mlSts 3 16, mlSts 4 16, mlSts 5 16, mlSts 6 16]
    [mlLds 21 3, mlLds 22 4, mlLds 23 5, mlLds 24 6, mlMacz false 16 8, mlMac false 21 9, mlMac false 22 10, mlMsu false 23 11,
      mlMsu false 24 12, mlRd 25 false, mlSts 4 21, mlSts 3 16, mlSts 6 23, mlSts 5 25, mlAdd 16 25 0]

/-- Lateral: PID on YSP - YPOS, then the notch (R223); the last error stands in state word 2. -/
def mlLateral : List LInstr :=
  [mlIn 1 14, mlIn 4 11, mlIn 5 10, mlSub 4 4 5, mlOut 1 4]
    ++ mlGated 1 ([mlMacz false 4 0, mlLds 5 2, mlSub 6 4 5, mlMac false 6 2, mlRd 11 false, mlSts 2 4]
      ++ mlInteg 18 ++ [mlAdd 16 11 15] ++ mlNotch)

/-- Skew: PI on -SKEW (R223). -/
def mlSkew : List LInstr :=
  [mlIn 1 14, mlIn 4 12, mlSub 4 0 4, mlOut 1 4]
    ++ mlGated 2 ([mlMacz false 4 0, mlRd 11 false] ++ mlInteg 18 ++ [mlAdd 16 11 15])

/-- The code: reel A, reel B (both go on to the part they share), lateral, skew. -/
def ml1Code : List LInstr :=
  [mlIn 6 7, .branch .beq 0 0 (mlImm 2), mlIn 6 8] ++ mlReel ++ mlLateral ++ mlSkew

/-- Entry address of loop n of a transport. -/
def ml1Entry (n : Nat) : Nat :=
  match n with
  | 0 => 0
  | 1 => 8
  | 2 => 12 + 4 * mlReel.length
  | _ => 12 + 4 * (mlReel.length + mlLateral.length)

/-! ### The image (R61, R215) -/

/-- Word k of the DATA: the coefficients have no values in the spec and are free; those of a reel loop hold LEAD in coefficient 6 and the
shift FSH with value 1 in coefficient 5. -/
def ml1Word (k : Nat) : Nat :=
  let v := (Config.ml1Coef k).toNat
  let reel : Bool := decide (k < 2048) && decide (k / 64 % 4 < 2)
  if reel && k % 64 == 5 then 1 + v / 2 ^ 32 % 32 * 2 ^ 32
  else if reel && k % 64 == 6 then Config.ml1Lead.toNat
  else v

/-- Header of ML-1: FMTID 0x0010, version 1.0. -/
def ml1Header : List Byte :=
  leBytes 4 0x49564852 ++ leBytes 2 1 ++ leBytes 1 1 ++ leBytes 1 0 ++ leBytes 2 0x0010 ++ leBytes 2 0x0100 ++ leBytes 4 (4 * ml1Code.length)
    ++ leBytes 4 32768 ++ leBytes 44 0 ++ ((List.range 32).map (fun l => leBytes 4 (ml1Entry (l % 4)))).flatten ++ leBytes 64 0x312D4C4D

/-- ML-1 without key field and signature. -/
def ml1Image : List Byte :=
  ml1Header ++ (ml1Code.map (fun i => leBytes 4 (encodeL i).toNat)).flatten ++ ((List.range 4096).map (fun k => leBytes 8 (ml1Word k))).flatten

end Sys2Proof.Machine
end

