-- ==== Sys2Proof/Machine/Boot.lean ====
section
/-! DEFINITION. Start-up (R317-R321): the boot image's checks, what firmware loads into the registers, the retirements of the
fault summary, home and mirror groups, installing the images, the fuses, and the warm and cold resets. -/
namespace Sys2Proof.Machine

/-! ### The boot image (R318) -/

/-- Checks 1 to 6 of R62 on a boot image under the rules of R318. -/
def bootImageGood (s : State) (l : List Byte) : Bool :=
  leAt l 0 4 == 0x49564852 && leAt l 4 2 == 1 && imgProfile l == 2 && decide (imgSlot l < 4) && leAt l 0x20 1 ≤ s.fstep.toNat
    && imgFmtid l == 0x7FFE && leAt l 0x10 4 == 0 && leAt l 0x18 8 == 0 && leAt l 0x21 31 == 0 && leAt l 0x40 128 == 0
    && decide (imgCode l ≤ 4193852 ∧ imgCode l % 4 = 0 ∧ leAt l 0x14 4 < imgCode l) && l.length == imgKeyAt l + 196
    && imgKeyGood s l && imgSigGood l

/-- One of the two slots verifies; a flash whose slots are not listed is as State.bootGood says. -/
def bootVerifies (s : State) : Bool :=
  let a := s.images.get [] 4
  let b := s.images.get [] 5
  if a = [] ∧ b = [] then s.bootGood else bootImageGood s a || bootImageGood s b

/-! ### The fw registers (R321 step 9) -/

/-- Registers with fw fields that are loaded from elsewhere in the state. -/
def fwElsewhere : List Nat :=
  [Reg.glbCfg, Reg.vfyLane 0 0, Reg.rcLstat 0 0, Reg.rcEng 0 0, Reg.codecCtxbase, Reg.codecEng 0, Reg.tbxGrpret, Reg.ccWays, Reg.memHome,
    Reg.memRemap 0 0, Reg.pwrRlog, Reg.fltStat, Reg.telStat]

/-- A value within a field's valid range. -/
def fwFit (f : RField) (v : Nat) : Nat :=
  let x := v % 2 ^ f.w
  if x < f.lo' ∨ f.hi' < x then f.lo' else x

/-- Load the fw fields of a row, where the spec names no default (log entry 28). -/
def loadRow (r : RRow) (s : State) : State :=
  forAll (rowOffs r.base r.dims) (fun o s =>
    forAll (r.fields.filter (fun f => f.fw)) (fun f s => setFld o ⟨f.lo, f.w⟩ (fwFit f (Config.fwValue o f.lo)) s) s) s

/-- The defaults of FLT_CLS (R324): class, M, RETRY, BACKOFF, window unit and count. -/
def fltDefaults : List (Nat × Nat × Nat × Nat × Nat × Nat) :=
  [(1, 3, 0, 0, 0, 1), (2, 3, 0, 0, 0, 60), (3, 3, 0, 0, 0, 60), (4, 8, 0, 0, 2, 24), (5, 1, 0, 0, 0, 0), (6, 3, 3, 1, 0, 60),
    (7, 3, 1, 1000, 1, 10), (8, 3, 2, 0, 2, 1), (9, 3, 0, 0, 0, 0), (10, 3, 0, 0, 2, 1), (11, 0, 0, 0, 0, 0)]

/-- Load FLT_CLS; class 0 has no retry (R324). -/
def loadClasses (s : State) : State :=
  let s := setFld (Reg.fltCls 0) Fld.fltClsRetry 0 s
  forAll fltDefaults (fun d s =>
    setReg (Reg.fltCls d.1) (BitVec.ofNat 32 (d.2.1 + 2 ^ 4 * d.2.2.1 + 2 ^ 6 * d.2.2.2.1 + 2 ^ 16 * d.2.2.2.2.2 + 2 ^ 30 * d.2.2.2.2.1)) s) s

/-- Load what depends on the head module of a port: delays and lag (R95, R100), top speeds (R200, R224). -/
def loadHead (t : Tid) (s : State) : State :=
  let h := (tpOf s t).head
  let n := t.val
  if h.kind = 0 then s
  else
    let s := forAll (List.range 64) (fun k => setFld (Reg.wlLdly n k) Fld.wlLdlyDelay (h.delay.get 0 k).toNat) s
    let s := setFld (Reg.vfyLag n) Fld.vfyLagLagFwd h.lagF.toNat (setFld (Reg.vfyLag n) Fld.vfyLagLagRev h.lagR.toNat s)
    let v := if h.kind = 2 then 10000 else 5000
    setFld (Reg.yyLim n) Fld.yyLimVmax v (setFld (Reg.mcAccel n) Fld.mcAccelVloc v s)

/-- A mask of transports. -/
def maskOf (s : State) (f : Tp → Bool) : Nat := allT.foldl (fun a t => if f (tpOf s t) then a + 2 ^ t.val else a) 0

/-- Every fw register that firmware loads, less those of the supervision island at a warm reset. -/
def loadFirmware (warm : Bool) (s : State) : State :=
  let rows := regRows.filter (fun r => !fwElsewhere.contains r.base && !(warm && decide (0x1C00000 ≤ r.base ∧ r.base < 0x1D00000)))
  let s := loadClasses (forAll rows loadRow s)
  let s := forAll [(0, 16384), (1, 1024), (2, 512), (3, 960)] (fun d => setFld (Reg.tbxNbuf d.1) Fld.tbxNbufPergrp d.2) s
  let small : Bool := s.hbmStacks = 1
  let s := forAll allT (fun t s =>
    let s := setFld (Reg.yyLaw t) Fld.yyLawLow 32 (setFld (Reg.yyLaw t) Fld.yyLawHigh (if small then 256 else 512) s)
    let s := if (presentT s).length = 8 then setFld (Reg.tbxQuota t) Fld.tbxQuotaMax (if small then 896 else 1792) s else s
    loadHead t s) s
  let s := setFld Reg.glbCfg Fld.glbCfgTpPresent (maskOf s (fun x => x.head.kind != 0)) s
  setFld Reg.glbCfg Fld.glbCfgTpHm2 (maskOf s (fun x => x.head.kind == 2)) s

/-! ### Retirements of the fault summary (R321 step 6, R329) -/

/-- Units that the summary leaves retired: a return (KIND 4) takes back a retirement (KIND 3). -/
def summaryUnits (l : List FltEnt) : List (BitVec 16) :=
  l.foldl (fun u e => if e.kind = 3 then (if u.contains e.unit then u else u ++ [e.unit])
    else if e.kind = 4 then u.filter (fun v => v != e.unit) else u) []

/-- A unit is retired again, without a new entry or notice. A macro with a remap entry left lost words only (R300). -/
def reloadUnit (u : BitVec 16) (s : State) : State :=
  let i := unitIdx u
  let words : Bool := unitClass u = 5 && hasRemap i && [0, 1, 2, 3].any (fun e => fld s (Reg.memRemap i e) Fld.memRemapValid == 0)
  let s' := if words then markRetired u s else retireUnit u s
  { s' with
    flt := { s'.flt with log := s.flt.log, count := s.flt.count, summary := s.flt.summary, healthGen := s.flt.healthGen }
    hif := { s'.hif with notices := s.hif.notices }
    regs := s'.regs.set (regReset Reg.fltStat) Reg.fltStat (reg s Reg.fltStat) }

/-- The retirements of the classes named. -/
def reloadUnits (f : Nat → Bool) (s : State) : State :=
  forAll ((summaryUnits s.flt.summary).filter (fun u => f (unitClass u))) reloadUnit s

/-- The home group is the lowest-numbered group not retired, the mirror group the next one (R285). -/
def chooseHome (s : State) : State :=
  let l := (List.range (groupCount s)).filter (fun g => !groupRetired s g)
  { s with mem := { s.mem with home := l.headD 0, mirror := (l.drop 1).headD 0, mirrored := decide (2 ≤ l.length) } }

/-- Step 6: tables and retirements, home and mirror, the context cache, TBX_CTRL.EN. -/
def bootTables (warm : Bool) (s : State) : State :=
  let s := reloadUnits (fun c => c != 10) (loadFirmware warm { s with flt := { s.flt with retired := [] } })
  let s := if warm then s else chooseHome s
  let s := setReg Reg.codecCtxbase (BitVec.ofNat 32 ((groupAddr s.mem.home + 0x3000000) / 4096)) s
  let s := if s.ccMode then s else { s with cache := { s.cache with lines := {}, rr := {}, initDone := true, enabled := true } }
  setFld Reg.tbxCtrl Fld.tbxCtrlEn 1 (setFld Reg.tbxCtrl Fld.tbxCtrlReady 1 s)

/-- Ports with a head module of a kind. -/
def portsOf (s : State) (kind : Nat) : List Tid := allT.filter (fun t => (tpOf s t).head.kind == kind)

/-- Firmware installs ML-1, FMTID 0x0010 and version 1.0, from its slot of the boot flash (R215, R317): a flash whose slot is not listed
holds it as shipped (log entry 45); another image there is not installed. -/
def installMl1 (s : State) : State :=
  let l := s.images.get [] 3
  if l = [] then installL ml1Image s
  else if imgProfile l = 1 ∧ imgFmtid l = 0x0010 ∧ leAt l 0x0A 2 = 0x0100 then installBoot 3 [] s
  else logFault 0xFFFF 0 4 0 0 s

/-- Step 7 of a cold start: ML-1, then EVF-2 and EVF-1 by port. -/
def bootImages (s : State) : State :=
  reloadUnits (fun c => c == 10) (installBoot 1 (portsOf s 1) (installBoot 2 (portsOf s 2) (installMl1 s)))

/-- Step 9: the host interface accepts commands; a recovery log is raised as notice 3. -/
def bootDone (s : State) : State :=
  let s := { s with boot := 9 }
  if s.pwr.rlogHead.isEmpty then s
  else notice 3 (setFld Reg.pwrRlog Fld.pwrRlogPending 1 (setFld Reg.pwrRlog Fld.pwrRlogOutcome (leAt s.pwr.rlogHead 9 1) s))

/-! ### The bank measurement (R308) -/

/-- The mean of the bank voltage over the last millisecond, as sum and number of samples. -/
def recentMean (s : State) : Nat × Nat :=
  if s.pwr.recent.isEmpty then (s.pwr.vhu, 1) else (s.pwr.recent.foldl (· + ·) 0, s.pwr.recent.length)

/-- A measurement starts, unless one runs or the power-fail commit does. -/
def measStart (s : State) : State :=
  if s.pwr.huTest ∨ s.pwr.commit.isSome = true ∨ s.pwr.commitEnded = true then s
  else { s with pwr := { s.pwr with meas := some ⟨(recentMean s).1, (recentMean s).2, 0⟩, huTest := true } }

/-- ln(V0/V1) as numerator and denominator: twice the first eight terms of the series in (V0 - V1)/(V0 + V1); what it leaves out
is less than 10^-25 for V1 ≥ 0.97 V0. -/
def lnRatio (v0 v1 : Nat) : Nat × Nat :=
  let n := v0 - v1
  let d := v0 + v1
  (2 * ((List.range 8).map (fun k => n ^ (2 * k + 1) * d ^ (14 - 2 * k) * (45045 / (2 * k + 1)))).foldl (· + ·) 0, 45045 * d ^ 15)

/-- C in mF: TSTEP / (RLOAD ln(V0/V1)), TSTEP in ms and RLOAD in mΩ (R308); with RLOAD or
V0 zero the formula has no value (log entry 30). -/
def capacitance (v0 v1 : Nat) (s : State) : Nat × State :=
  let r := fld s Reg.wuRload Fld.wuRloadRload
  let l := lnRatio v0 v1
  if r = 0 ∨ v0 = 0 then
    let f := takeFree s
    (f.1 % 2 ^ 24, f.2)
  else (min (2 ^ 24 - 1) (openQuot (1000 * fld s Reg.wuCfg Fld.wuCfgTstep * l.2) (r * l.1)), s)

/-- V0 and V1 of a measurement over one denominator: V1 is the mean of the last millisecond (R308). -/
def measVolts (m : Meas) (s : State) : Nat × Nat := (m.sum * (recentMean s).2, (recentMean s).1 * m.count)

/-- Whether the bank has fallen below 0.97 V0 (R308). -/
def bankDropped (m : Meas) (s : State) : Bool := decide (100 * s.pwr.vhu * m.count < 97 * m.sum)

/-- A measurement ends: the result is valid if V1 ≤ 0.99 V0 and it did not end early (R308). The first measurement ends the
start-up. -/
def measResult (m : Meas) (early : Bool) (s : State) : State :=
    let v := measVolts m s
    let s := { s with pwr := { s.pwr with meas := none, huTest := false } }
    let s := if !early && decide (100 * v.2 ≤ 99 * v.1) then
        let c := capacitance v.1 v.2 s
        let s := setFld Reg.wuMeas Fld.wuMeasValid 1 (setFld Reg.wuMeas Fld.wuMeasC c.1 c.2)
        regrant { s with pwr := { s.pwr with cap := some c.1, measTemp := s.pwr.temp } }
      else regrant (raiseFld Reg.pwrEvt Fld.pwrEvtMeasfail (setFld Reg.wuMeas Fld.wuMeasValid 0 s))
    if s.boot = 8 then bootDone s else s

/-- HOLDUP_MEAS_END: TSTEP ms after HU_TEST rose, 100 samples each, the measurement ends; before that the row changes nothing (R308). -/
def measEnd (s : State) : State :=
  match s.pwr.meas with
  | none => s
  | some m => if 100 * fld s Reg.wuCfg Fld.wuCfgTstep ≤ m.n then measResult m false s else s

/-- The bank below 0.97 V0 ends a measurement at once (R308). -/
def measWatch (s : State) : State :=
  match s.pwr.meas with
  | none => s
  | some m => if bankDropped m s then measResult m true s else s

/-! ### Start-up, step by step (R321) -/

/-- HBM_TRAINING_DONE: step 3; a device held in the boot ROM trains nothing. -/
def hbmTrained (s : State) : State := if s.boot = 1 ∧ s.rstCause ≠ 7 then { s with boot := 3 } else s

/-- UCIE_TRAINING_DONE: step 4; a module that fails is a permanent fault at once. Later it ends a retry of a link error: a success
clears the event, a failure is the next one (R324 class 6). -/
def ucieTrained (t : Tid) (ok : Bool) (s : State) : State :=
  let u := unitId 6 t.val
  if s.boot = 3 then (if ok then modTp t (fun x => { x with ucieUp := true }) s else permanent u 0 0 0 s)
  else if s.boot = 9 ∧ 0 < s.flt.retries.get 0 u.toNat ∧ !s.flt.pendRetry.contains u then
    (if ok then clearEvent u s else faultEvent u 0 0 s)
  else s

/-- HBM_SWEEP_DONE: steps 5 to 7, and step 8's measurement begins. -/
def hbmSwept (s : State) : State :=
  if s.boot ≠ 3 then s
  else
    let s := { s with mem := { s.mem with hbm := {}, poison := [], bad := {}, swept := true } }
    measStart { bootImages (bootTables false s) with boot := 8 }

/-- FUSE_KEY (R319). -/
def fuseKey (slot : Nat) (digest : BitVec 384) (s : State) : State :=
  if s.provision ∧ 4 ≤ slot ∧ slot < 8 ∧ s.fuses.get 0 slot = 0 then { s with fuses := s.fuses.set 0 slot digest } else s

/-- REVOKE_KEY (R319). -/
def revokeKey (slot : Nat) (s : State) : State := { s with revoked := s.revoked ||| BitVec.ofNat 8 (2 ^ slot) }

/-! ### Resets (R320) -/

/-- Registers that a warm reset leaves: the supervision island's, and the remap tables that firmware loads again. -/
def warmRegs (m : SMap W32) : SMap W32 :=
  ⟨m.cells.filter (fun c => decide ((0x1C00000 ≤ c.1 ∧ c.1 < 0x1D00000) ∨ (Reg.memRemap 0 0 ≤ c.1 ∧ c.1 < Reg.memRemap 2048 0)))⟩

/-- A slice after a warm reset: head module, cartridge and UCIe module stay. -/
def warmTp (x : Tp) : Tp :=
  { Tp.reset with
    head := x.head, cart := x.cart, offline := x.offline, ucieUp := x.ucieUp, seqDis := x.seqDis
    mot := { Mot.reset with ticks := x.mot.ticks } }

/-- Every buffer FREE; generations stay in the buffer records, and advance where a buffer becomes FREE (R320, R184). -/
def freeBuffers (b : Tbx) : Tbx :=
  { Tbx.reset with recs := ⟨(b.recs.cells.map (fun c => (c.1, { BufRec.reset with
      gen := if c.2.st = .free then c.2.gen else nextGen c.2.gen, badRec := c.2.badRec }))).filter
      (fun c => decide (c.2 ≠ BufRec.reset))⟩ }

/-- LOCK bits hold until the next cold reset, and the fields they lock with them (R10; log entry 30). -/
def keepLocked (old w : State) : State :=
  let keep (off : Nat) (s : State) : State := setReg off (reg old off) s
  let w := forAll allT (fun t s =>
    if tsLocked old t.val then
      keep (Reg.tsWdog t.val) (setFld (Reg.tsCtrl t.val) Fld.tsCtrlLock 1
        (setFld (Reg.tsCtrl t.val) Fld.tsCtrlDbgEn (fld old (Reg.tsCtrl t.val) Fld.tsCtrlDbgEn) s))
    else s) w
  if fld old Reg.tbxCtrl Fld.tbxCtrlLock = 1 then
    forAll [0, 1, 2, 3] (fun c => keep (Reg.tbxNbuf c)) (setFld Reg.tbxCtrl Fld.tbxCtrlLock 1
      (setFld Reg.tbxCtrl Fld.tbxCtrlEn (fld old Reg.tbxCtrl Fld.tbxCtrlEn) w))
  else w

/-- A warm reset, its stops and its steps 6 to 9 taken at once (R320, R321). -/
def warmReset (cause : Nat) (s : State) : State :=
  let r : State := State.reset
  let m := s.mem
  let w : State := { r with
    pending := s.pending, freeCtr := s.freeCtr, clk := s.clk
    tp := ⟨warmTp (tpOf s 0), warmTp (tpOf s 1), warmTp (tpOf s 2), warmTp (tpOf s 3), warmTp (tpOf s 4), warmTp (tpOf s 5),
      warmTp (tpOf s 6), warmTp (tpOf s 7)⟩
    tbx := freeBuffers s.tbx
    hif := { Hif.reset with perst := s.hif.perst }
    pwr := { s.pwr with debit := {}, commit := none, commitEnded := false, warmPend := false }
    mem := { Mem.reset with hbm := m.hbm, poison := m.poison, bad := m.bad, home := m.home, mirror := m.mirror, mirrored := m.mirrored, swept := m.swept }
    flt := { s.flt with pendRetry := [], retries := {} }
    regs := warmRegs s.regs, hostMem := s.hostMem, fuses := s.fuses, revoked := s.revoked, hbmStacks := s.hbmStacks
    fstep := s.fstep, rstep := s.rstep, ccMode := s.ccMode, bif0 := s.bif0, bif1 := s.bif1, provision := s.provision
    rstCause := cause, images := s.images, bootGood := s.bootGood }
  let off := allT.map (fun t => (tpOf s t).seqDis)
  let w := reinstallAll (bootTables true w)
  let w := keepLocked s (forAll allT (fun t => modTp t (fun x => { x with seqDis := off.getD t.val false })) w)
  bootDone (applyCaps (regrant w))

/-- A slice after a cold reset: head module and cartridge are outside the device. -/
def coldTp (x : Tp) : Tp := { Tp.reset with head := x.head, cart := x.cart }

/-- COLD_RESET (R320, R321): everything but fuses, flash and what is outside the device; a commit that was running was cut, and
its half of the commit area is not erased. A boot image that does not verify leaves the device in the boot ROM (R318); whether the
reset was the power-on or RESET_N the row does not say. -/
def coldReset (s : State) : State :=
  let f := takeFree s
  let r : State := State.reset
  { r with
    pending := s.pending, freeCtr := f.2.freeCtr
    tp := ⟨coldTp (tpOf s 0), coldTp (tpOf s 1), coldTp (tpOf s 2), coldTp (tpOf s 3), coldTp (tpOf s 4), coldTp (tpOf s 5),
      coldTp (tpOf s 6), coldTp (tpOf s 7)⟩
    pwr := { Pwr.reset with
      rlog := s.pwr.rlog, rlogGen := s.pwr.rlogGen, rlogHead := s.pwr.rlogHead, savedIdx := s.pwr.savedIdx
      erased := s.pwr.erased && s.pwr.commit.isNone }
    flt := { Flt.reset with summary := s.flt.summary, hours := s.flt.hours }
    regs := ⟨s.regs.cells.filter (fun c => decide (Reg.memRemap 0 0 ≤ c.1 ∧ c.1 < Reg.memRemap 2048 0))⟩
    hostMem := s.hostMem, fuses := s.fuses, revoked := s.revoked, hbmStacks := s.hbmStacks, fstep := s.fstep, rstep := s.rstep
    ccMode := s.ccMode, bif0 := s.bif0, bif1 := s.bif1, provision := s.provision
    images := ⟨s.images.cells.filter (fun c => decide (c.1 < 16))⟩, bootGood := s.bootGood
    rstCause := if bootVerifies s then f.1 % 2 else 7 }

end Sys2Proof.Machine
end

