-- ==== Sys2Proof/Machine/Power.lean ====
section
/-! DEFINITION. Power supervision (R305-R317): samples and sags, the power-fail commit with its shortfall and its recovery log,
measurements on demand, temperature (R357), and the requests for a reset. -/
namespace Sys2Proof.Machine

/-- Change power supervision's state. -/
def modPwr (f : Pwr → Pwr) (s : State) : State := { s with pwr := f s.pwr }

/-! ### The recovery log (R315) -/

/-- The highest dataset that holds bytes of a record. -/
def recTop (r : Rec) : W32 := BitVec.ofNat 32 ((r.dss.map (fun d => d.1.toNat)).foldl max 0)

/-- Entries of one stream: runs of placed records not verified that end in the same dataset and are acknowledged alike. -/
def rlogRuns (scid : BitVec 16) (t : Nat) : List Rec → List RlogEnt
  | [] => []
  | r :: rest =>
    match rlogRuns scid t rest with
    | e :: more =>
      if e.first = r.seq + 1 ∧ e.dsnum = recTop r ∧ e.ledger = r.acked then { e with first := r.seq, count := e.count + 1 } :: more
      else ⟨scid, BitVec.ofNat 8 t, true, r.acked, r.seq, 1, recTop r⟩ :: e :: more
    | [] => [⟨scid, BitVec.ofNat 8 t, true, r.acked, r.seq, 1, recTop r⟩]

/-- The pending recovery log of a commit that starts now. -/
def rlogNow (s : State) : List RlogEnt :=
  (openStreams s).flatMap (fun x =>
    if x.2.read then [] else rlogRuns (BitVec.ofNat 16 x.1) x.2.t (x.2.recs.filter (fun r => r.placed && !r.verified)))

/-- The log's header. -/
def rlogHeader (gen : W32) (cause outcome count ms v0 v1 : Nat) : List Byte :=
  leBytes 4 0x474C5052 ++ leBytes 4 gen.toNat ++ leBytes 1 cause ++ leBytes 1 outcome ++ leBytes 2 count ++ leBytes 4 ms
    ++ leBytes 2 v0 ++ leBytes 2 v1 ++ zeros 12

/-- Puppeteer programs the pending log; duration and end voltage are not known yet. -/
def programRlog (cause : Nat) (s : State) : State :=
  let l := rlogNow s
  let gen := s.pwr.rlogGen + 1
  let f := takeFree s
  let g := takeFree f.2
  modPwr (fun p => { p with rlog := l, rlogGen := gen, rlogHead := rlogHeader gen cause 2 l.length f.1 (tenMv p.vhu) g.1 }) g.2

/-! ### The commit (R312-R314) -/

/-- A command that is not complete ends POWER_FAIL. -/
def powerFailCmd (tag : BitVec 16) (s : State) : State :=
  match cmdOf s tag with
  | none => s
  | some c =>
    if c.e.opc = 0x05 ∧ s.hif.test.any (fun x => x.queue.isSome && x.tag == tag) = true then
      match s.hif.test with
      | some x => testDone x hsPowerFail s
      | none => s
    else if c.e.opc = 0x12 ∧ c.active = true then
      let n := ((streamOf s c.e.scid.toNat).map (fun x => ((cmdRecs x c).takeWhile (fun r => r.placed)).length)).getD 0
      endCmd tag hsPowerFail (writeResult c.first n false) 0xFFFF s
    else endCmd tag hsPowerFail (BitVec.ofNat 64 c.done) 0xFFFF s

/-- Discard the records of a stream from the first one that fails a condition. -/
def discardUnless (keep : Rec → Bool) (x : Nat × Stream) (s : State) : State :=
  match x.2.recs.find? (fun r => !keep r) with
  | none => s
  | some r => discardFrom (BitVec.ofNat 16 x.1) r.seq (dropJob (BitVec.ofNat 16 x.1) s)

/-- The open write streams. -/
def allWrites (s : State) : List (Nat × Stream) := (openStreams s).filter (fun x => !x.2.read)

/-- Yo-yo freezes its set-point at min(out, CAPV), but at no less than VMIN, and does not pause. -/
def freezeSpeed (t : Tid) (s : State) : State :=
  let s := endPause t s
  let v := max (min (tpOf s t).yoyo.out (10 * fld s (Reg.yyCap t) Fld.yyCapCapv)) (10 * fld s (Reg.yyLim t) Fld.yyLimVmin)
  modYoyo t (fun y => { y with lastFrozen := some v }) s

/-- Whether a transport has nothing of step 2 and 3 left: it holds no cartridge or cannot write, its program does not run, or all it
held is verified and its tape ends in an end-of-data mark. -/
def commitDone (s : State) (t : Tid) : Bool :=
  let x := tpOf s t
  let runs : Bool := x.seq.st == .running || x.seq.st == .waiting
  !x.loaded || writeDisabled s t || (!runs && !tpBusy x)
    || (x.asm.opn.isNone && x.asm.items.isEmpty && x.vfy.ds.all (fun d => d.ok) && x.vfy.rwq.isEmpty && x.wl.cur.isNone
      && (portOpen x.wlP).isEmpty && s.codec.drains.all (fun d => d.t != t.val)
      && (match x.wl.exts with
        | [] => true
        | e :: _ => e.isMark && e.typ == 0))

/-- Step 4 begins, and step 5 of every transport not yet in it: what no dataset holds is discarded, the index entries not on tape
are saved. -/
def beginRecord (s : State) : State :=
  match s.pwr.commit with
  | none => s
  | some c =>
    let rest := allT.filter (fun t => !c.marked.contains t.val)
    let s := forAll (allWrites s) (discardUnless (fun r => r.placed)) s
    let s := forAll allT (fun t => modPwr (fun p =>
      { p with savedIdx := p.savedIdx.set [] t.val (p.savedIdx.get [] t.val ++ (tpOf s t).idx.objs) })) s
    let s := modPwr (fun p => { p with commit := some { c with marked := allT.map (fun t => t.val), recording := true } }) s
    forAll (rest.filter (fun t => (tpOf s t).loaded)) commandStop s

/-- SHORTFALL (R313): transports still in step 2 or 3 stop writing, step 4 starts at once. -/
def shortfall (s : State) : State :=
  match s.pwr.commit with
  | none => s
  | some c =>
    let cut := allT.filter (fun t => !c.marked.contains t.val && (tpOf s t).loaded && !commitDone s t)
    let s := raiseFld Reg.pwrEvt Fld.pwrEvtShort (modPwr (fun p => { p with commit := some { c with short := true } }) s)
    beginRecord (forAll cut wlMotionFault s)

/-- Watch the bank through steps 2 and 3 (R313); the commit before a warm reset has no shortfall check (R320). -/
def watchBank (s : State) : State :=
  match s.pwr.commit with
  | none => s
  | some c => if !c.recording && !c.warm && belowAbort s then shortfall s else s

/-- Step 1 for every cause but 4: intake stops, commands end, what has not been received is discarded, every stream is drained,
the speeds freeze. -/
def stopIntake (s : State) : State :=
  let s := forAll (s.hif.cmds.map (fun c => c.e.tag)) powerFailCmd s
  let s := match s.hif.test with
    | some x => testDone x hsPowerFail s
    | none => s
  let s := forAll (allWrites s) (discardUnless recGot) s
  let s := forAll (allWrites s) (fun x => flushPoint (BitVec.ofNat 16 x.1) 0xFFFF x.2) s
  forAll allT freezeSpeed s

/-- The power-fail commit starts (R312). -/
def startCommit (cause : Nat) (s : State) : State :=
  let s := wakeUp s
  let s := modPwr (fun p => { p with
    huTest := false, meas := none, commit := some ⟨cause, false, [], false, nowMs s, tenMv p.vhu, cause == 4⟩ }) s
  let s := bumpFld Reg.pwrCnt Fld.pwrCntCommits (raiseFld Reg.pwrEvt Fld.pwrEvtCommit s)
  let s := programRlog cause (forAll allT (fun t => setEvent t evPfail) s)
  let s := forAll allT wakePause s
  watchBank (settleHost (if cause = 4 then s else stopIntake s))

/-- COMMIT_RECORD_WRITE: step 4 starts once every transport has finished step 3. -/
def commitRecord (s : State) : State :=
  match s.pwr.commit with
  | none => s
  | some c => if !c.recording && allT.all (fun t => c.marked.contains t.val || commitDone s t) then beginRecord s else s

/-- The level of PFAIL_N: high until it is accepted low; no command tells of its return (log entry 30). -/
def pfailHigh (s : State) : Bool × State :=
  if s.pwr.pfailN then (true, s)
  else
    let f := takeFree s
    (f.1 % 2 = 1, f.2)

/-- COMMIT_END (R314): the log is completed; with power good, or a warm reset asked for, the device resets. -/
def commitEnd (s : State) : State :=
  match s.pwr.commit with
  | none => s
  | some c =>
    if !c.recording then s
    else
      let p := s.pwr
      let h := rlogHeader p.rlogGen c.cause (if c.short then 1 else 0) p.rlog.length (nowMs s - c.startMs) c.v0 (tenMv p.vhu)
      let s := regrant (modPwr (fun p => { p with rlogHead := h, erased := false, commit := none }) s)
      let f := pfailHigh s
      let good : Bool := f.1 && decide (tenthVolt (fld s Reg.pwrCfg Fld.pwrCfgClrv) ≤ s.pwr.vin)
      if good && !c.warm then warmReset 3 f.2
      else if c.warm || s.pwr.warmPend then warmReset 2 f.2
      else modPwr (fun p => { p with commitEnded := true }) f.2

/-- COMMIT_AREA_ERASE_DONE (R317). -/
def eraseDone (s : State) : State :=
  if s.pwr.erased ∨ s.pwr.commit.isSome = true then s else regrant (modPwr (fun p => { p with erased := true }) s)

/-! ### Supervision (R306, R307) -/

/-- PFAIL_ACCEPT. -/
def pfailAccept (s : State) : State :=
  if s.pwr.commit.isSome ∨ s.pwr.commitEnded = true then raiseFld Reg.pwrEvt Fld.pwrEvtRepf s
  else startCommit 1 (modPwr (fun p => { p with pfailN := false }) s)

/-- The samples of the last second that matter for its minimum, with a new one. -/
def pushSample (n v : Nat) (h : List (Nat × Nat)) : List (Nat × Nat) := h.filter (fun e => decide (n < e.1 + 100000 ∧ e.2 < v)) ++ [(n, v)]

/-- The samples of the last second where a new one is taken with HU_TEST high; the latest one stays in any case (log entry 30). -/
def oldSamples (n : Nat) (h : List (Nat × Nat)) : List (Nat × Nat) := h.dropLast.filter (fun e => decide (n < e.1 + 100000)) ++ h.drop (h.length - 1)

/-- A sample is taken in: VIN and VHU, the last second's minimum with HU_TEST low, the last millisecond, the sag's timers. -/
def takeSample (vin vhu : Nat) (s : State) : State :=
  let clr : Bool := tenthVolt (fld s Reg.pwrCfg Fld.pwrCfgClrv) ≤ vin
  modPwr (fun p => { p with
    vin := vin, vhu := vhu, sampleNo := p.sampleNo + 1
    hist := if p.huTest then oldSamples (p.sampleNo + 1) p.hist else pushSample (p.sampleNo + 1) vhu p.hist
    recent := (vhu :: p.recent).take 100
    meas := p.meas.map (fun m => { m with n := m.n + 1 })
    sagT := if p.sag then p.sagT + 1 else 0, clrT := if p.sag && clr then p.clrT + 1 else 0 }) s

/-- VIN fell below SAGV: a sag starts (R307). -/
def startSag (s : State) : State :=
  applyCaps (bumpFld Reg.pwrCnt Fld.pwrCntSags (raiseFld Reg.pwrEvt Fld.pwrEvtSag
    (modPwr (fun p => { p with sag := true, sagT := 0, clrT := 0 }) s)))

/-- The bank's minimum has moved more than 2 % since the latest grants (R309). -/
def bankMoved (s : State) : Bool :=
  let a := vmin1s s
  let b := s.pwr.vminUsed
  decide (b < 50 * (a - b) ∨ b < 50 * (b - a))

/-- SUPPLY_SAMPLE: the codes of VIN_SENSE and HOLDUP_SENSE, scaled by PWR_DIV (R306, R352). A bus condition that arrives during a commit is counted only (R314). -/
def supplySample (vinCode vhuCode : BitVec 16) (s : State) : State :=
  let vin := scaleSample vinCode (fld s Reg.pwrDiv Fld.pwrDivVink)
  let vhu := scaleSample vhuCode (fld s Reg.pwrDiv Fld.pwrDivHuk)
  let low : Bool := vin < tenthVolt (fld s Reg.pwrCfg Fld.pwrCfgSagv)
  let fail : Bool := vin < tenthVolt (fld s Reg.pwrCfg Fld.pwrCfgFailv)
  let failed : Bool := s.pwr.vin < tenthVolt (fld s Reg.pwrCfg Fld.pwrCfgFailv)
  let busy : Bool := s.pwr.commit.isSome || s.pwr.commitEnded
  let s := takeSample vin vhu s
  if busy then
    let s := if low && !s.pwr.sag then
        raiseFld Reg.pwrEvt Fld.pwrEvtRepf (bumpFld Reg.pwrCnt Fld.pwrCntSags (modPwr (fun p => { p with sag := true }) s))
      else s
    watchBank (if fail && !failed then raiseFld Reg.pwrEvt Fld.pwrEvtRepf s else s)
  else
    let s := if low && !s.pwr.sag then startSag s else s
    if fail then startCommit 3 s
    else
      let s := measWatch s
      if bankMoved s then regrant s else s

/-- SAG_TIMEOUT: the sag has lasted SAGT ms, 100 samples each. -/
def sagTimeout (s : State) : State :=
  if s.pwr.sag ∧ 100 * fld s Reg.pwrCap Fld.pwrCapSagt ≤ s.pwr.sagT ∧ s.pwr.commit.isNone = true ∧ !s.pwr.commitEnded then startCommit 2 s
  else s

/-- SAG_CLEAR: VIN has been at or above CLRV for 100 ms, 10,000 samples; a sag that meets the commit leaves CAPV as set. -/
def sagClear (s : State) : State :=
  if s.pwr.sag ∧ 10000 ≤ s.pwr.clrT ∧ s.pwr.commit.isNone = true ∧ !s.pwr.commitEnded then
    applyCaps (modPwr (fun p => { p with sag := false, sagT := 0, clrT := 0 }) s)
  else s

/-! ### Measurements, temperature, requests -/

/-- HOLDUP_PERIODIC_MEAS (R309). -/
def measPeriodic (s : State) : State := if s.boot = 9 then measStart s else s

/-- PWR_RLOG_ACK (R315): the log is released; the host driver may write it (R322). -/
def rlogAck (s : State) : State :=
  if fld s Reg.pwrRlog Fld.pwrRlogPending = 0 then s
  else modPwr (fun p => { p with rlog := [], rlogHead := [] }) (setFld Reg.pwrRlog Fld.pwrRlogPending 0 s)

/-- A rule that begins at a threshold, in °C, and ends 5 °C below it (R357); temperatures in 0.1 °C. -/
def thermRule (on : Bool) (temp : Int) (thr : Nat) : Bool := decide ((10 * thr : Int) ≤ temp) || (on && decide ((10 * thr : Int) - 50 < temp))

/-- The highest of the twelve sensors' readings (R356, R357). -/
def hottest (temps : Vector (BitVec 16) 12) : Int := temps.toList.foldl (fun m x => max m x.toInt) temps[0].toInt

/-- TEMP_UPDATE (R357); 10 °C away from the last valid measurement the bank is measured again (R309). -/
def tempUpdate (temp : Int) (s : State) : State :=
  let was := s.pwr.therm
  let therm := thermRule was temp (fld s Reg.pwrThcfg Fld.pwrThcfgThrot)
  let trip := thermRule s.pwr.trip temp (fld s Reg.pwrThcfg Fld.pwrThcfgTtrip)
  let s := modPwr (fun p => { p with temp := temp, tmax := max p.tmax temp, therm := therm, trip := trip }) s
  let s := if therm && !was then raiseFld Reg.pwrTherm Fld.pwrThermThevt s else s
  let s := if therm != was && s.pwr.commit.isNone then applyCaps s else s
  if s.boot = 9 ∧ s.pwr.cap.isSome = true ∧ 100 ≤ (temp - s.pwr.measTemp).natAbs then measStart s else s

/-- GLB_RST_WARM (R320): held during a commit; with ledger charge outstanding a commit with cause 4 comes first. -/
def warmRequest (s : State) : State :=
  if s.boot ≠ 9 then s
  else if s.pwr.commit.isSome then modPwr (fun p => { p with warmPend := true }) s
  else if !s.pwr.commitEnded && allT.any (fun t => decide (0 < s.pwr.debit.get 0 t.val)) then startCommit 4 s
  else warmReset 2 s

end Sys2Proof.Machine
end

