-- ==== Sys2Proof/Machine/FaultOps.lean ====
section
/-! DEFINITION. The fault and telemetry commands (R323-R334): retries, link errors, FLT_RET, FLT_BCAST, the statistics freeze. -/
namespace Sys2Proof.Machine

/-- FAULT_RETRY_EXPIRY (R323): the retry runs. For a transport at standstill Puppeteer clears the stop and restores its loops (R233,
R324 class 7); one that still moves is cleared on standstill. -/
def retryExpiry (u : BitVec 16) (s : State) : State :=
  if s.flt.pendRetry.contains u then
    let s := { s with flt := { s.flt with pendRetry := s.flt.pendRetry.filter (fun v => v != u) } }
    let t := tid (unitIdx u)
    if unitClass u = 7 ∧ (tpOf s t).mot.st = .faulted ∧ (tpOf s t).mot.still = true then restoreLoops t (clearTransport t s) else s
  else s

/-- TRANSPORT_RETRY_CLEAR (R324 class 7): 10 s after the resume without another stop. -/
def retryClear (t : Tid) (s : State) : State :=
  let u := unitId 7 t.val
  let m := (tpOf s t).mot
  if s.flt.pendRetry.contains u ∨ m.st = .faulted ∨ m.st = .stopping then s else clearEvent u s

/-- UCIE_LINK_ERROR (R324 class 6). -/
def ucieError (t : Tid) (s : State) : State := if isOffline s t then s else faultEvent (unitId 6 t.val) 0 0 s

/-- The value of a counter: a field, or the 64 bits from a lower register on (R331). -/
def counterVal (s : State) (c : Nat × Nat × Nat) : W64 :=
  BitVec.ofNat 64 (if c.2.2 = 64 then (regVal s c.1).toNat + 2 ^ 32 * (regVal s (c.1 + 4)).toNat else fieldB (regVal s c.1) c.2.1 c.2.2)

/-- TEL_FREEZE (R333): every counter is copied into its shadow; ignored and logged while a readout runs. -/
def telFreeze (s : State) : State :=
  if s.tel.done then
    { s with tel := { s.tel with
      done := false, ms := nowMs s, shadow := counterList.foldl (fun m c => m.set 0 (c.1 * 32 + c.2.1) (counterVal s c)) {} } }
  else logAccess Reg.telCtrl s

/-- FREEZE_READOUT_DONE (R332). -/
def freezeDone (s : State) : State :=
  if s.tel.done then s else { s with tel := { s.tel with done := true, gen := s.tel.gen + 1 } }

end Sys2Proof.Machine
end

