-- ==== Sys2Proof/Machine/RegRows.lean ====
section
/-! DEFINITION. Registers whose write starts an action (R10): who may write them, and the action. Each of the table's rows on a
register uses one of these; a REGISTER_WRITE that reaches such a register uses the same. -/
namespace Sys2Proof.Machine

/-- A device held in the boot ROM answers no access of a host (R318). -/
def romHeld (src : Src) (s : State) : Bool :=
  match src with
  | .host _ => decide (s.rstCause = 7)
  | .puppeteer => false

/-- A register access of the host ends a low-power state (R280). -/
def hostWakes (src : Src) (s : State) : State :=
  match src with
  | .host _ => wakeUp s
  | .puppeteer => s

/-- An access that only Puppeteer may make, or the host while DBG_EN of one of the transports is 1; otherwise it is ignored and
logged. -/
def byDebug (src : Src) (ts : List Nat) (off : Nat) (f : State → State) (s : State) : State :=
  if romHeld src s then s else if srcMay src ts s then f (hostWakes src s) else logAccess off (hostWakes src s)

/-- An access that only firmware may make (R181). -/
def byFirmware (src : Src) (off : Nat) (f : State → State) (s : State) : State := byDebug src [] off f s

/-- An offset in a chiplet window that no UCIe module carries: the registers of transport t lie behind its own module (R15), the
common ones behind any of the chiplet's four (R34; log entry 31). -/
def chipletDown (s : State) (off : Nat) : Bool :=
  let c := (off - 0x1000000) / 0x400000
  let o := (off - 0x1000000) % 0x400000
  decide (0x1000000 ≤ off ∧ off < 0x1800000)
    && (if o < 0x200000 then isOffline s (tid (4 * c + o / 0x80000)) else [0, 1, 2, 3].all (fun i => isOffline s (tid (4 * c + i))))

/-- An access to a common register of chiplet c (R34, R156). -/
def byChiplet (src : Src) (c off : Nat) (f : State → State) (s : State) : State :=
  if romHeld src s then s
  else if chipletMay src c s && !chipletDown s off then f (hostWakes src s) else logAccess off (hostWakes src s)

/-- An access that either may make. -/
def byAny (src : Src) (f : State → State) (s : State) : State := if romHeld src s then s else f (hostWakes src s)

/-! ### Sequencer (02) -/

/-- An action of TS_CTRL. -/
def tsRow (src : Src) (t : Tid) (f : State → State) (s : State) : State := byDebug src [t.val] (Reg.tsCtrl t.val) f s

/-- TS_CTRL.LOCK. -/
def tsLockOp (t : Tid) (s : State) : State := raiseFld (Reg.tsCtrl t.val) Fld.tsCtrlLock s

/-- An attempted write of a locked RW-L field is counted, whatever the value (R10). -/
def lockViolation (t : Nat) (s : State) : State := bumpFld (Reg.tsLockv t) Fld.tsLockvLockv s

/-- DBG_EN, an RW-L field (R10). -/
def setDbgEn (t : Nat) (b : Nat) (s : State) : State :=
  if tsLocked s t then lockViolation t s else setFld (Reg.tsCtrl t) Fld.tsCtrlDbgEn b s

/-- Do f where bit n of a written word is 1. -/
def onBit (v : W32) (n : Nat) (f : State → State) (s : State) : State := if bitOf v.toNat n then f s else s

/-- A write of the whole TS_CTRL: the fields, then the actions; RUN and HALT_REQ together halt. The action bits RUN, HALT_REQ,
STEP, FLUSHQ and RESTART are not held and read 0: when they fall is the model's choice (R10; log entry 35). -/
def tsCtrlWrite (t : Tid) (v : W32) (s : State) : State :=
  let s := setFld (Reg.tsCtrl t.val) Fld.tsCtrlEntry (fieldB v 3 1) s
  let s := onBit v 31 (tsLockOp t) (setDbgEn t.val (fieldB v 5 1) s)
  onBit v 1 (haltRequest t) (onBit v 2 (tsStepOp t) (onBit v 0 (tsRunOp t) (onBit v 6 (tsRestartOp t) (onBit v 4 (tsFlushOp t) s))))

/-! ### Lanes, read channel, engines (04-06) -/

/-- VFY_LANECMD: 1 retires a lane, 2 returns it (R113, R117). -/
def laneCmd (t : Tid) (k cmd : Nat) (s : State) : State :=
  match cmd with
  | 1 => laneFault t k 3 s
  | 2 => laneReturn t k s
  | _ => s

/-- VFY_LANECMD rows. -/
def laneCmdRow (src : Src) (t : Tid) (k cmd : Nat) (s : State) : State := byDebug src [t.val] (Reg.vfyLanecmd t.val) (laneCmd t k cmd) s

/-- RC_MODE (R34, R145). -/
def rcModeRow (src : Src) (t : Tid) (m : Nat) (s : State) : State :=
  byDebug src [t.val] (Reg.rcMode t.val)
    (fun s => if chipletDown s (Reg.rcMode t.val) then logAccess (Reg.rcMode t.val) s else setRcMode t m s) s

/-- RC_ENG.RETIRED. -/
def rcEngRow (src : Src) (e : Nat) (retired : Bool) (s : State) : State :=
  byChiplet src (e / 32) (Reg.rcEng (e / 32) (e % 32)) (if retired then retireEngine e else returnEngine e) s

/-- RC_CAPLANE.ARM is not Live: while a sequencer of the chiplet's transports runs a write of it is discarded and logged (R20, R156). -/
def rcCapRow (src : Src) (c n : Nat) (s : State) : State :=
  byChiplet src c (Reg.rcCaplane c n) (fun s =>
    if [0, 1, 2, 3].any (fun i => seqActive (seqOf s (tid (4 * c + i)))) then logAccess (Reg.rcCaplane c n) s else armCapture c n s) s

/-- CODEC_ENG.RETIRED, which only firmware writes. -/
def codecEngRow (src : Src) (e : Nat) (retired : Bool) (s : State) : State :=
  byFirmware src (Reg.codecEng e) (fun s => if (s.codec.retired.get 0 e == 1) = retired then s else codecRetireOp e retired s) s

/-- The endpoint that writes CODEC_OQCFG.EN = 1 serves the offload ring (R241). -/
def offEnableRow (src : Src) (cfg : W32) (s : State) : State :=
  byAny src (fun s =>
    let s := offEnableOp cfg s
    match src with
    | .host ep => if fieldB cfg 0 1 = 1 then modCodec (fun c => { c with offEp := ep.val }) s else s
    | .puppeteer => s) s

/-! ### Toybox (07) -/

/-- A row on a register of the Toybox block. -/
def tbxRow (src : Src) (off : Nat) (f : State → State) (s : State) : State := byDebug src [0] off f s

/-- TBX_CTRL.LOCK. -/
def tbxLockOp (s : State) : State := raiseFld Reg.tbxCtrl Fld.tbxCtrlLock s

/-- TBX_CTRL: EN, an RW-L field, then LOCK; enabling serves the waiters (R193). A locked write is ignored and counted nowhere: the
spec lists no lock-violation counter of this block (R10; the model's choice, log entry 35). -/
def tbxCtrlWrite (v : W32) (s : State) : State :=
  let s := if fld s Reg.tbxCtrl Fld.tbxCtrlLock = 1 then s else serveAll (setFld Reg.tbxCtrl Fld.tbxCtrlEn (fieldB v 0 1) s)
  onBit v 31 tbxLockOp s

/-! ### Marionette (08) -/

/-- A row on the registers of transport t in Marionette. -/
def mcRow (src : Src) (t : Tid) (off : Nat) (f : State → State) (s : State) : State := byDebug src [t.val] off f s

/-- MC_TCTL.CMD (R230, R233, R361). -/
def motionCmd (t : Tid) (cmd : Nat) (s : State) : State :=
  match cmd with
  | 1 => supervisionStop t 7 0 s
  | 2 => mcClearOp t s
  | 3 => tensionOn t s
  | 4 => tensionOff t s
  | _ => s

/-- MC_TCTL rows. -/
def motionCmdRow (src : Src) (t : Tid) (cmd : Nat) (s : State) : State := mcRow src t (Reg.mcTctl t.val) (motionCmd t cmd) s

/-- MC_RC: LEARN and RES, then CLR (R221). -/
def mcRcWrite (t : Tid) (r : Nat) (v : W32) (s : State) : State :=
  let s := setFld (Reg.mcRc t.val r) Fld.mcRcRes (fieldB v 2 3) (setFld (Reg.mcRc t.val r) Fld.mcRcLearn (fieldB v 0 1) s)
  onBit v 1 (rcClrOp t r) s

/-- The loop that MC_INJ selects, and the loop that MC_CAP selects. -/
def capLoop (s : State) : Nat := fld s Reg.mcCap Fld.mcCapLoop

/-- MC_INJ: the fields, then GO; WAVE written 0 ends the signal (R235). -/
def mcInjWrite (v : W32) (s : State) : State :=
  let s := setReg Reg.mcInj ((reg s Reg.mcInj &&& 0xFFFFF000) ||| (v &&& 0xFFF)) s
  let s := if fld s Reg.mcInj Fld.mcInjWave = 0 then { s with mrn := { s.mrn with inj := { s.mrn.inj with active := false, sample := 0 } } } else s
  onBit v 12 startInjection s

/-- MC_CAP: the fields, then ARM (R236). -/
def mcCapWrite (v : W32) (s : State) : State :=
  let s := setReg Reg.mcCap ((reg s Reg.mcCap &&& 0xFFD00000) ||| (v &&& 0x2FFFFF)) s
  onBit v 20 armLoopCapture s

/-! ### Memory and cache (10) -/

/-- A row on the registers of memory and cache. -/
def memRow (src : Src) (off : Nat) (f : State → State) (s : State) : State := byDebug src [0] off f s

/-- CC_CTRL: EN, then INIT (R293). -/
def ccCtrlWrite (v : W32) (s : State) : State :=
  let s := if bitOf v.toNat 0 = s.cache.enabled then s else ccEnable (bitOf v.toNat 0) s
  onBit v 1 ccInit s

/-- CC_RNGCMD (R294): CMD = 0 starts no walk and is held as any RW field (R10). -/
def ccRngWrite (cmd : Nat) (s : State) : State :=
  if cmd ≠ 0 then ccRange cmd s
  else if s.cache.rngBusy then logAccess Reg.ccRngcmd s
  else setFld Reg.ccRngcmd Fld.ccRngcmdCmd 0 s

/-- MEM_FLIPSEL: TARGET and KIND, then ARM (R303); a pseudo-channel the part does not have is rejected with no effect (R35). -/
def flipselWrite (v : W32) (s : State) : State :=
  if !flipTargetFits s (partB v 0 13) then logAccess Reg.memFlipsel s
  else
    let s := setFld Reg.memFlipsel Fld.memFlipselTarget (fieldB v 0 12) (setFld Reg.memFlipsel Fld.memFlipselKind (fieldB v 12 1) s)
    onBit v 13 (memFlipArm (partB v 0 13)) s

/-! ### Power, faults, telemetry (11, 12) -/

/-- FLT_RET (R324, R326): 1 retires, 2 returns. -/
def fltRetCmd (u : BitVec 16) (cmd : Nat) (s : State) : State :=
  match cmd with
  | 1 => fltRetire u s
  | 2 => fltReturn u s
  | _ => s

/-- FLT_RET rows. -/
def fltRetRow (src : Src) (u : BitVec 16) (cmd : Nat) (s : State) : State := byDebug src [0] Reg.fltRet (fltRetCmd u cmd) s

/-- FLT_BCAST rows. -/
def fltBcastRow (src : Src) (mask : BitVec 8) (s : State) : State :=
  byDebug src [0] Reg.fltBcast (forAll ((setBits 8 mask.toNat).map tid) haltRequest) s

end Sys2Proof.Machine
end

