-- ==== Sys2Proof/Machine/Registers.lean ====
section
/-! DEFINITION. Register reads and writes by offset (R7-R10, R20, R33-R35): what bars an access, the 64-bit pairs, the fields a
write sets, the windows that may be written, and the registers with actions of their own. -/
namespace Sys2Proof.Machine

/-! ### What bars an access -/

/-- The queue whose registers or doorbells stand at an offset (R241). -/
def queueAt (off : Nat) : Option Nat :=
  if 0x108000 ≤ off ∧ off < 0x110000 then some ((off - 0x108000) / 32)
  else if 0x200000 ≤ off ∧ off < 0x202000 then some ((off - 0x200000) / 8)
  else none

/-- The MSI-X table of an endpoint at 0x0018_0000, 2,048 vectors of four words, and its pending-bit array at 0x0018_8000 (R240). -/
def msixAt (off : Nat) : Bool := decide (0x180000 ≤ off ∧ off < 0x188100)

/-- The endpoint that an access comes through; Puppeteer's come as through endpoint 0 (log entry 47). -/
def srcEp : Src → Nat
  | .host ep => ep.val
  | .puppeteer => 0

/-- The home of a word of an endpoint's MSI-X table. -/
def msixKey (src : Src) (off : Nat) : Nat := 8192 * srcEp src + (off - 0x180000) / 4

/-- What the MSI-X table returns; a pending bit is a free value (log entry 47). -/
def msixRead (src : Src) (off : Nat) (s : State) : W32 × State :=
  if off < 0x188000 then (s.hif.msixTab.get 0 (msixKey src off), s)
  else
    let f := takeFree s
    (BitVec.ofNat 32 f.1, f.2)

/-- A write of the MSI-X table of the endpoint; the pending bits take none. -/
def msixWrite (src : Src) (off : Nat) (v : W32) (s : State) : State :=
  if 0x180000 ≤ off ∧ off < 0x188000 ∧ off % 4 = 0 then
    { s with hif := { s.hif with msixTab := s.hif.msixTab.set 0 (msixKey src off) v } }
  else s

/-- Whether a register or a window stands at an offset (R33). -/
def mapped (s : State) (off : Nat) : Bool := (windowVal s off).isSome || (regAt off).isSome || msixAt off

/-- An access that does not reach a register: what a read of it returns, and the state it leaves (R7, R33, R34, R241). -/
def accessBars (src : Src) (off : Nat) (s : State) : Option (W32 × State) :=
  if romHeld src s then some (s.readData, s)
  else if off % 4 ≠ 0 then some (0xFFFFFFFF, logAccess off s)
  else if chipletDown s off then some (0xFFFFFFFF, logAccess off s)
  else if !mapped s off then some (0, logAccess off s)
  else if msixAt off then some (msixRead src off s)
  else
    match queueAt off with
    | some n => if queueReach s src n then none else some (0, wrongEp n s)
    | none => none

/-! ### 64-bit pairs (R9) -/

/-- Windows of 64-bit entries: the registers of a sequencer, coefficients and band sets. -/
def pairWindow (off : Nat) : Bool :=
  decide ((0x800000 ≤ off ∧ off < 0x1000000 ∧ 0x1000 ≤ off % 0x100000 ∧ off % 0x100000 < 0x1100)
    ∨ (0x1810000 ≤ off ∧ off < 0x1818000) ∨ (0x1820000 ≤ off ∧ off < 0x1824000))

/-- The lower offset of the pair that an offset belongs to, and whether it is the upper register. -/
def pairOf (off : Nat) : Option (Nat × Bool) :=
  if pairWindow off then some (off / 8 * 8, off % 8 == 4)
  else
    match regAt off with
    | none => none
    | some (row, ix) =>
      if row.dims.getLast? = some (2, 4) ∧ row.base ≠ Reg.mcRc 0 0 then some (off - 4 * ix.getLast?.getD 0, ix.getLast?.getD 0 == 1)
      else none

/-! ### Reads -/

/-- A word with the fields of an access code cleared. -/
def dropFlds (a : Acc) (fs : List RField) (v : W32) : W32 := withFlds v ((fs.filter (fun f => f.acc = a)).map (fun f => (⟨f.lo, f.w⟩, 0)))

/-- What one register or window word returns, and the RC fields it clears (R10). -/
def plainRead (off : Nat) (s : State) : W32 × State :=
  match windowVal s off with
  | some v => (v, s)
  | none =>
    match regAt off with
    | none => (0, s)
    | some (row, _) =>
      (dropFlds .wo row.fields (regVal s off), if row.fields.any (fun f => f.acc = .rc) then setReg off (dropFlds .rc row.fields (reg s off)) s else s)

/-- The latch of a pair (R9). -/
def latchOf (s : State) (lo : Nat) : Option W32 := s.pairLatch.get none lo

/-- A read that reaches its register: the lower register of a pair latches the upper half, the upper one returns and uses up what is
latched (R9). -/
def readAt (off : Nat) (s : State) : W32 × State :=
  let r := plainRead off s
  match pairOf off with
  | none => r
  | some (lo, false) => (r.1, { r.2 with pairLatch := r.2.pairLatch.set none lo (some (plainRead (lo + 4) s).1) })
  | some (lo, true) => ((latchOf s lo).getD r.1, { r.2 with pairLatch := r.2.pairLatch.set none lo none })

/-- A register read: the data returned stands in readData. -/
def readAny (src : Src) (off : Nat) (s : State) : State :=
  let s := hostWakes src s
  let r := (accessBars src off s).getD (readAt off s)
  { r.2 with readData := r.1 }

/-! ### Who writes, and when (R20, R21) -/

/-- The transports a register concerns: those of its block; a common register of a chiplet concerns four. -/
def offTransports (off : Nat) : List Nat :=
  if 0x410000 ≤ off ∧ off < 0x410800 then [(off - 0x410000) / 0x100]
  else if 0x800000 ≤ off ∧ off < 0x1000000 then [(off - 0x800000) / 0x100000]
  else if 0x1000000 ≤ off ∧ off < 0x1800000 then
    let c := (off - 0x1000000) / 0x400000
    let o := (off - 0x1000000) % 0x400000
    if o < 0x200000 then [4 * c + o / 0x80000] else [4 * c, 4 * c + 1, 4 * c + 2, 4 * c + 3]
  else if 0x1801000 ≤ off ∧ off < 0x1801800 then [(off - 0x1801000) / 0x100]
  else if 0x1804000 ≤ off ∧ off < 0x1804800 then [(off - 0x1804000) / 0x100]
  else if 0x1810000 ≤ off ∧ off < 0x1818000 then [(off - 0x1810000) / 0x1000]
  else if 0x1820000 ≤ off ∧ off < 0x1824000 then [(off - 0x1820000) / 0x800]
  else if 0x1830000 ≤ off ∧ off < 0x1832000 then [(off - 0x1830000) / 0x400]
  else if 0x1840000 ≤ off ∧ off < 0x1850000 then [(off - 0x1840000) / 0x2000]
  else if 0x1860000 ≤ off ∧ off < 0x1864000 then [(off - 0x1860000) / 0x800]
  else []

/-- The loop whose transport guards a register of injection or capture: the one selected, or for a write of MC_INJ or MC_CAP the
one it selects (R239; log entry 31). -/
def guardLoop (off : Nat) (v : W32) (s : State) : Nat :=
  if off = Reg.mcInj then fieldB v 0 5
  else if off = Reg.mcCap then fieldB v 0 5
  else injLoop s

/-- Whether a source may write a register. -/
def mayWrite (src : Src) (g : Guard) (off : Nat) (v : W32) (s : State) : Bool :=
  match g with
  | .host => true
  | .dbgT => srcMay src (offTransports off) s
  | .dbg0 => srcMay src [0] s
  | .chip => chipletMay src ((off - 0x1000000) / 0x400000) s
  | .dbgLoop => srcMay src [guardLoop off v s / 4] s
  | .firmware => srcMay src [] s
  | .nobody => true

/-- Whether a sequencer that a register concerns runs (R20). -/
def offRuns (s : State) (off : Nat) : Bool := (offTransports off).any (fun t => seqActive (seqOf s (tid t)))

/-! ### Fields -/

/-- What a write leaves in a field (R10); fields with actions are not written here. -/
def fieldNew (lock : Bool) (f : RField) (old new : Nat) : Nat :=
  let o := fieldOf old f.lo f.w
  let n := fieldOf new f.lo f.w
  match f.acc with
  | .rw => n
  | .rwl => if lock then o else n
  | .w1c => Nat.land o (2 ^ f.w - 1 - n)
  | _ => o

/-- What a write leaves in a register: while its sequencer runs, only live fields change (R20). -/
def fieldsNew (lock run : Bool) (fs : List RField) (old new : Nat) : Nat :=
  fs.foldl (fun a f => if run && !f.live then a else putField a f.lo f.w (fieldNew lock f old new)) old

/-- Whether a field is one that a write sets (R10). -/
def writable (f : RField) : Bool := f.acc == .rw || f.acc == .rwl || f.acc == .w1c

/-- A write that R20 discards and logs while the sequencer runs: any write of a register without a live field, and of a register
that has live fields beside others one that would change a field that is not live (log entry 31). -/
def liveDenied (run : Bool) (fs : List RField) (old new : Nat) : Bool :=
  run && (fs.all (fun f => !(writable f && f.live)) || fs.any (fun f => !f.live && fieldNew false f old new != fieldOf old f.lo f.w))

/-- A write of a register that holds a locked field, whatever the value (R10). -/
def lockDenied (lock : Bool) (fs : List RField) : Bool := lock && fs.any (fun f => f.acc == .rwl)

/-- Every field written has a valid value (R35 and the register tables). -/
def rangesFit (fs : List RField) (new : Nat) : Bool :=
  fs.all (fun f => (f.acc != .rw && f.acc != .rwl) || decide (f.lo' ≤ fieldOf new f.lo f.w ∧ fieldOf new f.lo f.w ≤ f.hi'))

/-- TBX_NBUF: the four classes fit a group beside its system area (R182). -/
def buffersFit (s : State) (off : Nat) (v : W32) : Bool :=
  let n (c : Nat) : Nat := if off = Reg.tbxNbuf c then fieldB v 0 20 else perGroup s c
  decide (systemArea + n 0 * classSize 0 + n 1 * classSize 1 + n 2 * classSize 2 + n 3 * classSize 3 ≤ groupBytes)

/-- The rules a register's table adds to its ranges (R204, R198, R324, R357, R182). -/
def valueFits (s : State) (off : Nat) (v : W32) : Bool :=
  if 0x410000 ≤ off ∧ off < 0x410800 then
    let t := (off - 0x410000) / 0x100
    if off = Reg.yyLaw t then decide (fieldB v 0 16 < fieldB v 16 16)
    else if off = Reg.yyLim t then decide (2500 ≤ fieldB v 0 14 ∧ fieldB v 0 14 < fieldB v 14 14 ∧ fieldB v 14 14 ≤ topSpeed (tpOf s (tid t)))
    else true
  else if off = Reg.pwrThcfg then decide (fieldB v 0 8 + 3 ≤ fieldB v 8 8 ∧ fieldB v 8 8 ≤ 135)
  else if Reg.fltCls 0 ≤ off ∧ off < Reg.fltCls 12 then decide (fieldB v 30 2 ≠ 3)
  else if Reg.tbxNbuf 0 ≤ off ∧ off < Reg.tbxNbuf 4 then buffersFit s off v
  else true

/-- Whether the lock bit of the block is set (R10). -/
def lockedAt (s : State) (off : Nat) : Bool :=
  if 0x800000 ≤ off ∧ off < 0x1000000 then tsLocked s ((off - 0x800000) / 0x100000)
  else if 0x400000 ≤ off ∧ off < 0x410000 then fld s Reg.tbxCtrl Fld.tbxCtrlLock == 1
  else false

/-- What follows from a new value: the grants are computed again (R309), waiters are served (R193). -/
def afterWrite (off : Nat) (s : State) : State :=
  if Reg.wuCfg ≤ off ∧ off ≤ Reg.wuSave then regrant s
  else if 0x800000 ≤ off ∧ off < 0x1000000 ∧ off % 0x100000 = 0x50004 then regrant s
  else if Reg.tbxQuota 0 ≤ off ∧ off < Reg.tbxQuota 8 then serveAll s
  else s

/-- A write of a register without behaviour of its own. -/
def storeWrite (row : RRow) (off : Nat) (v : W32) (s : State) : State :=
  if !rangesFit row.fields v.toNat ∨ !valueFits s off v then logAccess off s
  else
    let run := offRuns s off
    let lock := lockedAt s off
    let old := (reg s off).toNat
    let s := if liveDenied run row.fields old v.toNat then logAccess off s else s
    let s := if lockDenied lock row.fields ∧ 0x800000 ≤ off then lockViolation ((off - 0x800000) / 0x100000) s else s
    afterWrite off (setReg off (BitVec.ofNat 32 (fieldsNew lock run row.fields old v.toNat)) s)

/-! ### Pairs and windows -/

/-- A 64-bit coefficient (R218): the active bank is not written in AUTO or RELAY. -/
def coefWrite (lo : Nat) (v : W64) (s : State) : State :=
  let i := (lo - 0x1810000) / 8
  let l := i / 128
  let bank : Bool := i / 64 % 2 = 1
  let p := getLoop s l
  if p.bank = bank ∧ (p.mode = .auto ∨ p.mode = .relay) then logAccess lo s
  else modLoop l (fun p => setBank bank ((if bank then p.coefB else p.coefA).set 0 (i % 64) v) p) s

/-- A 64-bit value takes effect (R9, R179, R239, R282). -/
def pairEffect (lo : Nat) (v : W64) (s : State) : State :=
  if 0x1810000 ≤ lo ∧ lo < 0x1818000 then coefWrite lo v s
  else if 0x1820000 ≤ lo ∧ lo < 0x1824000 then
    let i := (lo - 0x1820000) / 8
    modMot (tid (i / 256)) (fun m => { m with bandStore := m.bandStore.set 0 (i % 256) v }) s
  else if lo = Reg.codecOqbase 0 ∧ fld s Reg.codecOqcfg Fld.codecOqcfgEn = 1 then logAccess lo s
  else if Reg.hifSqbase 0 0 ≤ lo ∧ lo < Reg.hifSqbase 1024 0 ∧ queueEn s ((lo - Reg.hifSqbase 0 0) / 32) = true then logAccess lo s
  else setPair lo (lo + 4) v.toNat s

/-- What a lower register holds now. -/
def lowerNow (s : State) (lo : Nat) : W32 := (windowVal s lo).getD (reg s lo)

/-- A write to a register of a pair (R9). -/
def pairWrite (lo : Nat) (upper : Bool) (v : W32) (s : State) : State :=
  if upper then
    pairEffect lo (v ++ (s.pairHeld.get none lo).getD (lowerNow s lo)) { s with pairHeld := s.pairHeld.set none lo none }
  else { s with pairHeld := s.pairHeld.set none lo (some v) }

/-- A word of the preset table: bytes 30 to 63 of an entry stay zero (R157). -/
def presetWrite (o : Nat) (v : W32) (r : RcT) : RcT :=
  if o % 64 < 28 then { r with presets := r.presets.write 0 o (leBytes 4 v.toNat) }
  else if o % 64 = 28 then { r with presets := r.presets.write 0 o (leBytes 2 v.toNat) }
  else r

/-- A word of a window that may be written (R124, R157, R239); others are read-only. -/
def windowWrite (off : Nat) (v : W32) (s : State) : State :=
  if 0x1000000 ≤ off ∧ off < 0x1800000 then
    let t := tid ((offTransports off).headD 0)
    let o := (off - 0x1000000) % 0x80000
    if 0x40000 ≤ o ∧ o < 0x50000 then setZone t ((o - 0x40000) / 4) (v &&& 0xDFFFFFFF) s
    else if 0x50000 ≤ o ∧ o < 0x50800 then modRc t (presetWrite (o - 0x50000) v) s
    else s
  else if 0x1830000 ≤ off ∧ off < 0x1832000 then
    let i := (off - 0x1830000) / 4
    if (getLoop s (i / 64)).mode = .manual then modLoop (i / 64) (fun p => { p with words := p.words.set 0 (i % 64) v }) s
    else logAccess off s
  else if 0x1840000 ≤ off ∧ off < 0x1850000 then
    let i := (off - 0x1840000) / 4
    modMot (tid (i / 2048)) (binSet (i / 1024 % 2) (i % 1024) v) s
  else if 0x1860000 ≤ off ∧ off < 0x1864000 then
    let i := (off - 0x1860000) / 4
    modMot (tid (i / 512)) (fun m => { m with wraps := m.wraps.set 0 (i % 512) (partB v 0 24) }) s
  else s

/-- Windows nobody writes: those of a sequencer, calibration results, captures and code (R58, R239). -/
def windowFixed (off : Nat) : Bool :=
  decide (off < 0x1000000 ∨ (off < 0x1800000 ∧ (off - 0x1000000) % 0x80000 < 0x40000) ∨ 0x1880000 ≤ off)

/-! ### Registers with actions of their own -/

/-- MC_LCTL (R215, R216, R218, R219): the bank named comes into use at the loop's next trigger, if it is not the one in use; a mode
without a program, and another bank while the band owns the selection, are refused. -/
def lctlWrite (l : Nat) (v : W32) (s : State) : State :=
  let off := Reg.mcLctl (l / 4) (l % 4)
  let mode := fieldB v 0 2
  let p := getLoop s l
  if mode = 3 ∨ (mode ≠ 0 ∧ p.hasProg = false) then logAccess off s
  else
    let s := setFld off Fld.mcLctlMode mode s
    let s := if l % 4 = 2 then setFld off Fld.mcLctlBandsw (fieldB v 3 1) s else s
    if l % 4 = 2 ∧ fieldB v 3 1 = 1 then (if fieldB v 2 1 = fld s off Fld.mcLctlBanksel then s else logAccess off s)
    else
      let b : Bool := fieldB v 2 1 = 1
      modLoop l (fun p => { p with selPend := if b = p.bank then none else some b }) (setFld off Fld.mcLctlBanksel (fieldB v 2 1) s)

/-- The write of a register that has behaviour of its own: i and j are its indices. -/
def ownWrite (src : Src) (base i j off : Nat) (v : W32) : Option (State → State) :=
  if base = Reg.glbRst then some (byAny src (onBit v 0 warmRequest))
  else if base = Reg.tsCtrl 0 then some (tsRow src (tid i) (tsCtrlWrite (tid i) v))
  else if base = Reg.tsEvpost 0 then some (byDebug src [i] off (tsEvpostOp (tid i) (partB v 0 8)))
  else if base = Reg.vfyLanecmd 0 then some (laneCmdRow src (tid i) (fieldB v 0 6) (fieldB v 8 2))
  else if base = Reg.rcMode 0 then some (rcModeRow src (tid (4 * i + j)) (fieldB v 0 2))
  else if base = Reg.rcEng 0 0 then some (rcEngRow src (32 * i + j) (bitOf v.toNat 0))
  else if base = Reg.rcCaplane 0 0 then some (byChiplet src i off (fun s =>
    let fs := [(Fld.rcCaplaneLane, fieldB v 0 9), (Fld.rcCaplaneTrig, fieldB v 9 2)]
    if 263 < fieldB v 0 9 ∨ offRuns s off = true then logAccess off s
    else onBit v 11 (armCapture i j) (setReg off (withFlds (reg s off) fs) s)))
  else if base = Reg.codecEng 0 then some (codecEngRow src i (bitOf v.toNat 0))
  else if base = Reg.codecOqcfg then some (offEnableRow src v)
  else if base = Reg.codecOqtail then some (byAny src (offSubmitOp (fieldB v 0 16)))
  else if base = Reg.tbxCtrl then some (tbxRow src off (tbxCtrlWrite v))
  else if base = Reg.tbxWaitclr then some (tbxRow src off (waitclrOp (fieldB v 0 4)))
  else if base = Reg.tbxInspid then some (tbxRow src off (inspidOp (fieldB v 0 24)))
  else if base = Reg.mcTctl 0 then some (motionCmdRow src (tid i) (fieldB v 0 3))
  else if base = Reg.mcRc 0 0 then some (mcRow src (tid i) off (mcRcWrite (tid i) j v))
  else if base = Reg.mcLctl 0 0 then some (mcRow src (tid i) off (lctlWrite (4 * i + j) v))
  else if base = Reg.mcInj then some (byDebug src [fieldB v 0 5 / 4] off (mcInjWrite v))
  else if base = Reg.mcCap then some (byDebug src [fieldB v 0 5 / 4] off (mcCapWrite v))
  else if base = Reg.hifQcfg 0 then some (queueEnable src i v)
  else if base = Reg.hifQstat 0 then some (byAny src (onBit v 1 (queueErrClear src i)))
  else if base = Reg.hifSqtdb 0 then some (tailDoorbell src i (fieldB v 0 16))
  else if base = Reg.hifCqhdb 0 then some (headDoorbell src i (fieldB v 0 16))
  else if base = Reg.mbxCtl then some (byAny src (onBit v 0 (mailboxGo src)))
  else if base = Reg.ccCtrl then some (memRow src off (ccCtrlWrite v))
  else if base = Reg.ccWays then some (memRow src off (fun s => ccWayRetire (partB v 16 16) (ccWayPower (partB v 0 16) s)))
  else if base = Reg.ccSp then some (memRow src off (ccScratchpad (partB v 0 8)))
  else if base = Reg.ccRngcmd then some (memRow src off (ccRngWrite (fieldB v 0 2)))
  else if base = Reg.memFlipsel then some (memRow src off (flipselWrite v))
  else if base = Reg.memRemap 0 0 then some (memRow src off (writeRemap i j (fieldB v 0 16) (bitOf v.toNat 16)))
  else if base = Reg.wuMeas then some (memRow src off (onBit v 26 measStart))
  else if base = Reg.pwrRlog then some (byAny src (onBit v 1 rlogAck))
  else if base = Reg.fltRet then some (fltRetRow src (partB v 0 16) (fieldB v 16 2))
  else if base = Reg.fltBcast then some (fltBcastRow src (partB v 0 8))
  else if base = Reg.telCtrl then some (byAny src (onBit v 0 telFreeze))
  else none

/-- Who may write a window: Puppeteer, or the host with DBG_EN of the transport (R156, R239); a fixed one ignores the write. -/
def windowRow (src : Src) (off : Nat) (v : W32) (s : State) : State :=
  if windowFixed off then s
  else byDebug src (offTransports off) off (fun s =>
    match pairOf off with
    | some (lo, up) => pairWrite lo up v s
    | none => windowWrite off v s) s

/-- A register write that reaches its register. -/
def writeAt (src : Src) (off : Nat) (v : W32) (s : State) : State :=
  if (windowVal s off).isSome then windowRow src off v s
  else
    match regAt off with
    | none => s
    | some (row, ix) =>
      match ownWrite src row.base (ix.getD 0 0) (ix.getD 1 0) off v with
      | some f => f s
      | none =>
        if !mayWrite src row.guard off v s then logAccess off s
        else if row.guard = .nobody then s
        else
          match pairOf off with
          | some (lo, up) => pairWrite lo up v s
          | none => storeWrite row off v s

/-- REGISTER_WRITE (R10). -/
def writeAny (src : Src) (off : Nat) (v : W32) (s : State) : State :=
  let s := hostWakes src s
  match accessBars src off s with
  | some r => if romHeld src s then s else msixWrite src off v r.2
  | none => writeAt src off v s

/-- MALFORMED_REGISTER_ACCESS (R7): no effect on the register; a read of it returns all ones. -/
def malformedAny (src : Src) (off size : Nat) (read : Bool) (s : State) : State :=
  if (off % 4 = 0 ∧ size = 4) ∨ romHeld src s = true then s
  else
    let s := logAccess off (hostWakes src s)
    if read then { s with readData := 0xFFFFFFFF } else s

/-- UNMAPPED_ACCESS (R33). -/
def unmappedAny (src : Src) (off : Nat) (read : Bool) (s : State) : State :=
  if (off % 4 = 0 ∧ mapped s off = true) ∨ romHeld src s = true then s
  else
    let s := logAccess off (hostWakes src s)
    if read then { s with readData := 0 } else s

end Sys2Proof.Machine
end

