-- ==== Sys2Proof/Machine/Accesses.lean ====
section
/-! DEFINITION. The rows of memory and cache, and of register accesses. -/
namespace Sys2Proof.Machine

/-- A read of a lower register of a pair (R9). -/
def lowerRead (src : Src) (off : Nat) (s : State) : State := readAny src off s

/-- A read of an upper register of a pair (R9). -/
def upperRead (src : Src) (off : Nat) (s : State) : State := readAny src off s

/-- CACHE_ACCESS (R288). -/
def execCacheAccess (agent : Fin 16) (addr : BitVec 48) (wr : Option (List Byte)) (s : State) : Host.Outcome State Fault Refusal :=
  .next (cacheAccess agent.val addr.toNat wr s)

/-- CACHE_FILL (R289). -/
def execCacheFill (line : BitVec 41) (s : State) : Host.Outcome State Fault Refusal := .next (cacheFill line.toNat s)

/-- EVICTION_ACCEPT (R291). -/
def execEvictionAccept (line : BitVec 41) (s : State) : Host.Outcome State Fault Refusal := .next (evictionAccept line.toNat s)

/-- SNOOP_WRITE (R292). -/
def execSnoopWrite (addr : BitVec 48) (bytes : List Byte) (scrub : Bool) (s : State) : Host.Outcome State Fault Refusal :=
  .next (snoopWrite addr.toNat bytes scrub s)

/-- SCRATCHPAD_ACCESS (R295). -/
def execScratchpadAccess (agent : Fin 16) (addr : BitVec 48) (wr : Option (List Byte)) (s : State) : Host.Outcome State Fault Refusal :=
  .next (scratchpadAccess agent.val addr.toNat wr s)

/-- SCRUB_LINE (R299). -/
def execScrubLine (s : State) : Host.Outcome State Fault Refusal := .next (scrubLine s)

/-- CC_INIT (R293). -/
def execCcInit (src : Src) (s : State) : Host.Outcome State Fault Refusal := .next (memRow src Reg.ccCtrl ccInit s)

/-- CC_INIT_DONE (R293). -/
def execCcInitDone (s : State) : Host.Outcome State Fault Refusal := .next (ccInitDone s)

/-- CC_ENABLE (R293). -/
def execCcEnable (src : Src) (en : Bool) (s : State) : Host.Outcome State Fault Refusal := .next (memRow src Reg.ccCtrl (ccEnable en) s)

/-- CC_WAY_POWER (R293). -/
def execCcWayPower (src : Src) (ways : BitVec 16) (s : State) : Host.Outcome State Fault Refusal :=
  .next (memRow src Reg.ccWays (ccWayPower ways) s)

/-- CC_WAY_RETIRE (R293). -/
def execCcWayRetire (src : Src) (ways : BitVec 16) (s : State) : Host.Outcome State Fault Refusal :=
  .next (memRow src Reg.ccWays (ccWayRetire ways) s)

/-- CC_WAY_CLEAN_DONE (R293). -/
def execCcWayCleanDone (w : Fin 16) (s : State) : Host.Outcome State Fault Refusal := .next (ccWayCleanDone w.val s)

/-- CC_RANGE_CLEAN (R294). -/
def execCcRangeClean (src : Src) (s : State) : Host.Outcome State Fault Refusal := .next (memRow src Reg.ccRngcmd (ccRngWrite 1) s)

/-- CC_RANGE_CLEAN_INVALIDATE (R294). -/
def execCcRangeCleanInvalidate (src : Src) (s : State) : Host.Outcome State Fault Refusal :=
  .next (memRow src Reg.ccRngcmd (ccRngWrite 2) s)

/-- CC_RANGE_DISCARD (R294). -/
def execCcRangeDiscard (src : Src) (s : State) : Host.Outcome State Fault Refusal := .next (memRow src Reg.ccRngcmd (ccRngWrite 3) s)

/-- CC_RANGE_WALK_DONE (R294). -/
def execCcRangeWalkDone (s : State) : Host.Outcome State Fault Refusal := .next (ccRangeDone s)

/-- CC_SCRATCHPAD (R295). -/
def execCcScratchpad (src : Src) (sp : BitVec 8) (s : State) : Host.Outcome State Fault Refusal :=
  .next (memRow src Reg.ccSp (ccScratchpad sp) s)

/-- SCRATCHPAD_READY (R295). -/
def execScratchpadReady (slot : Fin 8) (s : State) : Host.Outcome State Fault Refusal := .next (scratchpadReady slot.val s)

/-- MEM_FLIP_ARM (R303). -/
def execMemFlipArm (src : Src) (sel : BitVec 13) (s : State) : Host.Outcome State Fault Refusal :=
  .next (memRow src Reg.memFlipsel (memFlipArm sel) s)

/-- MEM_REMAP_WRITE (R300). -/
def execMemRemapWrite (src : Src) (n : Fin 2048) (e : Fin 4) (word : BitVec 16) (valid : Bool) (s : State) : Host.Outcome State Fault Refusal :=
  .next (memRow src (Reg.memRemap n.val e.val) (writeRemap n.val e.val word.toNat valid) s)

/-- REGISTER_WRITE (R10). -/
def execRegisterWrite (src : Src) (off : BitVec 28) (val : W32) (s : State) : Host.Outcome State Fault Refusal :=
  .next (settleHost (writeAny src off.toNat val s))

/-- REGISTER_READ_CLEAR (R10). -/
def execRegisterReadClear (src : Src) (off : BitVec 28) (s : State) : Host.Outcome State Fault Refusal := .next (readAny src off.toNat s)

/-- PAIR_LOWER_READ (R9). -/
def execPairLowerRead (src : Src) (off : BitVec 28) (s : State) : Host.Outcome State Fault Refusal := .next (lowerRead src off.toNat s)

/-- PAIR_UPPER_READ (R9). -/
def execPairUpperRead (src : Src) (off : BitVec 28) (s : State) : Host.Outcome State Fault Refusal := .next (upperRead src off.toNat s)

/-- MALFORMED_REGISTER_ACCESS (R7). -/
def execMalformedRegisterAccess (src : Src) (off : BitVec 28) (size : Fin 16) (read : Bool) (s : State) : Host.Outcome State Fault Refusal :=
  .next (malformedAny src off.toNat size.val read s)

/-- UNMAPPED_ACCESS (R33). -/
def execUnmappedAccess (src : Src) (off : BitVec 28) (read : Bool) (s : State) : Host.Outcome State Fault Refusal :=
  .next (unmappedAny src off.toNat read s)

end Sys2Proof.Machine
end

