-- ==== Sys2Proof/Machine/Engines.lean ====
section
/-! DEFINITION. The rows of the codec engines and of Toybox's registers. -/
namespace Sys2Proof.Machine

/-- COMP_JOB_DISPATCH (R159). -/
def execCompJobDispatch (r : JobReq) (e : Fin 64) (s : State) : Host.Outcome State Fault Refusal :=
  .next (settleHost (dispatchOp r e.val s))

/-- COMP_JOB_STOP (R170). -/
def execCompJobStop (e : Fin 32) (l : List Coding) (s : State) : Host.Outcome State Fault Refusal := .next (settleHost (compStopOp e.val l s))

/-- EXPAND_JOB_STOP (R178). -/
def execExpandJobStop (e : Fin 32) (_ : Unit) (s : State) : Host.Outcome State Fault Refusal :=
  .next (settleHost (expStopOp e.val s))

/-- CODEC_ENGINE_FAULT (R161). -/
def execCodecEngineFault (e : Fin 64) (s : State) : Host.Outcome State Fault Refusal := .next (settleHost (engineFaultOp e.val s))

/-- HISTORY_IDLE_RELEASE (R169). -/
def execHistoryIdleRelease (scid : BitVec 16) (s : State) : Host.Outcome State Fault Refusal := .next (historyIdleOp scid.toNat s)

/-- OFFLOAD_SUBMIT (R179). -/
def execOffloadSubmit (src : Src) (tail : BitVec 16) (s : State) : Host.Outcome State Fault Refusal :=
  .next (byAny src (offSubmitOp tail.toNat) s)

/-- OFFLOAD_ENABLE (R180). -/
def execOffloadEnable (src : Src) (cfg : W32) (s : State) : Host.Outcome State Fault Refusal := .next (offEnableRow src cfg s)

/-- CODEC_ENG_RETIRE (R161). -/
def execCodecEngRetire (src : Src) (e : Fin 64) (retired : Bool) (s : State) : Host.Outcome State Fault Refusal :=
  .next (settleHost (codecEngRow src e.val retired s))

/-- TBX_WAITCLR (R192). -/
def execTbxWaitclr (src : Src) (classes : BitVec 4) (s : State) : Host.Outcome State Fault Refusal :=
  .next (tbxRow src Reg.tbxWaitclr (waitclrOp classes.toNat) s)

/-- TBX_INSPID (R187). -/
def execTbxInspid (src : Src) (bufid : BitVec 24) (s : State) : Host.Outcome State Fault Refusal :=
  .next (tbxRow src Reg.tbxInspid (inspidOp bufid.toNat) s)

/-- TBX_LOCK (R10). -/
def execTbxLock (src : Src) (s : State) : Host.Outcome State Fault Refusal := .next (tbxRow src Reg.tbxCtrl tbxLockOp s)

end Sys2Proof.Machine
end

