-- ==== Sys2Proof/Machine/HostRows.lean ====
section
/-! DEFINITION. The rows of the host interface: commands fetched from a queue, posting, doorbells, endpoints, mailbox, power states. -/
namespace Sys2Proof.Machine

/-- An FLR of an endpoint that is there is also a class 11 event of its port (R243, R324). -/
def endpointLost (ep : Nat) (s : State) : State :=
  if endpointPresent s ep then faultEvent (unitId 11 (ep / 2)) 0 0 (killEndpoint ep s) else s

/-- A link-down does to the endpoint's queues what an FLR does (R243). -/
def linkDownOp (ep : Nat) (s : State) : State := endpointLost ep s

/-- PEp_PERST_N low (R353): the link-down of both endpoints, and the port stays in reset. -/
def perstRow (p : Nat) (s : State) : State :=
  let lost := endpointPresent s (2 * p) || endpointPresent s (2 * p + 1)
  let s := perstAssert p s
  if lost then faultEvent (unitId 11 p) 0 0 s else s

/-- NEGOTIATE (R250). -/
def execNegotiate (q : Fin 1024) (e : Entry) (s : State) : Host.Outcome State Fault Refusal :=
  .next (settleHost (fetchCmd 0x00 q.val e negotiateOp s))

/-- IDENTIFY (R274). -/
def execIdentify (q : Fin 1024) (e : Entry) (s : State) : Host.Outcome State Fault Refusal :=
  .next (settleHost (fetchCmd 0x01 q.val e identifyOp s))

/-- GET_LOG (R275). -/
def execGetLog (q : Fin 1024) (e : Entry) (s : State) : Host.Outcome State Fault Refusal :=
  .next (settleHost (fetchCmd 0x02 q.val e getLogOp s))

/-- SET_FEATURE (R276). -/
def execSetFeature (q : Fin 1024) (e : Entry) (s : State) : Host.Outcome State Fault Refusal :=
  .next (settleHost (fetchCmd 0x03 q.val e setFeatureCmd s))

/-- ABORT (R270). -/
def execAbortCmd (q : Fin 1024) (e : Entry) (s : State) : Host.Outcome State Fault Refusal :=
  .next (settleHost (fetchCmd 0x04 q.val e abortOp s))

/-- SELF_TEST (R272). -/
def execSelfTest (q : Fin 1024) (e : Entry) (s : State) : Host.Outcome State Fault Refusal :=
  .next (settleHost (fetchCmd 0x05 q.val e selfTestOp s))

/-- LOAD (R267). -/
def execLoadCmd (q : Fin 1024) (e : Entry) (s : State) : Host.Outcome State Fault Refusal :=
  .next (settleHost (fetchCmd 0x08 q.val e loadOp s))

/-- UNLOAD (R268). -/
def execUnload (q : Fin 1024) (e : Entry) (s : State) : Host.Outcome State Fault Refusal :=
  .next (settleHost (fetchCmd 0x09 q.val e unloadOp s))

/-- FORMAT_VOLUME (R268). -/
def execFormatVolume (q : Fin 1024) (e : Entry) (s : State) : Host.Outcome State Fault Refusal :=
  .next (settleHost (fetchCmd 0x0A q.val e formatOp s))

/-- LOAD_PROGRAM (R269). -/
def execLoadProgram (q : Fin 1024) (e : Entry) (s : State) : Host.Outcome State Fault Refusal :=
  .next (settleHost (fetchCmd 0x0B q.val e loadProgramOp s))

/-- OPEN_STREAM (R254). -/
def execOpenStream (q : Fin 1024) (e : Entry) (s : State) : Host.Outcome State Fault Refusal :=
  .next (settleHost (fetchCmd 0x10 q.val e openStreamOp s))

/-- CLOSE_STREAM (R255). -/
def execCloseStream (q : Fin 1024) (e : Entry) (s : State) : Host.Outcome State Fault Refusal :=
  .next (settleHost (fetchCmd 0x11 q.val e streamCmdOp s))

/-- WRITE_RECORDS (R256). -/
def execWriteRecords (q : Fin 1024) (e : Entry) (s : State) : Host.Outcome State Fault Refusal :=
  .next (settleHost (fetchCmd 0x12 q.val e streamCmdOp s))

/-- READ_RECORDS (R263). -/
def execReadRecords (q : Fin 1024) (e : Entry) (s : State) : Host.Outcome State Fault Refusal :=
  .next (settleHost (fetchCmd 0x13 q.val e streamCmdOp s))

/-- FLUSH (R266). -/
def execFlush (q : Fin 1024) (e : Entry) (s : State) : Host.Outcome State Fault Refusal :=
  .next (settleHost (fetchCmd 0x14 q.val e streamCmdOp s))

/-- COMMIT (R266). -/
def execCommit (q : Fin 1024) (e : Entry) (s : State) : Host.Outcome State Fault Refusal :=
  .next (settleHost (fetchCmd 0x15 q.val e streamCmdOp s))

/-- LOCATE (R265). -/
def execLocate (q : Fin 1024) (e : Entry) (s : State) : Host.Outcome State Fault Refusal :=
  .next (settleHost (fetchCmd 0x16 q.val e streamCmdOp s))

/-- SELF_TEST_RESUME (R273). -/
def execSelfTestResume (s : State) : Host.Outcome State Fault Refusal := .next (testResume s)

/-- SELF_TEST_SEGMENT_END (R272). -/
def execSelfTestSegmentEnd (fail : Option (BitVec 16)) (s : State) : Host.Outcome State Fault Refusal :=
  .next (settleHost (testSegmentEnd fail s))

/-- LEDGER_POST (R259). -/
def execLedgerPost (t : Tid) (s : State) : Host.Outcome State Fault Refusal := .next (settleHost (ledgerPostOp t s))

/-- COMPLETION_POST (R248). -/
def execCompletionPost (q : Fin 1024) (s : State) : Host.Outcome State Fault Refusal := .next (settleHost (completionPost q.val s))

/-- COALESCE_TIMEOUT (R249). -/
def execCoalesceTimeout (q : Fin 1024) (s : State) : Host.Outcome State Fault Refusal := .next (coalesceTimeout q.val s)

/-- NOTICE_POST (R278). -/
def execNoticePost (s : State) : Host.Outcome State Fault Refusal := .next (noticePost s)

/-- SQ_TAIL_DOORBELL (R245). -/
def execSqTailDoorbell (src : Src) (q : Fin 1024) (ptr : BitVec 16) (s : State) : Host.Outcome State Fault Refusal :=
  .next (if romHeld src s then s else tailDoorbell src q.val ptr.toNat s)

/-- CQ_HEAD_DOORBELL (R245). -/
def execCqHeadDoorbell (src : Src) (q : Fin 1024) (ptr : BitVec 16) (s : State) : Host.Outcome State Fault Refusal :=
  .next (if romHeld src s then s else headDoorbell src q.val ptr.toNat s)

/-- QUEUE_ENABLE (R244). -/
def execQueueEnable (src : Src) (q : Fin 1024) (cfg : W32) (s : State) : Host.Outcome State Fault Refusal :=
  .next (if romHeld src s then s else queueEnable src q.val cfg s)

/-- QUEUE_ERR_CLEAR (R282). -/
def execQueueErrClear (src : Src) (q : Fin 1024) (s : State) : Host.Outcome State Fault Refusal := .next (if romHeld src s then s else queueErrClear src q.val s)

/-- HOST_MEMORY_ERROR (R242). -/
def execHostMemoryError (q : Fin 1024) (tag : Option (BitVec 16)) (s : State) : Host.Outcome State Fault Refusal :=
  .next (hostMemoryError q.val tag s)

/-- ENDPOINT_FLR (R243). -/
def execEndpointFlr (ep : Fin 4) (s : State) : Host.Outcome State Fault Refusal := .next (endpointLost ep.val s)

/-- LINK_DOWN (R243). -/
def execLinkDown (ep : Fin 4) (s : State) : Host.Outcome State Fault Refusal := .next (linkDownOp ep.val s)

/-- PERST_ASSERT (R353). -/
def execPerstAssert (p : Fin 2) (s : State) : Host.Outcome State Fault Refusal := .next (perstRow p.val s)

/-- MBX_GO (R283). -/
def execMbxGo (src : Src) (s : State) : Host.Outcome State Fault Refusal := .next (settleHost (mailboxGo src s))

/-- POWER_STATE_IDLE_EXPIRY (R279). -/
def execPowerStateIdleExpiry (s : State) : Host.Outcome State Fault Refusal := .next (psExpiry s)

/-- POWER_STATE_ENTRY_DONE (R279). -/
def execPowerStateEntryDone (s : State) : Host.Outcome State Fault Refusal := .next (psEntered s)

/-- WAKE (R280). -/
def execWake (s : State) : Host.Outcome State Fault Refusal := .next (wakeUp s)

/-- HOST_READ_DATA (R256). -/
def execHostReadData (scid : BitVec 16) (len : Nat) (s : State) : Host.Outcome State Fault Refusal :=
  .next (settleHost (hostReadData scid len s))

end Sys2Proof.Machine
end

