-- ==== Sys2Proof/Machine/LoopCode.lean ====
section
/-! DEFINITION. The rows of Rhoval-L (R59): each runs as the next instruction of the evaluation in progress. -/
namespace Sys2Proof.Machine

/-- A row of the arithmetic unit: where it puts the evaluation to an end by an overrun, a transport may have stopped, and host
commands with it (R208, R231). -/
def loopRow (f : State → State) (s : State) : State :=
  let s' := f s
  if s'.mrn.ev.isSome then s' else settleHost s'

/-- L_ALU (R59). -/
def execLAlu (rd ra rb : BitVec 5) (func : BitVec 11) (s : State) : Host.Outcome State Fault Refusal :=
  .next (loopRow (runL (.reg rd ra rb func)) s)

/-- ADDIS (R59). -/
def execAddis (rd ra : BitVec 5) (imm : BitVec 16) (s : State) : Host.Outcome State Fault Refusal :=
  .next (loopRow (runL (.imm .addis rd ra imm)) s)

/-- LDI (R59). -/
def execLdi (rd ra : BitVec 5) (imm : BitVec 16) (s : State) : Host.Outcome State Fault Refusal :=
  .next (loopRow (runL (.imm .ldi rd ra imm)) s)

/-- LDHI (R59). -/
def execLdhi (rd ra : BitVec 5) (imm : BitVec 16) (s : State) : Host.Outcome State Fault Refusal :=
  .next (loopRow (runL (.imm .ldhi rd ra imm)) s)

/-- LDS (R59). -/
def execLds (rd ra : BitVec 5) (imm : BitVec 16) (s : State) : Host.Outcome State Fault Refusal :=
  .next (loopRow (runL (.imm .lds rd ra imm)) s)

/-- STS (R59, R220). -/
def execSts (rd ra : BitVec 5) (imm : BitVec 16) (s : State) : Host.Outcome State Fault Refusal :=
  .next (loopRow (runL (.imm .sts rd ra imm)) s)

/-- IN (R212). -/
def execLIn (rd ra : BitVec 5) (imm : BitVec 16) (s : State) : Host.Outcome State Fault Refusal :=
  .next (loopRow (runL (.imm .lin rd ra imm)) s)

/-- OUT (R213). -/
def execLOut (rd ra : BitVec 5) (imm : BitVec 16) (s : State) : Host.Outcome State Fault Refusal :=
  .next (loopRow (runL (.imm .lout rd ra imm)) s)

/-- RDACC (R59). -/
def execRdacc (rd ra : BitVec 5) (imm : BitVec 16) (s : State) : Host.Outcome State Fault Refusal :=
  .next (loopRow (runL (.imm .rdacc rd ra imm)) s)

/-- LDACC (R59). -/
def execLdacc (rd ra : BitVec 5) (imm : BitVec 16) (s : State) : Host.Outcome State Fault Refusal :=
  .next (loopRow (runL (.imm .ldacc rd ra imm)) s)

/-- CLAMP (R59). -/
def execClamp (rd ra : BitVec 5) (imm : BitVec 16) (s : State) : Host.Outcome State Fault Refusal :=
  .next (loopRow (runL (.imm .clamp rd ra imm)) s)

/-- RCL (R221). -/
def execRcl (rd ra : BitVec 5) (imm : BitVec 16) (s : State) : Host.Outcome State Fault Refusal :=
  .next (loopRow (runL (.imm .rcl rd ra imm)) s)

/-- RCU (R221). -/
def execRcu (rd ra : BitVec 5) (imm : BitVec 16) (s : State) : Host.Outcome State Fault Refusal :=
  .next (loopRow (runL (.imm .rcu rd ra imm)) s)

/-- END (R59, R213). -/
def execLEnd (rd ra : BitVec 5) (imm : BitVec 16) (s : State) : Host.Outcome State Fault Refusal :=
  .next (loopRow (runL (.imm .lend rd ra imm)) s)

/-- MAC (R59). -/
def execMac (acc : Bool) (va : BitVec 5) (cidx : BitVec 6) (zero : BitVec 14) (s : State) : Host.Outcome State Fault Refusal :=
  .next (loopRow (runL (.mul .mac acc va cidx zero)) s)

/-- MSU (R59). -/
def execMsu (acc : Bool) (va : BitVec 5) (cidx : BitVec 6) (zero : BitVec 14) (s : State) : Host.Outcome State Fault Refusal :=
  .next (loopRow (runL (.mul .msu acc va cidx zero)) s)

/-- MACZ (R59). -/
def execMacz (acc : Bool) (va : BitVec 5) (cidx : BitVec 6) (zero : BitVec 14) (s : State) : Host.Outcome State Fault Refusal :=
  .next (loopRow (runL (.mul .macz acc va cidx zero)) s)

/-- L_BEQ (R59). -/
def execLBeq (ra rb : BitVec 5) (imm : BitVec 16) (s : State) : Host.Outcome State Fault Refusal :=
  .next (loopRow (runL (.branch .beq ra rb imm)) s)

/-- L_BNE (R59). -/
def execLBne (ra rb : BitVec 5) (imm : BitVec 16) (s : State) : Host.Outcome State Fault Refusal :=
  .next (loopRow (runL (.branch .bne ra rb imm)) s)

/-- L_BLT (R59). -/
def execLBlt (ra rb : BitVec 5) (imm : BitVec 16) (s : State) : Host.Outcome State Fault Refusal :=
  .next (loopRow (runL (.branch .blt ra rb imm)) s)

/-- L_BGE (R59). -/
def execLBge (ra rb : BitVec 5) (imm : BitVec 16) (s : State) : Host.Outcome State Fault Refusal :=
  .next (loopRow (runL (.branch .bge ra rb imm)) s)

/-- BSAT (R59). -/
def execBsat (ra rb : BitVec 5) (imm : BitVec 16) (s : State) : Host.Outcome State Fault Refusal :=
  .next (loopRow (runL (.branch .bsat ra rb imm)) s)

/-- BNSAT (R59). -/
def execBnsat (ra rb : BitVec 5) (imm : BitVec 16) (s : State) : Host.Outcome State Fault Refusal :=
  .next (loopRow (runL (.branch .bnsat ra rb imm)) s)

end Sys2Proof.Machine
end

