-- ==== Sys2Proof/Machine/Marionette.lean ====
section
/-! DEFINITION. The rows of motion: MOT descriptors, Marionette's ticks and records, supervision, Yo-yo, the loops' service functions. -/
namespace Sys2Proof.Machine

/-- MOT_SPEED (R224). -/
def execMotSpeed (t : Tid) (s : State) : Host.Outcome State Fault Refusal := .next (settleHost (motSpeedOp t s))

/-- MOT_LOCATE (R226). -/
def execMotLocate (t : Tid) (s : State) : Host.Outcome State Fault Refusal := .next (settleHost (motLocateOp t s))

/-- MOT_TURN (R228). -/
def execMotTurn (t : Tid) (s : State) : Host.Outcome State Fault Refusal := .next (settleHost (motTurnOp t s))

/-- MOT_STOP (R229). -/
def execMotStop (t : Tid) (s : State) : Host.Outcome State Fault Refusal := .next (settleHost (motStopOp t s))

/-- STANDSTILL (R209). -/
def execStandstill (t : Tid) (s : State) : Host.Outcome State Fault Refusal := .next (settleHost (standstillOp t s))

/-- WRAP_SETTLE (R226). -/
def execWrapSettle (t : Tid) (s : State) : Host.Outcome State Fault Refusal := .next (settleHost (wrapSettleOp t s))

/-- TURN_COMPLETE (R228). -/
def execTurnComplete (t : Tid) (s : State) : Host.Outcome State Fault Refusal := .next (settleHost (turnCompleteOp t s))

/-- MARIONETTE_TICK (R206). -/
def execMarionetteTick (t : Tid) (s : State) : Host.Outcome State Fault Refusal := .next (settleHost (tickOp t s))

/-- YOYO_PAUSE_START (R200). -/
def execYoyoPauseStart (t : Tid) (s : State) : Host.Outcome State Fault Refusal := .next (settleHost (pauseStartOp t s))

/-- PAUSE_DRIVERS_OFF (R200). -/
def execPauseDriversOff (t : Tid) (s : State) : Host.Outcome State Fault Refusal := .next (settleHost (driversOffOp t s))

/-- MAXPAUSE_EXPIRY (R200). -/
def execMaxpauseExpiry (t : Tid) (s : State) : Host.Outcome State Fault Refusal := .next (settleHost (maxPauseOp t s))

/-- SPEED_LOCK (R96). -/
def execSpeedLock (t : Tid) (s : State) : Host.Outcome State Fault Refusal := .next (speedLockOp t s)

/-- BANDHOLD_EXPIRY (R201). -/
def execBandholdExpiry (t : Tid) (s : State) : Host.Outcome State Fault Refusal := .next (bandHoldOp t s)

/-- SPDREF_INVALID (R203). -/
def execSpdrefInvalid (t : Tid) (s : State) : Host.Outcome State Fault Refusal := .next (refInvalidOp t s)

/-- FREQ_STALE (R99). -/
def execFreqStale (_t : Tid) (s : State) : Host.Outcome State Fault Refusal := .next (freqStaleOp s)

/-- SPDREF_PULSE (R203). -/
def execSpdrefPulse (t : Tid) (period : Nat) (s : State) : Host.Outcome State Fault Refusal := .next (refPulseOp t period s)

/-- SERVO_FRAME (R154). -/
def execServoFrame (t : Tid) (f : ServoIn) (s : State) : Host.Outcome State Fault Refusal := .next (settleHost (servoFrameOp t f s))

/-- SERVO_FRAME_TIMEOUT (R154). -/
def execServoFrameTimeout (t : Tid) (tstamp : W32) (s : State) : Host.Outcome State Fault Refusal :=
  .next (settleHost (servoTimeoutOp t tstamp s))

/-- MOTION_SENSOR_RECORD (R210). -/
def execMotionSensorRecord (t : Tid) (tens : BitVec 16) (s : State) : Host.Outcome State Fault Refusal := .next (motionRecordOp t tens s)

/-- ENCODER_EDGE (R211). -/
def execEncoderEdge (t : Tid) (reelB : Bool) (edge : Edge) (s : State) : Host.Outcome State Fault Refusal :=
  .next (encoderEdgeOp t reelB edge s)

/-- SUPERVISION_STOP (R231). -/
def execSupervisionStop (t : Tid) (cause : Fin 16) (n : Fin 4) (s : State) : Host.Outcome State Fault Refusal :=
  .next (settleHost (supervisionOp t cause.val n.val s))

/-- MC_COMMANDED_STOP (R230). -/
def execMcCommandedStop (src : Src) (t : Tid) (s : State) : Host.Outcome State Fault Refusal := .next (settleHost (motionCmdRow src t 1 s))

/-- MC_CLEAR (R233). -/
def execMcClear (src : Src) (t : Tid) (s : State) : Host.Outcome State Fault Refusal := .next (settleHost (motionCmdRow src t 2 s))

/-- MC_TENSION_ON (R361). -/
def execMcTensionOn (src : Src) (t : Tid) (s : State) : Host.Outcome State Fault Refusal := .next (settleHost (motionCmdRow src t 3 s))

/-- MC_TENSION_OFF (R361). -/
def execMcTensionOff (src : Src) (t : Tid) (s : State) : Host.Outcome State Fault Refusal := .next (settleHost (motionCmdRow src t 4 s))

/-- MC_RC_CLR (R221). -/
def execMcRcClr (src : Src) (t : Tid) (reelB : Bool) (s : State) : Host.Outcome State Fault Refusal :=
  .next (mcRow src t (Reg.mcRc t.val reelB.toNat) (rcClrOp t reelB.toNat) s)

/-- RC_BIN_CLEAR_DONE (R221). -/
def execRcBinClearDone (t : Tid) (reelB : Bool) (s : State) : Host.Outcome State Fault Refusal := .next (binClearDoneOp t reelB.toNat s)

/-- MC_INJ_GO (R235). -/
def execMcInjGo (src : Src) (s : State) : Host.Outcome State Fault Refusal := .next (byDebug src [injLoop s / 4] Reg.mcInj startInjection s)

/-- INJECTION_END (R235). -/
def execInjectionEnd (s : State) : Host.Outcome State Fault Refusal := .next (injectionEndOp s)

/-- MC_CAP_ARM (R236). -/
def execMcCapArm (src : Src) (s : State) : Host.Outcome State Fault Refusal :=
  .next (byDebug src [capLoop s / 4] Reg.mcCap armLoopCapture s)

/-- AUTOTUNE (R238). -/
def execAutotune (l : Fin 32) (s : State) : Host.Outcome State Fault Refusal := .next (tuneStart l.val s)

/-- AUTOTUNE_ABORT (R238). -/
def execAutotuneAbort (s : State) : Host.Outcome State Fault Refusal := .next (tuneAbort s)

/-- LOOP_EVALUATION (R207). -/
def execLoopEvaluation (s : State) : Host.Outcome State Fault Refusal := .next (settleHost (loopEvalOp s))

/-- LOOP_OVERRUN (R208). -/
def execLoopOverrun (l : Fin 32) (s : State) : Host.Outcome State Fault Refusal := .next (settleHost (loopOverrunOp l.val s))

/-- ACTUATOR_HEARTBEAT (R349). -/
def execActuatorHeartbeat (l : Fin 32) (s : State) : Host.Outcome State Fault Refusal := .next (heartbeatOp l.val s)

end Sys2Proof.Machine
end

