-- ==== Sys2Proof/Machine/ReadRows.lean ====
section
/-! DEFINITION. The rows of the read channel: slots, iterations, deadlines, lock, capture, calibration. -/
namespace Sys2Proof.Machine

/-- An engine runs its next iteration; a fault its checks find is a class 1 event (R139, R141, R324). -/
def ldpcRow (e : Nat) (fault : Bool) (s : State) : State :=
  match enginePick s e with
  | none => s
  | some p =>
    let s := ldpcStep e fault p s
    if fault then faultEvent (unitId 1 e) 0 0 s else s

/-- The oldest codeword of a lane reaches its deadline undecoded (R140). -/
def deadlineRow (l : Nat) (s : State) : State :=
  match (tpOf s (laneT l)).rc.pend.find? (fun p => p.lane == l) with
  | none => s
  | some p => cwDeadline p s

/-- SLOT_ARRIVAL (R140). -/
def execSlotArrival (lane : Fin 512) (adc : List (BitVec 6)) (s : State) : Host.Outcome State Fault Refusal :=
  .next (settleHost (slotArrive lane.val adc s))

/-- LDPC_ITERATION (R139, R141). -/
def execLdpcIteration (eng : Fin 64) (fault : Bool) (s : State) : Host.Outcome State Fault Refusal :=
  .next (settleHost (ldpcRow eng.val fault s))

/-- CODEWORD_DEADLINE (R140). -/
def execCodewordDeadline (lane : Fin 512) (s : State) : Host.Outcome State Fault Refusal := .next (settleHost (deadlineRow lane.val s))

/-- LOSS_OF_LOCK (R130). -/
def execLossOfLock (lane : Fin 512) (s : State) : Host.Outcome State Fault Refusal := .next (lossOfLock lane.val s)

/-- SAMPLE_OVERFLOW (R30). -/
def execSampleOverflow (lane : Fin 512) (s : State) : Host.Outcome State Fault Refusal := .next (settleHost (adcOverflow lane.val s))

/-- RC_MODE_WRITE (R145). -/
def execRcModeWrite (src : Src) (t : Tid) (mode : BitVec 2) (s : State) : Host.Outcome State Fault Refusal :=
  .next (rcModeRow src t mode.toNat s)

/-- RC_ENG_RETIRE (R143). -/
def execRcEngRetire (src : Src) (eng : Fin 64) (retired : Bool) (s : State) : Host.Outcome State Fault Refusal :=
  .next (settleHost (rcEngRow src eng.val retired s))

/-- RC_CAP_ARM (R155). -/
def execRcCapArm (src : Src) (c : Fin 2) (n : Fin 4) (s : State) : Host.Outcome State Fault Refusal := .next (rcCapRow src c.val n.val s)

/-- CAPTURE_STOP (R155). -/
def execCaptureStop (c : Fin 2) (n : Fin 4) (adc : List (BitVec 6)) (s : State) : Host.Outcome State Fault Refusal :=
  .next (stopCapture c.val n.val adc s)

/-- CALIBRATION_PASS_END (R148). -/
def execCalibrationPassEnd (t : Tid) (band : Fin 4) (reverse : Bool) (res : List CalLane) (s : State) : Host.Outcome State Fault Refusal :=
  .next (settleHost (calPassEnd t band.val reverse res s))

end Sys2Proof.Machine
end

