-- ==== Sys2Proof/Machine/Sequencer.lean ====
section
/-! DEFINITION. The rows of the sequencers: Rhoval-F instructions (R40), the ends of their waits, and TS_CTRL. -/
namespace Sys2Proof.Machine

/-- A row of sequencer t: where it leaves the sequencer stopped, host commands may have come to their end (R55, R255). -/
def seqRow (t : Tid) (f : State → State) (s : State) : State :=
  let s' := f s
  if seqActive (seqOf s' t) then s' else settleHost s'

/-- ALU (R40, R41). -/
def execAlu (t : Tid) (rd ra rb : BitVec 5) (func : BitVec 11) (s : State) : Host.Outcome State Fault Refusal :=
  .next (seqRow t (runInstr t (.reg rd ra rb func)) s)

/-- ADDI (R40). -/
def execAddi (t : Tid) (rd ra : BitVec 5) (imm : BitVec 16) (s : State) : Host.Outcome State Fault Refusal :=
  .next (seqRow t (runInstr t (.imm .addi rd ra imm)) s)

/-- ANDI (R40). -/
def execAndi (t : Tid) (rd ra : BitVec 5) (imm : BitVec 16) (s : State) : Host.Outcome State Fault Refusal :=
  .next (seqRow t (runInstr t (.imm .andi rd ra imm)) s)

/-- ORI (R40). -/
def execOri (t : Tid) (rd ra : BitVec 5) (imm : BitVec 16) (s : State) : Host.Outcome State Fault Refusal :=
  .next (seqRow t (runInstr t (.imm .ori rd ra imm)) s)

/-- XORI (R40). -/
def execXori (t : Tid) (rd ra : BitVec 5) (imm : BitVec 16) (s : State) : Host.Outcome State Fault Refusal :=
  .next (seqRow t (runInstr t (.imm .xori rd ra imm)) s)

/-- SLTI (R40). -/
def execSlti (t : Tid) (rd ra : BitVec 5) (imm : BitVec 16) (s : State) : Host.Outcome State Fault Refusal :=
  .next (seqRow t (runInstr t (.imm .slti rd ra imm)) s)

/-- SLTIU (R40). -/
def execSltiu (t : Tid) (rd ra : BitVec 5) (imm : BitVec 16) (s : State) : Host.Outcome State Fault Refusal :=
  .next (seqRow t (runInstr t (.imm .sltiu rd ra imm)) s)

/-- LUI (R40). -/
def execLui (t : Tid) (rd ra : BitVec 5) (imm : BitVec 16) (s : State) : Host.Outcome State Fault Refusal :=
  .next (seqRow t (runInstr t (.imm .lui rd ra imm)) s)

/-- SLLI (R40). -/
def execSlli (t : Tid) (rd ra : BitVec 5) (imm : BitVec 16) (s : State) : Host.Outcome State Fault Refusal :=
  .next (seqRow t (runInstr t (.imm .slli rd ra imm)) s)

/-- SRLI (R40). -/
def execSrli (t : Tid) (rd ra : BitVec 5) (imm : BitVec 16) (s : State) : Host.Outcome State Fault Refusal :=
  .next (seqRow t (runInstr t (.imm .srli rd ra imm)) s)

/-- SRAI (R40). -/
def execSrai (t : Tid) (rd ra : BitVec 5) (imm : BitVec 16) (s : State) : Host.Outcome State Fault Refusal :=
  .next (seqRow t (runInstr t (.imm .srai rd ra imm)) s)

/-- LD (R40). -/
def execLd (t : Tid) (rd ra : BitVec 5) (imm : BitVec 16) (s : State) : Host.Outcome State Fault Refusal :=
  .next (seqRow t (runInstr t (.imm .ld rd ra imm)) s)

/-- ST (R40). -/
def execSt (t : Tid) (rd ra : BitVec 5) (imm : BitVec 16) (s : State) : Host.Outcome State Fault Refusal :=
  .next (seqRow t (runInstr t (.imm .st rd ra imm)) s)

/-- LW (R40). -/
def execLw (t : Tid) (rd ra : BitVec 5) (imm : BitVec 16) (s : State) : Host.Outcome State Fault Refusal :=
  .next (seqRow t (runInstr t (.imm .lw rd ra imm)) s)

/-- SW (R40). -/
def execSw (t : Tid) (rd ra : BitVec 5) (imm : BitVec 16) (s : State) : Host.Outcome State Fault Refusal :=
  .next (seqRow t (runInstr t (.imm .sw rd ra imm)) s)

/-- DLD (R40). -/
def execDld (t : Tid) (rd ra : BitVec 5) (imm : BitVec 16) (s : State) : Host.Outcome State Fault Refusal :=
  .next (seqRow t (runInstr t (.imm .dld rd ra imm)) s)

/-- DST (R40). -/
def execDst (t : Tid) (rd ra : BitVec 5) (imm : BitVec 16) (s : State) : Host.Outcome State Fault Refusal :=
  .next (seqRow t (runInstr t (.imm .dst rd ra imm)) s)

/-- DINS (R40). -/
def execDins (t : Tid) (rd ra : BitVec 5) (imm : BitVec 16) (s : State) : Host.Outcome State Fault Refusal :=
  .next (seqRow t (runInstr t (.imm .dins rd ra imm)) s)

/-- DEXT (R40). -/
def execDext (t : Tid) (rd ra : BitVec 5) (imm : BitVec 16) (s : State) : Host.Outcome State Fault Refusal :=
  .next (seqRow t (runInstr t (.imm .dext rd ra imm)) s)

/-- DCLR (R40). -/
def execDclr (t : Tid) (rd ra : BitVec 5) (imm : BitVec 16) (s : State) : Host.Outcome State Fault Refusal :=
  .next (seqRow t (runInstr t (.imm .dclr rd ra imm)) s)

/-- JAL (R40). -/
def execJal (t : Tid) (rd ra : BitVec 5) (imm : BitVec 16) (s : State) : Host.Outcome State Fault Refusal :=
  .next (seqRow t (runInstr t (.imm .jal rd ra imm)) s)

/-- JALR (R40). -/
def execJalr (t : Tid) (rd ra : BitVec 5) (imm : BitVec 16) (s : State) : Host.Outcome State Fault Refusal :=
  .next (seqRow t (runInstr t (.imm .jalr rd ra imm)) s)

/-- WAIT (R52). -/
def execWait (t : Tid) (rd ra : BitVec 5) (imm : BitVec 16) (s : State) : Host.Outcome State Fault Refusal :=
  .next (seqRow t (runInstr t (.imm .wait rd ra imm)) s)

/-- EVCLR (R51). -/
def execEvclr (t : Tid) (rd ra : BitVec 5) (imm : BitVec 16) (s : State) : Host.Outcome State Fault Refusal :=
  .next (seqRow t (runInstr t (.imm .evclr rd ra imm)) s)

/-- POST (R40). -/
def execPost (t : Tid) (rd ra : BitVec 5) (imm : BitVec 16) (s : State) : Host.Outcome State Fault Refusal :=
  .next (seqRow t (runInstr t (.imm .post rd ra imm)) s)

/-- BAR (R53). -/
def execBar (t : Tid) (rd ra : BitVec 5) (imm : BitVec 16) (s : State) : Host.Outcome State Fault Refusal :=
  .next (seqRow t (runInstr t (.imm .bar rd ra imm)) s)

/-- MFS (R42). -/
def execMfs (t : Tid) (rd ra : BitVec 5) (imm : BitVec 16) (s : State) : Host.Outcome State Fault Refusal :=
  .next (seqRow t (runInstr t (.imm .mfs rd ra imm)) s)

/-- MTS (R42). -/
def execMts (t : Tid) (rd ra : BitVec 5) (imm : BitVec 16) (s : State) : Host.Outcome State Fault Refusal :=
  .next (seqRow t (runInstr t (.imm .mts rd ra imm)) s)

/-- ERET (R40). -/
def execEret (t : Tid) (rd ra : BitVec 5) (imm : BitVec 16) (s : State) : Host.Outcome State Fault Refusal :=
  .next (seqRow t (runInstr t (.imm .eret rd ra imm)) s)

/-- BRK (R54). -/
def execBrk (t : Tid) (rd ra : BitVec 5) (imm : BitVec 16) (s : State) : Host.Outcome State Fault Refusal :=
  .next (seqRow t (runInstr t (.imm .brk rd ra imm)) s)

/-- HALT (R40). -/
def execHalt (t : Tid) (rd ra : BitVec 5) (imm : BitVec 16) (s : State) : Host.Outcome State Fault Refusal :=
  .next (seqRow t (runInstr t (.imm .halt rd ra imm)) s)

/-- ISSUE (R44). -/
def execIssue (t : Tid) (port : BitVec 4) (dreg : BitVec 3) (rt : BitVec 5) (nb : Bool) (zero : BitVec 13) (s : State) : Host.Outcome State Fault Refusal :=
  .next (seqRow t (runInstr t (.stage .issue port dreg rt nb zero)) s)

/-- POP (R45). -/
def execPop (t : Tid) (port : BitVec 4) (dreg : BitVec 3) (rt : BitVec 5) (nb : Bool) (zero : BitVec 13) (s : State) : Host.Outcome State Fault Refusal :=
  .next (seqRow t (runInstr t (.stage .pop port dreg rt nb zero)) s)

/-- BEQ (R40). -/
def execBeq (t : Tid) (ra rb : BitVec 5) (imm : BitVec 16) (s : State) : Host.Outcome State Fault Refusal :=
  .next (seqRow t (runInstr t (.branch .beq ra rb imm)) s)

/-- BNE (R40). -/
def execBne (t : Tid) (ra rb : BitVec 5) (imm : BitVec 16) (s : State) : Host.Outcome State Fault Refusal :=
  .next (seqRow t (runInstr t (.branch .bne ra rb imm)) s)

/-- BLT (R40). -/
def execBlt (t : Tid) (ra rb : BitVec 5) (imm : BitVec 16) (s : State) : Host.Outcome State Fault Refusal :=
  .next (seqRow t (runInstr t (.branch .blt ra rb imm)) s)

/-- BGE (R40). -/
def execBge (t : Tid) (ra rb : BitVec 5) (imm : BitVec 16) (s : State) : Host.Outcome State Fault Refusal :=
  .next (seqRow t (runInstr t (.branch .bge ra rb imm)) s)

/-- BLTU (R40). -/
def execBltu (t : Tid) (ra rb : BitVec 5) (imm : BitVec 16) (s : State) : Host.Outcome State Fault Refusal :=
  .next (seqRow t (runInstr t (.branch .bltu ra rb imm)) s)

/-- BGEU (R40). -/
def execBgeu (t : Tid) (ra rb : BitVec 5) (imm : BitVec 16) (s : State) : Host.Outcome State Fault Refusal :=
  .next (seqRow t (runInstr t (.branch .bgeu ra rb imm)) s)

/-- ISSUE_SLOT_FREED (R44). -/
def execIssueSlotFreed (t : Tid) (s : State) : Host.Outcome State Fault Refusal := .next (seqRow t (issueFreedOp t) s)

/-- POP_COMPLETION_ARRIVAL (R45). -/
def execPopCompletionArrival (t : Tid) (s : State) : Host.Outcome State Fault Refusal := .next (seqRow t (popArrivalOp t) s)

/-- WAIT_EVENT_RELEASE (R52). -/
def execWaitEventRelease (t : Tid) (s : State) : Host.Outcome State Fault Refusal := .next (seqRow t (waitReleaseOp t) s)

/-- WAIT_TIMEOUT (R52). -/
def execWaitTimeout (t : Tid) (s : State) : Host.Outcome State Fault Refusal := .next (seqRow t (waitTimeoutOp t) s)

/-- BAR_RELEASE (R53). -/
def execBarRelease (t : Tid) (s : State) : Host.Outcome State Fault Refusal := .next (seqRow t (barReleaseOp t) s)

/-- WATCHDOG_EXPIRY (R56). -/
def execWatchdogExpiry (t : Tid) (s : State) : Host.Outcome State Fault Refusal := .next (seqRow t (watchdogOp t) s)

/-- HALT_TAKE (R57). -/
def execHaltTake (t : Tid) (s : State) : Host.Outcome State Fault Refusal := .next (seqRow t (haltTakeOp t) s)

/-- SEQ_TIMER_EXPIRY (R42). -/
def execSeqTimerExpiry (t : Tid) (s : State) : Host.Outcome State Fault Refusal := .next (timerExpiryOp t s)

/-- TS_RUN (R254). -/
def execTsRun (src : Src) (t : Tid) (s : State) : Host.Outcome State Fault Refusal := .next (tsRow src t (tsRunOp t) s)

/-- TS_HALT_REQ (R57). -/
def execTsHaltReq (src : Src) (t : Tid) (s : State) : Host.Outcome State Fault Refusal := .next (tsRow src t (haltRequest t) s)

/-- TS_RESTART (R254). -/
def execTsRestart (src : Src) (t : Tid) (s : State) : Host.Outcome State Fault Refusal := .next (tsRow src t (tsRestartOp t) s)

/-- TS_LOCK (R10). -/
def execTsLock (src : Src) (t : Tid) (s : State) : Host.Outcome State Fault Refusal := .next (tsRow src t (tsLockOp t) s)

/-- TS_STEP (R57). -/
def execTsStep (src : Src) (t : Tid) (s : State) : Host.Outcome State Fault Refusal := .next (settleHost (tsRow src t (tsStepOp t) s))

/-- TS_FLUSHQ (R324). -/
def execTsFlushq (src : Src) (t : Tid) (s : State) : Host.Outcome State Fault Refusal := .next (settleHost (tsRow src t (tsFlushOp t) s))

/-- TS_EVPOST (R51). -/
def execTsEvpost (src : Src) (t : Tid) (pp : BitVec 8) (s : State) : Host.Outcome State Fault Refusal :=
  .next (byDebug src [t.val] (Reg.tsEvpost t.val) (tsEvpostOp t pp) s)

end Sys2Proof.Machine
end

