-- ==== Sys2Proof/Machine/Stages.lean ====
section
/-! DEFINITION. The rows of the write and read path: compression descriptors, assembler, encoder, write lanes, verify, rewrite, index. -/
namespace Sys2Proof.Machine

/-- COMP_DRAIN (R172). -/
def execCompDrain (t : Tid) (s : State) : Host.Outcome State Fault Refusal := .next (settleHost (compDrainOp t s))

/-- DRAIN_COMPLETE (R172). -/
def execDrainComplete (t : Tid) (s : State) : Host.Outcome State Fault Refusal := .next (settleHost (drainDoneOp t s))

/-- COMP_EXPAND (R175). -/
def execCompExpand (t : Tid) (s : State) : Host.Outcome State Fault Refusal := .next (settleHost (compExpandOp t s))

/-- ASM_OPEN (R71). -/
def execAsmOpen (t : Tid) (s : State) : Host.Outcome State Fault Refusal := .next (settleHost (asmOpenOp t s))

/-- ASM_CLOSE (R71). -/
def execAsmClose (t : Tid) (s : State) : Host.Outcome State Fault Refusal := .next (settleHost (asmCloseOp t s))

/-- ASM_DISASM (R90). -/
def execAsmDisasm (t : Tid) (s : State) : Host.Outcome State Fault Refusal := .next (settleHost (asmDisasmOp t s))

/-- WORK_ITEM_ACCEPT (R71). -/
def execWorkItemAccept (t : Tid) (s : State) : Host.Outcome State Fault Refusal := .next (settleHost (workItemOp t s))

/-- ASM_IDLE_TIMEOUT (R71). -/
def execAsmIdleTimeout (t : Tid) (s : State) : Host.Outcome State Fault Refusal := .next (settleHost (asmIdleOp t s))

/-- REPLACE_DISCARD (R257). -/
def execReplaceDiscard (scid : BitVec 16) (s : State) : Host.Outcome State Fault Refusal := .next (settleHost (replaceDiscard scid s))

/-- ENC_ENCODE (R49). -/
def execEncEncode (t : Tid) (s : State) : Host.Outcome State Fault Refusal := .next (settleHost (encEncodeOp t s))

/-- ENC_C3EMIT (R49). -/
def execEncC3emit (t : Tid) (s : State) : Host.Outcome State Fault Refusal := .next (settleHost (encC3emitOp t s))

/-- ENC_MAPSET (R50). -/
def execEncMapset (t : Tid) (s : State) : Host.Outcome State Fault Refusal := .next (encMapsetOp t s)

/-- MAPSET_LOAD (R50). -/
def execMapsetLoad (t : Tid) (s : State) : Host.Outcome State Fault Refusal := .next (mapsetLoadOp t s)

/-- ENC_CORRECT (R75). -/
def execEncCorrect (t : Tid) (s : State) : Host.Outcome State Fault Refusal := .next (settleHost (encCorrectOp t s))

/-- WL_WRITE (R48). -/
def execWlWrite (t : Tid) (s : State) : Host.Outcome State Fault Refusal := .next (wlRequest t 1 s)

/-- WL_FILL (R86). -/
def execWlFill (t : Tid) (s : State) : Host.Outcome State Fault Refusal := .next (wlRequest t 2 s)

/-- WL_MARK (R86). -/
def execWlMark (t : Tid) (s : State) : Host.Outcome State Fault Refusal := .next (wlRequest t 3 s)

/-- WL_DESCRIPTOR_START (R96). -/
def execWlDescriptorStart (t : Tid) (s : State) : Host.Outcome State Fault Refusal := .next (settleHost (wlStartOp t s))

/-- WL_DESCRIPTOR_DONE (R97). -/
def execWlDescriptorDone (t : Tid) (gap : BitVec 16) (s : State) : Host.Outcome State Fault Refusal :=
  .next (settleHost (wlDoneOp t gap.toNat s))

/-- DIRECTORY_FIX (R105). -/
def execDirectoryFix (t : Tid) (s : State) : Host.Outcome State Fault Refusal := .next (settleHost (fixDirectory t s))

/-- VFY_ARM (R108). -/
def execVfyArm (t : Tid) (s : State) : Host.Outcome State Fault Refusal := .next (settleHost (vfyArmOp t s))

/-- VERIFY_REPORT (R102). -/
def execVerifyReport (t : Tid) (report : BitVec 128) (s : State) : Host.Outcome State Fault Refusal :=
  .next (settleHost (verifyReportOp t report s))

/-- VFY_ARM_SETTLED (R108). -/
def execVfyArmSettled (t : Tid) (s : State) : Host.Outcome State Fault Refusal := .next (settleHost (vfySettleOp t s))

/-- RWQ_POLICY (R106). -/
def execRwqPolicy (t : Tid) (s : State) : Host.Outcome State Fault Refusal := .next (rwqPolicyOp t s)

/-- WL_UNDERRUN (R30). -/
def execWlUnderrun (lane : Fin 512) (slot : Fin 512) (s : State) : Host.Outcome State Fault Refusal :=
  .next (settleHost (wlUnderrunOp lane.val slot.val s))

/-- IDX_ADD (R359). -/
def execIdxAdd (t : Tid) (s : State) : Host.Outcome State Fault Refusal := .next (settleHost (idxAddOp t s))

/-- IDX_EMIT (R360). -/
def execIdxEmit (t : Tid) (s : State) : Host.Outcome State Fault Refusal := .next (settleHost (idxEmitOp t s))

/-- INDEX_FREEZE (R360). -/
def execIndexFreeze (t : Tid) (s : State) : Host.Outcome State Fault Refusal := .next (settleHost (indexFreezeOp t s))

/-- IDX_FIND (R359). -/
def execIdxFind (t : Tid) (s : State) : Host.Outcome State Fault Refusal := .next (idxFindOp t s)

/-- HMS_ALERT (R113): the fault is permanent at once, CAUSE 2. -/
def execHmsAlert (t : Tid) (k : Fin 64) (s : State) : Host.Outcome State Fault Refusal := .next (settleHost (laneFault t k.val 2 s))

/-- VFY_LANECMD_RETIRE (R113). -/
def execVfyLanecmdRetire (src : Src) (t : Tid) (k : Fin 64) (s : State) : Host.Outcome State Fault Refusal :=
  .next (settleHost (laneCmdRow src t k.val 1 s))

/-- VFY_LANECMD_RETURN (R117). -/
def execVfyLanecmdReturn (src : Src) (t : Tid) (k : Fin 64) (s : State) : Host.Outcome State Fault Refusal :=
  .next (settleHost (laneCmdRow src t k.val 2 s))

end Sys2Proof.Machine
end

