-- ==== Sys2Proof/Machine/Supervision.lean ====
section
/-! DEFINITION. The rows of power, start-up, temperature, faults and telemetry. -/
namespace Sys2Proof.Machine

/-- PFAIL_ACCEPT (R306). -/
def execPfailAccept (s : State) : Host.Outcome State Fault Refusal := .next (settleHost (pfailAccept s))

/-- SUPPLY_SAMPLE (R307). -/
def execSupplySample (vin vhu : BitVec 16) (s : State) : Host.Outcome State Fault Refusal :=
  .next (settleHost (supplySample vin vhu s))

/-- SAG_TIMEOUT (R307). -/
def execSagTimeout (s : State) : Host.Outcome State Fault Refusal := .next (settleHost (sagTimeout s))

/-- SAG_CLEAR (R307). -/
def execSagClear (s : State) : Host.Outcome State Fault Refusal := .next (sagClear s)

/-- COMMIT_RECORD_WRITE (R312). -/
def execCommitRecordWrite (s : State) : Host.Outcome State Fault Refusal := .next (settleHost (commitRecord s))

/-- COMMIT_END (R314). -/
def execCommitEnd (s : State) : Host.Outcome State Fault Refusal := .next (settleHost (commitEnd s))

/-- COMMIT_AREA_ERASE_DONE (R317). -/
def execCommitAreaEraseDone (s : State) : Host.Outcome State Fault Refusal := .next (eraseDone s)

/-- HOLDUP_MEAS_START (R308, R322). -/
def execHoldupMeasStart (src : Src) (s : State) : Host.Outcome State Fault Refusal := .next (byDebug src [0] Reg.wuMeas measStart s)

/-- HOLDUP_MEAS_END (R308). -/
def execHoldupMeasEnd (_ _ : Unit) (s : State) : Host.Outcome State Fault Refusal := .next (settleHost (measEnd s))

/-- HOLDUP_PERIODIC_MEAS (R309). -/
def execHoldupPeriodicMeas (s : State) : Host.Outcome State Fault Refusal := .next (measPeriodic s)

/-- PWR_RLOG_ACK (R315). -/
def execPwrRlogAck (src : Src) (s : State) : Host.Outcome State Fault Refusal := .next (byAny src rlogAck s)

/-- GLB_RST_WARM (R320). -/
def execGlbRstWarm (src : Src) (s : State) : Host.Outcome State Fault Refusal := .next (settleHost (byAny src warmRequest s))

/-- COLD_RESET (R321). -/
def execColdReset (s : State) : Host.Outcome State Fault Refusal := .next (coldReset s)

/-- HBM_TRAINING_DONE (R321). -/
def execHbmTrainingDone (s : State) : Host.Outcome State Fault Refusal := .next (hbmTrained s)

/-- UCIE_TRAINING_DONE (R321). -/
def execUcieTrainingDone (t : Tid) (ok : Bool) (s : State) : Host.Outcome State Fault Refusal := .next (settleHost (ucieTrained t ok s))

/-- HBM_SWEEP_DONE (R287). -/
def execHbmSweepDone (s : State) : Host.Outcome State Fault Refusal := .next (hbmSwept s)

/-- FUSE_KEY (R319). -/
def execFuseKey (slot : Fin 8) (digest : BitVec 384) (s : State) : Host.Outcome State Fault Refusal := .next (fuseKey slot.val digest s)

/-- REVOKE_KEY (R319). -/
def execRevokeKey (slot : Fin 8) (s : State) : Host.Outcome State Fault Refusal := .next (revokeKey slot.val s)

/-- TEMP_UPDATE (R357). -/
def execTempUpdate (temps : Vector (BitVec 16) 12) (s : State) : Host.Outcome State Fault Refusal := .next (tempUpdate (hottest temps) s)

/-- FAULT_RETRY_EXPIRY (R323). -/
def execFaultRetryExpiry (unit : BitVec 16) (s : State) : Host.Outcome State Fault Refusal := .next (settleHost (retryExpiry unit s))

/-- TRANSPORT_RETRY_CLEAR (R324). -/
def execTransportRetryClear (t : Tid) (s : State) : Host.Outcome State Fault Refusal := .next (retryClear t s)

/-- UCIE_LINK_ERROR (R324). -/
def execUcieLinkError (t : Tid) (s : State) : Host.Outcome State Fault Refusal := .next (settleHost (ucieError t s))

/-- FLT_RET_RETIRE (R324). -/
def execFltRetRetire (src : Src) (unit : BitVec 16) (s : State) : Host.Outcome State Fault Refusal :=
  .next (settleHost (fltRetRow src unit 1 s))

/-- FLT_RET_RETURN (R326). -/
def execFltRetReturn (src : Src) (unit : BitVec 16) (s : State) : Host.Outcome State Fault Refusal :=
  .next (settleHost (fltRetRow src unit 2 s))

/-- FLT_BCAST_HALT (R332). -/
def execFltBcastHalt (src : Src) (mask : BitVec 8) (s : State) : Host.Outcome State Fault Refusal := .next (fltBcastRow src mask s)

/-- TEL_FREEZE (R333). -/
def execTelFreeze (src : Src) (s : State) : Host.Outcome State Fault Refusal := .next (byAny src telFreeze s)

/-- FREEZE_READOUT_DONE (R332). -/
def execFreezeReadoutDone (s : State) : Host.Outcome State Fault Refusal := .next (freezeDone s)

end Sys2Proof.Machine
end

