-- ==== Sys2Proof/Machine/Dispatch.lean ====
section
/-! DEFINITION. One arm for each command: the call of its meaning. -/
namespace Sys2Proof.Machine

/-- The effect of a command on everything but the queue. -/
def exec (i : Instr) (s : State) : Host.Outcome State Fault Refusal :=
  match i with
  | .alu t rd ra rb func => Sys2Proof.Machine.execAlu t rd ra rb func s
  | .addi t rd ra imm => Sys2Proof.Machine.execAddi t rd ra imm s
  | .andi t rd ra imm => Sys2Proof.Machine.execAndi t rd ra imm s
  | .ori t rd ra imm => Sys2Proof.Machine.execOri t rd ra imm s
  | .xori t rd ra imm => Sys2Proof.Machine.execXori t rd ra imm s
  | .slti t rd ra imm => Sys2Proof.Machine.execSlti t rd ra imm s
  | .sltiu t rd ra imm => Sys2Proof.Machine.execSltiu t rd ra imm s
  | .lui t rd ra imm => Sys2Proof.Machine.execLui t rd ra imm s
  | .slli t rd ra imm => Sys2Proof.Machine.execSlli t rd ra imm s
  | .srli t rd ra imm => Sys2Proof.Machine.execSrli t rd ra imm s
  | .srai t rd ra imm => Sys2Proof.Machine.execSrai t rd ra imm s
  | .ld t rd ra imm => Sys2Proof.Machine.execLd t rd ra imm s
  | .st t rd ra imm => Sys2Proof.Machine.execSt t rd ra imm s
  | .lw t rd ra imm => Sys2Proof.Machine.execLw t rd ra imm s
  | .sw t rd ra imm => Sys2Proof.Machine.execSw t rd ra imm s
  | .dld t rd ra imm => Sys2Proof.Machine.execDld t rd ra imm s
  | .dst t rd ra imm => Sys2Proof.Machine.execDst t rd ra imm s
  | .dins t rd ra imm => Sys2Proof.Machine.execDins t rd ra imm s
  | .dext t rd ra imm => Sys2Proof.Machine.execDext t rd ra imm s
  | .dclr t rd ra imm => Sys2Proof.Machine.execDclr t rd ra imm s
  | .issue t port dreg rt nb zero => Sys2Proof.Machine.execIssue t port dreg rt nb zero s
  | .issueSlotFreed t => Sys2Proof.Machine.execIssueSlotFreed t s
  | .pop t port dreg rt nb zero => Sys2Proof.Machine.execPop t port dreg rt nb zero s
  | .popCompletionArrival t => Sys2Proof.Machine.execPopCompletionArrival t s
  | .beq t ra rb imm => Sys2Proof.Machine.execBeq t ra rb imm s
  | .bne t ra rb imm => Sys2Proof.Machine.execBne t ra rb imm s
  | .blt t ra rb imm => Sys2Proof.Machine.execBlt t ra rb imm s
  | .bge t ra rb imm => Sys2Proof.Machine.execBge t ra rb imm s
  | .bltu t ra rb imm => Sys2Proof.Machine.execBltu t ra rb imm s
  | .bgeu t ra rb imm => Sys2Proof.Machine.execBgeu t ra rb imm s
  | .jal t rd ra imm => Sys2Proof.Machine.execJal t rd ra imm s
  | .jalr t rd ra imm => Sys2Proof.Machine.execJalr t rd ra imm s
  | .wait t rd ra imm => Sys2Proof.Machine.execWait t rd ra imm s
  | .waitEventRelease t => Sys2Proof.Machine.execWaitEventRelease t s
  | .waitTimeout t => Sys2Proof.Machine.execWaitTimeout t s
  | .evclr t rd ra imm => Sys2Proof.Machine.execEvclr t rd ra imm s
  | .post t rd ra imm => Sys2Proof.Machine.execPost t rd ra imm s
  | .bar t rd ra imm => Sys2Proof.Machine.execBar t rd ra imm s
  | .barRelease t => Sys2Proof.Machine.execBarRelease t s
  | .mfs t rd ra imm => Sys2Proof.Machine.execMfs t rd ra imm s
  | .mts t rd ra imm => Sys2Proof.Machine.execMts t rd ra imm s
  | .eret t rd ra imm => Sys2Proof.Machine.execEret t rd ra imm s
  | .brk t rd ra imm => Sys2Proof.Machine.execBrk t rd ra imm s
  | .halt t rd ra imm => Sys2Proof.Machine.execHalt t rd ra imm s
  | .watchdogExpiry t => Sys2Proof.Machine.execWatchdogExpiry t s
  | .seqTimerExpiry t => Sys2Proof.Machine.execSeqTimerExpiry t s
  | .haltTake t => Sys2Proof.Machine.execHaltTake t s
  | .tsRun src t => Sys2Proof.Machine.execTsRun src t s
  | .tsHaltReq src t => Sys2Proof.Machine.execTsHaltReq src t s
  | .tsStep src t => Sys2Proof.Machine.execTsStep src t s
  | .tsFlushq src t => Sys2Proof.Machine.execTsFlushq src t s
  | .tsRestart src t => Sys2Proof.Machine.execTsRestart src t s
  | .tsLock src t => Sys2Proof.Machine.execTsLock src t s
  | .tsEvpost src t pp => Sys2Proof.Machine.execTsEvpost src t pp s
  | .compDrain t => Sys2Proof.Machine.execCompDrain t s
  | .drainComplete t => Sys2Proof.Machine.execDrainComplete t s
  | .compExpand t => Sys2Proof.Machine.execCompExpand t s
  | .asmOpen t => Sys2Proof.Machine.execAsmOpen t s
  | .asmClose t => Sys2Proof.Machine.execAsmClose t s
  | .asmDisasm t => Sys2Proof.Machine.execAsmDisasm t s
  | .encEncode t => Sys2Proof.Machine.execEncEncode t s
  | .encC3emit t => Sys2Proof.Machine.execEncC3emit t s
  | .encMapset t => Sys2Proof.Machine.execEncMapset t s
  | .mapsetLoad t => Sys2Proof.Machine.execMapsetLoad t s
  | .encCorrect t => Sys2Proof.Machine.execEncCorrect t s
  | .wlWrite t => Sys2Proof.Machine.execWlWrite t s
  | .wlFill t => Sys2Proof.Machine.execWlFill t s
  | .wlMark t => Sys2Proof.Machine.execWlMark t s
  | .wlDescriptorStart t => Sys2Proof.Machine.execWlDescriptorStart t s
  | .wlDescriptorDone t gap => Sys2Proof.Machine.execWlDescriptorDone t gap s
  | .directoryFix t => Sys2Proof.Machine.execDirectoryFix t s
  | .vfyArm t => Sys2Proof.Machine.execVfyArm t s
  | .verifyReport t report => Sys2Proof.Machine.execVerifyReport t report s
  | .vfyArmSettled t => Sys2Proof.Machine.execVfyArmSettled t s
  | .rwqPolicy t => Sys2Proof.Machine.execRwqPolicy t s
  | .idxAdd t => Sys2Proof.Machine.execIdxAdd t s
  | .idxEmit t => Sys2Proof.Machine.execIdxEmit t s
  | .indexFreeze t => Sys2Proof.Machine.execIndexFreeze t s
  | .idxFind t => Sys2Proof.Machine.execIdxFind t s
  | .tbxAlloc r => Sys2Proof.Machine.execTbxAlloc r s
  | .tbxAddref r => Sys2Proof.Machine.execTbxAddref r s
  | .tbxRelease r => Sys2Proof.Machine.execTbxRelease r s
  | .quarantine agent bufid => Sys2Proof.Machine.execQuarantine agent bufid s
  | .restore agent bufid => Sys2Proof.Machine.execRestore agent bufid s
  | .retiregrp agent g => Sys2Proof.Machine.execRetiregrp agent g s
  | .allocRetry => Sys2Proof.Machine.execAllocRetry s
  | .tbxWaitclr src classes => Sys2Proof.Machine.execTbxWaitclr src classes s
  | .tbxInspid src bufid => Sys2Proof.Machine.execTbxInspid src bufid s
  | .tbxLock src => Sys2Proof.Machine.execTbxLock src s
  | .motSpeed t => Sys2Proof.Machine.execMotSpeed t s
  | .motLocate t => Sys2Proof.Machine.execMotLocate t s
  | .motTurn t => Sys2Proof.Machine.execMotTurn t s
  | .motStop t => Sys2Proof.Machine.execMotStop t s
  | .standstill t => Sys2Proof.Machine.execStandstill t s
  | .speedLock t => Sys2Proof.Machine.execSpeedLock t s
  | .wrapSettle t => Sys2Proof.Machine.execWrapSettle t s
  | .turnComplete t => Sys2Proof.Machine.execTurnComplete t s
  | .compJobDispatch r e => Sys2Proof.Machine.execCompJobDispatch r e s
  | .compJobStop e l => Sys2Proof.Machine.execCompJobStop e l s
  | .expandJobStop e o => Sys2Proof.Machine.execExpandJobStop e o s
  | .codecEngineFault e => Sys2Proof.Machine.execCodecEngineFault e s
  | .historyIdleRelease scid => Sys2Proof.Machine.execHistoryIdleRelease scid s
  | .offloadSubmit src tail => Sys2Proof.Machine.execOffloadSubmit src tail s
  | .offloadEnable src cfg => Sys2Proof.Machine.execOffloadEnable src cfg s
  | .codecEngRetire src e retired => Sys2Proof.Machine.execCodecEngRetire src e retired s
  | .workItemAccept t => Sys2Proof.Machine.execWorkItemAccept t s
  | .asmIdleTimeout t => Sys2Proof.Machine.execAsmIdleTimeout t s
  | .replaceDiscard scid => Sys2Proof.Machine.execReplaceDiscard scid s
  | .marionetteTick t => Sys2Proof.Machine.execMarionetteTick t s
  | .freqStale t => Sys2Proof.Machine.execFreqStale t s
  | .yoyoPauseStart t => Sys2Proof.Machine.execYoyoPauseStart t s
  | .pauseDriversOff t => Sys2Proof.Machine.execPauseDriversOff t s
  | .maxpauseExpiry t => Sys2Proof.Machine.execMaxpauseExpiry t s
  | .bandholdExpiry t => Sys2Proof.Machine.execBandholdExpiry t s
  | .spdrefPulse t period => Sys2Proof.Machine.execSpdrefPulse t period s
  | .spdrefInvalid t => Sys2Proof.Machine.execSpdrefInvalid t s
  | .loopEvaluation => Sys2Proof.Machine.execLoopEvaluation s
  | .loopOverrun l => Sys2Proof.Machine.execLoopOverrun l s
  | .lAlu rd ra rb func => Sys2Proof.Machine.execLAlu rd ra rb func s
  | .addis rd ra imm => Sys2Proof.Machine.execAddis rd ra imm s
  | .ldi rd ra imm => Sys2Proof.Machine.execLdi rd ra imm s
  | .ldhi rd ra imm => Sys2Proof.Machine.execLdhi rd ra imm s
  | .lds rd ra imm => Sys2Proof.Machine.execLds rd ra imm s
  | .sts rd ra imm => Sys2Proof.Machine.execSts rd ra imm s
  | .lIn rd ra imm => Sys2Proof.Machine.execLIn rd ra imm s
  | .lOut rd ra imm => Sys2Proof.Machine.execLOut rd ra imm s
  | .rdacc rd ra imm => Sys2Proof.Machine.execRdacc rd ra imm s
  | .ldacc rd ra imm => Sys2Proof.Machine.execLdacc rd ra imm s
  | .clamp rd ra imm => Sys2Proof.Machine.execClamp rd ra imm s
  | .rcl rd ra imm => Sys2Proof.Machine.execRcl rd ra imm s
  | .rcu rd ra imm => Sys2Proof.Machine.execRcu rd ra imm s
  | .mac acc va cidx zero => Sys2Proof.Machine.execMac acc va cidx zero s
  | .msu acc va cidx zero => Sys2Proof.Machine.execMsu acc va cidx zero s
  | .macz acc va cidx zero => Sys2Proof.Machine.execMacz acc va cidx zero s
  | .lBeq ra rb imm => Sys2Proof.Machine.execLBeq ra rb imm s
  | .lBne ra rb imm => Sys2Proof.Machine.execLBne ra rb imm s
  | .lBlt ra rb imm => Sys2Proof.Machine.execLBlt ra rb imm s
  | .lBge ra rb imm => Sys2Proof.Machine.execLBge ra rb imm s
  | .bsat ra rb imm => Sys2Proof.Machine.execBsat ra rb imm s
  | .bnsat ra rb imm => Sys2Proof.Machine.execBnsat ra rb imm s
  | .lEnd rd ra imm => Sys2Proof.Machine.execLEnd rd ra imm s
  | .servoFrame t f => Sys2Proof.Machine.execServoFrame t f s
  | .servoFrameTimeout t tstamp => Sys2Proof.Machine.execServoFrameTimeout t tstamp s
  | .motionSensorRecord t tens => Sys2Proof.Machine.execMotionSensorRecord t tens s
  | .encoderEdge t reelB edge => Sys2Proof.Machine.execEncoderEdge t reelB edge s
  | .supervisionStop t cause n => Sys2Proof.Machine.execSupervisionStop t cause n s
  | .mcCommandedStop src t => Sys2Proof.Machine.execMcCommandedStop src t s
  | .mcClear src t => Sys2Proof.Machine.execMcClear src t s
  | .mcTensionOn src t => Sys2Proof.Machine.execMcTensionOn src t s
  | .mcTensionOff src t => Sys2Proof.Machine.execMcTensionOff src t s
  | .mcRcClr src t reelB => Sys2Proof.Machine.execMcRcClr src t reelB s
  | .mcInjGo src => Sys2Proof.Machine.execMcInjGo src s
  | .injectionEnd => Sys2Proof.Machine.execInjectionEnd s
  | .mcCapArm src => Sys2Proof.Machine.execMcCapArm src s
  | .autotune l => Sys2Proof.Machine.execAutotune l s
  | .autotuneAbort => Sys2Proof.Machine.execAutotuneAbort s
  | .slotArrival lane adc => Sys2Proof.Machine.execSlotArrival lane adc s
  | .ldpcIteration eng fault => Sys2Proof.Machine.execLdpcIteration eng fault s
  | .codewordDeadline lane => Sys2Proof.Machine.execCodewordDeadline lane s
  | .lossOfLock lane => Sys2Proof.Machine.execLossOfLock lane s
  | .sampleOverflow lane => Sys2Proof.Machine.execSampleOverflow lane s
  | .wlUnderrun lane slot => Sys2Proof.Machine.execWlUnderrun lane slot s
  | .rcModeWrite src t mode => Sys2Proof.Machine.execRcModeWrite src t mode s
  | .rcEngRetire src eng retired => Sys2Proof.Machine.execRcEngRetire src eng retired s
  | .rcCapArm src c n => Sys2Proof.Machine.execRcCapArm src c n s
  | .captureStop c n adc => Sys2Proof.Machine.execCaptureStop c n adc s
  | .calibrationPassEnd t band reverse res => Sys2Proof.Machine.execCalibrationPassEnd t band reverse res s
  | .hmsAlert t k => Sys2Proof.Machine.execHmsAlert t k s
  | .vfyLanecmdRetire src t k => Sys2Proof.Machine.execVfyLanecmdRetire src t k s
  | .vfyLanecmdReturn src t k => Sys2Proof.Machine.execVfyLanecmdReturn src t k s
  | .negotiate q e => Sys2Proof.Machine.execNegotiate q e s
  | .identify q e => Sys2Proof.Machine.execIdentify q e s
  | .getLog q e => Sys2Proof.Machine.execGetLog q e s
  | .setFeature q e => Sys2Proof.Machine.execSetFeature q e s
  | .abortCmd q e => Sys2Proof.Machine.execAbortCmd q e s
  | .selfTest q e => Sys2Proof.Machine.execSelfTest q e s
  | .selfTestResume => Sys2Proof.Machine.execSelfTestResume s
  | .loadCmd q e => Sys2Proof.Machine.execLoadCmd q e s
  | .unload q e => Sys2Proof.Machine.execUnload q e s
  | .formatVolume q e => Sys2Proof.Machine.execFormatVolume q e s
  | .loadProgram q e => Sys2Proof.Machine.execLoadProgram q e s
  | .openStream q e => Sys2Proof.Machine.execOpenStream q e s
  | .closeStream q e => Sys2Proof.Machine.execCloseStream q e s
  | .writeRecords q e => Sys2Proof.Machine.execWriteRecords q e s
  | .readRecords q e => Sys2Proof.Machine.execReadRecords q e s
  | .flush q e => Sys2Proof.Machine.execFlush q e s
  | .commit q e => Sys2Proof.Machine.execCommit q e s
  | .locate q e => Sys2Proof.Machine.execLocate q e s
  | .ledgerPost t => Sys2Proof.Machine.execLedgerPost t s
  | .completionPost q => Sys2Proof.Machine.execCompletionPost q s
  | .coalesceTimeout q => Sys2Proof.Machine.execCoalesceTimeout q s
  | .noticePost => Sys2Proof.Machine.execNoticePost s
  | .sqTailDoorbell src q ptr => Sys2Proof.Machine.execSqTailDoorbell src q ptr s
  | .cqHeadDoorbell src q ptr => Sys2Proof.Machine.execCqHeadDoorbell src q ptr s
  | .queueEnable src q cfg => Sys2Proof.Machine.execQueueEnable src q cfg s
  | .queueErrClear src q => Sys2Proof.Machine.execQueueErrClear src q s
  | .hostMemoryError q tag => Sys2Proof.Machine.execHostMemoryError q tag s
  | .endpointFlr ep => Sys2Proof.Machine.execEndpointFlr ep s
  | .linkDown ep => Sys2Proof.Machine.execLinkDown ep s
  | .perstAssert p => Sys2Proof.Machine.execPerstAssert p s
  | .mbxGo src => Sys2Proof.Machine.execMbxGo src s
  | .powerStateIdleExpiry => Sys2Proof.Machine.execPowerStateIdleExpiry s
  | .wake => Sys2Proof.Machine.execWake s
  | .pfailAccept => Sys2Proof.Machine.execPfailAccept s
  | .supplySample vin vhu => Sys2Proof.Machine.execSupplySample vin vhu s
  | .sagTimeout => Sys2Proof.Machine.execSagTimeout s
  | .sagClear => Sys2Proof.Machine.execSagClear s
  | .commitRecordWrite => Sys2Proof.Machine.execCommitRecordWrite s
  | .commitEnd => Sys2Proof.Machine.execCommitEnd s
  | .commitAreaEraseDone => Sys2Proof.Machine.execCommitAreaEraseDone s
  | .holdupMeasStart src => Sys2Proof.Machine.execHoldupMeasStart src s
  | .holdupMeasEnd v1 early => Sys2Proof.Machine.execHoldupMeasEnd v1 early s
  | .holdupPeriodicMeas => Sys2Proof.Machine.execHoldupPeriodicMeas s
  | .pwrRlogAck src => Sys2Proof.Machine.execPwrRlogAck src s
  | .glbRstWarm src => Sys2Proof.Machine.execGlbRstWarm src s
  | .coldReset => Sys2Proof.Machine.execColdReset s
  | .hbmTrainingDone => Sys2Proof.Machine.execHbmTrainingDone s
  | .ucieTrainingDone t ok => Sys2Proof.Machine.execUcieTrainingDone t ok s
  | .hbmSweepDone => Sys2Proof.Machine.execHbmSweepDone s
  | .fuseKey slot digest => Sys2Proof.Machine.execFuseKey slot digest s
  | .revokeKey slot => Sys2Proof.Machine.execRevokeKey slot s
  | .tempUpdate temps => Sys2Proof.Machine.execTempUpdate temps s
  | .cacheAccess agent addr wr => Sys2Proof.Machine.execCacheAccess agent addr wr s
  | .cacheFill line => Sys2Proof.Machine.execCacheFill line s
  | .evictionAccept line => Sys2Proof.Machine.execEvictionAccept line s
  | .snoopWrite addr bytes scrub => Sys2Proof.Machine.execSnoopWrite addr bytes scrub s
  | .scratchpadAccess agent addr wr => Sys2Proof.Machine.execScratchpadAccess agent addr wr s
  | .scrubLine => Sys2Proof.Machine.execScrubLine s
  | .ccInit src => Sys2Proof.Machine.execCcInit src s
  | .ccEnable src en => Sys2Proof.Machine.execCcEnable src en s
  | .ccWayPower src ways => Sys2Proof.Machine.execCcWayPower src ways s
  | .ccWayRetire src ways => Sys2Proof.Machine.execCcWayRetire src ways s
  | .ccRangeClean src => Sys2Proof.Machine.execCcRangeClean src s
  | .ccRangeCleanInvalidate src => Sys2Proof.Machine.execCcRangeCleanInvalidate src s
  | .ccRangeDiscard src => Sys2Proof.Machine.execCcRangeDiscard src s
  | .ccScratchpad src sp => Sys2Proof.Machine.execCcScratchpad src sp s
  | .memFlipArm src sel => Sys2Proof.Machine.execMemFlipArm src sel s
  | .memRemapWrite src n e word valid => Sys2Proof.Machine.execMemRemapWrite src n e word valid s
  | .faultRetryExpiry unit => Sys2Proof.Machine.execFaultRetryExpiry unit s
  | .transportRetryClear t => Sys2Proof.Machine.execTransportRetryClear t s
  | .ucieLinkError t => Sys2Proof.Machine.execUcieLinkError t s
  | .fltRetRetire src unit => Sys2Proof.Machine.execFltRetRetire src unit s
  | .fltRetReturn src unit => Sys2Proof.Machine.execFltRetReturn src unit s
  | .fltBcastHalt src mask => Sys2Proof.Machine.execFltBcastHalt src mask s
  | .telFreeze src => Sys2Proof.Machine.execTelFreeze src s
  | .freezeReadoutDone => Sys2Proof.Machine.execFreezeReadoutDone s
  | .registerWrite src off val => Sys2Proof.Machine.execRegisterWrite src off val s
  | .registerReadClear src off => Sys2Proof.Machine.execRegisterReadClear src off s
  | .pairLowerRead src off => Sys2Proof.Machine.execPairLowerRead src off s
  | .malformedRegisterAccess src off size read => Sys2Proof.Machine.execMalformedRegisterAccess src off size read s
  | .unmappedAccess src off read => Sys2Proof.Machine.execUnmappedAccess src off read s
  | .pairUpperRead src off => Sys2Proof.Machine.execPairUpperRead src off s
  | .hostReadData scid len => Sys2Proof.Machine.execHostReadData scid len s
  | .actuatorHeartbeat l => Sys2Proof.Machine.execActuatorHeartbeat l s
  | .ccInitDone => Sys2Proof.Machine.execCcInitDone s
  | .ccRangeWalkDone => Sys2Proof.Machine.execCcRangeWalkDone s
  | .ccWayCleanDone w => Sys2Proof.Machine.execCcWayCleanDone w s
  | .scratchpadReady slot => Sys2Proof.Machine.execScratchpadReady slot s
  | .rcBinClearDone t reelB => Sys2Proof.Machine.execRcBinClearDone t reelB s
  | .powerStateEntryDone => Sys2Proof.Machine.execPowerStateEntryDone s
  | .selfTestSegmentEnd fail => Sys2Proof.Machine.execSelfTestSegmentEnd fail s

end Sys2Proof.Machine
end

