-- ==== Sys2Proof/Machine/Idle.lean ====
section
/-! DEFINITION. What passes when no command waits: one CCLK cycle (log entry 1). -/
namespace Sys2Proof.Machine

/-- One CCLK cycle for a sequencer: CYCLE counts once the program has been started (R42); the watchdog counts cycles
spent running outside a wait (R56). -/
def idleSeq (q : Seq) : Seq :=
  match q.st with
  | .empty => q
  | .loaded => q
  | .running => { q with cycle := q.cycle + 1, wdog := q.wdog + 1 }
  | _ => { q with cycle := q.cycle + 1 }

/-- One microsecond of TIMER: it counts down and sets event TIMER on reaching zero (R42). -/
def idleTimer (q : Seq) : Seq :=
  if q.timer = 0 then q
  else if q.timer = 1 then { q with timer := 0, latched := q.latched ||| BitVec.ofNat 64 (2 ^ evTimer) }
  else { q with timer := q.timer - 1 }

/-- One CCLK cycle; every 1,250th ends a microsecond (R28). -/
def idle (s : State) : State :=
  let s := { s with clk := s.clk + 1 }
  forAll allT (fun t => modTp t (fun x =>
    { x with seq := if s.clk % 1250 = 0 then idleTimer (idleSeq x.seq) else idleSeq x.seq })) s

end Sys2Proof.Machine
end

