-- ==== Sys2Proof/Machine/Step.lean ====
section
/-! DEFINITION. One step of the block: the command at the front of the queue takes effect; an empty queue lets one CCLK
cycle pass (log entry 1). -/
namespace Sys2Proof.Machine

/-- Take the command at the front of the queue and run it with the queue's rest; with none waiting, one cycle passes. -/
def step (s : State) : Host.Outcome State Fault Refusal :=
  match s.pending with
  | [] => .next (idle s)
  | c :: r => exec c { s with pending := r }

/-- The command a word of the table spells, put at the front of the queue; no word spells one, so s is unchanged. -/
def State.withFetchWord (s : State) (nbits w : Nat) : State :=
  match decodeTableWord nbits w with
  | none => s
  | some c => { s with pending := c :: s.pending }

end Sys2Proof.Machine
end

