-- ==== Sys2Proof/Safety.lean ====
section
/-! DEFINITION. What a safe step is: one that answers a next state, so that no command stopped the block; and the terms the
statements use: where a sequencer or the arithmetic unit stands, and the states their instructions lead to. -/
namespace Sys2Proof.Safety

open Sys2Proof.Machine

/-- A step of the block that does not stop. -/
def StepRuns (s : State) : Prop := ∃ s', step s = .next s'

/-- k steps, none of which stops. -/
def RunsFor : Nat → State → Prop
  | 0, _ => True
  | k + 1, s => ∃ s', step s = .next s' ∧ RunsFor k s'

/-- Sequencer t is RUNNING at an instruction boundary that neither the watchdog nor a halt request takes. -/
def AtBoundary (t : Tid) (s : State) : Prop :=
  (seqOf s t).st = .running ∧ wdogDue s t = false ∧ (seqOf s t).haltp = false

/-- Sequencer t is about to execute i: the word at PC decodes to i, which is legal (R38, R56, R57). Single-step is off. -/
def AtInstr (t : Tid) (i : FInstr) (s : State) : Prop :=
  AtBoundary t s ∧ (seqOf s t).step = false ∧ fFetch (seqOf s t) = some i

/-- Nothing but sequencer t changes: it becomes q. -/
def withSeq (t : Tid) (q : Seq) (s : State) : State := { s with tp := s.tp.set t { tpOf s t with seq := q } }

/-- The instruction has taken n cycles, which CYCLE and the watchdog count (R40, R42, R56), and PC stands at pc. -/
def retired (pc : BitVec 16) (n : Nat) (q : Seq) : Seq :=
  { q with pc := pc, cycle := q.cycle + BitVec.ofNat 64 n, wdog := q.wdog + n }

/-- General register r of sequencer t; g0 reads zero (R37). -/
def greg (s : State) (t : Tid) (r : BitVec 5) : W64 := if r = 0 then 0 else (seqOf s t).g.get 0 r.toNat

/-- Descriptor register n of sequencer t (R37). -/
def dreg (s : State) (t : Tid) (n : Nat) : BitVec 256 := (seqOf s t).d.get 0 n

/-- The sequencer with v in general register rd; g0 ignores the write (R37). -/
def putG (rd : BitVec 5) (v : W64) (q : Seq) : Seq := if rd = 0 then q else { q with g := q.g.set 0 rd.toNat v }

/-- An instruction of n cycles that writes v to rd and goes on behind itself: nothing else of the block changes. -/
def regResult (t : Tid) (rd : BitVec 5) (v : W64) (n : Nat) (s : State) : State :=
  withSeq t (retired ((seqOf s t).pc + 4) n (putG rd v (seqOf s t))) s

/-- An instruction of n cycles that writes v to descriptor register k. -/
def dregResult (t : Tid) (k : Nat) (v : BitVec 256) (n : Nat) (s : State) : State :=
  withSeq t (retired ((seqOf s t).pc + 4) n { seqOf s t with d := (seqOf s t).d.set 0 k v }) s

/-- An instruction of n cycles that makes data memory m. -/
def memResult (t : Tid) (m : SMap Byte) (n : Nat) (s : State) : State :=
  withSeq t (retired ((seqOf s t).pc + 4) n { seqOf s t with data := m }) s

/-- One cycle, and PC at a. -/
def jumpResult (t : Tid) (a : BitVec 16) (s : State) : State := withSeq t (retired a 1 (seqOf s t)) s

/-- The sequencer has a handler, and is not in it (R55). -/
def HasHandler (t : Tid) (s : State) : Prop := (seqOf s t).exl = false ∧ (seqOf s t).evec ≠ 0

/-- An exception taken by the handler (R55): EPC, ECAUSE and EVAL written, EXL set, PC at EVEC; TS_FCNT has counted it. -/
def entered (t : Tid) (cause : BitVec 6) (eval : W64) (s : State) : State :=
  let s' := bumpFld (Reg.tsFcnt t) Fld.tsFcntExccnt s
  withSeq t { seqOf s t with
    epc := BitVec.setWidth 64 (seqOf s t).pc, ecause := cause, eval := eval, exl := true
    pc := BitVec.setWidth 16 (seqOf s t).evec } s'

/-- The address of a load or store of sequencer t: ra + imm, sign-extended (R39, R40). -/
def dataAddr (s : State) (t : Tid) (ra : BitVec 5) (imm : BitVec 16) : W64 := greg s t ra + imm.signExtend 64

/-- An access of n bytes at a that R41 lets go: aligned on n and inside 64 KiB. -/
def dataOk (a : W64) (n : Nat) : Prop := a.toNat % n = 0 ∧ a.toNat + n ≤ 65536

/-- m' is m with the n bytes from a on replaced by the low n bytes of v, the lowest at a (R6); no other byte differs. -/
def BytesStored (m m' : SMap Byte) (a n v : Nat) : Prop :=
  ∀ k, m'.get 0 k = if a ≤ k ∧ k < a + n then BitVec.ofNat 8 (v / 256 ^ (k - a)) else m.get 0 k

/-- The arithmetic unit is about to execute i in evaluation e, which has run fewer than 256 cycles (R60, R207). -/
def AtLoop (i : LInstr) (e : LEval) (s : State) : Prop := s.mrn.ev = some e ∧ lFetch s e = some i ∧ e.cyc < 256

/-- v register r, signed; v0 reads zero (R37). -/
def vreg (s : State) (r : BitVec 5) : Int := if r = 0 then 0 else (s.mrn.v.get 0 r.toNat).toInt

/-- A value limited to lo and hi. -/
def limited (lo hi x : Int) : Int := max lo (min hi x)

/-- The evaluation n words on and one cycle later; b: the instruction saturated or clamped (R59). -/
def lNext (n : Int) (b : Bool) (e : LEval) : LEval :=
  { e with pc := ((e.pc : Int) + 4 * n).toNat, cyc := e.cyc + 1, satf := e.satf || b }

/-- An instruction that writes x, saturated to 32 bits, to rd; SATF also where b. Nothing else of the block changes. -/
def vResult (rd : BitVec 5) (x : Int) (b : Bool) (e : LEval) (s : State) : State :=
  let y := limited (-(2 ^ 31)) (2 ^ 31 - 1) x
  { s with mrn := { s.mrn with
    busy := s.mrn.busy + 1, ev := some (lNext 1 (decide (y ≠ x) || b) e)
    v := if rd = 0 then s.mrn.v else s.mrn.v.set 0 rd.toNat (BitVec.ofInt 32 y) } }

/-- An instruction that writes x, saturated to 72 bits, to an accumulator. -/
def accResult (i : Bool) (x : Int) (e : LEval) (s : State) : State :=
  let y := limited (-(2 ^ 71)) (2 ^ 71 - 1) x
  { s with mrn := { s.mrn with
    busy := s.mrn.busy + 1, ev := some (lNext 1 (decide (y ≠ x)) e)
    acc0 := if i then s.mrn.acc0 else BitVec.ofInt 72 y, acc1 := if i then BitVec.ofInt 72 y else s.mrn.acc1 } }

/-- An accumulator, signed. -/
def accumulator (s : State) (i : Bool) : Int := if i then s.mrn.acc1.toInt else s.mrn.acc0.toInt

/-- Coefficient i of the active bank of loop l: its value, and its shift (R59, R214). -/
def coefficient (s : State) (l i : Nat) : Int × Nat :=
  let p := getLoop s l
  let c := (if p.bank then p.coefB else p.coefA).get 0 i
  ((c.setWidth 32).toInt, c.toNat / 2 ^ 32 % 32)

/-- Nothing but loop l changes, by f. -/
def withLoop (l : Nat) (f : MLoop → MLoop) (s : State) : State := modLoop l f s

/-- The oldest descriptor that the stage of port n of slice t has not taken is y, with operation op (R43, R47). -/
def HeadIs (t : Tid) (n op : Nat) (y : Slot) (s : State) : Prop := portHead (portOf (tpOf s t) n) = some y ∧ descOp y.desc = op

/-- The completion word of R45: TICKET, STATUS, VALUE. -/
def completion (ticket : BitVec 16) (st : BitVec 8) (val : W32) : W64 := val ++ (0 : BitVec 8) ++ st ++ ticket

/-- A buffer that agent may refer to by tok: an existing BUFID, not FREE, of the token's generation (R184, R188). -/
def Current (s : State) (tok : W32) : Prop :=
  (classOf s (tokId tok)).isSome ∧ (bufRec s (tokId tok)).st ≠ .free ∧ (bufRec s (tokId tok)).gen = tokGen tok

/-- The row of a host command's opcode (R253). -/
def hostRow (opc : Nat) (q : Fin 1024) (e : Entry) : Option Instr :=
  match opc with
  | 0x00 => some (.negotiate q e)
  | 0x01 => some (.identify q e)
  | 0x02 => some (.getLog q e)
  | 0x03 => some (.setFeature q e)
  | 0x04 => some (.abortCmd q e)
  | 0x05 => some (.selfTest q e)
  | 0x08 => some (.loadCmd q e)
  | 0x09 => some (.unload q e)
  | 0x0A => some (.formatVolume q e)
  | 0x0B => some (.loadProgram q e)
  | 0x10 => some (.openStream q e)
  | 0x11 => some (.closeStream q e)
  | 0x12 => some (.writeRecords q e)
  | 0x13 => some (.readRecords q e)
  | 0x14 => some (.flush q e)
  | 0x15 => some (.commit q e)
  | 0x16 => some (.locate q e)
  | _ => none

/-- Queue q has moved past the entry that it fetches; a running self-test suspends for most commands (R245, R273). -/
def headTaken (q : Fin 1024) (e : Entry) (s : State) : State :=
  let s := modQueue q.val (fun x => { x with head := (x.head + 1) % sqEntries s q.val }) s
  if e.opc = 1 ∨ e.opc = 2 ∨ e.opc = 4 then s else testSuspend s

/-- A command as it is fetched: QUEUED. -/
def newCmd (q : Fin 1024) (e : Entry) : Cmd := { Cmd.reset with queue := q.val, e := e }

/-- The entry has been fetched, and its command is outstanding (R252). -/
def fetched (q : Fin 1024) (e : Entry) (s : State) : State :=
  let s := headTaken q e s
  { s with hif := { s.hif with cmds := s.hif.cmds ++ [newCmd q e] } }

/-- Queue q fetches e, whose tag is free, whose fields are in order and which the queue accepts (R250, R252, R362). -/
def Accepted (q : Fin 1024) (e : Entry) (s : State) : Prop :=
  canFetch s q.val = true ∧ tagInUse (headTaken q e s) e.tag = false ∧ fieldError e = none
    ∧ ((queueOf (headTaken q e s) q.val).neg = true ∨ e.opc = 0 ∨ e.opc = 1)

/-- No buffer record but that of BUFID id differs between two states. -/
def OtherBuffers (id : Nat) (s u : State) : Prop := ∀ j, j ≠ id → bufStored u j = bufStored s j

end Sys2Proof.Safety
end

