-- ==== Sys2Proof/WellFormed.lean ====
section
/-! DEFINITION. Commands whose operands have the lengths and ranges the spec gives them. -/
namespace Sys2Proof

/-- A slot's soft values: 9,440 channel bits with 32 before and 32 after (R132, R140). -/
def slotBits : Nat := 9504

/-- Whether the operands of a command fit the spec. -/
def WellFormed : Instr → Bool
  | .slotArrival _ soft => soft.length == slotBits
  | _ => true

end Sys2Proof
end

