-- ==== Sys2Proof/Certificates/Slice0/Obligations.lean ====
section
/-! DEFINITION. The statements for the provers. -/

open Sys2Proof Sys2Proof.Machine Sys2Proof.Safety

/-! ### The whole block -/

/-- A step with a command in front is exec of that command on the state with the queue's rest. With nothing waiting, one CCLK cycle
passes (the model's choice, log entry 1): the sequencers that run count it in CYCLE and for the watchdog (R42, R56), TIMER
counts a microsecond every 1,250 cycles and sets event TIMER on reaching zero, and nothing else changes. -/
def Obligations.StepRunsFront : Prop :=
  (∀ (c : Instr) (r : List Instr) (s : State),
      step { s with pending := c :: r } = exec c { s with pending := r })
  ∧ (∀ s : State, s.pending = [] → ∃ u, step s = .next u ∧ u.clk = s.clk + 1 ∧ u = { s with clk := s.clk + 1, tp := u.tp }
      ∧ ∀ t : Tid, tpOf u t = { tpOf s t with seq := seqOf u t }
        ∧ (seqOf u t = { seqOf s t with
            cycle := (seqOf u t).cycle, wdog := (seqOf u t).wdog, timer := (seqOf u t).timer, latched := (seqOf u t).latched })
        ∧ ((seqOf s t).st = .running → (seqOf u t).cycle = (seqOf s t).cycle + 1 ∧ (seqOf u t).wdog = (seqOf s t).wdog + 1)
        ∧ ((seqOf s t).st ≠ .running → (seqOf u t).wdog = (seqOf s t).wdog)
        ∧ ((s.clk + 1) % 1250 ≠ 0 ∨ (seqOf s t).timer = 0 →
            (seqOf u t).timer = (seqOf s t).timer ∧ (seqOf u t).latched = (seqOf s t).latched)
        ∧ ((s.clk + 1) % 1250 = 0 → (seqOf s t).timer ≠ 0 → (seqOf u t).timer = (seqOf s t).timer - 1
            ∧ ((seqOf s t).timer ≠ 1 → (seqOf u t).latched = (seqOf s t).latched)
            ∧ ((seqOf s t).timer = 1 → (seqOf u t).latched = (seqOf s t).latched ||| 0x200)))

/-- No command stops the block: from every state, any number of steps runs. -/
def Obligations.EveryStepRuns : Prop :=
  ∀ (k : Nat) (s : State), RunsFor k s

/-- An invariant of every step, over all commands: the commands that wait behind the one taken stay as they are, in their order, and
no command adds one; so a step takes exactly the front command. -/
def Obligations.StepTakesTheFront : Prop :=
  ∀ s s' : State, step s = .next s' → s'.pending = s.pending.tail

/-- The block right after reset: nothing waits and no host command is outstanding; every sequencer is EMPTY with no image (R63);
every transport is RELEASED; every buffer record is zero, not allocated since reset (R184); the cache is disabled (R293); PRIME
is 16 (R160) and the ratio guard 1,032 (R177); the scrub period is 24 hours (R299); no queue is fetched from (R244). The model's
choice, where the spec gives no reset value (log entry 3): code, data and general registers of every sequencer read zero, and
every port is empty with its next ticket 0. -/
def Obligations.ResetState : Prop :=
  State.reset.pending = [] ∧ State.reset.hif.cmds = [] ∧ State.reset.cache.enabled = false
    ∧ (∀ t : Tid, (seqOf State.reset t).st = .empty ∧ (seqOf State.reset t).fmtid = 0
        ∧ (tpOf State.reset t).mot.st = .released ∧ (tpOf State.reset t).mot.armed = none
        ∧ (∀ a, (seqOf State.reset t).data.get 0 a = 0 ∧ (seqOf State.reset t).code.get 0 a = 0)
        ∧ (∀ r : BitVec 5, greg State.reset t r = 0)
        ∧ (∀ n, (portOf (tpOf State.reset t) n).cpl = [] ∧ (portOf (tpOf State.reset t) n).slots = []
            ∧ (portOf (tpOf State.reset t) n).nextTicket = 0))
    ∧ (∀ id, (bufStored State.reset id).st = .free ∧ (bufStored State.reset id).gen = 0)
    ∧ fld State.reset Reg.czCfg Fld.czCfgPrime = 16 ∧ fld State.reset Reg.dzGuard Fld.dzGuardRatio = 1032
    ∧ fld State.reset Reg.scrCfg Fld.scrCfgPeriod = 24
    ∧ (∀ q : Fin 1024, canFetch State.reset q.val = false)

/-- Key fuses cannot be cleared (R319): FUSE_KEY writes the digest to a blank slot of 4 to 7 while PROVISION is high and does
nothing else; REVOKE_KEY blows the slot's revoke fuse, whatever the strap; and no command of the table changes a slot that is
fused or clears a revoke fuse. -/
def Obligations.FusesStay : Prop :=
  (∀ (slot : Fin 8) (d : BitVec 384) (s : State),
    (s.provision = true → 4 ≤ slot.val → s.fuses.get 0 slot.val = 0 →
      exec (.fuseKey slot d) s = .next { s with fuses := s.fuses.set 0 slot.val d })
    ∧ ((s.provision = false ∨ slot.val < 4 ∨ s.fuses.get 0 slot.val ≠ 0) → exec (.fuseKey slot d) s = .next s)
    ∧ (∃ u, exec (.revokeKey slot) s = .next u ∧ u.revoked.getLsbD slot.val = true
        ∧ (∀ k, k ≠ slot.val → u.revoked.getLsbD k = s.revoked.getLsbD k) ∧ u = { s with revoked := u.revoked }))
  ∧ ∀ (c : Instr) (s u : State), exec c s = .next u →
    (∀ k, s.fuses.get 0 k ≠ 0 → u.fuses.get 0 k = s.fuses.get 0 k) ∧ ∀ k, s.revoked.getLsbD k = true → u.revoked.getLsbD k = true

/-! ### Rhoval-F (02) -/

/-- Every Rhoval-F word decodes to what it encodes, with every field at every value (R39, R40). Every Rhoval-L word decodes to what
it encodes, with every field at every value (R39, R59). Words written out from the encodings of R39, R40 and R59 decode to the
instructions they stand for. -/
def Obligations.RhovalDecodeEncode : Prop :=
  ((∀ i : FInstr, decodeF (encodeF i) = some i) ∧ (∀ (w : W32) (i : FInstr), decodeF w = some i → encodeF i = w))
  ∧ ((∀ i : LInstr, decodeL (encodeL i) = some i) ∧ (∀ (w : W32) (i : LInstr), decodeL w = some i → encodeL i = w))
  ∧ (decodeF 0x04C7FFFE = some (.imm .addi 6 7 0xFFFE) ∧ decodeF 0x00622810 = some (.reg 3 2 5 0x010)
      ∧ decodeF 0x80430003 = some (.branch .beq 2 3 3) ∧ decodeF 0x61A8A000 = some (.stage .issue 6 5 2 true 0)
      ∧ decodeF 0x3C000000 = none
      ∧ decodeL 0x43558000 = some (.mul .mac true 21 22 0) ∧ decodeL 0x94000001 = some (.branch .bnsat 0 0 1)
      ∧ decodeL 0xA0000000 = some (.imm .lend 0 0 0) ∧ decodeL 0x4C000000 = none)

/-- ALU (R40): the function of ra and rb goes to rd, in one cycle, or three for MUL and MULHU; nothing else changes. -/
def Obligations.AluResult : Prop :=
  ∀ (t : Tid) (rd ra rb : BitVec 5) (func : BitVec 11) (s : State), AtInstr t (.reg rd ra rb func) s →
    ∃ (v : W64) (n : Nat), exec (.alu t rd ra rb func) s = .next (regResult t rd v n s)
      ∧ n = (if func = 0x00A ∨ func = 0x00B then 3 else 1)
      ∧ (func = 0x000 → v.toNat = ((greg s t ra).toNat + (greg s t rb).toNat) % 2 ^ 64)
      ∧ (func = 0x001 → v.toInt = ((greg s t ra).toInt - (greg s t rb).toInt).bmod (2 ^ 64))
      ∧ (func = 0x002 → ∀ k, v.getLsbD k = ((greg s t ra).getLsbD k && (greg s t rb).getLsbD k))
      ∧ (func = 0x003 → ∀ k, v.getLsbD k = ((greg s t ra).getLsbD k || (greg s t rb).getLsbD k))
      ∧ (func = 0x004 → ∀ k, v.getLsbD k = ((greg s t ra).getLsbD k ^^ (greg s t rb).getLsbD k))
      ∧ (func = 0x005 → v.toNat = (greg s t ra).toNat * 2 ^ ((greg s t rb).toNat % 64) % 2 ^ 64)
      ∧ (func = 0x006 → v.toNat = (greg s t ra).toNat / 2 ^ ((greg s t rb).toNat % 64))
      ∧ (func = 0x007 → v.toInt = (greg s t ra).toInt / 2 ^ ((greg s t rb).toNat % 64))
      ∧ (func = 0x008 → v = if (greg s t ra).toInt < (greg s t rb).toInt then 1 else 0)
      ∧ (func = 0x009 → v = if (greg s t ra).toNat < (greg s t rb).toNat then 1 else 0)
      ∧ (func = 0x00A → v.toNat = (greg s t ra).toNat * (greg s t rb).toNat % 2 ^ 64)
      ∧ (func = 0x00B → v.toNat = (greg s t ra).toNat * (greg s t rb).toNat / 2 ^ 64)
      ∧ (func = 0x00C → v.toInt = min (greg s t ra).toInt (greg s t rb).toInt)
      ∧ (func = 0x00D → v.toInt = max (greg s t ra).toInt (greg s t rb).toInt)
      ∧ (func = 0x00E → v.toNat = min (greg s t ra).toNat (greg s t rb).toNat)
      ∧ (func = 0x00F → v.toNat = max (greg s t ra).toNat (greg s t rb).toNat)
      ∧ (func = 0x010 → v.toNat = ((List.range 64).filter (fun k => (greg s t ra).getLsbD k)).length)
      ∧ (func = 0x011 → v.toNat ≤ 64 ∧ (∀ k, k < v.toNat → (greg s t ra).getLsbD (63 - k) = false)
          ∧ (v.toNat < 64 → (greg s t ra).getLsbD (63 - v.toNat) = true))
      ∧ (func = 0x012 → v.toNat ≤ 64 ∧ (∀ k, k < v.toNat → (greg s t ra).getLsbD k = false)
          ∧ (v.toNat < 64 → (greg s t ra).getLsbD v.toNat = true))

/-- ADDI to SRAI and LUI (R40): the value goes to rd in one cycle; nothing else changes. DINS, DEXT and DCLR (R40): bits p + w - 1
to p of the descriptor register, p = imm[7:0], w = imm[13:8] + 1. -/
def Obligations.ImmediateResult : Prop :=
  (∀ (t : Tid) (rd ra : BitVec 5) (imm : BitVec 16) (s : State),
      (AtInstr t (.imm .addi rd ra imm) s →
        exec (.addi t rd ra imm) s = .next (regResult t rd (greg s t ra + imm.signExtend 64) 1 s))
      ∧ (AtInstr t (.imm .andi rd ra imm) s →
        exec (.andi t rd ra imm) s = .next (regResult t rd (greg s t ra &&& imm.setWidth 64) 1 s))
      ∧ (AtInstr t (.imm .ori rd ra imm) s →
        exec (.ori t rd ra imm) s = .next (regResult t rd (greg s t ra ||| imm.setWidth 64) 1 s))
      ∧ (AtInstr t (.imm .xori rd ra imm) s →
        exec (.xori t rd ra imm) s = .next (regResult t rd (greg s t ra ^^^ imm.setWidth 64) 1 s))
      ∧ (AtInstr t (.imm .slti rd ra imm) s →
        exec (.slti t rd ra imm) s = .next (regResult t rd (if (greg s t ra).toInt < imm.toInt then 1 else 0) 1 s))
      ∧ (AtInstr t (.imm .sltiu rd ra imm) s →
        exec (.sltiu t rd ra imm) s
          = .next (regResult t rd (if (greg s t ra).toNat < (imm.signExtend 64).toNat then 1 else 0) 1 s))
      ∧ (AtInstr t (.imm .lui rd ra imm) s →
        exec (.lui t rd ra imm) s = .next (regResult t rd (BitVec.ofInt 64 (imm.toInt * 65536)) 1 s))
      ∧ (AtInstr t (.imm .slli rd ra imm) s →
        exec (.slli t rd ra imm) s = .next (regResult t rd (greg s t ra <<< (imm.toNat % 64)) 1 s))
      ∧ (AtInstr t (.imm .srli rd ra imm) s →
        exec (.srli t rd ra imm) s = .next (regResult t rd (greg s t ra >>> (imm.toNat % 64)) 1 s))
      ∧ (AtInstr t (.imm .srai rd ra imm) s →
        exec (.srai t rd ra imm) s = .next (regResult t rd ((greg s t ra).sshiftRight (imm.toNat % 64)) 1 s)))
  ∧ (∀ (t : Tid) (rd ra : BitVec 5) (imm : BitVec 16) (s : State) (p w : Nat),
      p = imm.toNat % 256 → w = imm.toNat / 256 % 64 + 1 →
      (AtInstr t (.imm .dins rd ra imm) s →
        ∃ v : BitVec 256, exec (.dins t rd ra imm) s = .next (dregResult t (rd.toNat % 8) v 1 s)
          ∧ ∀ k, k < 256 → v.getLsbD k
              = if p ≤ k ∧ k < p + w then (greg s t ra).getLsbD (k - p) else (dreg s t (rd.toNat % 8)).getLsbD k)
      ∧ (AtInstr t (.imm .dext rd ra imm) s →
        ∃ v : W64, exec (.dext t rd ra imm) s = .next (regResult t rd v 1 s)
          ∧ ∀ k, k < 64 → v.getLsbD k = (decide (k < w) && (dreg s t (ra.toNat % 8)).getLsbD (p + k)))
      ∧ (AtInstr t (.imm .dclr rd ra imm) s →
        exec (.dclr t rd ra imm) s = .next (dregResult t (rd.toNat % 8) 0 1 s)))

/-- LD, LW and DLD (R40, R41): little-endian bytes of data memory at ra + imm, aligned and inside 64 KiB, go to the register. ST, SW
and DST (R40, R41): the register's low bytes go to data memory at ra + imm; every other byte and everything else stays.
-/
def Obligations.DataAccessResult : Prop :=
  (∀ (t : Tid) (rd ra : BitVec 5) (imm : BitVec 16) (s : State),
      (AtInstr t (.imm .ld rd ra imm) s → dataOk (dataAddr s t ra imm) 8 →
        ∃ v : W64, exec (.ld t rd ra imm) s = .next (regResult t rd v 2 s)
          ∧ ∀ j, j < 8 → v.toNat / 256 ^ j % 256 = ((seqOf s t).data.get 0 ((dataAddr s t ra imm).toNat + j)).toNat)
      ∧ (AtInstr t (.imm .lw rd ra imm) s → dataOk (dataAddr s t ra imm) 4 →
        ∃ v : W64, exec (.lw t rd ra imm) s = .next (regResult t rd v 1 s) ∧ v.toNat < 2 ^ 32
          ∧ ∀ j, j < 4 → v.toNat / 256 ^ j % 256 = ((seqOf s t).data.get 0 ((dataAddr s t ra imm).toNat + j)).toNat)
      ∧ (AtInstr t (.imm .dld rd ra imm) s → dataOk (dataAddr s t ra imm) 32 →
        ∃ v : BitVec 256, exec (.dld t rd ra imm) s = .next (dregResult t (rd.toNat % 8) v 2 s)
          ∧ ∀ j, j < 32 → v.toNat / 256 ^ j % 256 = ((seqOf s t).data.get 0 ((dataAddr s t ra imm).toNat + j)).toNat))
  ∧ (∀ (t : Tid) (rd ra : BitVec 5) (imm : BitVec 16) (s : State),
      (AtInstr t (.imm .st rd ra imm) s → dataOk (dataAddr s t ra imm) 8 →
        ∃ m, exec (.st t rd ra imm) s = .next (memResult t m 2 s)
          ∧ BytesStored (seqOf s t).data m (dataAddr s t ra imm).toNat 8 (greg s t rd).toNat)
      ∧ (AtInstr t (.imm .sw rd ra imm) s → dataOk (dataAddr s t ra imm) 4 →
        ∃ m, exec (.sw t rd ra imm) s = .next (memResult t m 1 s)
          ∧ BytesStored (seqOf s t).data m (dataAddr s t ra imm).toNat 4 (greg s t rd).toNat)
      ∧ (AtInstr t (.imm .dst rd ra imm) s → dataOk (dataAddr s t ra imm) 32 →
        ∃ m, exec (.dst t rd ra imm) s = .next (memResult t m 2 s)
          ∧ BytesStored (seqOf s t).data m (dataAddr s t ra imm).toNat 32 (dreg s t (rd.toNat % 8)).toNat))

/-- R41, with a handler (R55). A DINS or DEXT whose field passes bit 255, or whose imm[15:14] is not zero, is illegal. A data-memory
access outside 0-65,535 raises DMEM_RANGE and a misaligned one DMEM_ALIGN, one of them where both hold; a branch or jump to a
target outside the image's code raises IMEM_RANGE, with EPC its own address and EVAL the target. Memory and registers stay.
-/
def Obligations.RangeFaults : Prop :=
  (∀ (t : Tid) (rd ra : BitVec 5) (imm : BitVec 16) (s : State), AtBoundary t s → (seqOf s t).step = false → HasHandler t s →
    (256 < imm.toNat % 256 + imm.toNat / 256 % 64 + 1 ∨ imm.toNat / 16384 ≠ 0) →
    (decodeF (fetchWord (seqOf s t)) = some (.imm .dins rd ra imm) →
      exec (.dins t rd ra imm) s = .next (entered t 1 ((fetchWord (seqOf s t)).setWidth 64) s))
    ∧ (decodeF (fetchWord (seqOf s t)) = some (.imm .dext rd ra imm) →
      exec (.dext t rd ra imm) s = .next (entered t 1 ((fetchWord (seqOf s t)).setWidth 64) s)))
  ∧ (∀ (t : Tid) (rd ra : BitVec 5) (imm : BitVec 16) (s : State) (c : Instr) (op : FOp) (n : Nat),
    ((c = .ld t rd ra imm ∧ op = .ld ∧ n = 8) ∨ (c = .st t rd ra imm ∧ op = .st ∧ n = 8)
      ∨ (c = .lw t rd ra imm ∧ op = .lw ∧ n = 4) ∨ (c = .sw t rd ra imm ∧ op = .sw ∧ n = 4)
      ∨ (c = .dld t rd ra imm ∧ op = .dld ∧ n = 32) ∨ (c = .dst t rd ra imm ∧ op = .dst ∧ n = 32)) →
    AtInstr t (.imm op rd ra imm) s → HasHandler t s →
    ((dataAddr s t ra imm).toNat % n ≠ 0 → (dataAddr s t ra imm).toNat + n ≤ 65536 →
      exec c s = .next (entered t 3 (dataAddr s t ra imm) s))
    ∧ ((dataAddr s t ra imm).toNat % n = 0 → 65536 < (dataAddr s t ra imm).toNat + n →
      exec c s = .next (entered t 4 (dataAddr s t ra imm) s))
    ∧ ((dataAddr s t ra imm).toNat % n ≠ 0 → 65536 < (dataAddr s t ra imm).toNat + n →
      exec c s = .next (entered t 3 (dataAddr s t ra imm) s) ∨ exec c s = .next (entered t 4 (dataAddr s t ra imm) s)))
  ∧ (∀ (t : Tid) (ra rb : BitVec 5) (imm : BitVec 16) (a : W64) (s : State) (c : Instr) (i : FInstr),
    ((c = .beq t ra rb imm ∧ i = .branch .beq ra rb imm ∧ greg s t ra = greg s t rb)
      ∨ (c = .bne t ra rb imm ∧ i = .branch .bne ra rb imm ∧ greg s t ra ≠ greg s t rb)
      ∨ (c = .blt t ra rb imm ∧ i = .branch .blt ra rb imm ∧ (greg s t ra).toInt < (greg s t rb).toInt)
      ∨ (c = .bge t ra rb imm ∧ i = .branch .bge ra rb imm ∧ (greg s t rb).toInt ≤ (greg s t ra).toInt)
      ∨ (c = .bltu t ra rb imm ∧ i = .branch .bltu ra rb imm ∧ (greg s t ra).toNat < (greg s t rb).toNat)
      ∨ (c = .bgeu t ra rb imm ∧ i = .branch .bgeu ra rb imm ∧ (greg s t rb).toNat ≤ (greg s t ra).toNat)
      ∨ (c = .jal t ra rb imm ∧ i = .imm .jal ra rb imm)) →
    a = (seqOf s t).pc.setWidth 64 + imm.signExtend 64 * 4 → AtInstr t i s → HasHandler t s → (seqOf s t).codeSize ≤ a.toNat →
    exec c s = .next (entered t 2 a s))
  ∧ ∀ (t : Tid) (rd ra : BitVec 5) (imm : BitVec 16) (a : W64) (s : State), a = (greg s t ra + imm.signExtend 64) &&& ~~~3 →
    AtInstr t (.imm .jalr rd ra imm) s → HasHandler t s → (seqOf s t).codeSize ≤ a.toNat →
    exec (.jalr t rd ra imm) s = .next (entered t 2 a s)

/-- The branches (R40): taken, PC goes to PC + 4 x imm, where that is inside the image's code; not taken, to the next instruction.
JAL and JALR (R40): rd takes PC + 4, and PC the target, computed before rd is written. -/
def Obligations.ControlTransfer : Prop :=
  (∀ (t : Tid) (ra rb : BitVec 5) (imm : BitVec 16) (s : State) (c : Instr) (op : FBr) (taken : Prop),
      ((c = .beq t ra rb imm ∧ op = .beq ∧ taken = (greg s t ra = greg s t rb))
        ∨ (c = .bne t ra rb imm ∧ op = .bne ∧ taken = (greg s t ra ≠ greg s t rb))
        ∨ (c = .blt t ra rb imm ∧ op = .blt ∧ taken = ((greg s t ra).toInt < (greg s t rb).toInt))
        ∨ (c = .bge t ra rb imm ∧ op = .bge ∧ taken = ((greg s t rb).toInt ≤ (greg s t ra).toInt))
        ∨ (c = .bltu t ra rb imm ∧ op = .bltu ∧ taken = ((greg s t ra).toNat < (greg s t rb).toNat))
        ∨ (c = .bgeu t ra rb imm ∧ op = .bgeu ∧ taken = ((greg s t rb).toNat ≤ (greg s t ra).toNat))) →
      AtInstr t (.branch op ra rb imm) s →
      (¬taken → exec c s = .next (jumpResult t ((seqOf s t).pc + 4) s))
      ∧ (taken → ∀ a : W64, a = (seqOf s t).pc.setWidth 64 + imm.signExtend 64 * 4 → a.toNat < (seqOf s t).codeSize →
        exec c s = .next (jumpResult t (a.setWidth 16) s)))
  ∧ (∀ (t : Tid) (rd ra : BitVec 5) (imm : BitVec 16) (s : State) (c : Instr) (op : FOp) (a : W64),
      ((c = .jal t rd ra imm ∧ op = .jal ∧ a = (seqOf s t).pc.setWidth 64 + imm.signExtend 64 * 4)
        ∨ (c = .jalr t rd ra imm ∧ op = .jalr ∧ a = (greg s t ra + imm.signExtend 64) &&& ~~~3)) →
      AtInstr t (.imm op rd ra imm) s →
      a.toNat < (seqOf s t).codeSize → exec c s
        = .next (withSeq t (retired (a.setWidth 16) 1 (putG rd ((seqOf s t).pc.setWidth 64 + 4) (seqOf s t))) s))

/-- BRK enters the handler with cause BREAK (R54, R55); ERET leaves it for EPC with EXL 0, and is ILLEGAL outside it. Whatever
stands at PC, a word that is no legal instruction raises ILLEGAL, with EVAL the word (R38, R54). An exception in the handler, or
with none (R55): the sequencer is FAILED, with PC at the instruction, ECAUSE and EVAL written and nothing of its registers or
memory changed; its unstarted descriptors are flushed and those started run on (R324). A descriptor in progress on the ENC port
stands for the latter, as with none the program is installed again at once. -/
def Obligations.ExceptionsTaken : Prop :=
  (∀ (t : Tid) (rd ra : BitVec 5) (imm : BitVec 16) (s : State),
      (AtInstr t (.imm .brk rd ra imm) s → HasHandler t s → exec (.brk t rd ra imm) s = .next (entered t 7 0 s))
      ∧ (AtInstr t (.imm .eret rd ra imm) s → (seqOf s t).exl = true → (seqOf s t).epc.toNat < (seqOf s t).codeSize →
        exec (.eret t rd ra imm) s
          = .next (withSeq t (retired ((seqOf s t).epc.setWidth 16) 1 { seqOf s t with exl := false }) s))
      ∧ (AtInstr t (.imm .eret rd ra imm) s → HasHandler t s →
        exec (.eret t rd ra imm) s = .next (entered t 1 ((fetchWord (seqOf s t)).setWidth 64) s)))
  ∧ (∀ (t : Tid) (rd ra : BitVec 5) (imm : BitVec 16) (s : State), AtBoundary t s → (seqOf s t).step = false →
      fFetch (seqOf s t) = none → HasHandler t s →
      exec (.addi t rd ra imm) s = .next (entered t 1 ((fetchWord (seqOf s t)).setWidth 64) s))
  ∧ (∀ (t : Tid) (rd ra : BitVec 5) (imm : BitVec 16) (y : Slot) (s : State), AtBoundary t s → fFetch (seqOf s t) = none →
      ¬HasHandler t s → (tpOf s t).reinstall = false → y ∈ portOpen (portOf (tpOf s t) 2) → y.started = true →
      (∀ z ∈ (portOf (tpOf s t) 2).slots, z.ticket = y.ticket → z.started = true) →
      ∃ u : State, exec (.addi t rd ra imm) s = .next (settleHost u) ∧ (seqOf u t).st = .failed ∧ (seqOf u t).ecause = 1
        ∧ (seqOf u t).eval = (fetchWord (seqOf s t)).setWidth 64 ∧ (seqOf u t).pc = (seqOf s t).pc
        ∧ (seqOf u t).g = (seqOf s t).g ∧ (seqOf u t).d = (seqOf s t).d ∧ (seqOf u t).data = (seqOf s t).data
        ∧ y ∈ portOpen (portOf (tpOf u t) 2) ∧ ∀ n, n < 9 → ∀ z ∈ portOpen (portOf (tpOf u t) n), z.started = true)

/-- EVCLR, MFS, MTS and HALT (R40, R42, R51). EVCLR clears the latched events that ra selects. MFS puts the special register that
imm names into rd: each number of R42 gives what R42 says; SPEED is the magnitude of the velocity with its fraction rounded up or
down, and LPOS is zero-extended (the model's choices, log entries 9, 24 and 36). MTS writes TIMER, EVEC, EPC or LPOSCMP. HALT
leaves the sequencer HALTED with PC at it, or running at its entry where Puppeteer waits to start it again (R40, R254). A halt
request at a boundary or in a wait leaves it HALTED with PC and registers kept (R57), and a barrier that names it is released with
0 (R53). TIMER reaching zero sets event TIMER (R42); the watchdog at its limit takes the handler with cause WATCHDOG, its count in
EVAL and cleared, and both counters of TS_FCNT one on (R56). -/
def Obligations.SpecialRegisters : Prop :=
  (∀ (t : Tid) (rd ra : BitVec 5) (imm : BitVec 16) (s : State),
      (AtInstr t (.imm .evclr rd ra imm) s → exec (.evclr t rd ra imm) s = .next (withSeq t (retired ((seqOf s t).pc + 4) 1
        { seqOf s t with latched := (seqOf s t).latched &&& ~~~(greg s t ra) }) s))
      ∧ (AtInstr t (.imm .mfs rd ra imm) s → ∃ v : W64, exec (.mfs t rd ra imm) s = .next (regResult t rd v 1 s)
        ∧ (imm = 0 → v.toNat = t.val) ∧ (imm = 1 → v = (seqOf s t).cycle) ∧ (imm = 2 → v = (seqOf s t).timer)
        ∧ (imm = 3 → ∀ n, n < 9 → v.getLsbD n = !(portOf (tpOf s t) n).cpl.isEmpty)
        ∧ (imm = 3 → ∀ n, (9 ≤ n ∧ n < 20) ∨ (24 ≤ n ∧ n < 40) → v.getLsbD n = (seqOf s t).latched.getLsbD n)
        ∧ (imm = 3 → ∀ n, (20 ≤ n ∧ n < 24) ∨ 40 ≤ n → v.getLsbD n = false)
        ∧ (imm = 4 → v = (seqOf s t).evec) ∧ (imm = 5 → v = (seqOf s t).epc) ∧ (imm = 6 → v = (seqOf s t).ecause.setWidth 64)
        ∧ (imm = 7 → v = (seqOf s t).eval) ∧ (imm = 8 → v = (tpOf s t).mot.lpos.setWidth 64)
        ∧ (imm = 9 → v = (seqOf s t).lposcmp) ∧ (imm = 10 → v = BitVec.ofNat 64 (tpOf s t).mot.wrap)
        ∧ (imm = 11 → ∃ k, v = BitVec.ofNat 64 k ∧ 16 * k < (tpOf s t).mot.vtape.natAbs + 16 ∧ (tpOf s t).mot.vtape.natAbs < 16 * k + 16)
        ∧ (imm = 12 → v = BitVec.ofNat 64 (s.pwr.grant.get 0 t.val - s.pwr.debit.get 0 t.val))
        ∧ (imm = 13 → v = (tpOf s t).vfy.failmask ||| (tpOf s t).head.missing)
        ∧ (imm = 14 → v = ((seqOf s t).version ++ (seqOf s t).fmtid).setWidth 64)
        ∧ (imm = 15 → v = BitVec.ofNat 64 (tpOf s t).head.kind))
      ∧ (AtInstr t (.imm .mts rd ra imm) s → exec (.mts t rd ra imm) s = .next (withSeq t (retired ((seqOf s t).pc + 4) 1
        (if imm = 2 then { seqOf s t with timer := greg s t ra }
         else if imm = 4 then { seqOf s t with evec := greg s t ra }
         else if imm = 5 then { seqOf s t with epc := greg s t ra }
         else { seqOf s t with lposcmp := greg s t ra })) s)))
  ∧ (∀ (t : Tid) (rd ra : BitVec 5) (imm : BitVec 16) (s : State),
      (AtInstr t (.imm .halt rd ra imm) s → ∃ u, (exec (.halt t rd ra imm) s = .next (settleHost u) ∨ exec (.halt t rd ra imm) s = .next u)
        ∧ (seqOf u t).g = (seqOf s t).g
        ∧ ((seqOf u t).st = .halted ∧ (seqOf u t).pc = (seqOf s t).pc
          ∨ ∃ w, (seqOf s t).startPend = some w ∧ (seqOf u t).st = .running
            ∧ (seqOf u t).pc = (if w then (seqOf s t).entryWrite else (seqOf s t).entryRead).setWidth 16))
      ∧ (AtInstr t (.imm .halt rd ra imm) s → (seqOf s t).startPend = none → ∃ u, exec (.halt t rd ra imm) s = .next (settleHost u)
        ∧ (seqOf u t).st = .halted ∧ (seqOf u t).pc = (seqOf s t).pc ∧ (seqOf u t).g = (seqOf s t).g)
      ∧ ((seqOf s t).haltp = true → ((seqOf s t).st = .running ∨ (seqOf s t).st = .waiting) → (seqOf s t).startPend = none →
        ∃ u, exec (.haltTake t) s = .next (settleHost u)
          ∧ (seqOf u t).st = .halted ∧ (seqOf u t).haltp = false ∧ (seqOf u t).pc = (seqOf s t).pc ∧ (seqOf u t).g = (seqOf s t).g
          ∧ (seqOf u t).wait = .none ∧ (∀ n, portOf (tpOf u t) n = portOf (tpOf s t) n)
          ∧ ∀ (n : Tid) m, n ≠ t → barMask (seqOf s n) = some m → m.getLsbD t.val = true → (seqOf u n).barRes = some 0))
  ∧ (∀ (t : Tid) (s : State),
      ((seqOf s t).timer ≠ 0 → exec (.seqTimerExpiry t) s
        = .next (withSeq t { seqOf s t with timer := 0, latched := (seqOf s t).latched ||| 0x200 } s))
      ∧ ((seqOf s t).st = .running → fld s (Reg.tsWdog t) Fld.tsWdogLimit ≠ 0 →
        fld s (Reg.tsWdog t) Fld.tsWdogLimit * 1024 ≤ (seqOf s t).wdog → (seqOf s t).step = false → HasHandler t s →
        exec (.watchdogExpiry t) s = .next (withSeq t { seqOf s t with
            wdog := 0, epc := (seqOf s t).pc.setWidth 64, ecause := 6, eval := BitVec.ofNat 64 (seqOf s t).wdog, exl := true
            pc := (seqOf s t).evec.setWidth 16 }
          (bumpFld (Reg.tsFcnt t) Fld.tsFcntWdcnt (bumpFld (Reg.tsFcnt t) Fld.tsFcntExccnt s)))))

/-- POST sets event 32 + t in every sequencer that ra names (R40, R51), in one cycle. BAR (R53): a mask without the sequencer's
own bit, or above 255, is ILLEGAL (the model's choice, log entry 36). Else the sequencer waits, released with 2 where a named one
waits with another mask; else with 0 where one named is neither RUNNING nor WAITING; else with 1 where every named one waits with
the same mask; else not yet. -/
def Obligations.SequencersSignal : Prop :=
  (∀ (t : Tid) (rd ra : BitVec 5) (imm : BitVec 16) (s : State), AtInstr t (.imm .post rd ra imm) s →
      ∃ u, exec (.post t rd ra imm) s = .next u
        ∧ (∀ n : Tid, (seqOf u n).latched = if (greg s t ra).getLsbD n.val
            then (seqOf s n).latched ||| BitVec.ofNat 64 (2 ^ (32 + t.val)) else (seqOf s n).latched)
        ∧ (seqOf u t).pc = (seqOf s t).pc + 4 ∧ (seqOf u t).g = (seqOf s t).g
        ∧ (∀ n : Tid, n ≠ t → (seqOf u n).pc = (seqOf s n).pc ∧ (seqOf u n).st = (seqOf s n).st)
        ∧ u.regs = s.regs ∧ u.hostMem = s.hostMem)
  ∧ (∀ (t : Tid) (rd ra : BitVec 5) (imm : BitVec 16) (s : State), AtInstr t (.imm .bar rd ra imm) s →
      ((greg s t ra).getLsbD t.val = false ∨ 256 ≤ (greg s t ra).toNat → HasHandler t s →
        exec (.bar t rd ra imm) s = .next (entered t 1 ((fetchWord (seqOf s t)).setWidth 64) s))
      ∧ ((greg s t ra).getLsbD t.val = true → (greg s t ra).toNat < 256 →
        ∃ u, exec (.bar t rd ra imm) s = .next u ∧ (seqOf u t).st = .waiting ∧ (seqOf u t).pc = (seqOf s t).pc
          ∧ (seqOf u t).wait = .bar rd ((greg s t ra).setWidth 8)
          ∧ ((∃ n : Tid, n ≠ t ∧ (greg s t ra).getLsbD n.val = true ∧ ∃ k, barMask (seqOf s n) = some k ∧ k ≠ (greg s t ra).setWidth 8) →
              (seqOf u t).barRes = some 2)
          ∧ ((∀ n : Tid, n ≠ t → (greg s t ra).getLsbD n.val = true → ∀ k, barMask (seqOf s n) = some k → k = (greg s t ra).setWidth 8) →
              ((∃ n : Tid, (greg s t ra).getLsbD n.val = true ∧ (seqOf s n).st ≠ .running ∧ (seqOf s n).st ≠ .waiting) →
                (seqOf u t).barRes = some 0)
              ∧ ((∀ n : Tid, (greg s t ra).getLsbD n.val = true → (seqOf s n).st = .running ∨ (seqOf s n).st = .waiting) →
                (∃ n : Tid, n ≠ t ∧ (greg s t ra).getLsbD n.val = true ∧ barMask (seqOf s n) = none) → (seqOf u t).barRes = none))
          ∧ ((∀ n : Tid, (greg s t ra).getLsbD n.val = true → n ≠ t → barMask (seqOf s n) = some ((greg s t ra).setWidth 8)) →
              ∀ n : Tid, (greg s t ra).getLsbD n.val = true → (seqOf u n).barRes = some 1)))

/-- ISSUE (R44): a copy of the descriptor with the port's next ticket in it goes to the end of the port's queue and the ticket to
RT; with no free slot, NB writes all ones and goes on, and without NB the sequencer waits; a wrong PORT field raises DESC_PORT
and issues nothing. POP (R45): the oldest completion leaves the port for RT; with none, NB writes all ones and without NB the
sequencer waits. -/
def Obligations.StageQueues : Prop :=
  (∀ (t : Tid) (port : BitVec 4) (dr : BitVec 3) (rt : BitVec 5) (nb : Bool) (z : BitVec 13) (s : State),
      AtInstr t (.stage .issue port dr rt nb z) s →
      let d := dreg s t dr.toNat
      let p := portOf (tpOf s t) port.toNat
      (descPort d = port.toNat → portUsed p < portDepth port.toNat →
        ∃ (u : State) (y : Slot), exec (.issue t port dr rt nb z) s = .next u
          ∧ portOf (tpOf u t) port.toNat = { p with nextTicket := p.nextTicket + 1, slots := p.slots ++ [y] }
          ∧ y.ticket = p.nextTicket ∧ y.started = false ∧ y.fin = none
          ∧ (∀ k, k < 256 → y.desc.getLsbD k = if 16 ≤ k ∧ k < 32 then p.nextTicket.getLsbD (k - 16) else d.getLsbD k)
          ∧ seqOf u t = retired ((seqOf s t).pc + 4) 1 (putG rt (p.nextTicket.setWidth 64) (seqOf s t))
          ∧ u = { s with tp := s.tp.set t (tpOf u t) }
          ∧ ∀ n, n < 9 → n ≠ port.toNat → portOf (tpOf u t) n = portOf (tpOf s t) n)
      ∧ (descPort d = port.toNat → portDepth port.toNat ≤ portUsed p → nb = true →
        exec (.issue t port dr rt nb z) s = .next (regResult t rt (BitVec.allOnes 64) 1 s))
      ∧ (descPort d = port.toNat → portDepth port.toNat ≤ portUsed p → nb = false →
        exec (.issue t port dr rt nb z) s
          = .next (withSeq t { seqOf s t with st := .waiting, wait := .issue rt port.toNat dr.toNat, barRes := none } s))
      ∧ (descPort d ≠ port.toNat → HasHandler t s →
        exec (.issue t port dr rt nb z) s = .next (entered t 5 (BitVec.ofNat 64 (descPort d + 256 * port.toNat)) s)))
  ∧ (∀ (t : Tid) (port : BitVec 4) (dr : BitVec 3) (rt : BitVec 5) (nb : Bool) (z : BitVec 13) (s : State),
      AtInstr t (.stage .pop port dr rt nb z) s →
      let p := portOf (tpOf s t) port.toNat
      (∀ c r, p.cpl = c :: r → ∃ u, exec (.pop t port dr rt nb z) s = .next u
          ∧ portOf (tpOf u t) port.toNat = { p with cpl := r }
          ∧ seqOf u t = retired ((seqOf s t).pc + 4) 1 (putG rt c (seqOf s t))
          ∧ u = { s with tp := s.tp.set t (tpOf u t) }
          ∧ ∀ n, n < 9 → n ≠ port.toNat → portOf (tpOf u t) n = portOf (tpOf s t) n)
      ∧ (p.cpl = [] → nb = true → exec (.pop t port dr rt nb z) s = .next (regResult t rt (BitVec.allOnes 64) 1 s))
      ∧ (p.cpl = [] → nb = false → exec (.pop t port dr rt nb z) s
          = .next (withSeq t { seqOf s t with st := .waiting, wait := .pop rt port.toNat, barRes := none } s)))

/-- WAIT (R52): with a selected event pending it completes at once with those events; with none it waits; one that selects no
defined event and has no timeout raises ILLEGAL. The sequencer, woken from a wait: v in rd, running behind the instruction, the
watchdog's count cleared (R52, R56). -/
def Obligations.WaitResult : Prop :=
  (∀ (t : Tid) (rd ra : BitVec 5) (imm : BitVec 16) (s : State), AtInstr t (.imm .wait rd ra imm) s →
      (evp (tpOf s t) &&& greg s t ra ≠ 0 →
        exec (.wait t rd ra imm) s = .next (withSeq t { putG rd (evp (tpOf s t) &&& greg s t ra) (seqOf s t) with
          pc := (seqOf s t).pc + 4, cycle := (seqOf s t).cycle + 1, wait := .none, barRes := none, wdog := 0 } s))
      ∧ (evp (tpOf s t) &&& greg s t ra = 0 → (greg s t ra &&& 0x000000FFFF0FFFFF ≠ 0 ∨ imm ≠ 0) →
        exec (.wait t rd ra imm) s = .next (withSeq t { seqOf s t with st := .waiting, wait := .wait rd (greg s t ra) imm, barRes := none } s))
      ∧ (greg s t ra &&& 0x000000FFFF0FFFFF = 0 → imm = 0 → HasHandler t s →
        exec (.wait t rd ra imm) s = .next (entered t 1 ((fetchWord (seqOf s t)).setWidth 64) s)))
  ∧ (∀ (t : Tid) (s : State), (seqOf s t).st = .waiting → (seqOf s t).step = false →
      let woken := fun (rd : BitVec 5) (v : W64) =>
        { putG rd v (seqOf s t) with pc := (seqOf s t).pc + 4, st := .running, wait := .none, barRes := none, wdog := 0 }
      (∀ rt port dr, (seqOf s t).wait = .issue rt port dr → portUsed (portOf (tpOf s t) port) < portDepth port →
        ∃ u, exec (.issueSlotFreed t) s = .next u
          ∧ (portOf (tpOf u t) port).slots.length = (portOf (tpOf s t) port).slots.length + 1
          ∧ seqOf u t = woken rt ((portOf (tpOf s t) port).nextTicket.setWidth 64))
      ∧ (∀ rt port c r, (seqOf s t).wait = .pop rt port → (portOf (tpOf s t) port).cpl = c :: r →
        ∃ u, exec (.popCompletionArrival t) s = .next u
          ∧ portOf (tpOf u t) port = { portOf (tpOf s t) port with cpl := r } ∧ seqOf u t = woken rt c)
      ∧ (∀ rd m us, (seqOf s t).wait = .wait rd m us → evp (tpOf s t) &&& m ≠ 0 →
        exec (.waitEventRelease t) s = .next (withSeq t (woken rd (evp (tpOf s t) &&& m)) s))
      ∧ (∀ rd m us, (seqOf s t).wait = .wait rd m us → us ≠ 0 →
        exec (.waitTimeout t) s = .next (withSeq t (woken rd (evp (tpOf s t) &&& m)) s))
      ∧ (∀ rd m r, (seqOf s t).wait = .bar rd m → (seqOf s t).barRes = some r →
        exec (.barRelease t) s = .next (withSeq t (woken rd (r.setWidth 64)) s)))

/-- The actions of TS_CTRL (R57), by Puppeteer or by the host while DBG_EN is 1 and the device is not held in its boot ROM; an access
of the host first ends a low-power state (R280), and s' is the state after that. RUN starts a LOADED sequencer at the selected
entry, with every event, TIMER and LPOSCMP kept, and goes on from HALTED. RESTART, from HALTED with nothing queued, starts it with
EXL, TIMER, LPOSCMP and the latched events cleared; otherwise it is ignored and logged. HALT_REQ asks a running or waiting
sequencer to halt. That a start also counts CYCLE from 0 and ends a wait is the model's choice (log entry 36). TS_EVPOST sets the
events PP0-PP7 named (R51), LOCK sets the lock and no other bit of the register (R10). STEP runs the one instruction at PC, shown
for those that act inside the sequencer, and halts, where no start of Puppeteer waits for that. FLUSHQ leaves no unstarted
descriptor (R324). RUN, HALT_REQ, RESTART, LOCK, TS_EVPOST, MC_TCTL's tension and clear, VFY_LANECMD, TBX_CTRL.LOCK, CC_CTRL.EN and
FLT_BCAST, written by the host while DBG_EN of the register's transport is 0, change nothing: the access is logged (R20), in a list
of its own (the model's choice, log entry 35). -/
def Obligations.SequencerControl : Prop :=
  (∀ (src : Src) (t : Tid) (s : State), srcMay src [t.val] s = true → romHeld src s = false →
      let s' := hostWakes src s
      let q := seqOf s' t
      let entry := if fld s' (Reg.tsCtrl t) Fld.tsCtrlEntry = 0 then q.entryWrite else q.entryRead
      (q.st = .loaded → exec (.tsRun src t) s = .next (withSeq t { q with
          st := .running, pc := entry.setWidth 16, cycle := 0
          wrote := decide (fld s' (Reg.tsCtrl t) Fld.tsCtrlEntry = 0), haltp := false, step := false, wait := .none, barRes := none } s'))
      ∧ (q.st = .halted → exec (.tsRun src t) s = .next (withSeq t { q with st := .running, wait := .none } s'))
      ∧ (q.st ≠ .loaded → q.st ≠ .halted → exec (.tsRun src t) s = .next s')
      ∧ (q.st = .running ∨ q.st = .waiting → exec (.tsHaltReq src t) s = .next (withSeq t { q with haltp := true } s'))
      ∧ (q.st = .halted → (∀ n, n < 9 → portOpen (portOf (tpOf s' t) n) = [] ∧ (portOf (tpOf s' t) n).cpl = []) →
        exec (.tsRestart src t) s = .next (withSeq t { q with
          st := .running, pc := entry.setWidth 16, exl := false, timer := 0, lposcmp := 0, latched := 0, cycle := 0
          wrote := decide (fld s' (Reg.tsCtrl t) Fld.tsCtrlEntry = 0), haltp := false, step := false, wait := .none, barRes := none } s'))
      ∧ (q.st ≠ .halted → exec (.tsRestart src t) s = .next (logFault (unitId 10 t.val) 6 6 0 0 s')))
  ∧ (∀ (src : Src) (t : Tid) (s : State), srcMay src [t.val] s = true → romHeld src s = false →
      let s' := hostWakes src s
      (∀ pp : BitVec 8, ∃ u, exec (.tsEvpost src t pp) s = .next u
        ∧ (∀ k, (seqOf u t).latched.getLsbD k
            = ((seqOf s' t).latched.getLsbD k || (decide (24 ≤ k ∧ k < 32) && pp.getLsbD (k - 24))))
        ∧ u = withSeq t { seqOf s' t with latched := (seqOf u t).latched } s')
      ∧ (∃ u, exec (.tsLock src t) s = .next u ∧ reg u (Reg.tsCtrl t) = reg s' (Reg.tsCtrl t) ||| 0x80000000
        ∧ ∀ off, off ≠ Reg.tsCtrl t → reg u off = reg s' off)
      ∧ (∀ (rd ra : BitVec 5) (imm : BitVec 16), (seqOf s' t).st = .halted → dbgEn s' t = true → wdogDue s' t = false →
          fFetch (seqOf s' t) = some (.imm .addi rd ra imm) → (seqOf s' t).startPend = none →
          ∃ u, exec (.tsStep src t) s = .next (settleHost u) ∧ (seqOf u t).st = .halted
            ∧ (seqOf u t).pc = (seqOf s' t).pc + 4 ∧ (seqOf u t).g = (putG rd (greg s' t ra + imm.signExtend 64) (seqOf s' t)).g)
      ∧ (∀ (i : FInstr) (r : Seq) (n : Nat), (seqOf s' t).st = .halted → dbgEn s' t = true → wdogDue s' t = false →
          fFetch (seqOf s' t) = some i → (seqOf s' t).startPend = none →
          fLocal i { seqOf s' t with st := .running, step := true, wait := .none } = some (.ok r n) →
          ∃ u, exec (.tsStep src t) s = .next (settleHost u) ∧ (seqOf u t).st = .halted ∧ (seqOf u t).pc = r.pc
            ∧ (seqOf u t).g = r.g ∧ (seqOf u t).d = r.d ∧ (seqOf u t).data = r.data)
      ∧ ((seqOf s' t).st = .halted ∨ (seqOf s' t).st = .failed → ∃ u, exec (.tsFlushq src t) s = .next (settleHost u)
            ∧ ∀ n, n < 9 → ∀ y ∈ portOpen (portOf (tpOf u t) n), y.started = true))
  ∧ (∀ (ep : Fin 4) (t : Tid) (k : Fin 64) (b : Bool) (n : BitVec 8) (s : State), romHeld (.host ep) s = false →
      let s' := hostWakes (.host ep) s
      (fld s (Reg.tsCtrl t) Fld.tsCtrlDbgEn = 0 →
        exec (.tsRun (.host ep) t) s = .next (logAccess (Reg.tsCtrl t) s')
        ∧ exec (.tsHaltReq (.host ep) t) s = .next (logAccess (Reg.tsCtrl t) s')
        ∧ exec (.tsRestart (.host ep) t) s = .next (logAccess (Reg.tsCtrl t) s')
        ∧ exec (.tsLock (.host ep) t) s = .next (logAccess (Reg.tsCtrl t) s')
        ∧ exec (.tsEvpost (.host ep) t n) s = .next (logAccess (Reg.tsEvpost t) s')
        ∧ exec (.mcTensionOn (.host ep) t) s = .next (settleHost (logAccess (Reg.mcTctl t) s'))
        ∧ exec (.mcClear (.host ep) t) s = .next (settleHost (logAccess (Reg.mcTctl t) s'))
        ∧ exec (.vfyLanecmdRetire (.host ep) t k) s = .next (settleHost (logAccess (Reg.vfyLanecmd t) s')))
      ∧ (fld s (Reg.tsCtrl 0) Fld.tsCtrlDbgEn = 0 →
        exec (.tbxLock (.host ep)) s = .next (logAccess Reg.tbxCtrl s')
        ∧ exec (.ccEnable (.host ep) b) s = .next (logAccess Reg.ccCtrl s')
        ∧ exec (.fltBcastHalt (.host ep) n) s = .next (logAccess Reg.fltBcast s')))

/-! ### Rhoval-L (02) and the loops (08) -/

/-- The v-register instructions of Rhoval-L (R59): the exact value is saturated to 32 bits, a saturation or clamp sets SATF, v0
reads zero and ignores writes, and nothing else changes. MAC, MSU, MACZ and LDACC (R59): the product with the coefficient's
value, formed exactly, is shifted right arithmetically by its shift; the accumulator saturates at 72 bits. -/
def Obligations.LoopArithmetic : Prop :=
  (∀ (rd ra rb : BitVec 5) (func : BitVec 11) (imm : BitVec 16) (e : LEval) (s : State),
      let a := vreg s ra
      let b := vreg s rb
      (AtLoop (.reg rd ra rb func) e s → ∃ x : Int, exec (.lAlu rd ra rb func) s = .next (vResult rd x false e s)
        ∧ (func = 0 → x = a + b) ∧ (func = 1 → x = a - b)
        ∧ (func = 2 → BitVec.ofInt 32 x = BitVec.ofInt 32 a &&& BitVec.ofInt 32 b)
        ∧ (func = 3 → BitVec.ofInt 32 x = BitVec.ofInt 32 a ||| BitVec.ofInt 32 b)
        ∧ (func = 4 → BitVec.ofInt 32 x = BitVec.ofInt 32 a ^^^ BitVec.ofInt 32 b)
        ∧ (func = 5 → x = min a b) ∧ (func = 6 → x = max a b) ∧ (func = 7 → x = |a|)
        ∧ (func = 8 → x = a * 2 ^ (b % 32).toNat) ∧ (func = 9 → x = a / 2 ^ (b % 32).toNat))
      ∧ (AtLoop (.imm .addis rd ra imm) e s → exec (.addis rd ra imm) s = .next (vResult rd (a + imm.toInt) false e s))
      ∧ (AtLoop (.imm .ldi rd ra imm) e s → exec (.ldi rd ra imm) s = .next (vResult rd imm.toInt false e s))
      ∧ (AtLoop (.imm .ldhi rd ra imm) e s → exec (.ldhi rd ra imm) s = .next (vResult rd (imm.toInt * 65536 + a % 65536) false e s))
      ∧ (AtLoop (.imm .lds rd ra imm) e s →
        exec (.lds rd ra imm) s = .next (vResult rd ((getLoop s e.l).words.get 0 (imm.toNat % 64)).toInt false e s))
      ∧ (AtLoop (.imm .lin rd ra imm) e s →
        exec (.lIn rd ra imm) s = .next (vResult rd ((getLoop s e.l).ins.get 0 (imm.toNat % 16)).toInt false e s))
      ∧ (AtLoop (.imm .rdacc rd ra imm) e s →
        exec (.rdacc rd ra imm) s = .next (vResult rd (accumulator s (imm.getLsbD 5) / 2 ^ (imm.toNat % 32)) false e s))
      ∧ (AtLoop (.imm .clamp rd ra imm) e s →
        (coefficient s e.l (imm.toNat % 64)).1 ≤ (coefficient s e.l (imm.toNat % 64 + 1)).1 →
        ∃ x : Int, x = limited (coefficient s e.l (imm.toNat % 64)).1 (coefficient s e.l (imm.toNat % 64 + 1)).1 a
          ∧ exec (.clamp rd ra imm) s = .next (vResult rd x (decide (x ≠ a)) e s)))
  ∧ (∀ (acc : Bool) (va : BitVec 5) (ci : BitVec 6) (z : BitVec 14) (rd ra : BitVec 5) (imm : BitVec 16) (e : LEval) (s : State),
      let p := vreg s va * (coefficient s e.l ci.toNat).1 / 2 ^ (coefficient s e.l ci.toNat).2
      (AtLoop (.mul .mac acc va ci z) e s → exec (.mac acc va ci z) s = .next (accResult acc (accumulator s acc + p) e s))
      ∧ (AtLoop (.mul .msu acc va ci z) e s → exec (.msu acc va ci z) s = .next (accResult acc (accumulator s acc - p) e s))
      ∧ (AtLoop (.mul .macz acc va ci z) e s → exec (.macz acc va ci z) s = .next (accResult acc p e s))
      ∧ (AtLoop (.imm .ldacc rd ra imm) e s →
        exec (.ldacc rd ra imm) s = .next (accResult (imm.getLsbD 5) (vreg s ra * 2 ^ (imm.toNat % 32)) e s)))

/-- STS to a state word other than the integrator, OUT and the repetitive controller's RCL (R59, R213, R221): OUT is staged until
END, and a channel above 7 is discarded. STS to state word 0 (R220): the integrator is limited to C60 and C61 of the active
bank, and while it is held on the side of the hold it stays at the hold's value; the clamp sets SATF. RCU writes its bin, and no
other bin of the reel changes (R221); where that leaves a bin at saturation for a full revolution, the reel's bins are cleared
(R324). The branches of Rhoval-L (R59): PC + 4 x imm where taken, else the
next instruction; nothing else changes. -/
def Obligations.LoopMemory : Prop :=
  (∀ (rd ra : BitVec 5) (imm : BitVec 16) (e : LEval) (s : State),
      (AtLoop (.imm .sts rd ra imm) e s → imm.toNat % 64 ≠ 0 → ∃ u, exec (.sts rd ra imm) s = .next u
        ∧ u = { withLoop e.l (fun p => { p with words := p.words.set 0 (imm.toNat % 64) (BitVec.ofInt 32 (vreg s ra)) }) s with
            mrn := { s.mrn with busy := s.mrn.busy + 1, ev := some (lNext 1 false e) } })
      ∧ (AtLoop (.imm .lout rd ra imm) e s → imm.toNat % 16 < 8 → ∃ ws : List Nat, exec (.lOut rd ra imm) s
          = .next { s with mrn := { s.mrn with busy := s.mrn.busy + 1, ev := some { lNext 1 false e with
              staged := e.staged.set 0 (imm.toNat % 16) (BitVec.ofInt 32 (vreg s ra)), written := ws } } }
          ∧ ∀ c, c ∈ ws ↔ c ∈ e.written ∨ c = imm.toNat % 16)
      ∧ (AtLoop (.imm .lout rd ra imm) e s → 8 ≤ imm.toNat % 16 → exec (.lOut rd ra imm) s
          = .next { s with mrn := { s.mrn with busy := s.mrn.busy + 1, ev := some (lNext 1 false e) } })
      ∧ (AtLoop (.imm .rcl rd ra imm) e s → ∃ b : Nat, b < 1024
          ∧ (b : Int) = ((angleBin s (loopT e.l) (e.l % 4) : Int) + imm.toInt) % 1024
          ∧ exec (.rcl rd ra imm) s = .next (vResult rd (binGet (tpOf s (loopT e.l)).mot (e.l % 4) b).toInt false e s)))
  ∧ (∀ (rd ra : BitVec 5) (imm : BitVec 16) (e : LEval) (s : State),
      (AtLoop (.imm .sts rd ra imm) e s → imm.toNat % 64 = 0 → e.l < 32 →
        (coefficient s e.l 60).1 ≤ (coefficient s e.l 61).1 → ∃ u, exec (.sts rd ra imm) s = .next u
          ∧ (let p := getLoop s e.l
             let c := limited (coefficient s e.l 60).1 (coefficient s e.l 61).1 (vreg s ra)
             let inside := if p.awdir then c < p.lh.toInt else p.lh.toInt < c
             (p.awh = false ∨ inside → ((getLoop u e.l).words.get 0 0).toInt = c ∧ (getLoop u e.l).awh = false)
              ∧ (p.awh = true → ¬inside → (getLoop u e.l).words.get 0 0 = p.lh ∧ (getLoop u e.l).awh = true)
              ∧ u.mrn.ev = some (lNext 1 (decide (c ≠ vreg s ra)) e)))
      ∧ (AtLoop (.imm .rcu rd ra imm) e s →
          let t := loopT e.l
          let a := e.l % 4 = 0
          let m := (tpOf s t).mot
          let cpr := fld s (Reg.mcEnc t) (if a then Fld.mcEncCpra else Fld.mcEncCprb)
          ∃ (u : State) (b : Nat), b < 1024
          ∧ (b : Int) = ((angleBin s t (e.l % 4) : Int) + imm.toInt) % 1024
          ∧ exec (.rcu rd ra imm) s = .next u
          ∧ (let since := if a then m.satA.get 0 b else m.satB.get 0 b
             let held := (vreg s ra = 2 ^ 31 - 1 ∨ vreg s ra = -(2 ^ 31)) ∧ since ≠ 0 ∧ cpr ≠ 0
               ∧ cpr ≤ (if a then m.turnsA else m.turnsB) + 1 - since
             (¬held → (∀ j, binGet (tpOf u t).mot (e.l % 4) j = if j = b then BitVec.ofInt 32 (vreg s ra) else binGet m (e.l % 4) j)
                ∧ u.mrn = { s.mrn with busy := s.mrn.busy + 1, ev := some (lNext 1 false e) })
              ∧ (held → ∀ j, binGet (tpOf u t).mot (e.l % 4) j = 0))))
  ∧ (∀ (ra rb : BitVec 5) (imm : BitVec 16) (e : LEval) (s : State) (c : Instr) (op : LBr) (taken : Prop),
      ((c = .lBeq ra rb imm ∧ op = .beq ∧ taken = (vreg s ra = vreg s rb))
        ∨ (c = .lBne ra rb imm ∧ op = .bne ∧ taken = (vreg s ra ≠ vreg s rb))
        ∨ (c = .lBlt ra rb imm ∧ op = .blt ∧ taken = (vreg s ra < vreg s rb))
        ∨ (c = .lBge ra rb imm ∧ op = .bge ∧ taken = (vreg s rb ≤ vreg s ra))
        ∨ (c = .bsat ra rb imm ∧ op = .bsat ∧ taken = (e.satf = true))
        ∨ (c = .bnsat ra rb imm ∧ op = .bnsat ∧ taken = (e.satf = false))) →
      AtLoop (.branch op ra rb imm) e s →
      (taken → exec c s = .next { s with mrn := { s.mrn with busy := s.mrn.busy + 1, ev := some (lNext imm.toInt false e) } })
      ∧ (¬taken → exec c s = .next { s with mrn := { s.mrn with busy := s.mrn.busy + 1, ev := some (lNext 1 false e) } }))

/-- END (R59, R213) ends the evaluation, and the committed command lies between C62 and C63 of the bank that was active; in AUTO it
is output channel 0, limited to them, where nothing is injected. LOOP_EVALUATION (R207), standing at END, does the same; it goes on
where the instructions of the evaluation stand: an instruction that does not end the evaluation does not change where it ends. -/
def Obligations.LoopEvaluation : Prop :=
  (∀ (c : Instr) (rd ra : BitVec 5) (imm : BitVec 16) (e : LEval) (s : State), AtLoop (.imm .lend rd ra imm) e s → e.l < 32 →
      c = .lEnd rd ra imm ∨ c = .loopEvaluation →
      (coefficient s e.l 62).1 ≤ (coefficient s e.l 63).1 →
      ∃ u, exec c s = .next (settleHost u) ∧ u.mrn.ev = none
        ∧ (coefficient s e.l 62).1 ≤ (getLoop u e.l).cmdv.toInt ∧ (getLoop u e.l).cmdv.toInt ≤ (coefficient s e.l 63).1
        ∧ ((getLoop s e.l).mode = .auto → 0 ∈ e.written → s.mrn.inj.active = false →
            (getLoop u e.l).cmdv.toInt = limited (coefficient s e.l 62).1 (coefficient s e.l 63).1 (e.staged.get 0 0).toInt)
        ∧ (getLoop u e.l).consec = 0 ∧ (getLoop u e.l).satf = e.satf)
  ∧ (∀ (rd ra rb : BitVec 5) (func : BitVec 11) (imm : BitVec 16) (e : LEval) (s u : State),
      (AtLoop (.reg rd ra rb func) e s → exec (.lAlu rd ra rb func) s = .next u → exec .loopEvaluation s = exec .loopEvaluation u)
      ∧ (AtLoop (.imm .lds rd ra imm) e s → exec (.lds rd ra imm) s = .next u → exec .loopEvaluation s = exec .loopEvaluation u)
      ∧ (AtLoop (.imm .lout rd ra imm) e s → exec (.lOut rd ra imm) s = .next u → exec .loopEvaluation s = exec .loopEvaluation u))

/-! ### Stage ports and stages (02-04, 06) -/

/-- The end of a descriptor (R44, R45). On an in-order port the oldest descriptor's end posts its completion and frees its slot, and
an earlier one that is not finished keeps back the completion of a later one; on COMP and TBX a completion is posted at once; a
QUIET descriptor that ended OK posts none. A descriptor whose operation its port does not define ends REJECTED (R46), whichever
row of the port's stage looks at it. -/
def Obligations.DescriptorsEnd : Prop :=
  (∀ (n : Nat) (st : BitVec 8) (val : W32) (y : Slot) (l r : List Slot) (p : Port),
      p.slots = l ++ y :: r → (∀ z ∈ l ++ r, z.ticket ≠ y.ticket ∧ z.fin = none) → y.fin = none →
      let p' := portFinish n y.ticket st val p
      (n ≠ 0 → n ≠ 7 → l = [] → (descQuiet y.desc = false ∨ st ≠ 0) →
        p'.slots = r ∧ p'.cpl = p.cpl ++ [completion y.ticket st val])
      ∧ (n ≠ 0 → n ≠ 7 → l ≠ [] → (descQuiet y.desc = false ∨ st ≠ 0) → p'.cpl = p.cpl ∧ p'.slots.length = p.slots.length)
      ∧ (n = 0 ∨ n = 7 → (descQuiet y.desc = false ∨ st ≠ 0) →
        p'.slots = l ++ r ∧ p'.cpl = p.cpl ++ [completion y.ticket st val])
      ∧ (descQuiet y.desc = true → st = 0 → p'.slots = l ++ r ∧ p'.cpl = p.cpl)
      ∧ p'.nextTicket = p.nextTicket)
  ∧ (∀ (t : Tid) (op : Nat) (y : Slot) (s : State),
      (HeadIs t 1 op y s → (op = 0 ∨ 3 < op) → exec (.asmOpen t) s = .next (settleHost (finish t 1 y.ticket 0x01 0 s))
        ∧ exec (.asmClose t) s = .next (settleHost (finish t 1 y.ticket 0x01 0 s)))
      ∧ (HeadIs t 5 op y s → op ≠ 1 → exec (.rwqPolicy t) s = .next (finish t 5 y.ticket 0x01 0 s))
      ∧ (HeadIs t 6 op y s → (op = 0 ∨ 3 < op) → exec (.idxFind t) s = .next (finish t 6 y.ticket 0x01 0 s)))

/-- ASM.OPEN and ASM.CLOSE (R47, R49, R71): OPEN gives the assembler an empty dataset with the descriptor's fields and stays open;
CLOSE closes the open dataset with reason 3 and ends OK, and ends NOT_OPEN without one; an idle dataset with a segment closes
with reason 2. A work item that fits the open dataset of KIND 0 and leaves room is placed whole, and the dataset stays open
unless the item carries the flush or full flag, which then closes it with reason 1 or 0; one that does not fit closes it with
reason 0; an item without bytes closes it by the flag it carries (R71, R68). ASM.DISASM (R47, R90): a corrected dataset with a
good header delivers the records that begin in it, and VALUE counts them; one without a good header ends REJECTED, and one read
back poisoned POISONED. -/
def Obligations.AssemblerWork : Prop :=
  (∀ (t : Tid) (y : Slot) (o : OpenDs) (s : State),
      (HeadIs t 1 1 y s → openValid s t y.desc = true → (tpOf s t).asm.opn = none →
        ∃ (u : State) (n : OpenDs), exec (.asmOpen t) s = .next (settleHost u) ∧ (tpOf u t).asm.opn = some n
          ∧ n.ticket = y.ticket ∧ n.token = y.desc.extractLsb' 64 32 ∧ n.dsnum = y.desc.extractLsb' 128 32
          ∧ n.c3pos = y.desc.extractLsb' 224 4 ∧ n.kind = y.desc.extractLsb' 228 4 ∧ n.idle = y.desc.extractLsb' 32 32
          ∧ n.used = 0 ∧ n.segs = [])
      ∧ (HeadIs t 1 1 y s → openValid s t y.desc = false → (tpOf s t).asm.opn = none →
        exec (.asmOpen t) s = .next (settleHost (finish t 1 y.ticket 0x01 0 s)))
      ∧ (∀ k : Nat, (tpOf (closeDataset t k s) t).asm.opn = none)
      ∧ (HeadIs t 1 2 y s → descFits y.desc 0 0 0 0 = true →
        ((tpOf s t).asm.opn = none → exec (.asmClose t) s = .next (settleHost (finish t 1 y.ticket 0x0A 0 s)))
        ∧ ((tpOf s t).asm.opn = some o → exec (.asmClose t) s = .next (settleHost (finish t 1 y.ticket 0x00 0 (closeDataset t 3 s)))))
      ∧ ((tpOf s t).asm.opn = some o → o.idle ≠ 0 → o.segs ≠ [] →
        exec (.asmIdleTimeout t) s = .next (settleHost (closeDataset t 2 s))))
  ∧ (∀ (t : Tid) (o : OpenDs) (i : Item) (l : List Item) (s : State),
      (tpOf s t).asm.opn = some o → o.kind = 0 → (tpOf s t).asm.items = i :: l →
      (i.data = [] → i.full = false → i.flush = true → ∃ u, exec (.workItemAccept t) s = .next (settleHost (closeDataset t 1 u))
        ∧ (tpOf u t).asm.items = l ∧ (tpOf u t).asm.opn = some o)
      ∧ (i.data = [] → i.full = true → ∃ u, exec (.workItemAccept t) s = .next (settleHost (closeDataset t 0 u))
        ∧ (tpOf u t).asm.items = l ∧ (tpOf u t).asm.opn = some o)
      ∧ (i.data ≠ [] → itemFits o i = i.data.length → i.full = false → i.flush = false →
          (itemSeg o i).off + 16 + (itemSeg o i).len + i.data.length + 80 ≤ 7340032 →
          ∃ u, exec (.workItemAccept t) s = .next (settleHost (placeItem t o i s)) ∧ u = placeItem t o i s
            ∧ (tpOf u t).asm.items = l ∧ (tpOf u t).asm.opn = some (placedDs o i))
      ∧ (i.data ≠ [] → itemFits o i = i.data.length → i.full = true →
          exec (.workItemAccept t) s = .next (settleHost (closeDataset t 0 (placeItem t o i s))))
      ∧ (i.data ≠ [] → itemFits o i = i.data.length → i.full = false → i.flush = true →
          (itemSeg o i).off + 16 + (itemSeg o i).len + i.data.length + 80 ≤ 7340032 →
          exec (.workItemAccept t) s = .next (settleHost (closeDataset t 1 (placeItem t o i s))))
      ∧ (i.data ≠ [] → itemFits o i < i.data.length →
          ∃ u, u = placeItem t o i s ∧ exec (.workItemAccept t) s = .next (settleHost (closeDataset t 0 u))
            ∧ (tpOf u t).asm.items = { i with data := i.data.drop (itemFits o i), first := false } :: l))
  ∧ (∀ (t : Tid) (y : Slot) (s : State), HeadIs t 1 3 y s → descFits y.desc 0 0xFFFFFFFF 0 0 = true →
      dsToken s t (y.desc.extractLsb' 64 32) = true →
      let tok : W32 := y.desc.extractLsb' 64 32
      let r := demandRead (tokAddr s tok) 7340032 s
      let l := (segsOf r.2 tok).filter (fun g => g.typ == 1 && g.first)
      let n : W32 := BitVec.ofNat 32 (leAt ((headerOf r.2 t tok).getD []) 8 4)
      (r.1 = true → exec (.asmDisasm t) s = .next (settleHost (finish t 1 y.ticket 0x04 0 r.2)))
      ∧ (r.1 = false → headerGood r.2 t tok = false → exec (.asmDisasm t) s = .next (settleHost (finish t 1 y.ticket 0x01 0 r.2)))
      ∧ (r.1 = false → headerGood r.2 t tok = true → exec (.asmDisasm t) s = .next (settleHost (finish t 1 y.ticket 0x00
          (BitVec.ofNat 32 l.length) (modAsm t (fun a =>
            { a with disarm := a.disarm ++ l.map (fun g => (g.scid, g.seq, n)) }) r.2)))))

/-- ENC (R48-R50). ENCODE of a valid dataset writes WRAP, NLIVE, LIVEMASK and HCRC of its header, then the C2 parity, folds it
into its accumulator where it asks for that, and ends OK; one that is poisoned ends POISONED. C3EMIT of a complete group writes
the parity dataset's header, ends the group, and ends OK with the group's count. CORRECT (R47, R73) ends OK where no sub-dataset
has failed, else UNCORRECTABLE; VALUE counts the failed ones, which the slice keeps with the rows still erased in them. MAPSET
(R50): a legal map is in its slot when the descriptor ends, VALUE counting its tracks; while an earlier descriptor refers to the
slot it only stands taken, and it is loaded once none does any more. -/
def Obligations.EncoderResults : Prop :=
  (∀ (t : Tid) (y : Slot) (s : State), encFree (tpOf s t) = true →
      (HeadIs t 2 1 y s → encodeValid s t y.desc = true →
        let tok : W32 := y.desc.extractLsb' 64 32
        (demandRead (tokAddr s tok) 7340032 s).1 = false → fieldB y.desc 129 1 = 0 →
        ∃ u v : State, exec (.encEncode t) s = .next (settleHost (finish t 2 y.ticket 0x00 0 v))
          ∧ u = encodeHeader t tok ((mapSlot (tpOf s t) (fieldB y.desc 128 1)).getD 0) (demandRead (tokAddr s tok) 7340032 s).2
          ∧ v.mem = (encodeC2 (tokAddr u tok) u).mem)
      ∧ (HeadIs t 2 1 y s → encodeValid s t y.desc = true →
        let tok : W32 := y.desc.extractLsb' 64 32
        (demandRead (tokAddr s tok) 7340032 s).1 = false → fieldB y.desc 129 1 = 1 →
        ∃ u v : State, exec (.encEncode t) s = .next (settleHost (finish t 2 y.ticket 0x00 0 v))
          ∧ u = encodeHeader t tok ((mapSlot (tpOf s t) (fieldB y.desc 128 1)).getD 0) (demandRead (tokAddr s tok) 7340032 s).2
          ∧ v.mem = (foldMember t tok (y.desc.extractLsb' 96 32) (fieldB y.desc 130 4) (encodeC2 (tokAddr u tok) u)).mem)
      ∧ (HeadIs t 2 1 y s → encodeValid s t y.desc = true →
        let r := demandRead (tokAddr s (y.desc.extractLsb' 64 32)) 7340032 s
        r.1 = true → exec (.encEncode t) s = .next (settleHost (finish t 2 y.ticket 0x04 0 r.2)))
      ∧ (HeadIs t 2 2 y s → descFits y.desc 0 0xFFFFFFFF (~~~0) 0xFFFFFFFFF = true →
        dsToken s t (y.desc.extractLsb' 64 32) = true → 1 ≤ fieldB y.desc 224 4 → fieldB y.desc 224 4 ≤ 8 →
        c3Complete (c3Entries (tpOf s t) (y.desc.extractLsb' 64 32)) (fieldB y.desc 224 4) = true →
        let acc : W32 := y.desc.extractLsb' 64 32
        ∃ u, exec (.encC3emit t) s = .next (settleHost (finish t 2 y.ticket 0x00 (BitVec.ofNat 32 (fieldB y.desc 224 4)) u))
          ∧ c3Entries (tpOf u t) acc = []
          ∧ u.mem = (bufPut acc 0 (c3Header s acc (y.desc.extractLsb' 128 32) (y.desc.extractLsb' 160 32) (fieldB y.desc 192 16)
              (fieldB y.desc 208 16) (fieldB y.desc 224 4) (c3Entries (tpOf s t) acc)) s).mem)
      ∧ (HeadIs t 2 4 y s → descFits y.desc 0 0xFFFFFFFF 1 0 = true → dsToken s t (y.desc.extractLsb' 64 32) = true →
        ∃ (u : State) (st : BitVec 8) (rows subs : Nat), rows < 65536
          ∧ exec (.encCorrect t) s = .next (settleHost (finish t 2 y.ticket st (BitVec.ofNat 32 (rows + 65536 * subs)) u))
          ∧ (st = 0x00 ↔ subs = 0) ∧ (st = 0x05 ↔ subs ≠ 0)
          ∧ ∃ b, (tpOf u t).enc.bufs.get none (fieldB y.desc 64 32) = some b ∧ b.failed.length = subs
            ∧ ∀ i ∈ b.erased, i / 128 ∈ b.failed))
  ∧ (∀ (t : Tid) (y : Slot) (s : State),
      let m : W64 := y.desc.extractLsb' 64 64
      let loaded := finish t 2 y.ticket 0x00 (BitVec.ofNat 32 ((List.range 64).filter (fun k => m.getLsbD k)).length)
        (modEnc t (fun e => if fieldB y.desc 32 32 = 0 then { e with map0 := some m } else { e with map1 := some m }) s)
      (encFree (tpOf s t) = true → HeadIs t 2 3 y s → mapsetValid (tpOf s t) y.desc = true →
        (slotBusy (tpOf s t) (fieldB y.desc 32 32) y.order = false → exec (.encMapset t) s = .next loaded)
        ∧ (slotBusy (tpOf s t) (fieldB y.desc 32 32) y.order = true → exec (.encMapset t) s = .next (takeDesc t 2 y.ticket s)))
      ∧ ((tpOf s t).encP.slots.find? (fun z => z.started && z.fin.isNone && descOp z.desc == 3) = some y →
        slotBusy (tpOf s t) (fieldB y.desc 32 32) y.order = false → exec (.mapsetLoad t) s = .next loaded))

/-- The write lanes (R47, R48, R96, R97). A valid descriptor waits on the port; a transport armed at standstill starts to run up to
it (R227), and otherwise nothing changes. A ready lane takes it: it is the descriptor in progress, at LPOS, with the drivers on; a
WRITE only once its dataset is encoded and its map is loaded. When the last bit is written the descriptor ends OK, with VALUE its
LPOS except for a FILL, and gap fill follows where no descriptor is queued (R94). The directory of the extent being written is
fixed with copies from at most three extents back, each in a rewrite slot of a live track (R85, R105). -/
def Obligations.WriteLaneDescriptors : Prop :=
  ∀ (t : Tid) (y : Slot) (c : WlCur) (gap : BitVec 16) (s : State),
    (let m := (tpOf s t).mot
     let starts := m.armed.isSome = true ∧ m.armGo = false ∧ m.st = .tensioned ∧ (tpOf s t).yoyo.pause = 0
     (¬starts → goArmed t s = s)
      ∧ (starts → goArmed t s = modMot t (fun m => { m with armGo := true, armVr := startSpeed s t, st := .running }) s))
    ∧ (HeadIs t 3 1 y s → wlValid s t y = true → exec (.wlWrite t) s = .next (goArmed t s))
    ∧ (HeadIs t 3 2 y s → wlValid s t y = true → exec (.wlFill t) s = .next (goArmed t s))
    ∧ (HeadIs t 3 3 y s → wlValid s t y = true → exec (.wlMark t) s = .next (goArmed t s))
    ∧ (wlReady s t = true → HeadIs t 3 2 y s → wlValid s t y = true → descArg y.desc ≠ 0 →
      ∃ (u : State) (k : WlCur), exec (.wlDescriptorStart t) s = .next (settleHost u) ∧ (tpOf u t).wl.cur = some k
        ∧ k.ticket = y.ticket ∧ k.frames = descArg y.desc ∧ k.lpos = (tpOf s t).mot.lpos
        ∧ (tpOf u t).wl.wen = true ∧ (tpOf u t).wl.gap = false ∧ (tpOf u t).wl.exts = (tpOf s t).wl.exts)
    ∧ (∀ op : Nat, wlReady s t = true → HeadIs t 3 op y s → wlValid s t y = true →
      (op = 1 ∧ wlEncoded s (y.desc.extractLsb' 64 32) = true ∧ mapPending (tpOf s t) (fieldB y.desc 128 1) y.order = false
          ∧ encodePending (tpOf s t) (y.desc.extractLsb' 64 32) = false) ∨ op = 3 →
      ∃ (u : State) (k : WlCur) (e : Extent) (l : List Extent), exec (.wlDescriptorStart t) s = .next (settleHost u)
        ∧ (tpOf u t).wl.cur = some k ∧ k.ticket = y.ticket ∧ k.op = op ∧ k.lpos = (tpOf s t).mot.lpos
        ∧ (tpOf u t).wl.wen = true ∧ (tpOf u t).wl.gap = false ∧ (tpOf u t).wl.exts = e :: l
        ∧ e.lpos = (tpOf s t).mot.lpos ∧ e.isMark = (op == 3)
        ∧ (op = 1 → k.token = y.desc.extractLsb' 64 32 ∧ e.mask = (mapSlot (tpOf s t) (fieldB y.desc 128 1)).getD 0)
        ∧ (op = 3 → e.typ = descArg y.desc))
    ∧ ((tpOf s t).wl.cur = some c → ∃ u : State, (tpOf u t).wl.cur = none
        ∧ (c.op = 1 → c.dsnum ≠ 0xFFFFFFFF → (tpOf u t).wl.lastDs = c.dsnum)
        ∧ (c.op = 2 → u = modWl t (fun w => { w with cur := none, endLpos := c.lpos + BitVec.ofNat 32 c.frames })
            (record t (tpOf s t).mot.wrap c.lpos c.frames none s))
        ∧ (let z := finish t 3 c.ticket 0x00 (if c.op = 2 then 0 else c.lpos) u
           exec (.wlDescriptorDone t gap) s = .next (settleHost (if (portHead (tpOf z t).wlP).isSome then
               modWl t (fun w => { w with gap := false }) z
             else modWl t (fun w => { w with gap := true, out := gapLanes gap.toNat w.out })
               (bumpFldBy (Reg.wlCnt t) Fld.wlCntGapslots gap.toNat z)))))
    ∧ ((tpOf s t).wl.cur = some c → c.op = 1 → ∀ e l, (tpOf s t).wl.exts = e :: l → e.fixed = false →
      ((tpOf s t).vfy.rwq = [] → exec (.directoryFix t) s = .next (settleHost (sendDirectory t e.dsnum []
        (modWl t (fun w => { w with
          exts := { e with fixed := true, rw := [] } :: l, out := addRuns e.mask (reserveRuns s t c e []) w.out }) s))))
      ∧ ∃ (u : State) (rw : List RwSlot), exec (.directoryFix t) s = .next (settleHost (sendDirectory t e.dsnum rw u))
        ∧ (tpOf u t).wl.exts = { e with fixed := true, rw := rw } :: l
        ∧ ∀ r ∈ rw, r.b ≤ 3 ∧ r.lam < (maskTracks e.mask).length ∧ r.q < e.nres - 1)

/-- VFY and RWQ (R47, R102, R106, R108). An ARM that names its dataset and a loaded map is tracked until its codewords are settled;
it then ends OK, with VALUE the codewords that were rewritten, where none is unresolved, and any earlier ARM of the dataset with
it; the buffer is released where one asks for that. With a codeword unresolved it ends INCOMPLETE, and VFY_INCDS names the
dataset (R109). POLICY sets the copies and the slot limit. A report is judged in verify mode, and only leaves the reports on their
way in another mode; none comes over a UCIe module that is down (R15). IDX (R359, R360): ADD turns an entry of the dataset's record
table into an object entry; FIND answers the dataset of an object, or NOT_FOUND; EMIT freezes the index as soon as what it waits
for has been written, and places the next part of a frozen one. -/
def Obligations.VerifyAndIndex : Prop :=
  (∀ (t : Tid) (y : Slot) (d : Ds) (k : BitVec 16) (report : BitVec 128) (s : State),
      (HeadIs t 4 1 y s → mapPending (tpOf s t) (fieldB y.desc 128 1) y.order = false → descFits y.desc 0 (~~~0) 3 0 = true →
        dsToken s t (y.desc.extractLsb' 96 32) = true → (mapSlot (tpOf s t) (fieldB y.desc 128 1)).isSome = true →
        ∃ u, exec (.vfyArm t) s = .next (settleHost u)
          ∧ (∃ z ∈ (tpOf u t).vfy.ds, z.dsnum = y.desc.extractLsb' 64 32)
          ∧ ∀ z ∈ (tpOf u t).vfy.ds, z.dsnum = y.desc.extractLsb' 64 32 →
            z.armed = some y.ticket ∧ z.token = y.desc.extractLsb' 96 32 ∧ z.rel = y.desc.getLsbD 129)
      ∧ ((tpOf s t).vfy.ds.find? (fun z => z.armed.isSome && dsSettled z) = some d → d.armed = some k →
        (∀ n ∈ unresOf d, n = 0) →
        let val := BitVec.ofNat 32 (d.cw.cells.filter (fun c => decide (0 < c.2.copies))).length
        let v := if d.rel = true ∨ d.more.any (fun m => m.2) = true then releaseFor 2 (4 + t.val) d.token (acceptDs t d s) else acceptDs t d s
        exec (.vfyArmSettled t) s
          = .next (settleHost (finish t 4 k 0x00 val (forAll d.more (fun m => finish t 4 m.1 0x00 val) v))))
      ∧ ((tpOf s t).vfy.ds.find? (fun z => z.armed.isSome && dsSettled z) = some d → d.armed = some k →
        ∀ n ∈ unresOf d, n ≠ 0 →
        let val := BitVec.ofNat 32 (d.cw.cells.filter (fun c => decide (0 < c.2.copies))).length
        ∃ u v : State, v = finish t 4 k 0x09 val (forAll d.more (fun m => finish t 4 m.1 0x09 val) u)
          ∧ reg v (Reg.vfyIncds t) = d.dsnum
          ∧ (exec (.vfyArmSettled t) s = .next (settleHost (acceptDs t d v))
            ∨ exec (.vfyArmSettled t) s = .next (settleHost (disableWrites t 1 v))
            ∨ exec (.vfyArmSettled t) s = .next (settleHost (modDs t d.dsnum (fun y => { y with attempts := y.attempts + 1 }) v))))
      ∧ (HeadIs t 5 1 y s → descFits y.desc 7 0xFFFF 0 0 = true → descArg y.desc ≠ 0 →
        exec (.rwqPolicy t) s = .next (finish t 5 y.ticket 0x00 0
          (modVfy t (fun v => { v with copies := descArg y.desc, slotLimit := fieldB y.desc 64 16 }) s)))
      ∧ (isOffline s t = true → exec (.verifyReport t report) s = .next (settleHost s))
      ∧ (isOffline s t = false → rcMode s t ≠ 1 → exec (.verifyReport t report) s
          = .next (settleHost (modRc t (fun x => { x with reports := x.reports.erase report }) s)))
      ∧ (isOffline s t = false → rcMode s t = 1 → exec (.verifyReport t report) s
          = .next (settleHost (reportIn t report (modRc t (fun x => { x with reports := x.reports.erase report }) s)))))
  ∧ (∀ (t : Tid) (y : Slot) (scid : BitVec 16) (seq off : W32) (e : ObjEnt) (s : State),
      (HeadIs t 6 1 y s → descFits y.desc 0xFFFFFFFF (~~~0) (~~~0) 0xFFFFFFFF = true →
        ((tpOf s t).idx.tables.get [] (fieldB y.desc 192 32))[descArg y.desc]? = some (scid, seq, off) →
        let n : ObjEnt := ⟨y.desc.extractLsb' 64 128, y.desc.extractLsb' 192 32, off, seq, scid⟩
        exec (.idxAdd t) s = .next (settleHost (finish t 6 y.ticket 0x00 0 (indexRec scid.toNat seq
          (modIdx t (fun i => { i with objs := i.objs ++ [n], known := i.known ++ [n] }) s)))))
      ∧ (HeadIs t 6 1 y s → descFits y.desc 0xFFFFFFFF (~~~0) (~~~0) 0xFFFFFFFF = true →
        ((tpOf s t).idx.tables.get [] (fieldB y.desc 192 32))[descArg y.desc]? = none →
        exec (.idxAdd t) s = .next (settleHost (finish t 6 y.ticket 0x06 0 s)))
      ∧ (HeadIs t 6 3 y s → descFits y.desc 0 (~~~0) (~~~0) 0 = true →
        (∀ z ∈ (tpOf s t).idx.known, z.objid ≠ y.desc.extractLsb' 64 128) → exec (.idxFind t) s = .next (finish t 6 y.ticket 0x06 0 s))
      ∧ (HeadIs t 6 3 y s → descFits y.desc 0 (~~~0) (~~~0) 0 = true →
        (tpOf s t).idx.known.find? (fun z => z.objid == y.desc.extractLsb' 64 128) = some e →
        exec (.idxFind t) s = .next (finish t 6 y.ticket 0x00 e.dsnum s))
      ∧ (∀ o f, HeadIs t 6 2 y s → (tpOf s t).idx.emitting = none → emitDs s t y.desc = some o → (tpOf s t).idx.frozen = some f →
        exec (.idxEmit t) s = .next (settleHost (emitSegment t y o f s)))
      ∧ (∀ o, HeadIs t 6 2 y s → (tpOf s t).idx.emitting = none → emitDs s t y.desc = some o → (tpOf s t).idx.frozen = none →
        ((∀ e ∈ (tpOf s t).idx.objs, dsWritten (tpOf s t) e.dsnum = true) → ∃ (f : Frozen) (u : State),
          exec (.idxEmit t) s = .next (settleHost (emitSegment t y o f u)) ∧ (tpOf u t).idx.frozen = some f)
        ∧ ((∃ e ∈ (tpOf s t).idx.objs, dsWritten (tpOf s t) e.dsnum = false) → ∃ u, exec (.idxEmit t) s = .next (settleHost u)
          ∧ (tpOf u t).idx.emitting = some y.ticket ∧ (tpOf u t).idx.await = (tpOf s t).idx.objs.map (fun e => e.dsnum)))
      ∧ (∀ o, (tpOf s t).idx.emitting = some y.ticket → (tpOf s t).idxP.slots.find? (fun z => z.ticket == y.ticket) = some y →
        (tpOf s t).asm.opn = some o → (∀ n ∈ (tpOf s t).idx.await, dsWritten (tpOf s t) n = true) →
        ∃ f, (tpOf (freezeIndex t s) t).idx.frozen = some f
          ∧ exec (.indexFreeze t) s = .next (settleHost (emitSegment t y o f (freezeIndex t s)))))

/-! ### Toybox (07) -/

/-- ALLOC (R184, R188, R191), in the requester's turn (R190; what its turn is, is the model's choice, log entry 42). Where its class
has a buffer for the requester, one that no record but its own changes becomes ALLOCATED to it with one reference, and its token,
with a generation that is not 0, is the completion. Without one, flag 0 takes a buffer of the next larger class that has one,
counted in TBX_FBCNT, or ends NO_BUFFER; the fail flag ends it NO_BUFFER; the wait flag puts it last on the class's list, as every
request waits while TBX_CTRL.EN is 0. A unit's request on its port, and one repeated after a full list, get a buffer alike. -/
def Obligations.AllocResult : Prop :=
  (∀ (t : Tid) (y : Slot) (s : State) (c : Nat), c = descArg y.desc % 4 → sliceTurn s t = true →
    HeadIs t 7 1 y s → descFits y.desc 0xF 0 0 0 = true → descArg y.desc / 4 % 4 ≤ 2 →
    (fld s Reg.tbxCtrl Fld.tbxCtrlEn = 0 → (waitList s.tbx c).length < 255 → ∃ u,
        exec (.tbxAlloc (.slice t)) s = .next u ∧ (∀ id, bufStored u id = bufStored s id)
          ∧ waitList u.tbx c = waitList s.tbx c ++ [⟨2, 4 + t.val, c, descArg y.desc / 4 % 4, some y.ticket⟩])
    ∧ (fld s Reg.tbxCtrl Fld.tbxCtrlEn = 1 →
    (classHas s (4 + t.val) c = true →
      ∃ (u : State) (id : Nat) (g : BitVec 8), exec (.tbxAlloc (.slice t)) s = .next (finish t 7 y.ticket 0x00 (tokenOf id g) u)
        ∧ g ≠ 0 ∧ (bufStored u id).st = .allocated ∧ (bufStored u id).gen = g ∧ bufRefs (bufStored u id) = 1
        ∧ bufHold (bufStored u id) (4 + t.val) = 1 ∧ (bufStored u id).owner = BitVec.ofNat 4 (4 + t.val)
        ∧ (g = (bufStored s id).gen ∨ ((bufStored s id).gen = 0 ∧ g = 1)) ∧ OtherBuffers id s u)
    ∧ (classHas s (4 + t.val) c = false → descArg y.desc / 4 % 4 = 2 → ∃ u,
        exec (.tbxAlloc (.slice t)) s = .next (finish t 7 y.ticket 0x02 0 u) ∧ ∀ id, bufStored u id = bufStored s id)
    ∧ (classHas s (4 + t.val) c = false → descArg y.desc / 4 % 4 = 1 → (waitList s.tbx c).length < 255 → ∃ u,
        exec (.tbxAlloc (.slice t)) s = .next u ∧ (∀ id, bufStored u id = bufStored s id)
          ∧ waitList u.tbx c = waitList s.tbx c ++ [⟨2, 4 + t.val, c, 1, some y.ticket⟩])
    ∧ (classHas s (4 + t.val) c = false → descArg y.desc / 4 % 4 = 0 → (∀ d, c < d → d < 4 → classHas s (4 + t.val) d = false) → ∃ u,
        exec (.tbxAlloc (.slice t)) s = .next (finish t 7 y.ticket 0x02 0 u) ∧ ∀ id, bufStored u id = bufStored s id)
    ∧ (∀ d, classHas s (4 + t.val) c = false → descArg y.desc / 4 % 4 = 0 → c < d → d < 4 → classHas s (4 + t.val) d = true →
        (∀ e, c < e → e < d → classHas s (4 + t.val) e = false) → ∃ (u : State) (id : Nat) (g : BitVec 8),
        exec (.tbxAlloc (.slice t)) s = .next (finish t 7 y.ticket 0x00 (tokenOf id g) u)
          ∧ g ≠ 0 ∧ (bufStored u id).st = .allocated ∧ (bufStored u id).gen = g ∧ bufRefs (bufStored u id) = 1
          ∧ bufHold (bufStored u id) (4 + t.val) = 1 ∧ OtherBuffers id s u
          ∧ fld u (Reg.tbxFbcnt c) Fld.tbxFbcntFallback
            = min (fld s (Reg.tbxFbcnt c) Fld.tbxFbcntFallback + 1) (2 ^ Fld.tbxFbcntFallback.w - 1))))
  ∧ (∀ (w : Waiter) (r : List Waiter) (p cls flag : BitVec 2) (agent : BitVec 4) (c : Instr) (s : State),
      (c = .tbxAlloc (.unit p agent cls flag) ∧ w = ⟨p.toNat, agent.toNat, cls.toNat, flag.toNat, none⟩
          ∧ agentFits p.toNat agent.toNat = true ∧ p ≠ 2 ∧ s.tbx.retry = r)
        ∨ (c = .allocRetry ∧ s.tbx.retry = w :: r) →
      portTurn s w.port = true → fld s Reg.tbxCtrl Fld.tbxCtrlEn = 1 → w.flag ≤ 2 → w.cls < 4 → classHas s w.agent w.cls = true →
      ∃ (u : State) (id : Nat) (g : BitVec 8), exec c s = .next (tbxAnswer w 0x00 (tokenOf id g) u) ∧ u.tbx.retry = r
        ∧ g ≠ 0 ∧ (bufStored u id).st = .allocated ∧ (bufStored u id).gen = g ∧ bufRefs (bufStored u id) = 1
        ∧ bufHold (bufStored u id) w.agent = 1 ∧ OtherBuffers id s u)

/-- An ALLOC never gives out a buffer that is in use (R188): the buffer it takes is of its class, was FREE, and lies in a stripe
group in service. The premises say that the buffer records are in their canonical order and that the class sizes fit a group's
2^20 indices. -/
def Obligations.AllocTakesAFreeBuffer : Prop :=
  ∀ (w : Waiter) (c : Nat) (s : State), s.tbx.recs.wf BufRec.reset = true → c < 4 → 0 < freeCount s c →
    perGroup s 0 + perGroup s 1 + perGroup s 2 + perGroup s 3 ≤ 2 ^ 20 →
    ∃ id : Nat, classOf s id = some c ∧ (bufStored s id).st = .free ∧ groupRetired s (id / 2 ^ 20) = false
      ∧ ∃ u : State, takeBuffer w c s = tbxAnswer w 0x00 (tokenOf id (bufStored u id).gen) u
        ∧ (bufStored u id).st = .allocated ∧ OtherBuffers id s u

/-- ADDREF and RELEASE (R188, R189), in the requester's turn (R190; the model's choice, log entry 42). With a current token ADDREF adds
one to its HOLD. RELEASE of a reference that is not the buffer's last takes one away, and the last one frees the buffer with its
generation advanced; a freed buffer goes to the one that waits for its class (R192). A request that R189 refuses ends with its
status and changes no buffer. A unit's request on its port does the same. -/
def Obligations.ReferenceResult : Prop :=
  (∀ (t : Tid) (y : Slot) (s : State) (tok : W32) (a : Nat), tok = y.desc.extractLsb' 32 32 → a = 4 + t.val →
    sliceTurn s t = true → descFits y.desc 0xFFFFFFFF 0 0 0 = true →
    let b := bufStored s (tokId tok)
    (HeadIs t 7 2 y s → Current s tok → bufHold b a < 255 → ∃ u, exec (.tbxAddref (.slice t)) s = .next (finish t 7 y.ticket 0x00 0 u)
      ∧ (∀ j, bufHold (bufStored u (tokId tok)) j = bufHold b j + if j = a then 1 else 0)
      ∧ (bufStored u (tokId tok)).gen = b.gen ∧ (bufStored u (tokId tok)).st = b.st ∧ OtherBuffers (tokId tok) s u)
    ∧ (HeadIs t 7 2 y s → (classOf s (tokId tok)).isSome → ¬Current s tok → ∃ u,
        exec (.tbxAddref (.slice t)) s = .next (finish t 7 y.ticket 0x1A 0 u) ∧ ∀ id, bufStored u id = bufStored s id)
    ∧ (HeadIs t 7 2 y s → Current s tok → 255 ≤ bufHold b a → ∃ u,
        exec (.tbxAddref (.slice t)) s = .next (finish t 7 y.ticket 0x1B 0 u) ∧ ∀ id, bufStored u id = bufStored s id)
    ∧ ((classOf s (tokId tok)).isNone → ∃ u, (∀ id, bufStored u id = bufStored s id)
        ∧ (HeadIs t 7 2 y s → exec (.tbxAddref (.slice t)) s = .next (finish t 7 y.ticket 0x01 0 u))
        ∧ (HeadIs t 7 3 y s → exec (.tbxRelease (.slice t)) s = .next (finish t 7 y.ticket 0x01 0 u)))
    ∧ (HeadIs t 7 3 y s → (classOf s (tokId tok)).isSome → ¬Current s tok → ∃ u,
        exec (.tbxRelease (.slice t)) s = .next (finish t 7 y.ticket 0x18 0 u) ∧ ∀ id, bufStored u id = bufStored s id)
    ∧ (HeadIs t 7 3 y s → Current s tok → bufHold b a = 0 → ∃ u,
        exec (.tbxRelease (.slice t)) s = .next (finish t 7 y.ticket 0x19 0 u) ∧ ∀ id, bufStored u id = bufStored s id)
    ∧ (∀ c, HeadIs t 7 3 y s → Current s tok → 0 < bufHold b a → classOf s (tokId tok) = some c → waitList s.tbx c = [] →
        b.hold.wf 0 = true → ∃ u, exec (.tbxRelease (.slice t)) s = .next u ∧ OtherBuffers (tokId tok) s u
          ∧ portOf (tpOf u t) 7 = portOf (tpOf (finish t 7 y.ticket 0x00 0 (takeDesc t 7 y.ticket s)) t) 7
          ∧ (∀ j, bufHold (bufStored u (tokId tok)) j = bufHold b j - if j = a then 1 else 0)
          ∧ (1 < bufRefs b → (bufStored u (tokId tok)).st = b.st ∧ (bufStored u (tokId tok)).gen = b.gen)
          ∧ (bufRefs b = 1 → b.st = .allocated → b.retiring = false → groupRetired s (tokId tok / 2 ^ 20) = false →
            (bufStored u (tokId tok)).st = .free
              ∧ (bufStored u (tokId tok)).gen = if b.gen = 255 then 1 else b.gen + 1)
          ∧ (bufRefs b = 1 → (b.st = .quarantined ∨ b.retiring = true) → (bufStored u (tokId tok)).st = .quarantined))
    ∧ (∀ c w, HeadIs t 7 3 y s → Current s tok → 0 < bufHold b a → classOf s (tokId tok) = some c → waitList s.tbx c = [w] → c ≠ 3 →
        b.hold.wf 0 = true → bufRefs b = 1 → b.st = .allocated → b.retiring = false → groupRetired s (tokId tok / 2 ^ 20) = false →
        fld s Reg.tbxCtrl Fld.tbxCtrlEn = 1 → ∃ u, exec (.tbxRelease (.slice t)) s = .next u ∧ waitList u.tbx c = []
          ∧ (bufStored u (tokId tok)).st = .allocated ∧ bufHold (bufStored u (tokId tok)) w.agent = 1
          ∧ (bufStored u (tokId tok)).gen = (if b.gen = 255 then 1 else if b.gen = 0 then 1 else b.gen + 1)
          ∧ OtherBuffers (tokId tok) s u))
  ∧ (∀ (p : BitVec 2) (agent : BitVec 4) (tok : W32) (s : State), agentFits p.toNat agent.toNat = true → p ≠ 2 →
      portTurn s p.toNat = true → Current s tok →
      let b := bufStored s (tokId tok)
      (bufHold b agent.toNat < 255 → ∃ u, exec (.tbxAddref (.unit p agent tok)) s
          = .next (tbxAnswer ⟨p.toNat, agent.toNat, 0, 0, none⟩ 0x00 0 u)
        ∧ (∀ j, bufHold (bufStored u (tokId tok)) j = bufHold b j + if j = agent.toNat then 1 else 0)
        ∧ (bufStored u (tokId tok)).gen = b.gen ∧ (bufStored u (tokId tok)).st = b.st ∧ OtherBuffers (tokId tok) s u)
      ∧ (0 < bufHold b agent.toNat → 1 < bufRefs b → b.hold.wf 0 = true → ∀ c, classOf s (tokId tok) = some c → waitList s.tbx c = [] →
        ∃ u, exec (.tbxRelease (.unit p agent tok)) s = .next u ∧ OtherBuffers (tokId tok) s u
          ∧ (∀ j, bufHold (bufStored u (tokId tok)) j = bufHold b j - if j = agent.toNat then 1 else 0)
          ∧ (bufStored u (tokId tok)).st = b.st ∧ (bufStored u (tokId tok)).gen = b.gen))

/-- The operations of agent 3 (R188, R194, R195), in port 3's turn (R190; the model's choice, log entry 42): QUARANTINE whatever the
state; RESTORE of a QUARANTINED buffer without references in a group in service frees it with its bytes zero and its generation
advanced; RETIREGRP sets the group's bit, and RETIRING on its buffers with references. Another agent has each rejected, and no
buffer changes. TBX_WAITCLR empties the wait lists it names, TBX_INSPID latches the record of an existing buffer, TBX_CTRL.LOCK
locks (R187, R192, R10): by Puppeteer, or by the host where it may write the register, in the state after any wake (R280). -/
def Obligations.PoolSupervision : Prop :=
  (∀ (agent : BitVec 4) (id : BitVec 24) (g : BitVec 4) (s : State),
      (portTurn s 3 = true → (classOf s id.toNat).isSome → ∃ u, exec (.quarantine 3 id) s = .next u ∧ (bufStored u id.toNat).st = .quarantined
        ∧ (bufStored u id.toNat).gen = (bufStored s id.toNat).gen ∧ (bufStored u id.toNat).hold = (bufStored s id.toNat).hold
        ∧ OtherBuffers id.toNat s u)
      ∧ (∀ c, portTurn s 3 = true → classOf s id.toNat = some c → (bufRec s id.toNat).st = .quarantined → bufRefs (bufStored s id.toNat) = 0 →
          groupRetired s (id.toNat / 2 ^ 20) = false → (bufStored s id.toNat).badRec = false → waitList s.tbx c = [] →
          ∃ u, exec (.restore 3 id) s = .next u ∧ (bufStored u id.toNat).st = .free ∧ OtherBuffers id.toNat s u
            ∧ (bufStored u id.toNat).gen = (if (bufStored s id.toNat).gen = 255 then 1 else (bufStored s id.toNat).gen + 1)
            ∧ ∀ k, bufAddr s id.toNat ≤ k → k < bufAddr s id.toNat + classSize c → u.mem.hbm.get 0 k = 0)
      ∧ (portTurn s 3 = true → g.toNat < groupCount s → ∃ u, exec (.retiregrp 3 g) s = .next u ∧ groupRetired u g.toNat = true
        ∧ (∀ n, n ≠ g.toNat → groupRetired u n = groupRetired s n)
        ∧ (∀ j, (bufStored u j).hold = (bufStored s j).hold ∧ (bufStored u j).gen = (bufStored s j).gen)
        ∧ (groupRetired s g.toNat = false → ∀ j, j / 2 ^ 20 = g.toNat → 0 < bufRefs (bufStored s j) → (bufStored u j).retiring = true))
      ∧ (agent ≠ 3 → ∃ u v w : State, exec (.quarantine agent id) s = .next u ∧ exec (.restore agent id) s = .next v
        ∧ exec (.retiregrp agent g) s = .next w
        ∧ ∀ j, bufStored u j = bufStored s j ∧ bufStored v j = bufStored s j ∧ bufStored w j = bufStored s j))
  ∧ (∀ (src : Src) (classes : BitVec 4) (id : BitVec 24) (s : State), srcMay src [0] s = true → romHeld src s = false →
      let s' := hostWakes src s
      (∃ u, exec (.tbxWaitclr src classes) s = .next u
        ∧ (∀ c, c < 4 → waitList u.tbx c = if classes.getLsbD c then [] else waitList s.tbx c)
        ∧ ∀ j, bufStored u j = bufStored s j)
      ∧ ((classOf s' id.toNat).isSome → exec (.tbxInspid src id) s
          = .next { s' with tbx := { s'.tbx with insp := recBits (bufRec s' id.toNat) } })
      ∧ (∃ u, exec (.tbxLock src) s = .next u ∧ reg u Reg.tbxCtrl = reg s' Reg.tbxCtrl ||| 0x80000000
        ∧ ∀ off, off ≠ Reg.tbxCtrl → reg u off = reg s' off))

/-- Toybox does not clear a buffer when it is released, so its next holder finds the previous contents (R196): no ALLOC and no
RELEASE, of a slice or of a unit, changes memory. -/
def Obligations.ContentsSurvive : Prop :=
  ∀ (a : AllocReq) (r : TokReq) (s u : State), exec (.tbxAlloc a) s = .next u ∨ exec (.tbxRelease r) s = .next u → u.mem = s.mem

/-! ### Motion (08) -/

/-- MOT.SPEED, LOCATE and TURN (R224, R226-R228), on a transport that runs no motion command, for which none of Puppeteer's waits
(R22), and that is neither stopping nor faulted: the descriptor becomes the command in progress, with its operands; a LOCATE or
TURN waits for WL, disarms a start and turns the drivers off. MOT.STOP (R229): a moving transport is led to rest with any armed
start disarmed, and one at standstill completes at once. While a transport is stopping or faulted every MOT descriptor ends
MOTION_FAULT (R231). -/
def Obligations.MotionDescriptors : Prop :=
  (∀ (t : Tid) (y : Slot) (s : State),
      (tpOf s t).mot.st ≠ .stopping → (tpOf s t).mot.st ≠ .faulted → (tpOf s t).mot.cur = none → (tpOf s t).mot.pup = [] →
      (HeadIs t 8 1 y s → descFits y.desc 3 0xFFFFFFFF 0 0 = true → descArg y.desc ≤ 2 →
        (descArg y.desc = 2 → 2500 ≤ fieldB y.desc 64 32 ∧ fieldB y.desc 64 32 ≤ topSpeed (tpOf s t)) →
        ∃ (u : State) (c : MotCur), exec (.motSpeed t) s = .next (settleHost u) ∧ (tpOf u t).mot.cur = some c
          ∧ c.ticket = some y.ticket ∧ c.op = 1 ∧ (tpOf u t).yoyo.on = true ∧ (tpOf u t).yoyo.sel = descArg y.desc
          ∧ (descArg y.desc = 2 → (tpOf u t).yoyo.fixedV = fieldB y.desc 64 32))
      ∧ (HeadIs t 8 2 y s → descFits y.desc 0xFFFFFFFF 0xFFFFFFFF 0 0 = true → wrapFits s t y = true → (tpOf s t).wl.cur = none →
        ∃ (u : State) (c : MotCur), exec (.motLocate t) s = .next (settleHost u) ∧ (tpOf u t).mot.cur = some c
          ∧ c.ticket = some y.ticket ∧ c.op = 2 ∧ c.wrap = descArg y.desc ∧ c.target = y.desc.extractLsb' 64 32
          ∧ c.step = (if (tpOf s t).mot.still then 2 else 1) ∧ (tpOf u t).mot.st = .locating ∧ (tpOf u t).mot.armed = none
          ∧ (tpOf u t).wl.wen = false ∧ (tpOf u t).yoyo.pause = 0)
      ∧ (HeadIs t 8 3 y s → descFits y.desc 0xFFFFFFFF 0 0 0 = true → wrapFits s t y = true → (tpOf s t).wl.cur = none →
        ∃ (u : State) (c : MotCur), exec (.motTurn t) s = .next (settleHost u) ∧ (tpOf u t).mot.cur = some c
          ∧ c.ticket = some y.ticket ∧ c.op = 3 ∧ c.wrap = descArg y.desc ∧ c.step = (if (tpOf s t).mot.still then 2 else 1)
          ∧ (tpOf u t).mot.st = .turning ∧ (tpOf u t).mot.armed = none ∧ (tpOf u t).wl.wen = false))
  ∧ (∀ (t : Tid) (y : Slot) (s : State),
      (HeadIs t 8 4 y s → descFits y.desc 0 0 0 0 = true → (tpOf s t).mot.st ≠ .stopping → (tpOf s t).mot.st ≠ .faulted →
        (tpOf s t).mot.st ≠ .released → (tpOf s t).mot.cur = none → (tpOf s t).wl.cur = none → (tpOf s t).mot.pup = [] →
        ∃ u : State, exec (.motStop t) s = .next (settleHost u) ∧ (tpOf u t).mot.armed = none ∧ (tpOf u t).yoyo.on = false
          ∧ ((tpOf s t).mot.still = false → ∃ c : MotCur, (tpOf u t).mot.cur = some c ∧ c.op = 4 ∧ c.ticket = some y.ticket)
          ∧ ((tpOf s t).mot.still = true → (tpOf u t).mot.cur = none ∧ (tpOf u t).mot.st = .tensioned ∧ (tpOf u t).mot.setv = 0
              ∧ (tpOf u t).motP = { portFinish 8 y.ticket 0x00 0 (portStart y.ticket (tpOf s t).motP) with
                  nextTicket := (tpOf u t).motP.nextTicket }))
      ∧ ((tpOf s t).mot.st = .stopping ∨ (tpOf s t).mot.st = .faulted →
        (HeadIs t 8 1 y s → exec (.motSpeed t) s = .next (settleHost (finish t 8 y.ticket 0x08 0 s)))
        ∧ (HeadIs t 8 2 y s → exec (.motLocate t) s = .next (settleHost (finish t 8 y.ticket 0x08 0 s)))
        ∧ (HeadIs t 8 3 y s → exec (.motTurn t) s = .next (settleHost (finish t 8 y.ticket 0x08 0 s)))
        ∧ (HeadIs t 8 4 y s → exec (.motStop t) s = .next (settleHost (finish t 8 y.ticket 0x08 0 s)))))

/-- What the tape comes to (R96, R209, R226, R228, R229): standstill below 5 mm/s ends a stop with the transport tensioned, and a
supervision stop with it FAULTED, where Puppeteer clears it at once if its cause is a fault event for which no retry waits
(R233, R324); it ends the first step of a LOCATE or TURN. The speed lock is taken within its tolerance; a settled head stands on
the wrap it sought; a TURN ends running on its wrap. Yo-yo's pauses and SPDREF (R200, R201, R203). A write-direction pause begins
at the end of what WL has written, a read-direction pause where the read element stands, and it resumes one frame on; once the
tape is past it the drivers go off and the transport locates back; at its end the tape goes at VMIN. SPDREF is valid with eight
periods of 11 kHz and above, and gives the reference speed; where it is not, a running transport that follows it pauses. An edge
less than 15 µs (6,000 MRCLK cycles) after the last counted one is not counted and is logged (R351; the log's code is the model's
choice, log entry 35). -/
def Obligations.MotionEnds : Prop :=
  (∀ (t : Tid) (c : MotCur) (s : State),
      ((tpOf s t).mot.vtape.natAbs < 80 → (tpOf s t).mot.st ≠ .stopping → (tpOf s t).mot.cur = none →
        exec (.standstill t) s = .next (settleHost (modMot t (fun m => { m with still := true }) s)))
      ∧ ((tpOf s t).mot.vtape.natAbs < 80 → (tpOf s t).mot.st ≠ .stopping → (tpOf s t).mot.cur = some c → c.op = 4 →
        s.pwr.commit = none → (tpOf s t).mot.pup = [] → (tpOf s t).mot.st ≠ .released → ∃ u : State, exec (.standstill t) s = .next (settleHost u)
          ∧ (tpOf u t).mot.st = .tensioned ∧ (tpOf u t).mot.cur = none ∧ (tpOf u t).mot.setv = 0 ∧ (tpOf u t).mot.still = true)
      ∧ ((tpOf s t).mot.vtape.natAbs < 80 → (tpOf s t).mot.st = .stopping →
        let f := modMot t (fun m => { m with still := true, st := .faulted, setv := 0 }) s
        let waits := s.flt.pendRetry.contains (unitId 7 t.val) = true
        (causeFault (tpOf s t).mot.cause = false ∨ waits → exec (.standstill t) s = .next (settleHost f))
          ∧ (causeFault (tpOf s t).mot.cause = true → ¬waits →
            exec (.standstill t) s = .next (settleHost (restoreLoops t (clearTransport t f)))))
      ∧ ((tpOf s t).mot.vtape.natAbs < 80 → (tpOf s t).mot.st ≠ .stopping → (tpOf s t).mot.cur = some c →
        (c.op = 2 ∧ (c.step = 1 ∨ c.step = 4)) ∨ (c.op = 3 ∧ c.step = 1) →
        exec (.standstill t) s = .next (settleHost (modMot t (fun m => { m with still := true, cur := some { c with step := 2 } }) s)))
      ∧ (lockFits s t = true → exec (.speedLock t) s = .next (modWl t (fun w => { w with locked := true }) s))
      ∧ ((tpOf s t).mot.cur = some c → c.op = 2 → 2 ≤ c.step → settledOn s t c.wrap = true → ∃ u : State,
        exec (.wrapSettle t) s = .next (settleHost u) ∧ (tpOf u t).mot.wrap = c.wrap
          ∧ (tpOf u t).mot.lpos = BitVec.ofInt 32 (relPos s t c.wrap (tpOf s t).mot.lpCount.toNat)
          ∧ ((tpOf s t).mot.wrap % 2 ≠ c.wrap % 2 → (tpOf u t).loopA.first = true ∧ (tpOf u t).loopB.first = true))
      ∧ ((tpOf s t).mot.cur = some c → c.op = 3 → c.step = 2 → settledOn s t c.wrap = true → (tpOf s t).wl.locked = true →
        (tpOf s t).mot.pup = [] → ∃ u : State, exec (.turnComplete t) s = .next (settleHost u) ∧ (tpOf u t).mot.wrap = c.wrap
          ∧ (tpOf u t).mot.st = .running ∧ (tpOf u t).mot.cur = none))
  ∧ (∀ (t : Tid) (period : Nat) (s : State),
      (fld s (Reg.yyPause t) Fld.yyPauseStopt ≠ 0 → fld s (Reg.yyPause t) Fld.yyPauseStopt * 10 ≤ (tpOf s t).yoyo.stopT →
        pauseFits s t = true → (tpOf s t).mot.cur = none → rcMode s t ≠ 2 → ∃ u : State,
          exec (.yoyoPauseStart t) s = .next (settleHost u) ∧ (tpOf u t).yoyo.pause = 1 ∧ (tpOf u t).yoyo.pE = (tpOf s t).wl.endLpos
            ∧ (tpOf u t).yoyo.pR = (tpOf s t).wl.endLpos + 1 ∧ (tpOf u t).yoyo.stopT = 0)
      ∧ (fld s (Reg.yyPause t) Fld.yyPauseStopt ≠ 0 → fld s (Reg.yyPause t) Fld.yyPauseStopt * 10 ≤ (tpOf s t).yoyo.stopT →
        pauseFits s t = true → (tpOf s t).mot.cur = none → rcMode s t = 2 → ∃ (u : State) (c : MotCur),
          exec (.yoyoPauseStart t) s = .next (settleHost u) ∧ (tpOf u t).yoyo.pause = 3
            ∧ (tpOf u t).yoyo.pE = (tpOf s t).mot.lpos
              - BitVec.ofNat 32 (fieldB (reg s (Reg.vfyLag t)) (16 * ((tpOf s t).mot.wrap % 2)) 16 / 200)
            ∧ (tpOf u t).yoyo.pR = (tpOf u t).yoyo.pE + 1 ∧ (tpOf u t).mot.cur = some c ∧ c.op = 2 ∧ c.target = (tpOf u t).yoyo.pR)
      ∧ ((tpOf s t).yoyo.pause = 1 → (tpOf s t).mot.cur = none →
        (tpOf s t).yoyo.pE.toInt + ceilDiv (fieldB (reg s (Reg.vfyLag t)) (16 * ((tpOf s t).mot.wrap % 2)) 16 + 200) 200
          ≤ (tpOf s t).mot.lpos.toInt → ∃ (u : State) (c : MotCur), exec (.pauseDriversOff t) s = .next (settleHost u)
          ∧ (tpOf u t).wl.wen = false ∧ (tpOf u t).yoyo.pause = 3 ∧ (tpOf u t).mot.cur = some c ∧ c.op = 2
          ∧ c.target = (tpOf s t).yoyo.pR ∧ c.wrap = (tpOf s t).mot.wrap ∧ (tpOf u t).mot.st = .locating)
      ∧ ((tpOf s t).yoyo.pause = 4 → (tpOf s t).yoyo.sel ≠ 1 → rcMode s t ≠ 2 → ∃ u : State,
          exec (.maxpauseExpiry t) s = .next (settleHost u) ∧ (tpOf u t).yoyo.pause = 0
            ∧ (tpOf u t).yoyo.out = 10 * fld s (Reg.yyLim t) Fld.yyLimVmin)
      ∧ ((tpOf s t).yoyo.pause ∈ [1, 2, 3] → (tpOf s t).yoyo.sel ≠ 1 → rcMode s t ≠ 2 → exec (.maxpauseExpiry t) s
          = .next (settleHost (modTp t (fun x => { x with yoyo := { x.yoyo with pauseEnd := true } }) s)))
      ∧ exec (.bandholdExpiry t) s = .next (modTp t (fun x => { x with yoyo := { x.yoyo with hold := false } }) s)
      ∧ (let x := tpOf s t
         let l := (period :: x.yoyo.ref).take 8
         let f := modTp t (fun x => { x with yoyo := { x.yoyo with ref := [], refOk := false, refv := 0 } }) s
         let pauses := x.yoyo.on = true ∧ x.yoyo.sel = 1 ∧ x.yoyo.pause = 0 ∧ x.mot.st = .running ∧ x.mot.armed = none
           ∧ x.mot.cur = none ∧ x.wl.cur = none ∧ x.yoyo.lastFrozen = none
         (¬pauses → exec (.spdrefInvalid t) s = .next f)
          ∧ (pauses → ∃ u : State, exec (.spdrefInvalid t) s = .next u ∧ (tpOf u t).yoyo.refOk = false
              ∧ (tpOf u t).yoyo.ref = [] ∧ (tpOf u t).yoyo.pause = if rcMode s t = 2 then 3 else 1)
          ∧ (6000 ≤ period → l.length = 8 → 11000 * l.sum ≤ 3200000000 → ∃ (u : State) (v : Nat), exec (.spdrefPulse t period) s = .next u
              ∧ (tpOf u t).yoyo.refOk = true ∧ (tpOf u t).yoyo.ref = l ∧ (tpOf u t).yoyo.refv = min 65535 v
              ∧ v * l.sum < 640000000 + l.sum ∧ 640000000 < v * l.sum + l.sum)
          ∧ (6000 ≤ period → l.length = 8 → 3200000000 < 11000 * l.sum → exec (.spdrefPulse t period) s = exec (.spdrefInvalid t) s)
          ∧ (period < 6000 → exec (.spdrefPulse t period) s = .next (logFault (unitId 7 t.val) 0 0 0 0 s))
          ∧ (6000 ≤ period → l.length < 8 → 11000 * period ≤ 400000000 → exec (.spdrefPulse t period) s
              = .next (modTp t (fun x => { x with yoyo := { x.yoyo with ref := l } }) s))))

/-- The sensors (R150-R154, R210, R211). A frame record enters the velocity's records with the frame's period and time stamp,
which bands were valid, the position from the band that was, and the direction; a timeout enters one with both bands invalid and
period 0; a motion-sensor record holds the tension, the mean skew of the frames since the last one valid on both bands, marked
valid, and 0xA5; without such a frame it is marked invalid, and its skew is open (the model's choice, log entry 38). Nothing comes
over a UCIe module that is down (R15). An encoder edge counts modulo CPR, and one on both channels is only logged. The tick (R206,
R209) uses up the records and counts since the last one. A stale frequency word sets its bit of GLB_CDCERR and is counted (R30,
R99). -/
def Obligations.SensorRecords : Prop :=
  (∀ (t : Tid) (f : ServoIn) (tstamp : W32) (tens : BitVec 16) (s : State),
      (isOffline s t = false → ∃ (u : State) (x : BitVec 128), exec (.servoFrame t f) s = .next (settleHost u)
        ∧ (tpOf u t).mot.frames = x :: (tpOf s t).mot.frames ∧ (tpOf u t).mot.lastFrame = x
        ∧ x.extractLsb' 64 32 = framePeriod (tpOf s t).mot.lastP (frameTime f)
        ∧ (∀ n, frameTime f = some n → x.extractLsb' 96 32 = BitVec.ofNat 32 (n / 64))
        ∧ x.getLsbD 24 = bandValid f.a ∧ x.getLsbD 25 = bandValid f.b ∧ x.getLsbD 26 = frameReverse (tpOf s t).mot.lastFrame f
        ∧ (bandValid f.a = true → bandValid f.b = false →
          x.extractLsb' 0 24 = BitVec.ofInt 24 (bandY s t f.a (fld s (Reg.svOffa t) Fld.svOffaOff)))
        ∧ (bandValid f.a = false → bandValid f.b = true →
          x.extractLsb' 0 24 = BitVec.ofInt 24 (bandY s t f.b (fld s (Reg.svOffb t) Fld.svOffbOff))))
      ∧ (isOffline s t = true → exec (.servoFrame t f) s = .next (settleHost s)
        ∧ exec (.servoFrameTimeout t tstamp) s = .next (settleHost s) ∧ exec (.motionSensorRecord t tens) s = .next s)
      ∧ (isOffline s t = false → ∃ (u : State) (x : BitVec 128), exec (.servoFrameTimeout t tstamp) s = .next (settleHost u)
        ∧ (tpOf u t).mot.frames = x :: (tpOf s t).mot.frames ∧ x.extractLsb' 64 32 = 0 ∧ x.extractLsb' 96 32 = tstamp
        ∧ x.getLsbD 24 = false ∧ x.getLsbD 25 = false ∧ x.getLsbD 26 = (tpOf s t).mot.lastFrame.getLsbD 26)
      ∧ (isOffline s t = false → ∃ (u : State) (k : Int) (w : BitVec 64), exec (.motionSensorRecord t tens) s = .next u
        ∧ (tpOf u t).mot = { (tpOf s t).mot with motion := w, skewSum := 0, skewN := 0 } ∧ u.regs = s.regs
        ∧ w.extractLsb' 0 16 = tens ∧ w.extractLsb' 16 24 = BitVec.ofInt 24 k ∧ w.getLsbD 40 = ((tpOf s t).mot.skewN != 0)
        ∧ w.extractLsb' 41 15 = 0 ∧ w.extractLsb' 56 8 = 0xA5
        ∧ ((tpOf s t).mot.skewN ≠ 0 →
          (k * (tpOf s t).mot.skewN - (tpOf s t).mot.skewSum).natAbs < (tpOf s t).mot.skewN))
      ∧ (∀ cpr, cpr = fld s (Reg.mcEnc t) Fld.mcEncCpra → (tpOf s t).mot.encA < cpr →
        exec (.encoderEdge t false .up) s = .next (modMot t (fun m =>
          { m with encA := (m.encA + 1) % cpr, tickA := m.tickA + 1, turnsA := m.turnsA + 1 }) s)
        ∧ exec (.encoderEdge t false .down) s = .next (modMot t (fun m =>
          { m with encA := (m.encA + cpr - 1) % cpr, tickA := m.tickA - 1, turnsA := m.turnsA + 1 }) s))
      ∧ (∀ cpr, cpr = fld s (Reg.mcEnc t) Fld.mcEncCprb → (tpOf s t).mot.encB < cpr →
        exec (.encoderEdge t true .up) s = .next (modMot t (fun m =>
          { m with encB := (m.encB + 1) % cpr, tickB := m.tickB + 1, turnsB := m.turnsB + 1 }) s)
        ∧ exec (.encoderEdge t true .down) s = .next (modMot t (fun m =>
          { m with encB := (m.encB + cpr - 1) % cpr, tickB := m.tickB - 1, turnsB := m.turnsB + 1 }) s))
      ∧ (∀ b : Bool, exec (.encoderEdge t b .both) s = .next (logFault (unitId 8 (4 * t.val + b.toNat)) 0 0 0 0 s)))
  ∧ (∀ (t : Tid) (s : State),
      (∃ u : State, exec (.marionetteTick t) s = .next (settleHost u) ∧ (tpOf u t).mot.ticks = (tpOf s t).mot.ticks + 1
        ∧ (tpOf u t).mot.frames = [] ∧ (tpOf u t).mot.tickA = 0 ∧ (tpOf u t).mot.tickB = 0)
      ∧ (∃ u : State, exec (.freqStale t) s = .next u ∧ fld u Reg.glbCdcerr Fld.glbCdcerrFreqStale = 1
        ∧ fld u Reg.glbCdccnt Fld.glbCdccntEvents = min (fld s Reg.glbCdccnt Fld.glbCdccntEvents + 1) (2 ^ Fld.glbCdccntEvents.w - 1)
        ∧ (∀ off, off ≠ Reg.glbCdcerr → off ≠ Reg.glbCdccnt → reg u off = reg s off) ∧ u.tp = s.tp))

/-- A supervision condition that has held for its time, and the host's commanded stop (R230, R231): STATE is stopping with the
cause, the drivers are off, every motion command has ended and, where no program waits to be installed or started, MOTFAULT is
set. MC_TCTL's other commands and the frames of the actuator links (R232, R233, R349, R361), by Puppeteer or by the host where it
may write the register, in the state after any wake (R280). In PS3
the links make no transitions (R340). -/
def Obligations.SupervisionStops : Prop :=
  (∀ (src : Src) (t : Tid) (cause : Fin 16) (n : Fin 4) (s : State), (tpOf s t).mot.st ≠ .stopping → (tpOf s t).mot.st ≠ .faulted →
      let stopped := fun (k : Nat) (u : State) => (tpOf u t).mot.st = .stopping ∧ (tpOf u t).mot.cause = k ∧ (tpOf u t).mot.cur = none
        ∧ (tpOf u t).mot.armed = none ∧ (tpOf u t).wl.cur = none ∧ (tpOf u t).wl.wen = false ∧ (tpOf u t).wl.faulted = true
        ∧ ((tpOf s t).reinstall = false → (seqOf s t).startPend = none → (seqOf u t).latched.getLsbD 19 = true)
      (causeHolds s t cause n = true → ∃ u : State, exec (.supervisionStop t cause n) s = .next (settleHost u) ∧ stopped cause u)
      ∧ (srcMay src [t.val] s = true → romHeld src s = false →
        ∃ u : State, exec (.mcCommandedStop src t) s = .next (settleHost u) ∧ stopped 7 u))
  ∧ (∀ (src : Src) (t : Tid) (l : Fin 32) (s : State), srcMay src [t.val] s = true → romHeld src s = false →
      let v := hostWakes src s
      ((tpOf v t).mot.st = .released → exec (.mcTensionOn src t) s
        = .next (settleHost (modMot t (fun m => { m with st := .tensioned, tensOn := true, setv := 0 }) v)))
      ∧ ((tpOf v t).mot.st ≠ .released → exec (.mcTensionOn src t) s = .next (settleHost (logFault (unitId 7 t) 6 3 0 0 v)))
      ∧ ((tpOf v t).mot.st = .tensioned → (tpOf v t).mot.still = true → exec (.mcTensionOff src t) s
        = .next (settleHost (modMot t (fun m =>
            { m with st := .released, tensOn := false, armed := none, armGo := false, armMiss := 0 }) v)))
      ∧ ((tpOf v t).mot.st = .faulted → (tpOf v t).mot.still = true → exec (.mcTensionOff src t) s
        = .next (settleHost (modMot t (fun m => { m with tensOn := false }) v)))
      ∧ ((tpOf v t).mot.still = false ∨ ((tpOf v t).mot.st ≠ .tensioned ∧ (tpOf v t).mot.st ≠ .faulted) →
        exec (.mcTensionOff src t) s = .next (settleHost (logFault (unitId 7 t) 6 4 0 0 v)))
      ∧ ((tpOf v t).mot.st = .faulted → (tpOf v t).mot.still = true → ∃ u : State,
        exec (.mcClear src t) s = .next (settleHost u) ∧ ((tpOf u t).mot.st = .tensioned ∨ (tpOf u t).mot.st = .released)
          ∧ (tpOf u t).mot.reelStop = false ∧ (tpOf u t).wl.faulted = false
          ∧ (tpOf u t).loopA.mode ≠ .fault ∧ (tpOf u t).loopB.mode ≠ .fault ∧ (tpOf u t).loopL.mode ≠ .fault
          ∧ (tpOf u t).loopS.mode ≠ .fault)
      ∧ (s.hif.ps = 3 → exec (.actuatorHeartbeat l) s = .next s)
      ∧ (s.hif.ps ≠ 3 → (getLoop s l).frame ≠ 0 → exec (.actuatorHeartbeat l) s = .next (modLoop l (fun p => { p with
          frame := actFrame (BitVec.ofNat 4 (l.val % 4)) p.linkSeq (p.frame.extractLsb' 16 16) (actDrive (tpOf s (loopT l)) (l.val % 4)).1
            (actDrive (tpOf s (loopT l)) (l.val % 4)).2 true }) s)))


/-- Overruns and the loops' service functions (R208, R221, R235, R236, R238): an overrun holds the outputs and counts, the third in a
row being the loop's fault; clearing the bins; injection, which GO with WAVE 0 does not start and which ends with its duration or
its bits; capture; autotune. The registers are written by Puppeteer, or by the host where it may, in the state after any wake. -/
def Obligations.LoopServices : Prop :=
  ∀ (src : Src) (t : Tid) (b : Bool) (l : Fin 32) (k : Tune) (s : State), romHeld src s = false →
    let v := hostWakes src s
    (evalOpen s l = true → (getLoop s l).consec + 1 < 3 → ∃ u : State, exec (.loopOverrun l) s = .next (settleHost u)
      ∧ (getLoop u l).outs = (getLoop s l).outs ∧ (getLoop u l).cmdv = (getLoop s l).cmdv
      ∧ (getLoop u l).consec = (getLoop s l).consec + 1 ∧ evalOpen u l = false)
    ∧ (evalOpen s l = true → 3 ≤ (getLoop s l).consec + 1 → ∃ u : State, exec (.loopOverrun l) s = .next (settleHost u)
      ∧ (getLoop u l).outs = (getLoop s l).outs ∧ (getLoop u l).cmdv = (getLoop s l).cmdv ∧ (getLoop u l).mode = .fault
      ∧ ((tpOf s (loopT l)).mot.st ≠ .faulted → (tpOf u (loopT l)).mot.st = .stopping))
    ∧ (srcMay src [t.val] s = true → ∃ u : State, exec (.mcRcClr src t b) s = .next u ∧ fld u (Reg.mcRc t b.toNat) Fld.mcRcClr = 1)
    ∧ (fld s (Reg.mcRc t b.toNat) Fld.mcRcClr = 1 → ∃ u : State, exec (.rcBinClearDone t b) s = .next u
      ∧ fld u (Reg.mcRc t b.toNat) Fld.mcRcClr = 0 ∧ ∀ i, binGet (tpOf u t).mot b.toNat i = 0)
    ∧ (srcMay src [injLoop s / 4] s = true → (fld s Reg.mcInj Fld.mcInjWave ≠ 0 → exec (.mcInjGo src) s
          = .next { v with mrn := { v.mrn with inj := { Inj.reset with active := true, start := v.clk }, capWait := false } })
        ∧ (fld s Reg.mcInj Fld.mcInjWave = 0 → exec (.mcInjGo src) s = .next v))
    ∧ (s.mrn.inj.active = true → fld s Reg.mcInj Fld.mcInjWave = 2
          ∨ (fld s Reg.mcInj Fld.mcInjWave = 1 ∧ fld s Reg.mcInjdur Fld.mcInjdurDur ≠ 0)
          ∨ (fld s Reg.mcInj Fld.mcInjWave = 3 ∧ 32767 ≤ s.mrn.inj.bits) → exec .injectionEnd s
      = .next { s with mrn := { s.mrn with inj := { s.mrn.inj with active := false } } })
    ∧ (srcMay src [capLoop s / 4] s = true → ∃ u : State, exec (.mcCapArm src) s = .next u ∧ u.mrn.capArmed = true ∧ u.mrn.capCount = 0
      ∧ fld u Reg.mcCap Fld.mcCapDone = 0)
    ∧ ((tpOf s (loopT l)).mot.st = .running → (tpOf s (loopT l)).mot.accel = 0 →
      (tpOf s (loopT l)).wl.wen = false ∨ (l.val % 4 = 2 ∧ rcMode s (loopT l) = 2) →
      (getLoop s l).hasProg = true → (getLoop s l).mode ≠ .fault → s.mrn.tune = none → ∃ u : State,
        exec (.autotune l) s = .next u ∧ u.mrn.tune = some ⟨l, 0, 1⟩ ∧ u.mrn.capArmed = true ∧ u.mrn.capCount = 0
          ∧ fld u Reg.mcCap Fld.mcCapLoop = l.val)
    ∧ (s.mrn.tune = some k → k.l < 32 → ∃ u : State, exec .autotuneAbort s = .next u ∧ u.mrn.tune = none ∧ u.mrn.capArmed = false
      ∧ fld u (Reg.mcLctl (k.l / 4) (k.l % 4)) Fld.mcLctlMode = 1 ∧ u.tp = s.tp)

/-! ### The codec array (06) -/

/-- COMP_JOB_DISPATCH (R23, R159-R161, R176, R180). A retired or busy engine takes no job, nor one on which the context's job was
abandoned or that another free engine last ran; the arbiter names a requester that has a job, and that requester alone is served. A
write stream's job is its pending input of at most 262,144 bytes, under the open dataset's space; an EXPAND's is its piece, and one of
length 0 ends at once; an offload entry's is its next piece, and an invalid entry completes REJECTED. Compression and decompression
sharing one turn and one credit is the model's choice (log entry 41).
Engines and idle history (R161, R169, R181). A fault abandons the job, which goes back to the front of the EXPANDs and to another
engine; RETIRED is firmware's, and a host's write of it is ignored and logged; an idle write stream's history goes, but not with
HIDLE 0. -/
def Obligations.JobsAndEngines : Prop :=
  ((∀ (r : JobReq) (e : Fin 64) (s : State),
      let cz := decide (e.val < 32)
      (s.codec.retired.get 0 e.val = 1 ∨ (engOf s e.val).job.isSome = true →
        exec (.compJobDispatch r e) s = .next (settleHost s))
      ∧ (∀ k, jobScid s cz r = some k → (s.codec.avoid.get 0 k = e.val + 1
            ∨ ∃ p, s.codec.ranOn.get 0 k = p + 1 ∧ p ≠ e.val ∧ s.codec.avoid.get 0 k ≠ p + 1 ∧ (p < 32 ↔ e.val < 32) ∧ engFree s p = true) →
        exec (.compJobDispatch r e) s = .next (settleHost s))
      ∧ (∀ q credit j n, engFree s e.val = true → drrPick s cz drrTurns s.codec.turn s.codec.credit = some (q, credit) →
        nextJob s cz q = some (j, n) →
        let v : State := { s with codec := { s.codec with turn := q, credit := credit } }
        (j ≠ r → exec (.compJobDispatch r e) s = .next (settleHost s))
        ∧ (∀ scid x, j = r → r = .write scid → engineFor s scid.toNat e.val = true → streamOf s scid.toNat = some x →
          ∃ (u : State) (k : Job),
          exec (.compJobDispatch r e) s = .next (settleHost u) ∧ u.codec.turn = q ∧ u.codec.credit = credit
            ∧ (engOf u e.val).job = some k ∧ k.scid = scid ∧ k.t = some x.t ∧ k.entry = none
            ∧ k.inLen = jobSize s scid x ∧ k.inLen ≤ 262144 ∧ k.limit = jobSpace s scid x)
        ∧ (∀ t k d, j = r → r = .expand t → nextExpand s t.val = some (k, d) → engineFor s (expScid d) e.val = true →
          (fieldB d 128 32 = 0 → exec (.compJobDispatch r e) s = .next (settleHost (zeroExpand t k (expScid d) v)))
          ∧ (fieldB d 128 32 ≠ 0 → ∃ (u : State) (b : Job), exec (.compJobDispatch r e) s = .next (settleHost u)
            ∧ (engOf u e.val).job = some b ∧ b.scid.toNat = expScid d ∧ b.t = some t.val ∧ b.expand = some k ∧ b.entry = none
            ∧ b.inTok = d.extractLsb' 64 32 ∧ b.inLen = fieldB d 128 32 ∧ b.outTok = d.extractLsb' 96 32 ∧ b.limit ≤ tokSize s b.outTok
            ∧ (fieldB d 160 32 ≠ 0 → b.limit ≤ fieldB d 160 32) ∧ (t.val, k) ∉ u.codec.expands))
        ∧ (∀ i fresh, j = r → r = .offload → nextOffload s cz = some (i, fresh) → engineFor s (offCtx i) e.val = true →
          (offValid s i = false → ∃ u, exec (.compJobDispatch r e) s = .next (settleHost (offAdvance (offFinish i 0x01 0 0 0 u)))
            ∧ u.codec.eng = s.codec.eng)
          ∧ (offValid s i = true → ∃ (u : State) (b : Job), exec (.compJobDispatch r e) s = .next (settleHost u)
            ∧ (engOf u e.val).job = some b ∧ b.scid.toNat = offCtx i ∧ b.entry = some i ∧ b.t = none ∧ b.inLen = offPiece s i))))
    ∧ ∀ (s : State) (cz : Bool) (fuel r q : Nat) (credit credit' : SMap Nat), r < 9 →
      drrPick s cz fuel r credit = some (q, credit') → q < 9 ∧ ∃ j, nextJob s cz q = some j)
  ∧ (∀ (e : Fin 64) (ep : Fin 4) (b : Bool) (scid : BitVec 16) (s : State),
      ((engOf s e.val).job = none → exec (.codecEngineFault e) s = .next (settleHost s))
      ∧ (∀ j, (engOf s e.val).job = some j → ∃ u, exec (.codecEngineFault e) s
          = .next (settleHost (faultEvent (if e.val < 32 then unitId 2 e.val else unitId 3 (e.val - 32)) 0 0 u))
          ∧ (engOf u e.val).job = none ∧ u.codec.ctx = s.codec.ctx ∧ u.codec.avoid.get 0 j.scid.toNat = e.val + 1
          ∧ ∀ t k, j.t = some t → j.expand = some k → u.codec.expands = (t, k) :: s.codec.expands)
      ∧ (romHeld (.host ep) s = false →
        exec (.codecEngRetire (.host ep) e b) s = .next (settleHost (logAccess (Reg.codecEng e.val) (wakeUp s))))
      ∧ (s.codec.retired.get 0 e.val ≠ 1 → exec (.codecEngRetire .puppeteer e false) s = .next (settleHost s))
      ∧ (s.codec.retired.get 0 e.val ≠ 1 → ∃ u, exec (.codecEngRetire .puppeteer e true) s = .next (settleHost u)
          ∧ u.codec.retired.get 0 e.val = 1 ∧ (engOf u e.val).job = none)
      ∧ (s.codec.retired.get 0 e.val = 1 → ∃ u, exec (.codecEngRetire .puppeteer e false) s = .next (settleHost u)
          ∧ u.codec.retired.get 0 e.val = 0 ∧ u.codec.eng = s.codec.eng)
      ∧ (fld s Reg.czHidle Fld.czHidleMs = 0 → exec (.historyIdleRelease scid) s = .next s)
      ∧ (fld s Reg.czHidle Fld.czHidleMs ≠ 0 → (ctxOf s scid.toNat).hvalid = true → (ctxOf s scid.toNat).dir = false →
        ctxRunning s scid.toNat = false → ∃ u, exec (.historyIdleRelease scid) s = .next u
          ∧ (ctxOf u scid.toNat).hvalid = false ∧ (ctxOf u scid.toNat).toks = []))

/-- COMP_JOB_STOP (R165, R170, R174, R179). No job, nothing happens; an invalid context field stops the job with nothing done;
else the engine is free with what the pieces of the job gave, and what was consumed leaves the fill; under automatic choice a
block takes the smallest coding, ties to stored and then static, and a record of length 0 is static; a piece of an offload entry
adds its bytes at DST and its counts, and the last one completes it, OK or NEED_OUTPUT. EXPAND_JOB_STOP (R176-R179): the job's
completion carries the status of R178 and its bytes, and a stop that discards the record drops the history; an offload entry ends
with the status of why its decoder stopped, or goes on where its output has room. A byte is looked at against the room and the
ratio guard before it is produced; the trailer is checked at the record's end. That a write stream's invalid context waits, since
no port carries its REJECTED, is the model's choice (log entry 40). -/
def Obligations.CodecStops : Prop :=
  ((∀ (e : Fin 32) (l : List Coding) (j : Job) (s : State),
      let c := ctxOf s j.scid.toNat
      ((engOf s e.val).job = none → exec (.compJobStop e l) s = .next (settleHost s))
      ∧ (∀ t x, (engOf s e.val).job = some j → j.entry = none → j.t = some t → streamOf s j.scid.toNat = some x →
        (ctxValid c = false → ∃ u, exec (.compJobStop e l) s = .next (settleHost u) ∧ (engOf u e.val).job = none
          ∧ u.codec.parked = s.codec.parked ++ [j.scid] ∧ u.codec.ctx = s.codec.ctx ∧ u.tp = s.tp)
        ∧ (∀ a v, ctxValid c = true →
          piecesDone (tid t) j (engOf s e.val).reach (jobPieces (uncoded x) j.inLen) l j.limit ⟨0, 0, 0, 0, 0, false⟩ s = some (a, v) →
          ∃ u, exec (.compJobStop e l) s = .next (settleHost u) ∧ (engOf u e.val).job = none
            ∧ (tpOf u (tid t)).yoyo.hostBytes = (tpOf v (tid t)).yoyo.hostBytes - a.used))
      ∧ (∀ i, (engOf s e.val).job = some j → j.entry = some i →
        let at' := offField s i 8 8 + c.rin
        let input := s.hostMem.read 0 at' j.inLen
        let back := min c.rin (2 ^ c.winlog.toNat)
        let x := l.headD ⟨[], [], [], [], []⟩
        codingFits c false (engOf s e.val).reach ((s.hostMem.read 0 (at' - back) back).reverse.map (fun b => (b, false)))
            (input.map (fun b => (b, false))) x = true →
        let o := codePiece c j.limit (if j.fin then .final else .inside) false x input
        let n := wholeBytes (8 * j.limit) o
        (o.space = true ∨ j.fin = true → ∃ u, exec (.compJobStop e l) s = .next (settleHost (offAdvance
            (offFinish i (if o.space then 0x14 else 0x00) (c.rin + o.used) (c.rout + n) (crcMore c.rcrc (input.take o.used)) u)))
          ∧ (engOf u e.val).job = none ∧ u.hostMem = (hostWrite (offField s i 0x10 8 + c.rout) (packBits n o.bits) s).hostMem)
        ∧ (o.space = false → j.fin = false → ∃ u, exec (.compJobStop e l) s = .next (settleHost u)
          ∧ (engOf u e.val).job = none ∧ u.hostMem = (hostWrite (offField s i 0x10 8 + c.rout) (packBits n o.bits) s).hostMem
          ∧ (ctxOf u j.scid.toNat).rin = c.rin + o.used ∧ (ctxOf u j.scid.toNat).rout = c.rout + n
          ∧ (ctxOf u j.scid.toNat).rcrc = crcMore c.rcrc (input.take o.used))))
    ∧ ∀ stored static dyn : Nat,
      (blockCoding 0 false stored static dyn = 1 ↔ stored ≤ static ∧ stored ≤ dyn)
      ∧ (blockCoding 0 false stored static dyn = 2 ↔ ¬(stored ≤ static ∧ stored ≤ dyn) ∧ static ≤ dyn)
      ∧ (blockCoding 0 false stored static dyn = 3 ↔ dyn < stored ∧ dyn < static)
      ∧ ∀ k, blockCoding k true stored static dyn = 2 ∧ (k ≠ 0 → blockCoding k false stored static dyn = k))
  ∧ (∀ (e : Fin 32) (j : Job) (s : State),
      let v := modEng (32 + e.val) (fun x => { x with job := none }) s
      ((engOf s (32 + e.val)).job = none → exec (.expandJobStop e ()) s = .next (settleHost s))
      ∧ (∀ t k, (engOf s (32 + e.val)).job = some j → j.entry = none → j.t = some t → j.expand = some k →
        let q := expandHeader j (demandRead (tokAddr v j.inTok) j.inLen v).2
        let c := ctxOf q.2 j.scid.toNat
        let r := expandRun q.2 j
        let lim := ((expandDesc q.2 (tid t).val k).map (fun d => fieldB d 160 32)).getD 0
        let st := (expandStatus c lim (cleanBytes q.2 (tokAddr q.2 j.inTok) j.inLen == j.inLen) r.1 r.2).1
        (∀ y, q.1 = some y → ∃ u, exec (.expandJobStop e ()) s = .next (settleHost (freeEngine (32 + e.val) j 0 (finish (tid t) 0 k y 0 u)))
          ∧ (y ≠ 0x13 → (ctxOf u j.scid.toNat).hvalid = false ∧ (ctxOf u j.scid.toNat).toks = []))
        ∧ (q.1 = none → ∃ u, exec (.expandJobStop e ()) s
            = .next (settleHost (freeEngine (32 + e.val) j 0 (finish (tid t) 0 k st (BitVec.ofNat 32 r.1.out.length) u)))
          ∧ (st = 0x00 → (ctxOf u j.scid.toNat).inrec = false ∧ (ctxOf u j.scid.toNat).hvalid = true)
          ∧ (st = 0x14 ∨ st = 0x15 → (ctxOf u j.scid.toNat).inrec = true
            ∧ (ctxOf u j.scid.toNat).rcrc = crcMore c.rcrc r.1.out.reverse)
          ∧ (discardsRecord st = true → (ctxOf u j.scid.toNat).inrec = false ∧ (ctxOf u j.scid.toNat).hvalid = false
            ∧ (ctxOf u j.scid.toNat).toks = [])))
      ∧ (∀ i, (engOf s (32 + e.val)).job = some j → j.entry = some i →
        let c := ctxOf v j.scid.toNat
        let r := offloadRun v i j
        let used := ceilDiv r.1.d.bits 8
        ∃ u, u.hostMem = (hostWrite (offField v i 0x10 8 + c.dec.out) r.1.out.reverse v).hostMem
          ∧ let st : BitVec 8 := match r.2 with
              | .guard => 0x07
              | .ended => if used = offField u i 0x18 4 then 0x00 else 0x10
              | .bad => 0x10
              | .input => 0x15
              | .output => 0x14
            exec (.expandJobStop e ()) s = .next (settleHost (freeEngine (32 + e.val) j 0
              (if r.2 = .output ∧ r.1.d.out < offField u i 0x1C 4 then u
              else offAdvance (offFinish i st used r.1.d.out (crcMore c.rcrc r.1.out.reverse) u))))))
  ∧ ((∀ (c : Ctx) (lim : Nat) (clean : Bool) (r : DecRun),
      expandStatus c lim clean r .input = (if clean then 0x15 else 0x04, false)
      ∧ expandStatus c lim clean r .output = (if lim ≠ 0 ∧ lim ≤ r.n then 0x07 else 0x14, false)
      ∧ expandStatus c lim clean r .guard = (0x07, true)
      ∧ expandStatus c lim clean r .bad = (0x10, false)
      ∧ (clean = true → r.bits = [] → leAt r.d.trl 12 4 = (crc32c (r.d.trl.take 12)).toNat →
        (r.d.out ≠ c.dOlen.toNat ∨ ceilDiv r.d.bits 8 ≠ leAt r.d.trl 0 8 → expandStatus c lim clean r .ended = (0x12, false))
        ∧ (r.d.out = c.dOlen.toNat → ceilDiv r.d.bits 8 = leAt r.d.trl 0 8 →
          ((crcMore c.rcrc r.out.reverse).toNat = leAt r.d.trl 8 4 → expandStatus c lim clean r .ended = (0x00, false))
          ∧ ((crcMore c.rcrc r.out.reverse).toNat ≠ leAt r.d.trl 8 4 → expandStatus c lim clean r .ended = (0x11, false))))
      ∧ (clean = false ∨ r.bits ≠ [] ∨ leAt r.d.trl 12 4 ≠ (crc32c (r.d.trl.take 12)).toNat →
        expandStatus c lim clean r .ended = (0x10, false)))
    ∧ ∀ (e : DecEnv) (r : DecRun) (b : Byte),
      (e.room ≤ r.n → putByte e r b = .inr .output)
      ∧ (r.n < e.room → e.guard * ceilDiv r.d.bits 8 < r.d.out + 1 → putByte e r b = .inr .guard)
      ∧ (r.n < e.room → r.d.out + 1 ≤ e.guard * ceilDiv r.d.bits 8 → ∃ q, putByte e r b = .inl q ∧ q.out = b :: r.out
        ∧ q.n = r.n + 1 ∧ q.d.out = r.d.out + 1 ∧ q.bits = r.bits))

/-- COMP.DRAIN and COMP.EXPAND (R47, R172, R175, R176): a drain of all streams stands until they reach their points and then
completes with the bytes it released; a stream that is not a read stream of the slice is rejected; an EXPAND waits for an engine,
and one of length 0 with nothing of its stream before it ends at once. The offload ring's registers (R179, R180): a TAIL at most
the ring ahead of HEAD is taken, one further ahead ignored and logged; EN is written, and SIZE only while EN is 0 and within 4 to
16. REPLACE_DISCARD (R257): the assembler takes the discard when no job of the stream runs; a sealed record at or after STARTSEQ,
or a STARTSEQ below the lowest unsealed one, ends the command SEALED without effect; else the new records follow from STARTSEQ. -/
def Obligations.CodecDescriptors : Prop :=
  (∀ (t : Tid) (y : Slot) (s : State),
      (HeadIs t 0 1 y s → descArg y.desc = 0xFFFFFFFF → descFits y.desc 0xFFFFFFFF 0 0 0 = true → ∃ (u : State) (d : Drain),
        exec (.compDrain t) s = .next (settleHost (takeDesc t 0 y.ticket u)) ∧ u.codec.drains = s.codec.drains ++ [d]
          ∧ d.t = t.val ∧ d.ticket = some y.ticket ∧ d.bytes = 0)
      ∧ (∀ d k, s.codec.drains.find? (fun d => d.t == t.val && d.ticket.isSome && d.scids.isEmpty) = some d → d.ticket = some k →
        exec (.drainComplete t) s = .next (settleHost (finish t 0 k 0x00 (BitVec.ofNat 32 d.bytes)
          { s with codec := { s.codec with drains := s.codec.drains.erase d } })))
      ∧ ((∀ d ∈ s.codec.drains, d.t = t.val → d.ticket.isSome = true → d.scids ≠ []) →
        exec (.drainComplete t) s = .next (settleHost s))
      ∧ (HeadIs t 0 2 y s → streamOf s (descArg y.desc) = none →
        exec (.compExpand t) s = .next (settleHost (finish t 0 y.ticket 0x01 0 s)))
      ∧ (∀ x, HeadIs t 0 2 y s → descFits y.desc 0xFFFFFFFF (~~~0) (~~~0) 0 = true → streamOf s (descArg y.desc) = some x →
        x.read = true → x.t = t.val → descArg y.desc < 40960 → fieldB y.desc 128 32 ≠ 0 →
        tokenHeld s (4 + t.val) (y.desc.extractLsb' 64 32) = true → tokenHeld s (4 + t.val) (y.desc.extractLsb' 96 32) = true →
        fieldB y.desc 128 32 ≤ tokSize s (y.desc.extractLsb' 64 32) →
        ∃ u, exec (.compExpand t) s = .next (settleHost u) ∧ u.codec.expands = s.codec.expands ++ [(t.val, y.ticket)])
      ∧ (∀ x, HeadIs t 0 2 y s → descFits y.desc 0xFFFFFFFF (~~~0) (~~~0) 0 = true → streamOf s (descArg y.desc) = some x →
        x.read = true → x.t = t.val → descArg y.desc < 40960 → fieldB y.desc 128 32 = 0 → ctxRunning s (descArg y.desc) = false →
        s.codec.expands = [] →
        exec (.compExpand t) s = .next (settleHost (zeroExpand t y.ticket (descArg y.desc) (takeDesc t 0 y.ticket s)))))
  ∧ (∀ (src : Src) (tail : BitVec 16) (cfg : W32) (s : State), romHeld src s = false →
      let w := hostWakes src s
      let ahead := (tail.toNat + 65536 - fld w Reg.codecOqhead Fld.codecOqheadHead) % 65536
      (ahead ≤ offSize w → exec (.offloadSubmit src tail) s
        = .next (setFld Reg.codecOqtail Fld.codecOqtailTail tail.toNat { w with codec := { w.codec with offTail := tail.toNat } }))
      ∧ (offSize w < ahead → exec (.offloadSubmit src tail) s = .next (logAccess Reg.codecOqtail w))
      ∧ ∃ u, exec (.offloadEnable src cfg) s = .next u ∧ fld u Reg.codecOqcfg Fld.codecOqcfgEn = cfg.toNat % 2
          ∧ fld u Reg.codecOqcfg Fld.codecOqcfgVector = cfg.toNat / 2 ^ 16 % 2 ^ 11
          ∧ (fld w Reg.codecOqcfg Fld.codecOqcfgEn = 0 → 4 ≤ cfg.toNat / 2 % 32 → cfg.toNat / 2 % 32 ≤ 16 →
            fld u Reg.codecOqcfg Fld.codecOqcfgSize = cfg.toNat / 2 % 32)
          ∧ (fld w Reg.codecOqcfg Fld.codecOqcfgEn = 1 →
            fld u Reg.codecOqcfg Fld.codecOqcfgSize = fld w Reg.codecOqcfg Fld.codecOqcfgSize))
  ∧ (∀ (scid : BitVec 16) (x : Stream) (c : Cmd) (s : State),
      (streamOf s scid.toNat = none → exec (.replaceDiscard scid) s = .next (settleHost s))
      ∧ (streamOf s scid.toNat = some x → (cmdsOf s scid).find? (fun c => !c.active) = some c →
        c.e.opc = 0x12 → csBit0 c.e = true → hasTurn s x c = true →
        let q : W32 := BitVec.ofNat 32 (csField c.e 0x1C 4)
        (ctxRunning s scid.toNat = true → exec (.replaceDiscard scid) s = .next (settleHost s))
        ∧ (ctxRunning s scid.toNat = false → q.toNat ≤ x.next.toNat →
          ((q.toNat < x.unsealed.toNat ∨ ∃ r ∈ x.recs, r.sealed = true ∧ q.toNat ≤ r.seq.toNat) →
            exec (.replaceDiscard scid) s = .next (settleHost (endCmd c.e.tag 0x28 0 0x1C s)))
          ∧ (x.unsealed.toNat ≤ q.toNat → (∀ r ∈ x.recs, r.sealed = true → r.seq.toNat < q.toNat) →
            newRecs s c q = none → exec (.replaceDiscard scid) s = .next (settleHost (endCmd c.e.tag 0x01 0 0x08 s)))
          ∧ (∀ l, x.unsealed.toNat ≤ q.toNat → (∀ r ∈ x.recs, r.sealed = true → r.seq.toNat < q.toNat) →
            newRecs s c q = some l →
              exec (.replaceDiscard scid) s = .next (settleHost (appendRecs c l (discardFrom scid q s)))))))

/-! ### The host interface (09) -/

/-- What a fetched entry meets first (R250, R252-R254, R362): a tag in use, an unnegotiated queue, an undefined opcode, a bad field,
no stream, another queue than the stream's. A queue that is not to be fetched from gives no command. NEGOTIATE (R250): the
highest version of 1.0, 1.1 and 2.0 in the range; BUSY with another command of the queue outstanding; VERSION with none in the
range, and the queue stays as it is. -/
def Obligations.FetchChecks : Prop :=
  (∀ (opc : Nat) (q : Fin 1024) (e : Entry) (c : Instr) (s : State), hostRow opc q e = some c →
      let h := headTaken q e s
      let u := fetched q e s
      (canFetch s q.val = false → exec c s = .next (settleHost s))
      ∧ (canFetch s q.val = true → (e.opc.toNat = opc ∨ knownOpc e.opc.toNat = false) →
        (tagInUse h e.tag = true → exec c s = .next (settleHost
          (makeReady q.val ⟨e.tag, 0x23, 0, false⟩ (logCommandError q.val e 0x23 2 (hifError Fld.hifErrTagdup q.val h)))))
        ∧ (tagInUse h e.tag = false → (queueOf h q.val).neg = false → e.opc ≠ 0 → e.opc ≠ 1 →
          exec c s = .next (settleHost (endCmd e.tag 0x21 0 0xFFFF u)))
        ∧ (tagInUse h e.tag = false → (queueOf h q.val).neg = true → knownOpc e.opc.toNat = false →
          exec c s = .next (settleHost (endCmd e.tag 0x20 0 0 u)))
        ∧ (∀ o, tagInUse h e.tag = false → ((queueOf h q.val).neg = true ∨ e.opc = 0 ∨ e.opc = 1) → knownOpc e.opc.toNat = true →
          fieldError e = some o → exec c s = .next (settleHost (endCmd e.tag 0x01 0 o u))))
      ∧ (Accepted q e s → e.opc.toNat = opc → 0x11 ≤ opc → opc ≤ 0x16 →
        (streamOf u e.scid.toNat = none → exec c s = .next (settleHost (endCmd e.tag 0x25 0 4 u)))
        ∧ (∀ x, streamOf u e.scid.toNat = some x → x.queue ≠ q.val →
          exec c s = .next (settleHost (endCmd e.tag 0x26 0 4 u)))))
  ∧ (∀ (q : Fin 1024) (e : Entry) (s : State), Accepted q e s → e.opc = 0 →
      let u := fetched q e s
      let lo := csField e 0x18 2
      let hi := csField e 0x1A 2
      let alone := (∀ c ∈ u.hif.cmds, c.queue = q.val → c.e.tag = e.tag) ∧ ∀ r ∈ (queueOf u q.val).ready, r.own = false
      let picked (v : Nat) (w : W64) : Prop := exec (.negotiate q e) s = .next (settleHost (settleHost
        (endCmd e.tag 0 w 0xFFFF (modQueue q.val (fun x => { x with neg := true, ver := v }) u))))
      (¬alone → exec (.negotiate q e) s = .next (settleHost (settleHost (endCmd e.tag 0x39 0 0xFFFF u))))
      ∧ (alone → lo ≤ 0x200 → 0x200 ≤ hi → picked 2 0x200)
      ∧ (alone → lo ≤ 0x101 → 0x101 ≤ hi → hi < 0x200 → picked 1 0x101)
      ∧ (alone → lo ≤ 0x100 → 0x100 ≤ hi → hi < 0x101 → picked 0 0x100)
      ∧ (alone → (hi < 0x100 ∨ 0x200 < lo ∨ (0x100 < lo ∧ hi < 0x101) ∨ (0x101 < lo ∧ hi < 0x200)) →
        exec (.negotiate q e) s = .next (settleHost (settleHost (endCmd e.tag 0x22 0 0x18 u)))))

/-- IDENTIFY and GET_LOG write their data at DPTR and end OK (R274, R275): 4,096 bytes; DLEN bytes of the page, zero beyond its end.
SET_FEATURE (R276): the settings that stand in registers are written, and RESULT returns the previous value. ABORT (R270, R271):
a QUEUED target ends ABORTED; a tag not outstanding on TQUEUE answers NO_SUCH_TAG, one that has ended ABORT_TOO_LATE; FLUSH and
COMMIT stop waiting; what R271 does not list is NOT_ABORTABLE. Self-tests (R272, R273): one at a time; a segment that ends leads
to the next; a failure ends the test; a fetched command suspends it, and it resumes. -/
def Obligations.AdministrativeCommands : Prop :=
  (∀ (q : Fin 1024) (e : Entry) (s : State), Accepted q e s → entrySgl e = false →
      let u := fetched q e s
      (e.opc = 1 → exec (.identify q e) s = .next (settleHost (settleHost (endCmd e.tag 0 0 0xFFFF
          (hostWrite e.dptr.toNat (identBytes u (queueOwner u q.val)) u))))
        ∧ (identBytes u (queueOwner u q.val)).length = 4096)
      ∧ (∀ l, e.opc = 2 → logPage u (csByte e 0x18) = some l → ∃ b : List Byte,
          exec (.getLog q e) s = .next (settleHost (settleHost (endCmd e.tag 0 (BitVec.ofNat 64 e.dlen.toNat) 0xFFFF
            (hostWrite e.dptr.toNat b u))))
          ∧ b.length = e.dlen.toNat ∧ ∀ k, k < e.dlen.toNat → b[k]? = some ((l[csField e 0x1C 4 + k]?).getD 0)))
  ∧ (∀ (q : Fin 1024) (e : Entry) (s : State), Accepted q e s → e.opc = 3 → entrySgl e = false →
      let u := fetched q e s
      let v := csField e 0x20 8
      let n := csField e 0x1C 4
      let done (old : Nat) (w : State) : Prop :=
        exec (.setFeature q e) s = .next (settleHost (settleHost (endCmd e.tag 0 (BitVec.ofNat 64 old) 0xFFFF w)))
      (csByte e 0x18 = 2 → done
        (fld u Reg.hifPscfg Fld.hifPscfgIdle1 + 2 ^ 16 * fld u Reg.hifPscfg2 Fld.hifPscfg2Idle2 + 2 ^ 32 * fld u Reg.hifPscfg2 Fld.hifPscfg2Idle3)
        (setFld Reg.hifPscfg Fld.hifPscfgIdle1 (v % 2 ^ 16) (setFld Reg.hifPscfg2 Fld.hifPscfg2Idle2 (v / 2 ^ 16 % 2 ^ 16)
          (setFld Reg.hifPscfg2 Fld.hifPscfg2Idle3 (v / 2 ^ 32 % 2 ^ 16) u))))
      ∧ (∀ x, csByte e 0x18 = 3 → streamOf u n = some x → x.read = false → (v = 0 ∨ (queueOf u x.queue).ver ≠ 0) →
        done x.ledger.toNat (modStream n (fun x => { x with ledger := decide (v = 1) }) u))
      ∧ (csByte e 0x18 = 4 → queueOwner u n = queueOwner u q.val → done
        (fld u (Reg.hifQcoal n) Fld.hifQcoalCount + 2 ^ 8 * fld u (Reg.hifQcoal n) Fld.hifQcoalTime)
        (setFld (Reg.hifQcoal n) Fld.hifQcoalCount (v % 256) (setFld (Reg.hifQcoal n) Fld.hifQcoalTime (v / 256 % 2 ^ 16) u)))
      ∧ (csByte e 0x18 = 5 → done (fld u Reg.hifNotice Fld.hifNoticeQueue + 2 ^ 15 * fld u Reg.hifNotice Fld.hifNoticeEn)
        (setFld Reg.hifNotice Fld.hifNoticeQueue (v % 1024) (setFld Reg.hifNotice Fld.hifNoticeEn (v / 2 ^ 15 % 2) u)))
      ∧ (csByte e 0x18 = 6 → done (fld u Reg.hifStcfg Fld.hifStcfgResume) (setFld Reg.hifStcfg Fld.hifStcfgResume v u))
      ∧ (csByte e 0x18 = 7 → done 0 { u with hif := { u.hif with unver := [], unverGen := u.hif.unverGen + 1 } }))
  ∧ (∀ (q : Fin 1024) (e : Entry) (s : State), Accepted q e s → e.opc = 4 → entrySgl e = false →
      let u := fetched q e s
      let k := BitVec.ofNat 16 (csField e 0x18 2)
      let w := modCmd e.tag (fun x => { x with active := true }) u
      let ends (x : State) : Prop := exec (.abortCmd q e) s = .next (settleHost (settleHost x))
      (cmdOf u k = none → tagEnded u (csField e 0x1A 2) k = false → ends (endCmd e.tag 0x2F 0 0x18 u))
      ∧ (cmdOf u k = none → tagEnded u (csField e 0x1A 2) k = true → ends (endCmd e.tag 0x2E 0 0x18 u))
      ∧ (∀ y, cmdOf u k = some y → y.queue ≠ csField e 0x1A 2 → ends (endCmd e.tag 0x2F 0 0x18 u))
      ∧ (∀ y, cmdOf u k = some y → y.queue = csField e 0x1A 2 →
        (0x11 ≤ y.e.opc.toNat → y.e.opc.toNat ≤ 0x16 → y.active = false → ends (endCmd k 0x2D 0 0xFFFF w))
        ∧ (y.active = true → (y.e.opc = 0x14 ∨ y.e.opc = 0x15) → y.e.tag = k → ends (endCmd k 0x2D 0 0xFFFF w))
        ∧ (y.active = true → (y.e.opc = 0x08 ∨ y.e.opc = 0x11) → ends (endCmd e.tag 0x30 0 0xFFFF w))))
  ∧ (∀ (q : Fin 1024) (e : Entry) (x : STest) (s : State),
      (Accepted q e s → e.opc = 5 → entrySgl e = false →
        ((fetched q e s).hif.test = some x →
          exec (.selfTest q e) s = .next (settleHost (settleHost (endCmd e.tag 0x39 0 0xFFFF (fetched q e s)))))
        ∧ ((fetched q e s).hif.test = none → ∃ (u : State) (n : STest), exec (.selfTest q e) s = .next (settleHost (settleHost u))
          ∧ u.hif.test = some n ∧ n.typ = csByte e 0x18 ∧ n.seg = 1 ∧ n.susp = false ∧ n.fail = none ∧ n.tag = e.tag))
      ∧ (s.hif.test = none → exec .selfTestResume s = .next s)
      ∧ (s.hif.test = some x → x.susp = true →
        exec .selfTestResume s = .next { s with hif := { s.hif with test := some { x with susp := false } } })
      ∧ (s.hif.test = some x → x.susp = false → x.seg < (if x.typ = 2 then 7 else 5) →
        exec (.selfTestSegmentEnd none) s
          = .next (settleHost { s with hif := { s.hif with test := some { x with seg := x.seg + 1, suspN := 0 } } }))
      ∧ (∀ unit, s.hif.test = some x → x.susp = false → x.seg < 6 → x.queue.isSome = true → ∃ (u : State) (w : W64),
        exec (.selfTestSegmentEnd (some unit)) s = .next (settleHost (endCmd x.tag 0x3A w 0xFFFF u))
          ∧ u.hif.test = none ∧ w.toNat = unit.toNat + 2 ^ 16 * x.seg % 2 ^ 64))

/-- LOAD (R267): BUSY on a loaded transport; NOT_LOADED without a head module or a cartridge; an EVF-2 volume under HM-1 ends
FORMAT_UNSUPPORTED with MEDIA raised; otherwise the reels are tensioned and, on a cartridge with calibration regions, the read
channel goes to MODE 3 at pass 0, forward; on any other the transport is loaded. CALIBRATION_PASS_END (R148): the passes of a LOAD go
forward then reverse, band by band, each once the tape has passed LPOS 0-2,047; after the last the transport is loaded, with
MODE 2. UNLOAD, FORMAT_VOLUME and LOAD_PROGRAM (R88, R268, R269): the checks, and what they leave: after a FORMAT_VOLUME the calibration
region and the label stand first on wrap 0. -/
def Obligations.MediaCommands : Prop :=
  (∀ (q : Fin 1024) (e : Entry) (k : Cart) (s : State), Accepted q e s → e.opc = 8 → entrySgl e = false →
      let u := fetched q e s
      let t := tid (csByte e 0x18)
      ((tpOf u t).loaded = true → exec (.loadCmd q e) s = .next (settleHost (settleHost (endCmd e.tag 0x39 0 0xFFFF u))))
      ∧ ((tpOf u t).loaded = false → mediaBusy u t = false → ((tpOf u t).cart = none ∨ (tpOf u t).head.kind = 0) →
        exec (.loadCmd q e) s = .next (settleHost (settleHost (endCmd e.tag 0x29 0 0xFFFF u))))
      ∧ ((tpOf u t).loaded = false → mediaBusy u t = false → (tpOf u t).cart = some k →
        (k.evf2 = true → (tpOf u t).head.kind = 1 → exec (.loadCmd q e) s
          = .next (settleHost (settleHost (endCmd e.tag 0x3C 0 0xFFFF (setEvent t evMedia u)))))
        ∧ ((tpOf u t).head.kind ≠ 0 → (k.evf2 = false ∨ (tpOf u t).head.kind ≠ 1) → k.calRegion = true → ∃ w : State,
          exec (.loadCmd q e) s = .next (settleHost (settleHost w)) ∧ rcMode w t.val = 3
            ∧ fld w (Reg.rcCal t.val) Fld.rcCalPass = 0 ∧ fld w (Reg.rcCal t.val) Fld.rcCalDir = 0
            ∧ (tpOf w t).mot.st ≠ .released ∧ (tpOf w t).mot.tensOn = true)
        ∧ ((tpOf u t).head.kind ≠ 0 → (k.evf2 = false ∨ (tpOf u t).head.kind ≠ 1) → k.calRegion = false → ∃ w : State,
          exec (.loadCmd q e) s = .next (settleHost (settleHost w)) ∧ rcMode w t.val = 2 ∧ (tpOf w t).loaded = true)))
  ∧ (∀ (t : Tid) (band : Fin 4) (rev : Bool) (res : List CalLane) (s : State),
      (mediaBusy s t = false → exec (.calibrationPassEnd t band rev res) s = .next (settleHost s))
      ∧ (mediaBusy s t = true → rcMode s t.val = 3 → fld s (Reg.rcCal t.val) Fld.rcCalPass = band.val →
          fld s (Reg.rcCal t.val) Fld.rcCalDir = rev.toNat →
          (passOver s t rev = false → exec (.calibrationPassEnd t band rev res) s = .next (settleHost s))
          ∧ (passOver s t rev = true →
            ∃ w : State, exec (.calibrationPassEnd t band rev res) s = .next (settleHost w)
            ∧ (rev = false → fld w (Reg.rcCal t.val) Fld.rcCalPass = band.val ∧ fld w (Reg.rcCal t.val) Fld.rcCalDir = 1)
            ∧ (rev = true → band.val + 1 < (if (tpOf s t).head.kind = 2 then 4 else 2) →
              fld w (Reg.rcCal t.val) Fld.rcCalPass = band.val + 1 ∧ fld w (Reg.rcCal t.val) Fld.rcCalDir = 0)
            ∧ (rev = true → (if (tpOf s t).head.kind = 2 then 4 else 2) ≤ band.val + 1 → (tpOf s t).cart.isSome = true →
              rcMode w t.val = 2 ∧ (tpOf w t).loaded = true))))
  ∧ (∀ (q : Fin 1024) (e : Entry) (s : State), Accepted q e s → entrySgl e = false →
      let u := fetched q e s
      let t := tid (csByte e 0x18)
      let ends (c : Instr) (x : State) : Prop := exec c s = .next (settleHost (settleHost x))
      (e.opc = 9 → hasStreams u t = true → ends (.unload q e) (endCmd e.tag 0x2A 0 0xFFFF u))
      ∧ (e.opc = 9 → hasStreams u t = false → mediaBusy u t = false → (tpOf u t).loaded = true →
        (tpOf u t).mot.st ≠ .faulted → (tpOf u t).mot.st ≠ .stopping →
        ∃ w : State, ends (.unload q e) (endCmd e.tag 0 0 0xFFFF w) ∧ (tpOf w t).loaded = false ∧ (tpOf w t).mot.st = .released)
      ∧ (e.opc = 10 → (tpOf u t).loaded = false → ends (.formatVolume q e) (endCmd e.tag 0x29 0 0xFFFF u))
      ∧ (e.opc = 10 → (tpOf u t).loaded = true → hasStreams u t = true → ends (.formatVolume q e) (endCmd e.tag 0x2A 0 0xFFFF u))
      ∧ (e.opc = 10 → (tpOf u t).loaded = true → hasStreams u t = false → writeDisabled u t = false → (tpOf u t).seq.fmtid ≠ 0 →
        ∃ w : State, ends (.formatVolume q e) (endCmd e.tag 0 0 0xFFFF w) ∧ (tpOf w t).formatted = true
          ∧ (tpOf w t).idx.known = [] ∧ (tpOf w t).wl.lastDs = 1 ∧ rcMode w t.val = 2
          ∧ ∀ k, (tpOf u t).cart = some k → ∃ (k' : Cart) (a b : TapeItem) (l : List TapeItem), (tpOf w t).cart = some k'
            ∧ k'.calRegion = true ∧ k'.evf2 = decide ((tpOf u t).seq.fmtid = 2) ∧ k'.idxDs = 1 ∧ k'.tape = a :: b :: l
            ∧ a.mark = none ∧ a.dsnum = 0xFFFFFFFF ∧ a.wrap = 0 ∧ a.lpos = 0
            ∧ b.mark = none ∧ b.dsnum = 0 ∧ b.wrap = 0 ∧ b.lpos = 2048)
      ∧ (e.opc = 11 → ∀ l, l = u.hostMem.read 0 e.dptr.toNat e.dlen.toNat →
        let targets := (setBits 8 (csByte e 0x18)).map tid
        (imgProfile l = 1 → csByte e 0x18 ≠ 0 → ends (.loadProgram q e) (endCmd e.tag 0x01 0 0x18 u))
        ∧ ((imgProfile l ≠ 1 ∨ csByte e 0x18 = 0) →
          (imgError u l targets = none → ends (.loadProgram q e)
            (endCmd e.tag 0 0 0xFFFF (forAll targets startPending (installImage l targets u))))
          ∧ (∀ r t', imgError u l targets = some (r, some t') → ∃ w : State, ends (.loadProgram q e)
              (endCmd e.tag 0x33 (BitVec.ofNat 64 (r + 256 * t'.val)) 0xFFFF w) ∧ w.tp = u.tp))))

/-- OPEN_STREAM (R254): the first error that applies, in its order, or the stream is open, bound to the queue, with its codec
context and its first SEQ; the first stream of a transport starts its program. -/
def Obligations.OpenStreamResult : Prop :=
  ∀ (q : Fin 1024) (e : Entry) (s : State), Accepted q e s → e.opc = 0x10 → entrySgl e = false →
    let u := fetched q e s
    let b := csByte e
    let t := tid (b 0x18)
    let on := (openStreams u).filter (fun x => x.2.t == t.val)
    let ends (x : State) : Prop := exec (.openStream q e) s = .next (settleHost (settleHost x))
    ((streamOf u e.scid.toNat).isSome = true → ends (endCmd e.tag 0x24 0 0xFFFF u))
    ∧ (streamOf u e.scid.toNat = none → (tpOf u t).loaded = false → ends (endCmd e.tag 0x29 0 0xFFFF u))
    ∧ (streamOf u e.scid.toNat = none → (tpOf u t).loaded = true → (tpOf u t).formatted = false →
      ends (endCmd e.tag 0x37 0 0xFFFF u))
    ∧ (streamOf u e.scid.toNat = none → (tpOf u t).loaded = true → (tpOf u t).formatted = true → b 0x19 = 0 →
      ((∃ x ∈ on, x.2.read = true) → ends (endCmd e.tag 0x27 0 0xFFFF u))
      ∧ ((∀ x ∈ on, x.2.read = false) → writeDisabled u t = true → ends (endCmd e.tag 0x2B 0 0xFFFF u))
      ∧ ((∀ x ∈ on, x.2.read = false) → writeDisabled u t = false → b 0x1E = 1 → (queueOf u q.val).ver = 0 →
        ends (endCmd e.tag 0x22 0 0xFFFF u))
      ∧ ((∀ x ∈ on, x.2.read = false) → writeDisabled u t = false → (b 0x1E = 0 ∨ (queueOf u q.val).ver ≠ 0) →
        ∃ (w : State) (x : Stream), ends w ∧ streamOf w e.scid.toNat = some x ∧ x.t = t.val ∧ x.read = false ∧ x.queue = q.val
          ∧ x.ledger = decide (b 0x1E = 1) ∧ x.next = BitVec.ofNat 32 (csField e 0x20 4) ∧ x.recs = []
          ∧ (queueOf w q.val).ready = (queueOf u q.val).ready ++ [⟨e.tag, 0, 0, true⟩]))
    ∧ (streamOf u e.scid.toNat = none → (tpOf u t).loaded = true → (tpOf u t).formatted = true → b 0x19 = 1 →
      (on ≠ [] → ends (endCmd e.tag 0x27 0 0xFFFF u))
      ∧ (on = [] → (b 0x1A ≠ 0 ∨ b 0x1B ≠ 0 ∨ b 0x1C ≠ 0 ∨ b 0x1D ≠ 0) → ends (endCmd e.tag 0x01 0 0x1A u))
      ∧ (on = [] → b 0x1A = 0 → b 0x1B = 0 → b 0x1C = 0 → b 0x1D = 0 →
        ∃ (w : State) (x : Stream), ends w ∧ streamOf w e.scid.toNat = some x ∧ x.t = t.val ∧ x.read = true ∧ x.queue = q.val
          ∧ x.pos = none))

/-- The commands of an open stream on its queue are taken and wait for their turn (R252, R255, R256, R263-R266). What a stream
command's turn leads to (R254, R256, R263-R266): the direction it must have, a write-disabled transport, a stream without a
position, and a FLUSH or COMMIT that makes its point. When an ACTIVE stream command ends (R258, R266): FLUSH once every earlier
record is sealed; COMMIT without INDEX once every earlier record is verified; a WRITE-THROUGH WRITE_RECORDS once its records are
verified and indexed. -/
def Obligations.StreamCommands : Prop :=
  (∀ (q : Fin 1024) (e : Entry) (c : Instr) (x : Stream) (s : State), Accepted q e s →
      ((e.opc = 0x11 ∧ c = .closeStream q e) ∨ (e.opc = 0x12 ∧ c = .writeRecords q e) ∨ (e.opc = 0x13 ∧ c = .readRecords q e)
        ∨ (e.opc = 0x14 ∧ c = .flush q e) ∨ (e.opc = 0x15 ∧ c = .commit q e) ∨ (e.opc = 0x16 ∧ c = .locate q e)) →
      streamOf (fetched q e s) e.scid.toNat = some x → x.queue = q.val →
      exec c s = .next (settleHost (settleHost (modCmd e.tag (fun k => { k with wt := !x.ledger }) (fetched q e s)))))
  ∧ (∀ (c : Cmd) (x : Stream) (s : State), cmdOf s c.e.tag = some c → c.active = false → streamOf s c.e.scid.toNat = some x →
      hasTurn s x c = true →
      let ends (st : BitVec 8) (off : Nat) : Prop := turnOf c.e.tag s = endCmd c.e.tag st 0 off s
      (c.e.opc = 0x12 → x.read = true → ends 0x27 0xFFFF)
      ∧ (c.e.opc = 0x12 → x.read = false → writeDisabled s (tid x.t) = true → ends 0x2B 0xFFFF)
      ∧ (c.e.opc = 0x12 → x.read = false → writeDisabled s (tid x.t) = false → csBit0 c.e = false → sglDenied s c = false →
        ∀ l, newRecs s c x.next = some l → turnOf c.e.tag s = appendRecs c l s)
      ∧ (c.e.opc = 0x13 → x.read = true → x.pos = none → ends 0x38 0xFFFF)
      ∧ (c.e.opc = 0x14 ∨ c.e.opc = 0x15 → x.read = true → ends 0x27 0xFFFF)
      ∧ (c.e.opc = 0x14 → x.read = false → sglDenied s c = false → turnOf c.e.tag s
        = wakePause (tid x.t) (setEvent (tid x.t) evHostsync (flushPoint c.e.scid c.e.tag x
            (modCmd c.e.tag (fun k => { k with active := true, seqAt := x.next }) s))))
      ∧ (c.e.opc = 0x16 → x.read = false → ends 0x27 0xFFFF)
      ∧ (c.e.opc = 0x16 → x.read = true → locateGoalRec s (tid x.t) c.e = none → ends 0x06 0x20))
  ∧ (∀ (c : Cmd) (x : Stream) (s : State), cmdOf s c.e.tag = some c → c.active = true → streamOf s c.e.scid.toNat = some x →
      (c.e.opc = 0x14 → earlierOf s c = [] → (∀ r ∈ x.recs, r.seq.toNat < c.seqAt.toNat → r.sealed = true) →
        doneOf c.e.tag s = endCmd c.e.tag 0 0 0xFFFF s)
      ∧ (c.e.opc = 0x14 → (∃ r ∈ x.recs, r.seq.toNat < c.seqAt.toNat ∧ r.sealed = false) → (∀ r ∈ x.recs, r.unver = false) →
        doneOf c.e.tag s = s)
      ∧ (c.e.opc = 0x15 → csBit0 c.e = false → earlierOf s c = [] → (∀ r ∈ x.recs, r.unver = false) →
        ((∀ r ∈ x.recs, r.seq.toNat < c.seqAt.toNat → r.verified = true) →
          doneOf c.e.tag s = endCmd c.e.tag 0 (BitVec.ofNat 64 (tpOf s (tid x.t)).vfy.lastOk.toNat) 0xFFFF s)
        ∧ ((∃ r ∈ x.recs, r.seq.toNat < c.seqAt.toNat ∧ r.verified = false) → doneOf c.e.tag s = s))
      ∧ (c.e.opc = 0x12 → c.wt = true →
        ((∀ r ∈ cmdRecs x c, r.verified = true ∧ r.indexed = true) →
          doneOf c.e.tag s = endCmd c.e.tag 0 (writeResult c.first (cmdRecs x c).length false) 0xFFFF s)
        ∧ ((∃ r ∈ cmdRecs x c, r.verified = false ∨ r.indexed = false) → doneOf c.e.tag s = s)))

/-- LEDGER_POST (R259): the oldest ready command of a transport is posted with RESULT[48] = 1 and its charge debited when the
charge fits BUDGET; while it does not fit, nothing is posted. HOST_READ_DATA (R256): nothing arrives for a closed stream or one
that is fetching no record; else the bytes go behind those in the record's last buffer, or into the buffer given for its next
piece. With no command outstanding and no stream open, there is nothing for the host interface to move on. -/
def Obligations.LedgerAndData : Prop :=
  (∀ (t : Tid) (c : Cmd) (x : Stream) (s : State),
      s.hif.cmds.filter (fun c => c.ready.isSome && !c.wt && (match streamOf s c.e.scid.toNat with
        | some x => x.t == t.val
        | none => false)) = [c] → streamOf s c.e.scid.toNat = some x →
      let l := cmdRecs x c
      let charge := (l.map (fun r => r.charge)).foldl (· + ·) 0
      (budget s t.val < charge → exec (.ledgerPost t) s = .next (settleHost s))
      ∧ (charge ≤ budget s t.val → ∃ u : State,
        exec (.ledgerPost t) s = .next (settleHost (endCmd c.e.tag 0 (writeResult c.first l.length true) 0xFFFF u))
          ∧ u.hif.cmds = s.hif.cmds ∧ u.hif.q = s.hif.q ∧ u.tp = s.tp ∧ u.mem = s.mem))
  ∧ (∀ (scid : BitVec 16) (len : Nat) (x : Stream) (r : Rec) (c : Cmd) (k : W32) (m : Nat) (s : State),
      (streamOf s scid.toNat = none → exec (.hostReadData scid len) s = .next (settleHost s))
      ∧ (streamOf s scid.toNat = some x → fetching s x = none → exec (.hostReadData scid len) s = .next (settleHost s))
      ∧ (streamOf s scid.toNat = some x → fetching s x = some (r, c) → entrySgl c.e = false → r.bufs = [(k, m)] →
        r.got % 2 ^ 20 ≠ 0 → m < tokSize s k → ∃ u : State,
          let n := min (min len (min (r.len - r.got) (2 ^ 20 - r.got % 2 ^ 20))) (tokSize s k - m)
          exec (.hostReadData scid len) s = .next (settleHost (settleHost u))
            ∧ u.mem = (bufPut k m (s.hostMem.read 0 (r.addr.toNat + r.got) n) s).mem)
      ∧ (∀ g, streamOf s scid.toNat = some x → fetching s x = some (r, c) → entrySgl c.e = false → r.got % 2 ^ 20 = 0 →
        s.tbx.given.find? (fun g => g.1 == 0 && g.2.1 == 0 && g.2.2.1 == 0x00 && tokenHeld s 0 g.2.2.2) = some g → ∃ u : State,
          let n := min (min len (min (r.len - r.got) (2 ^ 20))) (tokSize s g.2.2.2)
          exec (.hostReadData scid len) s = .next (settleHost (settleHost u))
            ∧ u.mem = (bufPut g.2.2.2 0 (s.hostMem.read 0 (r.addr.toNat + r.got) n) s).mem ∧ u.tbx.given = s.tbx.given.erase g))
  ∧ (∀ s : State, s.hif.cmds = [] → openStreams s = [] → settleHost s = s)

/-- COMPLETION_POST (R247, R248): the oldest ready completion of a queue with room is written at its tail, 16 bytes, and counted; a
full queue keeps it waiting. The end of a command (R248, R252, R275): it is outstanding no longer, its completion is the latest
ready one of its queue, unless an FLR or link-down disabled the queue (R243), and a status other than OK enters log page 0x01
first. -/
def Obligations.CompletionsPosted : Prop :=
  (∀ (q : Fin 1024) (c : Cpl) (l : List Cpl) (s : State),
      ((queueOf s q.val).ready = [] → exec (.completionPost q) s = .next (settleHost s))
      ∧ ((queueOf s q.val).ready = c :: l → cqRoom s q.val = false → exec (.completionPost q) s = .next (settleHost s))
      ∧ ((queueOf s q.val).ready = c :: l → cqRoom s q.val = true → ∃ u : State,
          exec (.completionPost q) s = .next (settleHost (settleHost u))
            ∧ (queueOf u q.val).ready = l ∧ (queueOf u q.val).cqUsed = (queueOf s q.val).cqUsed + 1
            ∧ (queueOf u q.val).tags = (queueOf s q.val).tags ++ [if c.own then some c.tag else none]
            ∧ u.tp = s.tp ∧ u.mem = s.mem ∧ u.hif.cmds = s.hif.cmds ∧ (∀ n, n ≠ q.val → queueOf u n = queueOf s n)
            ∧ let a := pair s (Reg.hifCqbase q.val 0) (Reg.hifCqbase q.val 1) + 16 * (queueOf s q.val).cqTail
              (∀ k, (k < a ∨ a + 16 ≤ k) → u.hostMem.get 0 k = s.hostMem.get 0 k)
              ∧ u.hostMem.get 0 (a + 6) = c.status
              ∧ u.hostMem.get 0 (a + 7) = BitVec.ofNat 8 (queueOf s q.val).phase.toNat
              ∧ memLe u.hostMem a 2 = c.tag.toNat ∧ memLe u.hostMem (a + 8) 8 = c.result.toNat))
  ∧ (∀ (tag : BitVec 16) (st : BitVec 8) (res : W64) (off : Nat) (c : Cmd) (s : State), cmdOf s tag = some c →
      let u := endCmd tag st res off s
      (∀ k, k ∈ u.hif.cmds ↔ k ∈ s.hif.cmds ∧ k.e.tag ≠ tag)
      ∧ (queueOf u c.queue).ready = (queueOf s c.queue).ready ++ (if c.dead then [] else [⟨tag, st, res, true⟩])
      ∧ (∀ n, n ≠ c.queue → queueOf u n = queueOf s n)
      ∧ (st = 0 → u.hif.errs = s.hif.errs)
      ∧ (st ≠ 0 → ∃ x, u.hif.errs = (x :: s.hif.errs).take 256 ∧ leAt x 8 2 = c.queue % 65536 ∧ leAt x 10 2 = c.e.tag.toNat
          ∧ leAt x 12 1 = c.e.opc.toNat ∧ leAt x 13 1 = st.toNat ∧ leAt x 14 2 = off % 65536)
      ∧ u.tp = s.tp ∧ u.mem = s.mem ∧ u.hostMem = s.hostMem)

/-- Interrupt coalescing and notices (R249, R277, R278). Doorbells (R241, R245, R280): they wake the device; a tail inside the ring
of an enabled queue is taken, one at or beyond it is ignored and logged, and so is a doorbell of a disabled queue or through
another endpoint. QUEUE_ENABLE and QUEUE_ERR_CLEAR (R244, R250, R282): with both bases on 4,096 bytes and SQSIZE not above
CQSIZE the queue is enabled and unnegotiated; otherwise EN stays 0 and CFGERR is set; clearing EN stops fetching. -/
def Obligations.QueueControl : Prop :=
  (∀ (q : Fin 1024) (k : Nat) (l : List Nat) (s : State),
      ((queueOf s q.val).timing = true → fld s (Reg.hifQcfg q.val) Fld.hifQcfgIen = 1 → ∃ u : State,
        exec (.coalesceTimeout q) s = .next u ∧ u.hif.msix = fld s (Reg.hifQcfg q.val) Fld.hifQcfgVector :: s.hif.msix
          ∧ (queueOf u q.val).timing = false ∧ (queueOf u q.val).unsig = 0 ∧ u.tp = s.tp ∧ u.mem = s.mem ∧ u.hostMem = s.hostMem)
      ∧ ((queueOf s q.val).timing = false → exec (.coalesceTimeout q) s = .next s)
      ∧ (s.hif.notices = [] → exec .noticePost s = .next s)
      ∧ (∀ n, n = fld s Reg.hifNotice Fld.hifNoticeQueue → s.hif.notices = k :: l →
        (fld s Reg.hifNotice Fld.hifNoticeEn = 1 → queueEn s n = true → cqRoom s n = true → s.hif.ps = 0 → ∃ u : State,
          exec .noticePost s = .next u ∧ u.hif.notices = l ∧ (queueOf u n).cqUsed = (queueOf s n).cqUsed + 1
            ∧ u.hostMem.get 0 (pair s (Reg.hifCqbase n 0) (Reg.hifCqbase n 1) + 16 * (queueOf s n).cqTail + 6) = 0x3B)
        ∧ (cqRoom s n = false → exec .noticePost s = .next s))
      ∧ (s.hif.notices.length < 64 → notice k s = { s with hif := { s.hif with notices := s.hif.notices ++ [k] } })
      ∧ (64 ≤ s.hif.notices.length → notice k s = raiseFld Reg.hifNotice Fld.hifNoticeDropped s))
  ∧ (∀ (src : Src) (q : Fin 1024) (ptr : BitVec 16) (s : State), romHeld src s = false →
      let w := wakeUp s
      let logged (off : Nat) : State := logAccess off (hifError Fld.hifErrDberr q.val w)
      (queueReach w src q.val = false →
        exec (.sqTailDoorbell src q ptr) s = .next (hifError Fld.hifErrWrongep q.val w)
        ∧ exec (.cqHeadDoorbell src q ptr) s = .next (hifError Fld.hifErrWrongep q.val w))
      ∧ (queueReach w src q.val = true → queueEn w q.val = false →
        exec (.sqTailDoorbell src q ptr) s = .next (logged (Reg.hifSqtdb q.val))
        ∧ exec (.cqHeadDoorbell src q ptr) s = .next (logged (Reg.hifCqhdb q.val)))
      ∧ (queueReach w src q.val = true → queueEn w q.val = true →
        (sqEntries w q.val ≤ ptr.toNat → exec (.sqTailDoorbell src q ptr) s = .next (logged (Reg.hifSqtdb q.val)))
        ∧ (ptr.toNat < sqEntries w q.val →
          exec (.sqTailDoorbell src q ptr) s = .next (modQueue q.val (fun x => { x with tail := ptr.toNat }) w))
        ∧ (headSteps w q.val ptr.toNat = none → exec (.cqHeadDoorbell src q ptr) s = .next (logged (Reg.hifCqhdb q.val)))
        ∧ (∀ k, headSteps w q.val ptr.toNat = some k → ∃ u : State, exec (.cqHeadDoorbell src q ptr) s = .next (settleHost u)
          ∧ (queueOf u q.val).cqHead = ptr.toNat ∧ (queueOf u q.val).cqUsed = (queueOf w q.val).cqUsed - k
          ∧ (queueOf u q.val).tags = (queueOf w q.val).tags.drop k ∧ u.hif.cmds = w.hif.cmds ∧ u.tp = w.tp)))
  ∧ (∀ (src : Src) (q : Fin 1024) (cfg : W32) (s : State), romHeld src s = false → queueReach (wakeUp s) src q.val = true →
      let w := wakeUp s
      let n := q.val
      let off := Reg.hifQcfg n
      let aligned := pair w (Reg.hifSqbase n 0) (Reg.hifSqbase n 1) % 4096 = 0 ∧ pair w (Reg.hifCqbase n 0) (Reg.hifCqbase n 1) % 4096 = 0
      let sq := cfg.toNat % 32
      let cq := cfg.toNat / 32 % 32
      (queueEn w n = false → cfg.getLsbD 31 = true → aligned → sq ≤ cq → 4 ≤ sq → cq ≤ 16 → ∃ u : State,
        exec (.queueEnable src q cfg) s = .next u ∧ queueEn u n = true ∧ (queueOf u n).neg = false
          ∧ fld u off Fld.hifQcfgSqsize = sq ∧ fld u off Fld.hifQcfgCqsize = cq ∧ fld u off Fld.hifQcfgCfgerr = 0)
      ∧ (queueEn w n = false → cfg.getLsbD 31 = true → (¬aligned ∨ cq < sq) → ∃ u : State,
        exec (.queueEnable src q cfg) s = .next u ∧ queueEn u n = false ∧ fld u off Fld.hifQcfgCfgerr = 1)
      ∧ (cfg.getLsbD 31 = false → ∃ u : State, exec (.queueEnable src q cfg) s = .next u ∧ queueEn u n = false
          ∧ u.hif.cmds = w.hif.cmds)
      ∧ exec (.queueErrClear src q) s = .next (setFld (Reg.hifQstat n) Fld.hifQstatErr 0 w))

/-- HOST_MEMORY_ERROR (R242): the fetch of a queue's entries stops with QSTAT.ERR set; a FLUSH, being no reader of host memory, is
not touched; a GET_LOG ends HOST_MEMORY. FLR, link-down and PERST (R243, R353): an endpoint that is not there is left alone; an
FLR and a link-down disable its queues and are a class 11 event; a queue without commands and streams that is disabled so gives
up its ready completions; PERST holds its port. -/
def Obligations.HostLoss : Prop :=
  (∀ (q : Fin 1024) (tag : BitVec 16) (c : Cmd) (s : State),
      (queueEn s q.val = true → ∃ u : State, exec (.hostMemoryError q none) s = .next u ∧ canFetch u q.val = false
        ∧ u.hif.cmds = s.hif.cmds)
      ∧ (cmdOf s tag = none → exec (.hostMemoryError q (some tag)) s = .next s)
      ∧ (cmdOf s tag = some c → c.queue = q.val → c.e.opc.toNat < 0x11 → ∃ u : State,
        exec (.hostMemoryError q (some tag)) s = .next (settleHost (endCmd tag 0x35 (BitVec.ofNat 64 c.done) 0xFFFF u))
          ∧ cmdOf u tag = some c)
      ∧ (cmdOf s tag = some c → c.queue = q.val → c.e.opc = 0x14 → exec (.hostMemoryError q (some tag)) s = .next s))
  ∧ (∀ (ep : Fin 4) (p : Fin 2) (n : Nat) (s : State),
      (endpointPresent s ep.val = false → exec (.endpointFlr ep) s = .next s ∧ exec (.linkDown ep) s = .next s)
      ∧ (endpointPresent s ep.val = true → ∃ u : State,
        exec (.endpointFlr ep) s = .next (faultEvent (unitId 11 (ep.val / 2)) 0 0 u) ∧ u = killEndpoint ep.val s
          ∧ exec (.linkDown ep) s = exec (.endpointFlr ep) s)
      ∧ (∃ u, exec (.perstAssert p) s = .next u ∧ p.val ∈ u.hif.perst)
      ∧ ((∀ c ∈ s.hif.cmds, c.queue ≠ n) → (∀ x ∈ openStreams s, x.2.queue ≠ n) →
        killQueue n s = modQueue n (fun q => { q with
          ready := [], tags := [], cqUsed := 0, timing := false, unsig := 0, neg := false, ver := 0 })
          (setFld (Reg.hifQcfg n) Fld.hifQcfgEn 0 s)))

/-- The mailbox (R283): a GO while BUSY is ignored and logged; an opcode other than IDENTIFY, GET_LOG, SET_FEATURE and SELF_TEST
ends REJECTED; IDENTIFY and GET_LOG leave their output in MBX_DATA. Power states (R279, R280): an idle timer that is not zero,
with the conditions met, begins the entry of the next deeper state; the entry ends in it, and from PS2 on RCCLK stops, so that what is
on its way from the read channel is lost (R31); a wake is back in PS0 and cancels an entry. -/
def Obligations.MailboxAndPower : Prop :=
  (∀ (src : Src) (s : State),
      let w := wakeUp s
      let e := mailboxEntry w
      (w.hif.mbxBusy = true → exec (.mbxGo src) s = .next (settleHost (logAccess Reg.mbxCtl w)))
      ∧ (w.hif.mbxBusy = false → w.hif.test = none →
        (e.opc ≠ 1 → e.opc ≠ 2 → e.opc ≠ 3 → e.opc ≠ 5 →
          exec (.mbxGo src) s = .next (settleHost (mailboxEnd 0x01 0 (logCommandError 0xFFFF e 0x01 0 w))))
        ∧ (e.opc = 1 → fieldError e = none → e.dlen.toNat ≤ 4096 → entrySgl e = false → ∃ l : List Byte,
          exec (.mbxGo src) s = .next (settleHost (mailboxEnd 0x00 0
            { w with hif := { w.hif with mbxData := ({} : SMap Byte).write 0 0 l } })) ∧ l.length = 4096)
        ∧ (∀ o, (e.opc = 1 ∨ e.opc = 2 ∨ e.opc = 3 ∨ e.opc = 5) → fieldError e = some o →
          exec (.mbxGo src) s = .next (settleHost (mailboxEnd 0x01 0 (logCommandError 0xFFFF e 0x01 o w))))
        ∧ (e.opc = 5 → fieldError e = none → entrySgl e = false → ∃ (u : State) (x : STest),
          exec (.mbxGo src) s = .next (settleHost u) ∧ u.hif.mbxBusy = true ∧ u.hif.test = some x ∧ x.seg = 1))
      ∧ (∀ st res (v : State), (mailboxEnd st res v).hif.mbxBusy = false))
  ∧ (∀ (n : Nat) (s : State),
      (s.hif.ps = 0 → fld s Reg.hifPscfg Fld.hifPscfgIdle1 = 0 → exec .powerStateIdleExpiry s = .next s)
      ∧ (s.hif.ps = 0 → fld s Reg.hifPscfg Fld.hifPscfgIdle1 ≠ 0 → s.hif.entering = none → psFits s 1 = true → s.pwr.commit = none →
        exec .powerStateIdleExpiry s = .next { s with hif := { s.hif with entering := some 1 } })
      ∧ (s.hif.ps = 1 → fld s Reg.hifPscfg2 Fld.hifPscfg2Idle2 ≠ 0 → s.hif.entering = none → psFits s 2 = true → s.pwr.commit = none →
        exec .powerStateIdleExpiry s = .next { s with hif := { s.hif with entering := some 2 } })
      ∧ (s.hif.ps = 3 → exec .powerStateIdleExpiry s = .next s)
      ∧ (s.hif.entering = none → exec .powerStateEntryDone s = .next s)
      ∧ (s.hif.entering = some n → n < 2 →
        exec .powerStateEntryDone s = .next { s with hif := { s.hif with ps := n, entering := none } })
      ∧ (s.hif.entering = some n → 2 ≤ n → ∃ u : State, exec .powerStateEntryDone s = .next u ∧ u.hif.ps = n ∧ u.hif.entering = none
        ∧ u.mem = s.mem ∧ ∀ t : Tid, (tpOf u t).rc.reports = [] ∧ (tpOf u t).rc.rows = [])
      ∧ (∃ u, exec .wake s = .next u ∧ u.hif.ps = 0 ∧ u.hif.entering = none ∧ u.mem = s.mem ∧ u.regs = s.regs)
      ∧ (s.hif.ps ≠ 3 → exec .wake s = .next { s with hif := { s.hif with ps := 0, entering := none } }))

/-! ### Lanes and the read channel (04, 05) -/

/-- SLOT_ARRIVAL, LDPC_ITERATION, CODEWORD_DEADLINE (R15, R131-R133, R139-R141, R145, R155). Samples of a lane whose module is down, or
whose track the head lacks, have no effect; those of another lane reach the capture channels on it, and outside verify and read mode
nothing else; a framed lane's slot becomes a pending codeword with the deadline one slot period on; a codeword decodes when no check of
C1 is unsatisfied after an iteration, an attempt ends at 12 iterations, or at 3 above ABANDON; at its deadline it is not decoded, and
a fault of the engine ends it so too. -/
def Obligations.CodewordsDecode : Prop :=
  ∀ (l : Fin 512) (eng : Fin 64) (adc : List (BitVec 6)) (fault : Bool) (p : PendCw) (a : Attempt) (r : List Attempt) (m : Nat) (s : State),
    let t := laneT l
    let v := capLane l.val adc s
    (isOffline s t = true ∨ bitOf (tpOf s t).head.missing.toNat (laneK l.val) = true →
      exec (.slotArrival l adc) s = .next (settleHost s))
    ∧ (isOffline s t = false → bitOf (tpOf s t).head.missing.toNat (laneK l.val) = false →
      ((getLane v l.val).framed = false → rcMode v t ≠ 1 → rcMode v t ≠ 2 →
        exec (.slotArrival l adc) s = .next (settleHost (takeRcMode l.val v)))
      ∧ ((getLane v l.val).framed = true → (getLane v l.val).mode = m → m = 1 ∨ m = 2 → (getLane v l.val).overflow = false →
        (∀ q ∈ (tpOf s t).rc.pend, q.lane ≠ l.val) →
        let w := feedLane l.val adc (if m = 1 then syncNote l.val v else v)
        let y := getLane w l.val
        y.at' + 9504 ≤ y.soft.length →
        (m = 2 → newExtentIn y.soft y.at' (fld w (Reg.rcSync t) Fld.rcSyncAThr) (y.slot == 0 || maybeNext w l.val m y.slot) = none) →
        (m = 1 → y.slot = 0 → (noticeNo (tpOf w t).rc y.note).map (searchPhase w t) = some 1) →
        let slot := (y.soft.drop y.at').take 9504
        attemptsOf (syncCandidates slot 160 (fld w (Reg.rcSync t) Fld.rcSyncSyncThr))
            (if y.fly < fld w (Reg.rcSync t) Fld.rcSyncFlymax then y.flyPos else none) = a :: r →
        ∃ (u : State) (n : PendCw), exec (.slotArrival l adc) s = .next (settleHost u)
          ∧ (tpOf u t).rc.pend = (tpOf s t).rc.pend ++ [n] ∧ n.lane = l.val ∧ n.slot = y.slot ∧ n.soft = slot ∧ n.mode = m
          ∧ n.attempts = a :: r ∧ n.eng = laneEngine s l.val ∧ n.dl = s.clk * 800 + slotPs s t ∧ n.iters = 0))
    ∧ (enginePick s eng.val = none → exec (.ldpcIteration eng fault) s = .next (settleHost s))
    ∧ (enginePick s eng.val = some p →
      exec (.ldpcIteration eng true) s = .next (settleHost (faultEvent (unitId 1 eng.val) 0 0 (notDecoded p s))))
    ∧ (enginePick s eng.val = some p → p.attempts = a :: r →
      let bad := c1Unsat (iterBits s p a)
      (bad = 0 → exec (.ldpcIteration eng false) s = .next (settleHost (decodedCw p a (p.iters + 1) (iterBits s p a) s)))
      ∧ (bad ≠ 0 → (p.iters + 1 = 12 ∨ (p.iters + 1 = 3 ∧ abandonLimit s (eng.val / 32) < bad)) →
        exec (.ldpcIteration eng false) s = .next (settleHost (attemptFailed p s)))
      ∧ (bad ≠ 0 → p.iters + 1 ≠ 12 → ¬(p.iters + 1 = 3 ∧ abandonLimit s (eng.val / 32) < bad) →
        exec (.ldpcIteration eng false) s = .next (settleHost (modRc (laneT p.lane) (fun x => { x with pend := x.pend.map (fun q =>
          if q.lane == p.lane && q.dl == p.dl then
            { q with iters := p.iters + 1, post := (iterate s p a).1, msgs := (iterate s p a).2 } else q) }) s))))
    ∧ ((∀ q ∈ (tpOf s t).rc.pend, q.lane ≠ l.val) → exec (.codewordDeadline l) s = .next (settleHost s))
    ∧ ((tpOf s t).rc.pend.find? (fun q => q.lane == l.val) = some p → exec (.codewordDeadline l) s
        = .next (settleHost (notDecoded p (bumpFld (Reg.rcEng (p.eng / 32) (p.eng % 32)) Fld.rcEngDlmiss s))))

/-- Loss of lock, a lost ADC sample, and RC_MODE (R30, R34, R128, R130, R145): a lane whose residual has been held at its clamp goes to
SEARCH mode and counts it; a sample lost is an event, and a lane in verify or read mode loses lock by it; a mode is written by
Puppeteer, or by the host with DBG_EN, and otherwise the write is ignored and logged. LDPC engines and capture (R20, R143,
R155): a retired engine is marked; an armed capture of a token that Puppeteer does not hold sets ERR, and a write of ARM while a
sequencer of the chiplet runs is discarded and logged; a sample goes to the write position with the mark of an overflow in bit 7; a
triggered channel stops at its write position with DONE once POST is over. Lane faults (R30, R103, R113, R116, R117): an alert or a
RETIRE command puts the lane into FAILMASK with its cause, once; a RETURN takes it out, unless the sequencer runs; an underrun
of a lane that writes is an event and is counted, and the data or rewrite codeword of its slot is treated as failed. -/
def Obligations.LanesAndCapture : Prop :=
  (∀ (l : Fin 512) (t : Tid) (m : BitVec 2) (ep : Fin 4) (s : State),
      ((getLane s l.val).loops.lost = true → exec (.lossOfLock l) s = .next
          (bumpFld (Reg.rcLcnt (l.val / 64) (l.val % 64)) Fld.rcLcntLoss (modLane l.val toSearch s)))
      ∧ ((getLane s l.val).loops.lost = false → exec (.lossOfLock l) s = .next s)
      ∧ (∀ x, (toSearch x).framed = false ∧ (toSearch x).fresh = true ∧ (toSearch x).flyPos = none ∧ (toSearch x).nodec = 0)
      ∧ ((getLane s l.val).mode ≠ 1 → (getLane s l.val).mode ≠ 2 →
        (∀ n < 4, fld s (Reg.rcCaplane (l.val / 256) n) Fld.rcCaplaneArm ≠ 1) →
        exec (.sampleOverflow l) s = .next (settleHost (cdcEvent Fld.glbCdcerrSampleOvf (some l.val) s)))
      ∧ ((getLane s l.val).mode = 1 ∨ (getLane s l.val).mode = 2 → ∃ u, exec (.sampleOverflow l) s = .next (settleHost u)
        ∧ (getLane u l.val).framed = false ∧ (getLane u l.val).overflow = true ∧ fld u Reg.glbCdcerr Fld.glbCdcerrSampleOvf = 1
        ∧ fld u Reg.glbCdccnt Fld.glbCdccntLastLane = l.val)
      ∧ (romHeld (.host ep) s = false → dbgEn s t = false →
        exec (.rcModeWrite (.host ep) t m) s = .next (logAccess (Reg.rcMode t) (wakeUp s)))
      ∧ (chipletDown s (Reg.rcMode t) = false → ∃ u, exec (.rcModeWrite .puppeteer t m) s = .next u ∧ rcMode u t = m.toNat
          ∧ (m = 3 → rcMode s t ≠ 3 → reg u (Reg.rcCalres t 0) = 0 ∧ reg u (Reg.rcCalres t 1) = 0))
      ∧ (chipletDown s (Reg.rcMode t) = true → exec (.rcModeWrite .puppeteer t m) s = .next (logAccess (Reg.rcMode t) s)))
  ∧ (∀ (e : Fin 64) (c : Fin 2) (n : Fin 4) (adc : List (BitVec 6)) (x : BitVec 6) (s : State),
      let off := Reg.rcEng (e.val / 32) (e.val % 32)
      let ch := s.caps.get CapCh.reset (4 * c.val + n.val)
      let tok := reg s (Reg.rcCaptok c n)
      (chipletDown s off = true → exec (.rcEngRetire .puppeteer e true) s = .next (settleHost (logAccess off s)))
      ∧ (chipletDown s off = false → engRetired s e.val = true → exec (.rcEngRetire .puppeteer e true) s = .next (settleHost s))
      ∧ (chipletDown s off = false → engRetired s e.val = false → (∀ t, (tpOf s t).rc.pend = []) → ∃ u,
          exec (.rcEngRetire .puppeteer e true) s = .next (settleHost u) ∧ engRetired u e.val = true)
      ∧ (chipletDown s off = false → engRetired s e.val = true → ∃ u,
          exec (.rcEngRetire .puppeteer e false) s = .next (settleHost u) ∧ engRetired u e.val = false)
      ∧ (chipletDown s (Reg.rcCaplane c n) = false → (∃ i < 4, seqActive (seqOf s (tid (4 * c.val + i))) = true) →
        exec (.rcCapArm .puppeteer c n) s = .next (logAccess (Reg.rcCaplane c n) s))
      ∧ (chipletDown s (Reg.rcCaplane c n) = false → (∀ i < 4, seqActive (seqOf s (tid (4 * c.val + i))) = false) →
        (fld s (Reg.rcCaplane c n) Fld.rcCaplaneTrig ≠ 2 → tokenHeld s 3 tok = false →
          exec (.rcCapArm .puppeteer c n) s = .next (raiseFld (Reg.rcCapstat c n) Fld.rcCapstatErr s))
        ∧ (fld s (Reg.rcCaplane c n) Fld.rcCaplaneTrig = 2 ∨ tokenHeld s 3 tok = true → ∃ u, exec (.rcCapArm .puppeteer c n) s = .next u
          ∧ fld u (Reg.rcCaplane c n) Fld.rcCaplaneArm = 1 ∧ reg u (Reg.rcCapstat c n) = 0))
      ∧ (fld s (Reg.rcCaplane c n) Fld.rcCaplaneArm = 0 → exec (.captureStop c n adc) s = .next s)
      ∧ (fld s (Reg.rcCaplane c n) Fld.rcCaplaneArm = 1 → tokenHeld s 3 tok = true →
        (s.capTrig.contains (4 * c.val + n.val) = true → ch.left ≤ adc.length → ∃ u, exec (.captureStop c n adc) s = .next u
          ∧ fld u (Reg.rcCaplane c n) Fld.rcCaplaneArm = 0 ∧ fld u (Reg.rcCapstat c n) Fld.rcCapstatDone = 1
          ∧ fld u (Reg.rcCapstat c n) Fld.rcCapstatWptr = (u.caps.get CapCh.reset (4 * c.val + n.val)).pos % 2 ^ 23
          ∧ (4 * c.val + n.val) ∉ u.capTrig)
        ∧ (s.capTrig.contains (4 * c.val + n.val) = false → ∃ u, exec (.captureStop c n [x]) s = .next u
          ∧ (∀ a, u.mem.hbm.get 0 a = if a = tokAddr s tok + ch.pos then BitVec.ofNat 8 (x.toNat + if ch.mark then 128 else 0)
            else s.mem.hbm.get 0 a)
          ∧ (u.caps.get CapCh.reset (4 * c.val + n.val)).pos
            = if ch.pos + 1 < fld s (Reg.rcCaplen c n) Fld.rcCaplenLength then ch.pos + 1 else 0)))
  ∧ (∀ (t : Tid) (k : Fin 64) (l slot : Fin 512) (c : WlCur) (s : State),
      let y := tpOf s (laneT l.val)
      let counted (v : State) : Prop := fld v Reg.glbCdcerr Fld.glbCdcerrWlUnderrun = 1 ∧ fld v Reg.glbCdccnt Fld.glbCdccntLastLane = l.val
        ∧ (tpOf v (laneT l.val)).vfy = y.vfy
      (bitOf (tpOf s t).vfy.failmask.toNat k = true → ∃ u v, exec (.hmsAlert t k) s = .next (settleHost u)
        ∧ exec (.vfyLanecmdRetire .puppeteer t k) s = .next (settleHost v) ∧ (tpOf u t).vfy = (tpOf s t).vfy
        ∧ (tpOf v t).vfy = (tpOf s t).vfy)
      ∧ (bitOf (tpOf s t).vfy.failmask.toNat k = false → ∃ u v,
        exec (.hmsAlert t k) s = .next (settleHost u) ∧ exec (.vfyLanecmdRetire .puppeteer t k) s = .next (settleHost v)
          ∧ (tpOf u t).vfy.failmask = (tpOf s t).vfy.failmask ||| BitVec.ofNat 64 (2 ^ k.val)
          ∧ (tpOf v t).vfy.failmask = (tpOf s t).vfy.failmask ||| BitVec.ofNat 64 (2 ^ k.val)
          ∧ ((tpOf u t).vfy.lanes.get Lane.reset k).cause = 2 ∧ ((tpOf v t).vfy.lanes.get Lane.reset k).cause = 3)
      ∧ ((tpOf s t).seq.st = .running ∨ (tpOf s t).seq.st = .waiting → exec (.vfyLanecmdReturn .puppeteer t k) s
        = .next (settleHost (logIgnored (unitId 0 (64 * t.val + k.val)) 2 s)))
      ∧ ((tpOf s t).seq.st ≠ .running → (tpOf s t).seq.st ≠ .waiting → ∃ u,
        exec (.vfyLanecmdReturn .puppeteer t k) s = .next (settleHost u)
          ∧ (tpOf u t).vfy.failmask = (tpOf s t).vfy.failmask &&& ~~~(BitVec.ofNat 64 (2 ^ k.val)))
      ∧ (y.wl.cur = none ∧ y.wl.gap = false ∨ bitOf y.head.missing.toNat (laneK l.val) = true →
        exec (.wlUnderrun l slot) s = .next (settleHost s))
      ∧ (bitOf y.head.missing.toNat (laneK l.val) = false →
        (y.wl.cur = none → y.wl.gap = true → ∃ v, exec (.wlUnderrun l slot) s = .next (settleHost v) ∧ counted v)
        ∧ (y.wl.cur = some c → c.op ≠ 1 → ∃ v, exec (.wlUnderrun l slot) s = .next (settleHost v) ∧ counted v)
        ∧ (y.wl.cur = some c → c.op = 1 →
          let x := y.wl.exts.headD Extent.reset
          ∃ v, counted v
            ∧ ((maskTracks x.mask).idxOf? (laneK l.val) = none → exec (.wlUnderrun l slot) s = .next (settleHost v))
            ∧ ∀ lam, (maskTracks x.mask).idxOf? (laneK l.val) = some lam →
              (∀ i, slot.val < x.ndat → (lambdaCws (maskCount x.mask) lam)[slot.val]? = some i →
                exec (.wlUnderrun l slot) s = .next (settleHost (failOriginal (laneT l.val) x.dsnum i (laneK l.val) v)))
              ∧ (slot.val < x.ndat → (lambdaCws (maskCount x.mask) lam)[slot.val]? = none →
                exec (.wlUnderrun l slot) s = .next (settleHost v))
              ∧ (slot.val = x.ndat → exec (.wlUnderrun l slot) s = .next (settleHost v))
              ∧ (x.ndat < slot.val →
                exec (.wlUnderrun l slot) s = .next (settleHost (copyResult (laneT l.val) x (laneK l.val) slot.val false v))))))

/-! ### Power, start-up, faults (11, 12) -/

/-- The commit starts (R306, R307, R312): PFAIL_N accepted low, a sag that lasted SAGT ms, or VIN below FAILV start it with cause
1, 2 or 3; the device is in PS0, event PFAIL is set on every sequencer, no entry is fetched any more, and step 1 follows. During a
commit or after it PFAIL_N is counted only (R314). Supply samples (R307, R314): VIN below SAGV starts a sag, at or above CLRV for
100 ms it ends, and CAPV of every transport is the lower of the caps in force; a sample that meets no condition is taken in, and
the grants are computed again where the bank has moved; one that finds the bank below 0.97 V0 ends a measurement as invalid
(R308); PFAIL_N and a sag's end have no effect during a commit. TEMP_UPDATE (R357): the highest of the twelve readings counts;
each rule begins at its threshold and ends 5 degrees below it; at a change of the thermal cap outside a commit CAPV of every
transport is the lower of the caps in force. -/
def Obligations.CommitStarts : Prop :=
  (∀ (c : Instr) (cause : Nat) (vin vhu : BitVec 16) (s : State), s.pwr.commitEnded = false → s.pwr.commit = none →
      ((c = .pfailAccept ∧ cause = 1)
        ∨ (c = .sagTimeout ∧ cause = 2 ∧ s.pwr.sag = true ∧ 100 * fld s Reg.pwrCap Fld.pwrCapSagt ≤ s.pwr.sagT)
        ∨ (c = .supplySample vin vhu ∧ cause = 3
          ∧ scaleSample vin (fld s Reg.pwrDiv Fld.pwrDivVink) < tenthVolt (fld s Reg.pwrCfg Fld.pwrCfgFailv))) →
      ∃ (v : State) (k : Commit), exec c s = .next (settleHost (watchBank (settleHost (stopIntake v))))
        ∧ v.pwr.commit = some k ∧ k.cause = cause ∧ k.recording = false ∧ k.short = false ∧ k.warm = false ∧ k.marked = []
        ∧ v.hif.ps = 0 ∧ v.pwr.huTest = false ∧ v.pwr.rlogGen = s.pwr.rlogGen + 1
        ∧ (∀ t : Tid, (seqOf v t).latched.getLsbD 15 = true) ∧ ∀ n, canFetch v n = false)
  ∧ (∀ (vinCode vhuCode : BitVec 16) (m : Meas) (s : State),
      let vin := scaleSample vinCode (fld s Reg.pwrDiv Fld.pwrDivVink)
      let vhu := scaleSample vhuCode (fld s Reg.pwrDiv Fld.pwrDivHuk)
      let w := takeSample vin vhu s
      (s.pwr.commit.isSome = true ∨ s.pwr.commitEnded = true →
        exec .pfailAccept s = .next (settleHost (raiseFld Reg.pwrEvt Fld.pwrEvtRepf s)) ∧ exec .sagClear s = .next s
          ∧ exec .sagTimeout s = .next (settleHost s)
          ∧ (tenthVolt (fld s Reg.pwrCfg Fld.pwrCfgSagv) ≤ vin → tenthVolt (fld s Reg.pwrCfg Fld.pwrCfgFailv) ≤ vin →
            exec (.supplySample vinCode vhuCode) s = .next (settleHost (watchBank w))))
      ∧ (s.pwr.commit = none → s.pwr.commitEnded = false → tenthVolt (fld s Reg.pwrCfg Fld.pwrCfgFailv) ≤ vin →
        (vin < tenthVolt (fld s Reg.pwrCfg Fld.pwrCfgSagv) → s.pwr.sag = false → ∃ u,
          exec (.supplySample vinCode vhuCode) s = .next (settleHost u)
            ∧ u.pwr.sag = true ∧ u.pwr.vin = vin ∧ u.pwr.vhu = vhu
            ∧ ∀ t : Tid, fld u (Reg.yyCap t) Fld.yyCapCapv = capInForce u % 2 ^ 14)
        ∧ (tenthVolt (fld s Reg.pwrCfg Fld.pwrCfgSagv) ≤ vin → s.pwr.meas = none →
          exec (.supplySample vinCode vhuCode) s = .next (settleHost (if bankMoved w then regrant w else w)))
        ∧ (s.pwr.meas = some m → bankDropped m w = true → s.boot = 9 → ∃ u,
          exec (.supplySample vinCode vhuCode) s = .next (settleHost u) ∧ u.pwr.meas = none ∧ u.pwr.huTest = false
            ∧ fld u Reg.wuMeas Fld.wuMeasValid = 0 ∧ fld u Reg.pwrEvt Fld.pwrEvtMeasfail = 1))
      ∧ (s.pwr.sag = false → exec .sagTimeout s = .next (settleHost s) ∧ exec .sagClear s = .next s)
      ∧ (s.pwr.sag = true → s.pwr.clrT < 10000 → exec .sagClear s = .next s)
      ∧ (s.pwr.sag = true → 10000 ≤ s.pwr.clrT → s.pwr.commit = none → s.pwr.commitEnded = false → ∃ u,
        exec .sagClear s = .next u ∧ u.pwr.sag = false ∧ ∀ t : Tid, fld u (Reg.yyCap t) Fld.yyCapCapv = capInForce u % 2 ^ 14)
      ∧ capInForce s = min (if s.pwr.sag then fld s Reg.pwrCap Fld.pwrCapSagcap else 10000)
          (if s.pwr.therm then fld s Reg.pwrThcfg Fld.pwrThcfgThcap else 10000))
  ∧ (∀ (temps : Vector (BitVec 16) 12) (s : State), ∃ (u : State) (temp : Int), exec (.tempUpdate temps) s = .next u
      ∧ (∃ i : Fin 12, temp = temps[i].toInt) ∧ (∀ i : Fin 12, temps[i].toInt ≤ temp)
      ∧ u.pwr.temp = temp ∧ u.pwr.tmax = max s.pwr.tmax temp
      ∧ (u.pwr.therm = true ↔ (10 * fld s Reg.pwrThcfg Fld.pwrThcfgThrot : Int) ≤ temp
        ∨ (s.pwr.therm = true ∧ (10 * fld s Reg.pwrThcfg Fld.pwrThcfgThrot : Int) - 50 < temp))
      ∧ (u.pwr.trip = true ↔ (10 * fld s Reg.pwrThcfg Fld.pwrThcfgTtrip : Int) ≤ temp
        ∨ (s.pwr.trip = true ∧ (10 * fld s Reg.pwrThcfg Fld.pwrThcfgTtrip : Int) - 50 < temp))
      ∧ (u.pwr.therm ≠ s.pwr.therm → s.pwr.commit = none → ∀ t : Tid, fld u (Reg.yyCap t) Fld.yyCapCapv = capInForce u % 2 ^ 14)
      ∧ (u.pwr.therm = s.pwr.therm → ∀ t : Tid, fld u (Reg.yyCap t) Fld.yyCapCapv = fld s (Reg.yyCap t) Fld.yyCapCapv))

/-- The commit goes on and ends (R312, R314, R317): step 4 waits for every transport; at the end, with VIN below CLRV, the device
waits for the loss of power with its recovery log complete and its commit area in use; the erase of that area ends later.
Measurements of the bank and the recovery log (R308, R309, R311, R315): a start raises HU_TEST, unless a measurement or a commit
runs, with V0 the mean of the last millisecond; the measurement ends TSTEP ms later; a result above 0.99 V0 sets MEASFAIL and
every grant to 0; ACK releases the log. -/
def Obligations.CommitEnds : Prop :=
  (∀ (c : Commit) (s : State),
      (s.pwr.commit = none → exec .commitRecordWrite s = .next (settleHost s) ∧ exec .commitEnd s = .next (settleHost s))
      ∧ (s.pwr.commit = some c → c.recording = false →
        exec .commitEnd s = .next (settleHost s)
        ∧ ((∃ t : Tid, t.val ∉ c.marked ∧ commitDone s t = false) → exec .commitRecordWrite s = .next (settleHost s))
        ∧ ((∀ t : Tid, t.val ∈ c.marked ∨ commitDone s t = true) → exec .commitRecordWrite s = .next (settleHost (beginRecord s))))
      ∧ (s.pwr.commit = some c → c.recording = true → c.warm = false → s.pwr.warmPend = false →
        s.pwr.vin < tenthVolt (fld s Reg.pwrCfg Fld.pwrCfgClrv) → ∃ u, exec .commitEnd s = .next (settleHost u)
          ∧ u.pwr.commitEnded = true ∧ u.pwr.commit = none ∧ u.pwr.erased = false ∧ (∀ t : Tid, u.pwr.grant.get 0 t.val = 0)
          ∧ leAt u.pwr.rlogHead 0 4 = 0x474C5052 ∧ leAt u.pwr.rlogHead 8 1 = c.cause % 256
          ∧ leAt u.pwr.rlogHead 9 1 = (if c.short then 1 else 0))
      ∧ (s.pwr.erased = true → exec .commitAreaEraseDone s = .next s)
      ∧ (s.pwr.erased = false → s.pwr.commit = none → ∃ u, exec .commitAreaEraseDone s = .next u ∧ u.pwr.erased = true))
  ∧ (∀ (m : Meas) (src : Src) (s : State),
      let v := measVolts m s
      (s.pwr.huTest = true ∨ s.pwr.commit.isSome = true → exec (.holdupMeasStart .puppeteer) s = .next s)
      ∧ (s.pwr.huTest = false → s.pwr.commit = none → s.pwr.commitEnded = false → ∃ k : Meas,
        exec (.holdupMeasStart .puppeteer) s = .next { s with pwr := { s.pwr with meas := some k, huTest := true } } ∧ k.n = 0
          ∧ k.sum = (recentMean s).1 ∧ k.count = (recentMean s).2
          ∧ (s.boot = 9 → exec .holdupPeriodicMeas s = exec (.holdupMeasStart .puppeteer) s))
      ∧ (s.boot ≠ 9 → exec .holdupPeriodicMeas s = .next s)
      ∧ (s.pwr.meas = none → exec (.holdupMeasEnd () ()) s = .next (settleHost s))
      ∧ (s.pwr.meas = some m → m.n < 100 * fld s Reg.wuCfg Fld.wuCfgTstep → exec (.holdupMeasEnd () ()) s = .next (settleHost s))
      ∧ (s.pwr.meas = some m → 100 * fld s Reg.wuCfg Fld.wuCfgTstep ≤ m.n → s.boot = 9 → 99 * v.1 < 100 * v.2 → ∃ u,
        exec (.holdupMeasEnd () ()) s = .next (settleHost u) ∧ u.pwr.huTest = false ∧ u.pwr.meas = none
          ∧ fld u Reg.wuMeas Fld.wuMeasValid = 0 ∧ fld u Reg.pwrEvt Fld.pwrEvtMeasfail = 1
          ∧ ∀ t : Tid, u.pwr.grant.get 0 t.val = 0)
      ∧ (s.pwr.meas = some m → 100 * fld s Reg.wuCfg Fld.wuCfgTstep ≤ m.n → s.boot = 9 → 100 * v.2 ≤ 99 * v.1 →
        ∃ u c, exec (.holdupMeasEnd () ()) s = .next (settleHost u) ∧ u.pwr.huTest = false ∧ u.pwr.meas = none ∧ u.pwr.cap = some c
          ∧ fld u Reg.wuMeas Fld.wuMeasValid = 1 ∧ fld u Reg.wuMeas Fld.wuMeasC = c % 2 ^ 24)
      ∧ (fld s Reg.pwrRlog Fld.pwrRlogPending = 0 → exec (.pwrRlogAck .puppeteer) s = .next s)
      ∧ (romHeld src s = false → fld (hostWakes src s) Reg.pwrRlog Fld.pwrRlogPending = 1 → ∃ u, exec (.pwrRlogAck src) s = .next u ∧ u.pwr.rlog = []
          ∧ fld u Reg.pwrRlog Fld.pwrRlogPending = 0))

/-- Resets and start-up (R318-R321). A cold reset keeps fuses, flash and what stands outside the device and begins at step 1; a boot
image that does not verify leaves the device in the boot ROM with CAUSE 7. A warm reset is held during a commit. HBM is trained
in step 3, each module in step 4, and the sweep leads to the bank measurement of step 8. -/
def Obligations.ResetsAndStartUp : Prop :=
  ∀ (src : Src) (t : Tid) (ok : Bool) (s : State),
    (∃ u, exec .coldReset s = .next u ∧ u.boot = 1 ∧ u.clk = 0 ∧ u.codec = Codec.reset ∧ u.tbx = Tbx.reset ∧ u.hif = Hif.reset
      ∧ u.cache = Cache.reset ∧ u.mem = Mem.reset ∧ u.mrn = Mrn.reset ∧ u.fuses = s.fuses ∧ u.revoked = s.revoked
      ∧ u.hostMem = s.hostMem ∧ u.pending = s.pending ∧ u.flt.summary = s.flt.summary
      ∧ (∀ k : Tid, (tpOf u k).seq = Seq.reset ∧ (tpOf u k).head = (tpOf s k).head)
      ∧ (bootVerifies s = false → u.rstCause = 7) ∧ (bootVerifies s = true → u.rstCause = 0 ∨ u.rstCause = 1))
    ∧ (s.boot = 9 → s.pwr.commit.isSome = true → exec (.glbRstWarm .puppeteer) s
        = .next (settleHost { s with pwr := { s.pwr with warmPend := true } }))
    ∧ (s.boot = 9 → s.pwr.commit = none → (∀ k : Tid, s.pwr.debit.get 0 k.val = 0) → ∃ u,
      exec (.glbRstWarm .puppeteer) s = .next (settleHost u) ∧ u = warmReset 2 s ∧ u.boot = 9)
    ∧ (romHeld src s = false → s.boot ≠ 9 → exec (.glbRstWarm src) s = .next (settleHost (hostWakes src s)))
    ∧ (s.boot = 1 → s.rstCause ≠ 7 → exec .hbmTrainingDone s = .next { s with boot := 3 })
    ∧ ((s.boot ≠ 1 ∨ s.rstCause = 7) → exec .hbmTrainingDone s = .next s)
    ∧ (s.boot = 3 → exec (.ucieTrainingDone t true) s
        = .next (settleHost { s with tp := s.tp.set t { tpOf s t with ucieUp := true } })
      ∧ exec (.ucieTrainingDone t false) s = .next (settleHost (permanent (unitId 6 t.val) 0 0 0 s)))
    ∧ (s.boot ≠ 3 → s.boot ≠ 9 → exec (.ucieTrainingDone t ok) s = .next (settleHost s))
    ∧ (s.boot ≠ 3 → exec .hbmSweepDone s = .next s)
    ∧ (s.boot = 3 → ∃ u, exec .hbmSweepDone s = .next u ∧ u.boot = 8)

/-- Fault events (R323, R324): while a unit has a retry left its event waits for it, counted and logged; else it is an escalation.
A retry that expires is pending no more, and for a transport at standstill the stop is cleared; a transport's event is cleared
after its run; a link error is an event of its module. FLT_RET and FLT_BCAST (R324, R326, R332): for the host only while DBG_EN of
transport 0 is 1; an invalid unit, and a return of a lane or a stripe group, are ignored and logged; a codec engine is retired and
returned; a broadcast halts the sequencers it names and no other. TEL_FREEZE (R331, R333): with DONE = 1 every counter is copied
into its shadow and DONE falls; with DONE = 0 it is ignored and logged; the end of the readout sets DONE and advances the
generation. -/
def Obligations.FaultEvents : Prop :=
  (∀ (unit : BitVec 16) (t : Tid) (code : Nat) (detail : W64) (s : State),
      (s.flt.retries.get 0 unit.toNat < fld (countEvent unit s) (Reg.fltCls (unitClass unit)) Fld.fltClsRetry → ∃ u, faultEvent unit code detail s = u
          ∧ u.flt.retries.get 0 unit.toNat = s.flt.retries.get 0 unit.toNat + 1 ∧ u.flt.pendRetry.contains unit = true
          ∧ u.flt.esc = s.flt.esc ∧ u.flt.retired = s.flt.retired)
      ∧ (unitClass unit < 12 → fld s (Reg.fltCls (unitClass unit)) Fld.fltClsM = 0 →
        let u := escalate unit code detail s
        u.flt.esc.get [] unit.toNat = nowMs s :: s.flt.esc.get [] unit.toNat ∧ u.flt.retries.get 0 unit.toNat = 0
          ∧ u.flt.retired = s.flt.retired ∧ fld u Reg.fltStat Fld.fltStatNewesc = 1)
      ∧ (s.flt.pendRetry.contains unit = false → exec (.faultRetryExpiry unit) s = .next (settleHost s))
      ∧ (s.flt.pendRetry.contains unit = true → unitClass unit ≠ 7 → exec (.faultRetryExpiry unit) s
        = .next (settleHost { s with flt := { s.flt with pendRetry := s.flt.pendRetry.filter (fun v => v != unit) } }))
      ∧ (s.flt.pendRetry.contains (unitId 7 t.val) = true → (tpOf s t).mot.st = .faulted → (tpOf s t).mot.still = true →
        exec (.faultRetryExpiry (unitId 7 t.val)) s = .next (settleHost (restoreLoops t (clearTransport t
          { s with flt := { s.flt with pendRetry := s.flt.pendRetry.filter (fun v => v != unitId 7 t.val) } }))))
      ∧ (s.flt.pendRetry.contains (unitId 7 t.val) = false → (tpOf s t).mot.st ≠ .faulted → (tpOf s t).mot.st ≠ .stopping → ∃ u,
        exec (.transportRetryClear t) s = .next u ∧ u.flt.retries.get 0 (unitId 7 t.val).toNat = 0)
      ∧ ((tpOf s t).mot.st = .faulted → exec (.transportRetryClear t) s = .next s)
      ∧ (isOffline s t = true → exec (.ucieLinkError t) s = .next (settleHost s))
      ∧ (isOffline s t = false → exec (.ucieLinkError t) s = .next (settleHost (faultEvent (unitId 6 t.val) 0 0 s))))
  ∧ (∀ (unit : BitVec 16) (ep : Fin 4) (mask : BitVec 8) (s : State),
      (romHeld (.host ep) s = false → dbgEn s 0 = false → exec (.fltRetRetire (.host ep) unit) s = .next (settleHost (logAccess Reg.fltRet (wakeUp s)))
        ∧ exec (.fltRetReturn (.host ep) unit) s = .next (settleHost (logAccess Reg.fltRet (wakeUp s)))
        ∧ exec (.fltBcastHalt (.host ep) mask) s = .next (logAccess Reg.fltBcast (wakeUp s)))
      ∧ (unitValid s unit = false → exec (.fltRetRetire .puppeteer unit) s = .next (settleHost (logIgnored unit 1 s))
        ∧ exec (.fltRetReturn .puppeteer unit) s = .next (settleHost (logIgnored unit 2 s)))
      ∧ (unitClass unit = 0 ∨ unitClass unit = 4 → exec (.fltRetReturn .puppeteer unit) s = .next (settleHost (logIgnored unit 2 s)))
      ∧ (unitClass unit = 2 → unitIdx unit < 32 → unit ∉ s.flt.retired → ∃ u,
        exec (.fltRetRetire .puppeteer unit) s = .next (settleHost u) ∧ u.codec.retired.get 0 (unitIdx unit) = 1
          ∧ unit ∈ u.flt.retired)
      ∧ (unitClass unit = 2 → unitIdx unit < 32 → ∃ u, exec (.fltRetReturn .puppeteer unit) s = .next (settleHost u)
          ∧ u.codec.retired.get 0 (unitIdx unit) = 0 ∧ unit ∉ u.flt.retired)
      ∧ (∃ u, exec (.fltBcastHalt .puppeteer mask) s = .next u ∧ ∀ t : Tid,
          (mask.getLsbD t.val = false → tpOf u t = tpOf s t)
          ∧ (mask.getLsbD t.val = true → ((tpOf s t).seq.st = .running ∨ (tpOf s t).seq.st = .waiting) → (tpOf u t).seq.haltp = true)))
  ∧ (∀ s : State,
      (s.tel.done = false → exec (.telFreeze .puppeteer) s = .next (logAccess Reg.telCtrl s))
      ∧ (s.tel.done = true → ∃ u, exec (.telFreeze .puppeteer) s = .next u ∧ u.tel.done = false ∧ u.tel.gen = s.tel.gen
          ∧ u.regs = s.regs ∧ u.tp = s.tp)
      ∧ (s.tel.done = true → exec .freezeReadoutDone s = .next s)
      ∧ (s.tel.done = false → exec .freezeReadoutDone s = .next { s with tel := { s.tel with done := true, gen := s.tel.gen + 1 } }))

/-! ### Memory and the context cache (10) -/

/-- CACHE_ACCESS (R284, R288, R289): an address outside HBM is rejected and logged; a system area's line that a way holds is served
or written there, and HBM stays; with the cache off the access goes to memory; outside the system areas it bypasses the cache. A
miss allocates a line where one can be (R289, R291): the victim leaves the set, a dirty one for the eviction buffer, the fill
waits for its write, and the request for the fill. The fill's arrival puts the line's bytes of memory into its way. A write past
the cache is snooped (R292): absent, it goes to memory; clean, the line is invalidated; dirty, the bytes are merged and also go
to memory, but a scrubber's write is dropped; in the eviction buffer it is held. A read shows the buffer records and stream
contexts that lie there, and a write reaches them (R285, log entry 43). -/
def Obligations.CacheAccesses : Prop :=
  (∀ (agent : Fin 16) (addr : BitVec 48) (l : List Byte) (w g : Nat) (s : State),
      let line := addr.toNat / 128
      let set := cacheSet line
      let v := sysWrite addr.toNat (l.take (128 - addr.toNat % 128)) s
      (groupOfAddr s addr.toNat = none → exec (.cacheAccess agent addr none) s = .next (badAddress addr.toNat s))
      ∧ (groupOfAddr s addr.toNat = some g → inSystem s addr.toNat = true → cacheOn s = true → wayOf s line = some w →
        s.mem.sramBad.get 0 (2 * w * 65536 + set) = 0 →
        (∃ u, exec (.cacheAccess agent addr none) s = .next u ∧ u.cache.hits = s.cache.hits + 1 ∧ u.cache.misses = s.cache.misses
          ∧ u.cache.reads = (agent.val, addr.toNat, sysView s (addr.toNat / 128 * 128) (lineAt s set w).bytes) :: s.cache.reads
          ∧ u.cache.lines = s.cache.lines ∧ u.mem = s.mem)
        ∧ ∃ u, exec (.cacheAccess agent addr (some l)) s = .next u ∧ u.cache.hits = s.cache.hits + 1 ∧ u.mem.hbm = s.mem.hbm
          ∧ u.tbx = v.tbx ∧ u.codec = v.codec
          ∧ lineAt u set w = { lineAt s set w with
              dirty := true, bytes := patch (lineAt s set w).bytes (addr.toNat % 128) (l.take (128 - addr.toNat % 128)) })
      ∧ (groupOfAddr s addr.toNat = some g → inSystem s addr.toNat = true → cacheOn s = false → ∃ u,
        exec (.cacheAccess agent addr (some l)) s = .next (sysPut addr.toNat (l.take (128 - addr.toNat % 128)) u)
          ∧ u.mem = s.mem ∧ u.cache.lines = s.cache.lines ∧ u.tbx = v.tbx ∧ u.codec = v.codec)
      ∧ (groupOfAddr s addr.toNat = some g → inSystem s addr.toNat = false →
        exec (.cacheAccess agent addr (some l)) s = .next (hbmPut addr.toNat (l.take (128 - addr.toNat % 128)) s)))
  ∧ (∀ (line : BitVec 41) (f : CFill) (e : Nat × List Byte) (s : State),
      (∀ agent : Fin 16, ∀ addr : BitVec 48, ∀ g w, line.toNat = addr.toNat / 128 → groupOfAddr s addr.toNat = some g →
        inSystem s addr.toNat = true → cacheOn s = true → wayOf s line.toNat = none →
        (∀ x ∈ s.cache.fills, x.line ≠ line.toNat) → (∀ x ∈ s.cache.evict, x.1 ≠ line.toNat) →
        missFits s line.toNat = some w → (line.toNat + 1) % 32 = 0 →
        let v := lineAt s (cacheSet line.toNat) w
        let dirty := v.valid = true ∧ v.dirty = true
        ∃ u, exec (.cacheAccess agent addr none) s = .next u ∧ u.cache.misses = s.cache.misses + 1
          ∧ u.cache.fills = s.cache.fills ++ [⟨line.toNat, cacheSet line.toNat, w, false, if dirty then some v.tag else none⟩]
          ∧ u.cache.waits = s.cache.waits ++ [⟨agent, addr.toNat, none⟩]
          ∧ u.cache.evict = (if dirty then s.cache.evict ++ [(v.tag, v.bytes)] else s.cache.evict)
          ∧ (lineAt u (cacheSet line.toNat) w).valid = false ∧ u.mem = s.mem)
      ∧ ((∀ x ∈ s.cache.fills, x.line ≠ line.toNat) → exec (.cacheFill line) s = .next s)
      ∧ (s.cache.fills.find? (fun x => x.line == line.toNat && x.blocked.isNone) = some f → s.cache.waits = [] →
        s.mem.bad.range (line.toNat * 16) 16 = [] → s.mem.poison.contains line.toNat = false → s.mem.flipArm = false →
        ∃ u, exec (.cacheFill line) s = .next u ∧ u.cache.fills = s.cache.fills.erase f
          ∧ lineAt u f.set f.way = { valid := true, dirty := false, tag := line.toNat, bytes := hbmGet s (line.toNat * 128) 128 }
          ∧ u.mem.hbm = s.mem.hbm)
      ∧ ((∀ x ∈ s.cache.evict, x.1 ≠ line.toNat) → exec (.evictionAccept line) s = .next s)
      ∧ (s.cache.evict.find? (fun x => x.1 == line.toNat) = some e → s.cache.waits = [] → s.cache.snoopHeld = [] → ∃ u,
        exec (.evictionAccept line) s = .next u ∧ u.cache.evict = s.cache.evict.erase e ∧ u.cache.wbacks = s.cache.wbacks + 1
          ∧ u.mem.hbm = (sysPut (line.toNat * 128) e.2 s).mem.hbm
          ∧ ∀ x ∈ u.cache.fills, x.blocked ≠ some line.toNat))
  ∧ (∀ (addr : BitVec 48) (l : List Byte) (b : Bool) (w g : Nat) (s : State), l ≠ [] → addr.toNat % 128 + l.length ≤ 128 →
      let line := addr.toNat / 128
      let set := cacheSet line
      let x := lineAt s set w
      let v := if b then s else sysWrite addr.toNat l s
      (groupOfAddr s addr.toNat = none → exec (.snoopWrite addr l b) s = .next (badAddress addr.toNat s))
      ∧ (groupOfAddr s addr.toNat = some g → inSystem s addr.toNat = false → exec (.snoopWrite addr l b) s = .next (hbmPut addr.toNat l v))
      ∧ (groupOfAddr s addr.toNat = some g → inSystem s addr.toNat = true →
        ((∃ e ∈ s.cache.evict, e.1 = line) → exec (.snoopWrite addr l b) s
          = .next { v with cache := { v.cache with snoopHeld := v.cache.snoopHeld ++ [(addr.toNat, l)] } })
        ∧ ((∀ e ∈ s.cache.evict, e.1 ≠ line) →
          (wayOf s line = none → exec (.snoopWrite addr l b) s = .next (sysPut addr.toNat l v))
          ∧ (wayOf s line = some w → x.dirty = false → exec (.snoopWrite addr l b) s
            = .next (sysPut addr.toNat l (putLine set w Line.reset v)))
          ∧ (wayOf s line = some w → x.dirty = true → b = true → exec (.snoopWrite addr l b) s = .next s)
          ∧ (wayOf s line = some w → x.dirty = true → b = false → exec (.snoopWrite addr l b) s
            = .next (sysPut addr.toNat l (putLine set w { x with bytes := patch x.bytes (addr.toNat % 128) l } v))))))

/-- Enabling the cache (R293): in INV mode INIT invalidates every tag and EN waits for INITDONE; clearing EN leaves no dirty line;
in PWRDN mode both are ignored, a powered-down way is cleaned, and in both modes a retired way stays retired. A host needs
DBG_EN of transport 0. Range operations (R294): one at a time; a clean leaves no dirty line in the range, the other two leave
none there, and a discard writes nothing back. -/
def Obligations.CacheControl : Prop :=
  (∀ (ep : Fin 4) (ways : BitVec 16) (en : Bool) (w : Fin 16) (s : State),
      (romHeld (.host ep) s = false → dbgEn s 0 = false → exec (.ccInit (.host ep)) s = .next (logAccess Reg.ccCtrl (wakeUp s))
        ∧ exec (.ccEnable (.host ep) en) s = .next (logAccess Reg.ccCtrl (wakeUp s))
        ∧ exec (.ccWayPower (.host ep) ways) s = .next (logAccess Reg.ccWays (wakeUp s)))
      ∧ (s.ccMode = true → exec (.ccInit .puppeteer) s = .next s ∧ exec (.ccEnable .puppeteer en) s = .next s)
      ∧ (s.ccMode = false →
        exec (.ccInit .puppeteer) s = .next { s with cache := { s.cache with initBusy := true, initDone := false } }
        ∧ exec (.ccWayPower .puppeteer ways) s = .next s
        ∧ (s.cache.initDone = false → exec (.ccEnable .puppeteer true) s = .next (logAccess Reg.ccCtrl s))
        ∧ (s.cache.initDone = true → exec (.ccEnable .puppeteer true) s = .next { s with cache := { s.cache with enabled := true } })
        ∧ ∃ u, exec (.ccEnable .puppeteer false) s = .next u ∧ u.cache.enabled = false
          ∧ ∀ set v, v < 16 → (lineAt u set v).valid = true → (lineAt u set v).dirty = false)
      ∧ (s.cache.initBusy = false → exec .ccInitDone s = .next s)
      ∧ (s.cache.initBusy = true → ∃ u, exec .ccInitDone s = .next u ∧ u.cache.initDone = true ∧ u.cache.initBusy = false
        ∧ ∀ set v, (lineAt u set v).valid = false)
      ∧ (s.ccMode = true → s.cache.pwr &&& ways = s.cache.pwr → s.cache.clean = [] →
        exec (.ccWayPower .puppeteer ways) s = .next { s with cache := { s.cache with pwr := ways } })
      ∧ (s.ccMode = true → ∃ u, exec (.ccWayPower .puppeteer ways) s = .next u ∧ u.cache.pwr = ways
        ∧ ∀ k, k < 16 → s.cache.pwr.getLsbD k = true → ways.getLsbD k = false → (k, 0) ∈ u.cache.clean)
      ∧ (∃ u, exec (.ccWayRetire .puppeteer ways) s = .next u ∧ u.cache.ret = s.cache.ret ||| ways)
      ∧ ((∀ x ∈ s.cache.clean, x.1 ≠ w.val) → exec (.ccWayCleanDone w) s = .next s)
      ∧ ((∃ x ∈ s.cache.clean, x.1 = w.val ∧ x.2 ≠ 2) → ∃ u, exec (.ccWayCleanDone w) s = .next u
        ∧ (∀ x ∈ u.cache.clean, x.1 ≠ w.val) ∧ ∀ set, (lineAt u set w).valid = false))
  ∧ (∀ s : State,
      let b := pair s (Reg.ccRngbase 0) (Reg.ccRngbase 1) / 128
      let n := fld s Reg.ccRnglen Fld.ccRnglenLines
      let ran (u : State) (m : Nat) : Prop := u.cache.rngBusy = true ∧ fld u Reg.ccRngcmd Fld.ccRngcmdCmd = m
      (s.cache.rngBusy = true → exec (.ccRangeClean .puppeteer) s = .next (logAccess Reg.ccRngcmd s)
        ∧ exec (.ccRangeCleanInvalidate .puppeteer) s = .next (logAccess Reg.ccRngcmd s)
        ∧ exec (.ccRangeDiscard .puppeteer) s = .next (logAccess Reg.ccRngcmd s))
      ∧ (s.cache.rngBusy = false →
        (∃ u, exec (.ccRangeClean .puppeteer) s = .next u ∧ ran u 1 ∧ ∀ set v, v < 16 → (lineAt u set v).valid = true →
          b ≤ (lineAt u set v).tag → (lineAt u set v).tag < b + n → (lineAt u set v).dirty = false)
        ∧ (∃ u, exec (.ccRangeCleanInvalidate .puppeteer) s = .next u ∧ ran u 2 ∧ ∀ set v, v < 16 →
          b ≤ (lineAt u set v).tag → (lineAt u set v).tag < b + n → (lineAt u set v).valid = false)
        ∧ ∃ u, exec (.ccRangeDiscard .puppeteer) s = .next u ∧ ran u 3 ∧ u.mem = s.mem ∧ ∀ set v, v < 16 →
          b ≤ (lineAt u set v).tag → (lineAt u set v).tag < b + n → (lineAt u set v).valid = false)
      ∧ exec .ccRangeWalkDone s = .next { s with cache := { s.cache with rngBusy := false } })

/-- The scratchpad (R284, R295): only Puppeteer and the slices reach its window; a slot that is not ready reads zero and is not
written, and the access is logged; a slot that becomes ready reads zero. The scrubber, flips and remaps (R299, R300, R303): the
scrubber rests before the sweep and in PS2 and PS3, and leaves a line without errors as it is; ARM holds the selection for the
next write, but a pseudo-channel the stacks do not have is rejected (R35); an entry written valid copies its word to the spare. -/
def Obligations.ScratchpadAndScrub : Prop :=
  (∀ (sp : BitVec 8) (slot : Fin 8) (agent : Fin 16) (addr : BitVec 48) (l : List Byte) (s : State),
      let o := addr.toNat - 0x1000000000
      let reach := agent.val = 3 ∨ (4 ≤ agent.val ∧ agent.val < 12)
      (∃ u, exec (.ccScratchpad .puppeteer sp) s = .next u ∧ u.cache.sp = sp ∧ u.cache.spReady = s.cache.spReady &&& sp)
      ∧ ((∀ x ∈ s.cache.clean, x ≠ (8 + slot.val, 2)) → exec (.scratchpadReady slot) s = .next s)
      ∧ ((8 + slot.val, 2) ∈ s.cache.clean → ∃ u, exec (.scratchpadReady slot) s = .next u ∧ u.cache.spReady.getLsbD slot.val = true
        ∧ ∀ k, k < 2 ^ 20 → u.cache.spMem.get 0 (slot.val * 2 ^ 20 + k) = 0)
      ∧ ((addr.toNat < 0x1000000000 ∨ 0x1000800000 ≤ addr.toNat ∨ ¬reach) →
        exec (.scratchpadAccess agent addr none) s = .next (badAddress addr.toNat s))
      ∧ (0x1000000000 ≤ addr.toNat → addr.toNat < 0x1000800000 → reach →
        (s.cache.spReady.getLsbD (o / 2 ^ 20) = false →
          exec (.scratchpadAccess agent addr (some l)) s = .next (logAccess addr.toNat s)
          ∧ ∃ u, exec (.scratchpadAccess agent addr none) s = .next u ∧ u.cache.spMem = s.cache.spMem
            ∧ u.cache.reads = (agent.val, addr.toNat, zeros 128) :: s.cache.reads)
        ∧ (s.cache.spReady.getLsbD (o / 2 ^ 20) = true →
          exec (.scratchpadAccess agent addr (some l)) s = .next { s with cache := { s.cache with
            spMem := s.cache.spMem.write 0 o (l.take (128 - o % 128)) } }
          ∧ exec (.scratchpadAccess agent addr none) s = .next { s with cache := { s.cache with
            reads := (agent.val, addr.toNat, s.cache.spMem.read 0 (o / 128 * 128) 128) :: s.cache.reads } })))
  ∧ (∀ (sel : BitVec 13) (n : Fin 2048) (e : Fin 4) (word : BitVec 16) (v : Bool) (s : State),
      ((fld s Reg.scrCfg Fld.scrCfgEn = 0 ∨ s.mem.swept = false ∨ 2 ≤ s.hif.ps) → exec .scrubLine s = .next s)
      ∧ (fld s Reg.scrCfg Fld.scrCfgEn = 1 → s.mem.swept = true → s.hif.ps < 2 → s.mem.bad.range (s.mem.scrPos / 8) 16 = [] →
        ∃ u, exec .scrubLine s = .next u ∧ u.mem = { s.mem with scrPos := (scrubNext s s.mem.scrPos).1 })
      ∧ (flipTargetFits s sel = false → exec (.memFlipArm .puppeteer sel) s = .next (logAccess Reg.memFlipsel s))
      ∧ (flipTargetFits s sel = true → ∃ u, exec (.memFlipArm .puppeteer sel) s = .next u ∧ u.mem = { s.mem with flipArm := true }
        ∧ fld u Reg.memFlipsel Fld.memFlipselTarget = sel.toNat % 4096 ∧ fld u Reg.memFlipsel Fld.memFlipselKind = sel.toNat / 4096)
      ∧ (n.val < 0x100 ∨ 0x400 ≤ n.val → exec (.memRemapWrite .puppeteer n e word v) s = .next s)
      ∧ (0x100 ≤ n.val → n.val < 0x400 → ∃ u, exec (.memRemapWrite .puppeteer n e word v) s = .next u
        ∧ fld u (Reg.memRemap n e) Fld.memRemapWord = word.toNat ∧ fld u (Reg.memRemap n e) Fld.memRemapValid = v.toNat
        ∧ (v = true → u.mem.spare.get 0 (4 * n.val + e.val) = s.mem.sram.get 0 (n.val * 65536 + word.toNat))
        ∧ (v = false → u.mem = s.mem)))

/-! ### Register accesses (00, 01) -/

/-- What does not reach a register (R7, R33, R34, R280): an access of another size or alignment has no effect on it, is logged, and
reads all ones; an unmapped offset reads zero, takes no write and is logged; in the window of a chiplet that is down a read
returns all ones. While the boot ROM holds the register pages (R318) a host access has no effect (log entry 30). -/
def Obligations.AccessesThatMiss : Prop :=
  ∀ (src : Src) (off : BitVec 28) (size : Fin 16) (v : W32) (s : State),
    let w := hostWakes src s
    let l := logAccess off.toNat w
    (romHeld src s = true → (∀ b, exec (.malformedRegisterAccess src off size b) s = .next s ∧ exec (.unmappedAccess src off b) s = .next s)
      ∧ exec (.registerWrite src off v) s = .next (settleHost w) ∧ exec (.registerReadClear src off) s = .next w)
    ∧ (romHeld src s = false → off.toNat % 4 ≠ 0 ∨ size.val ≠ 4 →
      exec (.malformedRegisterAccess src off size false) s = .next l
      ∧ exec (.malformedRegisterAccess src off size true) s = .next { l with readData := 0xFFFFFFFF })
    ∧ (off.toNat % 4 = 0 → size.val = 4 → ∀ b, exec (.malformedRegisterAccess src off size b) s = .next s)
    ∧ (romHeld src s = false → mapped s off.toNat = false → exec (.unmappedAccess src off false) s = .next l
      ∧ exec (.unmappedAccess src off true) s = .next { l with readData := 0 })
    ∧ (romHeld src s = false → off.toNat % 4 = 0 → chipletDown w off.toNat = false → mapped w off.toNat = false →
      exec (.registerWrite src off v) s = .next (settleHost l)
      ∧ exec (.registerReadClear src off) s = .next { l with readData := 0 })
    ∧ (romHeld src s = false → off.toNat % 4 = 0 → chipletDown w off.toNat = true →
      exec (.registerWrite src off v) s = .next (settleHost l)
      ∧ exec (.registerReadClear src off) s = .next { l with readData := 0xFFFFFFFF })

/-- What a write leaves in a field (R10): RW takes the value, RW-L does until its block is locked, W1C drops the bits written 1,
and a read-only or read-clear field stays. A register without actions of its own (R7, R10, R20, R35): a source that may not write
it, and a value outside its fields' ranges, are ignored and logged; else its fields are written; while a sequencer it concerns
runs, a write of a register without live fields is discarded and logged. A read returns its value with the write-only fields zero
and clears its read-clear fields. -/
def Obligations.PlainRegisters : Prop :=
  (∀ (lock : Bool) (f : RField) (old new : Nat),
      let o := old / 2 ^ f.lo % 2 ^ f.w
      let n := new / 2 ^ f.lo % 2 ^ f.w
      (f.acc = .rw → fieldNew lock f old new = n)
      ∧ (f.acc = .rwl → lock = false → fieldNew lock f old new = n)
      ∧ (f.acc = .rwl → lock = true → fieldNew lock f old new = o)
      ∧ (f.acc = .ro ∨ f.acc = .rc → fieldNew lock f old new = o)
      ∧ (f.acc = .w1c → ∀ k, k < f.w → (fieldNew lock f old new).testBit k = (o.testBit k && !n.testBit k)))
  ∧ (∀ (src : Src) (off : BitVec 28) (v : W32) (row : RRow) (ix : List Nat) (s : State),
      let w := hostWakes src s
      let o := off.toNat
      accessBars src o w = none → windowVal w o = none → regAt o = some (row, ix) → pairOf o = none →
      (ownWrite src row.base (ix.getD 0 0) (ix.getD 1 0) o v = none →
        (mayWrite src row.guard o v w = false → exec (.registerWrite src off v) s = .next (settleHost (logAccess o w)))
        ∧ (mayWrite src row.guard o v w = true → row.guard ≠ .nobody →
          ((rangesFit row.fields v.toNat = false ∨ valueFits w o v = false) →
            exec (.registerWrite src off v) s = .next (settleHost (logAccess o w)))
          ∧ (rangesFit row.fields v.toNat = true → valueFits w o v = true → offRuns w o = false → lockedAt w o = false →
            exec (.registerWrite src off v) s = .next (settleHost (afterWrite o
              (setReg o (BitVec.ofNat 32 (fieldsNew false false row.fields (reg w o).toNat v.toNat)) w))))
          ∧ (rangesFit row.fields v.toNat = true → valueFits w o v = true → offRuns w o = true →
            (∀ f ∈ row.fields, f.live = false) → lockedAt w o = false → ∃ u,
              exec (.registerWrite src off v) s = .next (settleHost (afterWrite o u)) ∧ (∀ a, reg u a = reg w a)
                ∧ u.flt = (logAccess o w).flt ∧ u.tp = w.tp ∧ u.mem = w.mem ∧ u.hif = w.hif)))
      ∧ ∃ u, exec (.registerReadClear src off) s = .next u ∧ u.readData = dropFlds .wo row.fields (regVal w o)
        ∧ ((∀ f ∈ row.fields, f.acc ≠ .rc) → u.regs = w.regs)
        ∧ ((∃ f ∈ row.fields, f.acc = .rc) → reg u o = dropFlds .rc row.fields (reg w o)) ∧ u.tp = w.tp ∧ u.mem = w.mem)

/-- 64-bit pairs (R9): a read of the lower register latches the upper half, which the next read of the upper one returns and uses
up; without a latch it returns the current half; a write to the lower register is held and takes effect with the upper one's,
and with none held the lower half stays. -/
def Obligations.RegisterPairs : Prop :=
  ∀ (src : Src) (lo : BitVec 28) (v : W32) (row : RRow) (ix : List Nat) (s : State),
    let w := hostWakes src s
    let l := lo.toNat
    (accessBars src l w = none → pairOf l = some (l, false) → ∃ u, exec (.pairLowerRead src lo) s = .next u
      ∧ u.readData = (plainRead l w).1 ∧ latchOf u l = some (plainRead (l + 4) w).1)
    ∧ (∀ up : BitVec 28, up.toNat = l + 4 → accessBars src (l + 4) w = none → pairOf (l + 4) = some (l, true) → ∃ u,
      exec (.pairUpperRead src up) s = .next u ∧ latchOf u l = none
        ∧ (∀ x, latchOf w l = some x → u.readData = x) ∧ (latchOf w l = none → u.readData = (plainRead (l + 4) w).1))
    ∧ (accessBars src l w = none → windowVal w l = none → regAt l = some (row, ix) → pairOf l = some (l, false) →
      ownWrite src row.base (ix.getD 0 0) (ix.getD 1 0) l v = none → mayWrite src row.guard l v w = true → row.guard ≠ .nobody →
      exec (.registerWrite src lo v) s = .next (settleHost { w with pairHeld := w.pairHeld.set none l (some v) }))
    ∧ (∀ up : BitVec 28, up.toNat = l + 4 → accessBars src (l + 4) w = none → windowVal w (l + 4) = none → windowVal w l = none →
      regAt (l + 4) = some (row, ix) → pairOf (l + 4) = some (l, true) →
      ownWrite src row.base (ix.getD 0 0) (ix.getD 1 0) (l + 4) v = none → mayWrite src row.guard (l + 4) v w = true →
      row.guard ≠ .nobody → exec (.registerWrite src up v) s = .next (settleHost (pairEffect l
        (v ++ (w.pairHeld.get none l).getD (reg w l)) { w with pairHeld := w.pairHeld.set none l none })))
end

