-- ==== Sys2Proof/Laws/Map.lean ====
section
/-! SUPPORT. What reading and writing a sparse map does, and that every operation on one keeps its canonical form. -/
namespace Sys2Proof.Machine

theorem cellFind_erase {α : Type} (k j : Nat) (l : List (Nat × α)) :
    cellFind j (cellErase k l) = if j = k then none else cellFind j l := by
  induction l with
  | nil => simp [cellErase, cellFind]
  | cons c r ih =>
    obtain ⟨i, v⟩ := c
    by_cases hik : i = k
    · subst hik
      by_cases hj : j = i
      · subst hj
        simpa [cellErase] using ih
      · simp [cellErase, ih, cellFind, hj, Ne.symm hj]
    · by_cases hij : i = j
      · subst hij
        simp [cellErase, cellFind, hik]
      · simp [cellErase, cellFind, hik, hij, ih]

theorem cellFind_insert {α : Type} (k j : Nat) (v : α) (l : List (Nat × α)) (h : cellFind k l = none) :
    cellFind j (cellInsert k v l) = if j = k then some v else cellFind j l := by
  induction l with
  | nil =>
    by_cases hj : j = k
    · simp [cellInsert, cellFind, hj]
    · simp [cellInsert, cellFind, hj, Ne.symm hj]
  | cons c r ih =>
    obtain ⟨i, w⟩ := c
    by_cases hik : i = k
    · simp [cellFind, hik] at h
    · have hr : cellFind k r = none := by simpa [cellFind, hik] using h
      by_cases hlt : k < i
      · by_cases hj : j = k
        · simp [cellInsert, cellFind, hlt, hj]
        · simp [cellInsert, cellFind, hlt, hj, Ne.symm hj]
      · by_cases hij : i = j
        · subst hij
          simp [cellInsert, cellFind, hlt, hik]
        · simp [cellInsert, cellFind, hlt, hij, ih hr]

/-- Read after write. -/
theorem SMap.get_set {α : Type} [DecidableEq α] (m : SMap α) (d : α) (k j : Nat) (v : α) :
    (m.set d k v).get d j = if j = k then v else m.get d j := by
  unfold SMap.set SMap.get
  by_cases hv : v = d
  · simp only [hv, if_true, cellFind_erase]
    split <;> simp
  · simp only [hv, if_false]
    rw [cellFind_insert _ _ _ _ (by simp [cellFind_erase]), cellFind_erase]
    split <;> simp

@[simp] theorem SMap.get_set_self {α : Type} [DecidableEq α] (m : SMap α) (d : α) (k : Nat) (v : α) :
    (m.set d k v).get d k = v := by simp [SMap.get_set]

@[simp] theorem SMap.get_empty {α : Type} (d : α) (k : Nat) : (({ } : SMap α)).get d k = d := rfl

/-- Reading after a list of values was written. -/
theorem SMap.get_write {α : Type} [DecidableEq α] (l : List α) (m : SMap α) (z : α) (a j : Nat) :
    (m.write z a l).get z j = if a ≤ j ∧ j < a + l.length then l.getD (j - a) z else m.get z j := by
  induction l generalizing m a with
  | nil =>
    have : ¬(a ≤ j ∧ j < a + ([] : List α).length) := by simp
    rw [if_neg this]
    rfl
  | cons v r ih =>
    rw [SMap.write, ih, SMap.get_set]
    by_cases h : j = a
    · subst h
      simp
    · by_cases h1 : a + 1 ≤ j ∧ j < a + 1 + r.length
      · have h2 : a ≤ j ∧ j < a + (v :: r).length := by simp; omega
        rw [if_pos h1, if_pos h2]
        obtain ⟨n, rfl⟩ : ∃ n, j = a + 1 + n := ⟨j - (a + 1), by omega⟩
        simp [show a + 1 + n - (a + 1) = n by omega, show a + 1 + n - a = n + 1 by omega]
      · have h2 : ¬(a ≤ j ∧ j < a + (v :: r).length) := by simp; omega
        rw [if_neg h1, if_neg h2, if_neg h]

/-- A write at or behind a range leaves what is read of it. -/
theorem SMap.read_write_below {α : Type} [DecidableEq α] (l : List α) (m : SMap α) (z : α) (a b n : Nat) (h : b + n ≤ a) :
    (m.write z a l).read z b n = m.read z b n := by
  induction n generalizing b with
  | zero => rfl
  | succ n ih => rw [SMap.read, SMap.read, ih (b + 1) (by omega), SMap.get_write, if_neg (by omega)]

/-- What was written reads back. -/
theorem SMap.read_write {α : Type} [DecidableEq α] (l : List α) (m : SMap α) (z : α) (a : Nat) :
    (m.write z a l).read z a l.length = l := by
  have h : ∀ (n b : Nat) (m' : SMap α), (∀ i, i < n → m'.get z (b + i) = l.getD (b - a + i) z) → a ≤ b → b - a + n = l.length →
      m'.read z b n = l.drop (b - a) := by
    intro n
    induction n with
    | zero => intro b m' _ _ hn; simp [SMap.read, List.drop_eq_nil_of_le (show l.length ≤ b - a by omega)]
    | succ n ih =>
      intro b m' hg hb hn
      have h0 : m'.get z b = l.getD (b - a) z := by simpa using hg 0 (by omega)
      have h1 : b - a < l.length := by omega
      rw [SMap.read, ih (b + 1) m' (fun i hi => by
        have := hg (i + 1) (by omega)
        rw [show b + 1 + i = b + (i + 1) by omega, this, show b + 1 - a + i = b - a + (i + 1) by omega]) (by omega) (by omega),
        h0, List.drop_eq_getElem_cons h1, List.getD_eq_getElem _ _ h1, show b + 1 - a = b - a + 1 by omega]
  have := h l.length a (m.write z a l) (fun i hi => by
    rw [SMap.get_write, if_pos ⟨by omega, by omega⟩]; simp [show a + i - a = i by omega]) (le_refl a) (by omega)
  simpa using this

theorem cellFind_filter {α : Type} (p : Nat → Bool) (l : List (Nat × α)) (j : Nat) :
    cellFind j (l.filter (fun c => p c.1)) = if p j then cellFind j l else none := by
  induction l with
  | nil => simp [cellFind]
  | cons c r ih =>
    obtain ⟨i, v⟩ := c
    by_cases hp : p i = true
    · by_cases hij : i = j
      · subst hij
        simp [cellFind, hp]
      · simp [cellFind, hp, hij, ih]
    · by_cases hij : i = j
      · subst hij
        simp [hp, ih]
      · simp [cellFind, hp, hij, ih]

/-- Cleared keys read as unlisted ones; no other changes. -/
theorem SMap.get_clear {α : Type} (m : SMap α) (d : α) (a n j : Nat) :
    (m.clear a n).get d j = if a ≤ j ∧ j < a + n then d else m.get d j := by
  unfold SMap.clear SMap.get
  rw [cellFind_filter (fun k => decide (k < a ∨ a + n ≤ k))]
  by_cases h : a ≤ j ∧ j < a + n
  · have : ¬(j < a ∨ a + n ≤ j) := by omega
    simp [this, h]
  · have : j < a ∨ a + n ≤ j := by omega
    simp [this, h]

/-! ### The canonical form -/

/-- Every key is above a bound. -/
def cellsAbove {α : Type} (b : Nat) (l : List (Nat × α)) : Prop := ∀ c ∈ l, b < c.1

theorem cellsRise_cons {α : Type} (k : Nat) (v : α) (l : List (Nat × α)) :
    cellsRise ((k, v) :: l) = true ↔ cellsAbove k l ∧ cellsRise l = true := by
  induction l generalizing k v with
  | nil => simp [cellsRise, cellsAbove]
  | cons c r ih =>
    obtain ⟨j, w⟩ := c
    simp only [cellsRise, Bool.and_eq_true, decide_eq_true_eq, cellsAbove]
    constructor
    · rintro ⟨h1, h2⟩
      refine ⟨?_, h2⟩
      intro c hc
      rcases List.mem_cons.mp hc with rfl | hc
      · exact h1
      · exact lt_trans h1 ((ih j w).mp h2 |>.1 c hc)
    · rintro ⟨h1, h2⟩
      exact ⟨h1 _ List.mem_cons_self, h2⟩

theorem mem_cellErase {α : Type} (k : Nat) (l : List (Nat × α)) (c : Nat × α) :
    c ∈ cellErase k l ↔ c ∈ l ∧ c.1 ≠ k := by
  induction l with
  | nil => simp [cellErase]
  | cons d r ih =>
    obtain ⟨j, w⟩ := d
    by_cases hj : j = k
    · simp only [cellErase, hj, if_true, ih, List.mem_cons]
      constructor
      · rintro ⟨h1, h2⟩
        exact ⟨Or.inr h1, h2⟩
      · rintro ⟨rfl | h1, h2⟩
        · exact absurd rfl h2
        · exact ⟨h1, h2⟩
    · simp only [cellErase, hj, if_false, List.mem_cons, ih]
      constructor
      · rintro (rfl | ⟨h1, h2⟩)
        · exact ⟨Or.inl rfl, hj⟩
        · exact ⟨Or.inr h1, h2⟩
      · rintro ⟨rfl | h1, h2⟩
        · exact Or.inl rfl
        · exact Or.inr ⟨h1, h2⟩

theorem mem_cellInsert {α : Type} (k : Nat) (v : α) (l : List (Nat × α)) (c : Nat × α) :
    c ∈ cellInsert k v l ↔ c = (k, v) ∨ c ∈ l := by
  induction l with
  | nil => simp [cellInsert]
  | cons d r ih =>
    obtain ⟨j, w⟩ := d
    by_cases h : k < j
    · simp [cellInsert, h]
    · simp only [cellInsert, h, if_false, List.mem_cons, ih]
      tauto

theorem cellsRise_erase {α : Type} (k : Nat) (l : List (Nat × α)) (h : cellsRise l = true) : cellsRise (cellErase k l) = true := by
  induction l with
  | nil => rfl
  | cons d r ih =>
    obtain ⟨j, w⟩ := d
    obtain ⟨h1, h2⟩ := (cellsRise_cons j w r).mp h
    by_cases hj : j = k
    · simpa [cellErase, hj] using ih h2
    · simp only [cellErase, hj, if_false]
      exact (cellsRise_cons j w _).mpr ⟨fun c hc => h1 c ((mem_cellErase k r c).mp hc).1, ih h2⟩

theorem cellsRise_insert {α : Type} (k : Nat) (v : α) (l : List (Nat × α)) (h : cellsRise l = true)
    (hk : ∀ c ∈ l, c.1 ≠ k) : cellsRise (cellInsert k v l) = true := by
  induction l with
  | nil => rfl
  | cons d r ih =>
    obtain ⟨j, w⟩ := d
    obtain ⟨h1, h2⟩ := (cellsRise_cons j w r).mp h
    have hjk : j ≠ k := hk (j, w) List.mem_cons_self
    by_cases hlt : k < j
    · simp only [cellInsert, hlt, if_true]
      refine (cellsRise_cons k v _).mpr ⟨?_, h⟩
      intro c hc
      rcases List.mem_cons.mp hc with rfl | hc
      · exact hlt
      · exact lt_trans hlt (h1 c hc)
    · simp only [cellInsert, hlt, if_false]
      refine (cellsRise_cons j w _).mpr ⟨?_, ih h2 (fun c hc => hk c (List.mem_cons_of_mem _ hc))⟩
      intro c hc
      rcases (mem_cellInsert k v r c).mp hc with rfl | hc
      · show j < k
        omega
      · exact h1 c hc

theorem SMap.wf_iff {α : Type} [DecidableEq α] (m : SMap α) (d : α) :
    m.wf d = true ↔ cellsRise m.cells = true ∧ ∀ c ∈ m.cells, c.2 ≠ d := by
  simp [SMap.wf]

/-- A write keeps the canonical form. -/
theorem SMap.set_wf {α : Type} [DecidableEq α] (m : SMap α) (d : α) (k : Nat) (v : α) (h : m.wf d = true) :
    (m.set d k v).wf d = true := by
  obtain ⟨h1, h2⟩ := (SMap.wf_iff m d).mp h
  unfold SMap.set
  by_cases hv : v = d
  · rw [if_pos hv, SMap.wf_iff]
    exact ⟨cellsRise_erase k _ h1, fun c hc => h2 c ((mem_cellErase k _ c).mp hc).1⟩
  · rw [if_neg hv, SMap.wf_iff]
    refine ⟨cellsRise_insert k v _ (cellsRise_erase k _ h1) (fun c hc => ((mem_cellErase k _ c).mp hc).2), ?_⟩
    intro c hc
    rcases (mem_cellInsert k v _ c).mp hc with rfl | hc
    · exact hv
    · exact h2 c ((mem_cellErase k _ c).mp hc).1

theorem cellsRise_filter {α : Type} (p : Nat × α → Bool) (l : List (Nat × α)) (h : cellsRise l = true) :
    cellsRise (l.filter p) = true := by
  induction l with
  | nil => rfl
  | cons d r ih =>
    obtain ⟨j, w⟩ := d
    obtain ⟨h1, h2⟩ := (cellsRise_cons j w r).mp h
    by_cases hp : p (j, w) = true
    · rw [List.filter_cons_of_pos hp]
      exact (cellsRise_cons j w _).mpr ⟨fun c hc => h1 c (List.mem_of_mem_filter hc), ih h2⟩
    · rw [List.filter_cons_of_neg hp]
      exact ih h2

/-- Clearing keeps the canonical form. -/
theorem SMap.clear_wf {α : Type} [DecidableEq α] (m : SMap α) (d : α) (a n : Nat) (h : m.wf d = true) :
    (m.clear a n).wf d = true := by
  obtain ⟨h1, h2⟩ := (SMap.wf_iff m d).mp h
  rw [SMap.wf_iff]
  exact ⟨cellsRise_filter _ _ h1, fun c hc => h2 c (List.mem_of_mem_filter hc)⟩

/-- Writing a list of values keeps the canonical form. -/
theorem SMap.write_wf {α : Type} [DecidableEq α] (l : List α) (m : SMap α) (d : α) (a : Nat) (h : m.wf d = true) :
    (m.write d a l).wf d = true := by
  induction l generalizing m a with
  | nil => exact h
  | cons v r ih => exact ih _ _ (SMap.set_wf m d a v h)

/-- Writing a list of cells keeps the canonical form. -/
theorem SMap.putCells_wf {α : Type} [DecidableEq α] (l : List (Nat × α)) (m : SMap α) (z : α) (u d : Nat) (h : m.wf z = true) :
    (m.putCells z u d l).wf z = true := by
  induction l generalizing m with
  | nil => exact h
  | cons c r ih =>
    obtain ⟨k, v⟩ := c
    exact ih _ (SMap.set_wf m z _ v h)

/-- Copying keeps the canonical form of what is copied into. -/
theorem SMap.copyTo_wf {α : Type} [DecidableEq α] (m m' : SMap α) (z : α) (a n b : Nat) (h : m'.wf z = true) :
    (m.copyTo a n m' z b).wf z = true := SMap.putCells_wf _ _ _ _ _ (SMap.clear_wf m' z b n h)

/-- A map that lists nothing has the canonical form. -/
theorem SMap.empty_wf {α : Type} [DecidableEq α] (d : α) : (({ } : SMap α)).wf d = true := rfl

/-! ### The row of eight -/

@[simp] theorem Oct.get_set_self {α : Type} (o : Oct α) (t : Fin 8) (a : α) : (o.set t a).get t = a := by
  fin_cases t <;> rfl

theorem Oct.get_set_ne {α : Type} (o : Oct α) (t u : Fin 8) (a : α) (h : u ≠ t) : (o.set t a).get u = o.get u := by
  fin_cases t <;> fin_cases u <;> first | rfl | exact absurd rfl h

@[simp] theorem Oct.set_set_self {α : Type} (o : Oct α) (t : Fin 8) (a b : α) : (o.set t a).set t b = o.set t b := by
  fin_cases t <;> rfl

@[simp] theorem Oct.set_get_self {α : Type} (o : Oct α) (t : Fin 8) : o.set t (o.get t) = o := by
  fin_cases t <;> rfl

theorem Oct.get_set {α : Type} (o : Oct α) (t u : Fin 8) (a : α) :
    (o.set t a).get u = if u = t then a else o.get u := by
  by_cases h : u = t
  · subst h
    simp
  · simp [Oct.get_set_ne _ _ _ _ h, h]

@[simp] theorem Oct.get_fill {α : Type} (a : α) (t : Fin 8) : (Oct.fill a).get t = a := by
  fin_cases t <;> rfl

end Sys2Proof.Machine
end

