-- ==== Sys2Proof/Laws/State.lean ====
section
/-! SUPPORT. What the basic updates of the state leave alone: one lemma for each field and update. -/
namespace Sys2Proof.Machine

@[simp] theorem setReg_pending (off : Nat) (v : W32) (s : State) : (setReg off v s).pending = s.pending := rfl
@[simp] theorem setReg_freeCtr (off : Nat) (v : W32) (s : State) : (setReg off v s).freeCtr = s.freeCtr := rfl
@[simp] theorem setReg_clk (off : Nat) (v : W32) (s : State) : (setReg off v s).clk = s.clk := rfl
@[simp] theorem setReg_boot (off : Nat) (v : W32) (s : State) : (setReg off v s).boot = s.boot := rfl
@[simp] theorem setReg_tp (off : Nat) (v : W32) (s : State) : (setReg off v s).tp = s.tp := rfl
@[simp] theorem setReg_mrn (off : Nat) (v : W32) (s : State) : (setReg off v s).mrn = s.mrn := rfl
@[simp] theorem setReg_tbx (off : Nat) (v : W32) (s : State) : (setReg off v s).tbx = s.tbx := rfl
@[simp] theorem setReg_codec (off : Nat) (v : W32) (s : State) : (setReg off v s).codec = s.codec := rfl
@[simp] theorem setReg_hif (off : Nat) (v : W32) (s : State) : (setReg off v s).hif = s.hif := rfl
@[simp] theorem setReg_pwr (off : Nat) (v : W32) (s : State) : (setReg off v s).pwr = s.pwr := rfl
@[simp] theorem setReg_cache (off : Nat) (v : W32) (s : State) : (setReg off v s).cache = s.cache := rfl
@[simp] theorem setReg_mem (off : Nat) (v : W32) (s : State) : (setReg off v s).mem = s.mem := rfl
@[simp] theorem setReg_flt (off : Nat) (v : W32) (s : State) : (setReg off v s).flt = s.flt := rfl
@[simp] theorem setReg_tel (off : Nat) (v : W32) (s : State) : (setReg off v s).tel = s.tel := rfl
@[simp] theorem setReg_pairLatch (off : Nat) (v : W32) (s : State) : (setReg off v s).pairLatch = s.pairLatch := rfl
@[simp] theorem setReg_pairHeld (off : Nat) (v : W32) (s : State) : (setReg off v s).pairHeld = s.pairHeld := rfl
@[simp] theorem setReg_readData (off : Nat) (v : W32) (s : State) : (setReg off v s).readData = s.readData := rfl
@[simp] theorem setReg_capTrig (off : Nat) (v : W32) (s : State) : (setReg off v s).capTrig = s.capTrig := rfl
@[simp] theorem setReg_hostMem (off : Nat) (v : W32) (s : State) : (setReg off v s).hostMem = s.hostMem := rfl
@[simp] theorem setReg_fuses (off : Nat) (v : W32) (s : State) : (setReg off v s).fuses = s.fuses := rfl
@[simp] theorem setReg_revoked (off : Nat) (v : W32) (s : State) : (setReg off v s).revoked = s.revoked := rfl
@[simp] theorem setReg_hbmStacks (off : Nat) (v : W32) (s : State) : (setReg off v s).hbmStacks = s.hbmStacks := rfl
@[simp] theorem setReg_fstep (off : Nat) (v : W32) (s : State) : (setReg off v s).fstep = s.fstep := rfl
@[simp] theorem setReg_rstep (off : Nat) (v : W32) (s : State) : (setReg off v s).rstep = s.rstep := rfl
@[simp] theorem setReg_ccMode (off : Nat) (v : W32) (s : State) : (setReg off v s).ccMode = s.ccMode := rfl
@[simp] theorem setReg_bif0 (off : Nat) (v : W32) (s : State) : (setReg off v s).bif0 = s.bif0 := rfl
@[simp] theorem setReg_bif1 (off : Nat) (v : W32) (s : State) : (setReg off v s).bif1 = s.bif1 := rfl
@[simp] theorem setReg_provision (off : Nat) (v : W32) (s : State) : (setReg off v s).provision = s.provision := rfl
@[simp] theorem setReg_rstCause (off : Nat) (v : W32) (s : State) : (setReg off v s).rstCause = s.rstCause := rfl
@[simp] theorem setReg_images (off : Nat) (v : W32) (s : State) : (setReg off v s).images = s.images := rfl
@[simp] theorem setReg_bootGood (off : Nat) (v : W32) (s : State) : (setReg off v s).bootGood = s.bootGood := rfl

@[simp] theorem setFld_pending (off : Nat) (f : Fld) (x : Nat) (s : State) : (setFld off f x s).pending = s.pending := rfl
@[simp] theorem setFld_freeCtr (off : Nat) (f : Fld) (x : Nat) (s : State) : (setFld off f x s).freeCtr = s.freeCtr := rfl
@[simp] theorem setFld_clk (off : Nat) (f : Fld) (x : Nat) (s : State) : (setFld off f x s).clk = s.clk := rfl
@[simp] theorem setFld_boot (off : Nat) (f : Fld) (x : Nat) (s : State) : (setFld off f x s).boot = s.boot := rfl
@[simp] theorem setFld_tp (off : Nat) (f : Fld) (x : Nat) (s : State) : (setFld off f x s).tp = s.tp := rfl
@[simp] theorem setFld_mrn (off : Nat) (f : Fld) (x : Nat) (s : State) : (setFld off f x s).mrn = s.mrn := rfl
@[simp] theorem setFld_tbx (off : Nat) (f : Fld) (x : Nat) (s : State) : (setFld off f x s).tbx = s.tbx := rfl
@[simp] theorem setFld_codec (off : Nat) (f : Fld) (x : Nat) (s : State) : (setFld off f x s).codec = s.codec := rfl
@[simp] theorem setFld_hif (off : Nat) (f : Fld) (x : Nat) (s : State) : (setFld off f x s).hif = s.hif := rfl
@[simp] theorem setFld_pwr (off : Nat) (f : Fld) (x : Nat) (s : State) : (setFld off f x s).pwr = s.pwr := rfl
@[simp] theorem setFld_cache (off : Nat) (f : Fld) (x : Nat) (s : State) : (setFld off f x s).cache = s.cache := rfl
@[simp] theorem setFld_mem (off : Nat) (f : Fld) (x : Nat) (s : State) : (setFld off f x s).mem = s.mem := rfl
@[simp] theorem setFld_flt (off : Nat) (f : Fld) (x : Nat) (s : State) : (setFld off f x s).flt = s.flt := rfl
@[simp] theorem setFld_tel (off : Nat) (f : Fld) (x : Nat) (s : State) : (setFld off f x s).tel = s.tel := rfl
@[simp] theorem setFld_pairLatch (off : Nat) (f : Fld) (x : Nat) (s : State) : (setFld off f x s).pairLatch = s.pairLatch := rfl
@[simp] theorem setFld_pairHeld (off : Nat) (f : Fld) (x : Nat) (s : State) : (setFld off f x s).pairHeld = s.pairHeld := rfl
@[simp] theorem setFld_readData (off : Nat) (f : Fld) (x : Nat) (s : State) : (setFld off f x s).readData = s.readData := rfl
@[simp] theorem setFld_capTrig (off : Nat) (f : Fld) (x : Nat) (s : State) : (setFld off f x s).capTrig = s.capTrig := rfl
@[simp] theorem setFld_hostMem (off : Nat) (f : Fld) (x : Nat) (s : State) : (setFld off f x s).hostMem = s.hostMem := rfl
@[simp] theorem setFld_fuses (off : Nat) (f : Fld) (x : Nat) (s : State) : (setFld off f x s).fuses = s.fuses := rfl
@[simp] theorem setFld_revoked (off : Nat) (f : Fld) (x : Nat) (s : State) : (setFld off f x s).revoked = s.revoked := rfl
@[simp] theorem setFld_hbmStacks (off : Nat) (f : Fld) (x : Nat) (s : State) : (setFld off f x s).hbmStacks = s.hbmStacks := rfl
@[simp] theorem setFld_fstep (off : Nat) (f : Fld) (x : Nat) (s : State) : (setFld off f x s).fstep = s.fstep := rfl
@[simp] theorem setFld_rstep (off : Nat) (f : Fld) (x : Nat) (s : State) : (setFld off f x s).rstep = s.rstep := rfl
@[simp] theorem setFld_ccMode (off : Nat) (f : Fld) (x : Nat) (s : State) : (setFld off f x s).ccMode = s.ccMode := rfl
@[simp] theorem setFld_bif0 (off : Nat) (f : Fld) (x : Nat) (s : State) : (setFld off f x s).bif0 = s.bif0 := rfl
@[simp] theorem setFld_bif1 (off : Nat) (f : Fld) (x : Nat) (s : State) : (setFld off f x s).bif1 = s.bif1 := rfl
@[simp] theorem setFld_provision (off : Nat) (f : Fld) (x : Nat) (s : State) : (setFld off f x s).provision = s.provision := rfl
@[simp] theorem setFld_rstCause (off : Nat) (f : Fld) (x : Nat) (s : State) : (setFld off f x s).rstCause = s.rstCause := rfl
@[simp] theorem setFld_images (off : Nat) (f : Fld) (x : Nat) (s : State) : (setFld off f x s).images = s.images := rfl
@[simp] theorem setFld_bootGood (off : Nat) (f : Fld) (x : Nat) (s : State) : (setFld off f x s).bootGood = s.bootGood := rfl

@[simp] theorem bumpFld_pending (off : Nat) (f : Fld) (s : State) : (bumpFld off f s).pending = s.pending := rfl
@[simp] theorem bumpFld_freeCtr (off : Nat) (f : Fld) (s : State) : (bumpFld off f s).freeCtr = s.freeCtr := rfl
@[simp] theorem bumpFld_clk (off : Nat) (f : Fld) (s : State) : (bumpFld off f s).clk = s.clk := rfl
@[simp] theorem bumpFld_boot (off : Nat) (f : Fld) (s : State) : (bumpFld off f s).boot = s.boot := rfl
@[simp] theorem bumpFld_tp (off : Nat) (f : Fld) (s : State) : (bumpFld off f s).tp = s.tp := rfl
@[simp] theorem bumpFld_mrn (off : Nat) (f : Fld) (s : State) : (bumpFld off f s).mrn = s.mrn := rfl
@[simp] theorem bumpFld_tbx (off : Nat) (f : Fld) (s : State) : (bumpFld off f s).tbx = s.tbx := rfl
@[simp] theorem bumpFld_codec (off : Nat) (f : Fld) (s : State) : (bumpFld off f s).codec = s.codec := rfl
@[simp] theorem bumpFld_hif (off : Nat) (f : Fld) (s : State) : (bumpFld off f s).hif = s.hif := rfl
@[simp] theorem bumpFld_pwr (off : Nat) (f : Fld) (s : State) : (bumpFld off f s).pwr = s.pwr := rfl
@[simp] theorem bumpFld_cache (off : Nat) (f : Fld) (s : State) : (bumpFld off f s).cache = s.cache := rfl
@[simp] theorem bumpFld_mem (off : Nat) (f : Fld) (s : State) : (bumpFld off f s).mem = s.mem := rfl
@[simp] theorem bumpFld_flt (off : Nat) (f : Fld) (s : State) : (bumpFld off f s).flt = s.flt := rfl
@[simp] theorem bumpFld_tel (off : Nat) (f : Fld) (s : State) : (bumpFld off f s).tel = s.tel := rfl
@[simp] theorem bumpFld_pairLatch (off : Nat) (f : Fld) (s : State) : (bumpFld off f s).pairLatch = s.pairLatch := rfl
@[simp] theorem bumpFld_pairHeld (off : Nat) (f : Fld) (s : State) : (bumpFld off f s).pairHeld = s.pairHeld := rfl
@[simp] theorem bumpFld_readData (off : Nat) (f : Fld) (s : State) : (bumpFld off f s).readData = s.readData := rfl
@[simp] theorem bumpFld_capTrig (off : Nat) (f : Fld) (s : State) : (bumpFld off f s).capTrig = s.capTrig := rfl
@[simp] theorem bumpFld_hostMem (off : Nat) (f : Fld) (s : State) : (bumpFld off f s).hostMem = s.hostMem := rfl
@[simp] theorem bumpFld_fuses (off : Nat) (f : Fld) (s : State) : (bumpFld off f s).fuses = s.fuses := rfl
@[simp] theorem bumpFld_revoked (off : Nat) (f : Fld) (s : State) : (bumpFld off f s).revoked = s.revoked := rfl
@[simp] theorem bumpFld_hbmStacks (off : Nat) (f : Fld) (s : State) : (bumpFld off f s).hbmStacks = s.hbmStacks := rfl
@[simp] theorem bumpFld_fstep (off : Nat) (f : Fld) (s : State) : (bumpFld off f s).fstep = s.fstep := rfl
@[simp] theorem bumpFld_rstep (off : Nat) (f : Fld) (s : State) : (bumpFld off f s).rstep = s.rstep := rfl
@[simp] theorem bumpFld_ccMode (off : Nat) (f : Fld) (s : State) : (bumpFld off f s).ccMode = s.ccMode := rfl
@[simp] theorem bumpFld_bif0 (off : Nat) (f : Fld) (s : State) : (bumpFld off f s).bif0 = s.bif0 := rfl
@[simp] theorem bumpFld_bif1 (off : Nat) (f : Fld) (s : State) : (bumpFld off f s).bif1 = s.bif1 := rfl
@[simp] theorem bumpFld_provision (off : Nat) (f : Fld) (s : State) : (bumpFld off f s).provision = s.provision := rfl
@[simp] theorem bumpFld_rstCause (off : Nat) (f : Fld) (s : State) : (bumpFld off f s).rstCause = s.rstCause := rfl
@[simp] theorem bumpFld_images (off : Nat) (f : Fld) (s : State) : (bumpFld off f s).images = s.images := rfl
@[simp] theorem bumpFld_bootGood (off : Nat) (f : Fld) (s : State) : (bumpFld off f s).bootGood = s.bootGood := rfl

@[simp] theorem modTp_pending (t : Tid) (f : Tp → Tp) (s : State) : (modTp t f s).pending = s.pending := rfl
@[simp] theorem modTp_freeCtr (t : Tid) (f : Tp → Tp) (s : State) : (modTp t f s).freeCtr = s.freeCtr := rfl
@[simp] theorem modTp_clk (t : Tid) (f : Tp → Tp) (s : State) : (modTp t f s).clk = s.clk := rfl
@[simp] theorem modTp_boot (t : Tid) (f : Tp → Tp) (s : State) : (modTp t f s).boot = s.boot := rfl
@[simp] theorem modTp_mrn (t : Tid) (f : Tp → Tp) (s : State) : (modTp t f s).mrn = s.mrn := rfl
@[simp] theorem modTp_tbx (t : Tid) (f : Tp → Tp) (s : State) : (modTp t f s).tbx = s.tbx := rfl
@[simp] theorem modTp_codec (t : Tid) (f : Tp → Tp) (s : State) : (modTp t f s).codec = s.codec := rfl
@[simp] theorem modTp_hif (t : Tid) (f : Tp → Tp) (s : State) : (modTp t f s).hif = s.hif := rfl
@[simp] theorem modTp_pwr (t : Tid) (f : Tp → Tp) (s : State) : (modTp t f s).pwr = s.pwr := rfl
@[simp] theorem modTp_cache (t : Tid) (f : Tp → Tp) (s : State) : (modTp t f s).cache = s.cache := rfl
@[simp] theorem modTp_mem (t : Tid) (f : Tp → Tp) (s : State) : (modTp t f s).mem = s.mem := rfl
@[simp] theorem modTp_flt (t : Tid) (f : Tp → Tp) (s : State) : (modTp t f s).flt = s.flt := rfl
@[simp] theorem modTp_tel (t : Tid) (f : Tp → Tp) (s : State) : (modTp t f s).tel = s.tel := rfl
@[simp] theorem modTp_regs (t : Tid) (f : Tp → Tp) (s : State) : (modTp t f s).regs = s.regs := rfl
@[simp] theorem modTp_pairLatch (t : Tid) (f : Tp → Tp) (s : State) : (modTp t f s).pairLatch = s.pairLatch := rfl
@[simp] theorem modTp_pairHeld (t : Tid) (f : Tp → Tp) (s : State) : (modTp t f s).pairHeld = s.pairHeld := rfl
@[simp] theorem modTp_readData (t : Tid) (f : Tp → Tp) (s : State) : (modTp t f s).readData = s.readData := rfl
@[simp] theorem modTp_capTrig (t : Tid) (f : Tp → Tp) (s : State) : (modTp t f s).capTrig = s.capTrig := rfl
@[simp] theorem modTp_hostMem (t : Tid) (f : Tp → Tp) (s : State) : (modTp t f s).hostMem = s.hostMem := rfl
@[simp] theorem modTp_fuses (t : Tid) (f : Tp → Tp) (s : State) : (modTp t f s).fuses = s.fuses := rfl
@[simp] theorem modTp_revoked (t : Tid) (f : Tp → Tp) (s : State) : (modTp t f s).revoked = s.revoked := rfl
@[simp] theorem modTp_hbmStacks (t : Tid) (f : Tp → Tp) (s : State) : (modTp t f s).hbmStacks = s.hbmStacks := rfl
@[simp] theorem modTp_fstep (t : Tid) (f : Tp → Tp) (s : State) : (modTp t f s).fstep = s.fstep := rfl
@[simp] theorem modTp_rstep (t : Tid) (f : Tp → Tp) (s : State) : (modTp t f s).rstep = s.rstep := rfl
@[simp] theorem modTp_ccMode (t : Tid) (f : Tp → Tp) (s : State) : (modTp t f s).ccMode = s.ccMode := rfl
@[simp] theorem modTp_bif0 (t : Tid) (f : Tp → Tp) (s : State) : (modTp t f s).bif0 = s.bif0 := rfl
@[simp] theorem modTp_bif1 (t : Tid) (f : Tp → Tp) (s : State) : (modTp t f s).bif1 = s.bif1 := rfl
@[simp] theorem modTp_provision (t : Tid) (f : Tp → Tp) (s : State) : (modTp t f s).provision = s.provision := rfl
@[simp] theorem modTp_rstCause (t : Tid) (f : Tp → Tp) (s : State) : (modTp t f s).rstCause = s.rstCause := rfl
@[simp] theorem modTp_images (t : Tid) (f : Tp → Tp) (s : State) : (modTp t f s).images = s.images := rfl
@[simp] theorem modTp_bootGood (t : Tid) (f : Tp → Tp) (s : State) : (modTp t f s).bootGood = s.bootGood := rfl

@[simp] theorem modSeq_pending (t : Tid) (f : Seq → Seq) (s : State) : (modSeq t f s).pending = s.pending := rfl
@[simp] theorem modSeq_freeCtr (t : Tid) (f : Seq → Seq) (s : State) : (modSeq t f s).freeCtr = s.freeCtr := rfl
@[simp] theorem modSeq_clk (t : Tid) (f : Seq → Seq) (s : State) : (modSeq t f s).clk = s.clk := rfl
@[simp] theorem modSeq_boot (t : Tid) (f : Seq → Seq) (s : State) : (modSeq t f s).boot = s.boot := rfl
@[simp] theorem modSeq_mrn (t : Tid) (f : Seq → Seq) (s : State) : (modSeq t f s).mrn = s.mrn := rfl
@[simp] theorem modSeq_tbx (t : Tid) (f : Seq → Seq) (s : State) : (modSeq t f s).tbx = s.tbx := rfl
@[simp] theorem modSeq_codec (t : Tid) (f : Seq → Seq) (s : State) : (modSeq t f s).codec = s.codec := rfl
@[simp] theorem modSeq_hif (t : Tid) (f : Seq → Seq) (s : State) : (modSeq t f s).hif = s.hif := rfl
@[simp] theorem modSeq_pwr (t : Tid) (f : Seq → Seq) (s : State) : (modSeq t f s).pwr = s.pwr := rfl
@[simp] theorem modSeq_cache (t : Tid) (f : Seq → Seq) (s : State) : (modSeq t f s).cache = s.cache := rfl
@[simp] theorem modSeq_mem (t : Tid) (f : Seq → Seq) (s : State) : (modSeq t f s).mem = s.mem := rfl
@[simp] theorem modSeq_flt (t : Tid) (f : Seq → Seq) (s : State) : (modSeq t f s).flt = s.flt := rfl
@[simp] theorem modSeq_tel (t : Tid) (f : Seq → Seq) (s : State) : (modSeq t f s).tel = s.tel := rfl
@[simp] theorem modSeq_regs (t : Tid) (f : Seq → Seq) (s : State) : (modSeq t f s).regs = s.regs := rfl
@[simp] theorem modSeq_pairLatch (t : Tid) (f : Seq → Seq) (s : State) : (modSeq t f s).pairLatch = s.pairLatch := rfl
@[simp] theorem modSeq_pairHeld (t : Tid) (f : Seq → Seq) (s : State) : (modSeq t f s).pairHeld = s.pairHeld := rfl
@[simp] theorem modSeq_readData (t : Tid) (f : Seq → Seq) (s : State) : (modSeq t f s).readData = s.readData := rfl
@[simp] theorem modSeq_capTrig (t : Tid) (f : Seq → Seq) (s : State) : (modSeq t f s).capTrig = s.capTrig := rfl
@[simp] theorem modSeq_hostMem (t : Tid) (f : Seq → Seq) (s : State) : (modSeq t f s).hostMem = s.hostMem := rfl
@[simp] theorem modSeq_fuses (t : Tid) (f : Seq → Seq) (s : State) : (modSeq t f s).fuses = s.fuses := rfl
@[simp] theorem modSeq_revoked (t : Tid) (f : Seq → Seq) (s : State) : (modSeq t f s).revoked = s.revoked := rfl
@[simp] theorem modSeq_hbmStacks (t : Tid) (f : Seq → Seq) (s : State) : (modSeq t f s).hbmStacks = s.hbmStacks := rfl
@[simp] theorem modSeq_fstep (t : Tid) (f : Seq → Seq) (s : State) : (modSeq t f s).fstep = s.fstep := rfl
@[simp] theorem modSeq_rstep (t : Tid) (f : Seq → Seq) (s : State) : (modSeq t f s).rstep = s.rstep := rfl
@[simp] theorem modSeq_ccMode (t : Tid) (f : Seq → Seq) (s : State) : (modSeq t f s).ccMode = s.ccMode := rfl
@[simp] theorem modSeq_bif0 (t : Tid) (f : Seq → Seq) (s : State) : (modSeq t f s).bif0 = s.bif0 := rfl
@[simp] theorem modSeq_bif1 (t : Tid) (f : Seq → Seq) (s : State) : (modSeq t f s).bif1 = s.bif1 := rfl
@[simp] theorem modSeq_provision (t : Tid) (f : Seq → Seq) (s : State) : (modSeq t f s).provision = s.provision := rfl
@[simp] theorem modSeq_rstCause (t : Tid) (f : Seq → Seq) (s : State) : (modSeq t f s).rstCause = s.rstCause := rfl
@[simp] theorem modSeq_images (t : Tid) (f : Seq → Seq) (s : State) : (modSeq t f s).images = s.images := rfl
@[simp] theorem modSeq_bootGood (t : Tid) (f : Seq → Seq) (s : State) : (modSeq t f s).bootGood = s.bootGood := rfl

@[simp] theorem modPort_pending (t : Tid) (n : Nat) (f : Port → Port) (s : State) : (modPort t n f s).pending = s.pending := rfl
@[simp] theorem modPort_freeCtr (t : Tid) (n : Nat) (f : Port → Port) (s : State) : (modPort t n f s).freeCtr = s.freeCtr := rfl
@[simp] theorem modPort_clk (t : Tid) (n : Nat) (f : Port → Port) (s : State) : (modPort t n f s).clk = s.clk := rfl
@[simp] theorem modPort_boot (t : Tid) (n : Nat) (f : Port → Port) (s : State) : (modPort t n f s).boot = s.boot := rfl
@[simp] theorem modPort_mrn (t : Tid) (n : Nat) (f : Port → Port) (s : State) : (modPort t n f s).mrn = s.mrn := rfl
@[simp] theorem modPort_tbx (t : Tid) (n : Nat) (f : Port → Port) (s : State) : (modPort t n f s).tbx = s.tbx := rfl
@[simp] theorem modPort_codec (t : Tid) (n : Nat) (f : Port → Port) (s : State) : (modPort t n f s).codec = s.codec := rfl
@[simp] theorem modPort_hif (t : Tid) (n : Nat) (f : Port → Port) (s : State) : (modPort t n f s).hif = s.hif := rfl
@[simp] theorem modPort_pwr (t : Tid) (n : Nat) (f : Port → Port) (s : State) : (modPort t n f s).pwr = s.pwr := rfl
@[simp] theorem modPort_cache (t : Tid) (n : Nat) (f : Port → Port) (s : State) : (modPort t n f s).cache = s.cache := rfl
@[simp] theorem modPort_mem (t : Tid) (n : Nat) (f : Port → Port) (s : State) : (modPort t n f s).mem = s.mem := rfl
@[simp] theorem modPort_flt (t : Tid) (n : Nat) (f : Port → Port) (s : State) : (modPort t n f s).flt = s.flt := rfl
@[simp] theorem modPort_tel (t : Tid) (n : Nat) (f : Port → Port) (s : State) : (modPort t n f s).tel = s.tel := rfl
@[simp] theorem modPort_regs (t : Tid) (n : Nat) (f : Port → Port) (s : State) : (modPort t n f s).regs = s.regs := rfl
@[simp] theorem modPort_pairLatch (t : Tid) (n : Nat) (f : Port → Port) (s : State) : (modPort t n f s).pairLatch = s.pairLatch := rfl
@[simp] theorem modPort_pairHeld (t : Tid) (n : Nat) (f : Port → Port) (s : State) : (modPort t n f s).pairHeld = s.pairHeld := rfl
@[simp] theorem modPort_readData (t : Tid) (n : Nat) (f : Port → Port) (s : State) : (modPort t n f s).readData = s.readData := rfl
@[simp] theorem modPort_capTrig (t : Tid) (n : Nat) (f : Port → Port) (s : State) : (modPort t n f s).capTrig = s.capTrig := rfl
@[simp] theorem modPort_hostMem (t : Tid) (n : Nat) (f : Port → Port) (s : State) : (modPort t n f s).hostMem = s.hostMem := rfl
@[simp] theorem modPort_fuses (t : Tid) (n : Nat) (f : Port → Port) (s : State) : (modPort t n f s).fuses = s.fuses := rfl
@[simp] theorem modPort_revoked (t : Tid) (n : Nat) (f : Port → Port) (s : State) : (modPort t n f s).revoked = s.revoked := rfl
@[simp] theorem modPort_hbmStacks (t : Tid) (n : Nat) (f : Port → Port) (s : State) : (modPort t n f s).hbmStacks = s.hbmStacks := rfl
@[simp] theorem modPort_fstep (t : Tid) (n : Nat) (f : Port → Port) (s : State) : (modPort t n f s).fstep = s.fstep := rfl
@[simp] theorem modPort_rstep (t : Tid) (n : Nat) (f : Port → Port) (s : State) : (modPort t n f s).rstep = s.rstep := rfl
@[simp] theorem modPort_ccMode (t : Tid) (n : Nat) (f : Port → Port) (s : State) : (modPort t n f s).ccMode = s.ccMode := rfl
@[simp] theorem modPort_bif0 (t : Tid) (n : Nat) (f : Port → Port) (s : State) : (modPort t n f s).bif0 = s.bif0 := rfl
@[simp] theorem modPort_bif1 (t : Tid) (n : Nat) (f : Port → Port) (s : State) : (modPort t n f s).bif1 = s.bif1 := rfl
@[simp] theorem modPort_provision (t : Tid) (n : Nat) (f : Port → Port) (s : State) : (modPort t n f s).provision = s.provision := rfl
@[simp] theorem modPort_rstCause (t : Tid) (n : Nat) (f : Port → Port) (s : State) : (modPort t n f s).rstCause = s.rstCause := rfl
@[simp] theorem modPort_images (t : Tid) (n : Nat) (f : Port → Port) (s : State) : (modPort t n f s).images = s.images := rfl
@[simp] theorem modPort_bootGood (t : Tid) (n : Nat) (f : Port → Port) (s : State) : (modPort t n f s).bootGood = s.bootGood := rfl

@[simp] theorem finish_pending (t : Tid) (n : Nat) (k : BitVec 16) (st : BitVec 8) (v : W32) (s : State) : (finish t n k st v s).pending = s.pending := rfl
@[simp] theorem finish_freeCtr (t : Tid) (n : Nat) (k : BitVec 16) (st : BitVec 8) (v : W32) (s : State) : (finish t n k st v s).freeCtr = s.freeCtr := rfl
@[simp] theorem finish_clk (t : Tid) (n : Nat) (k : BitVec 16) (st : BitVec 8) (v : W32) (s : State) : (finish t n k st v s).clk = s.clk := rfl
@[simp] theorem finish_boot (t : Tid) (n : Nat) (k : BitVec 16) (st : BitVec 8) (v : W32) (s : State) : (finish t n k st v s).boot = s.boot := rfl
@[simp] theorem finish_mrn (t : Tid) (n : Nat) (k : BitVec 16) (st : BitVec 8) (v : W32) (s : State) : (finish t n k st v s).mrn = s.mrn := rfl
@[simp] theorem finish_tbx (t : Tid) (n : Nat) (k : BitVec 16) (st : BitVec 8) (v : W32) (s : State) : (finish t n k st v s).tbx = s.tbx := rfl
@[simp] theorem finish_codec (t : Tid) (n : Nat) (k : BitVec 16) (st : BitVec 8) (v : W32) (s : State) : (finish t n k st v s).codec = s.codec := rfl
@[simp] theorem finish_hif (t : Tid) (n : Nat) (k : BitVec 16) (st : BitVec 8) (v : W32) (s : State) : (finish t n k st v s).hif = s.hif := rfl
@[simp] theorem finish_pwr (t : Tid) (n : Nat) (k : BitVec 16) (st : BitVec 8) (v : W32) (s : State) : (finish t n k st v s).pwr = s.pwr := rfl
@[simp] theorem finish_cache (t : Tid) (n : Nat) (k : BitVec 16) (st : BitVec 8) (v : W32) (s : State) : (finish t n k st v s).cache = s.cache := rfl
@[simp] theorem finish_mem (t : Tid) (n : Nat) (k : BitVec 16) (st : BitVec 8) (v : W32) (s : State) : (finish t n k st v s).mem = s.mem := rfl
@[simp] theorem finish_flt (t : Tid) (n : Nat) (k : BitVec 16) (st : BitVec 8) (v : W32) (s : State) : (finish t n k st v s).flt = s.flt := rfl
@[simp] theorem finish_tel (t : Tid) (n : Nat) (k : BitVec 16) (st : BitVec 8) (v : W32) (s : State) : (finish t n k st v s).tel = s.tel := rfl
@[simp] theorem finish_regs (t : Tid) (n : Nat) (k : BitVec 16) (st : BitVec 8) (v : W32) (s : State) : (finish t n k st v s).regs = s.regs := rfl
@[simp] theorem finish_pairLatch (t : Tid) (n : Nat) (k : BitVec 16) (st : BitVec 8) (v : W32) (s : State) : (finish t n k st v s).pairLatch = s.pairLatch := rfl
@[simp] theorem finish_pairHeld (t : Tid) (n : Nat) (k : BitVec 16) (st : BitVec 8) (v : W32) (s : State) : (finish t n k st v s).pairHeld = s.pairHeld := rfl
@[simp] theorem finish_readData (t : Tid) (n : Nat) (k : BitVec 16) (st : BitVec 8) (v : W32) (s : State) : (finish t n k st v s).readData = s.readData := rfl
@[simp] theorem finish_capTrig (t : Tid) (n : Nat) (k : BitVec 16) (st : BitVec 8) (v : W32) (s : State) : (finish t n k st v s).capTrig = s.capTrig := rfl
@[simp] theorem finish_hostMem (t : Tid) (n : Nat) (k : BitVec 16) (st : BitVec 8) (v : W32) (s : State) : (finish t n k st v s).hostMem = s.hostMem := rfl
@[simp] theorem finish_fuses (t : Tid) (n : Nat) (k : BitVec 16) (st : BitVec 8) (v : W32) (s : State) : (finish t n k st v s).fuses = s.fuses := rfl
@[simp] theorem finish_revoked (t : Tid) (n : Nat) (k : BitVec 16) (st : BitVec 8) (v : W32) (s : State) : (finish t n k st v s).revoked = s.revoked := rfl
@[simp] theorem finish_hbmStacks (t : Tid) (n : Nat) (k : BitVec 16) (st : BitVec 8) (v : W32) (s : State) : (finish t n k st v s).hbmStacks = s.hbmStacks := rfl
@[simp] theorem finish_fstep (t : Tid) (n : Nat) (k : BitVec 16) (st : BitVec 8) (v : W32) (s : State) : (finish t n k st v s).fstep = s.fstep := rfl
@[simp] theorem finish_rstep (t : Tid) (n : Nat) (k : BitVec 16) (st : BitVec 8) (v : W32) (s : State) : (finish t n k st v s).rstep = s.rstep := rfl
@[simp] theorem finish_ccMode (t : Tid) (n : Nat) (k : BitVec 16) (st : BitVec 8) (v : W32) (s : State) : (finish t n k st v s).ccMode = s.ccMode := rfl
@[simp] theorem finish_bif0 (t : Tid) (n : Nat) (k : BitVec 16) (st : BitVec 8) (v : W32) (s : State) : (finish t n k st v s).bif0 = s.bif0 := rfl
@[simp] theorem finish_bif1 (t : Tid) (n : Nat) (k : BitVec 16) (st : BitVec 8) (v : W32) (s : State) : (finish t n k st v s).bif1 = s.bif1 := rfl
@[simp] theorem finish_provision (t : Tid) (n : Nat) (k : BitVec 16) (st : BitVec 8) (v : W32) (s : State) : (finish t n k st v s).provision = s.provision := rfl
@[simp] theorem finish_rstCause (t : Tid) (n : Nat) (k : BitVec 16) (st : BitVec 8) (v : W32) (s : State) : (finish t n k st v s).rstCause = s.rstCause := rfl
@[simp] theorem finish_images (t : Tid) (n : Nat) (k : BitVec 16) (st : BitVec 8) (v : W32) (s : State) : (finish t n k st v s).images = s.images := rfl
@[simp] theorem finish_bootGood (t : Tid) (n : Nat) (k : BitVec 16) (st : BitVec 8) (v : W32) (s : State) : (finish t n k st v s).bootGood = s.bootGood := rfl

@[simp] theorem setEvent_pending (t : Tid) (n : Nat) (s : State) : (setEvent t n s).pending = s.pending := rfl
@[simp] theorem setEvent_freeCtr (t : Tid) (n : Nat) (s : State) : (setEvent t n s).freeCtr = s.freeCtr := rfl
@[simp] theorem setEvent_clk (t : Tid) (n : Nat) (s : State) : (setEvent t n s).clk = s.clk := rfl
@[simp] theorem setEvent_boot (t : Tid) (n : Nat) (s : State) : (setEvent t n s).boot = s.boot := rfl
@[simp] theorem setEvent_mrn (t : Tid) (n : Nat) (s : State) : (setEvent t n s).mrn = s.mrn := rfl
@[simp] theorem setEvent_tbx (t : Tid) (n : Nat) (s : State) : (setEvent t n s).tbx = s.tbx := rfl
@[simp] theorem setEvent_codec (t : Tid) (n : Nat) (s : State) : (setEvent t n s).codec = s.codec := rfl
@[simp] theorem setEvent_hif (t : Tid) (n : Nat) (s : State) : (setEvent t n s).hif = s.hif := rfl
@[simp] theorem setEvent_pwr (t : Tid) (n : Nat) (s : State) : (setEvent t n s).pwr = s.pwr := rfl
@[simp] theorem setEvent_cache (t : Tid) (n : Nat) (s : State) : (setEvent t n s).cache = s.cache := rfl
@[simp] theorem setEvent_mem (t : Tid) (n : Nat) (s : State) : (setEvent t n s).mem = s.mem := rfl
@[simp] theorem setEvent_flt (t : Tid) (n : Nat) (s : State) : (setEvent t n s).flt = s.flt := rfl
@[simp] theorem setEvent_tel (t : Tid) (n : Nat) (s : State) : (setEvent t n s).tel = s.tel := rfl
@[simp] theorem setEvent_regs (t : Tid) (n : Nat) (s : State) : (setEvent t n s).regs = s.regs := rfl
@[simp] theorem setEvent_pairLatch (t : Tid) (n : Nat) (s : State) : (setEvent t n s).pairLatch = s.pairLatch := rfl
@[simp] theorem setEvent_pairHeld (t : Tid) (n : Nat) (s : State) : (setEvent t n s).pairHeld = s.pairHeld := rfl
@[simp] theorem setEvent_readData (t : Tid) (n : Nat) (s : State) : (setEvent t n s).readData = s.readData := rfl
@[simp] theorem setEvent_capTrig (t : Tid) (n : Nat) (s : State) : (setEvent t n s).capTrig = s.capTrig := rfl
@[simp] theorem setEvent_hostMem (t : Tid) (n : Nat) (s : State) : (setEvent t n s).hostMem = s.hostMem := rfl
@[simp] theorem setEvent_fuses (t : Tid) (n : Nat) (s : State) : (setEvent t n s).fuses = s.fuses := rfl
@[simp] theorem setEvent_revoked (t : Tid) (n : Nat) (s : State) : (setEvent t n s).revoked = s.revoked := rfl
@[simp] theorem setEvent_hbmStacks (t : Tid) (n : Nat) (s : State) : (setEvent t n s).hbmStacks = s.hbmStacks := rfl
@[simp] theorem setEvent_fstep (t : Tid) (n : Nat) (s : State) : (setEvent t n s).fstep = s.fstep := rfl
@[simp] theorem setEvent_rstep (t : Tid) (n : Nat) (s : State) : (setEvent t n s).rstep = s.rstep := rfl
@[simp] theorem setEvent_ccMode (t : Tid) (n : Nat) (s : State) : (setEvent t n s).ccMode = s.ccMode := rfl
@[simp] theorem setEvent_bif0 (t : Tid) (n : Nat) (s : State) : (setEvent t n s).bif0 = s.bif0 := rfl
@[simp] theorem setEvent_bif1 (t : Tid) (n : Nat) (s : State) : (setEvent t n s).bif1 = s.bif1 := rfl
@[simp] theorem setEvent_provision (t : Tid) (n : Nat) (s : State) : (setEvent t n s).provision = s.provision := rfl
@[simp] theorem setEvent_rstCause (t : Tid) (n : Nat) (s : State) : (setEvent t n s).rstCause = s.rstCause := rfl
@[simp] theorem setEvent_images (t : Tid) (n : Nat) (s : State) : (setEvent t n s).images = s.images := rfl
@[simp] theorem setEvent_bootGood (t : Tid) (n : Nat) (s : State) : (setEvent t n s).bootGood = s.bootGood := rfl

@[simp] theorem logAccess_pending (off : Nat) (s : State) : (logAccess off s).pending = s.pending := rfl
@[simp] theorem logAccess_freeCtr (off : Nat) (s : State) : (logAccess off s).freeCtr = s.freeCtr := rfl
@[simp] theorem logAccess_clk (off : Nat) (s : State) : (logAccess off s).clk = s.clk := rfl
@[simp] theorem logAccess_boot (off : Nat) (s : State) : (logAccess off s).boot = s.boot := rfl
@[simp] theorem logAccess_tp (off : Nat) (s : State) : (logAccess off s).tp = s.tp := rfl
@[simp] theorem logAccess_mrn (off : Nat) (s : State) : (logAccess off s).mrn = s.mrn := rfl
@[simp] theorem logAccess_tbx (off : Nat) (s : State) : (logAccess off s).tbx = s.tbx := rfl
@[simp] theorem logAccess_codec (off : Nat) (s : State) : (logAccess off s).codec = s.codec := rfl
@[simp] theorem logAccess_hif (off : Nat) (s : State) : (logAccess off s).hif = s.hif := rfl
@[simp] theorem logAccess_pwr (off : Nat) (s : State) : (logAccess off s).pwr = s.pwr := rfl
@[simp] theorem logAccess_cache (off : Nat) (s : State) : (logAccess off s).cache = s.cache := rfl
@[simp] theorem logAccess_mem (off : Nat) (s : State) : (logAccess off s).mem = s.mem := rfl
@[simp] theorem logAccess_tel (off : Nat) (s : State) : (logAccess off s).tel = s.tel := rfl
@[simp] theorem logAccess_regs (off : Nat) (s : State) : (logAccess off s).regs = s.regs := rfl
@[simp] theorem logAccess_pairLatch (off : Nat) (s : State) : (logAccess off s).pairLatch = s.pairLatch := rfl
@[simp] theorem logAccess_pairHeld (off : Nat) (s : State) : (logAccess off s).pairHeld = s.pairHeld := rfl
@[simp] theorem logAccess_readData (off : Nat) (s : State) : (logAccess off s).readData = s.readData := rfl
@[simp] theorem logAccess_capTrig (off : Nat) (s : State) : (logAccess off s).capTrig = s.capTrig := rfl
@[simp] theorem logAccess_hostMem (off : Nat) (s : State) : (logAccess off s).hostMem = s.hostMem := rfl
@[simp] theorem logAccess_fuses (off : Nat) (s : State) : (logAccess off s).fuses = s.fuses := rfl
@[simp] theorem logAccess_revoked (off : Nat) (s : State) : (logAccess off s).revoked = s.revoked := rfl
@[simp] theorem logAccess_hbmStacks (off : Nat) (s : State) : (logAccess off s).hbmStacks = s.hbmStacks := rfl
@[simp] theorem logAccess_fstep (off : Nat) (s : State) : (logAccess off s).fstep = s.fstep := rfl
@[simp] theorem logAccess_rstep (off : Nat) (s : State) : (logAccess off s).rstep = s.rstep := rfl
@[simp] theorem logAccess_ccMode (off : Nat) (s : State) : (logAccess off s).ccMode = s.ccMode := rfl
@[simp] theorem logAccess_bif0 (off : Nat) (s : State) : (logAccess off s).bif0 = s.bif0 := rfl
@[simp] theorem logAccess_bif1 (off : Nat) (s : State) : (logAccess off s).bif1 = s.bif1 := rfl
@[simp] theorem logAccess_provision (off : Nat) (s : State) : (logAccess off s).provision = s.provision := rfl
@[simp] theorem logAccess_rstCause (off : Nat) (s : State) : (logAccess off s).rstCause = s.rstCause := rfl
@[simp] theorem logAccess_images (off : Nat) (s : State) : (logAccess off s).images = s.images := rfl
@[simp] theorem logAccess_bootGood (off : Nat) (s : State) : (logAccess off s).bootGood = s.bootGood := rfl

end Sys2Proof.Machine
end

