-- ==== Sys2Proof/Laws/Ops.lean ====
section
/-! SUPPORT. What the shared operations do, for the slices, the ports, the registers and the sequencers. -/
namespace Sys2Proof.Machine

/-! ### Slices -/

@[simp] theorem tpOf_modTp (t : Tid) (f : Tp → Tp) (s : State) : tpOf (modTp t f s) t = f (tpOf s t) := by
  simp [tpOf, modTp]

theorem tpOf_modTp_ne (t u : Tid) (f : Tp → Tp) (s : State) (h : u ≠ t) : tpOf (modTp t f s) u = tpOf s u := by
  simp [tpOf, modTp, Oct.get_set_ne, h]

/-- Two changes of a slice are one. -/
@[simp] theorem modTp_modTp (t : Tid) (f g : Tp → Tp) (s : State) : modTp t g (modTp t f s) = modTp t (fun x => g (f x)) s := by
  simp [modTp]

@[simp] theorem tpOf_setReg (off : Nat) (v : W32) (s : State) (t : Tid) : tpOf (setReg off v s) t = tpOf s t := rfl
@[simp] theorem tpOf_setFld (off : Nat) (f : Fld) (x : Nat) (s : State) (t : Tid) : tpOf (setFld off f x s) t = tpOf s t := rfl
@[simp] theorem tpOf_bumpFld (off : Nat) (f : Fld) (s : State) (t : Tid) : tpOf (bumpFld off f s) t = tpOf s t := rfl
@[simp] theorem tpOf_logAccess (off : Nat) (s : State) (t : Tid) : tpOf (logAccess off s) t = tpOf s t := rfl

/-- A logged fault leaves every slice. -/
@[simp] theorem tpOf_logFault (u : BitVec 16) (k c w : Nat) (d : W64) (s : State) (t : Tid) :
    tpOf (logFault u k c w d s) t = tpOf s t := by
  unfold logFault
  split <;> rfl

/-! ### Ports -/

/-- A port reads back as it was set; port numbers of 8 and above are MOT's. -/
@[simp] theorem portOf_setPort (n : Nat) (p : Port) (x : Tp) : portOf (setPort n p x) n = p := by
  rcases n with _ | _ | _ | _ | _ | _ | _ | _ | _ <;> rfl

theorem portOf_setPort_ne (n m : Nat) (p : Port) (x : Tp) (hn : n ≤ 8) (hm : m ≤ 8) (h : m ≠ n) :
    portOf (setPort n p x) m = portOf x m := by
  interval_cases n <;> interval_cases m <;> first | rfl | exact absurd rfl h

@[simp] theorem seq_setPort (n : Nat) (p : Port) (x : Tp) : (setPort n p x).seq = x.seq := by
  rcases n with _ | _ | _ | _ | _ | _ | _ | _ | _ <;> rfl

/-! ### Registers -/

@[simp] theorem reg_setReg (off : Nat) (v : W32) (s : State) : reg (setReg off v s) off = v := by
  simp [reg, setReg]

theorem reg_setReg_ne (a b : Nat) (v : W32) (s : State) (h : b ≠ a) : reg (setReg a v s) b = reg s b := by
  unfold reg setReg SMap.get SMap.set
  by_cases hv : v = regReset a
  · simp [hv, cellFind_erase, h]
  · rw [if_neg hv]
    dsimp only
    rw [cellFind_insert _ _ _ _ (by simp [cellFind_erase]), cellFind_erase]
    simp [h]

@[simp] theorem reg_modTp (t : Tid) (f : Tp → Tp) (s : State) (off : Nat) : reg (modTp t f s) off = reg s off := rfl
@[simp] theorem fld_modTp (t : Tid) (f : Tp → Tp) (s : State) (off : Nat) (x : Fld) : fld (modTp t f s) off x = fld s off x := rfl

/-! ### Sequencers -/

@[simp] theorem seqOf_modSeq (t : Tid) (f : Seq → Seq) (s : State) : seqOf (modSeq t f s) t = f (seqOf s t) := by
  simp [seqOf, modSeq]

@[simp] theorem modSeq_modSeq (t : Tid) (f g : Seq → Seq) (s : State) : modSeq t g (modSeq t f s) = modSeq t (fun q => g (f q)) s := by
  simp [modSeq]

theorem seqOf_modSeq_ne (t u : Tid) (f : Seq → Seq) (s : State) (h : u ≠ t) : seqOf (modSeq t f s) u = seqOf s u := by
  simp [seqOf, modSeq, tpOf_modTp_ne, h]

/-- Reading general register r after rd was written: g0 reads zero and discards writes (R37). -/
theorem gGet_gSet (rd r : BitVec 5) (v : W64) (q : Seq) :
    gGet (gSet rd v q) r = if r = 0 then 0 else if r = rd then v else gGet q r := by
  unfold gGet gSet
  by_cases hr : r = 0
  · simp [hr]
  · by_cases hd : rd = 0
    · simp_all
    · simp only [hr, if_false, hd, SMap.get_set]
      by_cases h : r = rd
      · simp [h]
      · have : r.toNat ≠ rd.toNat := fun e => h (BitVec.eq_of_toNat_eq e)
        simp [h, this]

/-- A legal instruction at PC that acts inside the sequencer alone and does not halt it: that is the whole effect. -/
theorem runInstr_local (t : Tid) (i : FInstr) (s : State) (q : Seq) (n : Nat) (hst : (seqOf s t).st = .running)
    (hw : wdogDue s t = false) (hh : (seqOf s t).haltp = false) (hf : fFetch (seqOf s t) = some i)
    (hl : fLocal i (seqOf s t) = some (.ok q n)) (hq : q.st = .running) (hs : q.step = false) :
    runInstr t i s = modSeq t (fun _ => addCycles n q) s := by
  have h1 : ¬(seqOf s t).st ≠ .running := by simp [hst]
  have h2 : ¬q.st = .halted := by simp [hq]
  unfold runInstr
  rw [if_neg h1, hw, if_neg (by decide), hh, if_neg (by decide), hf]
  dsimp only
  rw [if_pos rfl]
  unfold fExec
  rw [hl]
  dsimp only
  rw [if_neg h2]
  unfold stepDone
  rw [if_neg]
  simp [addCycles, hs]

end Sys2Proof.Machine
end

