-- ==== Sys2Proof/Tests/Slice0.lean ====
section
/-! SUPPORT. The model's own tests: words written out from R39, R40 and R59 that decode to what they stand for, single steps whose
results the spec gives, and for every statement that has hypotheses a state and operands that meet them. -/
namespace Sys2Proof.Tests

open Sys2Proof Sys2Proof.Machine Sys2Proof.Safety

set_option exponentiation.threshold 512

theorem test_illformed_slot : WellFormed (.slotArrival 0 []) = false := by decide
theorem test_wellformed_alloc : WellFormed (.tbxAlloc (.slice 0)) = true := by decide

/-- The reset state with transport 0 changed. -/
def with0 (f : Tp → Tp) : State := modTp 0 f State.reset

/-- Sequencer 0 running, with a word at address 0, 256 bytes of code, a handler at 128 7 in g2, 9 in g3, 65,536 in g4. -/
def atWord (w : W32) : State :=
  with0 (fun x => { x with seq := { x.seq with
    st := .running, codeSize := 256, evec := 128, g := ((x.seq.g.set 0 2 7).set 0 3 9).set 0 4 65536
    code := x.seq.code.write 0 0 [w.setWidth 8, (w >>> 8).setWidth 8, (w >>> 16).setWidth 8, (w >>> 24).setWidth 8] } })

/-- A state with sequencer 0 changed. -/
def seq0 (f : Seq → Seq) (s : State) : State := modTp 0 (fun x => { x with seq := f x.seq }) s

/-- Whether an outcome is a next state that p holds of. -/
def goesTo (o : Host.Outcome State Fault Refusal) (p : State → Bool) : Bool :=
  match o with
  | .next s => p s
  | _ => false

/-- Sequencer 0 about to execute an instruction. -/
def atF (i : FInstr) : State := atWord (encodeF i)

/-- A descriptor at the head of port n of transport 0, with operation op and the other words given. -/
def desc (n op : Nat) (arg : W32) (w1 w2 w3 : W64) : BitVec 256 :=
  w3 ++ w2 ++ w1 ++ arg ++ (0 : BitVec 16) ++ BitVec.ofNat 16 (n + 16 * op)

/-- Its slot. -/
def slot (d : BitVec 256) : Slot := { Slot.reset with ticket := 5, desc := d }

/-- The state with that slot on port n of transport 0. -/
def headAt (n : Nat) (y : Slot) (s : State) : State := modTp 0 (setPort n { Port.reset with slots := [y] }) s

/-! ### Rhoval-F -/

/-! Words written out field by field (R39, R40). -/
theorem test_decode_alu_popc : decodeF 0b000000_00011_00010_00000_00000010000 = some (.reg 3 2 0 0x010) := by decide
theorem test_decode_addi : decodeF 0b000001_00110_00111_1111111111111110 = some (.imm .addi 6 7 0xFFFE) := by decide
theorem test_decode_sltiu : decodeF 0b000110_00001_11111_0000000000000001 = some (.imm .sltiu 1 31 1) := by decide
theorem test_decode_ld : decodeF 0b001011_00001_00010_0000000000001000 = some (.imm .ld 1 2 8) := by decide
theorem test_decode_dins : decodeF 0b010010_00111_00010_0011111100000001 = some (.imm .dins 7 2 0x3F01) := by decide
theorem test_decode_issue : decodeF 0b011000_0110_101_00010_1_0000000000000 = some (.stage .issue 6 5 2 true 0) := by decide
theorem test_decode_pop : decodeF 0b011001_1000_000_11111_0_0000000000000 = some (.stage .pop 8 0 31 false 0) := by decide
theorem test_decode_bltu : decodeF 0b100100_00010_00011_1111111111111111 = some (.branch .bltu 2 3 0xFFFF) := by decide
theorem test_decode_wait : decodeF 0b101000_00001_00010_0000000000000101 = some (.imm .wait 1 2 5) := by decide
theorem test_decode_mts : decodeF 0b110001_00000_00011_0000000000001001 = some (.imm .mts 0 3 9) := by decide
theorem test_decode_halt : decodeF 0b111111_00000_00000_0000000000000000 = some (.imm .halt 0 0 0) := by decide
theorem test_decode_undefined : decodeF 0b001111_00000_00000_0000000000000000 = none := by decide
theorem test_decode_clamp : decodeL 0b001010_00001_00010_0000000000111110 = some (.imm .clamp 1 2 62) := by decide
theorem test_decode_mac : decodeL 0b010000_1_10101_010110_00000000000000 = some (.mul .mac true 21 22 0) := by decide
theorem test_decode_bnsat : decodeL 0b100101_00000_00000_0000000000000001 = some (.branch .bnsat 0 0 1) := by decide

/-! Single steps. -/
theorem test_addi_wraps : goesTo (exec (.addi 0 1 0 0xFFFF) (atF (.imm .addi 1 0 0xFFFF)))
    (fun u => greg u 0 1 == BitVec.allOnes 64 && (seqOf u 0).pc == 4) = true := by decide
theorem test_alu_sub : goesTo (exec (.alu 0 2 2 3 1) (atF (.reg 2 2 3 1))) (fun u => (greg u 0 2).toInt == -2) = true := by decide
theorem test_alu_sra : goesTo (exec (.alu 0 1 3 2 7) (seq0 (fun q => { q with g := q.g.set 0 3 0x8000000000000000 })
    (atF (.reg 1 3 2 7)))) (fun u => greg u 0 1 == 0xFF00000000000000) = true := by decide
theorem test_lui : goesTo (exec (.lui 0 1 0 0x8000) (atF (.imm .lui 1 0 0x8000)))
    (fun u => greg u 0 1 == 0xFFFFFFFF80000000) = true := by decide
theorem test_g0_stays : goesTo (exec (.ori 0 0 2 1) (atF (.imm .ori 0 2 1))) (fun u => greg u 0 0 == 0) = true := by decide
theorem test_sw_little_endian : goesTo (exec (.sw 0 3 0 4) (seq0 (fun q => { q with g := q.g.set 0 3 0x1122334455667788 })
    (atF (.imm .sw 3 0 4)))) (fun u => (seqOf u 0).data.read 0 3 6 == [0, 0x88, 0x77, 0x66, 0x55, 0]) = true := by decide
theorem test_dins_top : goesTo (exec (.dins 0 1 2 0x02FD) (atF (.imm .dins 1 2 0x02FD)))
    (fun u => dreg u 0 1 == (7 : BitVec 256) <<< 253) = true := by decide
theorem test_beq_back : goesTo (exec (.beq 0 2 2 0xFFFF) (seq0 (fun q => { q with pc := 8, code := q.code.write 0 8 (q.code.read 0 0 4) })
    (atF (.branch .beq 2 2 0xFFFF)))) (fun u => (seqOf u 0).pc == 4) = true := by decide
theorem test_jal_links : goesTo (exec (.jal 0 1 0 3) (atF (.imm .jal 1 0 3)))
    (fun u => greg u 0 1 == 4 && (seqOf u 0).pc == 12) = true := by decide
theorem test_ld_misaligned : goesTo (exec (.ld 0 1 0 4) (atF (.imm .ld 1 0 4)))
    (fun u => (seqOf u 0).ecause == 3 && (seqOf u 0).eval == 4 && (seqOf u 0).exl && (seqOf u 0).pc == 128) = true := by decide
theorem test_brk : goesTo (exec (.brk 0 0 0 0) (atF (.imm .brk 0 0 0)))
    (fun u => (seqOf u 0).ecause == 7 && (seqOf u 0).epc == 0) = true := by decide

/-! States and operands that meet the statements' hypotheses. -/
theorem witness_alu (f : Fin 19) : AtInstr 0 (.reg 1 2 0 (BitVec.ofNat 11 f.val)) (atF (.reg 1 2 0 (BitVec.ofNat 11 f.val))) := by
  revert f; unfold AtInstr AtBoundary; decide
theorem witness_immediate : (∀ op ∈ [FOp.addi, .andi, .ori, .xori, .slti, .sltiu, .slli, .srli, .srai, .lui],
    AtInstr 0 (.imm op 1 0 63) (atF (.imm op 1 0 63)))
    ∧ AtInstr 0 (.imm .dins 7 2 0x00FF) (atF (.imm .dins 7 2 0x00FF)) ∧ AtInstr 0 (.imm .dext 7 2 0x3FC0) (atF (.imm .dext 7 2 0x3FC0))
    ∧ AtInstr 0 (.imm .dclr 7 0 0) (atF (.imm .dclr 7 0 0)) := by
  unfold AtInstr AtBoundary; decide
theorem witness_data_access : (∀ x ∈ [(FOp.ld, (0xFFF8 : BitVec 16), 8), (.st, 0xFFF8, 8), (.lw, 0xFFFC, 4), (.sw, 0xFFFC, 4),
      (.dld, 0xFFE0, 32), (.dst, 0xFFE0, 32)],
    AtInstr 0 (.imm x.1 7 4 x.2.1) (atF (.imm x.1 7 4 x.2.1)) ∧ dataOk (dataAddr (atF (.imm x.1 7 4 x.2.1)) 0 4 x.2.1) x.2.2) := by
  unfold AtInstr AtBoundary dataOk; decide
theorem witness_range_faults : (∀ x ∈ [(FOp.ld, 8), (.st, 8), (.lw, 4), (.sw, 4), (.dld, 32), (.dst, 32)],
    (let s := atF (.imm x.1 7 0 1)
     AtInstr 0 (.imm x.1 7 0 1) s ∧ HasHandler 0 s ∧ (dataAddr s 0 0 1).toNat % x.2 ≠ 0 ∧ (dataAddr s 0 0 1).toNat + x.2 ≤ 65536)
    ∧ (let s := atF (.imm x.1 7 4 0)
     AtInstr 0 (.imm x.1 7 4 0) s ∧ HasHandler 0 s ∧ (dataAddr s 0 4 0).toNat % x.2 = 0 ∧ 65536 < (dataAddr s 0 4 0).toNat + x.2)
    ∧ (let s := atF (.imm x.1 7 4 0xFFFF)
     AtInstr 0 (.imm x.1 7 4 0xFFFF) s ∧ (dataAddr s 0 4 0xFFFF).toNat % x.2 ≠ 0 ∧ 65536 < (dataAddr s 0 4 0xFFFF).toNat + x.2)) := by
  unfold AtInstr AtBoundary HasHandler; decide
theorem witness_illegal_fields : (∀ x ∈ [(FOp.dins, (0x01FF : BitVec 16)), (.dins, 0x4000), (.dext, 0x01FF), (.dext, 0x4000)],
    let s := atF (.imm x.1 1 2 x.2)
    AtBoundary 0 s ∧ HasHandler 0 s ∧ decodeF (fetchWord (seqOf s 0)) = some (.imm x.1 1 2 x.2)
      ∧ (256 < x.2.toNat % 256 + x.2.toNat / 256 % 64 + 1 ∨ x.2.toNat / 16384 ≠ 0)) := by
  unfold AtBoundary HasHandler; decide
theorem witness_branch_out : (∀ i ∈ [FInstr.branch .beq 2 2 64, .branch .bne 2 3 64, .branch .blt 2 3 64, .branch .bge 3 2 64,
      .branch .bltu 2 3 64, .branch .bgeu 3 2 64, .imm .jal 1 0 64, .imm .jalr 1 0 256],
    AtInstr 0 i (atF i) ∧ HasHandler 0 (atF i)) ∧ (seqOf (atF (.imm .jal 1 0 64)) 0).codeSize = 256 := by
  unfold AtInstr AtBoundary HasHandler; decide
theorem witness_branch : (∀ i ∈ [FInstr.branch .beq 2 2 63, .branch .bne 2 3 63, .branch .blt 2 3 63, .branch .bge 3 2 63,
      .branch .bltu 2 3 63, .branch .bgeu 3 2 63, .branch .beq 2 3 63, .imm .jal 1 0 63, .imm .jalr 1 0 252],
    AtInstr 0 i (atF i)) := by
  unfold AtInstr AtBoundary; decide
theorem witness_exceptions :
    AtInstr 0 (.imm .brk 0 0 0) (atF (.imm .brk 0 0 0)) ∧ HasHandler 0 (atF (.imm .brk 0 0 0))
    ∧ AtInstr 0 (.imm .eret 0 0 0) (seq0 (fun q => { q with exl := true, epc := 252 }) (atF (.imm .eret 0 0 0)))
    ∧ AtInstr 0 (.imm .eret 0 0 0) (atF (.imm .eret 0 0 0))
    ∧ AtBoundary 0 (atWord 0x3C000000) ∧ fFetch (seqOf (atWord 0x3C000000) 0) = none := by
  unfold AtInstr AtBoundary HasHandler; decide
theorem witness_sequencer_fails :
    let y := { slot (desc 2 1 0 0 0 0) with started := true }
    let s := headAt 2 y (seq0 (fun q => { q with evec := 0 }) (atWord 0x3C000000))
    AtBoundary 0 s ∧ fFetch (seqOf s 0) = none ∧ ¬HasHandler 0 s ∧ (tpOf s 0).reinstall = false
      ∧ y ∈ portOpen (portOf (tpOf s 0) 2) ∧ ∀ z ∈ (portOf (tpOf s 0) 2).slots, z.ticket = y.ticket → z.started = true := by
  unfold AtBoundary HasHandler; decide

/-! ### Sequencers -/

theorem test_issue_takes_ticket : goesTo (exec (.issue 0 6 5 2 false 0)
    (seq0 (fun q => { q with d := q.d.set 0 5 (desc 6 1 0 0 0 0) }) (atF (.stage .issue 6 5 2 false 0))))
    (fun u => greg u 0 2 == 0 && (portOf (tpOf u 0) 6).nextTicket == 1 && (portOf (tpOf u 0) 6).slots.length == 1) = true := by decide
theorem test_issue_wrong_port : goesTo (exec (.issue 0 6 5 2 false 0) (atF (.stage .issue 6 5 2 false 0)))
    (fun u => (seqOf u 0).ecause == 5 && (portOf (tpOf u 0) 6).slots.isEmpty) = true := by decide
theorem test_pop_empty_nb : goesTo (exec (.pop 0 6 0 2 true 0) (atF (.stage .pop 6 0 2 true 0)))
    (fun u => greg u 0 2 == BitVec.allOnes 64) = true := by decide
theorem test_wait_waits : goesTo (exec (.wait 0 1 2 0) (atF (.imm .wait 1 2 0)))
    (fun u => (seqOf u 0).st == .waiting && (seqOf u 0).pc == 0) = true := by decide
theorem test_post_sets_event : goesTo (exec (.post 0 0 3 0) (atF (.imm .post 0 3 0)))
    (fun u => (seqOf u 0).latched.getLsbD 32 && (seqOf u 3).latched.getLsbD 32 && !(seqOf u 1).latched.getLsbD 32) = true := by decide
theorem test_mts_timer : goesTo (exec (.mts 0 0 3 2) (atF (.imm .mts 0 3 2))) (fun u => (seqOf u 0).timer == 9) = true := by decide

/-- Sequencer 0 waiting. -/
def waiting (w : Waiting) : State := seq0 (fun q => { q with st := .waiting, wait := w }) State.reset

theorem witness_special_registers : AtInstr 0 (.imm .evclr 0 2 0) (atF (.imm .evclr 0 2 0))
    ∧ AtInstr 0 (.imm .mfs 1 0 0) (atF (.imm .mfs 1 0 0)) ∧ AtInstr 0 (.imm .mfs 1 0 15) (atF (.imm .mfs 1 0 15))
    ∧ AtInstr 0 (.imm .mts 0 2 2) (atF (.imm .mts 0 2 2)) ∧ AtInstr 0 (.imm .mts 0 2 9) (atF (.imm .mts 0 2 9)) := by
  unfold AtInstr AtBoundary; decide
theorem witness_halt : AtInstr 0 (.imm .halt 0 0 0) (atF (.imm .halt 0 0 0)) ∧ endOfVolume (atF (.imm .halt 0 0 0)) 0 = false
    ∧ (seqOf (atF (.imm .halt 0 0 0)) 0).startPend = none
    ∧ (let s := seq0 (fun q => { q with haltp := true }) (waiting (.bar 1 1)); (seqOf s 0).haltp = true ∧ (seqOf s 0).st = .waiting) := by
  unfold AtInstr AtBoundary; decide
theorem witness_timer_watchdog :
    (seqOf (seq0 (fun q => { q with timer := 1 }) State.reset) 0).timer ≠ 0
    ∧ (let s := setFld (Reg.tsWdog 0) Fld.tsWdogLimit 1 (seq0 (fun q => { q with wdog := 1024 }) (atWord 0))
       (seqOf s 0).st = .running ∧ fld s (Reg.tsWdog 0) Fld.tsWdogLimit ≠ 0
         ∧ fld s (Reg.tsWdog 0) Fld.tsWdogLimit * 1024 ≤ (seqOf s 0).wdog ∧ (seqOf s 0).step = false ∧ HasHandler 0 s) := by
  unfold HasHandler; decide
theorem witness_post_bar : AtInstr 0 (.imm .post 0 2 0) (atF (.imm .post 0 2 0))
    ∧ AtInstr 0 (.imm .bar 1 2 0) (atF (.imm .bar 1 2 0)) ∧ AtInstr 0 (.imm .bar 1 4 0) (atF (.imm .bar 1 4 0))
    ∧ HasHandler 0 (atF (.imm .bar 1 4 0)) ∧ (greg (atF (.imm .bar 1 2 0)) 0 2).getLsbD 0 = true
    ∧ (greg (atF (.imm .bar 1 2 0)) 0 2).toNat < 256 ∧ 256 ≤ (greg (atF (.imm .bar 1 4 0)) 0 4).toNat := by
  unfold AtInstr AtBoundary HasHandler; decide
theorem witness_bar_outcomes :
    let s := atF (.imm .bar 1 3 0)
    let at3 (w : Waiting) := modTp 3 (fun x => { x with seq := { x.seq with st := .waiting, wait := w } }) s
    barMask (seqOf (at3 (.bar 1 8)) 3) = some 8 ∧ (greg s 0 3).setWidth 8 = (9 : BitVec 8)
      ∧ barMask (seqOf (at3 (.bar 1 9)) 3) = some 9
      ∧ (seqOf s 3).st ≠ .running ∧ (seqOf s 3).st ≠ .waiting ∧ barMask (seqOf (at3 .none) 3) = none := by decide
theorem witness_issue :
    let i := FInstr.stage .issue 6 5 2 true 0
    let s := seq0 (fun q => { q with d := q.d.set 0 5 (desc 6 1 0 0 0 0) }) (atF i)
    AtInstr 0 i s ∧ descPort (dreg s 0 5) = 6 ∧ portUsed (portOf (tpOf s 0) 6) < portDepth 6
      ∧ (let f := modTp 0 (setPort 6 { Port.reset with slots := List.replicate 16 Slot.reset }) s
         AtInstr 0 i f ∧ portDepth 6 ≤ portUsed (portOf (tpOf f 0) 6))
      ∧ AtInstr 0 (.stage .issue 6 5 2 false 0) (atF (.stage .issue 6 5 2 false 0))
      ∧ descPort (dreg (atF i) 0 5) ≠ 6 ∧ HasHandler 0 (atF i) := by
  unfold AtInstr AtBoundary HasHandler; decide
theorem witness_pop :
    let i := FInstr.stage .pop 8 0 2 false 0
    AtInstr 0 i (atF i) ∧ (portOf (tpOf (atF i) 0) 8).cpl = []
      ∧ (let s := modTp 0 (setPort 8 { Port.reset with cpl := [1, 2] }) (atF i); AtInstr 0 i s ∧ (portOf (tpOf s 0) 8).cpl = [1, 2]) := by
  unfold AtInstr AtBoundary; decide
theorem witness_wait_ends :
    portUsed (portOf (tpOf (waiting (.issue 1 6 5)) 0) 6) < portDepth 6
    ∧ (portOf (tpOf (modTp 0 (setPort 8 { Port.reset with cpl := [1] }) (waiting (.pop 1 8))) 0) 8).cpl = [1]
    ∧ evp (tpOf (seq0 (fun q => { q with latched := 0x200 }) (waiting (.wait 1 0x200 1))) 0) &&& 0x200 ≠ 0
    ∧ (seqOf (waiting (.wait 1 0x200 1)) 0).wait = .wait 1 0x200 1
    ∧ (seqOf (seq0 (fun q => { q with barRes := some 1 }) (waiting (.bar 1 3))) 0).barRes = some 1 := by decide
theorem witness_wait :
    let s := atF (.imm .wait 1 4 1)
    AtInstr 0 (.imm .wait 1 4 1) s ∧ evp (tpOf s 0) &&& greg s 0 4 = 0 ∧ greg s 0 4 &&& 0x000000FFFF0FFFFF ≠ 0
      ∧ evp (tpOf (seq0 (fun q => { q with latched := 0x10000 }) s) 0) &&& greg s 0 4 ≠ 0
      ∧ (let z := atF (.imm .wait 1 0 0)
         AtInstr 0 (.imm .wait 1 0 0) z ∧ greg z 0 0 &&& 0x000000FFFF0FFFFF = 0 ∧ HasHandler 0 z) := by
  unfold AtInstr AtBoundary HasHandler; decide
theorem witness_sequencer_control : srcMay .puppeteer [0] State.reset = true
    ∧ (∀ q ∈ [SeqState.loaded, .halted, .empty, .running], (seqOf (seq0 (fun x => { x with st := q }) State.reset) 0).st = q)
    ∧ ∀ n, n < 9 → portOpen (portOf (tpOf State.reset 0) n) = [] ∧ (portOf (tpOf State.reset 0) n).cpl = [] := by decide
theorem witness_step_and_denied :
    let s := setFld (Reg.tsCtrl 0) Fld.tsCtrlDbgEn 1 (seq0 (fun q => { q with st := .halted }) (atF (.imm .addi 1 2 3)))
    srcMay .puppeteer [0] s = true ∧ (seqOf s 0).st = .halted ∧ dbgEn s 0 = true ∧ wdogDue s 0 = false
      ∧ fFetch (seqOf s 0) = some (.imm .addi 1 2 3) ∧ endOfVolume s 0 = false ∧ (seqOf s 0).startPend = none
      ∧ (tpOf s 0).reinstall = false ∧ (tpOf s 0).asm.opn = none ∧ fld State.reset (Reg.tsCtrl 0) Fld.tsCtrlDbgEn = 0
      ∧ romHeld .puppeteer s = false ∧ romHeld (.host 0) State.reset = false
      ∧ (match fLocal (.imm .addi 1 2 3) { seqOf s 0 with st := .running, step := true, wait := .none } with
        | some (.ok r _) => decide (r.pc = 4)
        | _ => false) = true := by decide

/-! ### Loops -/

/-- The arithmetic unit at a word of loop code, in an evaluation of loop 0. -/
def atL (i : LInstr) : State :=
  let w := encodeL i
  { State.reset with mrn := { State.reset.mrn with
      ev := some LEval.reset, v := ((State.reset.mrn.v.set 0 2 7).set 0 3 0x80000000).set 0 4 0x7FFFFFFF
      code := State.reset.mrn.code.write 0 0 [w.setWidth 8, (w >>> 8).setWidth 8, (w >>> 16).setWidth 8, (w >>> 24).setWidth 8] } }

theorem test_adds_saturates : goesTo (exec (.lAlu 1 4 2 0) (atL (.reg 1 4 2 0)))
    (fun u => vreg u 1 == 2 ^ 31 - 1 && (u.mrn.ev.map (fun e => e.satf)) == some true) = true := by decide
theorem test_abs_of_least : goesTo (exec (.lAlu 1 3 0 7) (atL (.reg 1 3 0 7))) (fun u => vreg u 1 == 2 ^ 31 - 1) = true := by decide
theorem test_ldhi : goesTo (exec (.ldhi 1 2 0x8000) (atL (.imm .ldhi 1 2 0x8000)))
    (fun u => vreg u 1 == -(2 ^ 31) + 7) = true := by decide
theorem test_out_stages : goesTo (exec (.lOut 0 2 3) (atL (.imm .lout 0 2 3)))
    (fun u => (u.mrn.ev.map (fun e => (e.staged.get 0 3, e.written))) == some (7, [3])) = true := by decide

theorem witness_loop_arithmetic : (∀ f ∈ [(0 : BitVec 11), 1, 7, 9], AtLoop (.reg 1 2 0 f) LEval.reset (atL (.reg 1 2 0 f)))
    ∧ (∀ op ∈ [LOp.addis, .ldi, .ldhi, .lds, .lin, .rdacc, .clamp, .ldacc], AtLoop (.imm op 1 0 0) LEval.reset (atL (.imm op 1 0 0)))
    ∧ (coefficient (atL (.imm .clamp 1 0 62)) 0 62).1 ≤ (coefficient (atL (.imm .clamp 1 0 62)) 0 63).1
    ∧ ∀ op ∈ [LMul.mac, .msu, .macz], AtLoop (.mul op true 2 63 0) LEval.reset (atL (.mul op true 2 63 0)) := by
  unfold AtLoop; decide
theorem witness_loop_memory : AtLoop (.imm .sts 0 2 63) LEval.reset (atL (.imm .sts 0 2 63))
    ∧ AtLoop (.imm .sts 0 2 0) LEval.reset (atL (.imm .sts 0 2 0))
    ∧ AtLoop (.imm .lout 0 2 7) LEval.reset (atL (.imm .lout 0 2 7)) ∧ AtLoop (.imm .lout 0 2 8) LEval.reset (atL (.imm .lout 0 2 8))
    ∧ AtLoop (.imm .rcl 1 0 0xFFFF) LEval.reset (atL (.imm .rcl 1 0 0xFFFF))
    ∧ AtLoop (.imm .rcu 0 2 1023) LEval.reset (atL (.imm .rcu 0 2 1023))
    ∧ vreg (atL (.imm .rcu 0 2 1023)) 2 = 7
    ∧ (coefficient State.reset 0 60).1 ≤ (coefficient State.reset 0 61).1
    ∧ (∀ op ∈ [LBr.beq, .bne, .blt, .bge], AtLoop (.branch op 2 3 1) LEval.reset (atL (.branch op 2 3 1)))
    ∧ ∀ op ∈ [LBr.bsat, .bnsat], AtLoop (.branch op 0 0 1) LEval.reset (atL (.branch op 0 0 1)) := by
  unfold AtLoop; decide
theorem witness_bin_held :
    let s := setFld (Reg.mcEnc 0) Fld.mcEncCpra 4096 (modTp 0 (fun x => { x with mot := { x.mot with satA := x.mot.satA.set 0 0 1, turnsA := 4096 } })
      (atL (.imm .rcu 0 4 0)))
    AtLoop (.imm .rcu 0 4 0) LEval.reset s ∧ vreg s 4 = 2 ^ 31 - 1 ∧ angleBin s 0 0 = 0 ∧ (tpOf s 0).mot.satA.get 0 0 = 1
      ∧ fld s (Reg.mcEnc 0) Fld.mcEncCpra ≤ (tpOf s 0).mot.turnsA + 1 - 1 := by
  unfold AtLoop; decide
theorem witness_loop_held :
    let s := modLoop 0 (fun p => { p with awh := true, awdir := true, mode := .auto }) (atL (.imm .sts 0 2 0))
    AtLoop (.imm .sts 0 2 0) LEval.reset s ∧ (getLoop s 0).awh = true ∧ ¬(limited (coefficient s 0 60).1 (coefficient s 0 61).1 (vreg s 2) < (getLoop s 0).lh.toInt)
      ∧ (getLoop s 0).mode = .auto ∧ 0 ∈ ({ LEval.reset with written := [0] } : LEval).written ∧ LEval.reset.l < 32 := by
  unfold AtLoop; decide
theorem witness_loop_end : AtLoop (.imm .lend 0 0 0) LEval.reset (atL (.imm .lend 0 0 0))
    ∧ (atL (.imm .lend 0 0 0)).mrn.inj.active = false ∧ (atL (.imm .lend 0 0 0)).mrn.tune = none
    ∧ (coefficient State.reset 0 62).1 ≤ (coefficient State.reset 0 63).1 := by
  unfold AtLoop; decide
theorem witness_loop_evaluation :
    goesTo (exec (.lAlu 1 2 0 0) (atL (.reg 1 2 0 0))) (fun u => u.mrn.ev.isSome) = true
    ∧ goesTo (exec (.lds 1 0 0) (atL (.imm .lds 1 0 0))) (fun u => u.mrn.ev.isSome) = true
    ∧ goesTo (exec (.lOut 0 2 7) (atL (.imm .lout 0 2 7))) (fun u => u.mrn.ev.isSome) = true := by decide

/-! ### Stages -/

/-- Two buffers of class 3 a group, and buffer 0 held by slice 0 and by agent 3 with generation 1. -/
def held (s : State) : State :=
  setBuf 0 { BufRec.reset with st := .allocated, gen := 1, hold := ((SMap.mk []).set 0 3 1).set 0 4 1 }
    (setFld (Reg.tbxNbuf 3) Fld.tbxNbufPergrp 2 s)

/-- The token of that buffer. -/
abbrev tok0 : W32 := 0x01000000

/-- A dataset of KIND k with one segment. -/
def ods (k : BitVec 4) : OpenDs := { OpenDs.reset with ticket := 5, token := tok0, kind := k, idle := 10, segs := [SegRec.reset] }

/-- That dataset open on slice 0, with an item waiting. -/
def assembling (k : BitVec 4) (i : Item) : State :=
  modTp 0 (fun x => { x with asm := { x.asm with opn := some (ods k), items := [i] } }) (held State.reset)

theorem test_asm_close_not_open : goesTo (.next (asmCloseOp 0 (headAt 1 (slot (desc 1 2 0 0 0 0)) State.reset)))
    (fun u => (portOf (tpOf u 0) 1).cpl == [completion 5 0x0A 0]) = true := by decide

theorem witness_completion_posted :
    let p : Port := { Port.reset with slots := [{ Slot.reset with ticket := 3 }, slot (desc 1 1 0 0 0 0)] }
    p.slots = [{ Slot.reset with ticket := 3 }] ++ slot (desc 1 1 0 0 0 0) :: []
      ∧ (∀ z ∈ [{ Slot.reset with ticket := 3 }] ++ [], z.ticket ≠ (slot (desc 1 1 0 0 0 0)).ticket ∧ z.fin = none)
      ∧ (slot (desc 1 1 0 0 0 0)).fin = none ∧ descQuiet (desc 1 1 0 0 0 0) = false
      ∧ descQuiet (desc 1 0x101 0 0 0 0) = true := by decide
theorem witness_undefined_operation : (∀ x ∈ [(1, 0), (1, 4), (5, 0), (5, 2), (6, 0), (6, 255)],
    HeadIs 0 x.1 x.2 (slot (desc x.1 x.2 0 0 0 0)) (headAt x.1 (slot (desc x.1 x.2 0 0 0 0)) State.reset)) := by
  unfold HeadIs; decide
theorem witness_assembler :
    (let y := slot (desc 1 1 0 tok0.toNat 0 7)
     HeadIs 0 1 1 y (headAt 1 y (held State.reset)) ∧ openValid (headAt 1 y (held State.reset)) 0 y.desc = true
      ∧ (tpOf (headAt 1 y (held State.reset)) 0).asm.opn = none)
    ∧ (let y := slot (desc 1 2 0 0 0 0)
       HeadIs 0 1 2 y (headAt 1 y State.reset) ∧ descFits y.desc 0 0 0 0 = true
        ∧ (tpOf (headAt 1 y State.reset) 0).asm.opn = none ∧ (tpOf (headAt 1 y (assembling 0 Item.reset)) 0).asm.opn.isSome = true)
    ∧ (tpOf (assembling 0 Item.reset) 0).asm.opn.map (fun o => (o.idle, o.segs.isEmpty)) = some (10, false) := by
  unfold HeadIs; decide
theorem witness_work_item :
    let i : Item := { Item.reset with data := [1, 2, 3] }
    let o := ods 0
    (tpOf (assembling 0 i) 0).asm.opn = some o ∧ o.kind = 0 ∧ (tpOf (assembling 0 i) 0).asm.items = [i] ∧ itemFits o i = i.data.length
      ∧ (itemSeg o i).off + 16 + (itemSeg o i).len + i.data.length + 80 ≤ 7340032
      ∧ ({ Item.reset with flush := true } : Item).data = [] ∧ ({ Item.reset with full := true } : Item).full = true := by decide
theorem witness_item_too_long :
    let i : Item := { Item.reset with data := [1, 2, 3], flush := true }
    let o : OpenDs := { ods 0 with used := 7335936 - 18 }
    o.kind = 0 ∧ itemFits o i < i.data.length ∧ itemFits (ods 0) i = i.data.length ∧ i.data ≠ [] ∧ i.full = false ∧ i.flush = true
      ∧ (itemSeg (ods 0) i).off + 16 + (itemSeg (ods 0) i).len + i.data.length + 80 ≤ 7340032 := by decide
theorem witness_disassembler :
    let y := slot (desc 1 3 0 tok0.toNat 0 0)
    let s := headAt 1 y (held State.reset)
    HeadIs 0 1 3 y s ∧ descFits y.desc 0 0xFFFFFFFF 0 0 = true ∧ dsToken s 0 (y.desc.extractLsb' 64 32) = true
      ∧ (demandRead (tokAddr s tok0) 7340032 s).1 = false ∧ headerGood s 0 tok0 = false
      ∧ (demandRead (tokAddr s tok0) 7340032 { s with mem := { s.mem with poison := [tokAddr s tok0 / 128] } }).1 = true := by
  unfold HeadIs; decide
/-- The first bytes of a dataset header of EVF-1, version 1.0, and the buffer 0 with them and an HCRC that fits. -/
def headBytes : List Byte := leBytes 4 dsMagic ++ leBytes 2 1 ++ leBytes 2 256
def headedMem (a : Nat) (m : SMap Byte) : SMap Byte :=
  (m.write 0 a headBytes).write 0 (a + 0xFFC) (leBytes 4 (crc32c ((m.write 0 a headBytes).read 0 a 4092)).toNat)
def headed (s : State) : State := { s with mem := { s.mem with hbm := headedMem (tokAddr s tok0) s.mem.hbm } }
theorem leNat_leBytes (n v : Nat) : leNat (leBytes n v) = v % 256 ^ n := by
  induction n generalizing v with
  | zero => simp [leNat, leBytes, Nat.mod_one]
  | succ n ih =>
    rw [leBytes, leNat, ih, BitVec.toNat_ofNat, show 256 ^ (n + 1) = 256 * 256 ^ n from Nat.pow_succ', Nat.mod_mul]
theorem leBytes_length (n v : Nat) : (leBytes n v).length = n := by
  induction n generalizing v with
  | zero => rfl
  | succ n ih => rw [leBytes, List.length_cons, ih]
theorem tokAddr_mem (s : State) (m : Mem) (tok : W32) : tokAddr { s with mem := m } tok = tokAddr s tok := rfl
theorem headedMem_read (a o n : Nat) (m : SMap Byte) (h : o + n ≤ 4092) :
    (headedMem a m).read 0 (a + o) n = (m.write 0 a headBytes).read 0 (a + o) n := by
  unfold headedMem
  exact SMap.read_write_below _ _ _ _ _ _ (by omega)
theorem headedMem_crc (a : Nat) (m : SMap Byte) : memLe (headedMem a m) (a + 0xFFC) 4 = (crc32c ((headedMem a m).read 0 a 4092)).toNat := by
  have h0 := headedMem_read a 0 4092 m (by omega)
  rw [Nat.add_zero] at h0
  unfold memLe
  rw [h0]
  unfold headedMem
  generalize hc : (crc32c ((m.write 0 a headBytes).read 0 a 4092)).toNat = c
  have h := SMap.read_write (leBytes 4 c) (m.write 0 a headBytes) 0 (a + 0xFFC)
  rw [leBytes_length] at h
  rw [h, leNat_leBytes, Nat.mod_eq_of_lt (by rw [← hc]; exact BitVec.isLt _)]
theorem headedMem_head (a : Nat) (m : SMap Byte) : (headedMem a m).read 0 a 8 = headBytes := by
  have h0 := headedMem_read a 0 8 m (by omega)
  rw [Nat.add_zero] at h0
  rw [h0]
  exact SMap.read_write headBytes m 0 a
theorem witness_encoded (s : State) : wlEncoded (headed s) tok0 = true := by
  unfold wlEncoded bufLe bufGet hbmGet
  have h : tokAddr (headed s) tok0 = tokAddr s tok0 := tokAddr_mem _ _ _
  rw [h]
  have hb : (headed s).mem.hbm = headedMem (tokAddr s tok0) s.mem.hbm := rfl
  rw [hb, Nat.add_zero, headedMem_crc, beq_self_eq_true, Bool.and_true]
  have hm : memLe (headedMem (tokAddr s tok0) s.mem.hbm) (tokAddr s tok0) 4 = leNat (headBytes.take 4) := by
    unfold memLe
    rw [← headedMem_head (tokAddr s tok0) s.mem.hbm]
    rfl
  rw [hm]
  decide
theorem headedMem_format (a : Nat) (m : SMap Byte) : formatRead ((headedMem a m).read 0 a 64) = true := by
  have h : formatRead ((headedMem a m).read 0 a 64) = formatRead ((headedMem a m).read 0 a 8) := rfl
  rw [h, headedMem_head]
  decide
theorem witness_header (s : State) (t : Tid) : headerGood (headed s) t tok0 = true := by
  have hs : headerSound (headed s) tok0 = true := by
    have h := witness_encoded s
    unfold wlEncoded at h
    unfold headerSound
    exact h
  have h : bufGet (headed s) tok0 0 64 = (headedMem (tokAddr s tok0) s.mem.hbm).read 0 (tokAddr s tok0) 64 := by
    unfold bufGet hbmGet
    have hb : (headed s).mem.hbm = headedMem (tokAddr s tok0) s.mem.hbm := rfl
    rw [show tokAddr (headed s) tok0 = tokAddr s tok0 from tokAddr_mem _ _ _, Nat.add_zero, hb]
  unfold headerGood headerOf
  rw [if_pos hs, h, Option.any_some, headedMem_format]
theorem witness_encoder_emit :
    let y := slot (desc 2 2 0 tok0.toNat 0 0x100000000)
    let s := headAt 2 y (modTp 0 (fun x => { x with enc := { x.enc with c3rec := x.enc.c3rec.set [] 0 [(0, [])] } }) (held State.reset))
    encFree (tpOf s 0) = true ∧ HeadIs 0 2 2 y s ∧ descFits y.desc 0 0xFFFFFFFF (~~~0) 0xFFFFFFFFF = true
      ∧ dsToken s 0 (y.desc.extractLsb' 64 32) = true ∧ 1 = fieldB y.desc 224 4
      ∧ c3Complete (c3Entries (tpOf s 0) (y.desc.extractLsb' 64 32)) (fieldB y.desc 224 4) = true := by
  unfold HeadIs; decide
theorem witness_encoder_correct :
    let y := slot (desc 2 4 0 tok0.toNat 1 0)
    let s := headAt 2 y (held State.reset)
    encFree (tpOf s 0) = true ∧ HeadIs 0 2 4 y s ∧ descFits y.desc 0 0xFFFFFFFF 1 0 = true
      ∧ dsToken s 0 (y.desc.extractLsb' 64 32) = true := by
  unfold HeadIs; decide
theorem witness_mapset :
    let y := slot (desc 2 3 1 0xFFFFFFFFFFFFFFFF 0 0)
    let s := headAt 2 y State.reset
    HeadIs 0 2 3 y s ∧ encFree (tpOf s 0) = true ∧ mapsetValid (tpOf s 0) y.desc = true ∧ slotBusy (tpOf s 0) 1 y.order = false
      ∧ (let z := { y with started := true }
         ((tpOf (headAt 2 z State.reset) 0).encP.slots.find? (fun z => z.started && z.fin.isNone && descOp z.desc == 3) = some z))
      ∧ (let b := modTp 0 (setPort 3 { Port.reset with slots := [slot (desc 3 1 0 0 1 0)] }) (headAt 2 { y with order := 1 } State.reset)
         slotBusy (tpOf b 0) 1 1 = true) := by
  unfold HeadIs; decide

theorem witness_encode :
    let y := slot (desc 2 1 0 tok0.toNat 0 0)
    let s := headAt 2 y (bufPut tok0 0 [0x45, 0x56, 0x44, 0x53] (modTp 0 (fun x => { x with enc := { x.enc with map0 := some 1 } })
      (held State.reset)))
    let z := slot (desc 2 1 0 (tok0 ++ tok0) 2 0)
    encFree (tpOf s 0) = true ∧ HeadIs 0 2 1 y s ∧ encodeValid s 0 y.desc = true ∧ fieldB y.desc 129 1 = 0
      ∧ (demandRead (tokAddr s tok0) 7340032 s).1 = false ∧ encodeValid s 0 z.desc = true ∧ fieldB z.desc 129 1 = 1
      ∧ (let p : State := { s with mem := { s.mem with poison := [tokAddr s tok0 / 128] } }
         encodeValid p 0 y.desc = true ∧ (demandRead (tokAddr p tok0) 7340032 p).1 = true) := by
  unfold HeadIs; decide
theorem witness_write_lanes :
    let s := modTp 0 (fun x => { x with enc := { x.enc with map0 := some 1 } }) (held State.reset)
    (∀ x ∈ [(1, (0 : W32), tok0.setWidth 64), (2, 7, 0), (3, 2, 9)],
      let y := slot (desc 3 x.1 x.2.1 x.2.2 0 0)
      HeadIs 0 3 x.1 y (headAt 3 y s) ∧ wlValid (headAt 3 y s) 0 y = true)
    ∧ (let y := slot (desc 3 2 1 0 0 0)
       let r := headAt 3 y (setFld (Reg.rcMode 0) Fld.rcModeMode 1 (modTp 0 (fun x => { x with wl := { x.wl with locked := true } }) s))
       wlReady r 0 = true ∧ descArg y.desc ≠ 0 ∧ mapPending (tpOf r 0) (fieldB y.desc 128 1) y.order = false
        ∧ encodePending (tpOf r 0) tok0 = false)
    ∧ (let m : Mot := { (tpOf s 0).mot with armed := some 5, st := .tensioned }
       m.armed.isSome = true ∧ m.armGo = false ∧ m.st = .tensioned ∧ (tpOf s 0).yoyo.pause = 0) := by
  unfold HeadIs; decide
theorem witness_write_lanes_busy :
    let c : WlCur := ⟨5, 1, 1, tok0, 0, 0⟩
    let s := modTp 0 (fun x => { x with wl := { x.wl with cur := some c, exts := [{ Extent.reset with dsnum := 1 }] } }) State.reset
    (tpOf s 0).wl.cur = some c ∧ (tpOf s 0).wl.exts.map (fun e => e.fixed) = [false] ∧ (tpOf s 0).vfy.rwq = [] := by decide
theorem witness_verify_arm :
    let y := slot (desc 4 1 0 (0x0100000000000001 : W64) 0 0)
    let s := headAt 4 y (modTp 0 (fun x => { x with enc := { x.enc with map0 := some 1 } }) (held State.reset))
    HeadIs 0 4 1 y s ∧ mapPending (tpOf s 0) 0 y.order = false ∧ descFits y.desc 0 (~~~0) 3 0 = true
      ∧ dsToken s 0 (y.desc.extractLsb' 96 32) = true ∧ (mapSlot (tpOf s 0) (fieldB y.desc 128 1)).isSome = true := by
  unfold HeadIs; decide
/-- The block with its modules trained. -/
def trained : State := forAll [0, 1, 2, 3] (fun t => modTp t (fun x => { x with ucieUp := true })) State.reset
theorem witness_reports : isOffline State.reset 0 = true ∧ isOffline trained 0 = false ∧ rcMode trained 0 ≠ 1
    ∧ (let s := setFld (Reg.rcMode 0) Fld.rcModeMode 1 trained; isOffline s 0 = false ∧ rcMode s 0 = 1) := by decide
theorem witness_policy : let y := slot (desc 5 1 7 0xFFFF 0 0)
    HeadIs 0 5 1 y (headAt 5 y State.reset) ∧ descFits y.desc 7 0xFFFF 0 0 = true ∧ descArg y.desc ≠ 0
      ∧ rcMode State.reset 0 ≠ 1 ∧ rcMode (setFld (Reg.rcMode 0) Fld.rcModeMode 1 State.reset) 0 = 1 := by
  unfold HeadIs; decide

/-- A dataset with n codewords, all passed. -/
def passedDs (n : Nat) : Ds :=
  { Ds.reset with armed := some 5, cw := ⟨(List.range n).map (fun i => (i, { Cw.reset with st := .passed }))⟩ }
theorem passedDs_count (n : Nat) : ((passedDs n).cw.cells.filter (fun c => c.2.st != .pending)).length = n := by
  unfold passedDs
  rw [List.filter_eq_self.2 (by intro c hc; obtain ⟨i, -, rfl⟩ := List.mem_map.1 hc; rfl)]
  simp
theorem passedDs_unres (n k : Nat) : k ∈ unresOf (passedDs n) → k = 0 := by
  intro hk
  obtain ⟨u, -, rfl⟩ := List.mem_map.1 hk
  rw [List.filter_eq_nil_iff.2]
  · rfl
  · intro c hc
    obtain ⟨i, -, rfl⟩ := List.mem_map.1 (List.mem_filter.1 hc).1
    show ¬((CwState.passed == CwState.unresolved) = true)
    decide
theorem witness_verify_settled (n : Nat) (hn : n = 8192) :
    [passedDs n].find? (fun z => z.armed.isSome && dsSettled z) = some (passedDs n) ∧ (passedDs n).armed = some 5
      ∧ (∀ k ∈ unresOf (passedDs n), k = 0) ∧ (passedDs n).rel = false := by
  refine ⟨?_, rfl, fun k => passedDs_unres n k, rfl⟩
  rw [List.find?_cons_of_pos]
  have h : dsSettled (passedDs n) = true := by unfold dsSettled; rw [passedDs_count, hn]; rfl
  rw [h]; rfl
/-- A dataset with n + 1 codewords, the first unresolved and the others passed. -/
def failedDs (n : Nat) : Ds :=
  { Ds.reset with armed := some 5, cw := ⟨(0, { Cw.reset with st := .unresolved }) :: (List.range n).map (fun i => (i + 1, { Cw.reset with st := .passed }))⟩ }
theorem witness_verify_unresolved (n : Nat) (hn : n = 8191) :
    [failedDs n].find? (fun z => z.armed.isSome && dsSettled z) = some (failedDs n) ∧ (failedDs n).armed = some 5
      ∧ ∃ k ∈ unresOf (failedDs n), k ≠ 0 := by
  refine ⟨?_, rfl, _, List.mem_map.2 ⟨0, by decide, rfl⟩, ?_⟩
  · rw [List.find?_cons_of_pos]
    have h : dsSettled (failedDs n) = true := by
      unfold dsSettled failedDs
      rw [List.filter_eq_self.2 (by
        intro c hc
        rcases List.mem_cons.1 hc with rfl | hc
        · rfl
        · obtain ⟨i, -, rfl⟩ := List.mem_map.1 hc; rfl)]
      simp [hn]
    rw [h]; rfl
  · have hm : ((0 : Nat), { Cw.reset with st := .unresolved }) ∈
        (((failedDs n).cw.range (128 * 0) 128).filter (fun c => c.2.st == .unresolved)) := by
      rw [List.mem_filter]
      refine ⟨?_, rfl⟩
      simp [SMap.range, failedDs]
    intro h
    rw [List.length_eq_zero_iff] at h
    rw [h] at hm
    exact absurd hm (List.not_mem_nil)
/-- An object that slice 0 knows, in record 0 of dataset 1. -/
def indexed (y : Slot) : State :=
  headAt 6 y (modTp 0 (fun x => { x with idx := { x.idx with
    tables := x.idx.tables.set [] 1 [(3, 2, 4096)], known := [ObjEnt.mk 9 1 4096 2 3] } }) State.reset)
theorem witness_index_add : let y := slot (desc 6 1 0 9 0 1)
    HeadIs 0 6 1 y (indexed y) ∧ descFits y.desc 0xFFFFFFFF (~~~0) (~~~0) 0xFFFFFFFF = true
      ∧ ((tpOf (indexed y) 0).idx.tables.get [] (fieldB y.desc 192 32))[descArg y.desc]? = some (3, 2, 4096) := by
  unfold HeadIs; decide
theorem witness_index_none : let y := slot (desc 6 1 1 9 0 1)
    HeadIs 0 6 1 y (indexed y) ∧ ((tpOf (indexed y) 0).idx.tables.get [] (fieldB y.desc 192 32))[descArg y.desc]? = none := by
  unfold HeadIs; decide
theorem witness_index_find : let y := slot (desc 6 3 0 9 0 0)
    HeadIs 0 6 3 y (indexed y) ∧ descFits y.desc 0 (~~~0) (~~~0) 0 = true
      ∧ (tpOf (indexed y) 0).idx.known.find? (fun z => z.objid == y.desc.extractLsb' 64 128) = some (ObjEnt.mk 9 1 4096 2 3) := by
  unfold HeadIs; decide
theorem witness_index_not_found : let y := slot (desc 6 3 0 8 0 0)
    HeadIs 0 6 3 y (indexed y) ∧ ∀ z ∈ (tpOf (indexed y) 0).idx.known, z.objid ≠ y.desc.extractLsb' 64 128 := by
  unfold HeadIs; decide
/-- An EMIT into an open index dataset of slice 0; e waits for the freeze. -/
def emitting (e : Option (BitVec 16)) (f : Option Frozen) : State :=
  headAt 6 (slot (desc 6 2 0 tok0.toNat 0 0))
    (modTp 0 (fun x => { x with idx := { x.idx with emitting := e, frozen := f } }) (assembling 1 Item.reset))
theorem witness_emit : let y := slot (desc 6 2 0 tok0.toNat 0 0)
    HeadIs 0 6 2 y (emitting none (some ⟨[], 0, none, []⟩)) := by
  unfold HeadIs; decide
theorem witness_emit_waits :
    let on (o : List ObjEnt) : State := modTp 0 (fun x => { x with idx := { x.idx with objs := o } }) (emitting none none)
    (tpOf (on [ObjEnt.mk 9 1 4096 2 3]) 0).idx.frozen = none ∧ dsWritten (tpOf (on [ObjEnt.mk 9 1 4096 2 3]) 0) 1 = false
      ∧ (∀ e ∈ (tpOf (on []) 0).idx.objs, dsWritten (tpOf (on []) 0) e.dsnum = true) ∧ (tpOf (on []) 0).idx.emitting = none := by decide
theorem witness_emit_frozen : let s := emitting none (some ⟨[], 0, none, []⟩)
    (tpOf s 0).idx.emitting = none ∧ (tpOf s 0).idx.frozen = some ⟨[], 0, none, []⟩ := by decide
theorem witness_emit_dataset : (emitDs (emitting none none) 0 (desc 6 2 0 tok0.toNat 0 0)).isSome = true := by decide
theorem witness_freeze : let s := emitting (some 5) none
    (tpOf s 0).idx.emitting = some 5 ∧ ((tpOf s 0).idxP.slots.find? (fun z => z.ticket == 5)).isSome = true
      ∧ (tpOf s 0).asm.opn.isSome = true ∧ (tpOf s 0).idx.await = [] := by decide

/-! ### Toybox -/

/-- Toybox enabled, with two buffers of each class a group. -/
def pool : State :=
  setFld Reg.tbxCtrl Fld.tbxCtrlEn 1 (setFld (Reg.tbxNbuf 0) Fld.tbxNbufPergrp 2 (setFld (Reg.tbxNbuf 1) Fld.tbxNbufPergrp 2
    (setFld (Reg.tbxNbuf 2) Fld.tbxNbufPergrp 2 (setFld (Reg.tbxNbuf 3) Fld.tbxNbufPergrp 2 State.reset))))

theorem test_release_frees : goesTo (exec (.tbxRelease (.slice 0)) (headAt 7 (slot (desc 7 3 tok0 0 0 0)) (setBuf 0
    { BufRec.reset with st := .allocated, gen := 255, hold := (SMap.mk []).set 0 4 1 } pool)))
    (fun u => (bufStored u 0).st == .allocated && (portOf (tpOf u 0) 7).cpl == [completion 5 0x18 0]) = true := by decide
theorem test_gen_wraps : goesTo (exec (.tbxRelease (.slice 0)) (headAt 7 (slot (desc 7 3 0xFF000000 0 0 0)) (setBuf 0
    { BufRec.reset with st := .allocated, gen := 255, hold := (SMap.mk []).set 0 4 1 } pool)))
    (fun u => (bufStored u 0).st == .free && (bufStored u 0).gen == 1 && (portOf (tpOf u 0) 7).cpl == [completion 5 0 0]) = true := by
  decide

/-- A slice's request is next, and so is each unit's. -/
theorem witness_turns_granted :
    let y := slot (desc 7 1 3 0 0 0)
    sliceTurn (headAt 7 y pool) 0 = true ∧ (∀ p ∈ [0, 1, 3], portTurn pool p = true) ∧ agentFits 0 0 = true ∧ agentFits 1 2 = true
      ∧ agentFits 3 3 = true ∧ fld (held State.reset) Reg.tbxCtrl Fld.tbxCtrlEn = 0 ∧ (waitList pool.tbx 3).length < 255
      ∧ classHas pool 0 1 = true ∧ classHas pool 3 1 = true := by decide
theorem witness_waiting_class :
    let w : Waiter := ⟨0, 0, 2, 1, none⟩
    let s := setBuf 2 { BufRec.reset with st := .allocated, gen := 1, hold := (SMap.mk []).set 0 4 1 } pool
    let s : State := { s with tbx := { s.tbx with wait2 := [w] } }
    let y := slot (desc 7 3 0x01000002 0 0 0)
    HeadIs 0 7 3 y (headAt 7 y s) ∧ sliceTurn (headAt 7 y s) 0 = true ∧ Current s 0x01000002 ∧ classOf s 2 = some 2
      ∧ waitList s.tbx 2 = [w] ∧ bufRefs (bufStored s 2) = 1 ∧ bufHold (bufStored s 2) 4 = 1 ∧ groupRetired s 0 = false
      ∧ (bufStored s 2).hold.wf 0 = true ∧ fld s Reg.tbxCtrl Fld.tbxCtrlEn = 1 := by
  unfold HeadIs Current; decide
theorem witness_larger_class :
    let s := setFld (Reg.tbxNbuf 1) Fld.tbxNbufPergrp 0 pool
    classHas s 4 1 = false ∧ classHas s 4 2 = true ∧ descArg (desc 7 1 1 0 0 0) / 4 % 4 = 0 ∧ descArg (desc 7 1 1 0 0 0) % 4 = 1 := by decide
theorem witness_alloc : (let y := slot (desc 7 1 3 0 0 0)
    HeadIs 0 7 1 y (headAt 7 y pool) ∧ descFits y.desc 0xF 0 0 0 = true ∧ fld (headAt 7 y pool) Reg.tbxCtrl Fld.tbxCtrlEn = 1
      ∧ descArg y.desc / 4 % 4 = 0 ∧ classHas (headAt 7 y pool) 4 3 = true) := by
  unfold HeadIs; decide
theorem witness_alloc_none : (let s := setFld (Reg.tbxNbuf 3) Fld.tbxNbufPergrp 0 pool
    classHas s 4 3 = false ∧ descArg (desc 7 1 7 0 0 0) / 4 % 4 = 1 ∧ descArg (desc 7 1 11 0 0 0) / 4 % 4 = 2
      ∧ (waitList s.tbx 3).length < 255 ∧ ({ s with tbx := { s.tbx with retry := [Waiter.reset] } }).tbx.retry = Waiter.reset :: []) := by
  decide
theorem witness_alloc_free : pool.tbx.recs.wf BufRec.reset = true ∧ 0 < freeCount pool 3 ∧ 0 < freeCount pool 0
    ∧ perGroup pool 0 + perGroup pool 1 + perGroup pool 2 + perGroup pool 3 ≤ 2 ^ 20 := by decide
theorem witness_reference : (∀ op ∈ [2, 3], let y := slot (desc 7 op tok0 0 0 0)
    let s := headAt 7 y (held pool)
    descFits y.desc 0xFFFFFFFF 0 0 0 = true ∧ HeadIs 0 7 op y s ∧ Current s tok0 ∧ bufHold (bufStored s 0) 4 = 1
      ∧ bufHold (bufStored s 0) 5 = 0 ∧ classOf s 0 = some 3 ∧ waitList s.tbx 3 = [] ∧ (bufStored s 0).hold.wf 0 = true
      ∧ bufRefs (bufStored s 0) = 2) := by
  unfold HeadIs Current; decide
theorem witness_reference_stale : (let s := headAt 7 (slot (desc 7 2 0x02000000 0 0 0)) (held pool)
    (classOf s (tokId 0x02000000)).isSome = true ∧ ¬Current s 0x02000000
      ∧ bufHold { BufRec.reset with hold := (SMap.mk []).set 0 4 254 } 4 < 255
      ∧ bufRefs { BufRec.reset with hold := (SMap.mk []).set 0 4 1 } = 1) := by
  unfold Current; decide
theorem witness_pool_supervision : (classOf pool 1).isSome = true
    ∧ (let s := setBuf 1 { BufRec.reset with st := .quarantined, gen := 255 } pool
       classOf s 1 = some 3 ∧ (bufRec s 1).st = .quarantined ∧ bufRefs (bufStored s 1) = 0 ∧ groupRetired s 0 = false
        ∧ (bufStored s 1).badRec = false ∧ waitList s.tbx 3 = []) ∧ (15 : BitVec 4).toNat < groupCount pool := by decide

/-! ### Motion -/

/-- Transport 0 in a motion state, with a cartridge of 10 wraps. -/
def moving (f : Mot → Mot) : State :=
  setFld (Reg.mcNwrap 0) Fld.mcNwrapNwrap 10 (modTp 0 (fun x => { x with mot := f x.mot }) State.reset)

/-- That state with more of the transport changed. -/
def movingToo (g : Tp → Tp) (f : Mot → Mot) : State := modTp 0 g (moving f)

/-- A motion command in progress. -/
def cmd (op step : Nat) : MotCur := { MotCur.reset with ticket := some 5, op := op, wrap := 1, step := step }

theorem witness_motion_descriptors : (let s := moving (fun m => { m with st := .tensioned })
    (tpOf s 0).mot.st ≠ .stopping ∧ (tpOf s 0).mot.st ≠ .faulted ∧ (tpOf s 0).mot.cur = none
      ∧ (let y := slot (desc 8 1 2 5000 0 0)
         HeadIs 0 8 1 y (headAt 8 y s) ∧ descFits y.desc 3 0xFFFFFFFF 0 0 = true ∧ descArg y.desc = 2
          ∧ 2500 ≤ fieldB y.desc 64 32 ∧ fieldB y.desc 64 32 = topSpeed (tpOf (headAt 8 y s) 0))) := by
  unfold HeadIs; decide
theorem witness_motion_locate : (let s := moving (fun m => { m with st := .tensioned })
    (∀ x ∈ [(2, (77 : W64)), (3, 0)], let y := slot (desc 8 x.1 9 x.2 0 0)
      HeadIs 0 8 x.1 y (headAt 8 y s) ∧ descFits y.desc 0xFFFFFFFF 0xFFFFFFFF 0 0 = true ∧ wrapFits (headAt 8 y s) 0 y = true
        ∧ (tpOf (headAt 8 y s) 0).wl.cur = none)) := by
  unfold HeadIs; decide
theorem witness_motion_stop : (let y := slot (desc 8 4 0 0 0 0)
    let s := headAt 8 y (moving (fun m => { m with st := .running, still := false }))
    HeadIs 0 8 4 y s ∧ descFits y.desc 0 0 0 0 = true ∧ (tpOf s 0).mot.st = .running ∧ (tpOf s 0).mot.cur = none
      ∧ (tpOf s 0).wl.cur = none ∧ (tpOf s 0).mot.pup = [] ∧ (tpOf s 0).mot.still = false
      ∧ (tpOf (moving (fun m => { m with st := .tensioned })) 0).mot.still = true
      ∧ (tpOf (moving (fun m => { m with st := .faulted })) 0).mot.st = .faulted) := by
  unfold HeadIs; decide
theorem witness_standstill : (let s := moving (fun m => { m with st := .running, vtape := -79, cur := some (cmd 4 0) })
    (tpOf s 0).mot.vtape.natAbs < 80 ∧ (tpOf s 0).mot.st ≠ .stopping ∧ (tpOf s 0).mot.cur = some (cmd 4 0) ∧ (cmd 4 0).op = 4
      ∧ s.pwr.commit = none ∧ (tpOf s 0).mot.pup = []
      ∧ (tpOf (moving (fun m => { m with st := .stopping, cause := 7 })) 0).mot.st = .stopping ∧ causeFault 7 = false) := by decide
theorem witness_no_puppeteer : (tpOf (moving (fun m => { m with st := .tensioned })) 0).mot.pup = []
    ∧ (tpOf (moving (fun m => { m with st := .running })) 0).mot.st ≠ .released
    ∧ (let s := movingToo (fun x => { x with yoyo := { x.yoyo with pause := 2 } }) (fun m => m)
       (tpOf s 0).yoyo.pause ∈ [1, 2, 3] ∧ (tpOf s 0).yoyo.sel ≠ 1)
    ∧ (let s := moving (fun m => { m with st := .locating, cur := some (cmd 2 4) })
       (tpOf s 0).mot.cur = some (cmd 2 4) ∧ (tpOf s 0).mot.st ≠ .stopping)
    ∧ causeFault 1 = true ∧ State.reset.flt.pendRetry.contains (unitId 7 0) = false := by decide
theorem witness_speed_lock : (let s := movingToo (fun x => { x with yoyo := { x.yoyo with sel := 2, on := true, fixedV := 5000, out := 50000 } }) (fun m => { m with st := .running, vtape := 80000, setv := 80000 })
    lockFits s 0 = true) := by decide
theorem witness_wrap_settle : (let s := moving (fun m => { m with st := .locating, cur := some (cmd 2 2) })
    (tpOf s 0).mot.cur = some (cmd 2 2) ∧ (cmd 2 2).op = 2 ∧ 2 ≤ (cmd 2 2).step ∧ settledOn s 0 (cmd 2 2).wrap = true
      ∧ (tpOf s 0).mot.wrap % 2 ≠ (cmd 2 2).wrap % 2) := by decide
theorem witness_turn : (let s := movingToo (fun x => { x with wl := { x.wl with locked := true } }) (fun m => { m with st := .turning, cur := some (cmd 3 2) })
    (tpOf s 0).mot.cur = some (cmd 3 2) ∧ (cmd 3 2).op = 3 ∧ (cmd 3 2).step = 2 ∧ settledOn s 0 (cmd 3 2).wrap = true
      ∧ (tpOf s 0).wl.locked = true ∧ (tpOf s 0).mot.pup = []) := by decide
/-- A band's bursts: seven, seven, five and five stripes, Q half way from P to R. -/
def bursts : List (List Nat) := [[100, 200, 300, 400, 500, 600, 700], [3100, 3200, 3300, 3400, 3500, 3600, 3700],
  [6100, 6200, 6300, 6400, 6500], [9100, 9200, 9300, 9400, 9500]]
theorem witness_frames : bandValid bursts = true ∧ bandValid [] = false ∧ frameTime ⟨bursts, []⟩ = some 100 ∧ isOffline trained 0 = false
    ∧ isOffline State.reset 0 = true ∧ (({ (tpOf trained 0).mot with skewSum := 7, skewN := 2 } : Mot).skewN ≠ 0) := by decide
theorem witness_sensors : (let s := setFld (Reg.mcEnc 0) Fld.mcEncCpra 4096 (setFld (Reg.mcEnc 0) Fld.mcEncCprb 4096 (moving (fun m => { m with encA := 4095, encB := 4095 })))
       (tpOf s 0).mot.encA < fld s (Reg.mcEnc 0) Fld.mcEncCpra ∧ (tpOf s 0).mot.encB < fld s (Reg.mcEnc 0) Fld.mcEncCprb) := by decide
theorem witness_pause_steps : (let s := movingToo (fun x => { x with yoyo := { x.yoyo with pause := 1, pE := 10 } }) (fun m => { m with st := .running, lpos := 12 })
    (tpOf s 0).yoyo.pause = 1 ∧ (tpOf s 0).mot.cur = none
      ∧ (tpOf s 0).yoyo.pE.toInt + ceilDiv (fieldB (reg s (Reg.vfyLag 0)) (16 * ((tpOf s 0).mot.wrap % 2)) 16 + 200) 200
        ≤ (tpOf s 0).mot.lpos.toInt) := by decide
theorem witness_spdref : (let s := setFld (Reg.rcMode 0) Fld.rcModeMode 2 (movingToo (fun x => { x with yoyo := { x.yoyo with on := true, sel := 1 } })
      (fun m => { m with st := .running }))
    (tpOf s 0).yoyo.on = true ∧ (tpOf s 0).yoyo.sel = 1 ∧ (tpOf s 0).yoyo.pause = 0 ∧ (tpOf s 0).mot.armed = none ∧ (tpOf s 0).mot.cur = none
      ∧ (tpOf s 0).wl.cur = none ∧ (tpOf s 0).yoyo.lastFrozen = none ∧ rcMode s 0 = 2
      ∧ 3200000000 < 11000 * (50000 + (List.replicate 7 50000).sum) ∧ 11000 * 30000 ≤ 400000000 ∧ 6000 ≤ 6000 ∧ 5999 < 6000) := by decide
theorem witness_maxpause_spdref : (let s := movingToo (fun x => { x with yoyo := { x.yoyo with pause := 4, ref := List.replicate 7 8000 } }) (fun m => m)
    (tpOf s 0).yoyo.pause = 4 ∧ (tpOf s 0).yoyo.sel ≠ 1 ∧ rcMode s 0 ≠ 2 ∧ (tpOf s 0).yoyo.ref.length = 7
      ∧ 11000 * (8000 + (tpOf s 0).yoyo.ref.sum) ≤ 3200000000) := by decide
theorem witness_supervision : (let s := moving (fun m => { m with st := .running, overT := 10 })
    (tpOf s 0).mot.st ≠ .stopping ∧ (tpOf s 0).mot.st ≠ .faulted ∧ causeHolds s 0 6 0 = true
      ∧ (tpOf s 0).reinstall = false ∧ (seqOf s 0).startPend = none) := by decide
theorem witness_tension : (∀ st ∈ [MotState.released, .tensioned, .faulted],
      (tpOf (moving (fun m => { m with st := st })) 0).mot.st = st ∧ (tpOf (moving (fun m => { m with st := st })) 0).mot.still = true)
    ∧ (tpOf (moving (fun m => { m with st := .tensioned, still := false })) 0).mot.still = false
    ∧ (getLoop (modLoop 0 (fun p => { p with frame := 1 }) State.reset) 0).frame ≠ 0 ∧ State.reset.hif.ps ≠ 3
    ∧ ({ State.reset with hif := { State.reset.hif with ps := 3 } } : State).hif.ps = 3 := by decide
theorem witness_overrun : (let s := modLoop 0 (fun p => { p with ready := true, consec := 1 }) State.reset
    evalOpen s 0 = true ∧ (getLoop s 0).consec + 1 < 3) := by decide
theorem witness_loop_thirds : (let s := modLoop 0 (fun p => { p with ready := true, consec := 2 }) (moving (fun m => { m with st := .running }))
    evalOpen s 0 = true ∧ 3 ≤ (getLoop s 0).consec + 1 ∧ (tpOf s (loopT 0)).mot.st ≠ .faulted)
    ∧ (let s := setFld Reg.mcInjdur Fld.mcInjdurDur 5 (setFld Reg.mcInj Fld.mcInjWave 1 State.reset)
       fld s Reg.mcInj Fld.mcInjWave = 1 ∧ fld s Reg.mcInjdur Fld.mcInjdurDur ≠ 0)
    ∧ (let s := setFld Reg.mcInj Fld.mcInjWave 3 { State.reset with mrn := { State.reset.mrn with inj := { Inj.reset with active := true, bits := 32767 } } }
       s.mrn.inj.active = true ∧ fld s Reg.mcInj Fld.mcInjWave = 3 ∧ 32767 ≤ s.mrn.inj.bits)
    ∧ fld State.reset Reg.mcInj Fld.mcInjWave = 0 ∧ srcMay .puppeteer [injLoop State.reset / 4] State.reset = true
    ∧ ({ State.reset with mrn := { State.reset.mrn with tune := some ⟨2, 0, 1⟩ } } : State).mrn.tune = some ⟨2, 0, 1⟩
    ∧ romHeld .puppeteer State.reset = false := by decide
theorem witness_loop_services : fld (setFld (Reg.mcRc 0 1) Fld.mcRcClr 1 State.reset) (Reg.mcRc 0 1) Fld.mcRcClr = 1
    ∧ (let s := setFld Reg.mcInj Fld.mcInjWave 2 { State.reset with mrn := { State.reset.mrn with inj := { Inj.reset with active := true } } }
       s.mrn.inj.active = true ∧ fld s Reg.mcInj Fld.mcInjWave = 2)
    ∧ (let s := modLoop 2 (fun p => { p with hasProg := true }) (moving (fun m => { m with st := .running }))
       (tpOf s (loopT 2)).mot.st = .running ∧ (tpOf s (loopT 2)).mot.accel = 0 ∧ (tpOf s (loopT 2)).wl.wen = false
        ∧ (getLoop s 2).hasProg = true ∧ (getLoop s 2).mode ≠ .fault ∧ s.mrn.tune = none) := by decide
theorem witness_pause_start : (let s := setFld (Reg.yyPause 0) Fld.yyPauseStopt 1 (setFld (Reg.yyPause 0) Fld.yyPauseStop 1 (movingToo
      (fun x => { x with yoyo := { x.yoyo with on := true, stopT := 10, out := 10 * fld State.reset (Reg.yyLim 0) Fld.yyLimVmin } })
      (fun m => { m with st := .running })))
    fld s (Reg.yyPause 0) Fld.yyPauseStopt ≠ 0 ∧ fld s (Reg.yyPause 0) Fld.yyPauseStopt * 10 ≤ (tpOf s 0).yoyo.stopT
      ∧ pauseFits s 0 = true ∧ (tpOf s 0).mot.cur = none ∧ rcMode s 0 ≠ 2) := by decide

theorem witness_read_pause : (let s := setFld (Reg.rcMode 0) Fld.rcModeMode 2 (setFld (Reg.yyLaw 0) Fld.yyLawHigh 0 (setFld (Reg.yyPause 0) Fld.yyPauseStopt 1
      (movingToo (fun x => { x with yoyo := { x.yoyo with on := true, stopT := 10, out := 10 * fld State.reset (Reg.yyLim 0) Fld.yyLimVmin } })
        (fun m => { m with st := .running }))))
    fld s (Reg.yyPause 0) Fld.yyPauseStopt ≠ 0 ∧ fld s (Reg.yyPause 0) Fld.yyPauseStopt * 10 ≤ (tpOf s 0).yoyo.stopT ∧ pauseFits s 0 = true
      ∧ (tpOf s 0).mot.cur = none ∧ rcMode s 0 = 2) := by decide

/-! ### Codec -/

/-- Stream 1, open on queue 0 for transport 0. -/
def stream (read : Bool) (f : Stream → Stream) (s : State) : State :=
  { s with hif := { s.hif with streams := s.hif.streams.set none 1 (some (f { Stream.reset with read := read })) } }

/-- Engine e at work on a job. -/
def busy (e : Nat) (j : Job) (s : State) : State := modEng e (fun x => { x with job := some j }) s

/-- A job of stream 1 for slice 0. -/
def job1 : Job := { Job.reset with scid := 1, t := some 0, limit := 100 }

theorem witness_jobs_idle :
    let s : State := { State.reset with codec := { State.reset.codec with retired := State.reset.codec.retired.set 0 63 1 } }
    s.codec.retired.get 0 63 = 1 ∧ (engOf (busy 0 job1 State.reset) 0).job.isSome = true := by decide

/-- Slice 0 has a dataset of KIND 0 open, and stream 1 a record of 10 bytes, all there. -/
def offering : State :=
  stream false (fun x => { x with recs := [{ Rec.reset with len := 10, got := 10 }] })
    (modTp 0 (fun x => { x with asm := { x.asm with items := [] } }) (assembling 0 Item.reset))
theorem witness_jobs_offered :
    engFree offering 0 = true ∧ nextJob offering true 0 = some (.write 1, 10) ∧ (.offload : JobReq) ≠ .write 1
      ∧ engineFor offering 1 0 = true ∧ (streamOf offering 1).isSome = true
      ∧ ((drrPick offering true drrTurns offering.codec.turn offering.codec.credit).map (fun r => r.1)) = some 0 := by decide
theorem test_job_dispatched : goesTo (exec (.compJobDispatch (.write 1) 0) offering)
    (fun u => decide (((engOf u 0).job.map (fun j => j.inLen)) = some 10)) = true := by
  unfold exec; decide
theorem witness_jobs_elsewhere :
    let on (s : State) (a r : Nat) : State := { s with codec := { s.codec with
      avoid := s.codec.avoid.set 0 1 a, ranOn := s.codec.ranOn.set 0 1 r } }
    jobScid (on offering 1 0) true (.write 1) = some 1 ∧ (on offering 1 0).codec.avoid.get 0 1 = 0 + 1
      ∧ jobScid (on offering 0 3) true (.write 1) = some 1 ∧ (on offering 0 3).codec.ranOn.get 0 1 = 2 + 1
      ∧ (on offering 0 3).codec.avoid.get 0 1 ≠ 2 + 1 ∧ engFree (on offering 0 3) 2 = true := by decide
/-- Slice 0 holds buffer 0, and a COMP.EXPAND of n bytes of it into it waits for an engine. -/
def expanding (n : Nat) : State :=
  let s := headAt 0 { slot (desc 0 2 1 (tok0 ++ tok0) (BitVec.ofNat 64 n) 0) with started := true } (stream true id (held State.reset))
  { s with codec := { s.codec with expands := [(0, 5)] } }
theorem witness_jobs_expand : ∀ n ∈ [0, 16],
    (nextExpand (expanding n) 0).map (fun e => (e.1, fieldB e.2 128 32, expScid e.2)) = some (5, n, 1)
      ∧ engFree (expanding n) 32 = true ∧ engineFor (expanding n) 1 32 = true ∧ nextJob (expanding n) false 0 = some (.expand 0, n)
      ∧ ((drrPick (expanding n) false drrTurns 0 (expanding n).codec.credit).map (fun r => r.1)) = some 0 := by decide
/-- The ring of 16 entries at host address 4096 holds one with OP 1, WINLOG w, CODE 1 and DSTLEN 64. -/
def ringing (w : Byte) : State :=
  let s := setFld Reg.codecOqcfg Fld.codecOqcfgEn 1 (setFld Reg.codecOqcfg Fld.codecOqcfgSize 4 (setReg (Reg.codecOqbase 0) 4096 State.reset))
  { s with codec := { s.codec with offTail := 1 }, hostMem := s.hostMem.write 0 4096 ([1, 0, w, 1] ++ zeros 20 ++ [64]) }
theorem witness_jobs_offload : ∀ w ∈ [(0 : Byte), 15],
    nextOffload (ringing w) true = some (0, true) ∧ engineFor (ringing w) (offCtx 0) 0 = true ∧ engFree (ringing w) 0 = true
      ∧ offValid (ringing w) 0 = (w == 15)
      ∧ ((drrPick (ringing w) true drrTurns 0 (ringing w).codec.credit).map (fun r => r.1)) = some 8 := by decide
/-- A job on that stream's record, its context coding stored blocks with WINLOG w. -/
def writing (w : BitVec 8) : State := busy 0 { job1 with inLen := 10 } (modCtx 1 (fun c => { c with winlog := w, codeSel := 1 }) offering)
theorem witness_compression_stops :
    (engOf State.reset 0).job = none ∧ (engOf (writing 15) 0).job = some { job1 with inLen := 10 } ∧ job1.entry = none ∧ job1.t = some 0
      ∧ (streamOf (writing 15) 1).isSome = true ∧ ctxValid (ctxOf (writing 15) 1) = true ∧ ctxValid (ctxOf (writing 14) 1) = false
      ∧ ((streamOf (writing 15) 1).bind (fun x =>
        piecesDone 0 { job1 with inLen := 10 } (engOf (writing 15) 0).reach (jobPieces (uncoded x) 10) [] 100 ⟨0, 0, 0, 0, 0, false⟩
          (writing 15))).isSome = true := by decide
/-- An offload job of two bytes, its context coding stored blocks. -/
def offJob (limit : Nat) (fin : Bool) : Job := { Job.reset with scid := 40960, entry := some 0, limit := limit, inLen := 2, fin := fin }
theorem witness_offload_stops :
    let s := modCtx 40960 (fun c => { c with winlog := 15, codeSel := 1 }) (ringing 15)
    let c := ctxOf s 40960
    let o (limit : Nat) (fin : Bool) := codePiece c limit (if fin then .final else .inside) false ⟨[], [], [], [], []⟩ [7, 8]
    ctxValid c = true ∧ codingFits c false 0 [] [(7, false), (8, false)] ⟨[], [], [], [], []⟩ = true
      ∧ (engOf (busy 0 (offJob 100 true) s) 0).job = some (offJob 100 true) ∧ (offJob 100 true).entry = some 0
      ∧ (o 100 true).space = false ∧ (o 100 false).space = false ∧ (o 2 true).space = true := by decide
theorem witness_block_choice : (5 ≤ 5 ∧ (5 : Nat) ≤ 5) ∧ (¬((6 : Nat) ≤ 5 ∧ 6 ≤ 5) ∧ (5 : Nat) ≤ 5) ∧ (5 : Nat) < 6 := by decide

/-- An expand job of 8 bytes of buffer 0. -/
def expJob : Job := { job1 with expand := some 5, inTok := tok0, inLen := 8 }
/-- It on engine 32, its context inside a record or not. -/
def expOn (inrec : Bool) : State := modCtx 1 (fun c => { c with inrec := inrec, dir := true }) (busy 32 expJob (held State.reset))
/-- What its header gives. -/
def expHead (s : State) : Option (BitVec 8) := (expandHeader expJob (demandRead (tokAddr s expJob.inTok) expJob.inLen s).2).1
/-- An offload job of a decompression engine. -/
def offExp : Job := { offJob 100 false with limit := 8 }
theorem witness_expansion_stops :
    (engOf State.reset 32).job = none ∧ (engOf (expOn true) 32).job = some expJob ∧ expJob.entry = none ∧ expJob.t = some 0
      ∧ expJob.expand = some 5 ∧ (engOf (busy 33 offExp (ringing 15)) 33).job = some offExp ∧ offExp.entry = some 0
      ∧ discardsRecord 0x10 = true ∧ discardsRecord 0x14 = false := by decide
theorem witness_expand_decodes : expHead (modEng 32 (fun x => { x with job := none }) (expOn true)) = none := by decide +kernel
theorem witness_expand_header : expHead (modEng 32 (fun x => { x with job := none }) (expOn false)) = some 0x10 := by decide +kernel
/-- A record of 4 zero bytes coded in 8 bits. -/
def endingCtx : Ctx := { Ctx.reset with dOlen := 4 }
/-- Its end, with a trailer whose CRC is off by k. -/
def ending (k : W32) : DecRun := ⟨{ Dec.reset with bits := 8, out := 4, trl := recTrailer 1 (0x48674BC7 + k) }, [], zeros 4, 4⟩
set_option maxRecDepth 20000 in
theorem witness_expand_trailer : leAt (ending 0).d.trl 12 4 = (crc32c ((ending 0).d.trl.take 12)).toNat := by decide
set_option maxRecDepth 20000 in
theorem witness_expand_trailer_bad : leAt (ending 1).d.trl 12 4 = (crc32c ((ending 1).d.trl.take 12)).toNat := by decide
set_option maxRecDepth 20000 in
theorem test_crc_zeros : crcMore 0 (zeros 4) = 0x48674BC7 := by decide
theorem witness_expand_counts : (ending 0).d.out = endingCtx.dOlen.toNat ∧ ceilDiv (ending 0).d.bits 8 = leAt (ending 0).d.trl 0 8
    ∧ leAt (ending 0).d.trl 8 4 = 0x48674BC7 ∧ leAt (ending 1).d.trl 8 4 = 0x48674BC8
    ∧ (ending 0).bits = [] ∧ (ending 0).d.out ≠ Ctx.reset.dOlen.toNat ∧ (ending 0).out.reverse = zeros 4 := by decide
theorem witness_expand_bytes : let e : DecEnv := ⟨false, 15, 1032, 5, true, []⟩
    ({ e with room := 4 } : DecEnv).room ≤ (ending 0).n ∧ (ending 0).n < e.room
      ∧ ({ e with guard := 4 } : DecEnv).guard * ceilDiv (ending 0).d.bits 8 < (ending 0).d.out + 1
      ∧ (ending 0).d.out + 1 ≤ e.guard * ceilDiv (ending 0).d.bits 8 := by decide
theorem witness_engines_hold : (engOf (busy 0 job1 State.reset) 0).job = some job1 ∧ job1.t = some 0
    ∧ ({ State.reset with codec := { State.reset.codec with retired := State.reset.codec.retired.set 0 0 1 } } : State).codec.retired.get 0 0 = 1
    ∧ romHeld (.host 0) State.reset = false ∧ expJob.expand = some 5 := by decide
/-- A drain of slice 0 that has reached its points. -/
def drained : Drain := { Drain.reset with t := 0, ticket := some 5, bytes := 7 }
theorem witness_drain :
    (let y := slot (desc 0 1 0xFFFFFFFF 0 0 0)
     HeadIs 0 0 1 y (headAt 0 y State.reset) ∧ descArg y.desc = 0xFFFFFFFF ∧ descFits y.desc 0xFFFFFFFF 0 0 0 = true)
    ∧ [drained].find? (fun d => d.t == 0 && d.ticket.isSome && d.scids.isEmpty) = some drained ∧ drained.ticket = some 5
    ∧ (∀ d ∈ [{ drained with scids := [(1, 0, 3)] }], d.t = 0 → d.ticket.isSome = true → d.scids ≠ []) := by
  unfold HeadIs; decide
theorem witness_expand :
    (let y := slot (desc 0 2 1 0 0 0)
     HeadIs 0 0 2 y (headAt 0 y State.reset) ∧ streamOf (headAt 0 y State.reset) (descArg y.desc) = none)
    ∧ (let y := slot (desc 0 2 1 (tok0 ++ tok0).toNat 16 0)
       let s := headAt 0 y (stream true (fun x => x) (held State.reset))
       HeadIs 0 0 2 y s ∧ descFits y.desc 0xFFFFFFFF (~~~0) (~~~0) 0 = true
        ∧ (streamOf s (descArg y.desc)).map (fun x => (x.read, x.t)) = some (true, 0) ∧ descArg y.desc < 40960
        ∧ fieldB y.desc 128 32 ≠ 0 ∧ tokenHeld s 4 (y.desc.extractLsb' 64 32) = true
        ∧ tokenHeld s 4 (y.desc.extractLsb' 96 32) = true
        ∧ fieldB y.desc 128 32 ≤ tokSize s (y.desc.extractLsb' 64 32)) := by
  unfold HeadIs; decide
theorem witness_codec_engines :
    (engOf State.reset 0).job = none ∧ (engOf (busy 0 job1 State.reset) 0).job.isSome = true ∧ State.reset.codec.retired.get 0 0 = 0
      ∧ fld (setFld Reg.czHidle Fld.czHidleMs 0 State.reset) Reg.czHidle Fld.czHidleMs = 0
      ∧ (let s := setFld Reg.czHidle Fld.czHidleMs 3 (modCtx 1 (fun c => { c with hvalid := true }) State.reset)
         fld s Reg.czHidle Fld.czHidleMs ≠ 0 ∧ (ctxOf s 1).hvalid = true ∧ (ctxOf s 1).dir = false ∧ ctxRunning s 1 = false) := by decide
theorem witness_offload_ring :
    let w := hostWakes .puppeteer State.reset
    let ahead (n : Nat) := (n + 65536 - fld w Reg.codecOqhead Fld.codecOqheadHead) % 65536
    ahead (offSize w) ≤ offSize w ∧ offSize w < ahead (offSize w + 1) ∧ fld w Reg.codecOqcfg Fld.codecOqcfgEn = 0
      ∧ fld (setFld Reg.codecOqcfg Fld.codecOqcfgEn 1 State.reset) Reg.codecOqcfg Fld.codecOqcfgEn = 1 := by decide
/-- Command-specific fields: values at their byte offsets. -/
def fields (l : List (Nat × Nat)) : BitVec 320 :=
  BitVec.ofNat 320 ((l.map (fun x => x.2 * 256 ^ (x.1 - 0x18))).foldl (· + ·) 0)
/-- A command of stream 1, outstanding on queue 0 with tag 7. -/
def onOne (opc : BitVec 8) (cs : BitVec 320) : Cmd :=
  { Cmd.reset with e := { Cmd.reset.e with opc := opc, tag := 7, scid := 1, cs := cs } }
/-- The state with that command outstanding. -/
def outstanding (c : Cmd) (s : State) : State := { s with hif := { s.hif with cmds := s.hif.cmds ++ [c] } }
theorem witness_replace :
    let c := onOne 0x12 (fields [(0x18, 1), (0x1C, 3)])
    let x : Stream := { Stream.reset with next := 5, unsealed := 2, recs := [{ Rec.reset with seq := 3 }, { Rec.reset with seq := 4 }] }
    let s := outstanding c (stream false (fun _ => x) State.reset)
    let q : W32 := BitVec.ofNat 32 (csField c.e 0x1C 4)
    streamOf s 1 = some x ∧ streamOf State.reset 1 = none ∧ (cmdsOf s 1).find? (fun c => !c.active) = some c ∧ csBit0 c.e = true
      ∧ hasTurn s x c = true ∧ ctxRunning s 1 = false ∧ ctxRunning (busy 0 job1 s) 1 = true ∧ q.toNat ≤ x.next.toNat
      ∧ x.unsealed.toNat ≤ q.toNat ∧ (∀ r ∈ x.recs, r.sealed = true → r.seq.toNat < q.toNat) ∧ (newRecs s c q).isSome = true := by decide
theorem witness_replace_sealed :
    let x : Stream := { Stream.reset with next := 5, unsealed := 4, recs := [{ Rec.reset with seq := 4 }] }
    ((3 : W32).toNat < x.unsealed.toNat) ∧ (3 : W32).toNat ≤ x.next.toNat := by decide

/-! ### Host commands -/

/-- Queue 0 is enabled and negotiated, and one entry waits in it. -/
def ready : State :=
  let s := { State.reset with boot := 9 }
  setFld (Reg.hifQcfg 0) Fld.hifQcfgEn 1 (setFld (Reg.hifQcfg 0) Fld.hifQcfgSqsize 4 (setFld (Reg.hifQcfg 0) Fld.hifQcfgCqsize 4
    (modQueue 0 (fun q => { q with tail := 1, neg := true, ver := 2 }) s)))
/-- A submission entry with tag 7. -/
def entry (opc : BitVec 8) (scid : BitVec 16) (l : List (Nat × Nat)) : Entry :=
  { opc := opc, flags := 0, tag := 7, scid := scid, rsv := 0, dptr := 0x1000, dlen := 4096, count := 1, cs := fields l }
/-- Queue 0 fetches that entry. -/
def accepts (opc : BitVec 8) (l : List (Nat × Nat)) (s : State) : Prop := Accepted 0 (entry opc 0xFFFF l) s ∧ entrySgl (entry opc 0xFFFF l) = false
/-- Another command of queue 0, with tag 9. -/
def other (opc : BitVec 8) (cs : List (Nat × Nat)) (f : Cmd → Cmd) : Cmd :=
  f { Cmd.reset with e := { entry opc 1 cs with tag := 9 } }

theorem test_negotiate : goesTo (exec (.negotiate 0 (entry 0 0xFFFF [(0x18, 0x100), (0x1A, 0x200)])) ready)
    (fun u => decide ((queueOf u 0).ver = 2 ∧ (queueOf u 0).ready = [⟨7, 0, 0x200, true⟩])) = true := by unfold exec; decide
theorem witness_fetch_none : canFetch State.reset 0 = false := by decide
theorem witness_fetch_checks :
    canFetch ready 0 = true ∧ (∀ n ∈ [0, 1, 2, 3, 4, 5, 8, 9, 10, 11, 16, 17, 18, 19, 20, 21, 22],
      (hostRow n 0 (entry (BitVec.ofNat 8 n) 0xFFFF [])).isSome = true ∧ (entry (BitVec.ofNat 8 n) 0xFFFF []).opc.toNat = n)
    ∧ knownOpc 6 = false ∧ tagInUse (headTaken 0 (entry 9 0xFFFF []) ready) 7 = false
    ∧ tagInUse (headTaken 0 (entry 9 0xFFFF []) (outstanding (onOne 0x14 0) ready)) 7 = true
    ∧ (queueOf (headTaken 0 (entry 9 0xFFFF []) (modQueue 0 (fun q => { q with neg := false }) ready)) 0).neg = false
    ∧ fieldError (entry 9 0xFFFF [(0x18, 8)]) = some 0x18 := by decide
theorem witness_stream_checks : Accepted 0 (entry 0x14 1 []) ready ∧ streamOf (fetched 0 (entry 0x14 1 []) ready) 1 = none
    ∧ (let s := stream false (fun x => { x with queue := 3 }) ready
       Accepted 0 (entry 0x14 1 []) s ∧ (streamOf (fetched 0 (entry 0x14 1 []) s) 1).map (fun x => x.queue) = some 3) := by
  unfold Accepted; decide
theorem witness_command_ends : cmdOf (outstanding (onOne 0x14 0) ready) 7 = some (onOne 0x14 0) := by decide
theorem witness_negotiate :
    (∀ x ∈ [(0x100, 0x200), (0x101, 0x1FF), (0x100, 0x100), (0x201, 0xFFFF), (0, 0xFF)], accepts 0 [(0x18, x.1), (0x1A, x.2)] ready)
    ∧ (let e := entry 0 0xFFFF [(0x18, 0x200), (0x1A, 0x200)]
       let u := fetched 0 e ready
       csField e 0x18 2 = 0x200 ∧ csField e 0x1A 2 = 0x200 ∧ (∀ c ∈ u.hif.cmds, c.queue = 0 → c.e.tag = e.tag)
        ∧ (∀ r ∈ (queueOf u 0).ready, r.own = false))
    ∧ (∃ c ∈ (fetched 0 (entry 0 0xFFFF []) (outstanding (other 0x14 [] id) ready)).hif.cmds, c.queue = 0 ∧ c.e.tag ≠ 7) := by
  unfold accepts Accepted; decide
theorem witness_identify_logs : accepts 1 [] ready ∧ accepts 2 [(0x18, 7), (0x1C, 4)] ready
    ∧ (logPage (fetched 0 (entry 2 0xFFFF [(0x18, 7), (0x1C, 4)]) ready) 7).isSome = true := by
  unfold accepts Accepted; decide
theorem witness_set_feature :
    (∀ x ∈ [(2, 0, 9), (3, 1, 1), (4, 5, 9), (5, 0, 0x8003), (6, 0, 9), (7, 0, 0)],
      accepts 3 [(0x18, x.1), (0x1C, x.2.1), (0x20, x.2.2)] (stream false (fun x => x) ready))
    ∧ (let u := fetched 0 (entry 3 0xFFFF [(0x18, 3), (0x1C, 1), (0x20, 1)]) (stream false (fun x => x) ready)
       (streamOf u 1).map (fun x => (x.read, x.queue)) = some (false, 0) ∧ (queueOf u 0).ver ≠ 0 ∧ queueOwner u 5 = queueOwner u 0) := by
  unfold accepts Accepted; decide
theorem witness_abort :
    (∀ c ∈ [other 0x14 [] id, other 0x14 [] (fun c => { c with active := true }), other 0x08 [] (fun c => { c with active := true })],
      accepts 4 [(0x18, 9), (0x1A, 0)] (outstanding c ready)
        ∧ cmdOf (fetched 0 (entry 4 0xFFFF [(0x18, 9), (0x1A, 0)]) (outstanding c ready)) 9 = some c)
    ∧ accepts 4 [(0x18, 9), (0x1A, 0)] ready ∧ cmdOf (fetched 0 (entry 4 0xFFFF [(0x18, 9)]) ready) 9 = none
    ∧ tagEnded ready 0 9 = false ∧ tagEnded (modQueue 0 (fun q => { q with tags := [some 9] }) ready) 0 9 = true := by
  unfold accepts Accepted; decide
theorem witness_self_test :
    let x : STest := { STest.reset with typ := 1, seg := 4, queue := some 0, tag := 9 }
    let on (x : STest) : State := { ready with hif := { ready.hif with test := some x } }
    accepts 5 [(0x18, 2), (0x19, 0xFF)] ready ∧ accepts 5 [(0x18, 2)] (on x)
      ∧ (fetched 0 (entry 5 0xFFFF [(0x18, 2)]) ready).hif.test = none ∧ (fetched 0 (entry 5 0xFFFF [(0x18, 2)]) (on x)).hif.test.isSome = true
      ∧ x.susp = false ∧ x.seg < (if x.typ = 2 then 7 else 5) ∧ x.queue.isSome = true ∧ ({ x with susp := true } : STest).susp = true := by
  unfold accepts Accepted; decide

/-- Transport 0 with a cartridge in it and a head module of kind k. -/
def withCart (evf2 : Bool) (k : Nat) (loaded : Bool) (s : State) : State :=
  modTp 0 (fun x => { x with loaded := loaded, cart := some { Cart.reset with evf2 := evf2, calRegion := true }, head := { x.head with kind := k } }) s
theorem witness_load : ∀ x ∈ [(true, 1, false), (false, 2, false), (false, 1, true), (true, 2, false)],
    accepts 8 [(0x18, 0)] (withCart x.1 x.2.1 x.2.2 ready)
      ∧ mediaBusy (fetched 0 (entry 8 0xFFFF [(0x18, 0)]) (withCart x.1 x.2.1 x.2.2 ready)) 0 = false
      ∧ (tpOf (fetched 0 (entry 8 0xFFFF [(0x18, 0)]) (withCart x.1 x.2.1 x.2.2 ready)) 0).loaded = x.2.2 := by
  unfold accepts Accepted; decide
theorem witness_load_empty : accepts 8 [(0x18, 0)] ready ∧ (tpOf (fetched 0 (entry 8 0xFFFF [(0x18, 0)]) ready) 0).cart = none
    ∧ (tpOf (fetched 0 (entry 8 0xFFFF [(0x18, 0)]) ready) 0).loaded = false := by
  unfold accepts Accepted; decide
theorem witness_calibration :
    let s := setFld (Reg.rcMode 0) Fld.rcModeMode 3 (outstanding (other 8 [(0x18, 0)] (fun c => { c with active := true })) ready)
    mediaBusy State.reset 0 = false ∧ mediaBusy s 0 = true ∧ rcMode s 0 = 3 ∧ fld s (Reg.rcCal 0) Fld.rcCalPass = (0 : Fin 4).val
      ∧ fld s (Reg.rcCal 0) Fld.rcCalDir = false.toNat ∧ passOver s 0 false = false
      ∧ (let u := modTp 0 (fun x => { x with mot := { x.mot with lpos := 2047, cur := some (cmd 5 2) } }) s; passOver u 0 false = true)
      ∧ (let u := modTp 0 (fun x => { x with mot := { x.mot with cur := some (cmd 5 2) } }) s; passOver u 0 true = true) := by decide
theorem witness_media :
    (∀ s ∈ [withCart false 2 true ready, stream false id (withCart false 2 true ready)],
      accepts 9 [(0x18, 0)] s ∧ accepts 10 [(0x18, 0), (0x1C, 0x464D5456)] s)
    ∧ (let u := fetched 0 (entry 9 0xFFFF [(0x18, 0)]) (stream false id (withCart false 2 true ready))
       hasStreams u 0 = true ∧ (tpOf u 0).loaded = true)
    ∧ (let u := fetched 0 (entry 9 0xFFFF [(0x18, 0)]) (withCart false 2 true ready)
       hasStreams u 0 = false ∧ mediaBusy u 0 = false ∧ (tpOf u 0).loaded = true ∧ (tpOf u 0).mot.st ≠ .faulted
        ∧ (tpOf u 0).mot.st ≠ .stopping)
    ∧ (let u := fetched 0 (entry 10 0xFFFF [(0x18, 0), (0x1C, 0x464D5456)])
         (setFld (Reg.vfyLag 0) Fld.vfyLagLagFwd 1000 (setFld (Reg.vfyLag 0) Fld.vfyLagLagRev 1000
          (seq0 (fun q => { q with fmtid := 1 }) (withCart false 2 true ready))))
       writeDisabled u 0 = false ∧ (tpOf u 0).seq.fmtid ≠ 0 ∧ hasStreams u 0 = false) := by
  unfold accepts Accepted; decide
theorem witness_load_program_targets :
    let s : State := { ready with hostMem := ready.hostMem.write 0 0x1006 [1] }
    accepts 11 [(0x18, 3)] s ∧ imgProfile (s.hostMem.read 0 (entry 11 0xFFFF []).dptr.toNat 64) = 1 ∧ csByte (entry 11 0xFFFF [(0x18, 3)]) 0x18 ≠ 0
      ∧ csByte (entry 11 0xFFFF [(0x18, 0)]) 0x18 = 0 := by
  unfold accepts Accepted; decide

/-- Transport 0 is loaded with a formatted volume and may write. -/
def formatted (s : State) : State :=
  setFld (Reg.vfyLag 0) Fld.vfyLagLagFwd 1000 (setFld (Reg.vfyLag 0) Fld.vfyLagLagRev 1000
    (modTp 0 (fun x => { x with loaded := true, formatted := true }) s))
/-- An OPEN_STREAM of stream 1. -/
def openE (read ledger : Nat) : Entry := entry 0x10 1 [(0x19, read), (0x1B, 15 * (1 - read)), (0x1E, ledger), (0x20, 6)]
theorem witness_open_refused :
    (∀ s ∈ [ready, stream true id ready, withCart false 2 true ready], Accepted 0 (openE 0 0) s ∧ entrySgl (openE 0 0) = false)
    ∧ (streamOf (fetched 0 (openE 0 0) (stream true id ready)) 1).isSome = true ∧ streamOf (fetched 0 (openE 0 0) ready) 1 = none
    ∧ (tpOf (fetched 0 (openE 0 0) ready) 0).loaded = false
    ∧ (let u := fetched 0 (openE 0 0) (withCart false 2 true ready)
       (tpOf u 0).loaded = true ∧ (tpOf u 0).formatted = false ∧ streamOf u 1 = none) := by
  unfold Accepted; decide
theorem witness_open_write :
    (∀ l ∈ [0, 1], Accepted 0 (openE 0 l) (formatted ready))
    ∧ (let u := fetched 0 (openE 0 1) (formatted ready)
       streamOf u 1 = none ∧ (tpOf u 0).loaded = true ∧ (tpOf u 0).formatted = true ∧ csByte (openE 0 1) 0x19 = 0
        ∧ openStreams u = [] ∧ writeDisabled u 0 = false ∧ csByte (openE 0 1) 0x1E = 1 ∧ (queueOf u 0).ver ≠ 0)
    ∧ (let u := fetched 0 (openE 0 1) (modQueue 0 (fun q => { q with ver := 0 }) (formatted ready))
       (queueOf u 0).ver = 0)
    ∧ writeDisabled (modTp 0 (fun x => { x with loaded := true, formatted := true, wrDis := 2 }) ready) 0 = true := by
  unfold Accepted; decide
theorem witness_open_read :
    (let u := fetched 0 (openE 1 0) (formatted ready)
     Accepted 0 (openE 1 0) (formatted ready) ∧ openStreams u = [] ∧ csByte (openE 1 0) 0x19 = 1
      ∧ (∀ o ∈ [0x1A, 0x1B, 0x1C, 0x1D], csByte (openE 1 0) o = 0))
    ∧ (let e := entry 0x10 2 [(0x19, 1), (0x1A, 1)]
       Accepted 0 e (formatted ready) ∧ csByte e 0x1A ≠ 0 ∧ entrySgl e = false) := by
  unfold Accepted; decide
theorem witness_stream_commands : ∀ n ∈ [0x11, 0x12, 0x13, 0x14, 0x15, 0x16],
    Accepted 0 (entry (BitVec.ofNat 8 n) 1 []) (stream false id ready)
      ∧ (streamOf (fetched 0 (entry (BitVec.ofNat 8 n) 1 []) (stream false id ready)) 1).map (fun x => x.queue) = some 0 := by
  unfold Accepted; decide

/-- Stream 1 open with a command of it outstanding. -/
def turning (read : Bool) (c : Cmd) (s : State) : State := outstanding c (stream read id s)
theorem witness_turns : ∀ read ∈ [true, false], ∀ opc ∈ [0x12, 0x13, 0x14, 0x15, 0x16],
    let c := onOne (BitVec.ofNat 8 opc) 0
    cmdOf (turning read c (formatted ready)) c.e.tag = some c ∧ c.active = false
      ∧ (streamOf (turning read c (formatted ready)) 1).map (fun x => (x.read, x.pos)) = some (read, none)
      ∧ hasTurn (turning read c (formatted ready)) { Stream.reset with read := read } c = true ∧ sglDenied (formatted ready) c = false := by decide
theorem witness_write_turn :
    let c := { onOne 0x12 0 with e := { (onOne 0x12 0).e with count := 1, dptr := 0x1000 } }
    let s := turning false c (formatted ready)
    (newRecs s c 0).isSome = true ∧ writeDisabled s 0 = false ∧ csBit0 c.e = false ∧ sglDenied s c = false
      ∧ locateGoalRec s 0 (onOne 0x16 0).e = none
      ∧ writeDisabled (modTp 0 (fun x => { x with wrDis := 2 }) s) (tid 0) = true := by decide
/-- A record with SEQ 3. -/
def rec3 (f : Rec → Rec) : Rec := f { Rec.reset with seq := 3, cmd := 7 }
theorem witness_stream_ends :
    let at' (opc : BitVec 8) (r : Rec) : State :=
      outstanding { onOne opc 0 with active := true, seqAt := 4, wt := true } (stream false (fun x => { x with recs := [r] }) ready)
    let c (opc : BitVec 8) : Cmd := { onOne opc 0 with active := true, seqAt := 4, wt := true }
    (∀ opc ∈ ([0x12, 0x14, 0x15] : List (BitVec 8)), cmdOf (at' opc (rec3 id)) 7 = some (c opc)
      ∧ earlierOf (at' opc (rec3 id)) (c opc) = [] ∧ csBit0 (c opc).e = false ∧ (c opc).wt = true)
    ∧ (rec3 (fun r => { r with sealed := true })).sealed = true ∧ (rec3 id).seq.toNat < (c 0x14).seqAt.toNat
    ∧ (rec3 id).sealed = false ∧ (rec3 id).unver = false ∧ (rec3 id).verified = false
    ∧ cmdRecs { Stream.reset with recs := [rec3 id] } (c 0x12) = [rec3 id] := by decide
theorem witness_ledger :
    let c := { onOne 0x12 0 with active := true, ready := some 1 }
    let s := outstanding c (stream false (fun x => { x with recs := [rec3 (fun r => { r with charge := 10 })] }) ready)
    let x : Stream := { Stream.reset with recs := [rec3 (fun r => { r with charge := 10 })] }
    s.hif.cmds.filter (fun c => c.ready.isSome && !c.wt && (match streamOf s c.e.scid.toNat with
      | some x => x.t == (0 : Tid).val
      | none => false)) = [c]
      ∧ streamOf s 1 = some x ∧ budget s 0 < ((cmdRecs x c).map (fun r => r.charge)).foldl (· + ·) 0
      ∧ ((cmdRecs x c).map (fun r => r.charge)).foldl (· + ·) 0
        ≤ budget { s with pwr := { s.pwr with grant := s.pwr.grant.set 0 0 100 } } 0 := by decide
theorem witness_completion_post :
    let s := modQueue 0 (fun q => { q with ready := [⟨7, 0, 0, true⟩] }) ready
    (queueOf s 0).ready = ⟨7, 0, 0, true⟩ :: [] ∧ cqRoom s 0 = true ∧ (queueOf ready 0).ready = []
      ∧ cqRoom (modQueue 0 (fun q => { q with cqUsed := 16 }) s) 0 = false := by decide
theorem test_completion_post :
    goesTo (exec (.completionPost 0) (modQueue 0 (fun q => { q with ready := [⟨7, 0x25, 0, true⟩] }) ready))
      (fun u => (queueOf u 0).ready.isEmpty && u.hostMem.get 0 6 == 0x25 && u.hostMem.get 0 0 == 7) = true := by unfold exec; decide
theorem witness_notices :
    let s := setFld (Reg.hifQcfg 0) Fld.hifQcfgIen 1 (modQueue 0 (fun q => { q with timing := true }) ready)
    let u := setFld Reg.hifNotice Fld.hifNoticeEn 1 { ready with hif := { ready.hif with notices := [4] } }
    (queueOf s 0).timing = true ∧ fld s (Reg.hifQcfg 0) Fld.hifQcfgIen = 1 ∧ (queueOf ready 0).timing = false
      ∧ u.hif.notices = 4 :: [] ∧ fld u Reg.hifNotice Fld.hifNoticeQueue = 0 ∧ fld u Reg.hifNotice Fld.hifNoticeEn = 1
      ∧ queueEn u 0 = true ∧ cqRoom u 0 = true ∧ u.hif.ps = 0
      ∧ cqRoom (modQueue 0 (fun q => { q with cqUsed := 16 }) u) 0 = false := by decide
theorem witness_doorbells :
    let w := wakeUp ready
    queueReach w (.host 1) 0 = false ∧ queueReach w .puppeteer 0 = true ∧ queueEn w 0 = true ∧ queueEn w 1 = false
      ∧ sqEntries w 0 ≤ (16 : BitVec 16).toNat ∧ (15 : BitVec 16).toNat < sqEntries w 0
      ∧ headSteps w 0 0 = some 0 ∧ headSteps w 0 1 = none
      ∧ headSteps (modQueue 0 (fun q => { q with cqUsed := 1 }) w) 0 1 = some 1 := by decide
theorem witness_queue_control :
    let w := wakeUp State.reset
    let cfg : W32 := 0x80000084
    queueReach w .puppeteer 0 = true ∧ queueEn w 0 = false ∧ cfg.getLsbD 31 = true ∧ cfg.toNat % 32 = 4 ∧ cfg.toNat / 32 % 32 = 4
      ∧ pair w (Reg.hifSqbase 0 0) (Reg.hifSqbase 0 1) % 4096 = 0 ∧ pair w (Reg.hifCqbase 0 0) (Reg.hifCqbase 0 1) % 4096 = 0
      ∧ (0x80000085 : W32).toNat / 32 % 32 < (0x80000085 : W32).toNat % 32 := by decide
theorem witness_host_memory_errors : queueEn ready 0 = true ∧ cmdOf ready 7 = none
    ∧ cmdOf (outstanding (onOne 0x14 0) ready) 7 = some (onOne 0x14 0) ∧ cmdOf (outstanding (onOne 0x02 0) ready) 7 = some (onOne 0x02 0)
    ∧ (onOne 0x02 0).e.opc.toNat < 0x11 ∧ (onOne 0x02 0).queue = 0 := by decide
theorem witness_endpoints : endpointPresent State.reset 1 = false ∧ endpointPresent State.reset 2 = true
    ∧ State.reset.hif.cmds = [] ∧ openStreams State.reset = [] := by decide
/-- MBX_SUB holds opcode opc, the SCID 0xFFFF of R246 and b at byte 0x18. -/
def mailed (opc b : Nat) : State :=
  setReg (Reg.mbxSub 6) (BitVec.ofNat 32 b) (setReg (Reg.mbxSub 4) 4096 (setReg (Reg.mbxSub 1) 0xFFFF (setReg (Reg.mbxSub 0) (BitVec.ofNat 32 opc) State.reset)))
set_option maxRecDepth 20000 in
theorem witness_mailbox :
    ({ State.reset with hif := { State.reset.hif with mbxBusy := true } }).hif.mbxBusy = true
    ∧ (∀ x ∈ [(1, 0), (4, 0), (5, 1)], let w := wakeUp (mailed x.1 x.2)
      w.hif.mbxBusy = false ∧ w.hif.test = none ∧ (mailboxEntry w).opc.toNat = x.1 ∧ fieldError (mailboxEntry w) = none
        ∧ entrySgl (mailboxEntry w) = false ∧ (mailboxEntry w).dlen.toNat ≤ 4096)
    ∧ fieldError (mailboxEntry (wakeUp (mailed 5 3))) = some 0x18 := by decide
theorem witness_power_states :
    let on (n : Nat) : State := { State.reset with hif := { State.reset.hif with ps := n } }
    (on 0).hif.ps = 0 ∧ fld (setFld Reg.hifPscfg Fld.hifPscfgIdle1 0 (on 0)) Reg.hifPscfg Fld.hifPscfgIdle1 = 0
      ∧ fld (setFld Reg.hifPscfg Fld.hifPscfgIdle1 9 (on 0)) Reg.hifPscfg Fld.hifPscfgIdle1 ≠ 0 ∧ psFits (on 0) 1 = true
      ∧ fld (setFld Reg.hifPscfg2 Fld.hifPscfg2Idle2 9 (on 1)) Reg.hifPscfg2 Fld.hifPscfg2Idle2 ≠ 0 ∧ psFits (on 1) 2 = true
      ∧ (on 0).hif.entering = none ∧ (on 0).pwr.commit = none
      ∧ ({ State.reset with hif := { State.reset.hif with entering := some 2 } } : State).hif.entering = some 2 := by decide
theorem witness_record_data :
    let c := { onOne 0x12 0 with active := true }
    let r := rec3 (fun r => { r with len := 100, got := 10, bufs := [(tok0, 10)] })
    let s := outstanding c (stream false (fun x => { x with recs := [r] }) (held ready))
    (streamOf s 1).bind (fetching s) = some (r, c) ∧ streamOf ready 1 = none ∧ entrySgl c.e = false ∧ r.got % 2 ^ 20 ≠ 0
      ∧ 10 < tokSize s tok0
      ∧ (let r := rec3 (fun r => { r with len := 100 })
         let s := outstanding c (stream false (fun x => { x with recs := [r] }) (setBuf 0
          { BufRec.reset with st := .allocated, gen := 1, hold := (SMap.mk []).set 0 0 1 } (held ready)))
         let s : State := { s with tbx := { s.tbx with given := [(0, 0, 0, tok0)] } }
         (streamOf s 1).bind (fetching s) = some (r, c) ∧ r.got % 2 ^ 20 = 0
          ∧ s.tbx.given.find? (fun g => g.1 == 0 && g.2.1 == 0 && g.2.2.1 == 0x00 && tokenHeld s 0 g.2.2.2) = some (0, 0, 0, tok0))
      ∧ (streamOf (stream false id ready) 1).bind (fetching (stream false id ready)) = none := by decide

/-! ### A signed image -/

/-- A number in 48 bytes, the highest first. -/
def be48 (n : Nat) : List Byte := (List.range 48).map (fun i => BitVec.ofNat 8 (n / 256 ^ (47 - i)))
/-- An F image of FMTID 0x8001 with one word of code, signed with the key of slot 4. -/
def signedImg : List Byte :=
  leBytes 4 0x49564852 ++ leBytes 3 1 ++ [4] ++ leBytes 2 0x8001 ++ zeros 2 ++ leBytes 4 4 ++ zeros 240 ++ zeros 4 ++ [4]
    ++ be48 0xd8a17e55b8e2f47bc369fd9616695ce273dce4e307830a65f5a4a9aa8967c987aeea7ad365677a13bfd65c3fe5a66939
    ++ be48 0xbdc53542c5213a51345dba8220abb23c71659a4d850b3bbaff8d035bd08a59eb32099c96a9049e4d7d435cf675713bc8 ++ zeros 3
    ++ be48 0xc345f6efcf4004575285a73acb4bc4ce67b6a2ea453331f8198ac96be462e4d30cd400bba63bd50ea85cf6459f85ab0f
    ++ be48 0x51c2c7df95497367a3cf5635f4a3782ac312b116733b5a742fa02719f49320de8f95ef42594d14f8a5039f6f7d1a5a8e
/-- The fuses of slot 4 hold that key's digest, and the image lies in host memory. -/
def withImage (l : List Byte) (st : SeqState) : State :=
  seq0 (fun q => { q with st := st }) { ready with
    fuses := ({} : SMap (BitVec 384)).set 0 4 0x8fd13e735a6fc8139dd25f7e6ced99b37a1e555e0203f5ecc40e7d1660491ecb18a84c5218e7f8ceecefa3f83e9d5a37
    hostMem := ready.hostMem.write 0 0x1000 l }
abbrev fused (st : SeqState) : State := withImage signedImg st
theorem withImage_hostMem (l : List Byte) (st : SeqState) : (withImage l st).hostMem = ready.hostMem.write 0 0x1000 l := rfl
/-- LOAD_PROGRAM of that image for transport 0. -/
def loadE : Entry := { entry 11 0xFFFF [(0x18, 1)] with dlen := 456 }
theorem image_signed : imgSigGood signedImg = true := by decide +kernel
theorem image_length : signedImg.length = 456 := by decide +kernel
theorem image_read (st : SeqState) : (fused st).hostMem.read 0 loadE.dptr.toNat loadE.dlen.toNat = signedImg := by
  have h := SMap.read_write signedImg ready.hostMem 0 0x1000
  have hd : loadE.dptr.toNat = 0x1000 := by decide
  have hl : loadE.dlen.toNat = 456 := by decide
  rw [withImage_hostMem, hd, hl, ← image_length]
  exact h
theorem witness_image_accepted : ∀ st ∈ [SeqState.halted, .running], Accepted 0 loadE (fused st) ∧ entrySgl loadE = false := by
  unfold Accepted; decide
theorem witness_image_loads : imgError (fetched 0 loadE (fused .halted)) ((fused .halted).hostMem.read 0 loadE.dptr.toNat loadE.dlen.toNat) [0] = none := by
  rw [image_read]; unfold imgError; rw [image_signed]; decide +kernel
theorem witness_image_refused :
    imgError (fetched 0 loadE (fused .running)) ((fused .running).hostMem.read 0 loadE.dptr.toNat loadE.dlen.toNat) [0] = some (7, some 0) := by
  rw [image_read]; unfold imgError; rw [image_signed]; decide +kernel

/-! ### Lanes and the read channel -/

/-- A codeword of lane 0 that has begun its first attempt. -/
def cw0 : PendCw := { PendCw.reset with attempts := [⟨0, 160, true, 1⟩], eng := 0, dl := 1000 }
/-- Transport 0 in verify mode, with codewords waiting; lane 0 stands at slot 1, with a slot of soft values. -/
def verifying (l : List PendCw) : State :=
  setFld (Reg.rcSync 0) Fld.rcSyncFlymax 4 (setFld (Reg.rcMode 0) Fld.rcModeMode 1
    (modRc 0 (fun x => { x with pend := l }) (modLane 0 (fun x =>
      { x with framed := true, mode := 1, flyPos := some 160, slot := 1, soft := List.replicate 9504 0 }) trained)))
theorem witness_slot_arrival :
    isOffline State.reset (laneT 0) = true ∧ isOffline trained (laneT 0) = false
      ∧ bitOf (tpOf trained (laneT 0)).head.missing.toNat (laneK 0) = false ∧ (getLane trained 0).framed = false
      ∧ rcMode trained (laneT 0) ≠ 1 ∧ rcMode trained (laneT 0) ≠ 2 := by decide
/-- That state with no samples more taken in. -/
def fed : State := feedLane 0 [] (syncNote 0 (capLane 0 [] (verifying [])))
theorem witness_slot_framed :
    let v := capLane 0 [] (verifying [])
    (getLane v 0).framed = true ∧ (getLane v 0).mode = 1 ∧ (getLane v 0).overflow = false
      ∧ (tpOf (verifying []) (laneT 0)).rc.pend = [] ∧ isOffline (verifying []) (laneT 0) = false := by decide +kernel
theorem witness_slot_whole : (getLane fed 0).at' + 9504 ≤ (getLane fed 0).soft.length ∧ (getLane fed 0).slot ≠ 0 := by decide +kernel
theorem witness_slot_attempt :
    let y := getLane fed 0
    (attemptsOf (syncCandidates ((y.soft.drop y.at').take 9504) 160 (fld fed (Reg.rcSync (laneT 0)) Fld.rcSyncSyncThr))
      (if y.fly < fld fed (Reg.rcSync (laneT 0)) Fld.rcSyncFlymax then y.flyPos else none)).isEmpty = false := by decide +kernel
theorem witness_iteration :
    enginePick State.reset 0 = none ∧ enginePick (verifying [cw0]) 0 = some cw0 ∧ cw0.attempts = ⟨0, 160, true, 1⟩ :: []
      ∧ cw0.iters + 1 ≠ 12 ∧ ¬(cw0.iters + 1 = 3) ∧ ({ cw0 with iters := 11 } : PendCw).iters + 1 = 12
      ∧ (tpOf (verifying [cw0]) (laneT 0)).rc.pend.find? (fun q => q.lane == 0) = some cw0 := by decide
set_option maxRecDepth 20000 in
theorem witness_checks_satisfied : c1Unsat [] = 0 := by decide
set_option maxRecDepth 20000 in
theorem witness_checks_unsatisfied : c1Unsat [true] ≠ 0 := by decide
theorem witness_read_lanes : dbgEn trained 0 = false ∧ chipletDown trained (Reg.rcMode 0) = false ∧ rcMode trained 0 ≠ 3
    ∧ chipletDown State.reset (Reg.rcMode 0) = true ∧ chipletDown State.reset (Reg.rcEng 0 0) = true := by decide
theorem witness_engines_capture :
    let s := held (setReg (Reg.rcCaptok 0 0) tok0 trained)
    let a := setFld (Reg.rcCaplen 0 0) Fld.rcCaplenLength 100
      (setFld (Reg.rcCaplane 0 0) Fld.rcCaplaneArm 1 { s with capTrig := [0] })
    engRetired s 0 = false ∧ engRetired (setFld (Reg.rcEng 0 0) Fld.rcEngRetired 1 s) 0 = true ∧ chipletDown s (Reg.rcEng 0 0) = false
      ∧ chipletDown s (Reg.rcCaplane 0 0) = false ∧ (∀ i < 4, seqActive (seqOf s (tid i)) = false)
      ∧ seqActive (seqOf (seq0 (fun q => { q with st := .running }) s) (tid 0)) = true
      ∧ fld s (Reg.rcCaplane 0 0) Fld.rcCaplaneTrig ≠ 2 ∧ tokenHeld State.reset 3 (reg State.reset (Reg.rcCaptok 0 0)) = false
      ∧ tokenHeld s 3 (reg s (Reg.rcCaptok 0 0)) = true ∧ fld s (Reg.rcCaplane 0 0) Fld.rcCaplaneArm = 0
      ∧ fld a (Reg.rcCaplane 0 0) Fld.rcCaplaneArm = 1 ∧ a.capTrig.contains (4 * (0 : Fin 2).val + (0 : Fin 4).val) = true
      ∧ tokenHeld a 3 (reg a (Reg.rcCaptok 0 0)) = true ∧ (a.caps.get CapCh.reset 0).left ≤ 1
      ∧ ({ a with capTrig := [] } : State).capTrig.contains 0 = false := by decide
theorem witness_engines_idle : ∀ t ∈ allT, (tpOf State.reset t).rc.pend = [] := by decide
theorem witness_lane_faults :
    let c : WlCur := ⟨5, 1, 1, tok0, 0, 0⟩
    let s := modTp 0 (fun x => { x with wl := { x.wl with cur := some c, exts := [{ Extent.reset with mask := ~~~0 }] } }) State.reset
    bitOf (tpOf State.reset 0).vfy.failmask.toNat 3 = false
      ∧ bitOf (tpOf (modTp 0 (fun x => { x with vfy := { x.vfy with failmask := 8 } }) State.reset) 0).vfy.failmask.toNat 3 = true
      ∧ (seqOf (seq0 (fun q => { q with st := .running }) State.reset) 0).st = .running
      ∧ (seqOf State.reset 0).st ≠ .running ∧ (seqOf State.reset 0).st ≠ .waiting
      ∧ (tpOf State.reset 0).wl.cur = none ∧ (tpOf s 0).wl.cur = some c ∧ c.op = 1
      ∧ bitOf ((tpOf s 0).wl.exts.headD Extent.reset).mask.toNat 5 = true
      ∧ (maskTracks ((tpOf s 0).wl.exts.headD Extent.reset).mask).idxOf? 5 = some 5 := by decide
theorem witness_underruns :
    let s := modTp 0 (fun x => { x with wl := { x.wl with gap := true } }) State.reset
    (tpOf s (laneT 0)).wl.cur = none ∧ (tpOf s (laneT 0)).wl.gap = true ∧ bitOf (tpOf s (laneT 0)).head.missing.toNat (laneK 0) = false
      ∧ (⟨5, 3, 1, tok0, 0, 0⟩ : WlCur).op ≠ 1 ∧ bitOf ({ (tpOf s 0).head with missing := 1 } : Head).missing.toNat (laneK 0) = true
      ∧ (maskTracks 6).idxOf? (laneK 0) = none := by decide
theorem witness_lost : (getLane (modLane 0 (fun x => { x with loops := { x.loops with lost := true } }) State.reset) 0).loops.lost = true
    ∧ (getLane State.reset 0).loops.lost = false ∧ (getLane State.reset 0).mode ≠ 1 ∧ (getLane State.reset 0).mode ≠ 2
    ∧ (getLane (modLane 0 (fun x => { x with mode := 2 }) State.reset) 0).mode = 2
    ∧ (∀ n < 4, fld State.reset (Reg.rcCaplane 0 n) Fld.rcCaplaneArm ≠ 1) := by decide
theorem witness_track_slots : maskCount (~~~0) = 64 ∧ (lambdaCws 64 5)[127]?.isSome = true ∧ (lambdaCws 64 5)[128]? = none := by
  decide +kernel

/-! ### Power, start-up, faults -/

/-- A state with the power management changed. -/
def power (f : Pwr → Pwr) : State := { State.reset with pwr := f State.reset.pwr }
/-- The supply limits of PWR_CFG, in 0.1 V. -/
def limits (s : State) : State :=
  setFld Reg.pwrCfg Fld.pwrCfgFailv 30 (setFld Reg.pwrCfg Fld.pwrCfgSagv 50 (setFld Reg.pwrCfg Fld.pwrCfgClrv 60 s))
/-- A measurement in its test, of V0 = 1,000, with n samples taken, the bank now at v. -/
def measuring (n v : Nat) : State := { State.reset with
  boot := 9, pwr := { State.reset.pwr with meas := some ⟨1000, 1, n⟩, huTest := true, vhu := v } }
theorem witness_commit_starts :
    let s := setFld Reg.pwrCap Fld.pwrCapSagt 2 (limits (power (fun p => { p with sag := true, sagT := 200 })))
    s.pwr.commitEnded = false ∧ s.pwr.commit = none ∧ s.pwr.sag = true ∧ 100 * fld s Reg.pwrCap Fld.pwrCapSagt ≤ s.pwr.sagT
      ∧ scaleSample 0 (fld s Reg.pwrDiv Fld.pwrDivVink) < tenthVolt (fld s Reg.pwrCfg Fld.pwrCfgFailv) := by decide
theorem witness_sags :
    let s := setFld Reg.pwrDiv Fld.pwrDivVink 2000 (limits State.reset)
    let v (c : BitVec 16) := scaleSample c (fld s Reg.pwrDiv Fld.pwrDivVink)
    s.pwr.commit = none ∧ s.pwr.commitEnded = false ∧ s.pwr.sag = false ∧ s.pwr.meas = none
      ∧ tenthVolt (fld s Reg.pwrCfg Fld.pwrCfgFailv) ≤ v 12000 ∧ v 12000 < tenthVolt (fld s Reg.pwrCfg Fld.pwrCfgSagv)
      ∧ tenthVolt (fld s Reg.pwrCfg Fld.pwrCfgSagv) ≤ v 20000 ∧ tenthVolt (fld s Reg.pwrCfg Fld.pwrCfgFailv) ≤ v 20000
      ∧ (limits (measuring 0 1000)).pwr.meas = some ⟨1000, 1, 0⟩ ∧ bankDropped ⟨1000, 1, 0⟩ (takeSample (v 20000) 900 (limits (measuring 0 1000))) = true
      ∧ (power (fun p => { p with commit := some Commit.reset })).pwr.commit.isSome = true := by decide
theorem witness_sag_clear :
    (let s := power (fun p => { p with sag := true, clrT := 9999 })
     s.pwr.sag = true ∧ s.pwr.clrT < 10000)
    ∧ (let s := power (fun p => { p with sag := true, clrT := 10000 })
       10000 ≤ s.pwr.clrT ∧ s.pwr.sag = true ∧ s.pwr.commit = none ∧ s.pwr.commitEnded = false) := by decide
theorem witness_commit_record :
    let s := power (fun p => { p with commit := some Commit.reset })
    s.pwr.commit = some Commit.reset ∧ Commit.reset.recording = false ∧ (∀ t ∈ allT, commitDone s t = true)
      ∧ (let u := modTp 0 (fun x => { x with loaded := true, seq := { x.seq with st := .running }, asm := { x.asm with items := [Item.reset] } })
           (formatted s)
         (0 : Tid).val ∉ Commit.reset.marked ∧ commitDone u 0 = false) := by decide
theorem witness_commit_end :
    let c : Commit := { Commit.reset with recording := true, cause := 1 }
    let s := limits (power (fun p => { p with commit := some c, erased := false }))
    s.pwr.commit = some c ∧ c.recording = true ∧ c.warm = false ∧ s.pwr.warmPend = false
      ∧ s.pwr.vin < tenthVolt (fld s Reg.pwrCfg Fld.pwrCfgClrv) ∧ s.pwr.erased = false ∧ State.reset.pwr.erased = true
      ∧ (power (fun p => { p with erased := false })).pwr.commit = none := by decide
theorem witness_measurements :
    (measuring 0 1000).pwr.huTest = true ∧ (measuring 0 1000).pwr.meas = some ⟨1000, 1, 0⟩ ∧ (measuring 0 1000).boot = 9
      ∧ (let s := setFld Reg.wuCfg Fld.wuCfgTstep 2 (measuring 199 1000); 199 < 100 * fld s Reg.wuCfg Fld.wuCfgTstep)
      ∧ (let s := setFld Reg.wuCfg Fld.wuCfgTstep 2 (measuring 200 1000)
         100 * fld s Reg.wuCfg Fld.wuCfgTstep ≤ 200 ∧ 99 * (measVolts ⟨1000, 1, 200⟩ s).1 < 100 * (measVolts ⟨1000, 1, 200⟩ s).2)
      ∧ (let s := setFld Reg.wuCfg Fld.wuCfgTstep 2 (measuring 200 980)
         100 * (measVolts ⟨1000, 1, 200⟩ s).2 ≤ 99 * (measVolts ⟨1000, 1, 200⟩ s).1)
      ∧ State.reset.pwr.huTest = false ∧ State.reset.pwr.meas = none ∧ State.reset.boot ≠ 9 ∧ State.reset.pwr.commit = none
      ∧ State.reset.pwr.commitEnded = false ∧ romHeld .puppeteer State.reset = false
      ∧ fld State.reset Reg.pwrRlog Fld.pwrRlogPending = 0
      ∧ fld (hostWakes .puppeteer (setFld Reg.pwrRlog Fld.pwrRlogPending 1 State.reset)) Reg.pwrRlog Fld.pwrRlogPending = 1 := by decide
theorem witness_boot_image (b : Bool) : bootVerifies { State.reset with bootGood := b } = b := rfl
theorem witness_resets : State.reset.boot = 1 ∧ State.reset.rstCause ≠ 7 ∧ ({ State.reset with boot := 3 } : State).boot = 3
    ∧ (let s : State := { State.reset with boot := 9, pwr := { State.reset.pwr with commit := some Commit.reset } }
       s.boot = 9 ∧ s.pwr.commit.isSome = true)
    ∧ (let s : State := { State.reset with boot := 9 }
       s.boot = 9 ∧ s.pwr.commit = none ∧ ∀ t ∈ allT, s.pwr.debit.get 0 t.val = 0) := by decide
theorem test_cold_reset : goesTo (exec .coldReset { State.reset with boot := 9, clk := 77, revoked := 4 })
    (fun u => u.boot == 1 && u.clk == 0 && u.revoked == 4) = true := by unfold exec; decide
theorem witness_temperature : (10 * fld (setFld Reg.pwrThcfg Fld.pwrThcfgThrot 90 State.reset) Reg.pwrThcfg Fld.pwrThcfgThrot : Int) ≤ (900 : BitVec 16).toInt
    ∧ (power (fun p => { p with therm := true })).pwr.therm = true := by decide
set_option maxRecDepth 20000 in
theorem witness_fault_events :
    let u : BitVec 16 := 0x2003
    let s := setFld (Reg.fltCls 2) Fld.fltClsRetry 2 State.reset
    unitClass u = 2 ∧ s.flt.retries.get 0 u.toNat < fld (countEvent u s) (Reg.fltCls (unitClass u)) Fld.fltClsRetry
      ∧ fld (setFld (Reg.fltCls 2) Fld.fltClsM 0 s) (Reg.fltCls (unitClass u)) Fld.fltClsM = 0 ∧ s.flt.pendRetry.contains u = false
      ∧ ({ s with flt := { s.flt with pendRetry := [u] } } : State).flt.pendRetry.contains u = true
      ∧ s.flt.pendRetry.contains (unitId 7 0) = false ∧ (tpOf s 0).mot.st ≠ .faulted ∧ (tpOf s 0).mot.st ≠ .stopping
      ∧ isOffline s 0 = true ∧ isOffline trained 0 = false
      ∧ (let v := moving (fun m => { m with st := .faulted })
         let w : State := { v with flt := { v.flt with pendRetry := [unitId 7 0] } }
         w.flt.pendRetry.contains (unitId 7 0) = true ∧ (tpOf w 0).mot.st = .faulted ∧ (tpOf w 0).mot.still = true) := by decide
theorem witness_retire : dbgEn State.reset 0 = false ∧ unitValid State.reset 0xF000 = false ∧ unitClass 0x0001 = 0 ∧ unitClass 0x4001 = 4
    ∧ unitClass 0x2003 = 2 ∧ unitIdx 0x2003 < 32 ∧ (0x2003 : BitVec 16) ∉ State.reset.flt.retired
    ∧ (1 : BitVec 8).getLsbD 0 = true ∧ (1 : BitVec 8).getLsbD 1 = false := by decide
theorem witness_telemetry : ∀ b ∈ [true, false], ({ State.reset with tel := { State.reset.tel with done := b } } : State).tel.done = b := by decide

/-! ### Memory and the context cache -/

/-- The first byte of the system area, and a line at the end of its first page. -/
abbrev addr0 : BitVec 48 := BitVec.ofNat 48 (groupAddr 0)
abbrev line31 : BitVec 41 := BitVec.ofNat 41 (groupAddr 0 / 128 + 31)
abbrev addr31 : BitVec 48 := BitVec.ofNat 48 (groupAddr 0 + 31 * 128)
/-- The cache enabled, with a line at addr0 in way 2. -/
def cached (dirty : Bool) : State :=
  modCache (fun c => { c with enabled := true })
    (putLine (cacheSet (addr0.toNat / 128)) 2 { Line.reset with valid := true, dirty := dirty, tag := addr0.toNat / 128, bytes := zeros 128 } State.reset)
theorem witness_cache_access : groupOfAddr State.reset (0 : BitVec 48).toNat = none
    ∧ (let s := cached false
       groupOfAddr s addr0.toNat = some 0 ∧ inSystem s addr0.toNat = true ∧ cacheOn s = true ∧ wayOf s (addr0.toNat / 128) = some 2
        ∧ s.mem.sramBad.get 0 (2 * 2 * 65536 + cacheSet (addr0.toNat / 128)) = 0 ∧ cacheOn State.reset = false
        ∧ inSystem s (addr0 + BitVec.ofNat 48 systemArea).toNat = false
        ∧ groupOfAddr s (addr0 + BitVec.ofNat 48 systemArea).toNat = some 0) := by decide
theorem witness_cache_miss :
    let s := cached true
    line31.toNat = addr31.toNat / 128 ∧ groupOfAddr s addr31.toNat = some 0 ∧ inSystem s addr31.toNat = true ∧ wayOf s line31.toNat = none
      ∧ s.cache.fills = [] ∧ s.cache.evict = [] ∧ (missFits s line31.toNat).isSome = true ∧ (line31.toNat + 1) % 32 = 0 := by decide
theorem witness_cache_fill :
    let f : CFill := ⟨line31.toNat, cacheSet line31.toNat, 0, false, none⟩
    let s := modCache (fun c => { c with fills := [f] }) State.reset
    s.cache.fills.find? (fun x => x.line == line31.toNat && x.blocked.isNone) = some f ∧ s.cache.waits = []
      ∧ s.mem.bad.range (line31.toNat * 16) 16 = [] ∧ s.mem.poison.contains line31.toNat = false ∧ s.mem.flipArm = false
      ∧ (modCache (fun c => { c with evict := [(line31.toNat, zeros 128)] }) State.reset).cache.evict.find? (fun x => x.1 == line31.toNat)
        = some (line31.toNat, zeros 128) ∧ s.cache.snoopHeld = [] := by decide
theorem witness_snoops :
    ([1, 2] : List Byte) ≠ [] ∧ addr0.toNat % 128 + ([1, 2] : List Byte).length ≤ 128
      ∧ (∀ d ∈ [true, false], (lineAt (cached d) (cacheSet (addr0.toNat / 128)) 2).dirty = d
        ∧ wayOf (cached d) (addr0.toNat / 128) = some 2 ∧ (cached d).cache.evict = [])
      ∧ wayOf (cached true) line31.toNat = none := by decide
theorem test_snoop_scrub : goesTo (exec (.snoopWrite addr0 [1] true) (cached true)) (fun u => decide (u.cache = (cached true).cache)) = true := by
  unfold exec; decide
theorem witness_cache_control :
    let s : State := { State.reset with ccMode := true }
    dbgEn s 0 = false ∧ s.ccMode = true ∧ State.reset.ccMode = false ∧ s.cache.initDone = false ∧ s.cache.initBusy = false
      ∧ (modCache (fun c => { c with initDone := true, initBusy := true }) s).cache.initBusy = true
      ∧ s.cache.pwr &&& 0xFFFF = s.cache.pwr ∧ s.cache.clean = []
      ∧ (∃ x ∈ (modCache (fun c => { c with clean := [(3, 1)] }) s).cache.clean, x.1 = (3 : Fin 16).val ∧ x.2 ≠ 2)
      ∧ (let u := modCache (fun c => { c with pwr := 0xFFFF }) s
         u.cache.pwr.getLsbD 4 = true ∧ (0xFFEF : BitVec 16).getLsbD 4 = false) := by decide
theorem witness_cache_ranges :
    let s := modCache (fun c => { c with rngBusy := true }) (setFld Reg.ccRnglen Fld.ccRnglenLines 4
      (setReg (Reg.ccRngbase 0) (BitVec.ofNat 32 (groupAddr 0)) (setReg (Reg.ccRngbase 1) (BitVec.ofNat 32 (groupAddr 0 / 2 ^ 32)) (cached true))))
    s.cache.rngBusy = true ∧ (cached true).cache.rngBusy = false
      ∧ pair s (Reg.ccRngbase 0) (Reg.ccRngbase 1) / 128 = (lineAt s (cacheSet (addr0.toNat / 128)) 2).tag
      ∧ fld s Reg.ccRnglen Fld.ccRnglenLines = 4 := by decide
theorem witness_scratchpad :
    let s := modCache (fun c => { c with clean := [(8, 2)], spReady := 2 }) State.reset
    (8 + (0 : Fin 8).val, 2) ∈ s.cache.clean ∧ (∀ x ∈ s.cache.clean, x ≠ (8 + (1 : Fin 8).val, 2))
      ∧ s.cache.spReady.getLsbD ((0x1000100000 - 0x1000000000) / 2 ^ 20) = true ∧ s.cache.spReady.getLsbD 0 = false := by decide
theorem witness_scrub :
    let s := setFld Reg.scrCfg Fld.scrCfgEn 1 { State.reset with mem := { State.reset.mem with swept := true } }
    fld s Reg.scrCfg Fld.scrCfgEn = 1 ∧ s.mem.swept = true ∧ s.hif.ps < 2 ∧ s.mem.bad.range (s.mem.scrPos / 8) 16 = []
      ∧ State.reset.mem.swept = false ∧ flipTargetFits s 0x1FFF = false ∧ flipTargetFits s 0x103F = true ∧ flipTargetFits s 0x0FFF = true := by decide

/-! ### Register accesses -/

/-- Offsets as a register access carries them. -/
abbrev at28 (n : Nat) : BitVec 28 := BitVec.ofNat 28 n
theorem witness_rom_holds : romHeld (.host 0) { State.reset with rstCause := 7 } = true ∧ romHeld (.host 0) State.reset = false
    ∧ romHeld .puppeteer { State.reset with rstCause := 7 } = false := by decide
theorem witness_misses :
    (at28 2).toNat % 4 ≠ 0 ∧ (8 : Fin 16).val ≠ 4 ∧ mapped State.reset (at28 0x7FFFFFC).toNat = false
      ∧ chipletDown (hostWakes .puppeteer State.reset) (at28 0x7FFFFFC).toNat = false
      ∧ chipletDown (hostWakes .puppeteer State.reset) (at28 (Reg.rcMode 0)).toNat = true := by decide
theorem witness_plain_register :
    let o := Reg.pwrThcfg
    let w := hostWakes .puppeteer State.reset
    accessBars .puppeteer o w = none ∧ windowVal w o = none ∧ (regAt o).isSome = true ∧ pairOf o = none
      ∧ (regAt o).all (fun r => (ownWrite .puppeteer r.1.base 0 0 o 0x17006C69).isNone && mayWrite .puppeteer r.1.guard o 0x17006C69 w
        && decide (r.1.guard ≠ .nobody)) = true
      ∧ valueFits w o 0 = false ∧ offRuns w o = false ∧ lockedAt w o = false
      ∧ (regAt o).all (fun r => rangesFit r.1.fields (0x17006C69 : W32).toNat) = true ∧ valueFits w o 0x17006C69 = true := by decide
theorem witness_runs_not_live :
    let o := Reg.vfyLag 0
    let w := hostWakes .puppeteer (seq0 (fun q => { q with st := .running }) State.reset)
    accessBars .puppeteer o w = none ∧ windowVal w o = none ∧ pairOf o = none ∧ offRuns w o = true ∧ lockedAt w o = false ∧ valueFits w o 0x03E803E8 = true
      ∧ (regAt o).all (fun r => (ownWrite .puppeteer r.1.base 0 0 o 0x03E803E8).isNone && mayWrite .puppeteer r.1.guard o 0x03E803E8 w
        && decide (r.1.guard ≠ .nobody) && rangesFit r.1.fields 0x03E803E8 && r.1.fields.all (fun f => !f.live)) = true := by decide
theorem witness_host_barred :
    let o := Reg.yyLaw 0
    let w := hostWakes (.host 0) State.reset
    accessBars (.host 0) o w = none ∧ windowVal w o = none ∧ pairOf o = none
      ∧ (regAt o).all (fun r => !mayWrite (.host 0) r.1.guard o 0 w) = true
      ∧ offRuns (seq0 (fun q => { q with st := .running }) w) o = true := by decide
theorem witness_read_clear : (regAt (Reg.wlCnt 0)).any (fun r => r.1.fields.any (fun f => decide (f.acc = .rc))) = true := by decide
theorem witness_pairs :
    let l := Reg.codecOqbase 0
    let w := hostWakes .puppeteer State.reset
    accessBars .puppeteer l w = none ∧ pairOf l = some (l, false) ∧ pairOf (l + 4) = some (l, true) ∧ accessBars .puppeteer (l + 4) w = none
      ∧ windowVal w l = none ∧ windowVal w (l + 4) = none ∧ (at28 (l + 4)).toNat = l + 4
      ∧ (regAt l).all (fun r => (ownWrite .puppeteer r.1.base 0 0 l 0).isNone && mayWrite .puppeteer r.1.guard l 0 w
        && decide (r.1.guard ≠ .nobody)) = true
      ∧ (regAt (l + 4)).all (fun r => (ownWrite .puppeteer r.1.base 0 0 (l + 4) 0).isNone && mayWrite .puppeteer r.1.guard (l + 4) 0 w
        && decide (r.1.guard ≠ .nobody)) = true := by decide

/-! ### The whole block -/

theorem witness_idle : State.reset.pending = [] ∧ (seqOf (atWord 0) 0).st = .running ∧ (seqOf State.reset 0).st ≠ .running
    ∧ (({ State.reset with clk := 1249 } : State).clk + 1) % 1250 = 0 ∧ (seqOf (seq0 (fun q => { q with timer := 1 }) State.reset) 0).timer = 1 := by decide
theorem test_idle : goesTo (step State.reset) (fun u => u.clk == 1) = true := by decide
theorem witness_front : step { State.reset with pending := [.wake, .wake] } = exec .wake { State.reset with pending := [.wake] } := rfl
theorem witness_fuses : ({ State.reset with provision := true } : State).fuses.get 0 4 = 0 ∧ State.reset.provision = false
    ∧ (State.reset.fuses.set 0 4 1).get 0 4 ≠ 0 := by decide

end Sys2Proof.Tests
end

section
/-! Register accesses by offset (R7, R9, R33, R34, R318): what an access that is barred leaves and returns, how a pair's latch and
held half are used, and with that the statements on accesses that miss and on register pairs. -/
namespace Sys2Proof.Machine

/-! ### The rows of register accesses -/

theorem exec_registerWrite (src : Src) (off : BitVec 28) (v : W32) (s : State) :
    exec (.registerWrite src off v) s = .next (settleHost (writeAny src off.toNat v s)) := rfl

theorem exec_registerReadClear (src : Src) (off : BitVec 28) (s : State) :
    exec (.registerReadClear src off) s = .next (readAny src off.toNat s) := rfl

theorem exec_pairLowerRead (src : Src) (off : BitVec 28) (s : State) :
    exec (.pairLowerRead src off) s = .next (readAny src off.toNat s) := rfl

theorem exec_pairUpperRead (src : Src) (off : BitVec 28) (s : State) :
    exec (.pairUpperRead src off) s = .next (readAny src off.toNat s) := rfl

theorem exec_malformedRegisterAccess (src : Src) (off : BitVec 28) (size : Fin 16) (read : Bool) (s : State) :
    exec (.malformedRegisterAccess src off size read) s = .next (malformedAny src off.toNat size.val read s) := rfl

theorem exec_unmappedAccess (src : Src) (off : BitVec 28) (read : Bool) (s : State) :
    exec (.unmappedAccess src off read) s = .next (unmappedAny src off.toNat read s) := rfl

/-! ### Waking leaves the boot ROM's hold alone -/

/-- What every step of a `forAll` leaves alone, the whole leaves alone. -/
theorem forAll_keeps {α β : Type} {g : State → β} {f : α → State → State} (h : ∀ a s, g (f a s) = g s) (l : List α) (s : State) :
    g (forAll l f s) = g s := by
  induction l generalizing s with
  | nil => rfl
  | cons a l ih => exact (ih (f a s)).trans (h a s)

theorem modMot_rstCause (t : Tid) (f : Mot → Mot) (s : State) : (modMot t f s).rstCause = s.rstCause := rfl

@[simp] theorem wakeUp_rstCause (s : State) : (wakeUp s).rstCause = s.rstCause := by
  unfold wakeUp
  dsimp only
  split
  · exact forAll_keeps (g := State.rstCause) (fun t u => modMot_rstCause t _ u) allT s
  · rfl

@[simp] theorem romHeld_hostWakes (src src' : Src) (s : State) : romHeld src (hostWakes src' s) = romHeld src s := by
  have hc : (hostWakes src' s).rstCause = s.rstCause := by cases src' <;> simp [hostWakes]
  cases src <;> simp [romHeld, hc]

/-! ### Windows that are not the MSI-X table -/

theorem msixAt_of_unmapped {s : State} {off : Nat} (h : mapped s off = false) : msixAt off = false := by
  simp only [mapped, Bool.or_eq_false_iff] at h
  exact h.2

/-- The chiplet windows start above the MSI-X table (R240). -/
theorem msixAt_of_chipletDown {s : State} {off : Nat} (h : chipletDown s off = true) : msixAt off = false := by
  simp only [chipletDown, Bool.and_eq_true, decide_eq_true_eq] at h
  obtain ⟨⟨hlo, -⟩, -⟩ := h
  simp only [msixAt, decide_eq_false_iff_not]
  omega

theorem msixWrite_of_not_msixAt {off : Nat} (h : msixAt off = false) (src : Src) (v : W32) (s : State) :
    msixWrite src off v s = s := by
  simp only [msixAt, decide_eq_false_iff_not] at h
  exact if_neg (by omega)

/-! ### What bars an access -/

theorem accessBars_of_romHeld {src : Src} {s : State} (h : romHeld src s = true) (off : Nat) :
    accessBars src off s = some (s.readData, s) := if_pos h

theorem accessBars_of_chipletDown {src : Src} {s : State} {off : Nat} (hr : romHeld src s = false) (ha : off % 4 = 0)
    (hc : chipletDown s off = true) : accessBars src off s = some (0xFFFFFFFF, logAccess off s) := by
  simp [accessBars, hr, ha, hc]

theorem accessBars_of_unmapped {src : Src} {s : State} {off : Nat} (hr : romHeld src s = false) (ha : off % 4 = 0)
    (hc : chipletDown s off = false) (hm : mapped s off = false) : accessBars src off s = some (0, logAccess off s) := by
  simp [accessBars, hr, ha, hc, hm]

/-! ### Accesses, barred or not -/

theorem readAny_of_barred {src : Src} {off : Nat} {s u : State} {v : W32} (h : accessBars src off (hostWakes src s) = some (v, u)) :
    readAny src off s = { u with readData := v } := by
  simp [readAny, h]

theorem readAny_of_reached {src : Src} {off : Nat} {s : State} (h : accessBars src off (hostWakes src s) = none) :
    readAny src off s = { (readAt off (hostWakes src s)).2 with readData := (readAt off (hostWakes src s)).1 } := by
  simp [readAny, h]

theorem writeAny_of_romHeld {src : Src} {s : State} (h : romHeld src s = true) (off : Nat) (v : W32) :
    writeAny src off v s = hostWakes src s := by
  have hw : romHeld src (hostWakes src s) = true := by simpa using h
  simp [writeAny, accessBars_of_romHeld hw, h]

theorem writeAny_of_barred {src : Src} {off : Nat} {s u : State} {x : W32} (hr : romHeld src s = false) (hx : msixAt off = false)
    (h : accessBars src off (hostWakes src s) = some (x, u)) (v : W32) : writeAny src off v s = u := by
  simp [writeAny, h, hr, msixWrite_of_not_msixAt hx]

theorem writeAny_of_reached {src : Src} {off : Nat} {s : State} (h : accessBars src off (hostWakes src s) = none) (v : W32) :
    writeAny src off v s = writeAt src off v (hostWakes src s) := by
  simp [writeAny, h]

/-! ### Accesses of a wrong form or to no register -/

theorem malformedAny_of_aligned {off size : Nat} (ha : off % 4 = 0) (hs : size = 4) (src : Src) (read : Bool) (s : State) :
    malformedAny src off size read s = s := if_pos (.inl ⟨ha, hs⟩)

theorem malformedAny_of_romHeld {src : Src} {s : State} (h : romHeld src s = true) (off size : Nat) (read : Bool) :
    malformedAny src off size read s = s := if_pos (.inr h)

theorem malformedAny_of_malformed {src : Src} {off size : Nat} {s : State} (hr : romHeld src s = false)
    (hm : off % 4 ≠ 0 ∨ size ≠ 4) (read : Bool) :
    malformedAny src off size read s
      = if read then { logAccess off (hostWakes src s) with readData := 0xFFFFFFFF } else logAccess off (hostWakes src s) := by
  refine if_neg ?_
  rw [hr]
  rintro (⟨ha, hs⟩ | hf)
  · exact hm.elim (· ha) (· hs)
  · cases hf

theorem unmappedAny_of_romHeld {src : Src} {s : State} (h : romHeld src s = true) (off : Nat) (read : Bool) :
    unmappedAny src off read s = s := if_pos (.inr h)

theorem unmappedAny_of_unmapped {src : Src} {off : Nat} {s : State} (hr : romHeld src s = false) (hm : mapped s off = false)
    (read : Bool) :
    unmappedAny src off read s
      = if read then { logAccess off (hostWakes src s) with readData := 0 } else logAccess off (hostWakes src s) := by
  refine if_neg ?_
  rw [hr, hm]
  rintro (⟨-, hf⟩ | hf) <;> cases hf

/-- Settles O58: each way of missing a register is one of the causes that `accessBars`, `malformedAny` and `unmappedAny` look at, and
none of them lets a write through: an offset that is barred as unmapped or in a chiplet's window is not in the MSI-X table. -/
theorem accessesThatMiss : Obligations.AccessesThatMiss := by
  intro src off size v s
  simp only [exec_malformedRegisterAccess, exec_unmappedAccess, exec_registerWrite, exec_registerReadClear]
  refine ⟨fun hr => ?_, fun hr hm => ?_, fun ha hs b => ?_, fun hr hm => ?_, fun hr ha hc hm => ?_, fun hr ha hc => ?_⟩
  case refine_1 =>
    have hw : romHeld src (hostWakes src s) = true := by simpa using hr
    rw [writeAny_of_romHeld hr, readAny_of_barred (accessBars_of_romHeld hw _)]
    exact ⟨fun b => ⟨by rw [malformedAny_of_romHeld hr], by rw [unmappedAny_of_romHeld hr]⟩, rfl, rfl⟩
  case refine_2 => simp [malformedAny_of_malformed hr hm]
  case refine_3 => rw [malformedAny_of_aligned ha hs]
  case refine_4 => simp [unmappedAny_of_unmapped hr hm]
  case refine_5 =>
    have hb := accessBars_of_unmapped ((romHeld_hostWakes src src s).trans hr) ha hc hm
    rw [writeAny_of_barred hr (msixAt_of_unmapped hm) hb, readAny_of_barred hb]
    exact ⟨rfl, rfl⟩
  case refine_6 =>
    have hb := accessBars_of_chipletDown ((romHeld_hostWakes src src s).trans hr) ha hc
    rw [writeAny_of_barred hr (msixAt_of_chipletDown hc) hb, readAny_of_barred hb]
    exact ⟨rfl, rfl⟩

/-! ### Register pairs (R9) -/

theorem readAt_lower {off lo : Nat} (h : pairOf off = some (lo, false)) (s : State) :
    readAt off s = ((plainRead off s).1, { (plainRead off s).2 with
      pairLatch := (plainRead off s).2.pairLatch.set none lo (some (plainRead (lo + 4) s).1) }) := by
  simp [readAt, h]

theorem readAt_upper {off lo : Nat} (h : pairOf off = some (lo, true)) (s : State) :
    readAt off s = ((latchOf s lo).getD (plainRead off s).1, { (plainRead off s).2 with
      pairLatch := (plainRead off s).2.pairLatch.set none lo none }) := by
  simp [readAt, h]

/-- A write of a pair's register that no window holds and that starts no action goes to the pair, if its source may make it. -/
theorem writeAt_pair {src : Src} {off lo : Nat} {up : Bool} {v : W32} {row : RRow} {ix : List Nat} {s : State}
    (hwin : windowVal s off = none) (hreg : regAt off = some (row, ix)) (hpair : pairOf off = some (lo, up))
    (hown : ownWrite src row.base (ix.getD 0 0) (ix.getD 1 0) off v = none) (hmay : mayWrite src row.guard off v s = true)
    (hguard : row.guard ≠ .nobody) : writeAt src off v s = pairWrite lo up v s := by
  simp only [writeAt, hwin, hreg, hpair, hown, hmay, hguard, Option.isSome_none, Bool.not_true, Bool.false_eq_true, if_false]

theorem pairWrite_lower (lo : Nat) (v : W32) (s : State) :
    pairWrite lo false v s = { s with pairHeld := s.pairHeld.set none lo (some v) } := rfl

theorem pairWrite_upper {s : State} {lo : Nat} (h : windowVal s lo = none) (v : W32) :
    pairWrite lo true v s
      = pairEffect lo (v ++ (s.pairHeld.get none lo).getD (reg s lo)) { s with pairHeld := s.pairHeld.set none lo none } := by
  simp [pairWrite, lowerNow, h]

/-- Settles O60: a read of either register that is not barred is `readAt`, whose latch is read back from the map it was put in, and a
write that reaches the pair is `pairWrite`. -/
theorem registerPairs : Obligations.RegisterPairs := by
  intro src lo v row ix s
  simp only [exec_pairLowerRead, exec_pairUpperRead, exec_registerWrite]
  refine ⟨fun hbar hpair => ⟨_, rfl, ?_⟩, fun up hup hbar hpair => ⟨_, rfl, ?_⟩,
    fun hbar hwin hreg hpair hown hmay hguard => ?_, fun up hup hbar hwin hlow hreg hpair hown hmay hguard => ?_⟩
  case refine_1 =>
    rw [readAny_of_reached hbar, readAt_lower hpair]
    exact ⟨rfl, SMap.get_set_self _ _ _ _⟩
  case refine_2 =>
    rw [hup, readAny_of_reached hbar, readAt_upper hpair]
    refine ⟨SMap.get_set_self _ _ _ _, fun x hx => ?_, fun hx => ?_⟩ <;> simp [hx]
  case refine_3 => rw [writeAny_of_reached hbar, writeAt_pair hwin hreg hpair hown hmay hguard, pairWrite_lower]
  case refine_4 => rw [hup, writeAny_of_reached hbar, writeAt_pair hwin hreg hpair hown hmay hguard, pairWrite_upper hlow]

end Sys2Proof.Machine
end

section
/-! The rows of the sequencers (R40, R55): which command carries an instruction, what replacing one sequencer leaves of the state, and
how an instruction boundary and an exception end. -/
namespace Sys2Proof.Machine

open Sys2Proof.Safety

/-! ### A row of a sequencer and its instruction -/

/-- The command that carries a Rhoval-F instruction of sequencer t. -/
def commandOf (t : Tid) : FInstr → Instr
  | .reg rd ra rb func => .alu t rd ra rb func
  | .imm .addi rd ra imm => .addi t rd ra imm
  | .imm .andi rd ra imm => .andi t rd ra imm
  | .imm .ori rd ra imm => .ori t rd ra imm
  | .imm .xori rd ra imm => .xori t rd ra imm
  | .imm .slti rd ra imm => .slti t rd ra imm
  | .imm .sltiu rd ra imm => .sltiu t rd ra imm
  | .imm .lui rd ra imm => .lui t rd ra imm
  | .imm .slli rd ra imm => .slli t rd ra imm
  | .imm .srli rd ra imm => .srli t rd ra imm
  | .imm .srai rd ra imm => .srai t rd ra imm
  | .imm .ld rd ra imm => .ld t rd ra imm
  | .imm .st rd ra imm => .st t rd ra imm
  | .imm .lw rd ra imm => .lw t rd ra imm
  | .imm .sw rd ra imm => .sw t rd ra imm
  | .imm .dld rd ra imm => .dld t rd ra imm
  | .imm .dst rd ra imm => .dst t rd ra imm
  | .imm .dins rd ra imm => .dins t rd ra imm
  | .imm .dext rd ra imm => .dext t rd ra imm
  | .imm .dclr rd ra imm => .dclr t rd ra imm
  | .imm .jal rd ra imm => .jal t rd ra imm
  | .imm .jalr rd ra imm => .jalr t rd ra imm
  | .imm .wait rd ra imm => .wait t rd ra imm
  | .imm .evclr rd ra imm => .evclr t rd ra imm
  | .imm .post rd ra imm => .post t rd ra imm
  | .imm .bar rd ra imm => .bar t rd ra imm
  | .imm .mfs rd ra imm => .mfs t rd ra imm
  | .imm .mts rd ra imm => .mts t rd ra imm
  | .imm .eret rd ra imm => .eret t rd ra imm
  | .imm .brk rd ra imm => .brk t rd ra imm
  | .imm .halt rd ra imm => .halt t rd ra imm
  | .stage .issue port dreg rt nb zero => .issue t port dreg rt nb zero
  | .stage .pop port dreg rt nb zero => .pop t port dreg rt nb zero
  | .branch .beq ra rb imm => .beq t ra rb imm
  | .branch .bne ra rb imm => .bne t ra rb imm
  | .branch .blt ra rb imm => .blt t ra rb imm
  | .branch .bge ra rb imm => .bge t ra rb imm
  | .branch .bltu ra rb imm => .bltu t ra rb imm
  | .branch .bgeu ra rb imm => .bgeu t ra rb imm

theorem exec_commandOf (t : Tid) (i : FInstr) (s : State) : exec (commandOf t i) s = .next (seqRow t (runInstr t i) s) := by
  cases i with
  | reg rd ra rb func => rfl
  | imm op rd ra imm => cases op <;> rfl
  | stage op port dreg rt nb zero => cases op <;> rfl
  | branch op ra rb imm => cases op <;> rfl

/-- A row that leaves the sequencer running or waiting is its effect alone: no host command is settled. -/
theorem seqRow_of_active {t : Tid} {f : State → State} {s : State} (h : seqActive (seqOf (f s) t) = true) : seqRow t f s = f s :=
  if_pos h

@[simp] theorem seqActive_of_running {q : Seq} (h : q.st = .running) : seqActive q = true := by simp [seqActive, h]

@[simp] theorem seqActive_of_waiting {q : Seq} (h : q.st = .waiting) : seqActive q = true := by simp [seqActive, h]

/-! ### Replacing one sequencer -/

theorem modSeq_eq_withSeq (t : Tid) (f : Seq → Seq) (s : State) : modSeq t f s = withSeq t (f (seqOf s t)) s := rfl

@[simp] theorem seqOf_withSeq (t : Tid) (q : Seq) (s : State) : seqOf (withSeq t q s) t = q := by
  simp [seqOf, tpOf, withSeq]

@[simp] theorem portOf_withSeq (t : Tid) (q : Seq) (s : State) (n : Nat) : portOf (tpOf (withSeq t q s) t) n = portOf (tpOf s t) n := by
  simp only [tpOf, withSeq, Oct.get_set_self]
  rfl

@[simp] theorem withSeq_withSeq (t : Tid) (p q : Seq) (s : State) : withSeq t q (withSeq t p s) = withSeq t q s := by
  simp [tpOf, withSeq]

theorem seqOf_bumpFld (off : Nat) (f : Fld) (s : State) (t : Tid) : seqOf (bumpFld off f s) t = seqOf s t :=
  congrArg Tp.seq (tpOf_bumpFld off f s t)

theorem gSet_eq_putG (rd : BitVec 5) (v : W64) (q : Seq) : gSet rd v q = putG rd v q := rfl

@[simp] theorem putG_pc (rd : BitVec 5) (v : W64) (q : Seq) : (putG rd v q).pc = q.pc := by
  unfold putG
  split <;> rfl

@[simp] theorem putG_step (rd : BitVec 5) (v : W64) (q : Seq) : (putG rd v q).step = q.step := by
  unfold putG
  split <;> rfl

@[simp] theorem putG_st (rd : BitVec 5) (v : W64) (q : Seq) : (putG rd v q).st = q.st := by
  unfold putG
  split <;> rfl

/-! ### Instruction boundaries and exceptions (R38, R55) -/

theorem stepDone_of_no_step {t : Tid} {s : State} (h : (seqOf s t).step = false) : stepDone t s = s :=
  if_neg fun hc => by simp [h] at hc

theorem running_of_atInstr {t : Tid} {i : FInstr} {s : State} (h : AtInstr t i s) : (seqOf s t).st = .running := h.1.1

theorem no_step_of_atInstr {t : Tid} {i : FInstr} {s : State} (h : AtInstr t i s) : (seqOf s t).step = false := h.2.1

theorem fFetch_of_atInstr {t : Tid} {i : FInstr} {s : State} (h : AtInstr t i s) : fFetch (seqOf s t) = some i := h.2.2

/-- The instruction at PC runs: neither the watchdog nor a halt request comes first. -/
theorem runInstr_of_atInstr {t : Tid} {i : FInstr} {s : State} (h : AtInstr t i s) : runInstr t i s = fExec t i s := by
  obtain ⟨⟨hst, hw, hh⟩, -, hf⟩ := h
  simp [runInstr, hst, hw, hh, hf]

/-- A word that is no legal instruction raises ILLEGAL, with the word as EVAL, whatever row looks at it. -/
theorem runInstr_of_illegal {t : Tid} {s : State} (h : AtBoundary t s) (hf : fFetch (seqOf s t) = none) (i : FInstr) :
    runInstr t i s = raiseExc t exIllegal ((fetchWord (seqOf s t)).setWidth 64) s := by
  obtain ⟨hst, hw, hh⟩ := h
  simp [runInstr, hst, hw, hh, hf]

/-- An exception other than the watchdog's enters the handler where there is one. -/
theorem raiseExc_of_handler {t : Tid} {s : State} (h : HasHandler t s) (hs : (seqOf s t).step = false) {c : Nat}
    (hc : c ≠ exWatchdog) (v : W64) : raiseExc t c v s = entered t (BitVec.ofNat 6 c) v s := by
  have hseq := seqOf_bumpFld (Reg.tsFcnt t) Fld.tsFcntExccnt s t
  obtain ⟨hx, he⟩ := h
  simp only [raiseExc, entered, if_neg hc]
  generalize bumpFld (Reg.tsFcnt t) Fld.tsFcntExccnt s = u at hseq ⊢
  rw [hseq, if_pos ⟨hx, he⟩, modSeq_eq_withSeq, hseq, stepDone_of_no_step (by simpa using hs)]

/-- A row whose instruction raises an exception while the sequencer runs ends in the handler. -/
theorem exec_of_raise {t : Tid} {i : FInstr} {s : State} {c : Nat} {v : W64} (hst : (seqOf s t).st = .running)
    (hs : (seqOf s t).step = false) (hh : HasHandler t s) (hc : c ≠ exWatchdog) (hr : runInstr t i s = raiseExc t c v s) :
    exec (commandOf t i) s = .next (entered t (BitVec.ofNat 6 c) v s) := by
  rw [raiseExc_of_handler hh hs hc] at hr
  have hact : seqActive (seqOf (runInstr t i s) t) = true := by simp [hr, entered, hst]
  rw [exec_commandOf, seqRow_of_active hact, hr]

theorem exec_of_illegal {t : Tid} {s : State} (h : AtBoundary t s) (hs : (seqOf s t).step = false) (hh : HasHandler t s)
    (hf : fFetch (seqOf s t) = none) (i : FInstr) :
    exec (commandOf t i) s = .next (entered t 1 ((fetchWord (seqOf s t)).setWidth 64) s) :=
  exec_of_raise h.1 hs hh (by decide) (runInstr_of_illegal h hf i)

/-- An instruction inside the sequencer that ends in an exception enters the handler. -/
theorem exec_of_exception {t : Tid} {i : FInstr} {s : State} {c : Nat} {v : W64} (h : AtInstr t i s) (hh : HasHandler t s)
    (hc : c ≠ exWatchdog) (hl : fLocal i (seqOf s t) = some (.exc c v)) :
    exec (commandOf t i) s = .next (entered t (BitVec.ofNat 6 c) v s) := by
  refine exec_of_raise (running_of_atInstr h) (no_step_of_atInstr h) hh hc ?_
  simp only [runInstr_of_atInstr h, fExec, hl]

end Sys2Proof.Machine
end

section
/-! Illegal fields, faults of data memory and targets outside the code (R41), with the statement on them. -/
namespace Sys2Proof.Machine

open Sys2Proof.Safety

/-! ### What is illegal, and what is out of range (R41) -/

theorem fFetch_of_not_legal {q : Seq} {i : FInstr} (hd : decodeF (fetchWord q) = some i) (hl : legalF i = false) : fFetch q = none := by
  simp [fFetch, hd, hl]

/-- A field of DINS or DEXT that passes bit 255, or a non-zero imm[15:14], is refused. -/
theorem descField_refused {imm : BitVec 16} (h : 256 < imm.toNat % 256 + imm.toNat / 256 % 64 + 1 ∨ imm.toNat / 16384 ≠ 0) :
    (decide (fieldB imm 0 8 + fieldB imm 8 6 + 1 ≤ 256) && fieldB imm 14 2 == 0) = false := by
  have := imm.isLt
  simp only [Bool.eq_false_iff, ne_eq, Bool.and_eq_true, beq_iff_eq, fieldB, fieldOf]
  rintro ⟨hle, hz⟩
  have := of_decide_eq_true hle
  omega

/-- The bytes that a load or store of data memory reaches (R40). -/
def accessBytes : FOp → Option Nat
  | .ld => some 8
  | .st => some 8
  | .lw => some 4
  | .sw => some 4
  | .dld => some 32
  | .dst => some 32
  | _ => none

theorem fLocal_of_dataFault {op : FOp} {n c : Nat} {rd ra : BitVec 5} {imm : BitVec 16} {q : Seq} (hn : accessBytes op = some n)
    (hf : dataFault (gGet q ra + sext16 imm) n = some c) :
    fLocal (.imm op rd ra imm) q = some (.exc c (gGet q ra + sext16 imm)) := by
  cases op <;> cases hn <;> simp [fLocal, fLoad, fStore, fDld, fDst, hf]

theorem dataFault_of_misaligned {a : W64} {n : Nat} (hm : a.toNat % n ≠ 0) (ho : a.toNat + n ≤ 65536) :
    dataFault a n = some exDmemAlign := by
  simp [dataFault, hm, Nat.not_lt.mpr ho]

theorem dataFault_of_outside {a : W64} {n : Nat} (hm : a.toNat % n = 0) (ho : 65536 < a.toNat + n) :
    dataFault a n = some exDmemRange := by
  simp [dataFault, hm, ho]

/-- Where an access is both, which of the two it raises is left open (log entry 8). -/
theorem dataFault_of_both {a : W64} {n : Nat} (hm : a.toNat % n ≠ 0) (ho : 65536 < a.toNat + n) :
    dataFault a n = some exDmemAlign ∨ dataFault a n = some exDmemRange := by
  cases hc : Config.alignFirst <;> simp [dataFault, hm, ho, hc]

/-- A load or store whose access raises a fault enters the handler, with the address as EVAL. -/
theorem exec_of_dataFault {t : Tid} {op : FOp} {n c : Nat} {rd ra : BitVec 5} {imm : BitVec 16} {s : State}
    (h : AtInstr t (.imm op rd ra imm) s) (hh : HasHandler t s) (hn : accessBytes op = some n) (hc : c ≠ exWatchdog)
    (hf : dataFault (dataAddr s t ra imm) n = some c) :
    exec (commandOf t (.imm op rd ra imm)) s = .next (entered t (BitVec.ofNat 6 c) (dataAddr s t ra imm) s) :=
  exec_of_exception h hh hc (fLocal_of_dataFault hn hf)

theorem fJump_of_outside {a : W64} {q : Seq} (h : q.codeSize ≤ a.toNat) : fJump a q = .exc exImemRange a :=
  if_neg (Nat.not_lt.mpr h)

theorem fLink_of_outside {a : W64} {q : Seq} (h : q.codeSize ≤ a.toNat) (rd : BitVec 5) : fLink rd a q = .exc exImemRange a := by
  simp [fLink, fJump_of_outside h]

theorem fLocal_branch_of_outside {op : FBr} {ra rb : BitVec 5} {imm : BitVec 16} {q : Seq}
    (ht : fTaken op (gGet q ra) (gGet q rb) = true) (h : q.codeSize ≤ (fTarget q imm).toNat) :
    fLocal (.branch op ra rb imm) q = some (.exc exImemRange (fTarget q imm)) := by
  simp [fLocal, fBranch, ht, fJump_of_outside h]

/-- A branch that is taken to a target outside the code enters the handler, with the target as EVAL. -/
theorem exec_branch_of_outside {t : Tid} {op : FBr} {ra rb : BitVec 5} {imm : BitVec 16} {s : State}
    (h : AtInstr t (.branch op ra rb imm) s) (hh : HasHandler t s) (ho : (seqOf s t).codeSize ≤ (fTarget (seqOf s t) imm).toNat)
    (ht : fTaken op (greg s t ra) (greg s t rb) = true) :
    exec (commandOf t (.branch op ra rb imm)) s = .next (entered t 2 (fTarget (seqOf s t) imm) s) :=
  exec_of_exception h hh (by decide) (fLocal_branch_of_outside ht ho)

/-- Settles O10: an illegal field keeps the word from being fetched as an instruction, and the other faults are the exceptions that
`dataFault` and `fJump` answer; each of them enters the handler. -/
theorem rangeFaults : Obligations.RangeFaults := by
  refine ⟨fun t rd ra imm s hb hs hh hbad => ?_, fun t rd ra imm s c op n hop hat hh => ?_,
    fun t ra rb imm a s c i hci ha hat hh hout => ?_, fun t rd ra imm a s ha hat hh hout => ?_⟩
  case refine_1 =>
    exact ⟨fun hd => exec_of_illegal hb hs hh (fFetch_of_not_legal hd (descField_refused hbad)) (.imm .dins rd ra imm),
      fun hd => exec_of_illegal hb hs hh (fFetch_of_not_legal hd (descField_refused hbad)) (.imm .dext rd ra imm)⟩
  case refine_2 =>
    have hrow : c = commandOf t (.imm op rd ra imm) ∧ accessBytes op = some n := by
      rcases hop with ⟨rfl, rfl, rfl⟩ | ⟨rfl, rfl, rfl⟩ | ⟨rfl, rfl, rfl⟩ | ⟨rfl, rfl, rfl⟩ | ⟨rfl, rfl, rfl⟩ |
        ⟨rfl, rfl, rfl⟩ <;> exact ⟨rfl, rfl⟩
    obtain ⟨rfl, hn⟩ := hrow
    refine ⟨fun hm ho => exec_of_dataFault hat hh hn (by decide) (dataFault_of_misaligned hm ho),
      fun hm ho => exec_of_dataFault hat hh hn (by decide) (dataFault_of_outside hm ho), fun hm ho => ?_⟩
    exact (dataFault_of_both hm ho).imp (exec_of_dataFault hat hh hn (by decide)) (exec_of_dataFault hat hh hn (by decide))
  case refine_3 =>
    subst ha
    rcases hci with ⟨rfl, rfl, h⟩ | ⟨rfl, rfl, h⟩ | ⟨rfl, rfl, h⟩ | ⟨rfl, rfl, h⟩ | ⟨rfl, rfl, h⟩ |
      ⟨rfl, rfl, h⟩ | ⟨rfl, rfl⟩
    · exact exec_branch_of_outside hat hh hout (by simpa [fTaken] using h)
    · exact exec_branch_of_outside hat hh hout (by simpa [fTaken] using h)
    · exact exec_branch_of_outside hat hh hout (by simpa [fTaken, BitVec.slt_iff_toInt_lt] using h)
    · exact exec_branch_of_outside hat hh hout (by simpa [fTaken, BitVec.slt_eq_decide] using h)
    · exact exec_branch_of_outside hat hh hout (by simpa [fTaken, BitVec.ult_eq_decide] using h)
    · exact exec_branch_of_outside hat hh hout (by simpa [fTaken, BitVec.ult_eq_decide] using h)
    · exact exec_of_exception hat hh (by decide) (congrArg some (fLink_of_outside hout ra))
  case refine_4 =>
    subst ha
    exact exec_of_exception hat hh (by decide) (congrArg some (fLink_of_outside hout rd))

end Sys2Proof.Machine
end

section
/-! WAIT and the ends of waits (R44, R45, R52, R53), with the statement on them; the events that a mask can select (R51), and the word
of a decoded instruction (R39), which EVAL of ILLEGAL shows. -/
namespace Sys2Proof.Machine

open Sys2Proof.Safety

/-! ### Which events a WAIT can select (R51, R52) -/

theorem foldl_two_pow_filter_le (p : Nat → Bool) (l : List Nat) {a b : Nat} (h : a ≤ b) :
    (l.filter p).foldl (fun a n => a + 2 ^ n) a ≤ l.foldl (fun a n => a + 2 ^ n) b := by
  induction l generalizing a b with
  | nil => exact h
  | cons n r ih =>
    by_cases hp : p n = true
    · rw [List.filter_cons_of_pos hp]
      exact ih (Nat.add_le_add_right h _)
    · rw [List.filter_cons_of_neg hp]
      exact ih (le_trans h (Nat.le_add_right _ _))

/-- The level events are bits 0-8. -/
theorem levelEvents_lt (x : Tp) : levelEvents x < 2 ^ 9 :=
  Nat.lt_succ_of_le (foldl_two_pow_filter_le _ (List.range 9) (le_refl 0))

theorem ofNat_and_definedEvents {n : Nat} (h : n < 2 ^ 9) : BitVec.ofNat 64 n &&& definedEvents = BitVec.ofNat 64 n := by
  have hlow : BitVec.ofNat 64 n = BitVec.ofNat 64 n &&& 0x1FF := by
    apply BitVec.eq_of_toNat_eq
    rw [BitVec.toNat_and, BitVec.toNat_ofNat, Nat.mod_eq_of_lt (lt_trans h (by decide))]
    exact (Nat.and_two_pow_sub_one_of_lt_two_pow h).symm
  rw [hlow, BitVec.and_assoc]
  rfl

/-- Every event that can be pending is a defined one. -/
theorem evp_and_definedEvents (x : Tp) : evp x &&& definedEvents = evp x := by
  have hlatched : latchedEvents &&& definedEvents = latchedEvents := by decide
  rw [evp, BitVec.and_or_distrib_right, ofNat_and_definedEvents (levelEvents_lt x), BitVec.and_assoc, hlatched]

/-- A mask that selects a pending event selects a defined one. -/
theorem mask_defined_of_pending {x : Tp} {m : W64} (h : evp x &&& m ≠ 0) : m &&& definedEvents ≠ 0 := by
  intro hm
  apply h
  rw [← evp_and_definedEvents, BitVec.and_assoc, BitVec.and_comm definedEvents, hm]
  exact BitVec.and_zero

/-! ### The word of a decoded instruction (R39, R54) -/

/-- The major opcode that a kind of word has. -/
def kindCode : FKind → BitVec 6
  | .reg => 0x00
  | .imm op => fOpCode op
  | .stage .issue => 0x18
  | .stage .pop => 0x19
  | .branch op => fBrCode op

theorem kindCode_of_fKind : ∀ (c : BitVec 6), (fKind c).all (fun k => kindCode k == c) = true := by decide

theorem extractLsb'_one (w : W32) (n : Nat) : w.extractLsb' n 1 = BitVec.ofBool (w.getLsbD n) := by
  ext i hi
  obtain rfl : i = 0 := by omega
  simp

/-- The opcode and the fields of a kind of word, put together again, are the word. -/
theorem encodeF_fFields {k : FKind} {w : W32} (h : kindCode k = w.extractLsb' 26 6) : encodeF (fFields k w) = w := by
  have hself : w.extractLsb' 0 32 = w := BitVec.extractLsb'_eq_self
  cases k with
  | reg =>
    change kindCode .reg ++ w.extractLsb' 21 5 ++ w.extractLsb' 16 5 ++ w.extractLsb' 11 5 ++ w.extractLsb' 0 11 = w
    simpa only [h, BitVec.extractLsb'_append_extractLsb'_eq_extractLsb'] using hself
  | imm op =>
    change kindCode (.imm op) ++ w.extractLsb' 21 5 ++ w.extractLsb' 16 5 ++ w.extractLsb' 0 16 = w
    simpa only [h, BitVec.extractLsb'_append_extractLsb'_eq_extractLsb'] using hself
  | stage op =>
    have hword : encodeF (fFields (.stage op) w) = kindCode (.stage op) ++ w.extractLsb' 22 4 ++ w.extractLsb' 19 3
        ++ w.extractLsb' 14 5 ++ BitVec.ofBool (w.getLsbD 13) ++ w.extractLsb' 0 13 := by cases op <;> rfl
    simpa only [hword, h, ← extractLsb'_one, BitVec.extractLsb'_append_extractLsb'_eq_extractLsb'] using hself
  | branch op =>
    change kindCode (.branch op) ++ w.extractLsb' 21 5 ++ w.extractLsb' 16 5 ++ w.extractLsb' 0 16 = w
    simpa only [h, BitVec.extractLsb'_append_extractLsb'_eq_extractLsb'] using hself

/-- A word that decodes is the word of its instruction. -/
theorem encodeF_of_decodeF {w : W32} {i : FInstr} (h : decodeF w = some i) : encodeF i = w := by
  obtain ⟨k, hk, rfl⟩ := Option.map_eq_some_iff.mp h
  exact encodeF_fFields (by simpa [hk] using kindCode_of_fKind (w.extractLsb' 26 6))

theorem decodeF_of_fFetch {q : Seq} {i : FInstr} (h : fFetch q = some i) : decodeF (fetchWord q) = some i := by
  unfold fFetch at h
  split at h
  case h_1 j hj =>
    split at h
    · rwa [hj]
    · cases h
  case h_2 => cases h

/-- EVAL of an ILLEGAL that an instruction raises is the word at PC. -/
theorem illegalEval_of_fFetch {q : Seq} {i : FInstr} (h : fFetch q = some i) : illegalEval i = (fetchWord q).setWidth 64 :=
  congrArg (BitVec.setWidth 64) (encodeF_of_decodeF (decodeF_of_fFetch h))

/-! ### Waits (R44, R45, R52, R53) -/

/-- The sequencer that a wait leaves with v in rd: running, behind the instruction, the watchdog's count cleared (R52, R56). -/
def wokenSeq (rd : BitVec 5) (v : W64) (q : Seq) : Seq :=
  { putG rd v q with pc := q.pc + 4, st := .running, wait := .none, barRes := none, wdog := 0 }

theorem endWait_of_no_step {t : Tid} {s : State} (hs : (seqOf s t).step = false) (rd : BitVec 5) (v : W64) :
    endWait t rd v s = withSeq t (wokenSeq rd v (seqOf s t)) s := by
  have hq : { nextPc (gSet rd v (seqOf s t)) with st := SeqState.running, wait := .none, barRes := none, wdog := 0 }
      = wokenSeq rd v (seqOf s t) := by simp [nextPc, gSet_eq_putG, wokenSeq]
  rw [endWait, modSeq_eq_withSeq, hq, stepDone_of_no_step (by simp [wokenSeq, hs])]

/-- A row that ends the wait of sequencer q leaves it woken and settles no host command. -/
theorem seqRow_of_endWait {t : Tid} {f : State → State} {s u : State} {q : Seq} {rd : BitVec 5} {v : W64}
    (hf : f s = endWait t rd v u) (hq : seqOf u t = q) (hs : q.step = false) : seqRow t f s = withSeq t (wokenSeq rd v q) u := by
  subst hq
  rw [endWait_of_no_step hs] at hf
  have hact : seqActive (seqOf (f s) t) = true := by simp [hf, wokenSeq]
  rw [seqRow_of_active hact, hf]

theorem seqOf_popCpl (t : Tid) (n : Nat) (s : State) : seqOf (popCpl t n s) t = seqOf s t := by
  simp [seqOf, popCpl, modPort]

theorem portOf_popCpl (t : Tid) (n : Nat) (s : State) :
    portOf (tpOf (popCpl t n s) t) n = { portOf (tpOf s t) n with cpl := (portOf (tpOf s t) n).cpl.drop 1 } := by
  simp [popCpl, modPort]

theorem seqOf_enqueue (t : Tid) (n : Nat) (d : BitVec 256) (s : State) : seqOf (enqueue t n d s) t = seqOf s t := by
  simp [seqOf, enqueue]

theorem portOf_issueNo (x : Tp) (k n : Nat) : portOf { x with issueNo := k } n = portOf x n := by
  unfold portOf
  split <;> rfl

/-- The descriptor goes to the end of the port's queue with the port's next ticket (R44). -/
theorem portOf_enqueue (t : Tid) (n : Nat) (d : BitVec 256) (s : State) :
    portOf (tpOf (enqueue t n d s) t) n = { portOf (tpOf s t) n with
      nextTicket := (portOf (tpOf s t) n).nextTicket + 1
      slots := (portOf (tpOf s t) n).slots ++ [{ Slot.reset with
        ticket := (portOf (tpOf s t) n).nextTicket, desc := ticketed d (portOf (tpOf s t) n).nextTicket
        order := (tpOf s t).issueNo }] } := by
  rw [enqueue, tpOf_modTp]
  exact (portOf_issueNo _ _ _).trans (portOf_setPort _ _ _)

/-! ### What each row makes of a wait that can end -/

theorem issueFreedOp_of_free {t : Tid} {s : State} {rt : BitVec 5} {port dr : Nat} (hst : (seqOf s t).st = .waiting)
    (hw : (seqOf s t).wait = .issue rt port dr) (hfree : portUsed (portOf (tpOf s t) port) < portDepth port) :
    issueFreedOp t s = endWait t rt ((portOf (tpOf s t) port).nextTicket.setWidth 64) (enqueue t port (dGet (seqOf s t) dr) s) := by
  simp [issueFreedOp, hst, hw, portFree, hfree]

theorem popArrivalOp_of_completion {t : Tid} {s : State} {rt : BitVec 5} {port : Nat} {c : W64} {r : List W64}
    (hst : (seqOf s t).st = .waiting) (hw : (seqOf s t).wait = .pop rt port) (hc : (portOf (tpOf s t) port).cpl = c :: r) :
    popArrivalOp t s = endWait t rt c (popCpl t port s) := by
  simp [popArrivalOp, hst, hw, hc]

theorem waitReleaseOp_of_pending {t : Tid} {s : State} {rd : BitVec 5} {m : W64} {us : BitVec 16}
    (hst : (seqOf s t).st = .waiting) (hw : (seqOf s t).wait = .wait rd m us) (hp : evp (tpOf s t) &&& m ≠ 0) :
    waitReleaseOp t s = endWait t rd (evp (tpOf s t) &&& m) s := by
  simp only [waitReleaseOp, hst, hw]
  exact if_pos hp

theorem waitTimeoutOp_of_timeout {t : Tid} {s : State} {rd : BitVec 5} {m : W64} {us : BitVec 16}
    (hst : (seqOf s t).st = .waiting) (hw : (seqOf s t).wait = .wait rd m us) (hus : us ≠ 0) :
    waitTimeoutOp t s = endWait t rd (evp (tpOf s t) &&& m) s := by
  simp only [waitTimeoutOp, hst, hw]
  exact if_neg hus

theorem barReleaseOp_of_result {t : Tid} {s : State} {rd : BitVec 5} {m : BitVec 8} {r : BitVec 2}
    (hst : (seqOf s t).st = .waiting) (hw : (seqOf s t).wait = .bar rd m) (hr : (seqOf s t).barRes = some r) :
    barReleaseOp t s = endWait t rd (r.setWidth 64) s := by
  simp [barReleaseOp, hst, hw, hr]

/-! ### WAIT at PC (R52) -/

theorem fWait_of_pending {t : Tid} {ra : BitVec 5} {s : State} (h : evp (tpOf s t) &&& greg s t ra ≠ 0) (i : FInstr)
    (rd : BitVec 5) (imm : BitVec 16) :
    fWait t i rd ra imm s = endWait t rd (evp (tpOf s t) &&& greg s t ra) (modSeq t (addCycles 1) s) :=
  (if_neg fun hc => mask_defined_of_pending h hc.1).trans (if_pos h)

theorem fWait_of_none_pending {t : Tid} {ra : BitVec 5} {imm : BitVec 16} {s : State} (h : evp (tpOf s t) &&& greg s t ra = 0)
    (hsel : greg s t ra &&& definedEvents ≠ 0 ∨ imm ≠ 0) (i : FInstr) (rd : BitVec 5) :
    fWait t i rd ra imm s = beginWait t (.wait rd (greg s t ra) imm) s :=
  (if_neg fun hc => hsel.elim (· hc.1) (· hc.2)).trans (if_neg (not_not_intro h))

theorem fWait_of_no_selection {t : Tid} {ra : BitVec 5} {imm : BitVec 16} {s : State} (h : greg s t ra &&& definedEvents = 0)
    (himm : imm = 0) (i : FInstr) (rd : BitVec 5) : fWait t i rd ra imm s = raiseExc t exIllegal (illegalEval i) s :=
  if_pos ⟨h, himm⟩

theorem runInstr_wait {t : Tid} {rd ra : BitVec 5} {imm : BitVec 16} {s : State} (h : AtInstr t (.imm .wait rd ra imm) s) :
    runInstr t (.imm .wait rd ra imm) s = fWait t (.imm .wait rd ra imm) rd ra imm s :=
  runInstr_of_atInstr h

/-- A sequencer that runs is woken at once in the cycle that its WAIT takes. -/
theorem wokenSeq_addCycles_of_running {q : Seq} (h : q.st = .running) (rd : BitVec 5) (v : W64) :
    wokenSeq rd v (addCycles 1 q)
      = { putG rd v q with pc := q.pc + 4, cycle := q.cycle + 1, wait := .none, barRes := none, wdog := 0 } := by
  unfold wokenSeq addCycles putG
  split <;> simp [h]

theorem exec_wait_of_pending {t : Tid} {rd ra : BitVec 5} {imm : BitVec 16} {s : State} (h : AtInstr t (.imm .wait rd ra imm) s)
    (hp : evp (tpOf s t) &&& greg s t ra ≠ 0) :
    exec (.wait t rd ra imm) s = .next (withSeq t { putG rd (evp (tpOf s t) &&& greg s t ra) (seqOf s t) with
      pc := (seqOf s t).pc + 4, cycle := (seqOf s t).cycle + 1, wait := .none, barRes := none, wdog := 0 } s) := by
  have hrow := seqRow_of_endWait ((runInstr_wait h).trans (fWait_of_pending hp _ _ _)) (seqOf_modSeq t (addCycles 1) s)
    (no_step_of_atInstr h)
  rw [wokenSeq_addCycles_of_running (running_of_atInstr h), modSeq_eq_withSeq, withSeq_withSeq] at hrow
  exact congrArg Host.Outcome.next hrow

theorem exec_wait_of_none_pending {t : Tid} {rd ra : BitVec 5} {imm : BitVec 16} {s : State}
    (h : AtInstr t (.imm .wait rd ra imm) s) (hp : evp (tpOf s t) &&& greg s t ra = 0)
    (hsel : greg s t ra &&& definedEvents ≠ 0 ∨ imm ≠ 0) :
    exec (.wait t rd ra imm) s
      = .next (withSeq t { seqOf s t with st := .waiting, wait := .wait rd (greg s t ra) imm, barRes := none } s) := by
  have hrun := (runInstr_wait h).trans (fWait_of_none_pending hp hsel _ _)
  have hrow : seqRow t (runInstr t (.imm .wait rd ra imm)) s = runInstr t (.imm .wait rd ra imm) s :=
    seqRow_of_active (by simp [hrun, beginWait])
  exact congrArg Host.Outcome.next (hrow.trans hrun)

theorem exec_wait_of_no_selection {t : Tid} {rd ra : BitVec 5} {imm : BitVec 16} {s : State}
    (h : AtInstr t (.imm .wait rd ra imm) s) (hh : HasHandler t s) (hm : greg s t ra &&& definedEvents = 0) (himm : imm = 0) :
    exec (.wait t rd ra imm) s = .next (entered t 1 ((fetchWord (seqOf s t)).setWidth 64) s) := by
  have hrun := (runInstr_wait h).trans (fWait_of_no_selection hm himm _ _)
  rw [illegalEval_of_fFetch (fFetch_of_atInstr h)] at hrun
  exact exec_of_raise (running_of_atInstr h) (no_step_of_atInstr h) hh (by decide) hrun

/-- Settles O16: WAIT by its three cases; each of the five rows that end a wait is `endWait`, on a state whose sequencer the port's
change has left as it was. -/
theorem waitResult : Obligations.WaitResult := by
  refine ⟨fun t rd ra imm s hat => ⟨exec_wait_of_pending hat, exec_wait_of_none_pending hat,
    fun hm himm hh => exec_wait_of_no_selection hat hh hm himm⟩, fun t s hst hs => ⟨?_, ?_, ?_, ?_, ?_⟩⟩
  · intro rt port dr hw hfree
    have hrow := seqRow_of_endWait (issueFreedOp_of_free hst hw hfree) (seqOf_enqueue _ _ _ s) hs
    exact ⟨_, congrArg Host.Outcome.next hrow, by simp [portOf_enqueue], seqOf_withSeq _ _ _⟩
  · intro rt port c r hw hc
    have hrow := seqRow_of_endWait (popArrivalOp_of_completion hst hw hc) (seqOf_popCpl _ _ s) hs
    exact ⟨_, congrArg Host.Outcome.next hrow, by simp [portOf_popCpl, hc], seqOf_withSeq _ _ _⟩
  · exact fun rd m us hw hp => congrArg Host.Outcome.next (seqRow_of_endWait (waitReleaseOp_of_pending hst hw hp) rfl hs)
  · exact fun rd m us hw hus => congrArg Host.Outcome.next (seqRow_of_endWait (waitTimeoutOp_of_timeout hst hw hus) rfl hs)
  · exact fun rd m r hw hr => congrArg Host.Outcome.next (seqRow_of_endWait (barReleaseOp_of_result hst hw hr) rfl hs)

end Sys2Proof.Machine
end

section
/-! ALLOC and RELEASE of Toybox and memory (R188-R193, R196): no operation behind either row touches memory, with the statement that a
buffer's contents survive both. RESTORE, which clears a buffer (R188), is not among these operations. -/
namespace Sys2Proof.Machine

/-! ### Errors, logs, completions and buffer records -/

@[simp] theorem raiseFld_mem (off : Nat) (f : Fld) (s : State) : (raiseFld off f s).mem = s.mem := rfl

@[simp] theorem tbxError_mem (f : Fld) (agent : Nat) (tok : W32) (s : State) : (tbxError f agent tok s).mem = s.mem := by
  simp [tbxError]

@[simp] theorem takeDesc_mem (t : Tid) (n : Nat) (k : BitVec 16) (s : State) : (takeDesc t n k s).mem = s.mem := rfl

@[simp] theorem reject_mem (t : Tid) (n : Nat) (x : Slot) (s : State) : (reject t n x s).mem = s.mem := rfl

@[simp] theorem setBuf_mem (id : Nat) (r : BufRec) (s : State) : (setBuf id r s).mem = s.mem := rfl

@[simp] theorem logFault_mem (unit : BitVec 16) (kind code win : Nat) (d : W64) (s : State) :
    (logFault unit kind code win d s).mem = s.mem := by
  unfold logFault
  split <;> rfl

/-- A request's end is a completion of the slice's port, or an entry of `given` with, for a failure, one in the fault log. -/
@[simp] theorem tbxAnswer_mem (w : Waiter) (st : BitVec 8) (v : W32) (s : State) : (tbxAnswer w st v s).mem = s.mem := by
  unfold tbxAnswer
  split
  · exact finish_mem _ 7 _ st v s
  · dsimp only
    split
    · rfl
    · rw [logFault_mem]

/-! ### Buffers given, references dropped and waiters served (R188, R191-R193) -/

@[simp] theorem giveBuffer_mem (w : Waiter) (id : Nat) (s : State) : (giveBuffer w id s).mem = s.mem := by
  simp [giveBuffer]

@[simp] theorem takeBuffer_mem (w : Waiter) (c : Nat) (s : State) : (takeBuffer w c s).mem = s.mem := by
  simp [takeBuffer]

@[simp] theorem joinWait_mem (w : Waiter) (s : State) : (joinWait w s).mem = s.mem := by
  by_cases hfull : (waitList s.tbx w.cls).length < 255
  · simp [joinWait, hfull]
  · by_cases hr : repeats w = true
    · simp [joinWait, hfull, hr]
    · simp [joinWait, hfull, hr]

@[simp] theorem dropRef_mem (agent id : Nat) (s : State) : (dropRef agent id s).mem = s.mem := by
  unfold dropRef
  dsimp only
  split
  · split <;> rfl
  · rfl

@[simp] theorem handOver_mem (c id : Nat) (s : State) : (handOver c id s).mem = s.mem := by
  unfold handOver
  split
  · split <;> simp
  · rfl

theorem serveList_mem (c : Nat) (l kept : List Waiter) (s : State) : (serveList c l kept s).mem = s.mem := by
  induction l generalizing kept s with
  | nil => rfl
  | cons w r ih =>
    unfold serveList
    split
    · rw [ih, takeBuffer_mem]
    · rw [ih]

@[simp] theorem serveWaiters_mem (c : Nat) (s : State) : (serveWaiters c s).mem = s.mem := serveList_mem c _ _ s

/-! ### The two operations -/

/-- An ALLOC ends in an answer, in the wait list, or in a buffer of its class or of a larger one. -/
@[simp] theorem tbxAllocOp_mem (w : Waiter) (s : State) : (tbxAllocOp w s).mem = s.mem := by
  unfold tbxAllocOp
  split
  · simp
  · split
    · simp
    · split
      · simp
      · split
        · split <;> simp
        · split <;> simp

/-- A RELEASE is refused in one of three ways, or drops the reference and serves those who wait. -/
@[simp] theorem tbxReleaseOp_mem (w : Waiter) (tok : W32) (s : State) : (tbxReleaseOp w tok s).mem = s.mem := by
  unfold tbxReleaseOp
  split
  · simp
  · dsimp only
    split
    · simp
    · split <;> simp

/-! ### The rows: a request granted in its turn (R190) -/

theorem onHead_mem {t : Tid} {n op nops : Nat} {f : Slot → State → State} (hf : ∀ x s, (f x s).mem = s.mem) (s : State) :
    (onHead t n op nops f s).mem = s.mem := by
  unfold onHead
  split
  · rfl
  · split
    · exact hf _ s
    · split
      · rfl
      · exact reject_mem t n _ s

theorem sliceGrant_mem {t : Tid} {f : State → State} (hf : ∀ s, (f s).mem = s.mem) (s : State) :
    (sliceGrant t f s).mem = s.mem := by
  unfold sliceGrant
  split
  · exact hf _
  · rfl

theorem tbxUnit_mem {f : State → State} (hf : ∀ s, (f s).mem = s.mem) (port agent : Nat) (tok : W32) (s : State) :
    (tbxUnit port agent tok f s).mem = s.mem := by
  unfold tbxUnit
  split
  · dsimp only
    split
    · exact hf _
    · rw [tbxAnswer_mem, tbxError_mem, tbxGrant]
  · rfl

theorem allocRow_mem (r : AllocReq) (s : State) : (allocRow r s).mem = s.mem := by
  cases r with
  | slice t =>
    refine onHead_mem (fun x => sliceGrant_mem fun u => ?_) s
    split <;> simp
  | unit p agent cls flag =>
    unfold allocRow
    dsimp only
    split
    · rfl
    · exact tbxUnit_mem (tbxAllocOp_mem _) _ _ _ s

theorem tokRow_mem {f : Waiter → W32 → State → State} (hf : ∀ w tok s, (f w tok s).mem = s.mem) (op : Nat) (r : TokReq) (s : State) :
    (tokRow op f r s).mem = s.mem := by
  cases r with
  | slice t =>
    refine onHead_mem (fun x => sliceGrant_mem fun u => ?_) s
    split
    · rw [hf, takeDesc_mem]
    · rw [reject_mem]
  | unit p agent tok =>
    unfold tokRow
    dsimp only
    split
    · rfl
    · exact tbxUnit_mem (hf _ tok) _ _ _ s

theorem exec_tbxAlloc (r : AllocReq) (s : State) : exec (.tbxAlloc r) s = .next (allocRow r s) := rfl

theorem exec_tbxRelease (r : TokReq) (s : State) : exec (.tbxRelease r) s = .next (tokRow 3 tbxReleaseOp r s) := rfl

/-- Settles O30: each row grants at most one request, and neither operation touches memory, whether it is granted, refused, waits or
serves waiters. -/
theorem contentsSurvive : Obligations.ContentsSurvive := by
  intro a r s u h
  rcases h with halloc | hrelease
  · rw [exec_tbxAlloc] at halloc
    cases halloc
    exact allocRow_mem a s
  · rw [exec_tbxRelease] at hrelease
    cases hrelease
    exact tokRow_mem tbxReleaseOp_mem 3 r s

end Sys2Proof.Machine
end

section
/-! Queue pairs and the end of host commands (R243, R247-R249, R252, R275): what posting a completion entry writes and counts, and what
the end of a command leaves behind, with the statement that completions are posted in order. -/
namespace Sys2Proof.Machine

/-! ### Writing a key twice, and parts of what was written -/

theorem cellErase_cellErase {α : Type} (k : Nat) (l : List (Nat × α)) : cellErase k (cellErase k l) = cellErase k l := by
  induction l with
  | nil => rfl
  | cons c r ih => by_cases h : c.1 = k <;> simp [cellErase, h, ih]

theorem cellErase_cellInsert {α : Type} (k : Nat) (v : α) (l : List (Nat × α)) :
    cellErase k (cellInsert k v l) = cellErase k l := by
  induction l with
  | nil => simp [cellInsert, cellErase]
  | cons c r ih =>
    by_cases hlt : k < c.1
    · simp [cellInsert, hlt, cellErase]
    · simp [cellInsert, hlt, cellErase, ih]

/-- The later write of a key is the one that counts. -/
@[simp] theorem SMap.set_set_self {α : Type} [DecidableEq α] (m : SMap α) (d : α) (k : Nat) (v w : α) :
    (m.set d k v).set d k w = m.set d k w := by
  have herase : cellErase k (m.set d k v).cells = cellErase k m.cells := by
    unfold SMap.set
    split
    · exact cellErase_cellErase k _
    · rw [cellErase_cellInsert, cellErase_cellErase]
  unfold SMap.set at herase ⊢
  rw [herase]

/-- A part of what was written reads back. -/
theorem SMap.read_write_part {α : Type} [DecidableEq α] (l : List α) (m : SMap α) (z : α) (a i n : Nat) (h : i + n ≤ l.length) :
    (m.write z a l).read z (a + i) n = (l.drop i).take n := by
  induction n generalizing i with
  | zero => simp [SMap.read]
  | succ n ih =>
    have hi : i < l.length := by omega
    rw [SMap.read, Nat.add_assoc, ih (i + 1) (by omega), SMap.get_write, if_pos (by omega), List.drop_eq_getElem_cons hi,
      List.take_succ_cons, Nat.add_sub_cancel_left, List.getD_eq_getElem _ _ hi]

/-- A little-endian field of what was written reads back. -/
theorem memLe_write {l : List Byte} {i n : Nat} (h : i + n ≤ l.length) (m : SMap Byte) (a : Nat) :
    memLe (m.write 0 a l) (a + i) n = leAt l i n :=
  congrArg leNat (SMap.read_write_part l m 0 a i n h)

/-- Numbers in little-endian bytes keep what fits into them. -/
theorem leNat_leBytes_eq_mod (n v : Nat) : leNat (leBytes n v) = v % 256 ^ n := by
  induction n generalizing v with
  | zero => simp [leBytes, leNat, Nat.mod_one]
  | succ n ih => rw [leBytes, leNat, ih, BitVec.toNat_ofNat, Nat.pow_succ' (n := n), Nat.mod_mul]

theorem leNat_leBytes_toNat {w : Nat} (n : Nat) (x : BitVec w) (h : 256 ^ n = 2 ^ w) : leNat (leBytes n x.toNat) = x.toNat := by
  rw [leNat_leBytes_eq_mod, h, Nat.mod_eq_of_lt x.isLt]

/-! ### Changing one queue pair -/

@[simp] theorem queueOf_modQueue (n : Nat) (f : Queue → Queue) (s : State) : queueOf (modQueue n f s) n = f (queueOf s n) :=
  SMap.get_set_self _ _ _ _

theorem queueOf_modQueue_ne {n m : Nat} (h : m ≠ n) (f : Queue → Queue) (s : State) : queueOf (modQueue n f s) m = queueOf s m :=
  (SMap.get_set _ _ _ _ _).trans (if_neg h)

/-- Two changes of a queue pair are one. -/
@[simp] theorem modQueue_modQueue (n : Nat) (f g : Queue → Queue) (s : State) :
    modQueue n g (modQueue n f s) = modQueue n (fun q => g (f q)) s := by
  rw [modQueue, queueOf_modQueue]
  simp [modQueue]

/-- Signalling goes together with the change of the pair before it (R249). -/
theorem signalQueue_modQueue (n : Nat) (f : Queue → Queue) (s : State) :
    signalQueue n (modQueue n f s) = modQueue n (fun q => { f q with unsig := 0, timing := false })
      { s with hif := { s.hif with msix := fld s (Reg.hifQcfg n) Fld.hifQcfgVector :: s.hif.msix } } :=
  modQueue_modQueue n f _ { s with hif := { s.hif with msix := fld s (Reg.hifQcfg n) Fld.hifQcfgVector :: s.hif.msix } }

/-! ### Posting a completion entry (R247, R249) -/

/-- Where the next completion entry of queue n stands (R247). -/
def entryAddr (s : State) (n : Nat) : Nat := pair s (Reg.hifCqbase n 0) (Reg.hifCqbase n 1) + 16 * (queueOf s n).cqTail

/-- The address follows the tail, not the ready completions. -/
theorem entryAddr_modQueue_ready (n : Nat) (l : List Cpl) (s : State) :
    entryAddr (modQueue n (fun q => { q with ready := l }) s) n = entryAddr s n := by
  rw [entryAddr, queueOf_modQueue]
  rfl

/-- The completion entry of queue n with pair state q (R247). -/
def entryBytes (n : Nat) (q : Queue) (code : BitVec 16) (st : BitVec 8) (result : W64) : List Byte :=
  leBytes 2 code.toNat ++ leBytes 2 n ++ leBytes 2 q.head ++ [st] ++ leBytes 1 q.phase.toNat ++ leBytes 8 result.toNat

/-- Whether the next completion entry of queue n is the last of its ring (R247). -/
def atRingEnd (s : State) (n : Nat) : Bool := decide (cqEntries s n ≤ (queueOf s n).cqTail + 1)

/-- A queue pair behind an entry posted at its tail, the last of the ring or not: index and phase advance, and one more entry is in
use, with the tag it holds (R247, R252). -/
def postedQueue (wrap : Bool) (holds : Option (BitVec 16)) (q : Queue) : Queue :=
  { q with
    cqTail := if wrap then 0 else q.cqTail + 1, phase := if wrap then !q.phase else q.phase
    cqUsed := q.cqUsed + 1, tags := q.tags ++ [holds] }

/-- Count a posted entry for the interrupt of queue n (R249). -/
def countForInterrupt (n : Nat) (s : State) : State :=
  if fld s (Reg.hifQcfg n) Fld.hifQcfgIen = 1 then
    let u := modQueue n (fun q => { q with unsig := q.unsig + 1, timing := true }) s
    if fld u (Reg.hifQcoal n) Fld.hifQcoalCount = 0 ∨ fld u (Reg.hifQcoal n) Fld.hifQcoalCount ≤ (queueOf u n).unsig then
      signalQueue n u
    else u
  else s

/-- The interrupt changes the coalescing count and timer and the vectors signalled, nothing else (R249). -/
theorem countForInterrupt_modQueue (n : Nat) (f : Queue → Queue) (s : State) :
    ∃ (k : Nat) (b : Bool) (l : List Nat), countForInterrupt n (modQueue n f s)
      = modQueue n (fun q => { f q with unsig := k, timing := b }) { s with hif := { s.hif with msix := l } } := by
  unfold countForInterrupt
  dsimp only
  rw [modQueue_modQueue]
  split
  · split
    · exact ⟨0, false, _, signalQueue_modQueue n _ s⟩
    · exact ⟨(f (queueOf s n)).unsig + 1, true, s.hif.msix, rfl⟩
  · exact ⟨(f (queueOf s n)).unsig, (f (queueOf s n)).timing, s.hif.msix, rfl⟩

section
variable (n : Nat) (code : BitVec 16) (holds : Option (BitVec 16)) (st : BitVec 8) (result : W64) (s : State)

/-- Posting an entry writes its bytes and changes the queue pair; beyond the pair, the interrupt reaches the signalled vectors. -/
theorem postEntry_eq : ∃ (k : Nat) (b : Bool) (l : List Nat), postEntry n code holds st result s
    = modQueue n (fun q => { postedQueue (atRingEnd s n) holds q with unsig := k, timing := b })
      { hostWrite (entryAddr s n) (entryBytes n (queueOf s n) code st result) s with hif := { s.hif with msix := l } } :=
  countForInterrupt_modQueue n (postedQueue (atRingEnd s n) holds)
    (hostWrite (entryAddr s n) (entryBytes n (queueOf s n) code st result) s)

theorem postEntry_queue : ∃ (k : Nat) (b : Bool), queueOf (postEntry n code holds st result s) n
    = { postedQueue (atRingEnd s n) holds (queueOf s n) with unsig := k, timing := b } := by
  obtain ⟨k, b, l, h⟩ := postEntry_eq n code holds st result s
  exact ⟨k, b, by rw [h, queueOf_modQueue]; rfl⟩

theorem postEntry_queue_ne {m : Nat} (hm : m ≠ n) : queueOf (postEntry n code holds st result s) m = queueOf s m := by
  obtain ⟨k, b, l, h⟩ := postEntry_eq n code holds st result s
  rw [h, queueOf_modQueue_ne hm]
  rfl

theorem postEntry_hostMem : (postEntry n code holds st result s).hostMem
    = s.hostMem.write 0 (entryAddr s n) (entryBytes n (queueOf s n) code st result) := by
  obtain ⟨k, b, l, h⟩ := postEntry_eq n code holds st result s
  rw [h]
  rfl

@[simp] theorem postEntry_tp : (postEntry n code holds st result s).tp = s.tp := by
  obtain ⟨k, b, l, h⟩ := postEntry_eq n code holds st result s
  rw [h]
  rfl

@[simp] theorem postEntry_mem : (postEntry n code holds st result s).mem = s.mem := by
  obtain ⟨k, b, l, h⟩ := postEntry_eq n code holds st result s
  rw [h]
  rfl

@[simp] theorem postEntry_cmds : (postEntry n code holds st result s).hif.cmds = s.hif.cmds := by
  obtain ⟨k, b, l, h⟩ := postEntry_eq n code holds st result s
  rw [h]
  rfl

end

/-! ### COMPLETION_POST (R248) -/

theorem exec_completionPost (q : Fin 1024) (s : State) :
    exec (.completionPost q) s = .next (settleHost (completionPost q.val s)) := rfl

theorem completionPost_of_none_ready {n : Nat} {s : State} (h : (queueOf s n).ready = []) : completionPost n s = s := by
  simp [completionPost, h]

theorem completionPost_of_full {n : Nat} {s : State} {c : Cpl} {l : List Cpl} (h : (queueOf s n).ready = c :: l)
    (hroom : cqRoom s n = false) : completionPost n s = s := by
  simp [completionPost, h, hroom]

theorem completionPost_of_room {n : Nat} {s : State} {c : Cpl} {l : List Cpl} (h : (queueOf s n).ready = c :: l)
    (hroom : cqRoom s n = true) :
    completionPost n s = settleHost (postEntry n c.tag (if c.own then some c.tag else none) c.status c.result
      (modQueue n (fun q => { q with ready := l }) s)) := by
  simp [completionPost, h, hroom]

/-- A completion entry written at a: 16 bytes, each field at its place (R247). -/
theorem write_entryBytes (n : Nat) (q : Queue) (code : BitVec 16) (st : BitVec 8) (result : W64) (m : SMap Byte) (a : Nat) :
    (∀ k, (k < a ∨ a + 16 ≤ k) → (m.write 0 a (entryBytes n q code st result)).get 0 k = m.get 0 k)
      ∧ (m.write 0 a (entryBytes n q code st result)).get 0 (a + 6) = st
      ∧ (m.write 0 a (entryBytes n q code st result)).get 0 (a + 7) = BitVec.ofNat 8 q.phase.toNat
      ∧ memLe (m.write 0 a (entryBytes n q code st result)) a 2 = code.toNat
      ∧ memLe (m.write 0 a (entryBytes n q code st result)) (a + 8) 8 = result.toNat := by
  have hlen : (entryBytes n q code st result).length = 16 := rfl
  refine ⟨fun k hk => ?_, ?_, ?_, ?_, ?_⟩
  · rw [SMap.get_write, hlen, if_neg (by omega)]
  · rw [SMap.get_write, hlen, if_pos (by omega), Nat.add_sub_cancel_left]
    rfl
  · rw [SMap.get_write, hlen, if_pos (by omega), Nat.add_sub_cancel_left]
    rfl
  · exact (memLe_write (i := 0) (by simp [hlen]) m a).trans (leNat_leBytes_toNat 2 code rfl)
  · exact (memLe_write (by rw [hlen]) m a).trans (leNat_leBytes_toNat 8 result rfl)

/-! ### The end of a command (R243, R252, R275) -/

/-- Command tag is outstanding no longer (R252). -/
def dropCmd (tag : BitVec 16) (s : State) : State :=
  { s with hif := { s.hif with cmds := s.hif.cmds.filter (fun x => x.e.tag != tag) } }

/-- A status other than OK enters log page 0x01 (R275). -/
def logEnd (c : Cmd) (st : BitVec 8) (off : Nat) (s : State) : State :=
  if st = stOk then s else logCommandError c.queue c.e st off s

/-- The completion of command c becomes ready, unless its queue is gone (R243, R248). -/
def answer (c : Cmd) (x : Cpl) (s : State) : State := if c.dead then s else makeReady c.queue x s

theorem endCmd_of_cmdOf {tag : BitVec 16} {c : Cmd} {s : State} (h : cmdOf s tag = some c) (st : BitVec 8) (res : W64) (off : Nat) :
    endCmd tag st res off s = answer c ⟨tag, st, res, true⟩ (logEnd c st off (dropCmd tag s)) := by
  simp only [endCmd, h]
  rfl

theorem mem_dropCmd {tag : BitVec 16} {s : State} {k : Cmd} :
    k ∈ (dropCmd tag s).hif.cmds ↔ k ∈ s.hif.cmds ∧ k.e.tag ≠ tag := by
  simp [dropCmd]

@[simp] theorem logEnd_cmds (c : Cmd) (st : BitVec 8) (off : Nat) (s : State) : (logEnd c st off s).hif.cmds = s.hif.cmds := by
  unfold logEnd
  split <;> rfl

@[simp] theorem queueOf_logEnd (c : Cmd) (st : BitVec 8) (off : Nat) (s : State) (n : Nat) :
    queueOf (logEnd c st off s) n = queueOf s n := by
  unfold logEnd
  split <;> rfl

@[simp] theorem queueOf_dropCmd (tag : BitVec 16) (s : State) (n : Nat) : queueOf (dropCmd tag s) n = queueOf s n := rfl

@[simp] theorem answer_cmds (c : Cmd) (x : Cpl) (s : State) : (answer c x s).hif.cmds = s.hif.cmds := by
  unfold answer
  split <;> rfl

@[simp] theorem answer_errs (c : Cmd) (x : Cpl) (s : State) : (answer c x s).hif.errs = s.hif.errs := by
  unfold answer
  split <;> rfl

/-- The answer is the latest ready completion of the command's queue, or there is none (R243, R248). -/
theorem answer_ready (c : Cmd) (x : Cpl) (s : State) :
    (queueOf (answer c x s) c.queue).ready = (queueOf s c.queue).ready ++ (if c.dead then [] else [x]) := by
  unfold answer makeReady
  split <;> simp

theorem queueOf_answer_ne {c : Cmd} {n : Nat} (h : n ≠ c.queue) (x : Cpl) (s : State) :
    queueOf (answer c x s) n = queueOf s n := by
  unfold answer
  split
  · rfl
  · exact queueOf_modQueue_ne h _ s

/-- The end of a command changes the state of the host interface alone. -/
theorem endCmd_hif_only (tag : BitVec 16) (st : BitVec 8) (res : W64) (off : Nat) (s : State) :
    endCmd tag st res off s = { s with hif := (endCmd tag st res off s).hif } := by
  cases h : cmdOf s tag with
  | none => simp [endCmd, h]
  | some c =>
    rw [endCmd_of_cmdOf h]
    unfold answer logEnd
    split <;> split <;> rfl

/-- The entry that a failed command leaves in log page 0x01 (R275). -/
theorem logEnd_errs {st : BitVec 8} (h : st ≠ 0) (c : Cmd) (off : Nat) (s : State) :
    ∃ x, (logEnd c st off s).hif.errs = (x :: s.hif.errs).take 256 ∧ leAt x 8 2 = c.queue % 65536 ∧ leAt x 10 2 = c.e.tag.toNat
      ∧ leAt x 12 1 = c.e.opc.toNat ∧ leAt x 13 1 = st.toNat ∧ leAt x 14 2 = off % 65536 := by
  rw [logEnd, if_neg h]
  exact ⟨_, rfl, leNat_leBytes_eq_mod 2 _, leNat_leBytes_toNat 2 _ rfl, rfl, rfl, leNat_leBytes_eq_mod 2 _⟩

/-- Settles O45: the entry goes to the tail of the queue, whose pair state the interrupt only marks; a command's end is the drop of
the command, the log and the answer, of which only the last touches its queue. -/
theorem completionsPosted : Obligations.CompletionsPosted := by
  refine ⟨fun q c l s => ?_, fun tag st res off c s h => ?_⟩
  · rw [exec_completionPost]
    refine ⟨fun hr => by rw [completionPost_of_none_ready hr], fun hr hroom => by rw [completionPost_of_full hr hroom],
      fun hr hroom => ⟨_, by rw [completionPost_of_room hr hroom], ?_⟩⟩
    obtain ⟨k, b, hq⟩ := postEntry_queue q.val c.tag (if c.own then some c.tag else none) c.status c.result
      (modQueue q.val (fun x => { x with ready := l }) s)
    rw [hq, postEntry_hostMem, entryAddr_modQueue_ready, queueOf_modQueue, postEntry_tp, postEntry_mem, postEntry_cmds]
    refine ⟨rfl, rfl, rfl, rfl, rfl, rfl, fun n hn => ?_, write_entryBytes q.val _ c.tag c.status c.result s.hostMem _⟩
    rw [postEntry_queue_ne _ _ _ _ _ _ hn, queueOf_modQueue_ne hn]
  · have honly := endCmd_hif_only tag st res off s
    refine ⟨fun k => ?_, ?_, fun n hn => ?_, fun hst => ?_, fun hst => ?_,
      by rw [honly], by rw [honly], by rw [honly]⟩ <;> rw [endCmd_of_cmdOf h]
    · rw [answer_cmds, logEnd_cmds]
      exact mem_dropCmd
    · rw [answer_ready, queueOf_logEnd, queueOf_dropCmd]
    · rw [queueOf_answer_ne hn, queueOf_logEnd, queueOf_dropCmd]
    · rw [answer_errs, logEnd, if_pos hst]
      rfl
    · rw [answer_errs]
      exact logEnd_errs hst c off (dropCmd tag s)

end Sys2Proof.Machine
end

section
/-! What no command but FUSE_KEY and REVOKE_KEY touches (R319): the fuses, and with them the waiting commands, as one value `kept`
of the state. For each operation of the model that answers a state there is one rule: `kept` of the answer is `kept` of what it took. A
rule unfolds its own operation, splits its branches and cites the rules of the operations called there. The simp lists are written
out, and no rule is a definitional step: either way round, simp or the kernel would go into the updated records of the state. -/
namespace Sys2Proof.Machine

/-- The parts of the state that the meaning of no command touches, the two fuse rows aside: the commands that wait, the fused key
slots and the revoke fuses. -/
structure Kept where
  pending : List Instr
  fuses : SMap (BitVec 384)
  revoked : BitVec 8

def kept (s : State) : Kept := ⟨s.pending, s.fuses, s.revoked⟩

theorem kept_eq {s u : State} (hpending : u.pending = s.pending) (hfuses : u.fuses = s.fuses) (hrevoked : u.revoked = s.revoked) :
    kept u = kept s := by
  rw [kept, kept, hpending, hfuses, hrevoked]

/-- Of a record update of the state, three fields count; `mk_kept` finds the state it began from. -/
theorem kept_mk (pending freeCtr clk boot tp mrn tbx codec hif pwr cache mem flt tel regs pairLatch pairHeld readData capTrig caps
    hostMem fuses revoked hbmStacks fstep rstep ccMode bif0 bif1 provision rstCause images bootGood) :
    kept ⟨pending, freeCtr, clk, boot, tp, mrn, tbx, codec, hif, pwr, cache, mem, flt, tel, regs, pairLatch, pairHeld, readData,
      capTrig, caps, hostMem, fuses, revoked, hbmStacks, fstep, rstep, ccMode, bif0, bif1, provision, rstCause, images, bootGood⟩
      = ⟨pending, fuses, revoked⟩ := (rfl)

theorem mk_kept (s : State) : Kept.mk s.pending s.fuses s.revoked = kept s := (rfl)

@[simp] theorem kept_ite {c : Prop} [Decidable c] (a b : State) : kept (if c then a else b) = if c then kept a else kept b :=
  apply_ite kept c a b

@[simp] theorem kept_forAll {α : Type} (l : List α) {f : α → State → State} (h : ∀ a s, kept (f a s) = kept s) (s : State) :
    kept (forAll l f s) = kept s := forAll_keeps h l s

/-- What every step of a fold leaves alone, the whole leaves alone. -/
theorem foldl_keeps {α β γ : Type} {g : β → γ} {f : β → α → β} (h : ∀ b a, g (f b a) = g b) (l : List α) (b : β) :
    g (l.foldl f b) = g b := by
  induction l generalizing b with
  | nil => rfl
  | cons a l ih => exact (ih (f b a)).trans (h b a)

theorem forall_mem_ite {α : Type} {P : α → Prop} {c : Prop} [Decidable c] {a b : Option α} (ha : ∀ x ∈ a, P x)
    (hb : ∀ x ∈ b, P x) : ∀ x ∈ (if c then a else b), P x := by
  split
  · exact ha
  · exact hb

end Sys2Proof.Machine
end

section
/-! The operations that every block uses leave the fuses and the waiting commands alone: registers, ports,
Toybox, queues, motion, the read channel, faults and buffers. -/
namespace Sys2Proof.Machine

/-! ### Registers, slices and ports -/

@[simp] theorem kept_setReg (off v s) : kept (setReg off v s) = kept s := kept_eq rfl rfl rfl
@[simp] theorem kept_setFld (off f x s) : kept (setFld off f x s) = kept s := by simp only [setFld, kept_setReg]
@[simp] theorem kept_raiseFld (off f s) : kept (raiseFld off f s) = kept s := by simp only [raiseFld, kept_setFld]
@[simp] theorem kept_bumpFld (off f s) : kept (bumpFld off f s) = kept s := by simp only [bumpFld, kept_setFld]
@[simp] theorem kept_bumpFldBy (off f n s) : kept (bumpFldBy off f n s) = kept s := by simp only [bumpFldBy, kept_setFld]
@[simp] theorem kept_setPair (lo hi v s) : kept (setPair lo hi v s) = kept s := by simp only [setPair, kept_setReg]
@[simp] theorem kept_takeFree (s) : kept (takeFree s).2 = kept s := kept_eq rfl rfl rfl
@[simp] theorem kept_modTp (t f s) : kept (modTp t f s) = kept s := kept_eq rfl rfl rfl
@[simp] theorem kept_modPort (t n f s) : kept (modPort t n f s) = kept s := by simp only [modPort, kept_modTp]

@[simp] theorem kept_finish (t n ticket st val s) : kept (finish t n ticket st val s) = kept s := by
  simp only [finish, kept_modTp]

@[simp] theorem kept_takeDesc (t n ticket s) : kept (takeDesc t n ticket s) = kept s := by simp only [takeDesc, kept_modPort]
@[simp] theorem kept_reject (t n x s) : kept (reject t n x s) = kept s := by simp only [reject, kept_finish]

@[simp] theorem kept_onHead (t n op nops f s) (h : ∀ a s, kept (f a s) = kept s) : kept (onHead t n op nops f s) = kept s := by
  unfold onHead
  split <;> simp only [kept_ite, ite_self, h, kept_reject]

@[simp] theorem kept_logFault (unit kind code win detail s) : kept (logFault unit kind code win detail s) = kept s := by
  simp only [logFault, kept_mk, mk_kept, kept_ite, ite_self, kept_raiseFld]

@[simp] theorem kept_logIgnored (unit code s) : kept (logIgnored unit code s) = kept s := by simp only [logIgnored, kept_logFault]
@[simp] theorem kept_logAccess (off s) : kept (logAccess off s) = kept s := kept_eq rfl rfl rfl

/-! ### Events and error flags -/

@[simp] theorem kept_setEvent (t n s) : kept (setEvent t n s) = kept s := by simp only [setEvent, kept_modTp]

@[simp] theorem kept_setEvents (l n s) : kept (setEvents l n s) = kept s := by
  simp only [setEvents, implies_true, kept_forAll, kept_setEvent]

@[simp] theorem kept_cdcEvent (f lane s) : kept (cdcEvent f lane s) = kept s := by
  unfold cdcEvent
  split <;> simp only [kept_bumpFld, kept_raiseFld, kept_setFld]

/-! ### Toybox -/

@[simp] theorem kept_setBuf (id r s) : kept (setBuf id r s) = kept s := kept_eq rfl rfl rfl

@[simp] theorem kept_tbxError (f agent tok s) : kept (tbxError f agent tok s) = kept s := by
  simp only [tbxError, kept_setReg, kept_setFld, kept_bumpFld, kept_raiseFld]

@[simp] theorem kept_tbxAnswer (w st val s) : kept (tbxAnswer w st val s) = kept s := by
  unfold tbxAnswer
  split <;> simp only [kept_mk, mk_kept, kept_ite, ite_self, kept_finish, kept_logFault]

@[simp] theorem kept_giveBuffer (w id s) : kept (giveBuffer w id s) = kept s := by
  simp only [giveBuffer, kept_setBuf, kept_tbxAnswer]

@[simp] theorem kept_takeBuffer (w c s) : kept (takeBuffer w c s) = kept s := by
  simp only [takeBuffer, kept_mk, mk_kept, kept_giveBuffer]

@[simp] theorem kept_serveList (c l passed s) : kept (serveList c l passed s) = kept s := by
  induction l generalizing passed s with
  | nil => exact kept_eq rfl rfl rfl
  | cons w l ih => simp only [serveList, kept_ite, ih, kept_takeBuffer, ite_self]

@[simp] theorem kept_serveWaiters (c s) : kept (serveWaiters c s) = kept s := by simp only [serveWaiters, kept_serveList]
@[simp] theorem kept_serveAll (s) : kept (serveAll s) = kept s := by simp only [serveAll, kept_serveWaiters]

@[simp] theorem kept_joinWait (w s) : kept (joinWait w s) = kept s := by
  simp only [joinWait, kept_mk, mk_kept, kept_ite, ite_self, kept_tbxAnswer, kept_tbxError]

@[simp] theorem kept_tbxAllocOp (w s) : kept (tbxAllocOp w s) = kept s := by
  simp only [tbxAllocOp, kept_ite, ite_self, kept_tbxAnswer, kept_tbxError, kept_joinWait, kept_takeBuffer]
  (repeat' split) <;> simp only [kept_tbxAnswer, kept_takeBuffer, kept_bumpFld]

@[simp] theorem kept_tbxAddrefOp (w tok s) : kept (tbxAddrefOp w tok s) = kept s := by
  unfold tbxAddrefOp
  split <;> simp only [kept_ite, ite_self, kept_tbxAnswer, kept_tbxError, kept_setBuf]

@[simp] theorem kept_dropRef (agent id s) : kept (dropRef agent id s) = kept s := by
  simp only [dropRef, kept_ite, ite_self, kept_setBuf]

@[simp] theorem kept_handOver (c id s) : kept (handOver c id s) = kept s := by
  simp only [handOver, kept_ite]
  (repeat' split) <;> simp only [kept_mk, mk_kept, kept_giveBuffer]

@[simp] theorem kept_tbxReleaseOp (w tok s) : kept (tbxReleaseOp w tok s) = kept s := by
  unfold tbxReleaseOp
  split <;> simp only [kept_ite, ite_self, kept_tbxAnswer, kept_tbxError, kept_serveWaiters, kept_handOver, kept_dropRef]

@[simp] theorem kept_takeAnswer (old s) : kept (takeAnswer old s) = kept s := kept_eq rfl rfl rfl

@[simp] theorem kept_releaseFor (port agent tok s) : kept (releaseFor port agent tok s) = kept s := by
  simp only [releaseFor, kept_takeAnswer, kept_tbxReleaseOp]

@[simp] theorem kept_addrefFor (port agent tok s) : kept (addrefFor port agent tok s) = kept s := by
  simp only [addrefFor, kept_takeAnswer, kept_tbxAddrefOp]

@[simp] theorem kept_allocFor (port agent cls flag s) : kept (allocFor port agent cls flag s).2 = kept s := by
  unfold allocFor
  dsimp only
  (repeat' split) <;> simp only [kept_mk, mk_kept, kept_tbxAllocOp]

@[simp] theorem kept_cleanLines (a n s) : kept (cleanLines a n s) = kept s := kept_eq rfl rfl rfl
@[simp] theorem kept_quarantineBuf (id s) : kept (quarantineBuf id s) = kept s := by simp only [quarantineBuf, kept_setBuf]

@[simp] theorem kept_restoreBuf (id c s) : kept (restoreBuf id c s) = kept s := by
  simp only [restoreBuf, kept_mk, mk_kept, kept_cleanLines, kept_serveWaiters, kept_handOver, kept_setBuf]

@[simp] theorem kept_retireGroup (g s) : kept (retireGroup g s) = kept s := by
  simp only [retireGroup, kept_mk, mk_kept, kept_ite, ite_self, implies_true, kept_setReg, kept_forAll, kept_setFld]

@[simp] theorem kept_tbxGrant (port s) : kept (tbxGrant port s) = kept s := kept_eq rfl rfl rfl

@[simp] theorem kept_sliceGrant (t f s) (h : ∀ s, kept (f s) = kept s) : kept (sliceGrant t f s) = kept s := by
  simp only [sliceGrant, kept_mk, mk_kept, kept_ite, ite_self, h]

@[simp] theorem kept_tbxUnit (port agent tok f s) (h : ∀ s, kept (f s) = kept s) :
    kept (tbxUnit port agent tok f s) = kept s := by
  simp only [tbxUnit, kept_ite, ite_self, h, kept_tbxGrant, kept_tbxAnswer, kept_tbxError]

@[simp] theorem kept_allocRow (r s) : kept (allocRow r s) = kept s := by
  unfold allocRow
  split <;> simp only [kept_ite, ite_self, implies_true, kept_onHead, kept_sliceGrant, kept_tbxAllocOp, kept_takeDesc,
    kept_reject, kept_tbxError, kept_tbxUnit]

@[simp] theorem kept_tokRow (op f r s) (h : ∀ a b s, kept (f a b s) = kept s) : kept (tokRow op f r s) = kept s := by
  unfold tokRow
  split <;> simp only [kept_ite, ite_self, implies_true, h, kept_onHead, kept_sliceGrant, kept_takeDesc, kept_reject,
    kept_tbxUnit]

@[simp] theorem kept_agent3 (agent tok f s) (h : ∀ s, kept (f s) = kept s) : kept (agent3 agent tok f s) = kept s := by
  simp only [agent3, kept_ite, ite_self, h, kept_tbxGrant, kept_tbxAnswer, kept_tbxError]

@[simp] theorem kept_answer3 (st s) : kept (answer3 st s) = kept s := by simp only [answer3, kept_tbxAnswer]

@[simp] theorem kept_quarantineRow (agent id s) : kept (quarantineRow agent id s) = kept s := by
  refine kept_agent3 _ _ _ s fun s => ?_
  split <;> simp only [kept_answer3, kept_tbxError, kept_quarantineBuf]

@[simp] theorem kept_restoreRow (agent id s) : kept (restoreRow agent id s) = kept s := by
  refine kept_agent3 _ _ _ s fun s => ?_
  split <;> simp only [kept_ite, kept_answer3, kept_tbxError, kept_restoreBuf, ite_self]

@[simp] theorem kept_retiregrpRow (agent g s) : kept (retiregrpRow agent g s) = kept s := by
  simp only [retiregrpRow, kept_ite, ite_self, implies_true, kept_agent3, kept_answer3, kept_retireGroup, kept_tbxError]

@[simp] theorem kept_allocRetryRow (s) : kept (allocRetryRow s) = kept s := by
  unfold allocRetryRow
  split <;> simp only [kept_mk, mk_kept, kept_ite, ite_self, kept_tbxAllocOp, kept_tbxGrant]

@[simp] theorem kept_clearWaiters (c s) : kept (clearWaiters c s) = kept s := by
  simp only [clearWaiters, kept_mk, mk_kept, implies_true, kept_forAll, kept_tbxAnswer]

@[simp] theorem kept_waitclrOp (classes s) : kept (waitclrOp classes s) = kept s := by
  simp only [waitclrOp, implies_true, kept_forAll, kept_clearWaiters]

@[simp] theorem kept_inspidOp (id s) : kept (inspidOp id s) = kept s := by
  unfold inspidOp
  split <;> simp only [kept_mk, mk_kept, kept_logAccess]

/-! ### Queues, completions and records of streams -/

@[simp] theorem kept_modQueue (n f s) : kept (modQueue n f s) = kept s := kept_eq rfl rfl rfl

@[simp] theorem kept_hifError (f q s) : kept (hifError f q s) = kept s := by
  simp only [hifError, kept_setFld, kept_bumpFld, kept_raiseFld]

@[simp] theorem kept_hostWrite (a l s) : kept (hostWrite a l s) = kept s := kept_eq rfl rfl rfl

@[simp] theorem kept_signalQueue (n s) : kept (signalQueue n s) = kept s := by
  simp only [signalQueue, kept_mk, mk_kept, kept_modQueue]

@[simp] theorem kept_postEntry (n code holds st result s) : kept (postEntry n code holds st result s) = kept s := by
  simp only [postEntry, kept_ite, ite_self, kept_hostWrite, kept_modQueue, kept_signalQueue]

@[simp] theorem kept_makeReady (n c s) : kept (makeReady n c s) = kept s := by simp only [makeReady, kept_modQueue]
@[simp] theorem kept_logCommandError (n e st off s) : kept (logCommandError n e st off s) = kept s := kept_eq rfl rfl rfl
@[simp] theorem kept_modCmd (tag f s) : kept (modCmd tag f s) = kept s := kept_eq rfl rfl rfl

@[simp] theorem kept_endCmd (tag st result off s) : kept (endCmd tag st result off s) = kept s := by
  unfold endCmd
  split <;> simp only [kept_mk, mk_kept, kept_ite, ite_self, kept_logCommandError, kept_makeReady]

@[simp] theorem kept_notice (code s) : kept (notice code s) = kept s := by
  simp only [notice, kept_mk, mk_kept, kept_ite, ite_self, kept_raiseFld]

@[simp] theorem kept_writePieces (l ps s) : kept (writePieces l ps s) = kept s := by
  induction ps generalizing l s with
  | nil => rfl
  | cons p ps ih => rw [writePieces, ih, kept_hostWrite]

@[simp] theorem kept_setStream (scid x s) : kept (setStream scid x s) = kept s := kept_eq rfl rfl rfl

@[simp] theorem kept_modStream (scid f s) : kept (modStream scid f s) = kept s := by
  unfold modStream
  split <;> simp only [kept_setStream]

@[simp] theorem kept_modRec (scid seq f s) : kept (modRec scid seq f s) = kept s := by simp only [modRec, kept_modStream]
@[simp] theorem kept_creditLedger (t n s) : kept (creditLedger t n s) = kept s := kept_eq rfl rfl rfl
@[simp] theorem kept_debitLedger (t n s) : kept (debitLedger t n s) = kept s := kept_eq rfl rfl rfl

@[simp] theorem kept_releaseBufs (r s) : kept (releaseBufs r s) = kept s := by
  simp only [releaseBufs, implies_true, kept_forAll, kept_releaseFor]

@[simp] theorem kept_dropInput (scid seq s) : kept (dropInput scid seq s) = kept s := by
  unfold dropInput
  split <;> simp only [kept_ite, ite_self, kept_modRec, kept_releaseBufs]

@[simp] theorem kept_sealRec (scid seq s) : kept (sealRec scid seq s) = kept s := by
  unfold sealRec
  dsimp only
  (repeat' split) <;> simp only [kept_dropInput, kept_modRec, kept_modStream]

@[simp] theorem kept_placeBytes (scid seq dsnum n whole s) : kept (placeBytes scid seq dsnum n whole s) = kept s := by
  simp only [placeBytes, kept_dropInput, kept_modRec]

@[simp] theorem kept_verifyShare (t dsnum ref s) : kept (verifyShare t dsnum ref s) = kept s := by
  unfold verifyShare
  dsimp only
  (repeat' split) <;> simp only [kept_creditLedger, kept_modRec]

@[simp] theorem kept_verifyDataset (t dsnum refs s) : kept (verifyDataset t dsnum refs s) = kept s := by
  simp only [verifyDataset, implies_true, kept_forAll, kept_verifyShare]

@[simp] theorem kept_indexRec (scid seq s) : kept (indexRec scid seq s) = kept s := by simp only [indexRec, kept_modRec]

@[simp] theorem kept_reportUnverified (t cause scid s) : kept (reportUnverified t cause scid s) = kept s := by
  unfold reportUnverified
  split <;> simp only [kept_mk, mk_kept, kept_ite, ite_self, kept_modStream, kept_notice]

@[simp] theorem kept_endUnverified (t c s) : kept (endUnverified t c s) = kept s := by
  unfold endUnverified
  split <;> simp only [kept_ite, ite_self, kept_endCmd]

@[simp] theorem kept_dropWrites (t cause s) : kept (dropWrites t cause s) = kept s := by
  simp only [dropWrites, implies_true, kept_forAll, kept_endUnverified, kept_reportUnverified]

@[simp] theorem kept_writeDisable (t cause s) : kept (writeDisable t cause s) = kept s := by
  simp only [writeDisable, kept_ite, ite_self, kept_notice, kept_dropWrites, kept_modTp]

/-! ### Stops and the ends of motion -/

@[simp] theorem kept_modMot (t f s) : kept (modMot t f s) = kept s := by simp only [modMot, kept_modTp]
@[simp] theorem kept_modLoop (l f s) : kept (modLoop l f s) = kept s := by simp only [modLoop, kept_modTp]
@[simp] theorem kept_startPending (t s) : kept (startPending t s) = kept s := by simp only [startPending, kept_modTp]
@[simp] theorem kept_entryMode (t write s) : kept (entryMode t write s) = kept s := by simp only [entryMode, kept_setFld]

@[simp] theorem kept_startAtEntry (t write s) : kept (startAtEntry t write s) = kept s := by
  simp only [startAtEntry, kept_ite, ite_self, kept_entryMode, kept_startPending, kept_modTp]

@[simp] theorem kept_haltMode (t s) : kept (haltMode t s) = kept s := by
  unfold haltMode
  split <;> simp only [kept_ite, ite_self, kept_entryMode]

@[simp] theorem kept_endHostLocate (c st s) : kept (endHostLocate c st s) = kept s := by
  unfold endHostLocate
  dsimp only
  (repeat' split) <;> simp only [kept_modStream, kept_endCmd]

@[simp] theorem kept_nextPup (t s) : kept (nextPup t s) = kept s := by simp only [nextPup, kept_modTp]

@[simp] theorem kept_endMotion (t st val s) : kept (endMotion t st val s) = kept s := by
  unfold endMotion
  dsimp only
  (repeat' split) <;> simp only [kept_modMot, kept_finish, kept_nextPup, kept_endHostLocate]

@[simp] theorem kept_goArmed (t s) : kept (goArmed t s) = kept s := by simp only [goArmed, kept_modMot]

@[simp] theorem kept_beginStop (t ticket s) : kept (beginStop t ticket s) = kept s := by
  simp only [beginStop, kept_ite, ite_self, kept_modMot, kept_modTp, kept_endMotion]

@[simp] theorem kept_commandStop (t s) : kept (commandStop t s) = kept s := by simp only [commandStop, kept_nextPup, kept_modMot]
@[simp] theorem kept_dropMotion (t s) : kept (dropMotion t s) = kept s := by simp only [dropMotion, kept_endMotion]

@[simp] theorem kept_endArms (t st which s) : kept (endArms t st which s) = kept s := by
  simp only [endArms, implies_true, kept_forAll, kept_finish, kept_modTp]

@[simp] theorem kept_wlMotionFault (t s) : kept (wlMotionFault t s) = kept s := by
  simp only [wlMotionFault, implies_true, kept_modTp, kept_forAll, kept_finish, kept_endArms]

@[simp] theorem kept_loadFault (t s) : kept (loadFault t s) = kept s := by
  simp only [loadFault, kept_ite]
  (repeat' split) <;> simp only [kept_endCmd]

@[simp] theorem kept_motMotionFault (t s) : kept (motMotionFault t s) = kept s := by
  simp only [motMotionFault, implies_true, kept_loadFault, kept_forAll, kept_endHostLocate, kept_modMot, kept_endMotion,
    kept_finish]

@[simp] theorem kept_clearLoop (l s) : kept (clearLoop l s) = kept s := by
  simp only [clearLoop, kept_ite, ite_self, kept_modLoop, kept_setReg, kept_setFld]

@[simp] theorem kept_clearTransport (t s) : kept (clearTransport t s) = kept s := by
  simp only [clearTransport, kept_ite, ite_self, implies_true, kept_forAll, kept_clearLoop, kept_modTp, kept_logIgnored]

@[simp] theorem kept_restoreLoops (t s) : kept (restoreLoops t s) = kept s := by
  simp only [restoreLoops, kept_ite, ite_self, implies_true, kept_forAll, kept_setFld, kept_modMot]

/-! ### The Wind-up budget -/

@[simp] theorem kept_grantOf (t s) : kept (grantOf t s).2 = kept s := by
  unfold grantOf
  dsimp only
  (repeat' split) <;> simp only [kept_takeFree]

@[simp] theorem kept_regrantOne (t s) : kept (regrantOne t s) = kept s := by
  simp only [regrantOne, kept_mk, mk_kept, kept_ite, ite_self, kept_grantOf, kept_setEvent]

@[simp] theorem kept_tdrainMs (s) : kept (tdrainMs s).2 = kept s := by
  unfold tdrainMs
  split <;> simp only [kept_takeFree]

@[simp] theorem kept_regrant (s) : kept (regrant s) = kept s := by
  simp only [regrant, kept_mk, mk_kept, implies_true, kept_tdrainMs, kept_setFld, kept_forAll, kept_regrantOne]

@[simp] theorem kept_applyCaps (s) : kept (applyCaps s) = kept s := by
  simp only [applyCaps, implies_true, kept_forAll, kept_setFld]

@[simp] theorem kept_disableWrites (t cause s) : kept (disableWrites t cause s) = kept s := by
  simp only [disableWrites, kept_regrant, kept_writeDisable]

@[simp] theorem kept_bumpHealth (s) : kept (bumpHealth s) = kept s := kept_eq rfl rfl rfl

@[simp] theorem kept_markRetired (unit s) : kept (markRetired unit s) = kept s := by
  simp only [markRetired, kept_mk, mk_kept, kept_ite, ite_self, kept_notice, kept_bumpHealth]

@[simp] theorem kept_markReturned (unit s) : kept (markReturned unit s) = kept s := by
  simp only [markReturned, kept_mk, mk_kept, kept_ite, ite_self, kept_bumpHealth]

/-! ### The read channel -/

@[simp] theorem kept_modRc (t f s) : kept (modRc t f s) = kept s := by simp only [modRc, kept_modTp]
@[simp] theorem kept_modLane (l f s) : kept (modLane l f s) = kept s := by simp only [modLane, kept_modRc]
@[simp] theorem kept_setZone (t key v s) : kept (setZone t key v s) = kept s := by simp only [setZone, kept_modRc]
@[simp] theorem kept_sendNotice (t e s) : kept (sendNotice t e s) = kept s := by simp only [sendNotice, kept_modRc]

@[simp] theorem kept_sendDirectory (t dsnum rw s) : kept (sendDirectory t dsnum rw s) = kept s := by
  simp only [sendDirectory, kept_modRc]

@[simp] theorem kept_modCap (c n f s) : kept (modCap c n f s) = kept s := kept_eq rfl rfl rfl

@[simp] theorem kept_capTrigger (c n s) : kept (capTrigger c n s) = kept s := by
  simp only [capTrigger, kept_mk, mk_kept, kept_ite, ite_self, kept_modCap]

@[simp] theorem kept_endCapture (c n s) : kept (endCapture c n s) = kept s := by
  simp only [endCapture, kept_mk, mk_kept, kept_setFld, kept_raiseFld]

@[simp] theorem kept_capSample (c n s x) : kept (capSample c n s x) = kept s := by
  simp only [capSample, kept_mk, mk_kept, kept_ite, ite_self, kept_endCapture, kept_modCap]

@[simp] theorem kept_capRun (c n l s) : kept (capRun c n l s) = kept s := by
  have hl : kept (l.foldl (capSample c n) s) = kept s := foldl_keeps (fun s x => kept_capSample c n s x) l s
  simp only [capRun, kept_ite, kept_endCapture, hl, ite_self]

@[simp] theorem kept_capLane (l adc s) : kept (capLane l adc s) = kept s := by
  simp only [capLane, kept_ite, ite_self, implies_true, kept_forAll, kept_capRun]

@[simp] theorem kept_capTriggers (l trig s) : kept (capTriggers l trig s) = kept s := by
  simp only [capTriggers, kept_ite, ite_self, implies_true, kept_forAll, kept_capTrigger]

@[simp] theorem kept_sendReport (t r s) : kept (sendReport t r s) = kept s := by
  simp only [sendReport, kept_ite, ite_self, kept_modRc, kept_capTriggers]

@[simp] theorem kept_readDsnum (t s) : kept (readDsnum t s).2 = kept s := by
  unfold readDsnum
  split <;> simp only [kept_takeFree]

@[simp] theorem kept_readMark (t bytes s) : kept (readMark t bytes s) = kept s := by
  simp only [readMark, kept_ite, ite_self, implies_true, kept_forAll, kept_modStream]

@[simp] theorem kept_sendRead (t low kind idx b bytes s) : kept (sendRead t low kind idx b bytes s) = kept s := by
  unfold sendRead
  split <;> simp only [kept_ite, ite_self, kept_readDsnum, kept_sendReport, kept_readMark, kept_modRc]

@[simp] theorem kept_sendHeld (t h s) : kept (sendHeld t h s) = kept s := by
  unfold sendHeld
  dsimp only
  (repeat' split) <;> simp only [kept_sendRead]

@[simp] theorem kept_releaseHeld (t force s) : kept (releaseHeld t force s) = kept s := by
  simp only [releaseHeld, kept_ite, ite_self, implies_true, kept_forAll, kept_sendHeld, kept_modRc]

@[simp] theorem kept_directoryIn (t k bytes s) : kept (directoryIn t k bytes s) = kept s := by
  simp only [directoryIn, kept_modRc, kept_releaseHeld]

@[simp] theorem kept_freshExtent (l s) : kept (freshExtent l s) = kept s := by
  simp only [freshExtent, kept_ite, ite_self, kept_modRc, kept_releaseHeld, kept_modLane]

@[simp] theorem kept_reportSlot (mode l slot note kind low bytes s) :
    kept (reportSlot mode l slot note kind low bytes s) = kept s := by
  unfold reportSlot
  dsimp only
  (repeat' split) <;> simp only [kept_sendReport, kept_directoryIn, kept_sendRead, kept_modRc, kept_releaseHeld]

@[simp] theorem kept_loseLock (l s) : kept (loseLock l s) = kept s := by simp only [loseLock, kept_bumpFld, kept_modLane]
@[simp] theorem kept_adoptStart (l s) : kept (adoptStart l s) = kept s := by simp only [adoptStart, kept_bumpFld, kept_modLane]

@[simp] theorem kept_slot0Failed (l s) : kept (slot0Failed l s) = kept s := by
  simp only [slot0Failed, kept_ite, ite_self, kept_modLane, kept_adoptStart]

@[simp] theorem kept_offerStart (l s) : kept (offerStart l s) = kept s := by
  simp only [offerStart, implies_true, kept_forAll, kept_adoptStart]

@[simp] theorem kept_dropPend (p s) : kept (dropPend p s) = kept s := by simp only [dropPend, kept_modRc]

@[simp] theorem kept_notDecoded (p s) : kept (notDecoded p s) = kept s := by
  simp only [notDecoded, kept_ite, ite_self, kept_dropPend, kept_reportSlot, kept_modLane, kept_loseLock, kept_slot0Failed]

@[simp] theorem kept_attemptFailed (p s) : kept (attemptFailed p s) = kept s := by
  unfold attemptFailed
  split <;> simp only [kept_modRc, kept_notDecoded]

@[simp] theorem kept_learnExtent (p kind s) : kept (learnExtent p kind s) = kept s := by
  simp only [learnExtent, kept_ite, ite_self, kept_modRc]

@[simp] theorem kept_trackSlot (p a iter s) : kept (trackSlot p a iter s) = kept s := by
  simp only [trackSlot, kept_ite, ite_self, kept_setZone]

@[simp] theorem kept_frameFrom (p a s) : kept (frameFrom p a s) = kept s := by simp only [frameFrom, kept_modLane]

@[simp] theorem kept_decodedCw (p a iter bits s) : kept (decodedCw p a iter bits s) = kept s := by
  simp only [decodedCw, kept_ite, ite_self, kept_dropPend, kept_freshExtent, kept_learnExtent, kept_trackSlot, kept_bumpFld,
    kept_frameFrom, kept_modLane, kept_offerStart, kept_capTriggers, kept_reportSlot]

@[simp] theorem kept_cwDeadline (p s) : kept (cwDeadline p s) = kept s := by simp only [cwDeadline, kept_notDecoded, kept_bumpFld]
@[simp] theorem kept_feedLane (l adc s) : kept (feedLane l adc s) = kept s := by simp only [feedLane, kept_modLane]

@[simp] theorem kept_pushPend (l mode base maybe key atts s) : kept (pushPend l mode base maybe key atts s) = kept s := by
  simp only [pushPend, kept_modRc, kept_modLane]

@[simp] theorem kept_emptySlot (l mode base maybe key s) : kept (emptySlot l mode base maybe key s) = kept s := by
  unfold emptySlot
  dsimp only
  split <;> simp only [kept_pushPend, kept_notDecoded]

@[simp] theorem kept_jumpTo (l mode i s) : kept (jumpTo l mode i s) = kept s := by
  simp only [jumpTo, kept_reportSlot, kept_modLane]

@[simp] theorem kept_takeRcMode (l s) : kept (takeRcMode l s) = kept s := by simp only [takeRcMode, kept_modLane]

@[simp] theorem kept_arriveFramed (l mode s) : kept (arriveFramed l mode s) = kept s := by
  unfold arriveFramed
  dsimp only
  (repeat' split) <;> simp only [kept_jumpTo, kept_modLane, kept_emptySlot, kept_pushPend, kept_takeRcMode]

@[simp] theorem kept_searchSync (l mode s) : kept (searchSync l mode s) = kept s := by
  unfold searchSync
  dsimp only
  split <;> simp only [kept_ite, ite_self, kept_modLane, kept_pushPend]

@[simp] theorem kept_reportRest (l n s) : kept (reportRest l n s) = kept s := by
  simp only [reportRest, implies_true, kept_forAll, kept_reportSlot, kept_modLane]

@[simp] theorem kept_searchVerify (l s) : kept (searchVerify l s) = kept s := by
  unfold searchVerify
  dsimp only
  (repeat' split) <;> simp only [kept_modLane, kept_searchSync, kept_adoptStart, kept_reportRest]

@[simp] theorem kept_syncNote (l s) : kept (syncNote l s) = kept s := by
  unfold syncNote
  dsimp only
  split <;> simp only [kept_modLane]

@[simp] theorem kept_arriveSearch (l mode s) : kept (arriveSearch l mode s) = kept s := by
  simp only [arriveSearch, kept_ite, ite_self, kept_searchVerify, kept_adoptStart, kept_searchSync]

@[simp] theorem kept_slotArrive (l adc s) : kept (slotArrive l adc s) = kept s := by
  simp only [slotArrive, kept_ite, ite_self, implies_true, kept_capLane, kept_takeRcMode, kept_forAll, kept_cwDeadline,
    kept_modLane, kept_feedLane, kept_syncNote, kept_arriveSearch, kept_arriveFramed]

@[simp] theorem kept_ldpcStep (e fault p s) : kept (ldpcStep e fault p s) = kept s := by
  unfold ldpcStep
  dsimp only
  (repeat' split) <;> simp only [kept_notDecoded, kept_decodedCw, kept_attemptFailed, kept_modRc]

@[simp] theorem kept_rehomeLane (e l s) : kept (rehomeLane e l s) = kept s := by
  unfold rehomeLane
  split <;> simp only [kept_modLane]

@[simp] theorem kept_retireEngine (e s) : kept (retireEngine e s) = kept s := by
  simp only [retireEngine, kept_ite, ite_self, implies_true, kept_setFld, kept_forAll, kept_notDecoded, kept_markRetired,
    kept_rehomeLane]

@[simp] theorem kept_returnEngine (e s) : kept (returnEngine e s) = kept s := by
  simp only [returnEngine, kept_ite, ite_self, implies_true, kept_setFld, kept_markReturned, kept_forAll, kept_modLane]

@[simp] theorem kept_setRcMode (t m s) : kept (setRcMode t m s) = kept s := by
  simp only [setRcMode, kept_ite, ite_self, implies_true, kept_setFld, kept_setReg, kept_forAll, kept_takeRcMode, kept_modLane]

@[simp] theorem kept_adcOverflow (l s) : kept (adcOverflow l s) = kept s := by
  simp only [adcOverflow, kept_ite, ite_self, implies_true, kept_cdcEvent, kept_forAll, kept_modCap, kept_modLane,
    kept_reportSlot, kept_loseLock]

@[simp] theorem kept_lossOfLock (l s) : kept (lossOfLock l s) = kept s := by
  simp only [lossOfLock, kept_ite, ite_self, kept_loseLock]

@[simp] theorem kept_armCapture (c n s) : kept (armCapture c n s) = kept s := by
  simp only [armCapture, kept_mk, mk_kept, kept_ite, ite_self, kept_raiseFld, kept_setReg, kept_capTrigger]

@[simp] theorem kept_capLpos (t lpos s) : kept (capLpos t lpos s) = kept s := by
  simp only [capLpos, kept_ite, ite_self, implies_true, kept_forAll, kept_takeFree, kept_capTrigger, kept_setReg]

@[simp] theorem kept_stopCapture (c n adc s) : kept (stopCapture c n adc s) = kept s := by
  simp only [stopCapture, kept_ite, ite_self, kept_capRun]

@[simp] theorem kept_calLane (t band page c s) : kept (calLane t band page c s) = kept s := by
  simp only [calLane, kept_ite, ite_self, implies_true, kept_modRc, kept_setFld, kept_forAll, kept_setZone]

/-! ### Faults and retirement -/

@[simp] theorem kept_countEvent (unit s) : kept (countEvent unit s) = kept s := by
  simp only [countEvent, kept_setFld, kept_bumpFld]

@[simp] theorem kept_retireLane (t k cause detail s) : kept (retireLane t k cause detail s) = kept s := by
  simp only [retireLane, kept_ite, ite_self, kept_modTp, kept_setEvent, kept_markRetired, kept_logFault, kept_regrant,
    kept_raiseFld]

@[simp] theorem kept_laneDs (t s) : kept (laneDs t s).2 = kept s := by
  unfold laneDs
  split <;> simp only [kept_takeFree]

@[simp] theorem kept_laneFault (t k cause s) : kept (laneFault t k cause s) = kept s := by
  simp only [laneFault, kept_laneDs, kept_retireLane, kept_bumpFld, kept_countEvent]

@[simp] theorem kept_modCodec (f s) : kept (modCodec f s) = kept s := kept_eq rfl rfl rfl
@[simp] theorem kept_modEng (e f s) : kept (modEng e f s) = kept s := by simp only [modEng, kept_modCodec]

@[simp] theorem kept_codecError (f scid s) : kept (codecError f scid s) = kept s := by
  simp only [codecError, kept_setFld, kept_bumpFld, kept_raiseFld]

@[simp] theorem kept_abandonJob (e s) : kept (abandonJob e s) = kept s := by
  unfold abandonJob
  split <;> simp only [kept_modEng, kept_codecError, kept_modCodec]

@[simp] theorem kept_retireCodec (e s) : kept (retireCodec e s) = kept s := by
  simp only [retireCodec, kept_abandonJob, kept_markRetired, kept_modCodec]

@[simp] theorem kept_goOffline (t s) : kept (goOffline t s) = kept s := by simp only [goOffline, kept_disableWrites, kept_modTp]

@[simp] theorem kept_retireWay (w s) : kept (retireWay w s) = kept s := by
  simp only [retireWay, kept_mk, mk_kept, kept_ite, ite_self]

@[simp] theorem kept_macroFault (n s) : kept (macroFault n s) = kept s := by
  simp only [macroFault, kept_mk, mk_kept, kept_ite, ite_self, kept_logFault, kept_markRetired, kept_retireWay,
    kept_disableWrites, kept_retireCodec, kept_bumpHealth, kept_retireLane, kept_retireEngine]

@[simp] theorem kept_writeRemap (n e word valid s) : kept (writeRemap n e word valid s) = kept s := by
  simp only [writeRemap, kept_mk, mk_kept, kept_ite, ite_self, kept_setFld]

@[simp] theorem kept_retireWord (n word s) : kept (retireWord n word s) = kept s := by
  simp only [retireWord, kept_ite]
  (repeat' split) <;> simp only [kept_markRetired, kept_writeRemap, kept_macroFault]

@[simp] theorem kept_retireUnit (u s) : kept (retireUnit u s) = kept s := by
  unfold retireUnit
  split <;> simp only [kept_laneFault, kept_retireEngine, kept_retireCodec, kept_markRetired, kept_retireGroup, kept_macroFault,
    kept_goOffline, kept_disableWrites, kept_setFld, kept_modTp]

@[simp] theorem kept_permanent (u code win detail s) : kept (permanent u code win detail s) = kept s := by
  simp only [permanent, kept_raiseFld, kept_logFault, kept_retireUnit]

@[simp] theorem kept_escalate (u code detail s) : kept (escalate u code detail s) = kept s := by
  simp only [escalate, kept_mk, mk_kept, kept_ite, ite_self, kept_raiseFld, kept_logFault, kept_permanent]

@[simp] theorem kept_faultEvent (u code detail s) : kept (faultEvent u code detail s) = kept s := by
  simp only [faultEvent, kept_mk, mk_kept, kept_ite, ite_self, kept_countEvent, kept_logFault, kept_escalate]

@[simp] theorem kept_clearEvent (u s) : kept (clearEvent u s) = kept s := kept_eq rfl rfl rfl

@[simp] theorem kept_sramEvent (n word s) : kept (sramEvent n word s) = kept s := by
  simp only [sramEvent, kept_mk, mk_kept, kept_ite, ite_self, kept_countEvent, kept_raiseFld, kept_logFault, kept_retireWord]

@[simp] theorem kept_returnUnit (u s) : kept (returnUnit u s) = kept s := by
  unfold returnUnit
  split <;> simp only [kept_mk, mk_kept, kept_logFault, kept_markReturned, kept_regrant, kept_modTp, kept_returnEngine,
    kept_setFld]

@[simp] theorem kept_fltRetire (u s) : kept (fltRetire u s) = kept s := by
  simp only [fltRetire, kept_ite, ite_self, kept_retireUnit, kept_logFault, kept_logIgnored]

@[simp] theorem kept_fltReturn (u s) : kept (fltReturn u s) = kept s := by
  simp only [fltReturn, kept_ite, ite_self, kept_returnUnit, kept_logIgnored]

/-! ### HBM and the buffers in it -/

@[simp] theorem kept_memError (f unit addr s) : kept (memError f unit addr s) = kept s := by
  simp only [memError, kept_setPair, kept_setFld, kept_bumpFld, kept_raiseFld]

@[simp] theorem kept_badAddress (a s) : kept (badAddress a s) = kept s := by simp only [badAddress, kept_memError]
@[simp] theorem kept_flipHbm (a s) : kept (flipHbm a s) = kept s := by simp only [flipHbm, kept_mk, mk_kept, kept_ite, ite_self]

@[simp] theorem kept_hbmPut (a l s) : kept (hbmPut a l s) = kept s := by
  unfold hbmPut
  split <;> simp only [kept_mk, mk_kept, kept_cleanLines, kept_flipHbm]

@[simp] theorem kept_hbmCopy (a b n s) : kept (hbmCopy a b n s) = kept s := by
  simp only [hbmCopy, kept_mk, mk_kept, kept_cleanLines, kept_flipHbm]

@[simp] theorem kept_hbmZero (a n s) : kept (hbmZero a n s) = kept s := by
  simp only [hbmZero, kept_mk, mk_kept, kept_ite, ite_self, kept_cleanLines, kept_flipHbm]

@[simp] theorem kept_poisonLine (line s) : kept (poisonLine line s) = kept s := by simp only [poisonLine, kept_mk, mk_kept]

@[simp] theorem kept_uncorrectableBuf (a f s) : kept (uncorrectableBuf a f s) = kept s := by
  unfold uncorrectableBuf
  dsimp only
  split <;> simp only [kept_memError, kept_poisonLine, kept_quarantineBuf, kept_faultEvent]

@[simp] theorem kept_meetBeat (f b s) : kept (meetBeat f b s) = kept s := by
  simp only [meetBeat, kept_mk, mk_kept, kept_ite, ite_self, kept_bumpFld, kept_uncorrectableBuf]

@[simp] theorem kept_demandRead (a n s) : kept (demandRead a n s).2 = kept s := by
  simp only [demandRead, kept_ite, ite_self, implies_true, kept_forAll, kept_meetBeat, kept_memError]

@[simp] theorem kept_bufPut (tok off l s) : kept (bufPut tok off l s) = kept s := by simp only [bufPut, kept_hbmPut]

end Sys2Proof.Machine
end

section
/-! The stages, the codec, the sequencers, the loops and motion leave the fuses and the waiting commands alone. -/
namespace Sys2Proof.Machine

/-! ### The assembler -/

@[simp] theorem kept_modAsm (t f s) : kept (modAsm t f s) = kept s := by simp only [modAsm, kept_modTp]

@[simp] theorem kept_asmOpenOp (t s) : kept (asmOpenOp t s) = kept s := by
  simp only [asmOpenOp, kept_ite, ite_self, implies_true, kept_onHead, kept_takeDesc, kept_bufPut, kept_modAsm, kept_reject]

@[simp] theorem kept_closeDataset (t reason s) : kept (closeDataset t reason s) = kept s := by
  unfold closeDataset
  split <;> simp only [implies_true, kept_bufPut, kept_hbmZero, kept_modTp, kept_forAll, kept_sealRec, kept_finish]

@[simp] theorem kept_asmCloseOp (t s) : kept (asmCloseOp t s) = kept s := by
  simp only [asmCloseOp, kept_ite, ite_self, implies_true, kept_onHead, kept_finish, kept_closeDataset, kept_reject]

@[simp] theorem kept_asmIdleOp (t s) : kept (asmIdleOp t s) = kept s := by
  unfold asmIdleOp
  split <;> simp only [kept_ite, ite_self, kept_closeDataset]

@[simp] theorem kept_placeItem (t o i s) : kept (placeItem t o i s) = kept s := by
  simp only [placeItem, kept_bufPut, kept_placeBytes, kept_modTp]

@[simp] theorem kept_workItemOp (t s) : kept (workItemOp t s) = kept s := by
  unfold workItemOp
  dsimp only
  (repeat' split) <;> simp only [kept_modAsm, kept_closeDataset, kept_placeItem]

@[simp] theorem kept_discardSegs (t scid from' s) : kept (discardSegs t scid from' s) = kept s := by
  unfold discardSegs
  dsimp only
  split <;> simp only [kept_ite, ite_self, kept_modAsm, kept_bufPut, kept_modTp]

@[simp] theorem kept_asmDisasmOp (t s) : kept (asmDisasmOp t s) = kept s := by
  simp only [asmDisasmOp, kept_ite, ite_self, implies_true, kept_onHead, kept_demandRead, kept_finish, kept_modAsm, kept_reject]

/-! ### The C2 and C3 stage -/

@[simp] theorem kept_encodeSub (a u s) : kept (encodeSub a u s) = kept s := by
  simp only [encodeSub, kept_mk, mk_kept, kept_ite, ite_self, implies_true, kept_forAll]

@[simp] theorem kept_encodeC2 (a s) : kept (encodeC2 a s) = kept s := by
  simp only [encodeC2, implies_true, kept_forAll, kept_encodeSub, kept_cleanLines]

@[simp] theorem kept_xorInto (a b s) : kept (xorInto a b s) = kept s := kept_eq rfl rfl rfl
@[simp] theorem kept_modEnc (t f s) : kept (modEnc t f s) = kept s := by simp only [modEnc, kept_modTp]

@[simp] theorem kept_encodeHeader (t tok mask s) : kept (encodeHeader t tok mask s) = kept s := by
  simp only [encodeHeader, kept_bufPut]

@[simp] theorem kept_foldMember (t tok acc pos s) : kept (foldMember t tok acc pos s) = kept s := by
  simp only [foldMember, kept_ite, ite_self, kept_hbmCopy, kept_xorInto, kept_modEnc]

@[simp] theorem kept_encEncodeOp (t s) : kept (encEncodeOp t s) = kept s := by
  simp only [encEncodeOp, kept_ite, ite_self, implies_true, kept_onHead, kept_demandRead, kept_finish, kept_encodeHeader,
    kept_encodeC2, kept_foldMember, kept_modTp, kept_reject]

@[simp] theorem kept_encC3emitOp (t s) : kept (encC3emitOp t s) = kept s := by
  simp only [encC3emitOp, kept_ite, ite_self, implies_true, kept_onHead, kept_bufPut, kept_modTp, kept_finish, kept_reject]

@[simp] theorem kept_loadMap (t y s) : kept (loadMap t y s) = kept s := by simp only [loadMap, kept_finish, kept_modEnc]

@[simp] theorem kept_encMapsetOp (t s) : kept (encMapsetOp t s) = kept s := by
  simp only [encMapsetOp, kept_ite, ite_self, implies_true, kept_onHead, kept_takeDesc, kept_loadMap, kept_reject]

@[simp] theorem kept_mapsetLoadOp (t s) : kept (mapsetLoadOp t s) = kept s := by
  unfold mapsetLoadOp
  split <;> simp only [kept_ite, ite_self, kept_loadMap]

@[simp] theorem kept_placeCw (tok c s) : kept (placeCw tok c s) = kept s := by simp only [placeCw, kept_bufPut]

@[simp] theorem kept_placeRead (t tok s) : kept (placeRead t tok s).2 = kept s := by
  unfold placeRead
  dsimp only
  split <;> simp only [implies_true, kept_forAll, kept_placeCw, kept_modRc]

@[simp] theorem kept_correctSub (a u erased s) : kept (correctSub a u erased s).2 = kept s := by
  unfold correctSub
  dsimp only
  (repeat' split) <;> simp only [kept_mk, mk_kept]

@[simp] theorem kept_c3Recover (a u others s) : kept (c3Recover a u others s) = kept s := kept_eq rfl rfl rfl

@[simp] theorem kept_c3HeaderFix (t tok s) : kept (c3HeaderFix t tok s) = kept s := by
  unfold c3HeaderFix
  split <;> simp only [kept_bufPut]

@[simp] theorem kept_c2Pass (a erased subs s) : kept (c2Pass a erased subs s).2 = kept s :=
  foldl_keeps (g := fun acc : List Nat × State => kept acc.2) (fun _ _ => kept_correctSub _ _ _ _) subs _

@[simp] theorem kept_c3Pass (t tok failed s) : kept (c3Pass t tok failed s).2 = kept s := by
  unfold c3Pass
  split <;> simp only [implies_true, kept_forAll, kept_encodeSub, kept_c3Recover]

@[simp] theorem kept_correctStart_filled (t tok s) : kept (correctStart.filled t tok s).2 = kept s := by
  simp only [correctStart.filled, kept_placeRead, kept_c2Pass]

@[simp] theorem kept_correctStart (t tok c3 s) : kept (correctStart t tok c3 s).2 = kept s := by
  simp only [correctStart]
  (repeat' split) <;> simp only [kept_correctStart_filled]

@[simp] theorem kept_encCorrectOp (t s) : kept (encCorrectOp t s) = kept s := by
  simp only [encCorrectOp, kept_ite, kept_onHead, apply_ite Prod.snd, kept_finish, kept_modEnc, kept_c3Pass, kept_c3HeaderFix,
    kept_correctStart, kept_reject, ite_self, implies_true]

/-! ### The index stage -/

@[simp] theorem kept_modIdx (t f s) : kept (modIdx t f s) = kept s := by simp only [modIdx, kept_modTp]

@[simp] theorem kept_idxAddOp (t s) : kept (idxAddOp t s) = kept s := by
  refine kept_onHead _ _ _ _ _ s fun x s => ?_
  dsimp only
  split
  · split <;> simp only [kept_finish, kept_indexRec, kept_modIdx]
  · rw [kept_reject]

@[simp] theorem kept_idxFindOp (t s) : kept (idxFindOp t s) = kept s := by
  refine kept_onHead _ _ _ _ _ s fun x s => ?_
  split
  · split <;> rw [kept_finish]
  · rw [kept_reject]

@[simp] theorem kept_freezeIndex (t s) : kept (freezeIndex t s) = kept s := by simp only [freezeIndex, kept_modIdx]

@[simp] theorem kept_emitSegment (t y o f s) : kept (emitSegment t y o f s) = kept s := by
  simp only [emitSegment, kept_ite, ite_self, kept_bufPut, kept_modTp, kept_finish, kept_closeDataset]

@[simp] theorem kept_idxEmitOp (t s) : kept (idxEmitOp t s) = kept s := by
  unfold idxEmitOp
  split
  · rfl
  refine kept_onHead _ _ _ _ _ s fun y s => ?_
  split
  · rw [kept_reject]
  split
  · rw [kept_emitSegment]
  dsimp only
  split
  · split <;> simp only [kept_emitSegment, kept_freezeIndex, kept_modIdx, kept_takeDesc]
  · simp only [kept_modIdx, kept_takeDesc]

@[simp] theorem kept_indexFreezeOp (t s) : kept (indexFreezeOp t s) = kept s := by
  unfold indexFreezeOp
  dsimp only
  (repeat' split) <;> simp only [kept_freezeIndex, kept_emitSegment]

/-! ### What the write lanes put out -/

@[simp] theorem kept_modWl (t f s) : kept (modWl t f s) = kept s := by simp only [modWl, kept_modTp]
@[simp] theorem kept_modVfy (t f s) : kept (modVfy t f s) = kept s := by simp only [modVfy, kept_modTp]
@[simp] theorem kept_modDs (t n f s) : kept (modDs t n f s) = kept s := by simp only [modDs, kept_modVfy]

/-! ### The tape -/

@[simp] theorem kept_modCart (t f s) : kept (modCart t f s) = kept s := by simp only [modCart, kept_modTp]

@[simp] theorem kept_record (t wrap lpos frames it s) : kept (record t wrap lpos frames it s) = kept s := by
  unfold record
  split <;> simp only [kept_modWl, kept_modCart]

/-! ### Write lanes, verify and rewrite -/

@[simp] theorem kept_wlRequest (t op s) : kept (wlRequest t op s) = kept s := by
  simp only [wlRequest, kept_ite, ite_self, implies_true, kept_onHead, kept_goArmed, kept_reject]

@[simp] theorem kept_resumeAt (t n order s) : kept (resumeAt t n order s) = kept s := by
  simp only [resumeAt, kept_endArms, kept_modVfy, kept_modWl]

@[simp] theorem kept_wlBegin (t y s) : kept (wlBegin t y s) = kept s := by
  simp only [wlBegin, kept_ite, ite_self, kept_takeDesc, kept_resumeAt, kept_modWl, kept_sendNotice, kept_modVfy, kept_modDs]

@[simp] theorem kept_wlTake (t s) : kept (wlTake t s) = kept s := by
  unfold wlTake
  split <;> simp only [kept_ite, ite_self, kept_reject, kept_finish, kept_wlBegin]

@[simp] theorem kept_wlStartOp (t s) : kept (wlStartOp t s) = kept s := by simp only [wlStartOp, kept_ite, ite_self, kept_wlTake]

@[simp] theorem kept_unresolve (t n i s) : kept (unresolve t n i s) = kept s := by
  unfold unresolve
  dsimp only
  split <;> simp only [kept_ite, ite_self, kept_bumpFld, kept_logFault, kept_modDs]

@[simp] theorem kept_placeEntries (t e l s rw left) : kept (placeEntries t e l (s, rw, left)).1 = kept s := by
  induction l generalizing s rw left with
  | nil => rfl
  | cons r l ih =>
    unfold placeEntries
    dsimp only
    split
    · rw [ih, kept_unresolve]
    split
    · simp only [ih, kept_bumpFld, kept_modDs, kept_modVfy]
    · split <;> simp only [ih, kept_unresolve]

@[simp] theorem kept_fixDirectory (t s) : kept (fixDirectory t s) = kept s := by
  unfold fixDirectory
  split
  · rfl
  split
  · rfl
  split
  · rfl
  · simp only [kept_sendDirectory, kept_modWl, kept_modVfy, kept_placeEntries, kept_forAll, kept_unresolve, implies_true]

@[simp] theorem kept_dsDone (t c s) : kept (dsDone t c s) = kept s := by
  simp only [dsDone, kept_ite, ite_self, kept_modDs, kept_modIdx, kept_modTp]

@[simp] theorem kept_wlRecord (t c e frames s) : kept (wlRecord t c e frames s) = kept s := by
  unfold wlRecord
  split <;> simp only [kept_record]

@[simp] theorem kept_wlDoneOp (t gap s) : kept (wlDoneOp t gap s) = kept s := by
  unfold wlDoneOp
  split <;> simp only [kept_ite, ite_self, kept_fixDirectory, kept_wlRecord, kept_dsDone, kept_modWl, kept_finish, kept_bumpFldBy]

@[simp] theorem kept_queueCopy (t n i orig avoid copy s) : kept (queueCopy t n i orig avoid copy s) = kept s := by
  simp only [queueCopy, kept_ite, ite_self, kept_unresolve, kept_modVfy]

@[simp] theorem kept_failOriginal (t n i k s) : kept (failOriginal t n i k s) = kept s := by
  unfold failOriginal
  split <;> simp only [kept_ite, ite_self, kept_queueCopy, kept_modDs]

@[simp] theorem kept_passCw (t n i s) : kept (passCw t n i s) = kept s := by simp only [passCw, kept_modDs]
@[simp] theorem kept_countCw (t pass s) : kept (countCw t pass s) = kept s := by simp only [countCw, kept_setPair]
@[simp] theorem kept_modExt (t e f s) : kept (modExt t e f s) = kept s := by simp only [modExt, kept_modWl]

@[simp] theorem kept_copyResult (t e k m pass s) : kept (copyResult t e k m pass s) = kept s := by
  unfold copyResult
  dsimp only
  (repeat' split) <;> simp only [kept_passCw, kept_modDs, kept_unresolve, kept_queueCopy]

@[simp] theorem kept_judgeCopies (t n s) : kept (judgeCopies t n s) = kept s := by
  unfold judgeCopies
  split <;> simp only [kept_ite, ite_self, implies_true, kept_forAll, kept_copyResult, kept_countCw, kept_modExt]

@[simp] theorem kept_laneEvent (t n k s) : kept (laneEvent t n k s) = kept s := by
  simp only [laneEvent, kept_ite, ite_self, kept_modVfy, kept_bumpFld, kept_countEvent, kept_raiseFld, kept_logFault,
    kept_retireLane]

@[simp] theorem kept_judgeExtent (t e s) : kept (judgeExtent t e s) = kept s := by
  simp only [judgeExtent, kept_ite, ite_self, implies_true, kept_modVfy, kept_bumpFld, kept_forAll, kept_laneEvent]

@[simp] theorem kept_judgeTrack (t n k s) : kept (judgeTrack t n k s) = kept s := by
  unfold judgeTrack
  split <;> simp only [kept_ite, ite_self, kept_modExt, kept_modVfy, kept_judgeExtent]

@[simp] theorem kept_markReport (t k pass s) : kept (markReport t k pass s) = kept s := by
  unfold markReport
  split <;> simp only [kept_ite, ite_self, kept_modExt, kept_logFault, kept_modWl]

@[simp] theorem kept_countKind (t kind s) : kept (countKind t kind s) = kept s := by simp only [countKind, kept_modVfy]

@[simp] theorem kept_reportIn (t r s) : kept (reportIn t r s) = kept s := by
  unfold reportIn
  dsimp only
  (repeat' split) <;> simp only [kept_countCw, kept_passCw, kept_modExt, kept_failOriginal, kept_judgeCopies, kept_countKind,
    kept_markReport, kept_judgeTrack]

@[simp] theorem kept_verifyReportOp (t r s) : kept (verifyReportOp t r s) = kept s := by
  simp only [verifyReportOp, kept_ite, ite_self, kept_modRc, kept_reportIn]

@[simp] theorem kept_vfyArmOp (t s) : kept (vfyArmOp t s) = kept s := by
  simp only [vfyArmOp, kept_ite, ite_self, implies_true, kept_onHead, kept_modVfy, kept_modDs, kept_takeDesc, kept_reject]

@[simp] theorem kept_clearReplay (t s) : kept (clearReplay t s) = kept s := kept_eq rfl rfl rfl

@[simp] theorem kept_acceptDs (t d s) : kept (acceptDs t d s) = kept s := by
  simp only [acceptDs, kept_clearReplay, kept_verifyDataset, kept_modDs, kept_modVfy]

@[simp] theorem kept_settleArm (t d k s) : kept (settleArm t d k s) = kept s := by
  simp only [settleArm, kept_ite, ite_self, implies_true, kept_acceptDs, kept_releaseFor, kept_finish, kept_forAll, kept_setReg,
    kept_setFld, kept_takeFree, kept_modDs, kept_disableWrites]

@[simp] theorem kept_vfySettleOp (t s) : kept (vfySettleOp t s) = kept s := by
  simp only [vfySettleOp]
  (repeat' split) <;> simp only [kept_settleArm]

@[simp] theorem kept_rwqPolicyOp (t s) : kept (rwqPolicyOp t s) = kept s := by
  simp only [rwqPolicyOp, kept_ite, ite_self, implies_true, kept_onHead, kept_finish, kept_modVfy, kept_reject]

@[simp] theorem kept_damaged (t e k m s) : kept (damaged t e k m s) = kept s := by
  simp only [damaged]
  (repeat' split) <;> simp only [kept_failOriginal, kept_copyResult]

@[simp] theorem kept_wlUnderrunOp (l m s) : kept (wlUnderrunOp l m s) = kept s := by
  unfold wlUnderrunOp
  dsimp only
  (repeat' split) <;> simp only [kept_cdcEvent, kept_bumpFld, kept_takeFree, kept_modWl, kept_damaged]

@[simp] theorem kept_laneReturn (t k s) : kept (laneReturn t k s) = kept s := by
  simp only [laneReturn, kept_ite, ite_self, kept_logIgnored, kept_modVfy, kept_regrant, kept_logFault, kept_markReturned]

/-! ### The codec array -/

@[simp] theorem kept_modCtx (scid f s) : kept (modCtx scid f s) = kept s := by simp only [modCtx, kept_modCodec]
@[simp] theorem kept_takeDecoded (t n s) : kept (takeDecoded t n s) = kept s := by simp only [takeDecoded, kept_modEnc]
@[simp] theorem kept_dropDecoded (t n s) : kept (dropDecoded t n s) = kept s := by simp only [dropDecoded, kept_modTp]

@[simp] theorem kept_dropHistory (scid s) : kept (dropHistory scid s) = kept s := by
  simp only [dropHistory, implies_true, kept_forAll, kept_releaseFor, kept_modCtx]

@[simp] theorem kept_endHistory (scid s) : kept (endHistory scid s) = kept s := by
  simp only [endHistory, kept_modCtx, kept_dropHistory]

@[simp] theorem kept_appendToken (scid k s) : kept (appendToken scid k s) = kept s := by
  unfold appendToken
  dsimp only
  (repeat' split) <;> simp only [kept_modCtx, kept_releaseFor]

@[simp] theorem kept_dropThrough (scid tok s) : kept (dropThrough scid tok s) = kept s := by
  simp only [dropThrough, implies_true, kept_forAll, kept_releaseFor, kept_modCtx]

@[simp] theorem kept_listToken (scid k s) : kept (listToken scid k s) = kept s := by
  simp only [listToken, kept_ite, ite_self, kept_modCtx, kept_dropThrough, kept_addrefFor, kept_appendToken, kept_dropHistory]

@[simp] theorem kept_growToken (scid tok n s) : kept (growToken scid tok n s) = kept s := by simp only [growToken, kept_modCodec]

@[simp] theorem kept_trimHistory (scid rest s) : kept (trimHistory scid rest s) = kept s := by
  simp only [trimHistory, implies_true, kept_forAll, kept_releaseFor, kept_modCtx]

@[simp] theorem kept_offFinish (i st consumed produced crc s) : kept (offFinish i st consumed produced crc s) = kept s := by
  simp only [offFinish, kept_hostWrite, kept_modCodec]

@[simp] theorem kept_offAdvanceOne (s) : kept (offAdvanceOne s) = kept s := by
  simp only [offAdvanceOne, kept_mk, mk_kept, kept_ite, ite_self, kept_setFld, kept_modCodec]

@[simp] theorem kept_offAdvance (s) : kept (offAdvance s) = kept s := by
  simp only [offAdvance, implies_true, kept_forAll, kept_offAdvanceOne]

@[simp] theorem kept_startJob (e j s) : kept (startJob e j s) = kept s := by simp only [startJob, kept_modCodec, kept_modEng]

@[simp] theorem kept_zeroExpand (t k scid s) : kept (zeroExpand t k scid s) = kept s := by
  simp only [zeroExpand, kept_dropDecoded, kept_modCtx, kept_endHistory, kept_modCodec, kept_finish]

@[simp] theorem kept_startWrite (e scid s) : kept (startWrite e scid s) = kept s := by
  unfold startWrite
  split <;> simp only [kept_startJob]

@[simp] theorem kept_startExpand (e t k d s) : kept (startExpand e t k d s) = kept s := by
  simp only [startExpand, kept_ite, ite_self, kept_zeroExpand, kept_modCodec, kept_startJob]

@[simp] theorem kept_startOffload (e i fresh s) : kept (startOffload e i fresh s) = kept s := by
  simp only [startOffload, kept_ite, ite_self, kept_modCodec, kept_offAdvance, kept_offFinish, kept_modCtx, kept_startJob]

@[simp] theorem kept_dispatchOp (r e s) : kept (dispatchOp r e s) = kept s := by
  unfold dispatchOp
  dsimp only
  (repeat' split) <;> simp only [kept_modCodec, kept_startWrite, kept_startExpand, kept_startOffload]

@[simp] theorem kept_readParts (l s) : kept (readParts l s).2.2 = kept s := by
  induction l generalizing s with
  | nil => rfl
  | cons p l ih => simp only [readParts, ih, kept_demandRead]

@[simp] theorem kept_openRecord (scid r s) : kept (openRecord scid r s) = kept s := by
  simp only [openRecord, kept_ite, ite_self, kept_modCtx, kept_dropHistory]

@[simp] theorem kept_pieceDone (t scid r done flush lim input flags o s) :
    kept (pieceDone t scid r done flush lim input flags o s) = kept s := by
  simp only [pieceDone, kept_ite, ite_self, implies_true, kept_openRecord, kept_codecError, kept_forAll, kept_listToken,
    kept_modCtx, kept_trimHistory, kept_modRec, kept_modAsm]

@[simp] theorem kept_pieceNone (t scid r o s) : kept (pieceNone t scid r o s) = kept s := by
  simp only [pieceNone, kept_ite, ite_self, kept_modAsm]

theorem kept_of_mem_piecesDone (t j reach l xs room a s) : ∀ r ∈ piecesDone t j reach l xs room a s, kept r.2 = kept s := by
  induction l generalizing xs room a s with
  | nil => rintro _ ⟨⟩; rfl
  | cons p l ih =>
    apply forall_mem_ite
    · apply forall_mem_ite
      · intro r hr
        rw [ih _ _ _ _ r hr]
        simp only [kept_ite, kept_pieceNone, kept_pieceDone, kept_readParts, ite_self]
      · rintro _ ⟨⟩
        simp only [kept_ite, kept_pieceNone, kept_pieceDone, kept_readParts, ite_self]
    · exact fun _ h => absurd h (Option.not_mem_none _)

@[simp] theorem kept_countBlocks (a s) : kept (countBlocks a s) = kept s := by simp only [countBlocks, kept_setPair]
@[simp] theorem kept_countDrains (j bytes s) : kept (countDrains j bytes s) = kept s := by simp only [countDrains, kept_modCodec]

@[simp] theorem kept_reachPoints (scid s) : kept (reachPoints scid s) = kept s := by
  unfold reachPoints
  split <;> simp only [kept_modCodec]

@[simp] theorem kept_flushItem (scid ctag x s) : kept (flushItem scid ctag x s) = kept s := by
  simp only [flushItem, kept_ite, ite_self, kept_modAsm]

@[simp] theorem kept_writeJobDone (t j x a s) : kept (writeJobDone t j x a s) = kept s := by
  simp only [writeJobDone, kept_ite, ite_self, kept_countDrains, kept_countBlocks, kept_modCodec, kept_modTp, kept_reachPoints,
    kept_flushItem]

@[simp] theorem kept_freeEngine (e j used s) : kept (freeEngine e j used s) = kept s := by simp only [freeEngine, kept_modEng]

@[simp] theorem kept_compWriteDone (e t j l s) : kept (compWriteDone e t j l s) = kept s := by
  unfold compWriteDone
  split
  · rw [kept_modEng]
  split
  · rw [kept_modCodec, kept_modEng]
  split
  · rfl
  next hp => rw [kept_freeEngine, kept_writeJobDone, kept_of_mem_piecesDone _ _ _ _ _ _ _ _ _ hp]

@[simp] theorem kept_compOffloadDone (e i j l s) : kept (compOffloadDone e i j l s) = kept s := by
  simp only [compOffloadDone, kept_ite, ite_self, kept_hostWrite, kept_countBlocks, kept_freeEngine, kept_modCtx, kept_offAdvance,
    kept_offFinish]

@[simp] theorem kept_compStopOp (e l s) : kept (compStopOp e l s) = kept s := by
  simp only [compStopOp]
  (repeat' split) <;> simp only [kept_compOffloadDone, kept_compWriteDone]

@[simp] theorem kept_flushPoint (scid ctag x s) : kept (flushPoint scid ctag x s) = kept s := by
  simp only [flushPoint, kept_ite, ite_self, kept_modCodec, kept_flushItem]

@[simp] theorem kept_compDrainOp (t s) : kept (compDrainOp t s) = kept s := by
  simp only [compDrainOp, kept_ite, ite_self, implies_true, kept_onHead, kept_modCodec, kept_takeDesc, kept_reject]

@[simp] theorem kept_drainDoneOp (t s) : kept (drainDoneOp t s) = kept s := by
  simp only [drainDoneOp]
  (repeat' split) <;> simp only [kept_finish, kept_modCodec]

@[simp] theorem kept_compExpandOp (t s) : kept (compExpandOp t s) = kept s := by
  simp only [compExpandOp, kept_ite, ite_self, implies_true, kept_onHead, kept_takeDesc, kept_zeroExpand, kept_modCodec,
    kept_reject]

@[simp] theorem kept_deliver (t scid st s) : kept (deliver t scid st s) = kept s := by
  unfold deliver
  dsimp only
  (repeat' split) <;> simp only [kept_dropDecoded, kept_modAsm, kept_modStream]

@[simp] theorem kept_statusError (st guard scid s) : kept (statusError st guard scid s) = kept s := by
  simp only [statusError, kept_ite, ite_self, kept_codecError]

@[simp] theorem kept_expandDone (t k j lim s) : kept (expandDone t k j lim s) = kept s := by
  simp only [expandDone, kept_ite, ite_self, kept_statusError, kept_bufPut, kept_modCtx, kept_trimHistory, kept_listToken,
    kept_modTp, kept_takeDecoded, kept_deliver, kept_endHistory, kept_finish]

@[simp] theorem kept_expandHeader (j s) : kept (expandHeader j s).2 = kept s := by
  unfold expandHeader
  dsimp only
  (repeat' split) <;> simp only [kept_modCtx, kept_dropHistory]

@[simp] theorem kept_expandJobDone (t k j s) : kept (expandJobDone t k j s) = kept s := by
  unfold expandJobDone
  dsimp only
  split <;> simp only [kept_ite, ite_self, kept_demandRead, kept_expandHeader, kept_expandDone, kept_statusError, kept_modCtx,
    kept_endHistory, kept_deliver, kept_finish]

@[simp] theorem kept_expandOffloadDone (i j s) : kept (expandOffloadDone i j s) = kept s := by
  unfold expandOffloadDone
  dsimp only
  split <;> simp only [kept_ite, ite_self, kept_hostWrite, kept_modCtx, kept_offAdvance, kept_offFinish, kept_statusError]

@[simp] theorem kept_expStopOp (e s) : kept (expStopOp e s) = kept s := by
  unfold expStopOp
  dsimp only
  (repeat' split) <;> simp only [kept_expandOffloadDone, kept_expandJobDone, kept_freeEngine, kept_modEng]

@[simp] theorem kept_engineFaultOp (e s) : kept (engineFaultOp e s) = kept s := by
  simp only [engineFaultOp, kept_ite, ite_self, kept_faultEvent, kept_abandonJob]

@[simp] theorem kept_historyIdleOp (scid s) : kept (historyIdleOp scid s) = kept s := by
  simp only [historyIdleOp, kept_ite, ite_self, kept_endHistory]

@[simp] theorem kept_codecRetireOp (e retired s) : kept (codecRetireOp e retired s) = kept s := by
  simp only [codecRetireOp, kept_mk, mk_kept, kept_ite, ite_self, kept_retireCodec, kept_markReturned]

@[simp] theorem kept_offSubmitOp (tail s) : kept (offSubmitOp tail s) = kept s := by
  simp only [offSubmitOp, kept_ite, ite_self, kept_setFld, kept_modCodec, kept_logAccess]

@[simp] theorem kept_offEnableOp (cfg s) : kept (offEnableOp cfg s) = kept s := by
  simp only [offEnableOp, kept_ite, ite_self, kept_setFld, kept_logAccess]

/-! ### Sequencers -/

@[simp] theorem kept_modSeq (t f s) : kept (modSeq t f s) = kept s := by simp only [modSeq, kept_modTp]
@[simp] theorem kept_barSet (t r s) : kept (barSet t r s) = kept s := by simp only [barSet, kept_modSeq]

@[simp] theorem kept_barLeave (t s) : kept (barLeave t s) = kept s := by
  refine kept_forAll _ (fun u s => ?_) s
  split <;> simp only [kept_ite, kept_barSet, ite_self]

@[simp] theorem kept_barJoin (t m s) : kept (barJoin t m s) = kept s := by
  unfold barJoin
  dsimp only
  generalize hw : forAll allT _ s = w
  have hw : kept w = kept s := by
    rw [← hw]
    refine kept_forAll _ (fun u s => ?_) s
    split <;> simp only [kept_ite, kept_barSet, ite_self]
  simp only [kept_ite, kept_barSet, kept_forAll, implies_true, hw, ite_self]

@[simp] theorem kept_haltSeq (t s) : kept (haltSeq t s) = kept s := by
  simp only [haltSeq, kept_haltMode, kept_modSeq, kept_startPending, kept_barLeave]

@[simp] theorem kept_haltProgram (t s) : kept (haltProgram t s) = kept s := by
  simp only [haltProgram, kept_ite, ite_self, kept_haltSeq, kept_disableWrites]

@[simp] theorem kept_stepDone (t s) : kept (stepDone t s) = kept s := by simp only [stepDone, kept_ite, ite_self, kept_haltSeq]

@[simp] theorem kept_flushQueues (t s) : kept (flushQueues t s) = kept s := by
  simp only [flushQueues, implies_true, kept_forAll, kept_finish, kept_closeDataset]

@[simp] theorem kept_failSeq (t cause eval s) : kept (failSeq t cause eval s) = kept s := by
  simp only [failSeq, kept_modSeq, kept_barLeave, kept_faultEvent, kept_flushQueues, kept_commandStop, kept_modTp]

@[simp] theorem kept_raiseExc (t cause eval s) : kept (raiseExc t cause eval s) = kept s := by
  simp only [raiseExc, kept_ite, ite_self, kept_bumpFld, kept_modSeq, kept_stepDone, kept_failSeq]

@[simp] theorem kept_raiseWdog (t s) : kept (raiseWdog t s) = kept s := by simp only [raiseWdog, kept_raiseExc]
@[simp] theorem kept_endWait (t rd v s) : kept (endWait t rd v s) = kept s := by simp only [endWait, kept_stepDone, kept_modSeq]
@[simp] theorem kept_beginWait (t w s) : kept (beginWait t w s) = kept s := by simp only [beginWait, kept_modSeq]
@[simp] theorem kept_popCpl (t n s) : kept (popCpl t n s) = kept s := by simp only [popCpl, kept_modPort]
@[simp] theorem kept_enqueue (t n d s) : kept (enqueue t n d s) = kept s := by simp only [enqueue, kept_modTp]
@[simp] theorem kept_doneSeq (t s) : kept (doneSeq t s) = kept s := by simp only [doneSeq, kept_stepDone, kept_modSeq]

@[simp] theorem kept_fIssue (t port dreg rt nb s) : kept (fIssue t port dreg rt nb s) = kept s := by
  simp only [fIssue, kept_ite, ite_self, kept_raiseExc, kept_doneSeq, kept_modSeq, kept_enqueue, kept_beginWait]

@[simp] theorem kept_fPop (t port rt nb s) : kept (fPop t port rt nb s) = kept s := by
  unfold fPop
  split <;> simp only [kept_ite, ite_self, kept_doneSeq, kept_modSeq, kept_popCpl, kept_beginWait]

@[simp] theorem kept_fWait (t i rd ra imm s) : kept (fWait t i rd ra imm s) = kept s := by
  simp only [fWait, kept_ite, ite_self, kept_raiseExc, kept_endWait, kept_modSeq, kept_beginWait]

@[simp] theorem kept_fBar (t i rd ra s) : kept (fBar t i rd ra s) = kept s := by
  simp only [fBar, kept_ite, ite_self, kept_raiseExc, kept_barJoin, kept_beginWait]

@[simp] theorem kept_fPost (t ra s) : kept (fPost t ra s) = kept s := by simp only [fPost, kept_doneSeq, kept_setEvents]

@[simp] theorem kept_fExec (t i s) : kept (fExec t i s) = kept s := by
  unfold fExec
  dsimp only
  (repeat' split) <;> simp only [kept_modSeq, kept_haltProgram, kept_stepDone, kept_raiseExc, kept_fIssue, kept_fPop, kept_fWait,
    kept_fBar, kept_fPost, kept_doneSeq]

@[simp] theorem kept_runInstr (t i s) : kept (runInstr t i s) = kept s := by
  simp only [runInstr, kept_ite, kept_raiseWdog, kept_haltSeq]
  (repeat' split) <;> simp only [kept_raiseExc, kept_fExec]

@[simp] theorem kept_issueFreedOp (t s) : kept (issueFreedOp t s) = kept s := by
  unfold issueFreedOp
  dsimp only
  split <;> simp only [kept_ite, ite_self, kept_endWait, kept_enqueue]

@[simp] theorem kept_popArrivalOp (t s) : kept (popArrivalOp t s) = kept s := by
  unfold popArrivalOp
  dsimp only
  (repeat' split) <;> simp only [kept_endWait, kept_popCpl]

@[simp] theorem kept_waitReleaseOp (t s) : kept (waitReleaseOp t s) = kept s := by
  unfold waitReleaseOp
  dsimp only
  split <;> simp only [kept_ite, ite_self, kept_endWait]

@[simp] theorem kept_waitTimeoutOp (t s) : kept (waitTimeoutOp t s) = kept s := by
  unfold waitTimeoutOp
  dsimp only
  split <;> simp only [kept_ite, ite_self, kept_endWait]

@[simp] theorem kept_barReleaseOp (t s) : kept (barReleaseOp t s) = kept s := by
  unfold barReleaseOp
  dsimp only
  split <;> simp only [kept_endWait]

@[simp] theorem kept_timerExpiryOp (t s) : kept (timerExpiryOp t s) = kept s := by
  simp only [timerExpiryOp, kept_ite, ite_self, kept_setEvent, kept_modSeq]

@[simp] theorem kept_watchdogOp (t s) : kept (watchdogOp t s) = kept s := by
  simp only [watchdogOp, kept_ite, ite_self, kept_raiseWdog]

@[simp] theorem kept_haltTakeOp (t s) : kept (haltTakeOp t s) = kept s := by
  simp only [haltTakeOp, kept_ite, ite_self, kept_haltSeq]

@[simp] theorem kept_haltRequest (t s) : kept (haltRequest t s) = kept s := by simp only [haltRequest, kept_modSeq]

@[simp] theorem kept_tsRunOp (t s) : kept (tsRunOp t s) = kept s := by
  unfold tsRunOp
  split <;> simp only [kept_modSeq]

@[simp] theorem kept_tsStepOp (t s) : kept (tsStepOp t s) = kept s := by
  unfold tsStepOp
  dsimp only
  (repeat' split) <;> simp only [kept_modSeq, kept_raiseWdog, kept_raiseExc, kept_fExec]

@[simp] theorem kept_tsRestartOp (t s) : kept (tsRestartOp t s) = kept s := by
  simp only [tsRestartOp, kept_ite, ite_self, kept_modSeq, kept_logIgnored]

@[simp] theorem kept_tsFlushOp (t s) : kept (tsFlushOp t s) = kept s := by
  simp only [tsFlushOp, kept_ite, ite_self, kept_flushQueues]

@[simp] theorem kept_tsEvpostOp (t pp s) : kept (tsEvpostOp t pp s) = kept s := by
  simp only [tsEvpostOp, implies_true, kept_forAll, kept_setEvent]

/-! ### Loops -/

@[simp] theorem kept_sendCommand (l s) : kept (sendCommand l s) = kept s := by simp only [sendCommand, kept_modLoop]
@[simp] theorem kept_resendFrame (rep l s) : kept (resendFrame rep l s) = kept s := by simp only [resendFrame, kept_modLoop]

@[simp] theorem kept_supervisionStop (t cause n s) : kept (supervisionStop t cause n s) = kept s := by
  simp only [supervisionStop, kept_ite, ite_self, kept_logFault, kept_faultEvent, kept_bumpFld, kept_modMot, kept_modTp,
    kept_resendFrame, kept_notice, kept_motMotionFault, kept_setEvent, kept_wlMotionFault]

@[simp] theorem kept_takeMode (l s) : kept (takeMode l s) = kept s := by
  simp only [takeMode, kept_ite, ite_self, kept_setReg, kept_modLoop]

@[simp] theorem kept_injTrigger (l s) : kept (injTrigger l s) = kept s := by
  simp only [injTrigger, kept_mk, mk_kept, kept_ite, ite_self]

@[simp] theorem kept_latchInputs (l s) : kept (latchInputs l s) = kept s := by simp only [latchInputs, kept_modLoop]

@[simp] theorem kept_capture (l s) : kept (capture l s) = kept s := by
  simp only [capture, kept_mk, mk_kept, kept_ite, ite_self, kept_raiseFld]

@[simp] theorem kept_armLoopCapture (s) : kept (armLoopCapture s) = kept s := by
  simp only [armLoopCapture, kept_mk, mk_kept, kept_setFld]

@[simp] theorem kept_startInjection (s) : kept (startInjection s) = kept s := by
  simp only [startInjection, kept_mk, mk_kept, kept_ite, ite_self]

@[simp] theorem kept_setSigned (off f x s) : kept (setSigned off f x s) = kept s := by simp only [setSigned, kept_setFld]

@[simp] theorem kept_tuneStart (l s) : kept (tuneStart l s) = kept s := by
  simp only [tuneStart, kept_mk, mk_kept, kept_ite, ite_self, kept_setFld, kept_armLoopCapture]

@[simp] theorem kept_tuneAbort (s) : kept (tuneAbort s) = kept s := by
  unfold tuneAbort
  split <;> simp only [kept_mk, mk_kept, kept_setFld, kept_logFault]

@[simp] theorem kept_tuneRelay (k s) : kept (tuneRelay k s) = kept s := by
  simp only [tuneRelay, kept_mk, mk_kept, kept_setSigned, kept_setFld, kept_armLoopCapture]

@[simp] theorem kept_tuneFinish (k s) : kept (tuneFinish k s) = kept s := by
  unfold tuneFinish
  dsimp only
  (repeat' split) <;> simp only [kept_mk, mk_kept, kept_tuneAbort, kept_takeFree, kept_modMot, kept_setFld, kept_modLoop]

@[simp] theorem kept_tuneStep (l switched s) : kept (tuneStep l switched s) = kept s := by
  unfold tuneStep
  split <;> simp only [kept_mk, mk_kept, kept_ite, ite_self, kept_tuneRelay, kept_tuneFinish]

@[simp] theorem kept_ferrTime (l add s) : kept (ferrTime l add s) = kept s := by simp only [ferrTime, kept_modLoop]

@[simp] theorem kept_commitLoop (l staged written cyc satf s) : kept (commitLoop l staged written cyc satf s) = kept s := by
  simp only [commitLoop, kept_ite, ite_self, kept_modLoop, kept_clearEvent, kept_bumpFld, kept_sendCommand, kept_ferrTime,
    kept_modMot, kept_tuneStep, kept_capture]

@[simp] theorem kept_loopOverrun (l s) : kept (loopOverrun l s) = kept s := by
  simp only [loopOverrun, kept_mk, mk_kept, kept_ite, ite_self, kept_modLoop, kept_bumpFld, kept_raiseFld, kept_faultEvent,
    kept_supervisionStop]

@[simp] theorem kept_trigger (l fs s) : kept (trigger l fs s) = kept s := by
  simp only [trigger, kept_ite, ite_self, kept_latchInputs, kept_loopOverrun, kept_takeMode, kept_modLoop, kept_injTrigger,
    kept_commitLoop]

@[simp] theorem kept_beginEval (s) : kept (beginEval s) = kept s := by
  unfold beginEval
  dsimp only
  (repeat' split) <;> simp only [kept_mk, mk_kept, kept_modLoop]

@[simp] theorem kept_vSet (r x s) : kept (vSet r x s) = kept s := kept_eq rfl rfl rfl
@[simp] theorem kept_setSatf (b s) : kept (setSatf b s) = kept s := kept_eq rfl rfl rfl

@[simp] theorem kept_accSet (i x s) : kept (accSet i x s) = kept s := by
  simp only [accSet, kept_mk, mk_kept, kept_ite, ite_self, kept_setSatf]

@[simp] theorem kept_rcuStore (t r i v s) : kept (rcuStore t r i v s) = kept s := by
  simp only [rcuStore, kept_ite, ite_self, kept_modMot, kept_faultEvent]

@[simp] theorem kept_lAdvance (n s) : kept (lAdvance n s) = kept s := kept_eq rfl rfl rfl

@[simp] theorem kept_lImm (op rd ra imm e s) : kept (lImm op rd ra imm e s) = kept s := by
  unfold lImm
  split <;> simp only [kept_mk, mk_kept, kept_ite, ite_self, kept_vSet, kept_setSatf, kept_modLoop, kept_accSet, kept_rcuStore]

@[simp] theorem kept_lExec (i e s) : kept (lExec i e s) = kept s := by
  unfold lExec
  split <;> simp only [kept_mk, mk_kept, kept_lAdvance, kept_vSet, kept_commitLoop, kept_lImm, kept_accSet]

@[simp] theorem kept_runL (i s) : kept (runL i s) = kept s := by
  unfold runL
  dsimp only
  (repeat' split) <;> simp only [kept_beginEval, kept_loopOverrun, kept_lExec]

@[simp] theorem kept_runEval (n s) : kept (runEval n s) = kept s := by
  induction n generalizing s with
  | zero =>
    unfold runEval
    cases s.mrn.ev with
    | none => rfl
    | some e => exact kept_loopOverrun e.l s
  | succ n ih =>
    unfold runEval
    split
    · rfl
    · split
      · rw [kept_loopOverrun]
      · rw [ih, kept_lExec]

@[simp] theorem kept_loopEvalOp (s) : kept (loopEvalOp s) = kept s := by
  unfold loopEvalOp
  dsimp only
  split <;> simp only [kept_beginEval, kept_runEval]

@[simp] theorem kept_loopOverrunOp (l s) : kept (loopOverrunOp l s) = kept s := by simp only [loopOverrunOp, kept_loopOverrun]

/-! ### Motion -/

@[simp] theorem kept_modYoyo (t f s) : kept (modYoyo t f s) = kept s := by simp only [modYoyo, kept_modTp]

@[simp] theorem kept_setWrap (t w s) : kept (setWrap t w s) = kept s := by
  simp only [setWrap, kept_ite, ite_self, kept_modMot, kept_modLoop]

@[simp] theorem kept_speedLockOp (t s) : kept (speedLockOp t s) = kept s := by
  simp only [speedLockOp, kept_ite, ite_self, kept_modWl]

@[simp] theorem kept_wlQuiet (t s) : kept (wlQuiet t s) = kept s := by simp only [wlQuiet, kept_modWl]

@[simp] theorem kept_motRow (t op valid f s) (h : ∀ a s, kept (f a s) = kept s) : kept (motRow t op valid f s) = kept s := by
  simp only [motRow, kept_ite, ite_self, implies_true, h, kept_onHead, kept_finish, kept_reject, kept_takeDesc]

@[simp] theorem kept_yoyoMode (t mode v s) : kept (yoyoMode t mode v s) = kept s := by simp only [yoyoMode, kept_modYoyo]

@[simp] theorem kept_motSpeedOp (t s) : kept (motSpeedOp t s) = kept s := by
  simp only [motSpeedOp, implies_true, kept_motRow, kept_yoyoMode, kept_goArmed, kept_modMot]

@[simp] theorem kept_dropPause (t s) : kept (dropPause t s) = kept s := by simp only [dropPause, kept_modYoyo]

@[simp] theorem kept_motLocateOp (t s) : kept (motLocateOp t s) = kept s := by
  simp only [motLocateOp, implies_true, kept_motRow, kept_wlQuiet, kept_dropPause, kept_modMot]

@[simp] theorem kept_motTurnOp (t s) : kept (motTurnOp t s) = kept s := by
  simp only [motTurnOp, implies_true, kept_motRow, kept_wlQuiet, kept_dropPause, kept_modMot]

@[simp] theorem kept_motStopOp (t s) : kept (motStopOp t s) = kept s := by
  simp only [motStopOp, implies_true, kept_motRow, kept_beginStop, kept_wlQuiet]

@[simp] theorem kept_setRunup (t s) : kept (setRunup t s) = kept s := by simp only [setRunup, kept_setFld]
@[simp] theorem kept_ownLocate (t target s) : kept (ownLocate t target s) = kept s := by simp only [ownLocate, kept_modMot]
@[simp] theorem kept_resumePause (t s) : kept (resumePause t s) = kept s := by simp only [resumePause, kept_goArmed, kept_modYoyo]

@[simp] theorem kept_endPause (t s) : kept (endPause t s) = kept s := by
  unfold endPause
  split <;> simp only [kept_resumePause, kept_modYoyo]

@[simp] theorem kept_wakePause (t s) : kept (wakePause t s) = kept s := by
  simp only [wakePause, kept_ite, ite_self, kept_endPause]

@[simp] theorem kept_beginPasses (t s) : kept (beginPasses t s) = kept s := by simp only [beginPasses, kept_modMot]

@[simp] theorem kept_locateDone (t c s) : kept (locateDone t c s) = kept s := by
  simp only [locateDone, kept_ite, ite_self, kept_setRunup, kept_modMot, kept_modYoyo, kept_endMotion, kept_resumePause,
    kept_goArmed]

@[simp] theorem kept_approachMissed (t c s) : kept (approachMissed t c s) = kept s := by
  simp only [approachMissed, kept_ite, ite_self, kept_bumpFld, kept_supervisionStop, kept_modMot]

@[simp] theorem kept_startMissed (t p s) : kept (startMissed t p s) = kept s := by
  simp only [startMissed, kept_ite, ite_self, kept_bumpFld, kept_supervisionStop, kept_ownLocate, kept_modMot]

@[simp] theorem kept_startTaken (t s) : kept (startTaken t s) = kept s := by
  simp only [startTaken, kept_ite, ite_self, kept_modMot, kept_wlTake]

@[simp] theorem kept_stopDone (t s) : kept (stopDone t s) = kept s := by
  simp only [stopDone, kept_ite, ite_self, kept_modMot, kept_restoreLoops, kept_clearTransport]

@[simp] theorem kept_stopAtRest (t s) : kept (stopAtRest t s) = kept s := by simp only [stopAtRest, kept_endMotion, kept_modMot]

@[simp] theorem kept_standstillOp (t s) : kept (standstillOp t s) = kept s := by
  unfold standstillOp
  dsimp only
  (repeat' split) <;> simp only [kept_modMot, kept_stopDone, kept_stopAtRest, kept_beginPasses, kept_setRunup, kept_locateDone,
    kept_approachMissed]

@[simp] theorem kept_wrapSettleOp (t s) : kept (wrapSettleOp t s) = kept s := by
  unfold wrapSettleOp
  split <;> simp only [kept_ite, ite_self, kept_setWrap]

@[simp] theorem kept_turnCompleteOp (t s) : kept (turnCompleteOp t s) = kept s := by
  unfold turnCompleteOp
  split <;> simp only [kept_ite, ite_self, kept_endMotion, kept_modMot, kept_setWrap]

@[simp] theorem kept_positionEvents (t a b s) : kept (positionEvents t a b s) = kept s := by
  simp only [positionEvents, kept_ite, ite_self, kept_setEvent]

@[simp] theorem kept_armedFrame (t a b s) : kept (armedFrame t a b s) = kept s := by
  unfold armedFrame
  dsimp only
  split <;> simp only [kept_ite, ite_self, kept_startTaken, kept_startMissed]

@[simp] theorem kept_frameRecord (t va vb dis rev y bit period tstamp s) :
    kept (frameRecord t va vb dis rev y bit period tstamp s) = kept s := by
  simp only [frameRecord, kept_ite, ite_self, kept_modMot, kept_bumpFld, kept_modYoyo, kept_armedFrame, kept_positionEvents,
    kept_capLpos, kept_trigger]

@[simp] theorem kept_servoFrameOp (t f s) : kept (servoFrameOp t f s) = kept s := by
  unfold servoFrameOp
  dsimp only
  (repeat' split) <;> simp only [kept_takeFree, kept_modMot, kept_frameRecord]

@[simp] theorem kept_servoTimeoutOp (t tstamp s) : kept (servoTimeoutOp t tstamp s) = kept s := by
  simp only [servoTimeoutOp, kept_ite, ite_self, kept_frameRecord, kept_modMot]

@[simp] theorem kept_skewMean (s t) : kept (skewMean s t).2 = kept s := by
  unfold skewMean
  dsimp only
  split <;> simp only [kept_takeFree]

@[simp] theorem kept_motionRecordOp (t tens s) : kept (motionRecordOp t tens s) = kept s := by
  simp only [motionRecordOp, kept_ite, ite_self, kept_skewMean, kept_modMot]

@[simp] theorem kept_encoderEdgeOp (t reelB e s) : kept (encoderEdgeOp t reelB e s) = kept s := by
  unfold encoderEdgeOp
  dsimp only
  split <;> simp only [kept_ite, ite_self, kept_modMot, kept_logFault]

@[simp] theorem kept_measureSpeed (t s) : kept (measureSpeed t s) = kept s := by
  unfold measureSpeed
  dsimp only
  split <;> simp only [kept_ite, ite_self, kept_modMot, kept_takeFree]

@[simp] theorem kept_radiusNext (r v ticks cpr s) : kept (radiusNext r v ticks cpr s).2 = kept s := by
  unfold radiusNext
  split <;> simp only [kept_takeFree]

@[simp] theorem kept_measureRadius (t s) : kept (measureRadius t s) = kept s := by
  simp only [measureRadius, kept_ite, ite_self, kept_radiusNext, kept_setFld]

@[simp] theorem kept_assignBand (t s) : kept (assignBand t s) = kept s := by
  simp only [assignBand, kept_ite, ite_self, kept_setEvent, kept_modMot, kept_modYoyo, kept_modLoop]

@[simp] theorem kept_sendFreq (t s) : kept (sendFreq t s) = kept s := by simp only [sendFreq, kept_modWl]

@[simp] theorem kept_yoyoLaw (t s) : kept (yoyoLaw t s) = kept s := by
  unfold yoyoLaw
  dsimp only
  split <;> simp only [kept_ite, ite_self, kept_modYoyo, kept_bumpFld]

@[simp] theorem kept_pausePark (t s) : kept (pausePark t s) = kept s := by
  simp only [pausePark, kept_wlQuiet, kept_modYoyo, kept_ownLocate]

@[simp] theorem kept_pauseBegin (t s) : kept (pauseBegin t s) = kept s := by
  simp only [pauseBegin, kept_ite, ite_self, kept_bumpFld, kept_modYoyo, kept_pausePark]

@[simp] theorem kept_refPause (t s) : kept (refPause t s) = kept s := by simp only [refPause, kept_ite, ite_self, kept_pauseBegin]

@[simp] theorem kept_pauseWatch (t s) : kept (pauseWatch t s) = kept s := by
  simp only [pauseWatch, kept_ite, ite_self, kept_modYoyo, kept_endPause]

@[simp] theorem kept_setvStep (t s) : kept (setvStep t s) = kept s := by
  simp only [setvStep, kept_ite, ite_self, kept_setRunup, kept_modMot]

@[simp] theorem kept_superTimers (t s) : kept (superTimers t s) = kept s := by
  simp only [superTimers, kept_ite, ite_self, implies_true, kept_modMot, kept_forAll, kept_ferrTime]

@[simp] theorem kept_supervisionOp (t cause n s) : kept (supervisionOp t cause n s) = kept s := by
  simp only [supervisionOp, kept_ite, ite_self, kept_supervisionStop]

@[simp] theorem kept_utilTick (t s) : kept (utilTick t s) = kept s := by
  simp only [utilTick, kept_mk, mk_kept, kept_ite, ite_self]

@[simp] theorem kept_tickOp (t s) : kept (tickOp t s) = kept s := by
  simp only [tickOp, kept_ite, ite_self, implies_true, kept_measureRadius, kept_measureSpeed, kept_modMot, kept_sendFreq,
    kept_assignBand, kept_refPause, kept_pauseWatch, kept_yoyoLaw, kept_setvStep, kept_nextPup, kept_superTimers, kept_endMotion,
    kept_forAll, kept_trigger, kept_utilTick]

@[simp] theorem kept_freqStaleOp (s) : kept (freqStaleOp s) = kept s := by simp only [freqStaleOp, kept_cdcEvent]

@[simp] theorem kept_pauseStartOp (t s) : kept (pauseStartOp t s) = kept s := by
  simp only [pauseStartOp, kept_ite, ite_self, kept_pauseBegin]

@[simp] theorem kept_driversOffOp (t s) : kept (driversOffOp t s) = kept s := by
  simp only [driversOffOp, kept_ite, ite_self, kept_pausePark]

@[simp] theorem kept_maxPauseOp (t s) : kept (maxPauseOp t s) = kept s := by simp only [maxPauseOp, kept_wakePause]
@[simp] theorem kept_bandHoldOp (t s) : kept (bandHoldOp t s) = kept s := by simp only [bandHoldOp, kept_modYoyo]
@[simp] theorem kept_refInvalid (t s) : kept (refInvalid t s) = kept s := by simp only [refInvalid, kept_refPause, kept_modYoyo]

@[simp] theorem kept_refPulseOp (t period s) : kept (refPulseOp t period s) = kept s := by
  simp only [refPulseOp, kept_ite, ite_self, kept_logFault, kept_refInvalid, kept_modYoyo]

@[simp] theorem kept_refInvalidOp (t s) : kept (refInvalidOp t s) = kept s := by simp only [refInvalidOp, kept_refInvalid]

@[simp] theorem kept_tensionOn (t s) : kept (tensionOn t s) = kept s := by
  simp only [tensionOn, kept_ite, ite_self, kept_modMot, kept_logIgnored]

@[simp] theorem kept_tensionOff (t s) : kept (tensionOff t s) = kept s := by
  simp only [tensionOff, kept_ite, ite_self, kept_modMot, kept_logIgnored]

@[simp] theorem kept_mcClearOp (t s) : kept (mcClearOp t s) = kept s := by
  simp only [mcClearOp, kept_resendFrame, kept_clearTransport]

@[simp] theorem kept_heartbeatOp (l s) : kept (heartbeatOp l s) = kept s := by
  simp only [heartbeatOp, kept_ite, ite_self, kept_resendFrame]

@[simp] theorem kept_rcClrOp (t r s) : kept (rcClrOp t r s) = kept s := by simp only [rcClrOp, kept_raiseFld]

@[simp] theorem kept_binClearDoneOp (t r s) : kept (binClearDoneOp t r s) = kept s := by
  simp only [binClearDoneOp, kept_ite, ite_self, kept_setFld, kept_modMot]

@[simp] theorem kept_injectionEndOp (s) : kept (injectionEndOp s) = kept s := by
  simp only [injectionEndOp, kept_mk, mk_kept, kept_ite, ite_self]

end Sys2Proof.Machine
end

section
/-! Host commands, program images, cartridges, the context cache, start-up, resets and power supervision leave the fuses
and the waiting commands alone. -/
namespace Sys2Proof.Machine

/-! ### Turns and ends of host commands -/

@[simp] theorem kept_appendRecs (c l s) : kept (appendRecs c l s) = kept s := by
  simp only [appendRecs, kept_modCmd, kept_modStream]

@[simp] theorem kept_dropJob (scid s) : kept (dropJob scid s) = kept s := by
  refine kept_forAll _ (fun e s => ?_) s
  split <;> simp only [kept_ite, kept_modEng, ite_self]

@[simp] theorem kept_discardFrom (scid from' s) : kept (discardFrom scid from' s) = kept s := by
  unfold discardFrom
  split <;> simp only [kept_mk, mk_kept, kept_ite, ite_self, implies_true, kept_forAll, kept_releaseBufs, kept_creditLedger,
    kept_discardSegs, kept_modCtx, kept_endHistory, kept_modCodec, kept_modTp, kept_modStream]

@[simp] theorem kept_replaceDiscard (scid s) : kept (replaceDiscard scid s) = kept s := by
  unfold replaceDiscard
  dsimp only
  (repeat' split) <;> simp only [kept_endCmd, kept_appendRecs, kept_discardFrom]

@[simp] theorem kept_putResult (ps i olen q st s) : kept (putResult ps i olen q st s) = kept s := by
  simp only [putResult, kept_writePieces]

theorem kept_of_giveRecord {c ps i q bytes s u}
    (h : giveRecord c ps i q bytes s = .ok u ∨ giveRecord c ps i q bytes s = .short u) : kept u = kept s := by
  unfold giveRecord at h
  dsimp only at h
  split at h
  · rcases h with h | h <;> cases h
    exact kept_putResult _ _ _ _ _ s
  · split at h
    · simp at h
    · rcases h with h | h <;> cases h
      simp only [kept_putResult, kept_writePieces]

@[simp] theorem kept_endRead (c st n off s) : kept (endRead c st n off s) = kept s := by simp only [endRead, kept_endCmd]
@[simp] theorem kept_heldBytes (r s) : kept (heldBytes r s).2.2 = kept s := by simp only [heldBytes, kept_readParts]

@[simp] theorem kept_readHeld (c ps n i q s) : kept (readHeld c ps n i q s) = kept s := by
  induction n generalizing i q s with
  | zero => rw [readHeld, kept_endRead]
  | succ n ih =>
    unfold readHeld
    split
    · rw [kept_endRead]
    split
    · rw [kept_endRead]
    dsimp only
    split
    · simp only [kept_endRead, kept_putResult, kept_heldBytes]
    split
    next u hu => rw [ih, kept_of_giveRecord (.inl hu), kept_heldBytes]
    next u hu => rw [kept_endRead, kept_of_giveRecord (.inr hu), kept_heldBytes]
    next => rw [kept_endRead]

@[simp] theorem kept_dropFirst (scid d move s) : kept (dropFirst scid d move s) = kept s := by
  unfold dropFirst
  split <;> simp only [kept_dropDecoded, kept_modStream]

@[simp] theorem kept_freeBytes (c ps i olen s) : kept (freeBytes c ps i olen s) = kept s := by
  unfold freeBytes
  dsimp only
  split <;> simp only [kept_takeFree, kept_writePieces]

@[simp] theorem kept_readDecoded (c ps l i s) : kept (readDecoded c ps l i s) = kept s := by
  induction l generalizing i s with
  | nil => rw [readDecoded, kept_modCmd]
  | cons d l ih =>
    unfold readDecoded
    split
    · rfl
    split
    · rw [ih, kept_dropFirst]
    split
    · rw [kept_endRead, kept_writePieces]
    split
    · simp only [kept_endRead, kept_dropFirst, kept_putResult, kept_freeBytes]
    split
    next u hu => rw [kept_endRead, kept_of_giveRecord (.inr hu)]
    next => rw [kept_endRead]
    next u hu =>
      have hu := kept_of_giveRecord (.inl hu)
      dsimp only
      split <;> simp only [ih, kept_endRead, kept_dropFirst, hu]

@[simp] theorem kept_readOn (c s) : kept (readOn c s) = kept s := by
  unfold readOn
  split <;> simp only [kept_readDecoded]

@[simp] theorem kept_turnWrite (c x s) : kept (turnWrite c x s) = kept s := by
  unfold turnWrite
  dsimp only
  (repeat' split) <;> simp only [kept_endCmd, kept_appendRecs]

@[simp] theorem kept_turnRead (c x s) : kept (turnRead c x s) = kept s := by
  simp only [turnRead, kept_ite, kept_endCmd]
  (repeat' split) <;> simp only [kept_endCmd, kept_readOn, kept_modCmd, kept_readHeld]

@[simp] theorem kept_turnFlush (c x s) : kept (turnFlush c x s) = kept s := by
  simp only [turnFlush, kept_ite, ite_self, kept_endCmd, kept_modCmd, kept_wakePause, kept_setEvent, kept_flushPoint]

@[simp] theorem kept_beginClose (scid tag x s) : kept (beginClose scid tag x s) = kept s := by
  simp only [beginClose, kept_ite, ite_self, kept_dropDecoded, kept_modStream, kept_flushPoint]

@[simp] theorem kept_turnClose (c x s) : kept (turnClose c x s) = kept s := by
  simp only [turnClose, kept_ite, ite_self, kept_endCmd, kept_beginClose, kept_modCmd]

@[simp] theorem kept_turnLocate (c x s) : kept (turnLocate c x s) = kept s := by
  unfold turnLocate
  dsimp only
  (repeat' split) <;> simp only [kept_endCmd, kept_modCmd, kept_endHostLocate, kept_nextPup, kept_modMot]

@[simp] theorem kept_turnOf (tag s) : kept (turnOf tag s) = kept s := by
  simp only [turnOf]
  (repeat' split) <;> simp only [kept_endCmd, kept_turnClose, kept_turnWrite, kept_turnRead, kept_turnLocate, kept_turnFlush]

@[simp] theorem kept_doneWrite (c x s) : kept (doneWrite c x s) = kept s := by
  simp only [doneWrite, kept_mk, mk_kept, kept_ite, ite_self, kept_endCmd, kept_modCmd]

@[simp] theorem kept_doneFlush (c x s) : kept (doneFlush c x s) = kept s := by
  simp only [doneFlush, kept_ite, ite_self, kept_endCmd]

@[simp] theorem kept_doneCommit (c x s) : kept (doneCommit c x s) = kept s := by
  simp only [doneCommit, kept_ite, ite_self, kept_endCmd, kept_setEvent, kept_modCmd]

@[simp] theorem kept_doneAbort (c s) : kept (doneAbort c s) = kept s := by simp only [doneAbort, kept_ite, ite_self, kept_endCmd]

@[simp] theorem kept_doneOf (tag s) : kept (doneOf tag s) = kept s := by
  simp only [doneOf]
  (repeat' split) <;> simp only [kept_doneAbort, kept_doneWrite, kept_readOn, kept_doneFlush, kept_doneCommit]

@[simp] theorem kept_freeStream (scid x s) : kept (freeStream scid x s) = kept s := by
  simp only [freeStream, implies_true, kept_forAll, kept_releaseBufs, kept_dropJob, kept_dropHistory, kept_modCodec, kept_modTp,
    kept_setStream]

@[simp] theorem kept_endClose (scid x s) : kept (endClose scid x s) = kept s := by
  simp only [endClose, kept_ite, ite_self, implies_true, kept_freeStream, kept_forAll, kept_endCmd]

@[simp] theorem kept_closeOn (k s) : kept (closeOn k s) = kept s := by
  unfold closeOn
  split <;> simp only [kept_ite, ite_self, kept_endClose, kept_setEvent, kept_modStream]

@[simp] theorem kept_retireRecs (k s) : kept (retireRecs k s) = kept s := by
  unfold retireRecs
  split <;> simp only [kept_ite, ite_self, kept_modStream]

@[simp] theorem kept_settlePass (s) : kept (settlePass s) = kept s := by
  simp only [settlePass, implies_true, kept_forAll, kept_doneOf, kept_turnOf, kept_closeOn, kept_retireRecs]

@[simp] theorem kept_times (f n s) (h : ∀ s, kept (f s) = kept s) : kept (times f n s) = kept s := by
  induction n generalizing s with
  | zero => rfl
  | succ n ih => rw [times, ih, h]

@[simp] theorem kept_settleHost (s) : kept (settleHost s) = kept s := by
  simp only [settleHost, implies_true, kept_times, kept_settlePass]

@[simp] theorem kept_ledgerPostOp (t s) : kept (ledgerPostOp t s) = kept s := by
  unfold ledgerPostOp
  dsimp only
  (repeat' split) <;> simp only [kept_debitLedger, kept_modStream, kept_endCmd]

/-! ### Host commands -/

@[simp] theorem kept_mailboxEnd (st result s) : kept (mailboxEnd st result s) = kept s := by
  simp only [mailboxEnd, kept_mk, mk_kept, implies_true, kept_takeFree, kept_forAll, kept_setReg]

@[simp] theorem kept_testDone (x st s) : kept (testDone x st s) = kept s := by
  unfold testDone
  split <;> simp only [kept_mk, mk_kept, kept_takeFree, kept_endCmd, kept_mailboxEnd]

@[simp] theorem kept_testNext (x s) : kept (testNext x s) = kept s := by
  simp only [testNext, kept_mk, mk_kept, kept_ite, ite_self, kept_testDone]

@[simp] theorem kept_testSuspend (s) : kept (testSuspend s) = kept s := by
  unfold testSuspend
  split <;> simp only [kept_mk, mk_kept, kept_ite, ite_self, kept_testNext]

@[simp] theorem kept_testResume (s) : kept (testResume s) = kept s := by
  unfold testResume
  split <;> simp only [kept_mk, mk_kept, kept_ite, ite_self]

@[simp] theorem kept_testSegmentEnd (fail s) : kept (testSegmentEnd fail s) = kept s := by
  unfold testSegmentEnd
  dsimp only
  (repeat' split) <;> simp only [kept_testNext, kept_escalate, kept_logFault, kept_testDone]

@[simp] theorem kept_testBegin (typ xmask queue tag s) : kept (testBegin typ xmask queue tag s) = kept s := kept_eq rfl rfl rfl

@[simp] theorem kept_wakeUp (s) : kept (wakeUp s) = kept s := by
  simp only [wakeUp, kept_mk, mk_kept, kept_ite, ite_self, implies_true, kept_forAll, kept_modMot]

@[simp] theorem kept_psExpiry (s) : kept (psExpiry s) = kept s := by simp only [psExpiry, kept_mk, mk_kept, kept_ite, ite_self]
@[simp] theorem kept_dropRcUp (s) : kept (dropRcUp s) = kept s := by simp only [dropRcUp, implies_true, kept_forAll, kept_modRc]

@[simp] theorem kept_psEntered (s) : kept (psEntered s) = kept s := by
  unfold psEntered
  split <;> simp only [kept_mk, mk_kept, kept_ite, ite_self, implies_true, kept_forAll, kept_modMot, kept_dropRcUp]

@[simp] theorem kept_setFeatureOp (ep fid index v s) : kept (setFeatureOp ep fid index v s).2.2 = kept s := by
  unfold setFeatureOp
  dsimp only
  (repeat' split) <;> simp only [kept_mk, mk_kept, kept_setFld, kept_modStream]

@[simp] theorem kept_fetchCmd (opc n e f s) (h : ∀ c s, kept (f c s) = kept s) : kept (fetchCmd opc n e f s) = kept s := by
  unfold fetchCmd
  split
  · rfl
  dsimp only
  generalize hw : (if e.opc = 1 ∨ e.opc = 2 ∨ e.opc = 4 then _ else _ : State) = w
  have hw : kept w = kept s := by
    rw [← hw]
    simp only [kept_ite, kept_testSuspend, kept_modQueue, ite_self]
  (repeat' split) <;>
    simp only [kept_makeReady, kept_logCommandError, kept_hifError, kept_endCmd, kept_settleHost, h, kept_mk, mk_kept, hw]

@[simp] theorem kept_needVersion (c f s) (h : ∀ s, kept (f s) = kept s) : kept (needVersion c f s) = kept s := by
  simp only [needVersion, kept_ite, ite_self, h, kept_endCmd]

@[simp] theorem kept_finishOut (c l result s) : kept (finishOut c l result s) = kept s := by
  unfold finishOut
  split <;> simp only [kept_endCmd, kept_writePieces]

@[simp] theorem kept_negotiateOp (c s) : kept (negotiateOp c s) = kept s := by
  simp only [negotiateOp, kept_ite, kept_endCmd]
  (repeat' split) <;> simp only [kept_endCmd, kept_modQueue]

@[simp] theorem kept_identifyOp (c s) : kept (identifyOp c s) = kept s := by
  simp only [identifyOp, implies_true, kept_needVersion, kept_finishOut]

@[simp] theorem kept_getLogOp (c s) : kept (getLogOp c s) = kept s := by
  refine kept_needVersion _ _ s fun s => ?_
  split <;> simp only [kept_endCmd, kept_finishOut]

@[simp] theorem kept_setFeatureCmd (c s) : kept (setFeatureCmd c s) = kept s := by
  simp only [setFeatureCmd, implies_true, kept_needVersion, kept_setFeatureOp, kept_endCmd]

@[simp] theorem kept_selfTestOp (c s) : kept (selfTestOp c s) = kept s := by
  simp only [selfTestOp, kept_ite, ite_self, implies_true, kept_endCmd, kept_needVersion, kept_testBegin, kept_modCmd]

@[simp] theorem kept_abortWrite (c st s) : kept (abortWrite c st s) = kept s := by
  unfold abortWrite
  dsimp only
  (repeat' split) <;> simp only [kept_endCmd, kept_discardFrom, kept_dropJob]

@[simp] theorem kept_abortLocate (c st s) : kept (abortLocate c st s) = kept s := by
  unfold abortLocate
  split <;> simp only [kept_ite, ite_self, kept_endCmd, kept_modStream, kept_commandStop, kept_dropMotion, kept_modMot]

theorem kept_of_abortActive {c st s u} (h : abortActive c st s = some u) : kept u = kept s := by
  unfold abortActive at h
  split at h
  · cases h; exact kept_abortWrite ..
  · cases h; exact kept_endRead ..
  · cases h; exact kept_abortLocate ..
  · cases h; exact kept_endCmd ..
  · cases h; exact kept_endCmd ..
  · split at h
    · split at h
      · cases h; exact kept_testDone ..
      · cases h
    · cases h
  · cases h

@[simp] theorem kept_abortOp (c s) : kept (abortOp c s) = kept s := by
  refine kept_needVersion _ _ s fun s => ?_
  dsimp only
  split
  · split
    · rw [kept_endCmd]
    split
    · rw [kept_endCmd, kept_modCmd]
    split
    next hu => rw [kept_of_abortActive hu, kept_modCmd]
    next => rw [kept_endCmd, kept_modCmd]
  · rw [kept_endCmd]

@[simp] theorem kept_handPosition (t s) : kept (handPosition t s) = kept s := by simp only [handPosition, kept_modTp]

@[simp] theorem kept_openStreamOp (c s) : kept (openStreamOp c s) = kept s := by
  unfold openStreamOp
  split <;> simp only [kept_ite, ite_self, kept_endCmd, kept_modCtx, kept_dropHistory, kept_setStream, kept_handPosition,
    kept_startAtEntry]

@[simp] theorem kept_streamCmdOp (c s) : kept (streamCmdOp c s) = kept s := by
  unfold streamCmdOp
  split <;> simp only [kept_modCmd]

@[simp] theorem kept_completionPost (n s) : kept (completionPost n s) = kept s := by
  unfold completionPost
  split <;> simp only [kept_ite, ite_self, kept_settleHost, kept_postEntry, kept_modQueue]

@[simp] theorem kept_coalesceTimeout (n s) : kept (coalesceTimeout n s) = kept s := by
  simp only [coalesceTimeout, kept_ite, ite_self, kept_signalQueue]

@[simp] theorem kept_noticePost (s) : kept (noticePost s) = kept s := by
  unfold noticePost
  split <;> simp only [kept_mk, mk_kept, kept_ite, ite_self, kept_postEntry]

@[simp] theorem kept_wrongEp (n s) : kept (wrongEp n s) = kept s := by simp only [wrongEp, kept_hifError]

@[simp] theorem kept_badDoorbell (off n s) : kept (badDoorbell off n s) = kept s := by
  simp only [badDoorbell, kept_logAccess, kept_hifError]

@[simp] theorem kept_tailDoorbell (src n ptr s) : kept (tailDoorbell src n ptr s) = kept s := by
  simp only [tailDoorbell, kept_ite, ite_self, kept_wakeUp, kept_wrongEp, kept_badDoorbell, kept_modQueue]

@[simp] theorem kept_headDoorbell (src n ptr s) : kept (headDoorbell src n ptr s) = kept s := by
  unfold headDoorbell
  dsimp only
  (repeat' split) <;> simp only [kept_wakeUp, kept_wrongEp, kept_badDoorbell, kept_settleHost, kept_modQueue]

@[simp] theorem kept_enableQueue (n s) : kept (enableQueue n s) = kept s := by simp only [enableQueue, kept_modQueue]

@[simp] theorem kept_queueEnable (src n cfg s) : kept (queueEnable src n cfg s) = kept s := by
  simp only [queueEnable, kept_ite, ite_self, kept_wakeUp, kept_wrongEp, kept_logAccess, kept_setFld, kept_enableQueue,
    kept_hifError]

@[simp] theorem kept_queueErrClear (src n s) : kept (queueErrClear src n s) = kept s := by
  simp only [queueErrClear, kept_ite, ite_self, kept_wakeUp, kept_setFld, kept_wrongEp]

@[simp] theorem kept_hostMemoryError (n tag s) : kept (hostMemoryError n tag s) = kept s := by
  unfold hostMemoryError
  dsimp only
  (repeat' split) <;> simp only [kept_faultEvent, kept_hifError, kept_raiseFld, kept_settleHost, kept_abortWrite, kept_endCmd]

@[simp] theorem kept_killCmd (tag s) : kept (killCmd tag s) = kept s := by
  unfold killCmd
  split
  · rfl
  dsimp only
  split
  · rw [kept_endCmd, kept_modCmd]
  split
  next hu => rw [kept_of_abortActive hu, kept_modCmd]
  next => rw [kept_modCmd]

@[simp] theorem kept_killQueue (n s) : kept (killQueue n s) = kept s := by
  simp only [killQueue, implies_true, kept_setFld, kept_forAll, kept_killCmd, kept_modQueue, kept_beginClose]

@[simp] theorem kept_killEndpoint (ep s) : kept (killEndpoint ep s) = kept s := by
  simp only [killEndpoint, kept_ite, ite_self, implies_true, kept_settleHost, kept_forAll, kept_killQueue]

@[simp] theorem kept_perstAssert (p s) : kept (perstAssert p s) = kept s := by
  simp only [perstAssert, kept_mk, mk_kept, kept_killEndpoint]

@[simp] theorem kept_mailboxFail (e st off s) : kept (mailboxFail e st off s) = kept s := by
  simp only [mailboxFail, kept_mailboxEnd, kept_logCommandError]

@[simp] theorem kept_mailboxOut (l result s) : kept (mailboxOut l result s) = kept s := by
  simp only [mailboxOut, kept_mk, mk_kept, kept_mailboxEnd]

@[simp] theorem kept_mailboxGo (src s) : kept (mailboxGo src s) = kept s := by
  unfold mailboxGo
  dsimp only
  (repeat' split) <;> simp only [kept_mk, mk_kept, kept_wakeUp, kept_logAccess, kept_testSuspend, kept_mailboxFail,
    kept_mailboxOut, kept_setFeatureOp, kept_testBegin]

@[simp] theorem kept_inputBuffer (cls s) : kept (inputBuffer cls s).2 = kept s := by
  unfold inputBuffer
  dsimp only
  (repeat' split) <;> simp only [kept_mk, mk_kept, kept_allocFor]

@[simp] theorem kept_addInput (r l new s) : kept (addInput r l new s).1 = kept s := by
  simp only [addInput]
  (repeat' split) <;> simp only [kept_bufPut]

@[simp] theorem kept_hostReadData (scid len s) : kept (hostReadData scid len s) = kept s := by
  unfold hostReadData
  dsimp only
  (repeat' split) <;> simp only [implies_true, kept_inputBuffer, kept_settleHost, kept_abortWrite, kept_addInput, kept_modRec,
    kept_forAll, kept_growToken, kept_modCodec, kept_modTp]

/-! ### Program images -/

@[simp] theorem kept_installF (l t s) : kept (installF l t s) = kept s := by simp only [installF, kept_mk, mk_kept, kept_modTp]
@[simp] theorem kept_installLoop (l d n s) : kept (installLoop l d n s) = kept s := by simp only [installLoop, kept_modLoop]
@[simp] theorem kept_installBands (d t s) : kept (installBands d t s) = kept s := by simp only [installBands, kept_modMot]

@[simp] theorem kept_installL (l s) : kept (installL l s) = kept s := by
  simp only [installL, kept_mk, mk_kept, implies_true, kept_forAll, kept_installLoop, kept_installBands]

@[simp] theorem kept_installImage (l targets s) : kept (installImage l targets s) = kept s := by
  simp only [installImage, kept_ite, ite_self, implies_true, kept_forAll, kept_installF, kept_installL]

@[simp] theorem kept_loadProgramOp (c s) : kept (loadProgramOp c s) = kept s := by
  refine kept_needVersion _ _ s fun s => ?_
  split
  · rw [kept_endCmd]
  dsimp only
  split
  · rw [kept_endCmd]
  split <;> simp only [kept_endCmd, kept_forAll, kept_startPending, kept_installImage, kept_logFault, kept_takeFree, implies_true]

@[simp] theorem kept_installBoot (n targets s) : kept (installBoot n targets s) = kept s := by
  unfold installBoot
  dsimp only
  split <;> simp only [kept_installImage, kept_logFault]

@[simp] theorem kept_reinstallAll (s) : kept (reinstallAll s) = kept s := by
  simp only [reinstallAll, kept_ite, ite_self, implies_true, kept_installL, kept_forAll, kept_installF]

/-! ### Cartridges -/

@[simp] theorem kept_seatCart (t c s) : kept (seatCart t c s) = kept s := by
  simp only [seatCart, kept_setFld, kept_modMot, kept_modRc, kept_setRcMode]

@[simp] theorem kept_fwIndex (fmtid version mask first wrap b s at') :
    kept (fwIndex fmtid version mask first wrap b s at').2.2 = kept s := by
  simp only [fwIndex, kept_takeFree]

@[simp] theorem kept_appendSaved (t s) : kept (appendSaved t s) = kept s := by
  unfold appendSaved
  dsimp only
  (repeat' split) <;> simp only [kept_mk, mk_kept, kept_takeFree, kept_fwIndex, kept_modCart]

@[simp] theorem kept_judgeLane (t k s) : kept (judgeLane t k s) = kept s := by
  simp only [judgeLane, kept_ite, ite_self, kept_modTp, kept_logFault, kept_retireLane]

@[simp] theorem kept_freshBins (t s) : kept (freshBins t s) = kept s := by
  simp only [freshBins, kept_mk, mk_kept, kept_ite, ite_self, implies_true, kept_forAll, kept_setFld, kept_markReturned]

@[simp] theorem kept_loadFinish (t s) : kept (loadFinish t s) = kept s := by
  unfold loadFinish
  dsimp only
  (repeat' split) <;> simp only [kept_appendSaved, kept_takeFree, kept_modTp, kept_regrant, kept_freshBins, kept_endCmd]

@[simp] theorem kept_calLocate (t c s) : kept (calLocate t c s) = kept s := by simp only [calLocate, kept_nextPup, kept_modMot]

@[simp] theorem kept_loadOp (c s) : kept (loadOp c s) = kept s := by
  unfold loadOp
  dsimp only
  (repeat' split) <;> simp only [kept_ite, ite_self, implies_true, kept_endCmd, kept_needVersion, kept_setEvent, kept_seatCart,
    kept_modCmd, kept_calLocate, kept_loadFinish, kept_setRcMode]

@[simp] theorem kept_calPassEnd (t band reverse res s) : kept (calPassEnd t band reverse res s) = kept s := by
  simp only [calPassEnd, kept_ite, ite_self, implies_true, kept_forAll, kept_calLane, kept_setFld, kept_loadFinish,
    kept_setRcMode, kept_judgeLane]

@[simp] theorem kept_recordIndex (t s) : kept (recordIndex t s) = kept s := by simp only [recordIndex, kept_modCart]

@[simp] theorem kept_unloadOp (c s) : kept (unloadOp c s) = kept s := by
  simp only [unloadOp, kept_ite, ite_self, implies_true, kept_endCmd, kept_needVersion, kept_setEvent, kept_recordIndex,
    kept_setRcMode, kept_dropMotion, kept_modTp, kept_regrant]

@[simp] theorem kept_fixedRegions (t volid s) : kept (fixedRegions t volid s).2 = kept s := by
  simp only [fixedRegions, kept_takeFree, kept_fwIndex]

@[simp] theorem kept_formatOp (c s) : kept (formatOp c s) = kept s := by
  simp only [formatOp, kept_ite, ite_self, implies_true, kept_endCmd, kept_needVersion, kept_fixedRegions, kept_setRcMode,
    kept_takeFree, kept_modCart, kept_modTp]

/-! ### The system areas -/

@[simp] theorem kept_sysWriteByte (a b s) : kept (sysWriteByte a b s) = kept s := by
  unfold sysWriteByte
  split <;> simp only [kept_setBuf, kept_modCtx]

@[simp] theorem kept_sysWrite (a l s) : kept (sysWrite a l s) = kept s := by
  induction l generalizing a s with
  | nil => rfl
  | cons b l ih => rw [sysWrite, ih, kept_sysWriteByte]

/-! ### The context cache -/

@[simp] theorem kept_modCache (f s) : kept (modCache f s) = kept s := by simp only [modCache, kept_mk, mk_kept]

@[simp] theorem kept_sysPut (a l s) : kept (sysPut a l s) = kept s := by
  unfold sysPut
  split <;> simp only [kept_hbmPut]

@[simp] theorem kept_repairBeat (a s) : kept (repairBeat a s) = kept s := by
  unfold repairBeat
  dsimp only
  (repeat' split) <;> simp only [kept_hbmPut, kept_setBuf, kept_poisonLine]

@[simp] theorem kept_meetSys (f b s) : kept (meetSys f b s) = kept s := by
  simp only [meetSys, kept_mk, mk_kept, kept_ite, ite_self, kept_bumpFld, kept_faultEvent, kept_repairBeat, kept_memError]

@[simp] theorem kept_readLine (line s) : kept (readLine line s).2 = kept s := by
  simp only [readLine, kept_ite, ite_self, implies_true, kept_forAll, kept_meetSys, kept_memError]

@[simp] theorem kept_putLine (set w l s) : kept (putLine set w l s) = kept s := by simp only [putLine, kept_modCache]

@[simp] theorem kept_flipWay (w set s) : kept (flipWay w set s) = kept s := by
  simp only [flipWay, kept_mk, mk_kept, kept_ite, ite_self]

@[simp] theorem kept_storeLine (set w l s) : kept (storeLine set w l s) = kept s := by
  simp only [storeLine, kept_flipWay, kept_putLine]

@[simp] theorem kept_writeBack (l s) : kept (writeBack l s) = kept s := by
  simp only [writeBack, kept_ite, ite_self, kept_modCache, kept_sysPut]

@[simp] theorem kept_checkLine (line w s) : kept (checkLine line w s).2 = kept s := by
  unfold checkLine
  dsimp only
  (repeat' split) <;> simp only [kept_mk, mk_kept, kept_bumpFld, kept_sramEvent, kept_memError, kept_putLine, kept_poisonLine]

@[simp] theorem kept_allocLine (line w prefetch s) : kept (allocLine line w prefetch s) = kept s := by
  simp only [allocLine, kept_modCache, kept_putLine]

@[simp] theorem kept_prefetchNext (line s) : kept (prefetchNext line s) = kept s := by
  simp only [prefetchNext, kept_ite]
  (repeat' split) <;> simp only [kept_allocLine]

@[simp] theorem kept_serve (agent addr l s) : kept (serve agent addr l s) = kept s := by simp only [serve, kept_modCache]

@[simp] theorem kept_directAccess (r s) : kept (directAccess r s) = kept s := by
  unfold directAccess
  split <;> simp only [kept_sysPut, kept_readLine, kept_serve]

@[simp] theorem kept_hitAccess (r w s) : kept (hitAccess r w s) = kept s := by
  unfold hitAccess
  split <;> simp only [kept_modCache, kept_serve, kept_storeLine]

@[simp] theorem kept_missAccess (r s) : kept (missAccess r s) = kept s := by
  unfold missAccess
  dsimp only
  (repeat' split) <;> simp only [kept_modCache, kept_directAccess, kept_allocLine, kept_prefetchNext]

@[simp] theorem kept_cacheLookup (r s) : kept (cacheLookup r s) = kept s := by
  unfold cacheLookup
  dsimp only
  (repeat' split) <;> simp only [kept_directAccess, kept_missAccess, kept_checkLine, kept_hitAccess]

@[simp] theorem kept_cacheAccess (agent addr wr s) : kept (cacheAccess agent addr wr s) = kept s := by
  unfold cacheAccess
  dsimp only
  (repeat' split) <;> simp only [kept_badAddress, kept_sysWrite, kept_cacheLookup, kept_modCache, kept_hbmPut, kept_serve,
    kept_demandRead]

@[simp] theorem kept_retryWaits (s) : kept (retryWaits s) = kept s := by
  simp only [retryWaits, implies_true, kept_forAll, kept_cacheLookup, kept_modCache]

@[simp] theorem kept_cacheFill (line s) : kept (cacheFill line s) = kept s := by
  unfold cacheFill
  split
  · rfl
  next f _ =>
    dsimp only
    rw [kept_retryWaits, kept_forAll, kept_storeLine, kept_modCache, kept_readLine]
    intro r s
    split <;> simp only [kept_serve, kept_putLine]

@[simp] theorem kept_snoopOne (addr l scrub s) : kept (snoopOne addr l scrub s) = kept s := by
  unfold snoopOne
  dsimp only
  (repeat' split) <;> simp only [kept_sysWrite, kept_hbmPut, kept_modCache, kept_sysPut, kept_putLine]

@[simp] theorem kept_snoopBytes (scrub n addr l s) : kept (snoopBytes scrub n addr l s) = kept s := by
  induction n generalizing addr l s with
  | zero => rfl
  | succ n ih =>
    cases l with
    | nil => rfl
    | cons b l => rw [snoopBytes, ih, kept_snoopOne]

@[simp] theorem kept_snoopWrite (addr l scrub s) : kept (snoopWrite addr l scrub s) = kept s := by
  unfold snoopWrite
  split <;> simp only [kept_badAddress, kept_snoopBytes]

@[simp] theorem kept_evictionAccept (line s) : kept (evictionAccept line s) = kept s := by
  unfold evictionAccept
  split <;> simp only [implies_true, kept_modCache, kept_sysPut, kept_retryWaits, kept_forAll, kept_snoopOne]

@[simp] theorem kept_cleanSome (p back keep s) : kept (cleanSome p back keep s) = kept s := by
  simp only [cleanSome, kept_ite, ite_self, implies_true, kept_forAll, kept_writeBack, kept_putLine]

@[simp] theorem kept_emptyWay (w s) : kept (emptyWay w s) = kept s := by simp only [emptyWay, kept_cleanSome, kept_modCache]
@[simp] theorem kept_ccInit (s) : kept (ccInit s) = kept s := by simp only [ccInit, kept_ite, ite_self, kept_modCache]
@[simp] theorem kept_ccInitDone (s) : kept (ccInitDone s) = kept s := by simp only [ccInitDone, kept_ite, ite_self, kept_modCache]

@[simp] theorem kept_ccEnable (en s) : kept (ccEnable en s) = kept s := by
  simp only [ccEnable, kept_ite, ite_self, kept_modCache, kept_logAccess, kept_cleanSome]

@[simp] theorem kept_ccWayPower (ways s) : kept (ccWayPower ways s) = kept s := by
  simp only [ccWayPower, kept_ite, ite_self, implies_true, kept_forAll, kept_emptyWay, kept_modCache]

@[simp] theorem kept_ccWayRetire (ways s) : kept (ccWayRetire ways s) = kept s := by
  simp only [ccWayRetire, implies_true, kept_forAll, kept_retireWay]

@[simp] theorem kept_ccWayCleanDone (w s) : kept (ccWayCleanDone w s) = kept s := by
  simp only [ccWayCleanDone, kept_ite, ite_self, kept_emptyWay]

@[simp] theorem kept_ccRange (cmd s) : kept (ccRange cmd s) = kept s := by
  simp only [ccRange, kept_ite, ite_self, kept_logAccess, kept_setFld, kept_modCache, kept_cleanSome]

@[simp] theorem kept_ccRangeDone (s) : kept (ccRangeDone s) = kept s := by simp only [ccRangeDone, kept_modCache]

@[simp] theorem kept_ccScratchpad (sp s) : kept (ccScratchpad sp s) = kept s := by
  simp only [ccScratchpad, implies_true, kept_forAll, kept_modCache, kept_emptyWay]

@[simp] theorem kept_scratchpadReady (i s) : kept (scratchpadReady i s) = kept s := by
  simp only [scratchpadReady, kept_ite, ite_self, kept_modCache, kept_emptyWay]

@[simp] theorem kept_scratchpadAccess (agent addr wr s) : kept (scratchpadAccess agent addr wr s) = kept s := by
  unfold scratchpadAccess
  split <;> simp only [kept_ite, ite_self, kept_badAddress, kept_modCache, kept_serve, kept_logAccess]

@[simp] theorem kept_scrubBeat (b s) : kept (scrubBeat b s) = kept s := by
  unfold scrubBeat
  dsimp only
  (repeat' split) <;> simp only [kept_meetSys, kept_putLine, kept_meetBeat]

@[simp] theorem kept_scrubLine (s) : kept (scrubLine s) = kept s := by
  simp only [scrubLine, kept_mk, mk_kept, kept_ite, ite_self, implies_true, kept_forAll, kept_scrubBeat, kept_bumpFld,
    kept_setFld]

@[simp] theorem kept_memFlipArm (sel s) : kept (memFlipArm sel s) = kept s := by
  simp only [memFlipArm, kept_mk, mk_kept, kept_ite, ite_self, kept_logAccess, kept_setFld]

/-! ### Start-up and resets -/

@[simp] theorem kept_loadRow (r s) : kept (loadRow r s) = kept s := by simp only [loadRow, implies_true, kept_forAll, kept_setFld]

@[simp] theorem kept_loadClasses (s) : kept (loadClasses s) = kept s := by
  simp only [loadClasses, implies_true, kept_setFld, kept_forAll, kept_setReg]

@[simp] theorem kept_loadHead (t s) : kept (loadHead t s) = kept s := by
  simp only [loadHead, kept_ite, ite_self, implies_true, kept_forAll, kept_setFld]

@[simp] theorem kept_loadFirmware (warm s) : kept (loadFirmware warm s) = kept s := by
  simp only [loadFirmware, kept_ite, ite_self, implies_true, kept_loadClasses, kept_forAll, kept_loadRow, kept_setFld,
    kept_loadHead]

@[simp] theorem kept_reloadUnit (u s) : kept (reloadUnit u s) = kept s := by
  simp only [reloadUnit, kept_mk, mk_kept, kept_ite, ite_self, kept_markRetired, kept_retireUnit]

@[simp] theorem kept_reloadUnits (f s) : kept (reloadUnits f s) = kept s := by
  simp only [reloadUnits, implies_true, kept_forAll, kept_reloadUnit]

@[simp] theorem kept_chooseHome (s) : kept (chooseHome s) = kept s := by simp only [chooseHome, kept_mk, mk_kept]

@[simp] theorem kept_bootTables (warm s) : kept (bootTables warm s) = kept s := by
  simp only [bootTables, kept_mk, mk_kept, kept_ite, ite_self, kept_reloadUnits, kept_loadFirmware, kept_chooseHome, kept_setReg,
    kept_setFld]

@[simp] theorem kept_installMl1 (s) : kept (installMl1 s) = kept s := by
  simp only [installMl1, kept_ite, ite_self, kept_installL, kept_installBoot, kept_logFault]

@[simp] theorem kept_bootImages (s) : kept (bootImages s) = kept s := by
  simp only [bootImages, kept_reloadUnits, kept_installBoot, kept_installMl1]

@[simp] theorem kept_bootDone (s) : kept (bootDone s) = kept s := by
  simp only [bootDone, kept_mk, mk_kept, kept_ite, ite_self, kept_notice, kept_setFld]

@[simp] theorem kept_measStart (s) : kept (measStart s) = kept s := by simp only [measStart, kept_mk, mk_kept, kept_ite, ite_self]

@[simp] theorem kept_capacitance (v0 v1 s) : kept (capacitance v0 v1 s).2 = kept s := by
  unfold capacitance
  dsimp only
  split <;> simp only [kept_takeFree]

@[simp] theorem kept_measResult (m early s) : kept (measResult m early s) = kept s := by
  simp only [measResult, kept_mk, mk_kept, kept_ite, ite_self, kept_capacitance, kept_setFld, kept_regrant, kept_raiseFld,
    kept_bootDone]

@[simp] theorem kept_measEnd (s) : kept (measEnd s) = kept s := by
  unfold measEnd
  split <;> simp only [kept_ite, ite_self, kept_measResult]

@[simp] theorem kept_measWatch (s) : kept (measWatch s) = kept s := by
  unfold measWatch
  split <;> simp only [kept_ite, ite_self, kept_measResult]

@[simp] theorem kept_hbmTrained (s) : kept (hbmTrained s) = kept s := by
  simp only [hbmTrained, kept_mk, mk_kept, kept_ite, ite_self]

@[simp] theorem kept_ucieTrained (t ok s) : kept (ucieTrained t ok s) = kept s := by
  simp only [ucieTrained, kept_ite, ite_self, kept_modTp, kept_permanent, kept_clearEvent, kept_faultEvent]

@[simp] theorem kept_hbmSwept (s) : kept (hbmSwept s) = kept s := by
  simp only [hbmSwept, kept_mk, mk_kept, kept_ite, ite_self, kept_measStart, kept_bootImages, kept_bootTables]

@[simp] theorem kept_keepLocked (old w) : kept (keepLocked old w) = kept w := by
  simp only [keepLocked, kept_ite, ite_self, implies_true, kept_setReg, kept_forAll, kept_setFld]

@[simp] theorem kept_warmReset (cause s) : kept (warmReset cause s) = kept s := by
  simp only [warmReset, kept_mk, mk_kept, implies_true, kept_reinstallAll, kept_bootTables, kept_keepLocked, kept_forAll,
    kept_modTp, kept_bootDone, kept_applyCaps, kept_regrant]

@[simp] theorem kept_coldReset (s) : kept (coldReset s) = kept s := by simp only [coldReset, kept_mk, mk_kept]

/-! ### Power supervision -/

@[simp] theorem kept_modPwr (f s) : kept (modPwr f s) = kept s := by simp only [modPwr, kept_mk, mk_kept]

@[simp] theorem kept_programRlog (cause s) : kept (programRlog cause s) = kept s := by
  simp only [programRlog, kept_takeFree, kept_modPwr]

@[simp] theorem kept_powerFailCmd (tag s) : kept (powerFailCmd tag s) = kept s := by
  unfold powerFailCmd
  dsimp only
  (repeat' split) <;> simp only [kept_testDone, kept_endCmd]

@[simp] theorem kept_discardUnless (keep x s) : kept (discardUnless keep x s) = kept s := by
  unfold discardUnless
  split <;> simp only [kept_discardFrom, kept_dropJob]

@[simp] theorem kept_freezeSpeed (t s) : kept (freezeSpeed t s) = kept s := by
  simp only [freezeSpeed, kept_endPause, kept_modYoyo]

@[simp] theorem kept_beginRecord (s) : kept (beginRecord s) = kept s := by
  unfold beginRecord
  split <;> simp only [implies_true, kept_forAll, kept_discardUnless, kept_modPwr, kept_commandStop]

@[simp] theorem kept_shortfall (s) : kept (shortfall s) = kept s := by
  unfold shortfall
  split <;> simp only [implies_true, kept_raiseFld, kept_modPwr, kept_beginRecord, kept_forAll, kept_wlMotionFault]

@[simp] theorem kept_watchBank (s) : kept (watchBank s) = kept s := by
  unfold watchBank
  split <;> simp only [kept_ite, ite_self, kept_shortfall]

@[simp] theorem kept_stopIntake (s) : kept (stopIntake s) = kept s := by
  unfold stopIntake
  dsimp only
  split <;> simp only [implies_true, kept_forAll, kept_powerFailCmd, kept_testDone, kept_discardUnless, kept_flushPoint,
    kept_freezeSpeed]

@[simp] theorem kept_startCommit (cause s) : kept (startCommit cause s) = kept s := by
  simp only [startCommit, kept_ite, ite_self, implies_true, kept_wakeUp, kept_modPwr, kept_bumpFld, kept_raiseFld,
    kept_programRlog, kept_forAll, kept_setEvent, kept_wakePause, kept_watchBank, kept_settleHost, kept_stopIntake]

@[simp] theorem kept_commitRecord (s) : kept (commitRecord s) = kept s := by
  unfold commitRecord
  split <;> simp only [kept_ite, ite_self, kept_beginRecord]

@[simp] theorem kept_pfailHigh (s) : kept (pfailHigh s).2 = kept s := by
  unfold pfailHigh
  split <;> simp only [kept_takeFree]

@[simp] theorem kept_commitEnd (s) : kept (commitEnd s) = kept s := by
  unfold commitEnd
  split <;> simp only [kept_ite, ite_self, kept_regrant, kept_modPwr, kept_pfailHigh, kept_warmReset]

@[simp] theorem kept_eraseDone (s) : kept (eraseDone s) = kept s := by
  simp only [eraseDone, kept_ite, ite_self, kept_regrant, kept_modPwr]

@[simp] theorem kept_pfailAccept (s) : kept (pfailAccept s) = kept s := by
  simp only [pfailAccept, kept_ite, ite_self, kept_raiseFld, kept_startCommit, kept_modPwr]

@[simp] theorem kept_takeSample (vin vhu s) : kept (takeSample vin vhu s) = kept s := by simp only [takeSample, kept_modPwr]

@[simp] theorem kept_startSag (s) : kept (startSag s) = kept s := by
  simp only [startSag, kept_applyCaps, kept_bumpFld, kept_raiseFld, kept_modPwr]

@[simp] theorem kept_supplySample (vinCode vhuCode s) : kept (supplySample vinCode vhuCode s) = kept s := by
  simp only [supplySample, kept_ite, ite_self, kept_takeSample, kept_raiseFld, kept_bumpFld, kept_modPwr, kept_watchBank,
    kept_startSag, kept_startCommit, kept_measWatch, kept_regrant]

@[simp] theorem kept_sagTimeout (s) : kept (sagTimeout s) = kept s := by
  simp only [sagTimeout, kept_ite, ite_self, kept_startCommit]

@[simp] theorem kept_sagClear (s) : kept (sagClear s) = kept s := by
  simp only [sagClear, kept_ite, ite_self, kept_applyCaps, kept_modPwr]

@[simp] theorem kept_measPeriodic (s) : kept (measPeriodic s) = kept s := by
  simp only [measPeriodic, kept_ite, ite_self, kept_measStart]

@[simp] theorem kept_rlogAck (s) : kept (rlogAck s) = kept s := by
  simp only [rlogAck, kept_ite, ite_self, kept_modPwr, kept_setFld]

@[simp] theorem kept_tempUpdate (temp s) : kept (tempUpdate temp s) = kept s := by
  simp only [tempUpdate, kept_ite, ite_self, kept_modPwr, kept_raiseFld, kept_applyCaps, kept_measStart]

@[simp] theorem kept_warmRequest (s) : kept (warmRequest s) = kept s := by
  simp only [warmRequest, kept_ite, ite_self, kept_modPwr, kept_startCommit, kept_warmReset]

/-! ### Retries and telemetry -/

@[simp] theorem kept_retryExpiry (u s) : kept (retryExpiry u s) = kept s := by
  simp only [retryExpiry, kept_mk, mk_kept, kept_ite, ite_self, kept_restoreLoops, kept_clearTransport]

@[simp] theorem kept_retryClear (t s) : kept (retryClear t s) = kept s := by
  simp only [retryClear, kept_ite, ite_self, kept_clearEvent]

@[simp] theorem kept_ucieError (t s) : kept (ucieError t s) = kept s := by
  simp only [ucieError, kept_ite, ite_self, kept_faultEvent]

@[simp] theorem kept_telFreeze (s) : kept (telFreeze s) = kept s := by
  simp only [telFreeze, kept_mk, mk_kept, kept_ite, ite_self, kept_logAccess]

@[simp] theorem kept_freezeDone (s) : kept (freezeDone s) = kept s := by
  simp only [freezeDone, kept_mk, mk_kept, kept_ite, ite_self]

end Sys2Proof.Machine
end

section
/-! Register accesses and the operations of single rows leave the fuses and the waiting commands alone. -/
namespace Sys2Proof.Machine

/-! ### Registers whose write starts an action -/

@[simp] theorem kept_hostWakes (src s) : kept (hostWakes src s) = kept s := by
  unfold hostWakes
  split <;> simp only [kept_wakeUp]

@[simp] theorem kept_byDebug (src ts off f s) (h : ∀ s, kept (f s) = kept s) : kept (byDebug src ts off f s) = kept s := by
  simp only [byDebug, kept_ite, ite_self, h, kept_hostWakes, kept_logAccess]

@[simp] theorem kept_byFirmware (src off f s) (h : ∀ s, kept (f s) = kept s) : kept (byFirmware src off f s) = kept s := by
  simp only [byFirmware, implies_true, h, kept_byDebug]

@[simp] theorem kept_byChiplet (src c off f s) (h : ∀ s, kept (f s) = kept s) : kept (byChiplet src c off f s) = kept s := by
  simp only [byChiplet, kept_ite, ite_self, h, kept_hostWakes, kept_logAccess]

@[simp] theorem kept_byAny (src f s) (h : ∀ s, kept (f s) = kept s) : kept (byAny src f s) = kept s := by
  simp only [byAny, kept_ite, ite_self, h, kept_hostWakes]

@[simp] theorem kept_tsRow (src t f s) (h : ∀ s, kept (f s) = kept s) : kept (tsRow src t f s) = kept s := by
  simp only [tsRow, implies_true, h, kept_byDebug]

@[simp] theorem kept_tsLockOp (t s) : kept (tsLockOp t s) = kept s := by simp only [tsLockOp, kept_raiseFld]
@[simp] theorem kept_lockViolation (t s) : kept (lockViolation t s) = kept s := by simp only [lockViolation, kept_bumpFld]

@[simp] theorem kept_setDbgEn (t b s) : kept (setDbgEn t b s) = kept s := by
  simp only [setDbgEn, kept_ite, ite_self, kept_lockViolation, kept_setFld]

@[simp] theorem kept_onBit (v n f s) (h : ∀ s, kept (f s) = kept s) : kept (onBit v n f s) = kept s := by
  simp only [onBit, kept_ite, ite_self, h]

@[simp] theorem kept_tsCtrlWrite (t v s) : kept (tsCtrlWrite t v s) = kept s := by
  simp only [tsCtrlWrite, implies_true, kept_setFld, kept_onBit, kept_tsLockOp, kept_setDbgEn, kept_haltRequest, kept_tsStepOp,
    kept_tsRunOp, kept_tsRestartOp, kept_tsFlushOp]

@[simp] theorem kept_laneCmd (t k cmd s) : kept (laneCmd t k cmd s) = kept s := by
  unfold laneCmd
  split <;> simp only [kept_laneFault, kept_laneReturn]

@[simp] theorem kept_laneCmdRow (src t k cmd s) : kept (laneCmdRow src t k cmd s) = kept s := by
  simp only [laneCmdRow, implies_true, kept_byDebug, kept_laneCmd]

@[simp] theorem kept_rcModeRow (src t m s) : kept (rcModeRow src t m s) = kept s := by
  simp only [rcModeRow, kept_ite, ite_self, implies_true, kept_byDebug, kept_logAccess, kept_setRcMode]

@[simp] theorem kept_rcEngRow (src e retired s) : kept (rcEngRow src e retired s) = kept s := by
  unfold rcEngRow
  split <;> simp only [implies_true, kept_byChiplet, kept_retireEngine, kept_returnEngine]

@[simp] theorem kept_rcCapRow (src c n s) : kept (rcCapRow src c n s) = kept s := by
  simp only [rcCapRow, kept_ite, ite_self, implies_true, kept_byChiplet, kept_logAccess, kept_armCapture]

@[simp] theorem kept_codecEngRow (src e retired s) : kept (codecEngRow src e retired s) = kept s := by
  simp only [codecEngRow, kept_ite, ite_self, implies_true, kept_byFirmware, kept_codecRetireOp]

@[simp] theorem kept_offEnableRow (src cfg s) : kept (offEnableRow src cfg s) = kept s := by
  unfold offEnableRow
  split <;> simp only [kept_ite, ite_self, implies_true, kept_byAny, kept_offEnableOp, kept_modCodec]

@[simp] theorem kept_tbxRow (src off f s) (h : ∀ s, kept (f s) = kept s) : kept (tbxRow src off f s) = kept s := by
  simp only [tbxRow, implies_true, h, kept_byDebug]

@[simp] theorem kept_tbxLockOp (s) : kept (tbxLockOp s) = kept s := by simp only [tbxLockOp, kept_raiseFld]

@[simp] theorem kept_tbxCtrlWrite (v s) : kept (tbxCtrlWrite v s) = kept s := by
  simp only [tbxCtrlWrite, kept_ite, ite_self, implies_true, kept_serveAll, kept_setFld, kept_onBit, kept_tbxLockOp]

@[simp] theorem kept_mcRow (src t off f s) (h : ∀ s, kept (f s) = kept s) : kept (mcRow src t off f s) = kept s := by
  simp only [mcRow, implies_true, h, kept_byDebug]

@[simp] theorem kept_motionCmd (t cmd s) : kept (motionCmd t cmd s) = kept s := by
  unfold motionCmd
  split <;> simp only [kept_supervisionStop, kept_mcClearOp, kept_tensionOn, kept_tensionOff]

@[simp] theorem kept_motionCmdRow (src t cmd s) : kept (motionCmdRow src t cmd s) = kept s := by
  simp only [motionCmdRow, implies_true, kept_mcRow, kept_motionCmd]

@[simp] theorem kept_mcRcWrite (t r v s) : kept (mcRcWrite t r v s) = kept s := by
  simp only [mcRcWrite, implies_true, kept_setFld, kept_onBit, kept_rcClrOp]

@[simp] theorem kept_mcInjWrite (v s) : kept (mcInjWrite v s) = kept s := by
  simp only [mcInjWrite, kept_mk, mk_kept, kept_ite, ite_self, implies_true, kept_setReg, kept_onBit, kept_startInjection]

@[simp] theorem kept_mcCapWrite (v s) : kept (mcCapWrite v s) = kept s := by
  simp only [mcCapWrite, implies_true, kept_setReg, kept_onBit, kept_armLoopCapture]

@[simp] theorem kept_memRow (src off f s) (h : ∀ s, kept (f s) = kept s) : kept (memRow src off f s) = kept s := by
  simp only [memRow, implies_true, h, kept_byDebug]

@[simp] theorem kept_ccCtrlWrite (v s) : kept (ccCtrlWrite v s) = kept s := by
  simp only [ccCtrlWrite, kept_ite, ite_self, implies_true, kept_ccEnable, kept_onBit, kept_ccInit]

@[simp] theorem kept_ccRngWrite (cmd s) : kept (ccRngWrite cmd s) = kept s := by
  simp only [ccRngWrite, kept_ite, ite_self, kept_ccRange, kept_logAccess, kept_setFld]

@[simp] theorem kept_flipselWrite (v s) : kept (flipselWrite v s) = kept s := by
  simp only [flipselWrite, kept_ite, ite_self, implies_true, kept_logAccess, kept_setFld, kept_onBit, kept_memFlipArm]

@[simp] theorem kept_fltRetCmd (u cmd s) : kept (fltRetCmd u cmd s) = kept s := by
  unfold fltRetCmd
  split <;> simp only [kept_fltRetire, kept_fltReturn]

@[simp] theorem kept_fltRetRow (src u cmd s) : kept (fltRetRow src u cmd s) = kept s := by
  simp only [fltRetRow, implies_true, kept_byDebug, kept_fltRetCmd]

@[simp] theorem kept_fltBcastRow (src mask s) : kept (fltBcastRow src mask s) = kept s := by
  simp only [fltBcastRow, implies_true, kept_byDebug, kept_forAll, kept_haltRequest]

/-! ### Register accesses -/

@[simp] theorem kept_msixRead (src off s) : kept (msixRead src off s).2 = kept s := by
  unfold msixRead
  split <;> simp only [kept_takeFree]

@[simp] theorem kept_msixWrite (src off v s) : kept (msixWrite src off v s) = kept s := by
  simp only [msixWrite, kept_mk, mk_kept, kept_ite, ite_self]

theorem kept_of_mem_accessBars (src off s) : ∀ r ∈ accessBars src off s, kept r.2 = kept s := by
  unfold accessBars
  repeat' apply forall_mem_ite
  case hb.hb.hb.hb.hb =>
    split
    · apply forall_mem_ite
      · exact fun _ h => absurd h (Option.not_mem_none _)
      · rintro _ ⟨⟩
        exact kept_wrongEp _ s
    · exact fun _ h => absurd h (Option.not_mem_none _)
  all_goals rintro _ ⟨⟩
  all_goals simp only [kept_logAccess, kept_msixRead]

@[simp] theorem kept_plainRead (off s) : kept (plainRead off s).2 = kept s := by
  simp only [plainRead]
  (repeat' split) <;> simp only [kept_setReg]

@[simp] theorem kept_readAt (off s) : kept (readAt off s).2 = kept s := by
  unfold readAt
  split <;> simp only [kept_mk, mk_kept, kept_plainRead]

@[simp] theorem kept_readAny (src off s) : kept (readAny src off s) = kept s := by
  simp only [readAny, kept_mk, mk_kept]
  cases hb : accessBars src off (hostWakes src s) with
  | none => rw [Option.getD_none, kept_readAt, kept_hostWakes]
  | some r => rw [Option.getD_some, kept_of_mem_accessBars _ _ _ r hb, kept_hostWakes]

@[simp] theorem kept_afterWrite (off s) : kept (afterWrite off s) = kept s := by
  simp only [afterWrite, kept_ite, ite_self, kept_regrant, kept_serveAll]

@[simp] theorem kept_storeWrite (row off v s) : kept (storeWrite row off v s) = kept s := by
  simp only [storeWrite, kept_ite, ite_self, kept_logAccess, kept_lockViolation, kept_afterWrite, kept_setReg]

@[simp] theorem kept_coefWrite (lo v s) : kept (coefWrite lo v s) = kept s := by
  simp only [coefWrite, kept_ite, ite_self, kept_logAccess, kept_modLoop]

@[simp] theorem kept_pairEffect (lo v s) : kept (pairEffect lo v s) = kept s := by
  simp only [pairEffect, kept_ite, ite_self, kept_coefWrite, kept_modMot, kept_logAccess, kept_setPair]

@[simp] theorem kept_pairWrite (lo upper v s) : kept (pairWrite lo upper v s) = kept s := by
  simp only [pairWrite, kept_mk, mk_kept, kept_ite, ite_self, kept_pairEffect]

@[simp] theorem kept_windowWrite (off v s) : kept (windowWrite off v s) = kept s := by
  simp only [windowWrite, kept_ite, ite_self, kept_setZone, kept_modRc, kept_modLoop, kept_logAccess, kept_modMot]

@[simp] theorem kept_lctlWrite (l v s) : kept (lctlWrite l v s) = kept s := by
  simp only [lctlWrite, kept_ite, ite_self, kept_logAccess, kept_setFld, kept_modLoop]

theorem kept_of_mem_ownWrite (src base i j off v) : ∀ f ∈ ownWrite src base i j off v, ∀ s, kept (f s) = kept s := by
  unfold ownWrite
  repeat' apply forall_mem_ite
  all_goals rintro _ ⟨⟩ s
  all_goals simp only [kept_byAny, kept_onBit, kept_warmRequest, kept_tsRow, kept_tsCtrlWrite, kept_byDebug, kept_tsEvpostOp,
    kept_laneCmdRow, kept_rcModeRow, kept_rcEngRow, kept_byChiplet, kept_logAccess, kept_armCapture, kept_setReg,
    kept_codecEngRow, kept_offEnableRow, kept_offSubmitOp, kept_tbxRow, kept_tbxCtrlWrite, kept_waitclrOp, kept_inspidOp,
    kept_motionCmdRow, kept_mcRow, kept_mcRcWrite, kept_lctlWrite, kept_mcInjWrite, kept_mcCapWrite, kept_queueEnable,
    kept_queueErrClear, kept_tailDoorbell, kept_headDoorbell, kept_mailboxGo, kept_memRow, kept_ccCtrlWrite, kept_ccWayRetire,
    kept_ccWayPower, kept_ccScratchpad, kept_ccRngWrite, kept_flipselWrite, kept_writeRemap, kept_measStart, kept_rlogAck,
    kept_fltRetRow, kept_fltBcastRow, kept_telFreeze, kept_ite, ite_self, implies_true]

@[simp] theorem kept_windowRow (src off v s) : kept (windowRow src off v s) = kept s := by
  simp only [windowRow, kept_ite]
  (repeat' split) <;> simp only [implies_true, kept_byDebug, kept_pairWrite, kept_windowWrite]

@[simp] theorem kept_writeAt (src off v s) : kept (writeAt src off v s) = kept s := by
  unfold writeAt
  split
  · rw [kept_windowRow]
  split
  · rfl
  split
  next f hf => exact kept_of_mem_ownWrite _ _ _ _ _ _ f hf s
  next =>
    split
    · rw [kept_logAccess]
    split
    · rfl
    split <;> simp only [kept_pairWrite, kept_storeWrite]

@[simp] theorem kept_writeAny (src off v s) : kept (writeAny src off v s) = kept s := by
  unfold writeAny
  dsimp only
  split
  next r hr =>
    split
    · rw [kept_hostWakes]
    · rw [kept_msixWrite, kept_of_mem_accessBars _ _ _ r hr, kept_hostWakes]
  · rw [kept_writeAt, kept_hostWakes]

@[simp] theorem kept_malformedAny (src off size read s) : kept (malformedAny src off size read s) = kept s := by
  simp only [malformedAny, kept_mk, mk_kept, kept_ite, ite_self, kept_logAccess, kept_hostWakes]

@[simp] theorem kept_unmappedAny (src off read s) : kept (unmappedAny src off read s) = kept s := by
  simp only [unmappedAny, kept_mk, mk_kept, kept_ite, ite_self, kept_logAccess, kept_hostWakes]

/-! ### Operations of single rows -/

@[simp] theorem kept_lowerRead (src off s) : kept (lowerRead src off s) = kept s := by simp only [lowerRead, kept_readAny]
@[simp] theorem kept_upperRead (src off s) : kept (upperRead src off s) = kept s := by simp only [upperRead, kept_readAny]

@[simp] theorem kept_endpointLost (ep s) : kept (endpointLost ep s) = kept s := by
  simp only [endpointLost, kept_ite, ite_self, kept_faultEvent, kept_killEndpoint]

@[simp] theorem kept_linkDownOp (ep s) : kept (linkDownOp ep s) = kept s := by simp only [linkDownOp, kept_endpointLost]

@[simp] theorem kept_perstRow (p s) : kept (perstRow p s) = kept s := by
  simp only [perstRow, kept_ite, ite_self, kept_perstAssert, kept_faultEvent]

@[simp] theorem kept_loopRow (f s) (h : ∀ s, kept (f s) = kept s) : kept (loopRow f s) = kept s := by
  simp only [loopRow, kept_ite, ite_self, h, kept_settleHost]

@[simp] theorem kept_ldpcRow (e fault s) : kept (ldpcRow e fault s) = kept s := by
  unfold ldpcRow
  split <;> simp only [kept_ite, ite_self, kept_ldpcStep, kept_faultEvent]

@[simp] theorem kept_deadlineRow (l s) : kept (deadlineRow l s) = kept s := by
  unfold deadlineRow
  split <;> simp only [kept_cwDeadline]

@[simp] theorem kept_seqRow (t f s) (h : ∀ s, kept (f s) = kept s) : kept (seqRow t f s) = kept s := by
  simp only [seqRow, kept_ite, ite_self, h, kept_settleHost]

end Sys2Proof.Machine
end

section
/-! The key fuses (R319): the two rows that write them, and every other command, with the statement that no command clears one. -/
namespace Sys2Proof.Machine

/-! ### FUSE_KEY and REVOKE_KEY -/

theorem exec_fuseKey (slot : Fin 8) (d : BitVec 384) (s : State) : exec (.fuseKey slot d) s = .next (fuseKey slot.val d s) := rfl

theorem exec_revokeKey (slot : Fin 8) (s : State) : exec (.revokeKey slot) s = .next (revokeKey slot.val s) := rfl

theorem fuseKey_of_blank {slot : Fin 8} {s : State} (hprovision : s.provision = true) (hcustomer : 4 ≤ slot.val)
    (hblank : s.fuses.get 0 slot.val = 0) (d : BitVec 384) :
    fuseKey slot.val d s = { s with fuses := s.fuses.set 0 slot.val d } :=
  if_pos ⟨hprovision, hcustomer, slot.isLt, hblank⟩

theorem fuseKey_of_barred {slot : Nat} {s : State} (h : s.provision = false ∨ slot < 4 ∨ s.fuses.get 0 slot ≠ 0)
    (d : BitVec 384) : fuseKey slot d s = s := by
  refine if_neg fun ⟨hprovision, hcustomer, _, hblank⟩ => ?_
  rcases h with h | h | h
  · simp [h] at hprovision
  · omega
  · exact h hblank

theorem revoked_revokeKey (slot : Fin 8) (s : State) (k : Nat) :
    (revokeKey slot.val s).revoked.getLsbD k = (s.revoked.getLsbD k || decide (k = slot.val)) := by
  simp only [revokeKey, BitVec.getLsbD_or, BitVec.getLsbD_ofNat, Nat.testBit_two_pow]
  by_cases hk : k = slot.val
  · simp [hk]
  · simp [hk, Ne.symm hk]

/-! ### Fuses only ever get blown -/

/-- No fused slot of s is changed in u, and no revoke fuse of s is cleared in u. -/
def FusesHold (s u : State) : Prop :=
  (∀ k, s.fuses.get 0 k ≠ 0 → u.fuses.get 0 k = s.fuses.get 0 k)
    ∧ ∀ k, s.revoked.getLsbD k = true → u.revoked.getLsbD k = true

theorem fusesHold_of_kept {s u : State} (h : kept u = kept s) : FusesHold s u := by
  obtain ⟨-, hfuses, hrevoked⟩ := Kept.mk.inj h
  exact ⟨fun k _ => by rw [hfuses], fun k hk => by rw [hrevoked, hk]⟩

theorem fusesHold_fuseKey (slot : Nat) (d : BitVec 384) (s : State) : FusesHold s (fuseKey slot d s) := by
  unfold fuseKey
  split
  next h =>
    obtain ⟨-, -, -, hblank⟩ := h
    refine ⟨fun k hk => ?_, fun _ hk => hk⟩
    have hne : k ≠ slot := fun he => hk (he ▸ hblank)
    exact (SMap.get_set _ _ _ _ _).trans (if_neg hne)
  next => exact fusesHold_of_kept rfl

theorem fusesHold_revokeKey (slot : Fin 8) (s : State) : FusesHold s (revokeKey slot.val s) :=
  ⟨fun _ _ => rfl, fun k hk => by rw [revoked_revokeKey, hk, Bool.true_or]⟩

/-- The two commands that blow fuses (R319). -/
def blowsFuse : Instr → Bool
  | .fuseKey _ _ | .revokeKey _ => true
  | _ => false

/-- Every other command answers a state with the same waiting commands and fuses: its meaning is made of operations that each have a
rule for `kept`. -/
theorem exec_kept {c : Instr} (h : blowsFuse c = false) (s : State) : ∃ u, exec c s = .next u ∧ kept u = kept s := by
  cases c
  case fuseKey | revokeKey => cases h
  all_goals exact ⟨_, rfl, by simp⟩

theorem exec_fusesHold {c : Instr} {s u : State} (hu : exec c s = .next u) : FusesHold s u := by
  cases hc : blowsFuse c with
  | false =>
    obtain ⟨v, hv, hkept⟩ := exec_kept hc s
    cases hv.symm.trans hu
    exact fusesHold_of_kept hkept
  | true =>
    cases c
    case fuseKey slot d =>
      cases (exec_fuseKey slot d s).symm.trans hu
      exact fusesHold_fuseKey slot.val d s
    case revokeKey slot =>
      cases (exec_revokeKey slot s).symm.trans hu
      exact fusesHold_revokeKey slot s
    all_goals cases hc

/-- Settles O5: the two rows that blow fuses by their definitions; every other command keeps the fuses, by the rules for `kept`
of the operations its meaning is made of. -/
theorem fusesStay : Obligations.FusesStay := by
  refine ⟨fun slot d s => ⟨fun hprovision hcustomer hblank => ?_, fun h => ?_, ?_⟩, fun c s u hu => exec_fusesHold hu⟩
  · rw [exec_fuseKey, fuseKey_of_blank hprovision hcustomer hblank]
  · rw [exec_fuseKey, fuseKey_of_barred h]
  · refine ⟨_, exec_revokeKey slot s, ?_, fun k hk => ?_, rfl⟩
    · rw [revoked_revokeKey, decide_eq_true rfl, Bool.or_true]
    · rw [revoked_revokeKey, decide_eq_false hk, Bool.or_false]

end Sys2Proof.Machine
end

section
/-! The block as a whole: every command answers a next state, a step leaves the rest of the queue as it is, one idle cycle, and the state
right after reset. -/
namespace Sys2Proof.Machine

open Sys2Proof.Safety

/-! ### A step with a command in front -/

theorem step_cons (c : Instr) (r : List Instr) (s : State) :
    step { s with pending := c :: r } = exec c { s with pending := r } := rfl

theorem step_of_pending_nil {s : State} (h : s.pending = []) : step s = .next (idle s) := by
  simp only [step, h]

theorem step_of_pending_cons {c : Instr} {r : List Instr} {s : State} (h : s.pending = c :: r) :
    step s = exec c { s with pending := r } := by
  simp only [step, h]

/-- No arm of the dispatch is a fault or a refusal. -/
theorem exec_runs (c : Instr) (s : State) : ∃ u, exec c s = .next u := by
  cases hc : blowsFuse c with
  | false =>
    obtain ⟨u, hu, -⟩ := exec_kept hc s
    exact ⟨u, hu⟩
  | true =>
    cases c
    case fuseKey slot d => exact ⟨_, exec_fuseKey slot d s⟩
    case revokeKey slot => exact ⟨_, exec_revokeKey slot s⟩
    all_goals cases hc

theorem fuseKey_pending (slot : Nat) (d : BitVec 384) (s : State) : (fuseKey slot d s).pending = s.pending := by
  unfold fuseKey
  split <;> rfl

/-- The commands that wait are nobody's to change. -/
theorem exec_pending {c : Instr} {s u : State} (hu : exec c s = .next u) : u.pending = s.pending := by
  cases hc : blowsFuse c with
  | false =>
    obtain ⟨v, hv, hkept⟩ := exec_kept hc s
    cases hv.symm.trans hu
    exact congrArg Kept.pending hkept
  | true =>
    cases c
    case fuseKey slot d =>
      cases (exec_fuseKey slot d s).symm.trans hu
      exact fuseKey_pending slot.val d s
    case revokeKey slot =>
      cases (exec_revokeKey slot s).symm.trans hu
      rfl
    all_goals cases hc

theorem step_runs (s : State) : StepRuns s := by
  cases h : s.pending with
  | nil => exact ⟨_, step_of_pending_nil h⟩
  | cons c r =>
    rw [StepRuns, step_of_pending_cons h]
    exact exec_runs c _

/-! ### Changing every slice -/

theorem tpOf_forAll_of_not_mem (f : Tid → Tp → Tp) {l : List Tid} {t : Tid} (h : t ∉ l) (s : State) :
    tpOf (forAll l (fun u => modTp u (f u)) s) t = tpOf s t := by
  induction l generalizing s with
  | nil => rfl
  | cons a l ih =>
    obtain ⟨hne, hl⟩ := List.ne_and_not_mem_of_not_mem_cons h
    exact (ih hl _).trans (tpOf_modTp_ne a t (f a) s hne)

theorem tpOf_forAll_of_mem (f : Tid → Tp → Tp) {l : List Tid} {t : Tid} (h : t ∈ l) (hl : l.Nodup) (s : State) :
    tpOf (forAll l (fun u => modTp u (f u)) s) t = f t (tpOf s t) := by
  induction l generalizing s with
  | nil => cases h
  | cons a l ih =>
    obtain ⟨ha, hl⟩ := List.nodup_cons.mp hl
    rcases List.mem_cons.mp h with rfl | hmem
    · exact (tpOf_forAll_of_not_mem f ha _).trans (tpOf_modTp t (f t) s)
    · exact (ih hmem hl _).trans (congrArg (f t) (tpOf_modTp_ne a t (f a) s fun he => ha (he ▸ hmem)))

theorem mem_allT (t : Tid) : t ∈ allT := by
  fin_cases t <;> decide

/-- Slice by slice, a change of all eight is the change of each. -/
theorem tpOf_forAll_modTp (f : Tid → Tp → Tp) (s : State) (t : Tid) :
    tpOf (forAll allT (fun u => modTp u (f u)) s) t = f t (tpOf s t) :=
  tpOf_forAll_of_mem f (mem_allT t) (by decide) s

/-- It reaches nothing but the slices. -/
theorem forAll_modTp_tp_only (f : Tid → Tp → Tp) (l : List Tid) (s : State) :
    forAll l (fun u => modTp u (f u)) s = { s with tp := (forAll l (fun u => modTp u (f u)) s).tp } := by
  induction l generalizing s with
  | nil => rfl
  | cons a l ih => exact ih (modTp a (f a) s)

/-! ### One idle cycle -/

/-- What one idle cycle makes of a sequencer; tick: it ends a microsecond. -/
def idleCycle (tick : Bool) (q : Seq) : Seq := if tick then idleTimer (idleSeq q) else idleSeq q

theorem tpOf_idle (s : State) (t : Tid) :
    tpOf (idle s) t = { tpOf s t with seq := idleCycle (decide ((s.clk + 1) % 1250 = 0)) (seqOf s t) } := by
  refine (tpOf_forAll_modTp _ { s with clk := s.clk + 1 } t).trans ?_
  by_cases h : (s.clk + 1) % 1250 = 0 <;> simp [idleCycle, h, seqOf, tpOf]

theorem seqOf_idle (s : State) (t : Tid) : seqOf (idle s) t = idleCycle (decide ((s.clk + 1) % 1250 = 0)) (seqOf s t) :=
  congrArg Tp.seq (tpOf_idle s t)

theorem idle_tp_only (s : State) : idle s = { s with clk := s.clk + 1, tp := (idle s).tp } :=
  forAll_modTp_tp_only _ allT { s with clk := s.clk + 1 }

theorem idleSeq_eq (q : Seq) : idleSeq q = { q with cycle := (idleSeq q).cycle, wdog := (idleSeq q).wdog } := by
  unfold idleSeq
  split <;> rfl

theorem idleSeq_of_running {q : Seq} (h : q.st = .running) : idleSeq q = { q with cycle := q.cycle + 1, wdog := q.wdog + 1 } := by
  simp only [idleSeq, h]

theorem idleSeq_wdog {q : Seq} (h : q.st ≠ .running) : (idleSeq q).wdog = q.wdog := by
  unfold idleSeq
  split <;> first | rfl | contradiction

theorem idleTimer_eq (q : Seq) : idleTimer q = { q with timer := (idleTimer q).timer, latched := (idleTimer q).latched } := by
  unfold idleTimer
  split
  · rfl
  · split <;> rfl

theorem idleSeq_timer (q : Seq) : (idleSeq q).timer = q.timer := by rw [idleSeq_eq]

theorem idleSeq_latched (q : Seq) : (idleSeq q).latched = q.latched := by rw [idleSeq_eq]

theorem idleCycle_eq (tick : Bool) (q : Seq) : idleCycle tick q = { q with
    cycle := (idleSeq q).cycle, wdog := (idleSeq q).wdog
    timer := (idleCycle tick q).timer, latched := (idleCycle tick q).latched } := by
  have hseq := idleSeq_eq q
  have htimer := idleTimer_eq (idleSeq q)
  unfold idleCycle
  split
  · generalize idleTimer (idleSeq q) = r at htimer ⊢
    rw [htimer, hseq]
  · have hstill := And.intro (idleSeq_timer q) (idleSeq_latched q)
    generalize idleSeq q = r at hseq hstill ⊢
    obtain ⟨htimer, hlatched⟩ := hstill
    rw [htimer, hlatched, hseq]

theorem idleCycle_cycle (tick : Bool) (q : Seq) : (idleCycle tick q).cycle = (idleSeq q).cycle := by rw [idleCycle_eq]

theorem idleCycle_wdog (tick : Bool) (q : Seq) : (idleCycle tick q).wdog = (idleSeq q).wdog := by rw [idleCycle_eq]

/-- Between two microseconds, and once TIMER is zero, TIMER stands still. -/
theorem idleCycle_timer_still {tick : Bool} {q : Seq} (h : tick = false ∨ q.timer = 0) :
    (idleCycle tick q).timer = q.timer ∧ (idleCycle tick q).latched = q.latched := by
  rcases h with rfl | h
  · exact ⟨idleSeq_timer q, idleSeq_latched q⟩
  · have hz : idleTimer (idleSeq q) = idleSeq q := if_pos ((idleSeq_timer q).trans h)
    unfold idleCycle
    rw [hz, ite_self]
    exact ⟨idleSeq_timer q, idleSeq_latched q⟩

/-- A microsecond counts TIMER down, and the last one sets event TIMER. -/
theorem idleCycle_timer_counts {q : Seq} (h : q.timer ≠ 0) :
    (idleCycle true q).timer = q.timer - 1 ∧ (q.timer ≠ 1 → (idleCycle true q).latched = q.latched)
      ∧ (q.timer = 1 → (idleCycle true q).latched = q.latched ||| 0x200) := by
  have htimer := idleSeq_timer q
  have hlatched := idleSeq_latched q
  unfold idleCycle
  rw [if_pos rfl]
  generalize idleSeq q = r at htimer hlatched ⊢
  unfold idleTimer
  rw [htimer, if_neg h, hlatched]
  by_cases h1 : q.timer = 1
  · rw [if_pos h1]
    exact ⟨by rw [h1]; rfl, fun hne => absurd h1 hne, fun _ => rfl⟩
  · rw [if_neg h1]
    exact ⟨rfl, fun _ => rfl, fun he => absurd he h1⟩

/-- Settles O1: a step with a command in front by definition; an idle cycle changes the slices alone, and of each its sequencer's
counters. -/
theorem stepRunsFront : Obligations.StepRunsFront := by
  refine ⟨step_cons, fun s h => ⟨idle s, step_of_pending_nil h, rfl, idle_tp_only s, fun t => ?_⟩⟩
  rw [seqOf_idle]
  refine ⟨tpOf_idle s t, ?_, fun hrun => ?_, fun hrun => ?_, fun hstill => ?_, fun htick hne => ?_⟩
  · rw [idleCycle_cycle, idleCycle_wdog]
    exact idleCycle_eq _ _
  · rw [idleCycle_cycle, idleCycle_wdog, idleSeq_of_running hrun]
    exact ⟨rfl, rfl⟩
  · rw [idleCycle_wdog, idleSeq_wdog hrun]
  · exact idleCycle_timer_still (hstill.imp_left decide_eq_false)
  · rw [decide_eq_true htick]
    exact idleCycle_timer_counts hne

/-- Settles O2, by induction on the number of steps: each one runs, so the rest can follow. -/
theorem everyStepRuns : Obligations.EveryStepRuns := by
  intro k
  induction k with
  | zero => exact fun _ => trivial
  | succ k ih =>
    intro s
    obtain ⟨u, hu⟩ := step_runs s
    exact ⟨u, hu, ih u⟩

/-- Settles O3: a step runs the front command on the queue's rest, which no command changes; an idle cycle leaves an empty queue
empty. -/
theorem stepTakesTheFront : Obligations.StepTakesTheFront := by
  intro s u hu
  cases h : s.pending with
  | nil =>
    rw [step_of_pending_nil h] at hu
    cases hu
    exact h
  | cons c r =>
    rw [step_of_pending_cons h] at hu
    exact exec_pending hu

/-! ### Right after reset -/

theorem tpOf_reset (t : Tid) : tpOf State.reset t = Tp.reset := Oct.get_fill _ t

theorem portOf_reset (n : Nat) : portOf Tp.reset n = Port.reset := by
  unfold portOf
  split <;> rfl

/-- Settles O4: the fields of the reset state and the reset values of four registers; no queue is enabled. -/
theorem resetState : Obligations.ResetState := by
  refine ⟨rfl, rfl, rfl, fun t => ?_, fun id => ⟨rfl, rfl⟩, by decide, by decide, by decide, fun q => ?_⟩
  · simp only [seqOf, greg, tpOf_reset, portOf_reset]
    exact ⟨rfl, rfl, rfl, rfl, fun a => ⟨rfl, rfl⟩, fun r => ite_self _, fun n => ⟨rfl, rfl, rfl⟩⟩
  · have hboot : decide (9 ≤ State.reset.boot) = false := rfl
    simp [canFetch, hboot]

end Sys2Proof.Machine
end

section
/-! Instruction words of Rhoval-F and Rhoval-L (R39, R40, R59): decoding undoes encoding, and encoding undoes decoding. -/
namespace Sys2Proof.Machine

open BitVec (extractLsb'_append_eq_right extractLsb'_eq_self extractLsb'_append_eq_of_le extractLsb'_append_eq_of_add_le)

/-! ### Fields of a word put together -/

section
variable (op : BitVec 6) (a b c : BitVec 5) (func : BitVec 11) (imm : BitVec 16)

/-- The fields of a word of format R (R39). -/
theorem fields_of_formatR : (op ++ a ++ b ++ c ++ func).extractLsb' 26 6 = op ∧ (op ++ a ++ b ++ c ++ func).extractLsb' 21 5 = a
    ∧ (op ++ a ++ b ++ c ++ func).extractLsb' 16 5 = b ∧ (op ++ a ++ b ++ c ++ func).extractLsb' 11 5 = c
    ∧ (op ++ a ++ b ++ c ++ func).extractLsb' 0 11 = func := by
  simp only [extractLsb'_append_eq_of_le, extractLsb'_append_eq_right, extractLsb'_eq_self, Nat.reduceLeDiff, Nat.reduceSub,
    and_self]

/-- The fields of a word of formats I, W and B (R39). -/
theorem fields_of_formatI : (op ++ a ++ b ++ imm).extractLsb' 26 6 = op ∧ (op ++ a ++ b ++ imm).extractLsb' 21 5 = a
    ∧ (op ++ a ++ b ++ imm).extractLsb' 16 5 = b ∧ (op ++ a ++ b ++ imm).extractLsb' 0 16 = imm := by
  simp only [extractLsb'_append_eq_of_le, extractLsb'_append_eq_right, extractLsb'_eq_self, Nat.reduceLeDiff, Nat.reduceSub,
    and_self]

/-- The fields of a word of format S (R39). -/
theorem fields_of_formatS (port : BitVec 4) (dreg : BitVec 3) (rt : BitVec 5) (nb : Bool) (zero : BitVec 13) :
    let w := op ++ port ++ dreg ++ rt ++ BitVec.ofBool nb ++ zero
    w.extractLsb' 26 6 = op ∧ w.extractLsb' 22 4 = port ∧ w.extractLsb' 19 3 = dreg ∧ w.extractLsb' 14 5 = rt
      ∧ w.getLsbD 13 = nb ∧ w.extractLsb' 0 13 = zero := by
  simp only [extractLsb'_append_eq_of_le, extractLsb'_append_eq_right, extractLsb'_eq_self, BitVec.getLsbD_append,
    BitVec.getLsbD_ofBool, Nat.reduceLeDiff, Nat.reduceSub, Nat.reduceLT, lt_self_iff_false, if_false, if_true, decide_true, Bool.true_and, and_self]

/-- The fields of a word of format M (R39). -/
theorem fields_of_formatM (acc : Bool) (cidx : BitVec 6) (zero : BitVec 14) :
    let w := op ++ BitVec.ofBool acc ++ a ++ cidx ++ zero
    w.extractLsb' 26 6 = op ∧ w.getLsbD 25 = acc ∧ w.extractLsb' 20 5 = a ∧ w.extractLsb' 14 6 = cidx
      ∧ w.extractLsb' 0 14 = zero := by
  simp only [extractLsb'_append_eq_of_le, extractLsb'_append_eq_right, extractLsb'_eq_self, BitVec.getLsbD_append,
    BitVec.getLsbD_ofBool, Nat.reduceLeDiff, Nat.reduceSub, Nat.reduceLT, lt_self_iff_false, if_false, if_true, decide_true, Bool.true_and, and_self]

end

/-! ### Rhoval-F -/

theorem fKind_fOpCode (op : FOp) : fKind (fOpCode op) = some (.imm op) := by cases op <;> rfl

theorem fKind_fBrCode (op : FBr) : fKind (fBrCode op) = some (.branch op) := by cases op <;> rfl

theorem decodeF_of_fKind {w : W32} {k : FKind} (h : fKind (w.extractLsb' 26 6) = some k) : decodeF w = some (fFields k w) := by
  rw [decodeF, h]
  rfl

theorem decodeF_encodeF (i : FInstr) : decodeF (encodeF i) = some i := by
  cases i with
  | reg rd ra rb func =>
    obtain ⟨hop, hrd, hra, hrb, hfunc⟩ := fields_of_formatR 0x00 rd ra rb func
    rw [encodeF, decodeF_of_fKind (k := .reg) (by rw [hop]; rfl), fFields, hrd, hra, hrb, hfunc]
  | imm op rd ra imm =>
    obtain ⟨hop, hrd, hra, himm⟩ := fields_of_formatI (fOpCode op) rd ra imm
    rw [encodeF, decodeF_of_fKind (by rw [hop]; exact fKind_fOpCode op), fFields, hrd, hra, himm]
  | stage op port dreg rt nb zero =>
    cases op with
    | issue =>
      obtain ⟨hop, hport, hdreg, hrt, hnb, hzero⟩ := fields_of_formatS 0x18 port dreg rt nb zero
      rw [encodeF, decodeF_of_fKind (k := .stage .issue) (by rw [hop]; rfl), fFields, hport, hdreg, hrt, hnb, hzero]
    | pop =>
      obtain ⟨hop, hport, hdreg, hrt, hnb, hzero⟩ := fields_of_formatS 0x19 port dreg rt nb zero
      rw [encodeF, decodeF_of_fKind (k := .stage .pop) (by rw [hop]; rfl), fFields, hport, hdreg, hrt, hnb, hzero]
  | branch op ra rb imm =>
    obtain ⟨hop, hra, hrb, himm⟩ := fields_of_formatI (fBrCode op) ra rb imm
    rw [encodeF, decodeF_of_fKind (by rw [hop]; exact fKind_fBrCode op), fFields, hra, hrb, himm]

/-! ### Rhoval-L -/

theorem lKind_lOpCode (op : LOp) : lKind (lOpCode op) = some (.imm op) := by cases op <;> rfl

theorem lKind_lMulCode (op : LMul) : lKind (lMulCode op) = some (.mul op) := by cases op <;> rfl

theorem lKind_lBrCode (op : LBr) : lKind (lBrCode op) = some (.branch op) := by cases op <;> rfl

theorem decodeL_of_lKind {w : W32} {k : LKind} (h : lKind (w.extractLsb' 26 6) = some k) : decodeL w = some (lFields k w) := by
  rw [decodeL, h]
  rfl

theorem decodeL_encodeL (i : LInstr) : decodeL (encodeL i) = some i := by
  cases i with
  | reg rd ra rb func =>
    obtain ⟨hop, hrd, hra, hrb, hfunc⟩ := fields_of_formatR 0x00 rd ra rb func
    rw [encodeL, decodeL_of_lKind (k := .reg) (by rw [hop]; rfl), lFields, hrd, hra, hrb, hfunc]
  | imm op rd ra imm =>
    obtain ⟨hop, hrd, hra, himm⟩ := fields_of_formatI (lOpCode op) rd ra imm
    rw [encodeL, decodeL_of_lKind (by rw [hop]; exact lKind_lOpCode op), lFields, hrd, hra, himm]
  | mul op acc va cidx zero =>
    obtain ⟨hop, hacc, hva, hcidx, hzero⟩ := fields_of_formatM (lMulCode op) va acc cidx zero
    rw [encodeL, decodeL_of_lKind (by rw [hop]; exact lKind_lMulCode op), lFields, hacc, hva, hcidx, hzero]
  | branch op ra rb imm =>
    obtain ⟨hop, hra, hrb, himm⟩ := fields_of_formatI (lBrCode op) ra rb imm
    rw [encodeL, decodeL_of_lKind (by rw [hop]; exact lKind_lBrCode op), lFields, hra, hrb, himm]

/-- The major opcode that a kind of Rhoval-L word has. -/
def lKindCode : LKind → BitVec 6
  | .reg => 0x00
  | .imm op => lOpCode op
  | .mul op => lMulCode op
  | .branch op => lBrCode op

theorem lKindCode_of_lKind : ∀ (c : BitVec 6), (lKind c).all (fun k => lKindCode k == c) = true := by decide

/-- The opcode and the fields of a kind of word, put together again, are the word. -/
theorem encodeL_lFields {k : LKind} {w : W32} (h : lKindCode k = w.extractLsb' 26 6) : encodeL (lFields k w) = w := by
  have hself : w.extractLsb' 0 32 = w := BitVec.extractLsb'_eq_self
  cases k with
  | reg =>
    change lKindCode .reg ++ w.extractLsb' 21 5 ++ w.extractLsb' 16 5 ++ w.extractLsb' 11 5 ++ w.extractLsb' 0 11 = w
    simpa only [h, BitVec.extractLsb'_append_extractLsb'_eq_extractLsb'] using hself
  | imm op =>
    change lKindCode (.imm op) ++ w.extractLsb' 21 5 ++ w.extractLsb' 16 5 ++ w.extractLsb' 0 16 = w
    simpa only [h, BitVec.extractLsb'_append_extractLsb'_eq_extractLsb'] using hself
  | mul op =>
    change lKindCode (.mul op) ++ BitVec.ofBool (w.getLsbD 25) ++ w.extractLsb' 20 5 ++ w.extractLsb' 14 6 ++ w.extractLsb' 0 14 = w
    simpa only [h, ← extractLsb'_one, BitVec.extractLsb'_append_extractLsb'_eq_extractLsb'] using hself
  | branch op =>
    change lKindCode (.branch op) ++ w.extractLsb' 21 5 ++ w.extractLsb' 16 5 ++ w.extractLsb' 0 16 = w
    simpa only [h, BitVec.extractLsb'_append_extractLsb'_eq_extractLsb'] using hself

theorem encodeL_of_decodeL {w : W32} {i : LInstr} (h : decodeL w = some i) : encodeL i = w := by
  obtain ⟨k, hk, rfl⟩ := Option.map_eq_some_iff.mp h
  exact encodeL_lFields (by simpa [hk] using lKindCode_of_lKind (w.extractLsb' 26 6))

/-- Settles O6: format by format, the fields stand where they were put; the ten words by evaluation. -/
theorem rhovalDecodeEncode : Obligations.RhovalDecodeEncode :=
  ⟨⟨decodeF_encodeF, fun _ _ => encodeF_of_decodeF⟩, ⟨decodeL_encodeL, fun _ _ => encodeL_of_decodeL⟩, by decide⟩

end Sys2Proof.Machine
end

section
/-! Bits, fields and bytes of numbers (R5, R6), and the fields of registers: what a field that was written, and every other, reads. -/
namespace Sys2Proof.Machine

/-! ### Fields and bits -/

theorem bitOf_eq_testBit (v n : Nat) : bitOf v n = v.testBit n := by
  rw [Nat.testBit_eq_decide_div_mod_eq]
  rfl

theorem bitOf_toNat {w : Nat} (x : BitVec w) (n : Nat) : bitOf x.toNat n = x.getLsbD n := bitOf_eq_testBit _ _

theorem testBit_fieldOf (v lo w k : Nat) : (fieldOf v lo w).testBit k = (decide (k < w) && v.testBit (lo + k)) := by
  rw [fieldOf, Nat.testBit_mod_two_pow, Nat.testBit_div_two_pow, Nat.add_comm]

theorem fieldOf_lt (v lo w : Nat) : fieldOf v lo w < 2 ^ w := Nat.mod_lt _ (Nat.two_pow_pos w)

/-- A number with a field replaced: what stands above the field, the field and what stands below it. -/
theorem putField_eq (v lo w x : Nat) :
    putField v lo w x = 2 ^ lo * (2 ^ w * (v / 2 ^ lo / 2 ^ w) + x % 2 ^ w) + v % 2 ^ lo := by
  have hv : 2 ^ lo * (2 ^ w * (v / 2 ^ lo / 2 ^ w)) + 2 ^ lo * (v / 2 ^ lo % 2 ^ w) + v % 2 ^ lo = v := by
    rw [← Nat.mul_add, Nat.div_add_mod, Nat.div_add_mod]
  rw [putField, fieldOf, Nat.mul_add, Nat.mul_comm _ (2 ^ lo), Nat.mul_comm (x % 2 ^ w)]
  omega

theorem testBit_putField (v lo w x k : Nat) :
    (putField v lo w x).testBit k = if lo ≤ k ∧ k < lo + w then x.testBit (k - lo) else v.testBit k := by
  have hv : v = 2 ^ lo * (2 ^ w * (v / 2 ^ lo / 2 ^ w) + v / 2 ^ lo % 2 ^ w) + v % 2 ^ lo := by
    rw [Nat.div_add_mod, Nat.div_add_mod]
  have hlow : v % 2 ^ lo < 2 ^ lo := Nat.mod_lt _ (Nat.two_pow_pos lo)
  rw [putField_eq, Nat.testBit_two_pow_mul_add _ hlow, Nat.testBit_two_pow_mul_add _ (Nat.mod_lt _ (Nat.two_pow_pos w))]
  conv_rhs => rw [hv, Nat.testBit_two_pow_mul_add _ hlow, Nat.testBit_two_pow_mul_add _ (Nat.mod_lt _ (Nat.two_pow_pos w))]
  by_cases h1 : k < lo
  · simp [h1, Nat.not_le.mpr h1]
  · by_cases h2 : k - lo < w
    · have h3 : lo ≤ k ∧ k < lo + w := by omega
      simp [h1, h2, h3, Nat.testBit_mod_two_pow]
    · have h3 : ¬(lo ≤ k ∧ k < lo + w) := by omega
      simp [h1, h2, h3]

theorem putField_lt {v lo w n : Nat} (hv : v < 2 ^ n) (hw : lo + w ≤ n) (x : Nat) : putField v lo w x < 2 ^ n := by
  refine Nat.lt_pow_two_of_testBit _ fun k hk => ?_
  rw [testBit_putField, if_neg (by omega)]
  exact Nat.testBit_lt_two_pow (lt_of_lt_of_le hv (Nat.pow_le_pow_right (by decide) hk))

theorem fieldOf_putField_self (v lo w x : Nat) : fieldOf (putField v lo w x) lo w = x % 2 ^ w := by
  refine Nat.eq_of_testBit_eq fun k => ?_
  rw [testBit_fieldOf, testBit_putField, Nat.testBit_mod_two_pow]
  by_cases h : k < w
  · rw [if_pos (by omega), Nat.add_sub_cancel_left]
  · simp [h]

theorem fieldOf_putField_disjoint {lo w lo' w' : Nat} (h : lo' + w' ≤ lo ∨ lo + w ≤ lo') (v x : Nat) :
    fieldOf (putField v lo w x) lo' w' = fieldOf v lo' w' := by
  refine Nat.eq_of_testBit_eq fun k => ?_
  rw [testBit_fieldOf, testBit_fieldOf, testBit_putField]
  by_cases hk : k < w'
  · rw [if_neg (by omega)]
  · simp [hk]

/-! ### Fields of registers -/

/-- A field inside 32 bits reads back as it was written. -/
theorem fld_setFld_self {f : Fld} (hf : f.lo + f.w ≤ 32) (off x : Nat) (s : State) : fld (setFld off f x s) off f = x % 2 ^ f.w := by
  rw [fld, setFld, reg_setReg, fieldB, BitVec.toNat_ofNat, Nat.mod_eq_of_lt (putField_lt (reg s off).isLt hf x), fieldOf_putField_self]

theorem reg_setFld_ne {a b : Nat} (h : b ≠ a) (f : Fld) (x : Nat) (s : State) : reg (setFld a f x s) b = reg s b :=
  reg_setReg_ne a b _ s h

theorem fld_setFld_ne {a b : Nat} (h : b ≠ a) (f g : Fld) (x : Nat) (s : State) : fld (setFld a f x s) b g = fld s b g := by
  rw [fld, reg_setFld_ne h, fld]

/-- A field beside the written one stays. -/
theorem fld_setFld_disjoint {f g : Fld} (hf : f.lo + f.w ≤ 32) (h : g.lo + g.w ≤ f.lo ∨ f.lo + f.w ≤ g.lo) (off x : Nat) (s : State) :
    fld (setFld off f x s) off g = fld s off g := by
  rw [fld, setFld, reg_setReg, fieldB, BitVec.toNat_ofNat, Nat.mod_eq_of_lt (putField_lt (reg s off).isLt hf x),
    fieldOf_putField_disjoint h]
  rfl

/-! ### Little-endian bytes -/

@[simp] theorem length_leBytes (n v : Nat) : (leBytes n v).length = n := by
  induction n generalizing v with
  | zero => rfl
  | succ n ih => rw [leBytes, List.length_cons, ih]

theorem getD_leBytes {n j : Nat} (h : j < n) (v : Nat) : (leBytes n v).getD j 0 = BitVec.ofNat 8 (v / 256 ^ j) := by
  induction n generalizing v j with
  | zero => omega
  | succ n ih =>
    cases j with
    | zero => rw [leBytes, List.getD_cons_zero, Nat.pow_zero, Nat.div_one]
    | succ j => rw [leBytes, List.getD_cons_succ, ih (by omega), Nat.div_div_eq_div_mul, Nat.pow_succ']

theorem leNat_byte (l : List Byte) (j : Nat) : leNat l / 256 ^ j % 256 = (l.getD j 0).toNat := by
  induction l generalizing j with
  | nil => simp [leNat]
  | cons b r ih =>
    have hb : b.toNat < 256 := b.isLt
    cases j with
    | zero =>
      rw [leNat, Nat.pow_zero, Nat.div_one, List.getD_cons_zero]
      omega
    | succ j =>
      have hdiv : (b.toNat + 256 * leNat r) / 256 = leNat r := by omega
      rw [leNat, Nat.pow_succ', ← Nat.div_div_eq_div_mul, hdiv, ih, List.getD_cons_succ]

theorem leNat_lt (l : List Byte) : leNat l < 256 ^ l.length := by
  induction l with
  | nil => decide
  | cons b r ih =>
    have hb : b.toNat < 256 := b.isLt
    rw [leNat, List.length_cons, Nat.pow_succ']
    omega

@[simp] theorem SMap.length_read {α : Type} (m : SMap α) (z : α) (a n : Nat) : (m.read z a n).length = n := by
  induction n generalizing a with
  | zero => rfl
  | succ n ih => rw [SMap.read, List.length_cons, ih]

theorem SMap.getD_read {α : Type} {n j : Nat} (h : j < n) (m : SMap α) (z : α) (a : Nat) : (m.read z a n).getD j z = m.get z (a + j) := by
  induction n generalizing a j with
  | zero => omega
  | succ n ih =>
    cases j with
    | zero => rfl
    | succ j => rw [SMap.read, List.getD_cons_succ, ih (by omega), Nat.add_assoc, Nat.add_comm 1]

/-- The bytes of a little-endian number of a memory are the memory's. -/
theorem memLe_byte {n j : Nat} (h : j < n) (m : SMap Byte) (a : Nat) : memLe m a n / 256 ^ j % 256 = (m.get 0 (a + j)).toNat := by
  rw [memLe, leNat_byte, SMap.getD_read h]

theorem memLe_lt (m : SMap Byte) (a n : Nat) : memLe m a n < 256 ^ n := by
  simpa [memLe] using leNat_lt (m.read 0 a n)

end Sys2Proof.Machine
end

section
/-! Rhoval-F inside one sequencer (R40, R41): arithmetic, immediates, descriptor registers, data memory, branches and jumps, with the
statements on them. -/
namespace Sys2Proof.Machine

open Sys2Proof.Safety

/-! ### An instruction that acts inside its sequencer -/

theorem addCycles_nextPc (n : Nat) (q : Seq) : addCycles n (nextPc q) = retired (q.pc + 4) n q := rfl

/-- The row of an instruction that acts inside its sequencer and does not halt it: that is the whole effect. -/
theorem exec_of_local {t : Tid} {i : FInstr} {s : State} {q : Seq} {n : Nat} (h : AtInstr t i s)
    (hl : fLocal i (seqOf s t) = some (.ok q n)) (hst : q.st = (seqOf s t).st) (hstep : q.step = (seqOf s t).step) :
    exec (commandOf t i) s = .next (withSeq t (addCycles n q) s) := by
  have hrun : q.st = .running := hst.trans (running_of_atInstr h)
  obtain ⟨⟨hst', hw, hh⟩, hs, hf⟩ := h
  have hsame := runInstr_local t i s q n hst' hw hh hf hl hrun (hstep.trans hs)
  have hact : seqActive (seqOf (runInstr t i s) t) = true := by simp [hsame, addCycles, hrun]
  rw [exec_commandOf, seqRow_of_active hact, hsame, modSeq_eq_withSeq]

/-- An instruction that writes a general register. -/
theorem exec_of_fWrite {t : Tid} {i : FInstr} {s : State} {rd : BitVec 5} {v : W64} {n : Nat} (h : AtInstr t i s)
    (hl : fLocal i (seqOf s t) = some (fWrite rd v n (seqOf s t))) : exec (commandOf t i) s = .next (regResult t rd v n s) := by
  rw [exec_of_local h hl (putG_st rd v _) (putG_step rd v _), addCycles_nextPc, gSet_eq_putG, putG_pc]
  rfl

theorem exec_of_value {t : Tid} {i : FInstr} {s : State} {rd : BitVec 5} {v w : W64} {n : Nat} (h : AtInstr t i s)
    (hl : fLocal i (seqOf s t) = some (fWrite rd v n (seqOf s t))) (hv : v = w) :
    exec (commandOf t i) s = .next (regResult t rd w n s) :=
  hv ▸ exec_of_fWrite h hl

/-- An instruction that writes a descriptor register. -/
theorem exec_of_dSet {t : Tid} {i : FInstr} {s : State} {k n : Nat} {v : BitVec 256} (h : AtInstr t i s)
    (hl : fLocal i (seqOf s t) = some (.ok (nextPc (dSet k v (seqOf s t))) n)) :
    exec (commandOf t i) s = .next (dregResult t k v n s) :=
  exec_of_local h hl rfl rfl

/-- An instruction that writes data memory. -/
theorem exec_of_memory {t : Tid} {i : FInstr} {s : State} {n : Nat} {m : SMap Byte} (h : AtInstr t i s)
    (hl : fLocal i (seqOf s t) = some (.ok (nextPc { seqOf s t with data := m }) n)) :
    exec (commandOf t i) s = .next (memResult t m n s) :=
  exec_of_local h hl rfl rfl

theorem gGet_eq_greg (s : State) (t : Tid) (r : BitVec 5) : gGet (seqOf s t) r = greg s t r := rfl

theorem dGet_eq_dreg (s : State) (t : Tid) (n : Nat) : dGet (seqOf s t) n = dreg s t n := rfl

/-! ### ALU (R40) -/

theorem fieldB_low {n : Nat} (x : BitVec n) (w : Nat) : fieldB x 0 w = x.toNat % 2 ^ w := by
  rw [fieldB, fieldOf, Nat.pow_zero, Nat.div_one]

/-- The first number of a range with a property, or the range's length. -/
theorem find?_range_getD (p : Nat → Bool) (n : Nat) : ((List.range n).find? p).getD n ≤ n
    ∧ (∀ k, k < ((List.range n).find? p).getD n → p k = false)
    ∧ (((List.range n).find? p).getD n < n → p (((List.range n).find? p).getD n) = true) := by
  cases h : (List.range n).find? p with
  | none =>
    rw [List.find?_range_eq_none] at h
    exact ⟨le_refl n, fun k hk => by simpa using h k hk, fun hn => absurd hn (lt_irrefl n)⟩
  | some i =>
    rw [List.find?_range_eq_some] at h
    obtain ⟨hp, hi, hmin⟩ := h
    exact ⟨Nat.le_of_lt (List.mem_range.mp hi), fun k hk => by simpa using hmin k hk, fun _ => hp⟩

theorem popCount_le (w v : Nat) : popCount w v ≤ w := by
  simpa [popCount] using List.length_filter_le (fun i => bitOf v i) (List.range w)

theorem toNat_ofNat_of_le_64 {n : Nat} (h : n ≤ 64) : (BitVec.ofNat 64 n).toNat = n := by
  rw [BitVec.toNat_ofNat, Nat.mod_eq_of_lt (by omega)]

theorem ite_slt (a b : W64) (x y : W64) : (if a.slt b then x else y) = if a.toInt < b.toInt then x else y := by
  simp only [BitVec.slt_iff_toInt_lt]

theorem ite_ult (a b : W64) (x y : W64) : (if a.ult b then x else y) = if a.toNat < b.toNat then x else y := by
  simp only [BitVec.ult_iff_lt, BitVec.lt_def]

/-- MUL and MULHU take three cycles. -/
theorem fAlu_cycles (func : BitVec 11) (a b : W64) : (fAlu func a b).2 = if func = 0x00A ∨ func = 0x00B then 3 else 1 := by
  have hcode : (func = 0x00A ∨ func = 0x00B) ↔ (func.toNat = 10 ∨ func.toNat = 11) := by simp [BitVec.toNat_eq]
  simp only [hcode]
  unfold fAlu
  dsimp only
  split <;> simp_all

theorem toInt_min (a b : W64) : (if a.slt b then a else b).toInt = min a.toInt b.toInt := by
  rw [ite_slt]
  split <;> omega

theorem toInt_max (a b : W64) : (if a.slt b then b else a).toInt = max a.toInt b.toInt := by
  rw [ite_slt]
  split <;> omega

theorem toNat_min (a b : W64) : (if a.ult b then a else b).toNat = min a.toNat b.toNat := by
  rw [ite_ult]
  split <;> omega

theorem toNat_max (a b : W64) : (if a.ult b then b else a).toNat = max a.toNat b.toNat := by
  rw [ite_ult]
  split <;> omega

/-- The count of the first numbers below 64 without a property p, as CLZ and CTZ take it. -/
def countUntil (p : Nat → Bool) : W64 := BitVec.ofNat 64 (((List.range 64).find? p).getD 64)

theorem countUntil_spec (p : Nat → Bool) : (countUntil p).toNat ≤ 64 ∧ (∀ k, k < (countUntil p).toNat → p k = false)
    ∧ ((countUntil p).toNat < 64 → p (countUntil p).toNat = true) := by
  have h := find?_range_getD p 64
  rwa [countUntil, toNat_ofNat_of_le_64 h.1]

theorem fAlu_clz (a b : W64) : (fAlu 0x011 a b).1 = countUntil (fun i => a.getLsbD (63 - i)) := by
  simp only [← bitOf_toNat]
  rfl

theorem fAlu_ctz (a b : W64) : (fAlu 0x012 a b).1 = countUntil (fun i => a.getLsbD i) := by
  simp only [← bitOf_toNat]
  rfl

/-- Settles O7: each function's value is the one that the ALU's table names. -/
theorem aluResult : Obligations.AluResult := by
  intro t rd ra rb func s h
  generalize ha : greg s t ra = a
  generalize hb : greg s t rb = b
  have hexec := exec_of_fWrite h rfl
  rw [gGet_eq_greg, gGet_eq_greg, ha, hb] at hexec
  refine ⟨_, _, hexec, fAlu_cycles func a b, ?_, ?_, ?_, ?_, ?_, ?_, ?_, ?_, ?_, ?_, ?_, ?_, ?_, ?_, ?_, ?_, ?_, ?_, ?_⟩ <;> rintro rfl
  · exact BitVec.toNat_add a b
  · exact BitVec.toInt_sub
  · exact fun k => BitVec.getLsbD_and
  · exact fun k => BitVec.getLsbD_or
  · exact fun k => BitVec.getLsbD_xor
  · change (a <<< fieldB b 0 6).toNat = _
    rw [fieldB_low, BitVec.toNat_shiftLeft, Nat.shiftLeft_eq]
    rfl
  · change (a >>> fieldB b 0 6).toNat = _
    rw [fieldB_low, BitVec.toNat_ushiftRight, Nat.shiftRight_eq_div_pow]
    rfl
  · change (a.sshiftRight (fieldB b 0 6)).toInt = _
    rw [fieldB_low, BitVec.toInt_sshiftRight, Int.shiftRight_eq_div_pow]
    rfl
  · exact ite_slt a b 1 0
  · exact ite_ult a b 1 0
  · exact BitVec.toNat_mul a b
  · refine (BitVec.toNat_ofNat _ _).trans (Nat.mod_eq_of_lt ?_)
    exact Nat.div_lt_of_lt_mul (Nat.mul_lt_mul'' a.isLt b.isLt)
  · exact toInt_min a b
  · exact toInt_max a b
  · exact toNat_min a b
  · exact toNat_max a b
  · refine (toNat_ofNat_of_le_64 (popCount_le 64 a.toNat)).trans ?_
    simp only [popCount, bitOf_toNat]
  · rw [fAlu_clz]
    exact countUntil_spec (fun i => a.getLsbD (63 - i))
  · rw [fAlu_ctz]
    exact countUntil_spec (fun i => a.getLsbD i)

/-! ### Immediates and descriptor registers (R40) -/

theorem extend_shifted_immediate (imm : BitVec 16) :
    (BitVec.setWidth 32 imm <<< 16).signExtend 64 = BitVec.ofInt 64 (imm.toInt * 65536) := by
  have hlt := imm.isLt
  apply BitVec.eq_of_toInt_eq
  rw [BitVec.toInt_signExtend_of_le (by decide), BitVec.toInt_ofInt, BitVec.toInt_eq_toNat_cond, BitVec.toInt_eq_toNat_cond,
    BitVec.toNat_shiftLeft, BitVec.toNat_setWidth, Nat.shiftLeft_eq, Int.bmod]
  omega

theorem toInt_sext16 (imm : BitVec 16) : (sext16 imm).toInt = imm.toInt := BitVec.toInt_signExtend_of_le (by decide)

/-- A field of a descriptor register replaced by the low bits of a word (DINS). -/
theorem getLsbD_putField {p w k : Nat} (v : BitVec 256) (x : W64) (hk : k < 256) :
    (BitVec.ofNat 256 (putField v.toNat p w x.toNat)).getLsbD k
      = if p ≤ k ∧ k < p + w then x.getLsbD (k - p) else v.getLsbD k := by
  rw [BitVec.getLsbD_ofNat, testBit_putField, decide_eq_true hk, Bool.true_and]
  rfl

/-- A field of a descriptor register as a word (DEXT). -/
theorem getLsbD_fieldB {p w k : Nat} (v : BitVec 256) (hk : k < 64) :
    (BitVec.ofNat 64 (fieldB v p w)).getLsbD k = (decide (k < w) && v.getLsbD (p + k)) := by
  rw [BitVec.getLsbD_ofNat, fieldB, testBit_fieldOf, decide_eq_true hk, Bool.true_and]
  rfl

/-- The shift amount of SLLI, SRLI and SRAI. -/
theorem fieldB_shift (imm : BitVec 16) : fieldB imm 0 6 = imm.toNat % 64 := fieldB_low imm 6

/-- The descriptor register that a field of five bits names. -/
theorem fieldB_dreg (r : BitVec 5) : fieldB r 0 3 = r.toNat % 8 := fieldB_low r 3

/-- Settles O8: each row writes its register alone; the value of a field, bit by bit. -/
theorem immediateResult : Obligations.ImmediateResult := by
  refine ⟨fun t rd ra imm s => ⟨fun h => exec_of_fWrite h rfl, fun h => exec_of_fWrite h rfl, fun h => exec_of_fWrite h rfl,
    fun h => exec_of_fWrite h rfl, fun h => exec_of_value h rfl ?_, fun h => exec_of_value h rfl ?_,
    fun h => exec_of_value h rfl (extend_shifted_immediate imm), fun h => exec_of_value h rfl ?_,
    fun h => exec_of_value h rfl ?_, fun h => exec_of_value h rfl ?_⟩,
    fun t rd ra imm s p w hp hw => ?_⟩
  case refine_1 => rw [ite_slt, toInt_sext16, gGet_eq_greg]
  case refine_2 => exact ite_ult _ _ 1 0
  case refine_3 => rw [fieldB_shift, gGet_eq_greg]
  case refine_4 => rw [fieldB_shift, gGet_eq_greg]
  case refine_5 => rw [fieldB_shift, gGet_eq_greg]
  case refine_6 =>
    obtain rfl : p = fieldB imm 0 8 := hp.trans (fieldB_low imm 8).symm
    obtain rfl : w = fieldB imm 8 6 + 1 := hw
    simp only [← fieldB_dreg]
    exact ⟨fun h => ⟨_, exec_of_dSet h rfl, fun k hk => getLsbD_putField _ _ hk⟩,
      fun h => ⟨_, exec_of_fWrite h rfl, fun k hk => getLsbD_fieldB _ hk⟩, fun h => exec_of_dSet h rfl⟩

/-! ### Data memory (R40, R41) -/

theorem dataFault_of_dataOk {a : W64} {n : Nat} (h : dataOk a n) : dataFault a n = none := by
  obtain ⟨halign, hin⟩ := h
  simp [dataFault, halign, Nat.not_lt.mpr hin]

theorem fLoad_of_dataOk {rd ra : BitVec 5} {imm : BitVec 16} {n : Nat} {q : Seq} (h : dataOk (gGet q ra + sext16 imm) n) (k : Nat) :
    fLoad rd ra imm n k q = fWrite rd (BitVec.ofNat 64 (memLe q.data (gGet q ra + sext16 imm).toNat n)) k q := by
  simp [fLoad, dataFault_of_dataOk h]

theorem fStore_of_dataOk {rd ra : BitVec 5} {imm : BitVec 16} {n : Nat} {q : Seq} (h : dataOk (gGet q ra + sext16 imm) n) (k : Nat) :
    fStore rd ra imm n k q = .ok (nextPc { q with
      data := q.data.write 0 (gGet q ra + sext16 imm).toNat (leBytes n (gGet q rd).toNat) }) k := by
  simp [fStore, dataFault_of_dataOk h]

theorem fDld_of_dataOk {rd ra : BitVec 5} {imm : BitVec 16} {q : Seq} (h : dataOk (gGet q ra + sext16 imm) 32) :
    fDld rd ra imm q
      = .ok (nextPc (dSet (fieldB rd 0 3) (BitVec.ofNat 256 (memLe q.data (gGet q ra + sext16 imm).toNat 32)) q)) 2 := by
  simp [fDld, dataFault_of_dataOk h]

theorem fDst_of_dataOk {rd ra : BitVec 5} {imm : BitVec 16} {q : Seq} (h : dataOk (gGet q ra + sext16 imm) 32) :
    fDst rd ra imm q = .ok (nextPc { q with
      data := q.data.write 0 (gGet q ra + sext16 imm).toNat (leBytes 32 (dGet q (fieldB rd 0 3)).toNat) }) 2 := by
  simp [fDst, dataFault_of_dataOk h]

/-- A word wide enough for n bytes of memory holds them. -/
theorem toNat_ofNat_memLe {w n : Nat} (h : 256 ^ n ≤ 2 ^ w) (m : SMap Byte) (a : Nat) :
    (BitVec.ofNat w (memLe m a n)).toNat = memLe m a n := by
  rw [BitVec.toNat_ofNat, Nat.mod_eq_of_lt (lt_of_lt_of_le (memLe_lt m a n) h)]

theorem bytesStored_write (m : SMap Byte) (a n v : Nat) : BytesStored m (m.write 0 a (leBytes n v)) a n v := by
  intro k
  rw [SMap.get_write, length_leBytes]
  split
  next hk => rw [getD_leBytes (by omega)]
  next => rfl

/-- Settles O9: an access that R41 lets go reads or writes the bytes at its address. -/
theorem dataAccessResult : Obligations.DataAccessResult := by
  refine ⟨fun t rd ra imm s => ⟨fun h hok => ?_, fun h hok => ?_, fun h hok => ?_⟩,
    fun t rd ra imm s => ⟨fun h hok => ?_, fun h hok => ?_, fun h hok => ?_⟩⟩
  case refine_1 =>
    refine ⟨_, exec_of_fWrite h (congrArg some (fLoad_of_dataOk hok 2)), fun j hj => ?_⟩
    rw [toNat_ofNat_memLe (by decide)]
    exact memLe_byte hj _ _
  case refine_2 =>
    refine ⟨_, exec_of_fWrite h (congrArg some (fLoad_of_dataOk hok 1)), ?_, fun j hj => ?_⟩ <;> rw [toNat_ofNat_memLe (by decide)]
    · exact memLe_lt _ _ 4
    · exact memLe_byte hj _ _
  case refine_3 =>
    rw [← fieldB_dreg]
    refine ⟨_, exec_of_dSet h (congrArg some (fDld_of_dataOk hok)), fun j hj => ?_⟩
    rw [toNat_ofNat_memLe (by decide)]
    exact memLe_byte hj _ _
  case refine_4 => exact ⟨_, exec_of_memory h (congrArg some (fStore_of_dataOk hok 2)), bytesStored_write _ _ _ _⟩
  case refine_5 => exact ⟨_, exec_of_memory h (congrArg some (fStore_of_dataOk hok 1)), bytesStored_write _ _ _ _⟩
  case refine_6 =>
    rw [← fieldB_dreg]
    exact ⟨_, exec_of_memory h (congrArg some (fDst_of_dataOk hok)), bytesStored_write _ _ _ _⟩

/-! ### Branches and jumps (R40) -/

theorem fJump_of_inside {a : W64} {q : Seq} (h : a.toNat < q.codeSize) : fJump a q = .ok { q with pc := a.setWidth 16 } 1 := if_pos h

theorem fLink_of_inside {a : W64} {q : Seq} (h : a.toNat < q.codeSize) (rd : BitVec 5) :
    fLink rd a q = .ok (putG rd (q.pc.setWidth 64 + 4) { q with pc := a.setWidth 16 }) 1 := by
  simp [fLink, fJump_of_inside h, gSet_eq_putG]

theorem exec_of_jump {t : Tid} {i : FInstr} {s : State} {a : BitVec 16} (h : AtInstr t i s)
    (hl : fLocal i (seqOf s t) = some (.ok { seqOf s t with pc := a } 1)) : exec (commandOf t i) s = .next (jumpResult t a s) :=
  exec_of_local h hl rfl rfl

theorem fBranch_of_not_taken {op : FBr} {ra rb : BitVec 5} {q : Seq} (h : fTaken op (gGet q ra) (gGet q rb) = false) (imm : BitVec 16) :
    fBranch op ra rb imm q = .ok (nextPc q) 1 := by simp [fBranch, h]

theorem fBranch_of_taken {op : FBr} {ra rb : BitVec 5} {imm : BitVec 16} {q : Seq} (h : fTaken op (gGet q ra) (gGet q rb) = true)
    (hin : (fTarget q imm).toNat < q.codeSize) : fBranch op ra rb imm q = .ok { q with pc := (fTarget q imm).setWidth 16 } 1 := by
  simp [fBranch, h, fJump_of_inside hin]

/-- A branch whose condition is P: the two ways it can go. -/
theorem exec_branch {t : Tid} {op : FBr} {ra rb : BitVec 5} {imm : BitVec 16} {s : State} {P : Prop}
    (h : AtInstr t (.branch op ra rb imm) s) (hP : fTaken op (greg s t ra) (greg s t rb) = true ↔ P) :
    (¬P → exec (commandOf t (.branch op ra rb imm)) s = .next (jumpResult t ((seqOf s t).pc + 4) s))
      ∧ (P → ∀ a : W64, a = (seqOf s t).pc.setWidth 64 + imm.signExtend 64 * 4 → a.toNat < (seqOf s t).codeSize →
        exec (commandOf t (.branch op ra rb imm)) s = .next (jumpResult t (a.setWidth 16) s)) := by
  refine ⟨fun hn => ?_, fun hp a ha hin => ?_⟩
  · have hfalse : fTaken op (greg s t ra) (greg s t rb) = false := Bool.eq_false_iff.mpr (mt hP.mp hn)
    exact exec_of_jump h (congrArg some (fBranch_of_not_taken hfalse imm))
  · subst ha
    exact exec_of_jump h (congrArg some (fBranch_of_taken (hP.mpr hp) hin))

theorem putG_withPc (rd : BitVec 5) (v : W64) (a : BitVec 16) (q : Seq) :
    putG rd v { q with pc := a } = { putG rd v q with pc := a } := by
  unfold putG
  split <;> rfl

theorem exec_of_link {t : Tid} {i : FInstr} {s : State} {a : W64} {rd : BitVec 5} (h : AtInstr t i s)
    (hl : fLocal i (seqOf s t) = some (fLink rd a (seqOf s t))) (hin : a.toNat < (seqOf s t).codeSize) :
    exec (commandOf t i) s
      = .next (withSeq t (retired (a.setWidth 16) 1 (putG rd ((seqOf s t).pc.setWidth 64 + 4) (seqOf s t))) s) := by
  rw [fLink_of_inside hin] at hl
  rw [exec_of_local h hl (putG_st _ _ _) (putG_step _ _ _), putG_withPc]
  rfl

/-- Settles O11: the six conditions are those of `fTaken`; a jump links before it leaves. -/
theorem controlTransfer : Obligations.ControlTransfer := by
  refine ⟨fun t ra rb imm s c op taken hop h => ?_, fun t rd ra imm s c op a hop h hin => ?_⟩
  · rcases hop with ⟨rfl, rfl, rfl⟩ | ⟨rfl, rfl, rfl⟩ | ⟨rfl, rfl, rfl⟩ | ⟨rfl, rfl, rfl⟩ | ⟨rfl, rfl, rfl⟩ | ⟨rfl, rfl, rfl⟩
    · exact exec_branch h (by simp [fTaken])
    · exact exec_branch h (by simp [fTaken])
    · exact exec_branch h (by simp [fTaken, BitVec.slt_iff_toInt_lt])
    · exact exec_branch h (by simp [fTaken, BitVec.slt_eq_decide])
    · exact exec_branch h (by simp [fTaken, BitVec.ult_eq_decide])
    · exact exec_branch h (by simp [fTaken, BitVec.ult_eq_decide])
  · rcases hop with ⟨rfl, rfl, rfl⟩ | ⟨rfl, rfl, rfl⟩
    · exact exec_of_link h rfl hin
    · exact exec_of_link h rfl hin

end Sys2Proof.Machine
end

section
/-! The free buffers of Toybox: the positions in use are rising and lie below the number of buffers in service, so the
position that an ALLOC picks is one that no record occupies. -/
namespace Sys2Proof.Machine
open Sys2Proof.Safety

/-! ### The k-th number outside a rising list -/

theorem le_nthFree (l : List Nat) (k : Nat) : k ≤ nthFree l k := by
  induction l generalizing k with
  | nil => exact le_rfl
  | cons u r ih =>
    rw [nthFree]
    split
    · exact le_rfl
    · exact (Nat.le_succ k).trans (ih (k + 1))

theorem nthFree_le (l : List Nat) (k : Nat) : nthFree l k ≤ k + l.length := by
  induction l generalizing k with
  | nil => exact le_rfl
  | cons u r ih =>
    have := ih (k + 1)
    rw [nthFree, List.length_cons]
    split <;> omega

theorem nthFree_notMem {l : List Nat} (h : l.Pairwise (· < ·)) (k : Nat) : nthFree l k ∉ l := by
  induction l generalizing k with
  | nil => simp
  | cons u r ih =>
    obtain ⟨hu, hr⟩ := List.pairwise_cons.mp h
    rw [nthFree]
    split
    · next hk =>
      intro hm
      rcases List.mem_cons.mp hm with rfl | hm
      · exact lt_irrefl _ hk
      · exact lt_asymm hk (hu _ hm)
    · next hk =>
      intro hm
      have := le_nthFree r (k + 1)
      rcases List.mem_cons.mp hm with hm | hm
      · omega
      · exact ih hr (k + 1) hm

/-! ### Cells of a canonical map -/

theorem pairwise_of_cellsRise {α : Type} {l : List (Nat × α)} (h : cellsRise l = true) :
    l.Pairwise (fun c d => c.1 < d.1) := by
  induction l with
  | nil => exact List.Pairwise.nil
  | cons c r ih =>
    obtain ⟨habove, hrise⟩ := (cellsRise_cons c.1 c.2 r).mp h
    exact List.pairwise_cons.mpr ⟨habove, ih hrise⟩

theorem mem_of_cellFind {α : Type} {k : Nat} {v : α} {l : List (Nat × α)} (h : cellFind k l = some v) : (k, v) ∈ l := by
  induction l with
  | nil => simp [cellFind] at h
  | cons c r ih =>
    rw [cellFind] at h
    split at h
    · next hk => exact Option.some.inj h ▸ hk ▸ List.mem_cons_self
    · exact List.mem_cons_of_mem _ (ih h)

theorem SMap.mem_cells_of_get_ne {α : Type} {m : SMap α} {d : α} {k : Nat} (h : m.get d k ≠ d) : (k, m.get d k) ∈ m.cells := by
  unfold SMap.get at h ⊢
  cases hf : cellFind k m.cells with
  | none => simp [hf] at h
  | some v => simpa using mem_of_cellFind hf

/-! ### Classes and groups -/

/-- The classes cover the indices of a group in blocks, class c from its base on. -/
theorem classOfIndex_iff (s : State) (j c : Nat) (hc : c < 4) :
    classOfIndex s j = some c ↔ classBase s c ≤ j ∧ j < classBase s c + perGroup s c := by
  have h0 : classBase s 0 = perGroup s 3 + perGroup s 2 + perGroup s 1 := rfl
  have h1 : classBase s 1 = perGroup s 3 + perGroup s 2 := rfl
  have h2 : classBase s 2 = perGroup s 3 := rfl
  have h3 : classBase s 3 = 0 := rfl
  unfold classOfIndex
  interval_cases c <;> split_ifs <;> simp <;> omega

theorem classOf_iff (s : State) (id c : Nat) (hc : c < 4) :
    classOf s id = some c ↔ (id / 2 ^ 20 < groupCount s ∧ id < 2 ^ 24)
      ∧ classBase s c ≤ id % 2 ^ 20 ∧ id % 2 ^ 20 < classBase s c + perGroup s c := by
  rw [← classOfIndex_iff s _ c hc, classOf]
  split <;> simp_all

theorem groupCount_le (s : State) : groupCount s ≤ 16 := by
  unfold groupCount
  split <;> omega

theorem mem_liveGroups (s : State) (g : Nat) : g ∈ liveGroups s ↔ g < groupCount s ∧ groupRetired s g = false := by
  simp [liveGroups]

theorem liveGroups_pairwise (s : State) : (liveGroups s).Pairwise (· < ·) :=
  List.Pairwise.filter _ List.pairwise_lt_range

/-- A later group stands later in the list of the groups in service. -/
theorem lt_of_idxOf?_liveGroups {s : State} {g h p q : Nat} (hg : (liveGroups s).idxOf? g = some p)
    (hh : (liveGroups s).idxOf? h = some q) (hlt : g < h) : p < q := by
  obtain ⟨hp, hpg, -⟩ := List.idxOf?_eq_some_iff.mp hg
  obtain ⟨hq, hqh, -⟩ := List.idxOf?_eq_some_iff.mp hh
  by_contra hle
  rcases Nat.lt_or_ge q p with hqp | hpq
  · have := List.pairwise_iff_getElem.mp (liveGroups_pairwise s) q p hq hp hqp
    omega
  · obtain rfl : p = q := by omega
    omega

/-! ### The positions in use -/

/-- The position of a record's buffer among the buffers of class c in service. -/
def bufPosition (s : State) (c : Nat) (x : Nat × BufRec) : Option Nat :=
  ((liveGroups s).idxOf? (x.1 / 2 ^ 20)).map (fun p => p * perGroup s c + (x.1 % 2 ^ 20 - classBase s c))

/-- Whether a record's buffer is one of class c in service that is in use. -/
def inUse (s : State) (c : Nat) (x : Nat × BufRec) : Bool :=
  decide (x.2.st ≠ .free) && classOf s x.1 == some c && !groupRetired s (x.1 / 2 ^ 20)

theorem takenPositions_eq (s : State) (c : Nat) :
    takenPositions s c = (s.tbx.recs.cells.filter (inUse s c)).filterMap (bufPosition s c) := rfl

theorem classOf_of_inUse {s : State} {c : Nat} {x : Nat × BufRec} (h : inUse s c x = true) : classOf s x.1 = some c := by
  simp only [inUse, Bool.and_eq_true, beq_iff_eq] at h
  exact h.1.2

/-- Of two buffers in use, the one with the higher BUFID has the higher position. -/
theorem bufPosition_lt {s : State} {c : Nat} (hc : c < 4) {x y : Nat × BufRec} {p q : Nat} (hx : inUse s c x = true)
    (hy : inUse s c y = true) (hxy : x.1 < y.1) (hp : bufPosition s c x = some p) (hq : bufPosition s c y = some q) : p < q := by
  obtain ⟨-, hx1, hx2⟩ := (classOf_iff s x.1 c hc).mp (classOf_of_inUse hx)
  obtain ⟨-, hy1, hy2⟩ := (classOf_iff s y.1 c hc).mp (classOf_of_inUse hy)
  obtain ⟨a, ha, rfl⟩ := Option.map_eq_some_iff.mp hp
  obtain ⟨b, hb, rfl⟩ := Option.map_eq_some_iff.mp hq
  rcases Nat.lt_or_ge (x.1 / 2 ^ 20) (y.1 / 2 ^ 20) with hg | hg
  · have hab := lt_of_idxOf?_liveGroups ha hb hg
    have := Nat.mul_le_mul_right (perGroup s c) (Nat.succ_le_of_lt hab)
    rw [Nat.succ_mul] at this
    omega
  · have hgroup : x.1 / 2 ^ 20 = y.1 / 2 ^ 20 := le_antisymm (Nat.div_le_div_right hxy.le) hg
    rw [hgroup, hb] at ha
    obtain rfl := Option.some.inj ha
    omega

theorem takenPositions_pairwise {s : State} {c : Nat} (hc : c < 4) (hw : s.tbx.recs.wf BufRec.reset = true) :
    (takenPositions s c).Pairwise (· < ·) := by
  rw [takenPositions_eq]
  have hrise := pairwise_of_cellsRise ((SMap.wf_iff _ _).mp hw).1
  refine List.Pairwise.filterMap (R := fun x y => inUse s c x = true ∧ inUse s c y = true ∧ x.1 < y.1) (bufPosition s c)
    (fun x y ⟨hx, hy, hxy⟩ p hp q hq => bufPosition_lt hc hx hy hxy hp hq) ?_
  refine (hrise.filter (inUse s c)).imp_of_mem ?_
  exact fun hx hy hxy => ⟨(List.mem_filter.mp hx).2, (List.mem_filter.mp hy).2, hxy⟩

/-! ### The buffer at a position -/

section Position
variable {s : State} {c p : Nat}

/-- The group of a position: its block among the groups in service. -/
def posGroup (s : State) (c p : Nat) : Nat := (liveGroups s).getD (p / perGroup s c) 0

theorem posBuf_eq (s : State) (c p : Nat) : posBuf s c p = posGroup s c p * 2 ^ 20 + (classBase s c + p % perGroup s c) := by
  rw [posBuf, posGroup, Nat.add_assoc]

variable (hp : p < (liveGroups s).length * perGroup s c)
include hp

theorem perGroup_pos : 0 < perGroup s c := by
  rcases Nat.eq_zero_or_pos (perGroup s c) with h | h
  · simp [h] at hp
  · exact h

theorem posGroup_lt : p / perGroup s c < (liveGroups s).length := Nat.div_lt_of_lt_mul (Nat.mul_comm _ _ ▸ hp)

theorem posGroup_eq : posGroup s c p = (liveGroups s)[p / perGroup s c]'(posGroup_lt hp) :=
  List.getD_eq_getElem _ _ (posGroup_lt hp)

theorem posGroup_mem : posGroup s c p ∈ liveGroups s := posGroup_eq hp ▸ List.getElem_mem _

variable (hc : c < 4) (hsize : perGroup s 0 + perGroup s 1 + perGroup s 2 + perGroup s 3 ≤ 2 ^ 20)
include hc hsize

theorem posIndex_lt : classBase s c + p % perGroup s c < 2 ^ 20 := by
  have := Nat.mod_lt p (perGroup_pos hp)
  have : classBase s c + perGroup s c ≤ perGroup s 0 + perGroup s 1 + perGroup s 2 + perGroup s 3 := by
    interval_cases c <;> simp only [classBase] <;> omega
  omega

theorem posBuf_div : posBuf s c p / 2 ^ 20 = posGroup s c p := by
  have := posIndex_lt hp hc hsize
  rw [posBuf_eq]
  omega

theorem posBuf_mod : posBuf s c p % 2 ^ 20 = classBase s c + p % perGroup s c := by
  have := posIndex_lt hp hc hsize
  rw [posBuf_eq]
  omega

theorem classOf_posBuf : classOf s (posBuf s c p) = some c := by
  have hlt := ((mem_liveGroups s _).mp (posGroup_mem hp)).1
  have := groupCount_le s
  have hdiv := posBuf_div hp hc hsize
  have := Nat.mod_lt p (perGroup_pos hp)
  rw [classOf_iff s _ c hc, hdiv, posBuf_mod hp hc hsize]
  refine ⟨⟨hlt, ?_⟩, by omega, by omega⟩
  omega

theorem groupRetired_posBuf : groupRetired s (posBuf s c p / 2 ^ 20) = false := by
  rw [posBuf_div hp hc hsize]
  exact ((mem_liveGroups s _).mp (posGroup_mem hp)).2

theorem bufPosition_posBuf (r : BufRec) : bufPosition s c (posBuf s c p, r) = some p := by
  have hidx : (liveGroups s).idxOf? (posGroup s c p) = some (p / perGroup s c) := by
    refine List.idxOf?_eq_some_iff.mpr ⟨posGroup_lt hp, (posGroup_eq hp).symm, fun j hj => ?_⟩
    rw [posGroup_eq hp]
    exact (List.pairwise_iff_getElem.mp (liveGroups_pairwise s) j _ _ _ hj).ne
  simp only [bufPosition, posBuf_div hp hc hsize, posBuf_mod hp hc hsize, hidx, Option.map_some, Option.some.injEq]
  have := Nat.div_add_mod p (perGroup s c)
  rw [Nat.mul_comm] at this
  omega

/-- A position that no record occupies is a FREE buffer. -/
theorem bufStored_posBuf_of_notMem (hfree : p ∉ takenPositions s c) : (bufStored s (posBuf s c p)).st = .free := by
  by_contra hst
  have hne : bufStored s (posBuf s c p) ≠ BufRec.reset := fun h => hst (h ▸ rfl)
  have hcell := SMap.mem_cells_of_get_ne hne
  have huse : inUse s c (posBuf s c p, bufStored s (posBuf s c p)) = true := by
    simp only [inUse, classOf_posBuf hp hc hsize, groupRetired_posBuf hp hc hsize, hst, ne_eq, not_false_eq_true, decide_true,
      beq_self_eq_true, Bool.and_self, Bool.not_false]
  apply hfree
  rw [takenPositions_eq]
  exact List.mem_filterMap.mpr ⟨_, List.mem_filter.mpr ⟨hcell, huse⟩, bufPosition_posBuf hp hc hsize _⟩

end Position

/-! ### Taking a buffer -/

/-- The BUFID that takeBuffer picks. -/
def pickedBuf (c : Nat) (s : State) : Nat :=
  posBuf s c (nthFree (takenPositions s c) (Config.pickBuffer s.freeCtr (freeCount s c) % freeCount s c))

/-- The record of a buffer given to an agent. -/
def givenRec (agent : Nat) (r : BufRec) : BufRec :=
  { r with st := .allocated, gen := if r.gen = 0 then 1 else r.gen, owner := BitVec.ofNat 4 agent, hold := (SMap.mk []).set 0 agent 1 }

theorem giveBuffer_eq (w : Waiter) (id : Nat) (s : State) :
    giveBuffer w id s = tbxAnswer w 0x00 (tokenOf id (givenRec w.agent (bufStored s id)).gen)
      (setBuf id (givenRec w.agent (bufStored s id)) s) := rfl

theorem takeBuffer_eq (w : Waiter) (c : Nat) (s : State) :
    takeBuffer w c s = giveBuffer w (pickedBuf c s) { s with freeCtr := s.freeCtr + 1 } := rfl

@[simp] theorem bufStored_setBuf_self (id : Nat) (r : BufRec) (s : State) : bufStored (setBuf id r s) id = r :=
  SMap.get_set_self _ _ _ _

theorem bufStored_setBuf_ne {id j : Nat} (h : j ≠ id) (r : BufRec) (s : State) : bufStored (setBuf id r s) j = bufStored s j := by
  rw [bufStored, setBuf, SMap.get_set, if_neg h]
  rfl

theorem otherBuffers_setBuf (id : Nat) (r : BufRec) (s : State) : OtherBuffers id s (setBuf id r s) :=
  fun _ hj => bufStored_setBuf_ne hj r s

theorem pickedBuf_free {s : State} {c : Nat} (hw : s.tbx.recs.wf BufRec.reset = true) (hc : c < 4) (hpos : 0 < freeCount s c)
    (hsize : perGroup s 0 + perGroup s 1 + perGroup s 2 + perGroup s 3 ≤ 2 ^ 20) :
    classOf s (pickedBuf c s) = some c ∧ (bufStored s (pickedBuf c s)).st = .free
      ∧ groupRetired s (pickedBuf c s / 2 ^ 20) = false := by
  have hk := Nat.mod_lt (Config.pickBuffer s.freeCtr (freeCount s c)) hpos
  have hle := nthFree_le (takenPositions s c) (Config.pickBuffer s.freeCtr (freeCount s c) % freeCount s c)
  have hp : nthFree (takenPositions s c) (Config.pickBuffer s.freeCtr (freeCount s c) % freeCount s c)
      < (liveGroups s).length * perGroup s c := by
    have : freeCount s c = (liveGroups s).length * perGroup s c - (takenPositions s c).length := rfl
    omega
  exact ⟨classOf_posBuf hp hc hsize, bufStored_posBuf_of_notMem hp hc hsize (nthFree_notMem (takenPositions_pairwise hc hw) _),
    groupRetired_posBuf hp hc hsize⟩

/-- Settles O27: the positions in use rise strictly, so the number that `nthFree` answers is none of them. -/
theorem allocTakesAFreeBuffer : Obligations.AllocTakesAFreeBuffer := by
  intro w c s hw hc hpos hsize
  obtain ⟨hclass, hfree, hgroup⟩ := pickedBuf_free hw hc hpos hsize
  refine ⟨pickedBuf c s, hclass, hfree, hgroup,
    setBuf (pickedBuf c s) (givenRec w.agent (bufStored s (pickedBuf c s))) { s with freeCtr := s.freeCtr + 1 }, ?_, ?_, ?_⟩
  · rw [takeBuffer_eq, giveBuffer_eq, bufStored_setBuf_self]
    rfl
  · rw [bufStored_setBuf_self]
    rfl
  · exact fun j hj => bufStored_setBuf_ne hj _ _

end Sys2Proof.Machine
end

section
/-! Register accesses whose write starts an action (R10, R20, R280): who may make them, and what ending a low-power state changes. -/
namespace Sys2Proof.Machine
open Sys2Proof.Safety

/-! ### What waking changes (R279, R280) -/

/-- Waking changes the transports' motion and the power state only. -/
theorem wakeUp_only (s : State) :
    wakeUp s = { s with tp := (wakeUp s).tp, hif := { s.hif with ps := 0, entering := none } } := by
  unfold wakeUp
  dsimp only
  split
  · rw [show modMot = fun t f => modTp t (fun x => { x with mot := f x.mot }) from rfl]
    dsimp only
    rw [forAll_modTp_tp_only (fun t x => { x with mot :=
      if (tpOf s t).loaded ∧ x.mot.st = .released then { x.mot with st := .tensioned, tensOn := true } else x.mot }) allT s]
  · rfl

/-- Waking tensions a transport again, or leaves it. -/
theorem tpOf_wakeUp (s : State) (t : Tid) : ∃ m, tpOf (wakeUp s) t = { tpOf s t with mot := m } := by
  unfold wakeUp
  dsimp only
  split
  · exact ⟨_, tpOf_forAll_modTp (fun t x => { x with mot :=
      if (tpOf s t).loaded ∧ x.mot.st = .released then { x.mot with st := .tensioned, tensOn := true } else x.mot }) s t⟩
  · exact ⟨(tpOf s t).mot, rfl⟩

section Wakes
variable (src : Src) (s : State)

@[simp] theorem hostWakes_puppeteer : hostWakes .puppeteer s = s := rfl
@[simp] theorem hostWakes_host (ep : Fin 4) : hostWakes (.host ep) s = wakeUp s := rfl

@[simp] theorem wakeUp_regs : (wakeUp s).regs = s.regs := by rw [wakeUp_only]
@[simp] theorem wakeUp_tbx : (wakeUp s).tbx = s.tbx := by rw [wakeUp_only]
@[simp] theorem wakeUp_mem : (wakeUp s).mem = s.mem := by rw [wakeUp_only]
@[simp] theorem wakeUp_hbmStacks : (wakeUp s).hbmStacks = s.hbmStacks := by rw [wakeUp_only]
@[simp] theorem wakeUp_codec : (wakeUp s).codec = s.codec := by rw [wakeUp_only]
@[simp] theorem wakeUp_mrn : (wakeUp s).mrn = s.mrn := by rw [wakeUp_only]
@[simp] theorem wakeUp_cache : (wakeUp s).cache = s.cache := by rw [wakeUp_only]
@[simp] theorem wakeUp_flt : (wakeUp s).flt = s.flt := by rw [wakeUp_only]
@[simp] theorem wakeUp_pwr : (wakeUp s).pwr = s.pwr := by rw [wakeUp_only]

@[simp] theorem hostWakes_regs : (hostWakes src s).regs = s.regs := by cases src <;> simp
@[simp] theorem hostWakes_tbx : (hostWakes src s).tbx = s.tbx := by cases src <;> simp
@[simp] theorem hostWakes_mem : (hostWakes src s).mem = s.mem := by cases src <;> simp
@[simp] theorem hostWakes_codec : (hostWakes src s).codec = s.codec := by cases src <;> simp
@[simp] theorem hostWakes_mrn : (hostWakes src s).mrn = s.mrn := by cases src <;> simp
@[simp] theorem hostWakes_cache : (hostWakes src s).cache = s.cache := by cases src <;> simp

theorem tpOf_hostWakes (t : Tid) :
    ∃ m, tpOf (hostWakes src s) t = { tpOf s t with mot := m } := by
  cases src
  · exact tpOf_wakeUp s t
  · exact ⟨(tpOf s t).mot, rfl⟩

end Wakes

theorem reg_of_regs {s u : State} (h : u.regs = s.regs) (off : Nat) : reg u off = reg s off := by rw [reg, h, reg]

theorem fld_of_regs {s u : State} (h : u.regs = s.regs) (off : Nat) (f : Fld) : fld u off f = fld s off f := by
  rw [fld, reg_of_regs h, fld]

@[simp] theorem reg_hostWakes (src : Src) (s : State) (off : Nat) : reg (hostWakes src s) off = reg s off :=
  reg_of_regs (hostWakes_regs src s) off

@[simp] theorem fld_hostWakes (src : Src) (s : State) (off : Nat) (f : Fld) : fld (hostWakes src s) off f = fld s off f :=
  fld_of_regs (hostWakes_regs src s) off f

@[simp] theorem reg_wakeUp (s : State) (off : Nat) : reg (wakeUp s) off = reg s off := reg_of_regs (wakeUp_regs s) off
@[simp] theorem fld_wakeUp (s : State) (off : Nat) (f : Fld) : fld (wakeUp s) off f = fld s off f := fld_of_regs (wakeUp_regs s) off f

/-! ### Who may write -/

section Access
variable {src : Src} {ts : List Nat} {off : Nat} {f : State → State} {s : State}

theorem byDebug_of_may (hm : srcMay src ts s = true) (hr : romHeld src s = false) : byDebug src ts off f s = f (hostWakes src s) := by
  rw [byDebug, hr, if_neg Bool.false_ne_true, if_pos hm]

theorem byDebug_of_denied (hm : srcMay src ts s = false) (hr : romHeld src s = false) :
    byDebug src ts off f s = logAccess off (hostWakes src s) := by
  rw [byDebug, hr, if_neg Bool.false_ne_true, hm, if_neg Bool.false_ne_true]

theorem byAny_of_not_held (hr : romHeld src s = false) : byAny src f s = f (hostWakes src s) := by
  rw [byAny, hr, if_neg Bool.false_ne_true]

theorem srcMay_host (ep : Fin 4) (t : Nat) (s : State) : srcMay (.host ep) [t] s = dbgEn s t := by
  simp [srcMay]

end Access

end Sys2Proof.Machine
end

section
/-! Toybox (R183-R197): what an answer, a given buffer, a dropped reference and a wait list leave of the buffer records, and with
that the statements on ALLOC, ADDREF, RELEASE and the operations of agent 3. -/
namespace Sys2Proof.Machine
open Sys2Proof.Safety

/-! ### The stage's oldest descriptor -/

theorem onHead_of_headIs {t : Tid} {n op nops : Nat} {y : Slot} {s : State} (h : HeadIs t n op y s) (f : Slot → State → State) :
    onHead t n op nops f s = f y s := by
  obtain ⟨hhead, hop⟩ := h
  simp only [onHead, hhead, hop, if_true]

theorem partB_eq_extractLsb' {n : Nat} (x : BitVec n) (lo w : Nat) : partB x lo w = x.extractLsb' lo w := by
  apply BitVec.eq_of_toNat_eq
  simp [partB, fieldB, fieldOf, Nat.shiftRight_eq_div_pow]

theorem tid_val (t : Tid) : tid t.val = t := Fin.ext (Nat.mod_eq_of_lt t.isLt)

/-! ### What an answer leaves of Toybox -/

/-- A logged fault reaches the fault log and, where the log was full, FLT_STAT. -/
theorem logFault_only (u : BitVec 16) (k c w : Nat) (d : W64) (s : State) :
    logFault u k c w d s = { s with flt := (logFault u k c w d s).flt, regs := (logFault u k c w d s).regs } := by
  unfold logFault
  split <;> rfl

@[simp] theorem logFault_tbx (u : BitVec 16) (k c w : Nat) (d : W64) (s : State) : (logFault u k c w d s).tbx = s.tbx := by
  rw [logFault_only]

/-- What of Toybox an answer leaves: all but the answers given to units. -/
theorem tbxAnswer_tbx (w : Waiter) (st : BitVec 8) (v : W32) (s : State) :
    (tbxAnswer w st v s).tbx = { s.tbx with given := (tbxAnswer w st v s).tbx.given } := by
  unfold tbxAnswer
  split
  · rfl
  · dsimp only
    split
    · rfl
    · rw [logFault_tbx]

@[simp] theorem tbxAnswer_recs (w : Waiter) (st : BitVec 8) (v : W32) (s : State) : (tbxAnswer w st v s).tbx.recs = s.tbx.recs := by
  rw [tbxAnswer_tbx]

@[simp] theorem waitList_tbxAnswer (w : Waiter) (st : BitVec 8) (v : W32) (s : State) (c : Nat) :
    waitList (tbxAnswer w st v s).tbx c = waitList s.tbx c := by
  rw [tbxAnswer_tbx]
  rfl

theorem bufStored_of_recs {s u : State} (h : u.tbx.recs = s.tbx.recs) (id : Nat) : bufStored u id = bufStored s id := by
  rw [bufStored, h, bufStored]

@[simp] theorem bufStored_tbxAnswer (w : Waiter) (st : BitVec 8) (v : W32) (s : State) (id : Nat) :
    bufStored (tbxAnswer w st v s) id = bufStored s id := bufStored_of_recs (tbxAnswer_recs w st v s) id

@[simp] theorem tbxError_tbx (f : Fld) (agent : Nat) (tok : W32) (s : State) : (tbxError f agent tok s).tbx = s.tbx := by
  simp [tbxError, raiseFld]

/-- On a slice's port the answer is the completion. -/
theorem tbxAnswer_slice (t : Tid) (c f : Nat) (k : BitVec 16) (st : BitVec 8) (v : W32) (s : State) :
    tbxAnswer ⟨2, 4 + t.val, c, f, some k⟩ st v s = finish t 7 k st v s := by
  show finish (tid (4 + t.val - 4)) 7 k st v s = _
  rw [Nat.add_sub_cancel_left, tid_val]

/-! ### Wait lists -/

@[simp] theorem waitList_setWaitList_self (c : Nat) (l : List Waiter) (x : Tbx) : waitList (setWaitList c l x) c = l := by
  rcases c with _ | _ | _ | _ <;> rfl

theorem waitList_setWaitList_ne {c d : Nat} (hc : c < 4) (hd : d < 4) (h : d ≠ c) (l : List Waiter) (x : Tbx) :
    waitList (setWaitList c l x) d = waitList x d := by
  interval_cases c <;> interval_cases d <;> simp_all [waitList, setWaitList]

@[simp] theorem setWaitList_recs (c : Nat) (l : List Waiter) (x : Tbx) : (setWaitList c l x).recs = x.recs := by
  rcases c with _ | _ | _ | _ <;> rfl

theorem setWaitList_nil_of_nil {c : Nat} {x : Tbx} (h : waitList x c = []) : setWaitList c [] x = x := by
  rcases c with _ | _ | _ | _ <;> (cases x; simp_all [waitList, setWaitList])

/-- A class that nobody waits for is served at once. -/
theorem serveWaiters_of_none {c : Nat} {s : State} (h : waitList s.tbx c = []) : serveWaiters c s = s := by
  rw [serveWaiters, h, serveList, List.reverse_nil, setWaitList_nil_of_nil h]

theorem joinWait_of_room {w : Waiter} {s : State} (h : (waitList s.tbx w.cls).length < 255) :
    joinWait w s = { s with tbx := setWaitList w.cls (waitList s.tbx w.cls ++ [w]) s.tbx } := by
  rw [joinWait, if_pos h]

/-! ### The pool seen by a request: registers, records and stacks -/

/-- Two states with the same registers, buffer records and stacks. -/
def SamePool (s u : State) : Prop := u.regs = s.regs ∧ u.tbx.recs = s.tbx.recs ∧ u.hbmStacks = s.hbmStacks

section SamePool
variable {s u : State} (h : SamePool s u)
include h

theorem perGroup_congr (c : Nat) : perGroup u c = perGroup s c := fld_of_regs h.1 _ _

theorem classBase_congr (c : Nat) : classBase u c = classBase s c := by
  rcases c with _ | _ | _ | _ <;> simp only [classBase, perGroup_congr h]

theorem classOfIndex_congr (j : Nat) : classOfIndex u j = classOfIndex s j := by
  simp only [classOfIndex, classBase_congr h, perGroup_congr h]

theorem groupCount_congr : groupCount u = groupCount s := by rw [groupCount, h.2.2, groupCount]

theorem classOf_congr (id : Nat) : classOf u id = classOf s id := by
  rw [classOf, classOfIndex_congr h, groupCount_congr h, classOf]

theorem groupRetired_congr (g : Nat) : groupRetired u g = groupRetired s g := by
  rw [groupRetired, reg_of_regs h.1, groupRetired]

theorem bufStored_congr (id : Nat) : bufStored u id = bufStored s id := bufStored_of_recs h.2.1 id

theorem bufRec_congr (id : Nat) : bufRec u id = bufRec s id := by
  simp only [bufRec, bufStored_congr h, groupRetired_congr h]

theorem liveGroups_congr : liveGroups u = liveGroups s := by
  simp only [liveGroups, groupCount_congr h, groupRetired_congr h]

theorem freeCount_congr (c : Nat) : freeCount u c = freeCount s c := by
  simp only [freeCount, takenPositions, liveGroups_congr h, classOf_congr h, groupRetired_congr h, perGroup_congr h,
    classBase_congr h, h.2.1]

theorem classHas_congr (agent c : Nat) : classHas u agent c = classHas s agent c := by
  simp only [classHas, freeCount_congr h, atQuota, heldClass3, classOf_congr h, fld_of_regs h.1, h.2.1]
  rfl

end SamePool

/-! ### A slice's request in its turn (R190) -/

/-- A slice's request is granted, and its descriptor taken. -/
def sliceTaken (t : Tid) (k : BitVec 16) (s : State) : State :=
  takeDesc t 7 k { s with tbx := { s.tbx with last := 2, slice := t.val } }

theorem samePool_sliceTaken (t : Tid) (k : BitVec 16) (s : State) : SamePool s (sliceTaken t k s) := ⟨rfl, rfl, rfl⟩

@[simp] theorem waitList_sliceTaken (t : Tid) (k : BitVec 16) (s : State) (c : Nat) :
    waitList (sliceTaken t k s).tbx c = waitList s.tbx c := rfl

@[simp] theorem bufStored_sliceTaken (t : Tid) (k : BitVec 16) (s : State) (id : Nat) : bufStored (sliceTaken t k s) id = bufStored s id := rfl

@[simp] theorem fld_sliceTaken (t : Tid) (k : BitVec 16) (s : State) (off : Nat) (f : Fld) : fld (sliceTaken t k s) off f = fld s off f := rfl

theorem samePool_tbxGrant (port : Nat) (s : State) : SamePool s (tbxGrant port s) := ⟨rfl, rfl, rfl⟩

section Slice
variable {t : Tid} {y : Slot} {s : State} (hturn : sliceTurn s t = true)
include hturn

theorem sliceGrant_of_turn (f : State → State) : sliceGrant t f s = f { s with tbx := { s.tbx with last := 2, slice := t.val } } := by
  rw [sliceGrant, if_pos hturn]

theorem exec_alloc_slice (hhead : HeadIs t 7 1 y s) (hfits : descFits y.desc 0xF 0 0 0 = true) :
    exec (.tbxAlloc (.slice t)) s
      = .next (tbxAllocOp ⟨2, 4 + t.val, descArg y.desc % 4, descArg y.desc / 4 % 4, some y.ticket⟩ (sliceTaken t y.ticket s)) := by
  rw [exec_tbxAlloc, allocRow, onHead_of_headIs hhead, sliceGrant_of_turn hturn, if_pos hfits]
  rfl

theorem tokRow_slice {op : Nat} (f : Waiter → W32 → State → State) (hhead : HeadIs t 7 op y s)
    (hfits : descFits y.desc 0xFFFFFFFF 0 0 0 = true) :
    tokRow op f (.slice t) s = f ⟨2, 4 + t.val, 0, 0, some y.ticket⟩ (y.desc.extractLsb' 32 32) (sliceTaken t y.ticket s) := by
  rw [tokRow, onHead_of_headIs hhead, sliceGrant_of_turn hturn, if_pos hfits, partB_eq_extractLsb']
  rfl

end Slice

theorem tbxUnit_of_turn {port agent : Nat} {tok : W32} {f : State → State} {s : State} (hturn : portTurn s port = true)
    (hfit : agentFits port agent = true) : tbxUnit port agent tok f s = f (tbxGrant port s) := by
  rw [tbxUnit, if_pos hturn]
  exact if_pos hfit

/-! ### ALLOC -/

theorem bufRefs_givenRec (agent : Nat) (r : BufRec) : bufRefs (givenRec agent r) = 1 := rfl

theorem bufHold_givenRec (agent : Nat) (r : BufRec) : bufHold (givenRec agent r) agent = 1 := SMap.get_set_self _ _ _ _

theorem givenRec_gen_ne_zero (agent : Nat) (r : BufRec) : (givenRec agent r).gen ≠ 0 := by
  by_cases h : r.gen = 0
  · exact (if_pos h).trans_ne (by decide)
  · exact (if_neg h).trans_ne h

theorem givenRec_gen_cases (agent : Nat) (r : BufRec) :
    (givenRec agent r).gen = r.gen ∨ (r.gen = 0 ∧ (givenRec agent r).gen = 1) := by
  by_cases h : r.gen = 0
  · exact Or.inr ⟨h, if_pos h⟩
  · exact Or.inl (if_neg h)

/-- What a request that takes a buffer leaves: the answer with its token, and one record ALLOCATED to the requester. -/
structure Taken (w : Waiter) (s v u : State) (id : Nat) : Prop where
  answered : v = tbxAnswer w 0x00 (tokenOf id (bufStored u id).gen) u
  stored : bufStored u id = givenRec w.agent (bufStored s id)
  others : OtherBuffers id s u
  regs : u.regs = s.regs
  retry : u.tbx.retry = s.tbx.retry

theorem giveBuffer_taken (w : Waiter) (id : Nat) (s : State) :
    Taken w s (giveBuffer w id s) (setBuf id (givenRec w.agent (bufStored s id)) s) id where
  answered := by rw [giveBuffer_eq, bufStored_setBuf_self]
  stored := bufStored_setBuf_self _ _ _
  others := otherBuffers_setBuf _ _ _
  regs := rfl
  retry := rfl

theorem takeBuffer_taken (w : Waiter) (c : Nat) (s : State) : ∃ (u : State) (id : Nat), Taken w s (takeBuffer w c s) u id :=
  ⟨_, pickedBuf c s, { giveBuffer_taken w (pickedBuf c s) { s with freeCtr := s.freeCtr + 1 } with }⟩

theorem mem_largerClasses {c d : Nat} (hc : c ≤ 3) : d ∈ largerClasses c ↔ c < d ∧ d < 4 := by
  interval_cases c <;> simp [largerClasses] <;> omega

section AllocOp
variable {w : Waiter} {s : State} (hflag : w.flag ≤ 2) (hcls : w.cls ≤ 3)
include hflag hcls

theorem tbxAllocOp_of_disabled (hen : fld s Reg.tbxCtrl Fld.tbxCtrlEn = 0) : tbxAllocOp w s = joinWait w s := by
  rw [tbxAllocOp, if_neg (by omega), if_pos hen]

variable (hen : fld s Reg.tbxCtrl Fld.tbxCtrlEn = 1)
include hen

theorem tbxAllocOp_of_has (hhas : classHas s w.agent w.cls = true) : tbxAllocOp w s = takeBuffer w w.cls s := by
  rw [tbxAllocOp, if_neg (by omega), if_neg (by omega), if_pos hhas]

variable (hnone : classHas s w.agent w.cls = false)
include hnone

omit hflag in
theorem tbxAllocOp_of_fail (h : w.flag = 2) : tbxAllocOp w s = tbxAnswer w 0x02 0 s := by
  rw [tbxAllocOp, if_neg (by omega), if_neg (by omega), hnone, if_neg Bool.false_ne_true, if_neg (by omega), if_neg (by omega)]

omit hflag in
theorem tbxAllocOp_of_wait (h : w.flag = 1) : tbxAllocOp w s = joinWait w s := by
  rw [tbxAllocOp, if_neg (by omega), if_neg (by omega), hnone, if_neg Bool.false_ne_true, if_neg (by omega), if_pos h]

omit hflag in
theorem tbxAllocOp_of_no_larger (h : w.flag = 0) (hno : ∀ d, w.cls < d → d < 4 → classHas s w.agent d = false) :
    tbxAllocOp w s = tbxAnswer w 0x02 0 s := by
  have hfind : (largerClasses w.cls).find? (fun c => classHas s w.agent c) = none := by
    refine List.find?_eq_none.mpr fun d hd => ?_
    obtain ⟨hlt, h4⟩ := (mem_largerClasses hcls).mp hd
    simp [hno d hlt h4]
  rw [tbxAllocOp, if_neg (by omega), if_neg (by omega), hnone, if_neg Bool.false_ne_true, if_pos h, hfind]

omit hflag in
theorem tbxAllocOp_of_larger (h : w.flag = 0) {d : Nat} (hlt : w.cls < d) (hd : d < 4) (hhas : classHas s w.agent d = true)
    (hfirst : ∀ e, w.cls < e → e < d → classHas s w.agent e = false) :
    tbxAllocOp w s = takeBuffer w d (bumpFld (Reg.tbxFbcnt w.cls) Fld.tbxFbcntFallback s) := by
  have hfind : (largerClasses w.cls).find? (fun c => classHas s w.agent c) = some d := by
    have hbelow (e : Nat) (h1 : w.cls < e) (h2 : e < d) : ¬classHas s w.agent e = true := by simp [hfirst e h1 h2]
    clear hnone hfirst
    revert hcls hlt hd hhas hbelow
    generalize w.cls = c
    intro hcls hlt hd hhas hbelow
    interval_cases c <;> interval_cases d <;> simp_all [largerClasses]
  rw [tbxAllocOp, if_neg (by omega), if_neg (by omega), hnone, if_neg Bool.false_ne_true, if_pos h, hfind]

end AllocOp

theorem fld_bumpFld_self {f : Fld} (hf : f.lo + f.w ≤ 32) (off : Nat) (s : State) :
    fld (bumpFld off f s) off f = min (fld s off f + 1) (2 ^ f.w - 1) := by
  have hpos := Nat.two_pow_pos f.w
  rw [bumpFld, fld_setFld_self hf, Nat.mod_eq_of_lt] <;> (unfold satInc; split <;> omega)

/-- What a request that takes a buffer leaves, as ALLOC states it. -/
theorem Taken.spec {w : Waiter} {s v u : State} {id : Nat} (h : Taken w s v u id) :
    ∃ g : BitVec 8, v = tbxAnswer w 0x00 (tokenOf id g) u ∧ g ≠ 0 ∧ (bufStored u id).st = .allocated ∧ (bufStored u id).gen = g
      ∧ bufRefs (bufStored u id) = 1 ∧ bufHold (bufStored u id) w.agent = 1 ∧ (bufStored u id).owner = BitVec.ofNat 4 w.agent
      ∧ (g = (bufStored s id).gen ∨ ((bufStored s id).gen = 0 ∧ g = 1)) ∧ OtherBuffers id s u := by
  refine ⟨(bufStored u id).gen, h.answered, ?_, ?_, rfl, ?_, ?_, ?_, ?_, h.others⟩ <;> rw [h.stored]
  · exact givenRec_gen_ne_zero _ _
  · rfl
  · rfl
  · exact bufHold_givenRec _ _
  · rfl
  · exact givenRec_gen_cases _ _

/-- A request whose class has a buffer takes one. -/
theorem tbxAllocOp_taken {w : Waiter} {s : State} (hflag : w.flag ≤ 2) (hcls : w.cls ≤ 3) (hen : fld s Reg.tbxCtrl Fld.tbxCtrlEn = 1)
    (hhas : classHas s w.agent w.cls = true) : ∃ u id, Taken w s (tbxAllocOp w s) u id := by
  rw [tbxAllocOp_of_has hflag hcls hen hhas]
  exact takeBuffer_taken w w.cls s

theorem exec_alloc_unit {p agent cls flag} (s : State) (hturn : portTurn s p.toNat = true)
    (hfit : agentFits p.toNat agent.toNat = true) (hp : p ≠ 2) : exec (.tbxAlloc (.unit p agent cls flag)) s
      = .next (tbxAllocOp ⟨p.toNat, agent.toNat, cls.toNat, flag.toNat, none⟩ (tbxGrant p.toNat s)) := by
  rw [exec_tbxAlloc, allocRow, if_neg (fun h => hp h.1), tbxUnit_of_turn hturn hfit]

theorem exec_allocRetry_cons {w : Waiter} {r : List Waiter} {s : State} (hretry : s.tbx.retry = w :: r)
    (hturn : portTurn s w.port = true) :
    exec .allocRetry s = .next (tbxAllocOp w (tbxGrant w.port { s with tbx := { s.tbx with retry := r } })) := by
  show Host.Outcome.next (allocRetryRow s) = _
  rw [allocRetryRow, hretry]
  exact congrArg _ (if_pos hturn)

/-- A slice's ALLOC in its turn is the pipeline's ALLOC for a request that ends on the slice's port. -/
theorem exec_alloc_slice_request {t : Tid} {y : Slot} {s : State} (hturn : sliceTurn s t = true) (hhead : HeadIs t 7 1 y s)
    (hfits : descFits y.desc 0xF 0 0 0 = true) : ∃ w v, exec (.tbxAlloc (.slice t)) s = .next (tbxAllocOp w v)
      ∧ w = ⟨2, 4 + t.val, descArg y.desc % 4, descArg y.desc / 4 % 4, some y.ticket⟩
      ∧ (∀ st x u, tbxAnswer w st x u = finish t 7 y.ticket st x u) ∧ SamePool s v ∧ ∀ c, waitList v.tbx c = waitList s.tbx c :=
  ⟨_, _, exec_alloc_slice hturn hhead hfits, rfl, tbxAnswer_slice t _ _ _, samePool_sliceTaken t y.ticket s, fun _ => rfl⟩

/-- Settles O26: a request that finds a buffer takes it (`takeBuffer_taken`), any other one waits or ends with its status. -/
theorem allocResult : Obligations.AllocResult := by
  refine ⟨fun t y s c hc hturn hhead hfits hflag => ?_, ?_⟩
  · obtain ⟨w, v, hexec, hw, hanswers, hpool, hlists⟩ := exec_alloc_slice_request hturn hhead hfits
    have hwagent : w.agent = 4 + t.val := by rw [hw]
    have hwcls : w.cls = c := by rw [hw, hc]
    have hwflag : w.flag = descArg y.desc / 4 % 4 := by rw [hw]
    rw [← hc] at hw
    rw [hexec, ← hw]
    rw [← hwflag] at hflag ⊢
    have hcls : w.cls ≤ 3 := by omega
    simp only [← classHas_congr hpool, ← fld_of_regs hpool.1, ← bufStored_congr hpool, ← hlists, OtherBuffers]
    clear hexec hpool hlists hhead hfits hturn
    rw [← hwagent, ← hwcls]
    refine ⟨fun hen hroom => ?_, fun hen => ⟨fun hhas => ?_, fun hnone hfail => ?_, fun hnone hwait hroom => ?_,
      fun hnone hzero hno => ?_, fun d hnone hzero hlt hd hhas hfirst => ?_⟩⟩
    · rw [tbxAllocOp_of_disabled hflag hcls hen, joinWait_of_room hroom]
      refine ⟨_, rfl, fun id => ?_, waitList_setWaitList_self _ _ _⟩
      exact bufStored_of_recs (setWaitList_recs _ _ _) id
    · obtain ⟨u, id, htaken⟩ := tbxAllocOp_taken hflag hcls hen hhas
      obtain ⟨g, hanswer, hspec⟩ := htaken.spec
      exact ⟨u, id, g, congrArg _ (hanswer.trans (hanswers _ _ _)), hspec⟩
    · rw [tbxAllocOp_of_fail hcls hen hnone hfail, hanswers]
      exact ⟨_, rfl, fun _ => rfl⟩
    · rw [tbxAllocOp_of_wait hcls hen hnone hwait, joinWait_of_room hroom]
      refine ⟨_, rfl, fun id => ?_, ?_⟩
      · exact bufStored_of_recs (setWaitList_recs _ _ _) id
      · rw [waitList_setWaitList_self, hw, ← hwflag, hwait]
    · rw [tbxAllocOp_of_no_larger hcls hen hnone hzero hno, hanswers]
      exact ⟨_, rfl, fun _ => rfl⟩
    · rw [tbxAllocOp_of_larger hcls hen hnone hzero hlt hd hhas hfirst]
      obtain ⟨u, id, htaken⟩ := takeBuffer_taken w d (bumpFld (Reg.tbxFbcnt w.cls) Fld.tbxFbcntFallback v)
      obtain ⟨g, hanswer, hg, hst, hgen, hrefs, hhold, -, -, hothers⟩ := htaken.spec
      refine ⟨u, id, g, congrArg _ (hanswer.trans (hanswers _ _ _)), hg, hst, hgen, hrefs, hhold, hothers, ?_⟩
      rw [fld_of_regs htaken.regs, fld_bumpFld_self (by decide)]
  · intro w r p cls flag agent c s hrow hturn hen hflag hcls hhas
    obtain ⟨v, hexec, hpool, hretry⟩ : ∃ v, exec c s = .next (tbxAllocOp w v) ∧ SamePool s v ∧ v.tbx.retry = r := by
      rcases hrow with ⟨rfl, rfl, hfit, hp, hr⟩ | ⟨rfl, hr⟩
      · exact ⟨_, exec_alloc_unit s hturn hfit hp, samePool_tbxGrant _ s, hr⟩
      · exact ⟨_, exec_allocRetry_cons hr hturn, ⟨rfl, rfl, rfl⟩, rfl⟩
    obtain ⟨u, id, htaken⟩ := tbxAllocOp_taken (w := w) (s := v) hflag (by omega) ((fld_of_regs hpool.1 _ _).trans hen)
      ((classHas_congr hpool _ _).trans hhas)
    obtain ⟨g, hanswer, hg, hst, hgen, hrefs, hhold, -, -, hothers⟩ := htaken.spec
    refine ⟨u, id, g, ?_, htaken.retry.trans hretry, hg, hst, hgen, hrefs, hhold, fun j hj => ?_⟩
    · rw [hexec, hanswer]
    · exact (hothers j hj).trans (bufStored_congr hpool j)

end Sys2Proof.Machine
end

section
/-! References of Toybox (R187-R189, R192): the sum of a record's HOLD after one is taken away, what a dropped reference makes of the
record, and with that the statement on ADDREF and RELEASE. -/
namespace Sys2Proof.Machine
open Sys2Proof.Safety

/-! ### The sum of HOLD -/

/-- The sum of the values of cells. -/
def cellSum (l : List (Nat × Nat)) : Nat := (l.map (fun c => c.2)).sum

theorem bufRefs_eq_cellSum (r : BufRec) : bufRefs r = cellSum r.hold.cells := List.sum_eq_foldl.symm

theorem cellSum_cons (c : Nat × Nat) (l : List (Nat × Nat)) : cellSum (c :: l) = c.2 + cellSum l := by
  simp [cellSum]

theorem cellSum_insert (k v : Nat) (l : List (Nat × Nat)) : cellSum (cellInsert k v l) = v + cellSum l := by
  induction l with
  | nil => rfl
  | cons c r ih =>
    rw [cellInsert]
    split
    · rw [cellSum_cons]
    · rw [cellSum_cons, cellSum_cons, ih]
      omega

theorem cellErase_of_above {α : Type} {k : Nat} {l : List (Nat × α)} (h : cellsAbove k l) : cellErase k l = l := by
  induction l with
  | nil => rfl
  | cons c r ih =>
    have hc := h c List.mem_cons_self
    rw [cellErase, if_neg (Nat.ne_of_gt hc), ih fun d hd => h d (List.mem_cons_of_mem _ hd)]

/-- Rising keys occur once: erasing a key takes its value from the sum. -/
theorem cellSum_erase {l : List (Nat × Nat)} (h : cellsRise l = true) (k : Nat) :
    cellSum (cellErase k l) + (cellFind k l).getD 0 = cellSum l := by
  induction l with
  | nil => rfl
  | cons c r ih =>
    obtain ⟨habove, hrise⟩ := (cellsRise_cons c.1 c.2 r).mp h
    rw [cellErase, cellFind, cellSum_cons]
    split
    · next heq =>
      rw [cellErase_of_above (heq ▸ habove), Option.getD_some]
      omega
    · have := ih hrise
      rw [cellSum_cons]
      omega

theorem cellSum_set {m : SMap Nat} (h : m.wf 0 = true) (k v : Nat) : cellSum (m.set 0 k v).cells + m.get 0 k = cellSum m.cells + v := by
  have herase := cellSum_erase ((SMap.wf_iff m 0).mp h).1 k
  unfold SMap.set SMap.get
  split
  · next hv =>
    dsimp only
    omega
  · rw [cellSum_insert]
    omega

/-! ### A dropped reference (R188, R194, R195) -/

/-- HOLD of an agent one down. -/
def lessHold (agent : Nat) (r : BufRec) : BufRec := { r with hold := r.hold.set 0 agent (bufHold r agent - 1) }

theorem bufHold_lessHold (agent : Nat) (r : BufRec) (j : Nat) :
    bufHold (lessHold agent r) j = bufHold r j - if j = agent then 1 else 0 := by
  rw [bufHold, lessHold, SMap.get_set]
  split
  · next h => rw [h]
  · rfl

theorem bufRefs_lessHold {agent : Nat} {r : BufRec} (hwf : r.hold.wf 0 = true) (hpos : 0 < bufHold r agent) :
    bufRefs (lessHold agent r) + 1 = bufRefs r := by
  have hsum := cellSum_set hwf agent (bufHold r agent - 1)
  have hget : r.hold.get 0 agent = bufHold r agent := rfl
  rw [bufRefs_eq_cellSum, bufRefs_eq_cellSum]
  show cellSum (r.hold.set 0 agent (bufHold r agent - 1)).cells + 1 = _
  omega

/-- The record that dropRef stores. -/
def droppedRec (agent : Nat) (retired : Bool) (r : BufRec) : BufRec :=
  if bufRefs (lessHold agent r) = 0 then
    if r.st = .quarantined ∨ r.retiring ∨ retired then { lessHold agent r with st := .quarantined, retiring := false }
    else { lessHold agent r with st := .free, gen := nextGen r.gen, owner := 0 }
  else lessHold agent r

theorem dropRef_eq (agent id : Nat) (s : State) :
    dropRef agent id s = setBuf id (droppedRec agent (groupRetired s (id / 2 ^ 20)) (bufStored s id)) s := by
  unfold dropRef droppedRec
  rw [apply_ite (fun r => setBuf id r s), apply_ite (fun r => setBuf id r s)]
  rfl

theorem droppedRec_hold (agent : Nat) (retired : Bool) (r : BufRec) : (droppedRec agent retired r).hold = (lessHold agent r).hold := by
  unfold droppedRec
  split
  · split <;> rfl
  · rfl

theorem bufHold_droppedRec (agent : Nat) (retired : Bool) (r : BufRec) (j : Nat) :
    bufHold (droppedRec agent retired r) j = bufHold r j - if j = agent then 1 else 0 := by
  rw [← bufHold_lessHold, bufHold, droppedRec_hold, bufHold]

section Drop
variable {agent : Nat} {retired : Bool} {r : BufRec} (hwf : r.hold.wf 0 = true) (hpos : 0 < bufHold r agent)
include hwf hpos

theorem droppedRec_of_more (h : 1 < bufRefs r) : droppedRec agent retired r = lessHold agent r := by
  have := bufRefs_lessHold hwf hpos
  rw [droppedRec, if_neg (by omega)]

theorem droppedRec_of_quarantine (h : bufRefs r = 1) (hq : r.st = .quarantined ∨ r.retiring = true) :
    (droppedRec agent retired r).st = .quarantined := by
  have := bufRefs_lessHold hwf hpos
  rw [droppedRec, if_pos (by omega), if_pos (by tauto)]

theorem droppedRec_of_last (h : bufRefs r = 1) (hst : r.st = .allocated) (hr : r.retiring = false) (hg : retired = false) :
    droppedRec agent retired r = { lessHold agent r with st := .free, gen := nextGen r.gen, owner := 0 } := by
  have := bufRefs_lessHold hwf hpos
  rw [droppedRec, if_pos (by omega), if_neg (by simp [hst, hr, hg])]

end Drop

theorem nextGen_eq (g : BitVec 8) : nextGen g = if g = 255 then 1 else g + 1 := rfl

/-! ### The two operations on a token -/

theorem bufRec_gen (s : State) (id : Nat) : (bufRec s id).gen = (bufStored s id).gen := by
  unfold bufRec
  dsimp only
  split <;> rfl

theorem bufRec_hold (s : State) (id : Nat) : (bufRec s id).hold = (bufStored s id).hold := by
  unfold bufRec
  dsimp only
  split <;> rfl

theorem bufHold_bufRec (s : State) (id j : Nat) : bufHold (bufRec s id) j = bufHold (bufStored s id) j := by
  rw [bufHold, bufRec_hold, bufHold]

@[simp] theorem bufStored_tbxError (f : Fld) (agent : Nat) (tok : W32) (s : State) (id : Nat) :
    bufStored (tbxError f agent tok s) id = bufStored s id := bufStored_of_recs (by rw [tbxError_tbx]) id

section Token
variable {w : Waiter} {tok : W32} {s : State}

theorem current_congr {u : State} (h : SamePool s u) : Current u tok ↔ Current s tok := by
  simp only [Current, classOf_congr h, bufRec_congr h]

theorem not_current_iff {c : Nat} (hc : classOf s (tokId tok) = some c) :
    ¬Current s tok ↔ (bufRec s (tokId tok)).st = .free ∨ (bufRec s (tokId tok)).gen ≠ tokGen tok := by
  simp only [Current, hc, Option.isSome_some, true_and, not_and_or, not_not, ne_eq]

theorem tbxAddrefOp_of_invalid (hc : (classOf s (tokId tok)).isNone) :
    tbxAddrefOp w tok s = tbxAnswer w 0x01 0 (tbxError Fld.tbxErrInvalid w.agent tok s) := by
  rw [tbxAddrefOp, Option.isNone_iff_eq_none.mp hc]

theorem tbxReleaseOp_of_invalid (hc : (classOf s (tokId tok)).isNone) :
    tbxReleaseOp w tok s = tbxAnswer w 0x01 0 (tbxError Fld.tbxErrInvalid w.agent tok s) := by
  rw [tbxReleaseOp, Option.isNone_iff_eq_none.mp hc]

theorem tbxAddrefOp_of_stale (hsome : (classOf s (tokId tok)).isSome) (h : ¬Current s tok) :
    tbxAddrefOp w tok s = tbxAnswer w 0x1A 0 (tbxError Fld.tbxErrStale w.agent tok s) := by
  obtain ⟨c, hc⟩ := Option.isSome_iff_exists.mp hsome
  rw [tbxAddrefOp, hc]
  exact if_pos ((not_current_iff hc).mp h)

theorem tbxReleaseOp_of_stale (hsome : (classOf s (tokId tok)).isSome) (h : ¬Current s tok) :
    tbxReleaseOp w tok s = tbxAnswer w 0x18 0 (tbxError Fld.tbxErrDoubleFree w.agent tok s) := by
  obtain ⟨c, hc⟩ := Option.isSome_iff_exists.mp hsome
  rw [tbxReleaseOp, hc]
  exact if_pos ((not_current_iff hc).mp h)

/-- HOLD of an agent one up. -/
def moreHold (agent : Nat) (r : BufRec) : BufRec := { r with hold := r.hold.set 0 agent (bufHold r agent + 1) }

theorem bufHold_moreHold (agent : Nat) (r : BufRec) (j : Nat) :
    bufHold (moreHold agent r) j = bufHold r j + if j = agent then 1 else 0 := by
  rw [bufHold, moreHold, SMap.get_set]
  split
  · next h => rw [h]
  · rfl

variable (h : Current s tok)
include h

theorem class_of_current : ∃ c, classOf s (tokId tok) = some c := Option.isSome_iff_exists.mp h.1

theorem tbxAddrefOp_of_overflow (hmany : 255 ≤ bufHold (bufStored s (tokId tok)) w.agent) :
    tbxAddrefOp w tok s = tbxAnswer w 0x1B 0 (tbxError Fld.tbxErrOverflow w.agent tok s) := by
  obtain ⟨c, hc⟩ := class_of_current h
  rw [tbxAddrefOp, hc]
  dsimp only
  rw [if_neg (fun hn => (not_current_iff hc).mpr hn h), bufHold_bufRec, if_pos hmany]

theorem tbxAddrefOp_of_room (hroom : bufHold (bufStored s (tokId tok)) w.agent < 255) :
    tbxAddrefOp w tok s = tbxAnswer w 0x00 0 (setBuf (tokId tok) (moreHold w.agent (bufStored s (tokId tok))) s) := by
  obtain ⟨c, hc⟩ := class_of_current h
  rw [tbxAddrefOp, hc]
  dsimp only
  rw [if_neg (fun hn => (not_current_iff hc).mpr hn h), bufHold_bufRec, if_neg (by omega)]
  rfl

theorem tbxReleaseOp_of_not_holder (hnone : bufHold (bufStored s (tokId tok)) w.agent = 0) :
    tbxReleaseOp w tok s = tbxAnswer w 0x19 0 (tbxError Fld.tbxErrNotHolder w.agent tok s) := by
  obtain ⟨c, hc⟩ := class_of_current h
  rw [tbxReleaseOp, hc]
  dsimp only
  rw [if_neg (fun hn => (not_current_iff hc).mpr hn h), bufHold_bufRec, if_pos hnone]

/-- The state after a RELEASE has dropped its reference and been answered. -/
def releasedState (w : Waiter) (tok : W32) (s : State) : State := tbxAnswer w 0x00 0 (dropRef w.agent (tokId tok) s)

theorem tbxReleaseOp_of_holder {c : Nat} (hc : classOf s (tokId tok) = some c) (hpos : 0 < bufHold (bufStored s (tokId tok)) w.agent) :
    tbxReleaseOp w tok s = serveWaiters c (handOver c (tokId tok) (releasedState w tok s)) := by
  rw [tbxReleaseOp, hc]
  dsimp only
  rw [if_neg (fun hn => (not_current_iff hc).mpr hn h), bufHold_bufRec, if_neg (by omega)]
  rfl

end Token

/-! ### Who a freed buffer goes to (R192) -/

theorem handOver_of_none {c id : Nat} {s : State} (h : waitList s.tbx c = []) : handOver c id s = s := by
  rw [handOver, h]
  exact ite_self s

/-- Class 3 apart, the oldest waiter gets the buffer. -/
theorem handOver_of_one {c id : Nat} {s : State} {w : Waiter} (h : waitList s.tbx c = [w]) (hc : c ≠ 3)
    (hfree : (bufRec s id).st = .free) (hen : fld s Reg.tbxCtrl Fld.tbxCtrlEn = 1) :
    handOver c id s = giveBuffer w id { s with tbx := setWaitList c [] s.tbx } := by
  have hfind : [w].find? (fun w => !(c == 3 && atQuota s w.agent)) = some w := by simp [hc]
  rw [handOver, if_pos ⟨hfree, hen⟩, h, hfind]
  dsimp only
  rw [List.erase_cons_head]

section Released
variable (w : Waiter) (tok : W32) (s : State)

theorem dropRef_tbx_waitList (agent id c : Nat) : waitList (dropRef agent id s).tbx c = waitList s.tbx c := by
  rw [dropRef_eq]
  rfl

@[simp] theorem waitList_releasedState (c : Nat) : waitList (releasedState w tok s).tbx c = waitList s.tbx c := by
  rw [releasedState, waitList_tbxAnswer, dropRef_tbx_waitList]

theorem bufStored_releasedState : bufStored (releasedState w tok s) (tokId tok)
    = droppedRec w.agent (groupRetired s (tokId tok / 2 ^ 20)) (bufStored s (tokId tok)) := by
  rw [releasedState, bufStored_tbxAnswer, dropRef_eq, bufStored_setBuf_self]

theorem otherBuffers_releasedState : OtherBuffers (tokId tok) s (releasedState w tok s) := by
  intro j hj
  rw [releasedState, bufStored_tbxAnswer, dropRef_eq, bufStored_setBuf_ne hj]

/-- An answer OK logs nothing. -/
theorem samePool_tbxAnswer_ok (v : W32) : SamePool s (tbxAnswer w 0x00 v s) := by
  unfold tbxAnswer
  split
  · exact ⟨rfl, rfl, rfl⟩
  · exact ⟨rfl, rfl, rfl⟩

theorem regs_releasedState : (releasedState w tok s).regs = s.regs := by
  rw [releasedState, (samePool_tbxAnswer_ok w _ 0).1, dropRef_eq]
  rfl

end Released

/-! ### The rows -/

theorem exec_tbxAddref (r : TokReq) (s : State) : exec (.tbxAddref r) s = .next (tokRow 2 tbxAddrefOp r s) := rfl

/-- A slice's ADDREF or RELEASE in its turn is the pipeline's operation for a request that ends on the slice's port. -/
theorem tokRow_slice_request {t : Tid} {y : Slot} {s : State} (hturn : sliceTurn s t = true)
    (hfits : descFits y.desc 0xFFFFFFFF 0 0 0 = true) : ∃ w v, (∀ op f, HeadIs t 7 op y s →
        tokRow op f (.slice t) s = f w (y.desc.extractLsb' 32 32) v)
      ∧ w.agent = 4 + t.val ∧ (∀ st x u, tbxAnswer w st x u = finish t 7 y.ticket st x u) ∧ SamePool s v
      ∧ (∀ c, waitList v.tbx c = waitList s.tbx c) ∧ tpOf v t = tpOf (takeDesc t 7 y.ticket s) t :=
  ⟨_, _, fun _ f hhead => tokRow_slice hturn f hhead hfits, rfl, tbxAnswer_slice t _ _ _, samePool_sliceTaken t y.ticket s,
    fun _ => rfl, rfl⟩

theorem tokRow_unit {op : Nat} {f : Waiter → W32 → State → State} {p : BitVec 2} {agent : BitVec 4} {tok : W32} {s : State}
    (hturn : portTurn s p.toNat = true) (hfit : agentFits p.toNat agent.toNat = true) (hp : p ≠ 2) :
    tokRow op f (.unit p agent tok) s = f ⟨p.toNat, agent.toNat, 0, 0, none⟩ tok (tbxGrant p.toNat s) := by
  rw [tokRow, if_neg (fun h => hp h.1), tbxUnit_of_turn hturn hfit]

/-! ### ADDREF and RELEASE -/

section Operations
variable {w : Waiter} {tok : W32} {s : State}

theorem addref_counts (h : Current s tok) (hroom : bufHold (bufStored s (tokId tok)) w.agent < 255) :
    ∃ u, tbxAddrefOp w tok s = tbxAnswer w 0x00 0 u
      ∧ (∀ j, bufHold (bufStored u (tokId tok)) j = bufHold (bufStored s (tokId tok)) j + if j = w.agent then 1 else 0)
      ∧ (bufStored u (tokId tok)).gen = (bufStored s (tokId tok)).gen ∧ (bufStored u (tokId tok)).st = (bufStored s (tokId tok)).st
      ∧ OtherBuffers (tokId tok) s u := by
  refine ⟨_, tbxAddrefOp_of_room h hroom, ?_, ?_, ?_, otherBuffers_setBuf _ _ _⟩ <;> rw [bufStored_setBuf_self]
  · exact bufHold_moreHold _ _
  · rfl
  · rfl

/-- A RELEASE by a holder, where nobody waits for the class. -/
theorem tbxReleaseOp_of_no_waiter (h : Current s tok) {c : Nat} (hc : classOf s (tokId tok) = some c)
    (hpos : 0 < bufHold (bufStored s (tokId tok)) w.agent) (hlist : waitList s.tbx c = []) :
    tbxReleaseOp w tok s = releasedState w tok s := by
  have hnone : waitList (releasedState w tok s).tbx c = [] := by rw [waitList_releasedState, hlist]
  rw [tbxReleaseOp_of_holder h hc hpos, handOver_of_none hnone, serveWaiters_of_none hnone]

/-- The last reference of a buffer that one waits for: the waiter gets it, at once. -/
theorem tbxReleaseOp_of_one_waiter (h : Current s tok) {c : Nat} (hc : classOf s (tokId tok) = some c) (h3 : c ≠ 3) {x : Waiter}
    (hlist : waitList s.tbx c = [x]) (hpos : 0 < bufHold (bufStored s (tokId tok)) w.agent)
    (hwf : (bufStored s (tokId tok)).hold.wf 0 = true) (hlast : bufRefs (bufStored s (tokId tok)) = 1)
    (hst : (bufStored s (tokId tok)).st = .allocated) (hretiring : (bufStored s (tokId tok)).retiring = false)
    (hgroup : groupRetired s (tokId tok / 2 ^ 20) = false) (hen : fld s Reg.tbxCtrl Fld.tbxCtrlEn = 1) :
    waitList (tbxReleaseOp w tok s).tbx c = []
      ∧ bufStored (tbxReleaseOp w tok s) (tokId tok)
        = givenRec x.agent { lessHold w.agent (bufStored s (tokId tok)) with
            st := .free, gen := nextGen (bufStored s (tokId tok)).gen, owner := 0 }
      ∧ OtherBuffers (tokId tok) s (tbxReleaseOp w tok s) := by
  have hstored := (bufStored_releasedState w tok s).trans (droppedRec_of_last hwf hpos hlast hst hretiring hgroup)
  have hregs := regs_releasedState w tok s
  have hfree : (bufRec (releasedState w tok s) (tokId tok)).st = .free := by
    rw [bufRec, groupRetired, reg_of_regs hregs, ← groupRetired, hgroup, hstored]
    rfl
  have hhand := handOver_of_one (w := x) (id := tokId tok) ((waitList_releasedState w tok s c).trans hlist) h3 hfree
    ((fld_of_regs hregs _ _).trans hen)
  have hlists : waitList (handOver c (tokId tok) (releasedState w tok s)).tbx c = [] := by
    rw [hhand, giveBuffer_eq, waitList_tbxAnswer]
    exact waitList_setWaitList_self _ _ _
  have hbufs (j : Nat) : bufStored { releasedState w tok s with tbx := setWaitList c [] (releasedState w tok s).tbx } j
      = bufStored (releasedState w tok s) j := bufStored_of_recs (setWaitList_recs _ _ _) j
  rw [tbxReleaseOp_of_holder h hc hpos, serveWaiters_of_none hlists]
  refine ⟨hlists, ?_, fun j hj => ?_⟩ <;> rw [hhand, giveBuffer_eq, bufStored_tbxAnswer]
  · rw [bufStored_setBuf_self, hbufs, hstored]
  · rw [bufStored_setBuf_ne hj, hbufs, otherBuffers_releasedState w tok s j hj]

end Operations

/-- The generation of a freed buffer once it is given again. -/
theorem givenRec_nextGen (agent : Nat) (r : BufRec) (g : BitVec 8) (h : r.gen = nextGen g) :
    (givenRec agent r).gen = if g = 255 then 1 else if g = 0 then 1 else g + 1 := by
  have hne : nextGen g ≠ 0 := by
    unfold nextGen
    split <;> bv_omega
  have hgen : (givenRec agent r).gen = nextGen g := (if_neg (h ▸ hne)).trans h
  rw [hgen, nextGen]
  split
  · rfl
  · split
    · next h0 => rw [h0]; rfl
    · rfl

/-- A slice's RELEASE by a holder, where nobody waits, ends the descriptor on the port as `finish` does. -/
theorem port_releasedState {t : Tid} {k : BitVec 16} {w : Waiter} {tok : W32} {s v : State}
    (hanswers : ∀ st x u, tbxAnswer w st x u = finish t 7 k st x u) (htp : tpOf v t = tpOf (takeDesc t 7 k s) t) :
    portOf (tpOf (releasedState w tok v) t) 7 = portOf (tpOf (finish t 7 k 0x00 0 (takeDesc t 7 k s)) t) 7 := by
  rw [releasedState, hanswers, dropRef_eq, finish, finish, tpOf_modTp, tpOf_modTp, ← htp]
  rfl

/-- Settles O28: the outcomes of the two operations, for a slice's request and a unit's. -/
theorem referenceResult : Obligations.ReferenceResult := by
  refine ⟨fun t y s tok a htok ha hturn hfits => ?_, fun p agent tok s hfit hp hturn hcur => ?_⟩
  · obtain ⟨w, v, hrow, hagent, hanswers, hpool, hlists, htp⟩ := tokRow_slice_request hturn hfits
    rw [← htok] at hrow
    rw [← ha] at hagent
    have hadd (h : HeadIs t 7 2 y s) : exec (.tbxAddref (.slice t)) s = .next (tbxAddrefOp w tok v) := congrArg _ (hrow 2 _ h)
    have hrelease (h : HeadIs t 7 3 y s) : exec (.tbxRelease (.slice t)) s = .next (tbxReleaseOp w tok v) := congrArg _ (hrow 3 _ h)
    simp only [← classOf_congr hpool, ← current_congr hpool, ← fld_of_regs hpool.1, ← bufStored_congr hpool, ← hlists,
      ← groupRetired_congr hpool, OtherBuffers, ← hagent]
    refine ⟨fun hhead hcur hroom => ?_, fun hhead hsome hcur => ?_, fun hhead hcur hmany => ?_, fun hnone => ?_,
      fun hhead hsome hcur => ?_, fun hhead hcur hhold => ?_, fun c hhead hcur hpos hc hlist hwf => ?_,
      fun c x hhead hcur hpos hc hlist h3 hwf hlast hst hretiring hgroup hen => ?_⟩
    · obtain ⟨u, hop, hspec⟩ := addref_counts hcur hroom
      exact ⟨u, by rw [hadd hhead, hop, hanswers], hspec⟩
    · exact ⟨_, by rw [hadd hhead, tbxAddrefOp_of_stale hsome hcur, hanswers], bufStored_tbxError _ _ _ _⟩
    · exact ⟨_, by rw [hadd hhead, tbxAddrefOp_of_overflow hcur hmany, hanswers], bufStored_tbxError _ _ _ _⟩
    · refine ⟨_, bufStored_tbxError Fld.tbxErrInvalid w.agent tok v, fun hhead => ?_, fun hhead => ?_⟩
      · rw [hadd hhead, tbxAddrefOp_of_invalid hnone, hanswers]
      · rw [hrelease hhead, tbxReleaseOp_of_invalid hnone, hanswers]
    · exact ⟨_, by rw [hrelease hhead, tbxReleaseOp_of_stale hsome hcur, hanswers], bufStored_tbxError _ _ _ _⟩
    · exact ⟨_, by rw [hrelease hhead, tbxReleaseOp_of_not_holder hcur hhold, hanswers], bufStored_tbxError _ _ _ _⟩
    · rw [hrelease hhead, tbxReleaseOp_of_no_waiter hcur hc hpos hlist]
      refine ⟨_, rfl, otherBuffers_releasedState w tok v, port_releasedState hanswers htp, ?_⟩
      rw [bufStored_releasedState]
      refine ⟨bufHold_droppedRec _ _ _, fun hmore => ?_, fun hlast hst hretiring hgroup => ?_, fun hlast hq => ?_⟩
      · rw [droppedRec_of_more hwf hpos hmore]
        exact ⟨rfl, rfl⟩
      · rw [droppedRec_of_last hwf hpos hlast hst hretiring hgroup]
        exact ⟨rfl, rfl⟩
      · exact droppedRec_of_quarantine hwf hpos hlast hq
    · rw [hrelease hhead]
      obtain ⟨hnone, hstored, hothers⟩ := tbxReleaseOp_of_one_waiter hcur hc h3 hlist hpos hwf hlast hst hretiring hgroup hen
      refine ⟨_, rfl, hnone, ?_, ?_, ?_, hothers⟩ <;> rw [hstored]
      · rfl
      · exact bufHold_givenRec _ _
      · exact givenRec_nextGen _ _ _ rfl
  · have hpool := samePool_tbxGrant p.toNat s
    have hadd : exec (.tbxAddref (.unit p agent tok)) s = .next (tbxAddrefOp _ tok _) := congrArg _ (tokRow_unit hturn hfit hp)
    have hrelease : exec (.tbxRelease (.unit p agent tok)) s = .next (tbxReleaseOp _ tok _) := congrArg _ (tokRow_unit hturn hfit hp)
    have hcur' := (current_congr hpool).mpr hcur
    refine ⟨fun hroom => ?_, fun hpos hmore hwf c hc hlist => ?_⟩
    · obtain ⟨u, hop, hspec⟩ := addref_counts (w := ⟨p.toNat, agent.toNat, 0, 0, none⟩) hcur' hroom
      exact ⟨u, by rw [hadd, hop], hspec⟩
    · rw [hrelease, tbxReleaseOp_of_no_waiter (w := ⟨p.toNat, agent.toNat, 0, 0, none⟩) hcur' ((classOf_congr hpool _).trans hc) hpos hlist]
      refine ⟨_, rfl, otherBuffers_releasedState _ tok (tbxGrant p.toNat s), ?_⟩
      rw [bufStored_releasedState]
      refine ⟨bufHold_droppedRec _ _ _, ?_⟩
      have hmoreRec := droppedRec_of_more (retired := groupRetired s (tokId tok / 2 ^ 20)) hwf hpos hmore
      exact ⟨(congrArg BufRec.st hmoreRec).trans rfl, (congrArg BufRec.gen hmoreRec).trans rfl⟩

end Sys2Proof.Machine
end

section
/-! Supervision of the buffer pool (R187, R188, R192, R194, R195): what quarantine, restoration, the retirement of a group and the
clearing of wait lists make of the records, the lists and the registers. -/
namespace Sys2Proof.Machine
open Sys2Proof.Safety

/-! ### A status bit raised -/

theorem reg_raiseFld {f : Fld} (hw : f.w = 1) (off : Nat) (s : State) :
    reg (raiseFld off f s) off = reg s off ||| BitVec.ofNat 32 (2 ^ f.lo) := by
  rw [raiseFld, setFld, reg_setReg]
  apply BitVec.eq_of_getLsbD_eq
  intro i hi
  rw [BitVec.getLsbD_ofNat, BitVec.getLsbD_or, BitVec.getLsbD_ofNat, testBit_putField, Nat.testBit_two_pow, hw]
  by_cases h : f.lo = i
  · subst h
    simp [hi]
  · rw [if_neg (by omega), ← BitVec.getLsbD]
    simp [h, hi]

theorem reg_raiseFld_ne {a b : Nat} (h : b ≠ a) (f : Fld) (s : State) : reg (raiseFld a f s) b = reg s b := reg_setFld_ne h f 1 s

/-! ### Operations of agent 3 -/

theorem agent3_of_turn {tok : W32} {f : State → State} {s : State} (hturn : portTurn s 3 = true) :
    agent3 3 tok f s = f (tbxGrant 3 s) := by
  rw [agent3, if_pos hturn]
  rfl

theorem bufStored_agent3_of_ne {agent : Nat} (h : agent ≠ 3) (tok : W32) (f : State → State) (s : State) (j : Nat) :
    bufStored (agent3 agent tok f s) j = bufStored s j := by
  simp only [agent3, h, if_false]
  split
  · rw [bufStored_tbxAnswer, bufStored_tbxError]
    rfl
  · rfl

@[simp] theorem bufStored_answer3 (st : BitVec 8) (s : State) (j : Nat) : bufStored (answer3 st s) j = bufStored s j :=
  bufStored_tbxAnswer _ _ _ _ _

theorem samePool_answer3_ok (s : State) : SamePool s (answer3 0x00 s) := samePool_tbxAnswer_ok _ _ _

/-! ### RESTORE -/

/-- The record of a restored buffer. -/
def restoredRec (r : BufRec) : BufRec := { r with st := .free, gen := nextGen r.gen, owner := 0, retiring := false }

/-- What RESTORE of a buffer leaves before it looks for a waiter: its bytes are zero, and its record is stored again. -/
def restoredState (id c : Nat) (s : State) : State :=
  setBuf id (restoredRec (bufStored s id)) (cleanLines (bufAddr s id) (classSize c)
    { s with mem := { s.mem with hbm := s.mem.hbm.clear (bufAddr s id) (classSize c) } })

theorem restoreBuf_of_no_waiter {id c : Nat} {s : State} (h : waitList s.tbx c = []) : restoreBuf id c s = restoredState id c s := by
  have hnone : waitList (restoredState id c s).tbx c = [] := h
  show serveWaiters c (handOver c id (restoredState id c s)) = _
  rw [handOver_of_none hnone, serveWaiters_of_none hnone]

theorem bufStored_restoredState_self (id c : Nat) (s : State) : bufStored (restoredState id c s) id = restoredRec (bufStored s id) :=
  bufStored_setBuf_self _ _ _

theorem otherBuffers_restoredState (id c : Nat) (s : State) : OtherBuffers id s (restoredState id c s) :=
  fun _ hj => bufStored_setBuf_ne hj _ _

theorem hbm_restoredState (id c k : Nat) (s : State) (h1 : bufAddr s id ≤ k) (h2 : k < bufAddr s id + classSize c) :
    (restoredState id c s).mem.hbm.get 0 k = 0 := by
  show (s.mem.hbm.clear (bufAddr s id) (classSize c)).get 0 k = 0
  rw [SMap.get_clear, if_pos ⟨h1, h2⟩]

/-! ### RETIREGRP -/

/-- RETIRING set on a record with references in group g. -/
def markRetiring (g id : Nat) (r : BufRec) : BufRec := if id / 2 ^ 20 = g ∧ 0 < bufRefs r then { r with retiring := true } else r

theorem cellFind_map {α β : Type} (f : Nat → α → β) (k : Nat) (l : List (Nat × α)) :
    cellFind k (l.map (fun x => (x.1, f x.1 x.2))) = (cellFind k l).map (f k) := by
  induction l with
  | nil => rfl
  | cons c r ih =>
    rw [List.map_cons, cellFind, cellFind]
    split
    · next h => rw [h]; rfl
    · exact ih

theorem get_markRetiring (g j : Nat) (m : SMap BufRec) :
    (SMap.mk (m.cells.map (fun x => (x.1, markRetiring g x.1 x.2)))).get BufRec.reset j = markRetiring g j (m.get BufRec.reset j) := by
  rw [SMap.get, cellFind_map]
  unfold SMap.get
  cases cellFind j m.cells with
  | none => exact (if_neg (fun h => absurd h.2 (by decide))).symm
  | some r => rfl

theorem markRetiring_cell (g : Nat) (x : Nat × BufRec) :
    (if x.1 / 2 ^ 20 = g ∧ 0 < bufRefs x.2 then (x.1, { x.2 with retiring := true }) else x) = (x.1, markRetiring g x.1 x.2) := by
  unfold markRetiring
  split <;> rfl

theorem markRetiring_hold (g id : Nat) (r : BufRec) : (markRetiring g id r).hold = r.hold := by
  unfold markRetiring
  split <;> rfl

theorem markRetiring_gen (g id : Nat) (r : BufRec) : (markRetiring g id r).gen = r.gen := by
  unfold markRetiring
  split <;> rfl

/-- What RETIREGRP of a group in service does, before the quotas are lowered. -/
def retireMarked (g : Nat) (s : State) : State :=
  let s := setReg Reg.tbxGrpret (reg s Reg.tbxGrpret ||| BitVec.ofNat 32 (2 ^ g)) s
  let s := { s with mem := homeAfter g s.mem }
  let s := setReg Reg.codecCtxbase (BitVec.ofNat 32 ((groupAddr s.mem.home + 0x3000000) / 4096)) s
  { s with tbx := { s.tbx with recs := ⟨s.tbx.recs.cells.map (fun x => (x.1, markRetiring g x.1 x.2))⟩ } }

/-- The quotas are lowered in proportion to the groups that stay (R195). -/
def lowerQuotas (n : Nat) (s : State) : State :=
  forAll allT (fun t => fun s =>
    setFld (Reg.tbxQuota t) Fld.tbxQuotaMax (fld s (Reg.tbxQuota t) Fld.tbxQuotaMax * (n - 1) / n) s) s

theorem retireGroup_of_live {g : Nat} {s : State} (h : groupRetired s g = false) (hg : g < groupCount s) :
    retireGroup g s = lowerQuotas (liveGroups s).length (retireMarked g s) := by
  rw [retireGroup, if_neg (by simp [h]; omega)]
  simp only [markRetiring_cell]
  rfl

theorem bufStored_lowerQuotas (n : Nat) (s : State) (j : Nat) : bufStored (lowerQuotas n s) j = bufStored s j :=
  forAll_keeps (g := fun s => bufStored s j) (fun _ _ => bufStored_of_recs (by rw [setFld_tbx]) j) allT s

theorem reg_lowerQuotas (n : Nat) (s : State) : reg (lowerQuotas n s) Reg.tbxGrpret = reg s Reg.tbxGrpret :=
  forAll_keeps (g := fun s => reg s Reg.tbxGrpret)
    (fun t _ => reg_setFld_ne (by have := t.isLt; simp only [Reg.tbxGrpret, Reg.tbxQuota]; omega) _ _ _) allT s

theorem bufStored_retireMarked (g : Nat) (s : State) (j : Nat) : bufStored (retireMarked g s) j = markRetiring g j (bufStored s j) :=
  get_markRetiring g j s.tbx.recs

theorem reg_retireMarked (g : Nat) (s : State) :
    reg (retireMarked g s) Reg.tbxGrpret = reg s Reg.tbxGrpret ||| BitVec.ofNat 32 (2 ^ g) :=
  (reg_setReg_ne Reg.codecCtxbase Reg.tbxGrpret _ _ (by decide)).trans (reg_setReg Reg.tbxGrpret _ _)

/-! ### Wait lists cleared (R192) -/

theorem waitList_clearWaiters {c d : Nat} (hc : c < 4) (hd : d < 4) (s : State) :
    waitList (clearWaiters c s).tbx d = if d = c then [] else waitList s.tbx d := by
  rw [clearWaiters, forAll_keeps (g := fun s => waitList s.tbx d) (fun _ _ => waitList_tbxAnswer _ _ _ _ _)]
  split
  · next h => rw [h, waitList_setWaitList_self]
  · next h => rw [waitList_setWaitList_ne hc hd h]

theorem bufStored_clearWaiters (c : Nat) (s : State) (j : Nat) : bufStored (clearWaiters c s) j = bufStored s j := by
  rw [clearWaiters, forAll_keeps (g := fun s => bufStored s j) (fun _ _ => bufStored_tbxAnswer _ _ _ _ _)]
  exact bufStored_of_recs (setWaitList_recs _ _ _) j

theorem waitList_forAll_clearWaiters {l : List Nat} (hl : ∀ c ∈ l, c < 4) {d : Nat} (hd : d < 4) (s : State) :
    waitList (forAll l clearWaiters s).tbx d = if d ∈ l then [] else waitList s.tbx d := by
  induction l generalizing s with
  | nil => rfl
  | cons c l ih =>
    obtain ⟨hc, hl⟩ := List.forall_mem_cons.mp hl
    show waitList (forAll l clearWaiters (clearWaiters c s)).tbx d = _
    rw [ih hl, waitList_clearWaiters hc hd]
    by_cases h1 : d = c <;> by_cases h2 : d ∈ l <;> simp [h1, h2]

theorem mem_setBits {w v i : Nat} : i ∈ setBits w v ↔ i < w ∧ bitOf v i = true := by
  simp [setBits]

theorem bufStored_waitclrOp (v : Nat) (s : State) (j : Nat) : bufStored (waitclrOp v s) j = bufStored s j :=
  forAll_keeps (g := fun s => bufStored s j) (fun c s => bufStored_clearWaiters c s j) _ s

theorem waitList_waitclrOp {v d : Nat} (hd : d < 4) (s : State) :
    waitList (waitclrOp v s).tbx d = if bitOf v d then [] else waitList s.tbx d := by
  rw [waitclrOp, waitList_forAll_clearWaiters (fun c hc => (mem_setBits.mp hc).1) hd]
  simp [mem_setBits, hd]

/-! ### The rows of agent 3 -/

section Agent3
variable {s : State} (hturn : portTurn s 3 = true)
include hturn

theorem exec_quarantine {id : BitVec 24} (hclass : (classOf s id.toNat).isSome) :
    exec (.quarantine 3 id) s = .next (answer3 0x00 (quarantineBuf id.toNat (tbxGrant 3 s))) := by
  obtain ⟨c, hc⟩ := Option.isSome_iff_exists.mp hclass
  show Host.Outcome.next (quarantineRow 3 id.toNat s) = _
  rw [quarantineRow, agent3_of_turn hturn, classOf_congr (samePool_tbxGrant 3 s), hc]

theorem exec_restore {id : BitVec 24} {c : Nat} (hc : classOf s id.toNat = some c) (hst : (bufRec s id.toNat).st = .quarantined)
    (hrefs : bufRefs (bufStored s id.toNat) = 0) (hgroup : groupRetired s (id.toNat / 2 ^ 20) = false)
    (hbad : (bufStored s id.toNat).badRec = false) :
    exec (.restore 3 id) s = .next (answer3 0x00 (restoreBuf id.toNat c (tbxGrant 3 s))) := by
  have hrefsRec : bufRefs (bufRec s id.toNat) = 0 := by rw [bufRefs, bufRec_hold, ← bufRefs, hrefs]
  have hbadRec : (bufRec s id.toNat).badRec = false := by
    unfold bufRec
    dsimp only
    split <;> exact hbad
  have hpool := samePool_tbxGrant 3 s
  show Host.Outcome.next (restoreRow 3 id.toNat s) = _
  rw [restoreRow, agent3_of_turn hturn, classOf_congr hpool, hc]
  dsimp only
  rw [bufRec_congr hpool, groupRetired_congr hpool, if_pos ⟨hst, hrefsRec, hgroup, hbadRec⟩]

theorem exec_retiregrp {g : BitVec 4} (hg : g.toNat < groupCount s) :
    exec (.retiregrp 3 g) s = .next (answer3 0x00 (retireGroup g.toNat (tbxGrant 3 s))) := by
  show Host.Outcome.next (retiregrpRow 3 g.toNat s) = _
  rw [retiregrpRow, agent3_of_turn hturn, groupCount_congr (samePool_tbxGrant 3 s), if_pos hg]

end Agent3

theorem bufStored_retireGroup (g : Nat) (s : State) (j : Nat) :
    bufStored (retireGroup g s) j = bufStored s j ∨ bufStored (retireGroup g s) j = markRetiring g j (bufStored s j) := by
  by_cases h : groupRetired s g = true ∨ groupCount s ≤ g
  · exact Or.inl (by rw [retireGroup, if_pos h])
  · rw [not_or, Bool.not_eq_true, not_le] at h
    exact Or.inr (by rw [retireGroup_of_live h.1 h.2, bufStored_lowerQuotas, bufStored_retireMarked])

/-- RETIREGRP of an existing group sets its bit of TBX_GRPRET and no other. -/
theorem groupRetired_retireGroup {g : Nat} {s : State} (hg : g < groupCount s) (n : Nat) :
    groupRetired (retireGroup g s) n = (groupRetired s n || decide (n = g)) := by
  by_cases h : groupRetired s g = true
  · rw [retireGroup, if_pos (Or.inl h)]
    by_cases hn : n = g <;> simp [hn, h]
  · have hlive : groupRetired s g = false := Bool.eq_false_iff.mpr h
    have hlt : g < 32 := by
      have := groupCount_le s
      omega
    rw [retireGroup_of_live hlive hg, groupRetired, reg_lowerQuotas, reg_retireMarked, bitOf_toNat, BitVec.getLsbD_or,
      BitVec.getLsbD_ofNat, Nat.testBit_two_pow, groupRetired, bitOf_toNat]
    by_cases hn : g = n
    · subst hn
      simp [hlt]
    · simp [hn, Ne.symm hn]

/-- Settles O29: the three operations of agent 3 and their refusal, and the writes of Toybox's registers. -/
theorem poolSupervision : Obligations.PoolSupervision := by
  refine ⟨fun agent id g s => ⟨fun hturn hclass => ?_, fun c hturn hc hst hrefs hgroup hbad hlist => ?_, fun hturn hg => ?_,
    fun hagent => ?_⟩, fun src classes id s hmay hrom => ?_⟩
  · refine ⟨_, exec_quarantine hturn hclass, ?_, ?_, ?_, fun j hj => ?_⟩ <;> rw [bufStored_answer3, quarantineBuf]
    · rw [bufStored_setBuf_self]
    · rw [bufStored_setBuf_self]
      rfl
    · rw [bufStored_setBuf_self]
      rfl
    · rw [bufStored_setBuf_ne hj]
      rfl
  · have hrow := exec_restore hturn hc hst hrefs hgroup hbad
    rw [restoreBuf_of_no_waiter (s := tbxGrant 3 s) hlist] at hrow
    refine ⟨_, hrow, ?_, fun j hj => ?_, ?_, fun k h1 h2 => ?_⟩
    · rw [bufStored_answer3, bufStored_restoredState_self]
      rfl
    · rw [bufStored_answer3]
      exact otherBuffers_restoredState id.toNat c (tbxGrant 3 s) j hj
    · rw [bufStored_answer3, bufStored_restoredState_self]
      rfl
    · rw [answer3, tbxAnswer_mem]
      exact hbm_restoredState id.toNat c k (tbxGrant 3 s) h1 h2
  · have hgroups (n : Nat) : groupRetired (answer3 0x00 (retireGroup g.toNat (tbxGrant 3 s))) n
        = (groupRetired s n || decide (n = g.toNat)) :=
      (groupRetired_congr (samePool_answer3_ok _) n).trans (groupRetired_retireGroup (s := tbxGrant 3 s) hg n)
    refine ⟨_, exec_retiregrp hturn hg, by rw [hgroups]; simp, fun n hn => by rw [hgroups]; simp [hn], fun j => ?_, fun hlive j hj hrefs => ?_⟩
    · rw [bufStored_answer3]
      rcases bufStored_retireGroup g.toNat (tbxGrant 3 s) j with h | h <;> rw [h]
      · exact ⟨rfl, rfl⟩
      · exact ⟨markRetiring_hold _ _ _, markRetiring_gen _ _ _⟩
    · rw [bufStored_answer3, retireGroup_of_live (s := tbxGrant 3 s) hlive hg, bufStored_lowerQuotas, bufStored_retireMarked,
        markRetiring, if_pos ⟨hj, hrefs⟩]
  · have hne : agent.toNat ≠ 3 := fun h => hagent (BitVec.eq_of_toNat_eq h)
    exact ⟨_, _, _, rfl, rfl, rfl, fun j => ⟨bufStored_agent3_of_ne hne _ _ s j, bufStored_agent3_of_ne hne _ _ s j,
      bufStored_agent3_of_ne hne _ _ s j⟩⟩
  · have hrow (off : Nat) (f : State → State) : tbxRow src off f s = f (hostWakes src s) := byDebug_of_may hmay hrom
    refine ⟨⟨_, congrArg Host.Outcome.next (hrow _ _), fun c hc => ?_, fun j => ?_⟩, fun hclass => ?_, ?_⟩
    · rw [waitList_waitclrOp hc, bitOf_toNat, hostWakes_tbx]
    · exact (bufStored_waitclrOp _ _ j).trans (bufStored_of_recs (by rw [hostWakes_tbx]) j)
    · obtain ⟨c, hc⟩ := Option.isSome_iff_exists.mp hclass
      refine (congrArg Host.Outcome.next (hrow _ _)).trans ?_
      rw [inspidOp, hc]
    · refine ⟨_, congrArg Host.Outcome.next (hrow _ _), ?_, fun off hoff => reg_raiseFld_ne hoff _ _⟩
      exact reg_raiseFld rfl _ _

end Sys2Proof.Machine
end

section
/-! Rhoval-F instructions that reach other blocks or other sequencers (R40, R44, R45, R51, R53): ISSUE, POP, POST and BAR. -/
namespace Sys2Proof.Machine
open Sys2Proof.Safety

/-! ### An instruction of one cycle that is done -/

theorem exec_of_done {t : Tid} {i : FInstr} {s u : State} (h : AtInstr t i s) (hrun : fExec t i s = doneSeq t u)
    (hst : (seqOf u t).st = .running) (hstep : (seqOf u t).step = false) :
    exec (commandOf t i) s = .next (withSeq t (retired ((seqOf u t).pc + 4) 1 (seqOf u t)) u) := by
  have hdone : doneSeq t u = withSeq t (retired ((seqOf u t).pc + 4) 1 (seqOf u t)) u := by
    rw [doneSeq, modSeq_eq_withSeq, addCycles_nextPc, stepDone_of_no_step]
    simpa [retired] using hstep
  have hresult : runInstr t i s = withSeq t (retired ((seqOf u t).pc + 4) 1 (seqOf u t)) u :=
    (runInstr_of_atInstr h).trans (hrun.trans hdone)
  have hact : seqActive (seqOf (runInstr t i s) t) = true := by simp [hresult, retired, hst]
  rw [exec_commandOf, seqRow_of_active hact, hresult]

/-- A done instruction that writes v to rd where u has left the sequencer as it was. -/
theorem exec_of_done_write {t : Tid} {i : FInstr} {s u : State} {rd : BitVec 5} {v : W64} (h : AtInstr t i s)
    (hrun : fExec t i s = doneSeq t (modSeq t (gSet rd v) u)) (hu : seqOf u t = seqOf s t) :
    exec (commandOf t i) s = .next (withSeq t (retired ((seqOf s t).pc + 4) 1 (putG rd v (seqOf s t))) u) := by
  have hput : modSeq t (gSet rd v) u = withSeq t (putG rd v (seqOf s t)) u := by rw [modSeq_eq_withSeq, hu, gSet_eq_putG]
  rw [hput] at hrun
  rw [exec_of_done h hrun (by simp [running_of_atInstr h]) (by simp [no_step_of_atInstr h]), seqOf_withSeq, withSeq_withSeq, putG_pc]

theorem legalF_of_fFetch {q : Seq} {i : FInstr} (h : fFetch q = some i) : legalF i = true := by
  unfold fFetch at h
  split at h
  case h_1 j hj =>
    split at h
    · next hl => exact Option.some.inj h ▸ hl
    · cases h
  case h_2 => cases h

/-! ### ISSUE and POP (R44, R45) -/

theorem withSeq_modTp (t : Tid) (q : Seq) (f : Tp → Tp) (s : State) :
    withSeq t q (modTp t f s) = modTp t (fun x => { f x with seq := q }) s := by
  show modTp t (fun x => { x with seq := q }) (modTp t f s) = _
  rw [modTp_modTp]

theorem modTp_tp_only (t : Tid) (f : Tp → Tp) (s : State) : modTp t f s = { s with tp := s.tp.set t (tpOf (modTp t f s) t) } := by
  rw [tpOf_modTp]
  rfl

theorem getLsbD_ticketed (d : BitVec 256) (n : BitVec 16) {k : Nat} (hk : k < 256) :
    (ticketed d n).getLsbD k = if 16 ≤ k ∧ k < 32 then n.getLsbD (k - 16) else d.getLsbD k := by
  rw [ticketed, BitVec.getLsbD_ofNat, testBit_putField, decide_eq_true hk, Bool.true_and]
  rfl

/-- The slot that ISSUE puts at the end of a port's queue. -/
def issuedSlot (t : Tid) (n : Nat) (d : BitVec 256) (s : State) : Slot :=
  { Slot.reset with
    ticket := (portOf (tpOf s t) n).nextTicket, desc := ticketed d (portOf (tpOf s t) n).nextTicket, order := (tpOf s t).issueNo }

theorem portOf_enqueue_ne (t : Tid) {m n : Nat} (hm : m < 9) (hn : n < 9) (h : n ≠ m) (d : BitVec 256) (s : State) :
    portOf (tpOf (enqueue t m d s) t) n = portOf (tpOf s t) n := by
  rw [enqueue, tpOf_modTp]
  exact (portOf_issueNo _ _ _).trans (portOf_setPort_ne m n _ _ (by omega) (by omega) h)

theorem portOf_popCpl_ne (t : Tid) {m n : Nat} (hm : m < 9) (hn : n < 9) (h : n ≠ m) (s : State) :
    portOf (tpOf (popCpl t m s) t) n = portOf (tpOf s t) n := by
  rw [popCpl, modPort, tpOf_modTp, portOf_setPort_ne m n _ _ (by omega) (by omega) h]

/-- What ISSUE and POP leave: the port has changed by f, rd holds v, and nothing outside the slice has changed. -/
theorem port_instr_spec {t : Tid} {q : Seq} {f : Tp → Tp} {s : State} :
    withSeq t q (modTp t f s) = { s with tp := s.tp.set t (tpOf (withSeq t q (modTp t f s)) t) } := by
  rw [withSeq_modTp]
  exact modTp_tp_only t _ s

section Issue
variable {t : Tid} {port : BitVec 4} {dr : BitVec 3} {rt : BitVec 5} {nb : Bool} {z : BitVec 13} {s : State}

theorem fIssue_of_room (hport : descPort (dreg s t dr.toNat) = port.toNat)
    (hroom : portUsed (portOf (tpOf s t) port.toNat) < portDepth port.toNat) : fIssue t port dr rt nb s
      = doneSeq t (modSeq t (gSet rt ((portOf (tpOf s t) port.toNat).nextTicket.setWidth 64))
        (enqueue t port.toNat (dreg s t dr.toNat) s)) :=
  (if_neg (not_not_intro hport)).trans (if_pos (decide_eq_true hroom))

theorem fIssue_of_full (hport : descPort (dreg s t dr.toNat) = port.toNat)
    (hfull : portDepth port.toNat ≤ portUsed (portOf (tpOf s t) port.toNat)) : fIssue t port dr rt nb s
      = if nb then doneSeq t (modSeq t (gSet rt (~~~0)) s) else beginWait t (.issue rt port.toNat dr.toNat) s :=
  (if_neg (not_not_intro hport)).trans (if_neg (by simpa [portFree] using hfull))

theorem fIssue_of_wrong_port (hport : descPort (dreg s t dr.toNat) ≠ port.toNat) : fIssue t port dr rt nb s
      = raiseExc t exDescPort (BitVec.ofNat 64 (descPort (dreg s t dr.toNat) + 256 * port.toNat)) s :=
  if_pos hport

/-- An instruction that begins to wait leaves the sequencer waiting, and nothing else changes. -/
theorem exec_of_beginWait {i : FInstr} {w : Waiting} (h : AtInstr t i s) (hrun : fExec t i s = beginWait t w s) :
    exec (commandOf t i) s = .next (withSeq t { seqOf s t with st := .waiting, wait := w, barRes := none } s) := by
  have hresult := (runInstr_of_atInstr h).trans hrun
  have hact : seqActive (seqOf (runInstr t i s) t) = true := by simp [hresult, beginWait]
  rw [exec_commandOf, seqRow_of_active hact, hresult, beginWait, modSeq_eq_withSeq]

end Issue

/-- Settles O15: ISSUE and POP by what the port holds; the port's change and the register's go into the same slice. -/
theorem stageQueues : Obligations.StageQueues := by
  refine ⟨fun t port dr rt nb z s hat => ?_, fun t port dr rt nb z s hat => ?_⟩
  · have hlegal : port.toNat < 9 := by
      have := legalF_of_fFetch (fFetch_of_atInstr hat)
      simp only [legalF, Bool.and_eq_true, decide_eq_true_eq] at this
      exact this.1
    intro d p
    refine ⟨fun hport hroom => ?_, fun hport hfull hnb => ?_, fun hport hfull hnb => ?_, fun hport hh => ?_⟩
    · have hexec := exec_of_done_write hat (fIssue_of_room hport hroom) (seqOf_enqueue _ _ _ _)
      refine ⟨_, issuedSlot t port.toNat d s, hexec, ?_, ?_⟩
      · exact (portOf_withSeq _ _ _ _).trans (portOf_enqueue _ _ _ _)
      · refine ⟨rfl, rfl, rfl, fun k hk => getLsbD_ticketed _ _ hk, seqOf_withSeq _ _ _, port_instr_spec, fun n hn hne => ?_⟩
        exact (portOf_withSeq _ _ _ _).trans (portOf_enqueue_ne t hlegal hn hne _ _)
    · exact exec_of_done_write hat ((fIssue_of_full hport hfull).trans (if_pos hnb)) rfl
    · exact exec_of_beginWait hat ((fIssue_of_full hport hfull).trans (if_neg (by simp [hnb])))
    · exact exec_of_raise (running_of_atInstr hat) (no_step_of_atInstr hat) hh (by decide)
        ((runInstr_of_atInstr hat).trans (fIssue_of_wrong_port hport))
  · have hlegal : port.toNat < 9 := by
      have := legalF_of_fFetch (fFetch_of_atInstr hat)
      simp only [legalF, Bool.and_eq_true, decide_eq_true_eq] at this
      exact this.1.1
    intro p
    refine ⟨fun c r hcpl => ?_, fun hcpl hnb => ?_, fun hcpl hnb => ?_⟩
    · have hpop : fPop t port rt nb s = doneSeq t (modSeq t (gSet rt c) (popCpl t port.toNat s)) := by rw [fPop, hcpl]
      refine ⟨_, exec_of_done_write hat hpop (seqOf_popCpl _ _ _), ?_, seqOf_withSeq _ _ _, port_instr_spec, fun n hn hne => ?_⟩
      · rw [portOf_withSeq, portOf_popCpl, hcpl]
        rfl
      · exact (portOf_withSeq _ _ _ _).trans (portOf_popCpl_ne t hlegal hn hne _)
    · have hpop : fPop t port rt nb s = doneSeq t (modSeq t (gSet rt (~~~0)) s) := by rw [fPop, hcpl]; exact if_pos hnb
      exact exec_of_done_write hat hpop rfl
    · have hpop : fPop t port rt nb s = beginWait t (.pop rt port.toNat) s := by rw [fPop, hcpl]; exact if_neg (by simp [hnb])
      exact exec_of_beginWait hat hpop

/-! ### Changes of several sequencers -/

/-- Sequencer by sequencer: g a changes sequencer a by h a and no other. -/
theorem seqOf_forAll {g : Tid → State → State} {h : Tid → Seq → Seq} (hself : ∀ a s, seqOf (g a s) a = h a (seqOf s a))
    (hne : ∀ a s t, t ≠ a → seqOf (g a s) t = seqOf s t) {l : List Tid} (hl : l.Nodup) (s : State) (t : Tid) :
    seqOf (forAll l g s) t = if t ∈ l then h t (seqOf s t) else seqOf s t := by
  induction l generalizing s with
  | nil => rfl
  | cons a l ih =>
    obtain ⟨ha, hl⟩ := List.nodup_cons.mp hl
    show seqOf (forAll l g (g a s)) t = _
    rw [ih hl]
    by_cases hta : t = a
    · subst hta
      rw [if_neg ha, if_pos List.mem_cons_self, hself]
    · rw [hne a s t hta]
      simp [hta]

theorem nodup_allT : allT.Nodup := by decide

/-- A sequencer with event n latched (R51). -/
def latch (n : Nat) (q : Seq) : Seq := { q with latched := q.latched ||| BitVec.ofNat 64 (2 ^ n) }

theorem setEvent_eq_modSeq (t : Tid) (n : Nat) (s : State) : setEvent t n s = modSeq t (latch n) s := rfl

theorem seqOf_setEvents {l : List Tid} (hl : l.Nodup) (n : Nat) (s : State) (t : Tid) :
    seqOf (setEvents l n s) t = if t ∈ l then latch n (seqOf s t) else seqOf s t :=
  seqOf_forAll (g := fun t => setEvent t n) (h := fun _ => latch n)
    (fun a s => seqOf_modSeq a (latch n) s) (fun a s t h => seqOf_modSeq_ne a t (latch n) s h) hl s t

theorem setEvents_regs (l : List Tid) (n : Nat) (s : State) : (setEvents l n s).regs = s.regs :=
  forAll_keeps (g := State.regs) (fun a s => setEvent_regs a n s) l s

theorem setEvents_hostMem (l : List Tid) (n : Nat) (s : State) : (setEvents l n s).hostMem = s.hostMem :=
  forAll_keeps (g := State.hostMem) (fun a s => setEvent_hostMem a n s) l s

theorem seqOf_withSeq_ne {t u : Tid} (h : u ≠ t) (q : Seq) (s : State) : seqOf (withSeq t q s) u = seqOf s u :=
  congrArg Tp.seq (tpOf_modTp_ne t u (fun x => { x with seq := q }) s h)

/-! ### Barriers (R53) -/

theorem seqOf_barSet_self (t : Tid) (r : BitVec 2) (s : State) : seqOf (barSet t r s) t = { seqOf s t with barRes := some r } :=
  seqOf_modSeq t _ s

theorem seqOf_barSet_ne {t u : Tid} (h : u ≠ t) (r : BitVec 2) (s : State) : seqOf (barSet t r s) u = seqOf s u :=
  seqOf_modSeq_ne t u _ s h

/-- The sequencers that t's mask names. -/
def barNamed (m : BitVec 8) : List Tid := allT.filter (fun u => bitOf m.toNat u.val)

theorem mem_barNamed {m : BitVec 8} {u : Tid} : u ∈ barNamed m ↔ m.getLsbD u.val = true := by
  simp [barNamed, mem_allT, bitOf_toNat]

theorem nodup_barNamed (m : BitVec 8) : (barNamed m).Nodup := nodup_allT.filter _

/-- Some sequencer that the mask names waits with another mask. -/
def barClash (m : BitVec 8) (s : State) : Prop := ∃ u, m.getLsbD u.val = true ∧ ∃ k, barMask (seqOf s u) = some k ∧ k ≠ m

/-- Releasing the barriers with other masks that name t. -/
def barOthers (t : Tid) (m : BitVec 8) (s : State) : State :=
  forAll allT (fun u s => match barMask (seqOf s u) with
    | some k => if u ≠ t ∧ k ≠ m ∧ bitOf k.toNat t.val then barSet u 2 s else s
    | none => s) s

/-- The arriving sequencer's own barrier is not one of those. -/
theorem seqOf_barOthers_self (t : Tid) (m : BitVec 8) (s : State) : seqOf (barOthers t m s) t = seqOf s t := by
  refine forAll_keeps (g := fun s => seqOf s t) (fun u s => ?_) allT s
  split
  · split
    · next h => exact seqOf_barSet_ne (Ne.symm h.1) _ _
    · rfl
  · rfl

theorem any_clash_iff (m : BitVec 8) (s : State) : (barNamed m).any (fun u => match barMask (seqOf s u) with
    | some k => k != m
    | none => false) = true ↔ barClash m s := by
  rw [List.any_eq_true]
  refine exists_congr fun u => and_congr mem_barNamed ?_
  cases barMask (seqOf s u) <;> simp

section Join
variable {t : Tid} {m : BitVec 8} {s : State}

theorem barJoin_of_clash (h : barClash m s) : barJoin t m s = barSet t 2 (barOthers t m s) :=
  if_pos ((any_clash_iff m s).mpr h)

variable (hclash : ¬barClash m s)
include hclash

theorem barJoin_of_absent (h : ∃ u : Tid, m.getLsbD u.val = true ∧ seqActive (seqOf s u) = false) :
    barJoin t m s = forAll (barNamed m) (fun u s => if barMask (seqOf s u) = some m then barSet u 0 s else s) (barOthers t m s) := by
  obtain ⟨u, hu, hact⟩ := h
  refine (if_neg fun hc => hclash ((any_clash_iff m s).mp hc)).trans (if_pos ?_)
  exact List.any_eq_true.mpr ⟨u, mem_barNamed.mpr hu, by simp [hact]⟩

variable (hact : ∀ u : Tid, m.getLsbD u.val = true → seqActive (seqOf s u) = true)
include hact

theorem barJoin_of_all (h : ∀ u : Tid, m.getLsbD u.val = true → barMask (seqOf s u) = some m) :
    barJoin t m s = forAll (barNamed m) (fun u s => barSet u 1 s) (barOthers t m s) := by
  refine (if_neg fun hc => hclash ((any_clash_iff m s).mp hc)).trans ((if_neg ?_).trans (if_pos ?_))
  · rw [List.any_eq_true]
    rintro ⟨u, hu, hn⟩
    simp [hact u (mem_barNamed.mp hu)] at hn
  · rw [List.all_eq_true]
    exact fun u hu => by simp [h u (mem_barNamed.mp hu)]

theorem barJoin_of_missing (h : ∃ u : Tid, m.getLsbD u.val = true ∧ barMask (seqOf s u) ≠ some m) :
    barJoin t m s = barOthers t m s := by
  obtain ⟨u, hu, hmask⟩ := h
  refine (if_neg fun hc => hclash ((any_clash_iff m s).mp hc)).trans ((if_neg ?_).trans (if_neg ?_))
  · rw [List.any_eq_true]
    rintro ⟨u, hu, hn⟩
    simp [hact u (mem_barNamed.mp hu)] at hn
  · rw [List.all_eq_true]
    exact fun hall => hmask (by simpa using hall u (mem_barNamed.mpr hu))

end Join

theorem setWidth8_toNat {m : W64} (h : m.toNat < 256) : (m.setWidth 8).toNat = m.toNat := by
  rw [BitVec.toNat_setWidth]
  exact Nat.mod_eq_of_lt h

theorem getLsbD_setWidth8 (m : W64) (u : Tid) : (m.setWidth 8).getLsbD u.val = m.getLsbD u.val := by
  have := u.isLt
  rw [BitVec.getLsbD_setWidth, decide_eq_true (by omega), Bool.true_and]

theorem seqActive_iff {q : Seq} : seqActive q = true ↔ q.st = .running ∨ q.st = .waiting := by simp [seqActive]

theorem waiting_of_barMask {q : Seq} {m : BitVec 8} (h : barMask q = some m) : q.st = .waiting := by
  unfold barMask at h
  split at h
  · assumption
  · cases h

/-- A barrier released with a result, where the sequencer waits with mask m. -/
def barFreed (r : BitVec 2) (q : Seq) : Seq := { q with barRes := some r }

theorem seqOf_forAll_barSet {l : List Tid} (hl : l.Nodup) (r : BitVec 2) (s : State) (t : Tid) :
    seqOf (forAll l (fun u s => barSet u r s) s) t = if t ∈ l then barFreed r (seqOf s t) else seqOf s t :=
  seqOf_forAll (g := fun u s => barSet u r s) (h := fun _ => barFreed r) (fun a s => seqOf_barSet_self a r s)
    (fun _ s _ h => seqOf_barSet_ne h r s) hl s t

theorem seqOf_forAll_barSet_masked {l : List Tid} (hl : l.Nodup) (r : BitVec 2) (m : BitVec 8) (s : State) (t : Tid) :
    seqOf (forAll l (fun u s => if barMask (seqOf s u) = some m then barSet u r s else s) s) t
      = if t ∈ l then (if barMask (seqOf s t) = some m then barFreed r (seqOf s t) else seqOf s t) else seqOf s t := by
  refine seqOf_forAll (g := fun u s => if barMask (seqOf s u) = some m then barSet u r s else s)
    (h := fun _ q => if barMask q = some m then barFreed r q else q) (fun a s => ?_) (fun a s t h => ?_) hl s t
  · split
    · exact seqOf_barSet_self a r s
    · rfl
  · split
    · exact seqOf_barSet_ne h r s
    · rfl

/-- What an arriving sequencer t that waits with mask m comes to. -/
theorem seqOf_barJoin {t : Tid} {m : BitVec 8} {v : State} (hown : m.getLsbD t.val = true) (hv : barMask (seqOf v t) = some m) :
    (barClash m v → seqOf (barJoin t m v) t = barFreed 2 (seqOf v t))
    ∧ (¬barClash m v →
      ((∃ u : Tid, m.getLsbD u.val = true ∧ seqActive (seqOf v u) = false) → seqOf (barJoin t m v) t = barFreed 0 (seqOf v t))
      ∧ ((∀ u : Tid, m.getLsbD u.val = true → seqActive (seqOf v u) = true) →
        (∃ u : Tid, m.getLsbD u.val = true ∧ barMask (seqOf v u) ≠ some m) → seqOf (barJoin t m v) t = seqOf v t))
    ∧ ((∀ u : Tid, m.getLsbD u.val = true → barMask (seqOf v u) = some m) →
      seqOf (barJoin t m v) t = barFreed 1 (seqOf v t)
        ∧ ∀ u : Tid, m.getLsbD u.val = true → (seqOf (barJoin t m v) u).barRes = some 1) := by
  have hself := seqOf_barOthers_self t m v
  have hmem : t ∈ barNamed m := mem_barNamed.mpr hown
  refine ⟨fun hclash => ?_, fun hclash => ⟨fun habsent => ?_, fun hact hmissing => ?_⟩, fun hall => ?_⟩
  · rw [barJoin_of_clash hclash, seqOf_barSet_self, hself, barFreed]
  · rw [barJoin_of_absent hclash habsent, seqOf_forAll_barSet_masked (nodup_barNamed m), if_pos hmem, hself, if_pos hv]
  · rw [barJoin_of_missing hclash hact hmissing, hself]
  · have hclash : ¬barClash m v := by
      rintro ⟨u, hu, k, hk, hne⟩
      exact hne (Option.some.inj (hk.symm.trans (hall u hu)))
    have hact (u : Tid) (hu : m.getLsbD u.val = true) : seqActive (seqOf v u) = true :=
      seqActive_of_waiting (waiting_of_barMask (hall u hu))
    rw [barJoin_of_all hclash hact hall]
    refine ⟨?_, fun u hu => ?_⟩
    · rw [seqOf_forAll_barSet (nodup_barNamed m), if_pos hmem, hself]
    · rw [seqOf_forAll_barSet (nodup_barNamed m), if_pos (mem_barNamed.mpr hu)]
      rfl

theorem fBar_of_illegal {t : Tid} {i : FInstr} {rd ra : BitVec 5} {s : State}
    (h : (greg s t ra).getLsbD t.val = false ∨ 256 ≤ (greg s t ra).toNat) :
    fBar t i rd ra s = raiseExc t exIllegal (illegalEval i) s := by
  rw [← bitOf_toNat] at h
  exact if_pos (by simpa [gGet_eq_greg] using h)

theorem fBar_of_legal {t : Tid} {i : FInstr} {rd ra : BitVec 5} {s : State} (hown : (greg s t ra).getLsbD t.val = true)
    (hlt : (greg s t ra).toNat < 256) :
    fBar t i rd ra s = barJoin t ((greg s t ra).setWidth 8) (beginWait t (.bar rd ((greg s t ra).setWidth 8)) s) := by
  rw [← bitOf_toNat] at hown
  exact if_neg (by simpa [gGet_eq_greg, hown] using hlt)

/-- Settles O14: POST by sequencer; BAR by what the named sequencers stand in when it arrives. -/
theorem sequencersSignal : Obligations.SequencersSignal := by
  refine ⟨fun t rd ra imm s hat => ?_, fun t rd ra imm s hat => ⟨fun hm hh => ?_, fun hown hlt => ?_⟩⟩
  · have hst := running_of_atInstr hat
    have hstep := no_step_of_atInstr hat
    have hnodup : (allT.filter (fun u => bitOf (greg s t ra).toNat u.val)).Nodup := nodup_allT.filter _
    have hmem (n : Tid) : n ∈ allT.filter (fun u => bitOf (greg s t ra).toNat u.val) ↔ (greg s t ra).getLsbD n.val = true := by
      simp [mem_allT, bitOf_toNat]
    have hseq := seqOf_setEvents hnodup (evSq t.val) s
    have hfields (n : Tid) : (seqOf (setEvents (allT.filter (fun u => bitOf (greg s t ra).toNat u.val)) (evSq t.val) s) n)
        = { seqOf s n with latched := if (greg s t ra).getLsbD n.val then
            (seqOf s n).latched ||| BitVec.ofNat 64 (2 ^ (32 + t.val)) else (seqOf s n).latched } := by
      rw [hseq]
      simp only [hmem]
      split <;> rfl
    have hregs := setEvents_regs (allT.filter (fun u => bitOf (greg s t ra).toNat u.val)) (evSq t.val) s
    have hhost := setEvents_hostMem (allT.filter (fun u => bitOf (greg s t ra).toNat u.val)) (evSq t.val) s
    have hrun : fExec t (.imm .post rd ra imm) s
        = doneSeq t (setEvents (allT.filter (fun u => bitOf (greg s t ra).toNat u.val)) (evSq t.val) s) := rfl
    generalize setEvents (allT.filter (fun u => bitOf (greg s t ra).toNat u.val)) (evSq t.val) s = u at hfields hregs hhost hrun
    refine ⟨_, exec_of_done hat hrun (by rw [hfields]; exact hst) (by rw [hfields]; exact hstep), fun n => ?_, ?_, ?_, fun n hn => ?_,
      hregs, hhost⟩
    · by_cases hn : n = t
      · subst hn
        rw [seqOf_withSeq, hfields]
        rfl
      · rw [seqOf_withSeq_ne hn, hfields]
    · rw [seqOf_withSeq, hfields]
      rfl
    · rw [seqOf_withSeq, hfields]
      rfl
    · rw [seqOf_withSeq_ne hn, hfields]
      exact ⟨rfl, rfl⟩
  · have hrun := (runInstr_of_atInstr hat).trans (fBar_of_illegal (i := .imm .bar rd ra imm) (rd := rd) hm)
    rw [illegalEval_of_fFetch (fFetch_of_atInstr hat)] at hrun
    exact exec_of_raise (running_of_atInstr hat) (no_step_of_atInstr hat) hh (by decide) hrun
  · have hrun := (runInstr_of_atInstr hat).trans (fBar_of_legal (i := .imm .bar rd ra imm) (rd := rd) hown hlt)
    simp only [← getLsbD_setWidth8] at hown ⊢
    generalize (greg s t ra).setWidth 8 = m at hown hrun ⊢
    have hself : seqOf (beginWait t (.bar rd m) s) t = { seqOf s t with st := .waiting, wait := .bar rd m, barRes := none } :=
      seqOf_modSeq t _ s
    have hne (n : Tid) (hn : n ≠ t) : seqOf (beginWait t (.bar rd m) s) n = seqOf s n := seqOf_modSeq_ne t n _ s hn
    have hmask : barMask (seqOf (beginWait t (.bar rd m) s) t) = some m := by rw [hself]; rfl
    obtain ⟨hclashes, hno, hall⟩ := seqOf_barJoin hown hmask
    obtain ⟨r, hjoined⟩ : ∃ r, seqOf (barJoin t m (beginWait t (.bar rd m) s)) t
        = { seqOf s t with st := .waiting, wait := .bar rd m, barRes := r } := by
      rw [hself] at hclashes hno hall
      by_cases hc : barClash m (beginWait t (.bar rd m) s)
      · exact ⟨_, hclashes hc⟩
      · by_cases hact : ∀ u : Tid, m.getLsbD u.val = true → seqActive (seqOf (beginWait t (.bar rd m) s) u) = true
        · by_cases hm : ∀ u : Tid, m.getLsbD u.val = true → barMask (seqOf (beginWait t (.bar rd m) s) u) = some m
          · exact ⟨_, (hall hm).1⟩
          · exact ⟨_, (hno hc).2 hact (by simpa using hm)⟩
        · exact ⟨_, (hno hc).1 (by simpa using hact)⟩
    have hact : seqActive (seqOf (runInstr t (.imm .bar rd ra imm) s) t) = true := by simp [hrun, hjoined]
    have hexec : exec (.bar t rd ra imm) s = .next (barJoin t m (beginWait t (.bar rd m) s)) :=
      (exec_commandOf t (.imm .bar rd ra imm) s).trans (by rw [seqRow_of_active hact, hrun])
    have hnoclash (hagree : ∀ n : Tid, n ≠ t → m.getLsbD n.val = true → ∀ k, barMask (seqOf s n) = some k → k = m) :
        ¬barClash m (beginWait t (.bar rd m) s) := by
      rintro ⟨n, hbit, k, hk, hkm⟩
      by_cases hn : n = t
      · exact hkm (Option.some.inj (hk.symm.trans (hn ▸ hmask)))
      · exact hkm (hagree n hn hbit k (by rw [← hne n hn, hk]))
    refine ⟨_, hexec, by rw [hjoined], by rw [hjoined], by rw [hjoined], ?_, fun hagree => ⟨?_, ?_⟩, fun hwaiting => ?_⟩
    · rintro ⟨n, hn, hbit, k, hk, hkm⟩
      rw [hclashes ⟨n, hbit, k, by rw [hne n hn, hk], hkm⟩]
      rfl
    · rintro ⟨n, hbit, hnrun, hnwait⟩
      have hn : n ≠ t := fun h => hnrun (h ▸ running_of_atInstr hat)
      have habsent : seqActive (seqOf (beginWait t (.bar rd m) s) n) = false := by
        rw [hne n hn, ← Bool.not_eq_true, seqActive_iff]
        tauto
      rw [(hno (hnoclash hagree)).1 ⟨n, hbit, habsent⟩]
      rfl
    · rintro hactive ⟨n, hn, hbit, hnone⟩
      have hall' (u : Tid) (hu : m.getLsbD u.val = true) : seqActive (seqOf (beginWait t (.bar rd m) s) u) = true := by
        by_cases hut : u = t
        · rw [hut, hself]
          rfl
        · rw [hne u hut, seqActive_iff]
          exact hactive u hu
      rw [(hno (hnoclash hagree)).2 hall' ⟨n, hbit, by rw [hne n hn, hnone]; simp⟩, hself]
    · refine (hall fun u hu => ?_).2
      by_cases hut : u = t
      · exact hut ▸ hmask
      · rw [hne u hut]
        exact hwaiting u hu hut

end Sys2Proof.Machine
end

section
/-! What the operations of other blocks leave of the sequencers and their ports: notices, ends of host commands, write-disabling, grants
and motion commands change none of them but for the events they latch. -/
namespace Sys2Proof.Machine
open Sys2Proof.Safety

/-! ### A sequencer's course -/

/-- What of a slice decides how its sequencer goes on, but for the events latched: the sequencer, its ports, and whether it is to be
installed again. -/
def course (x : Tp) : Seq × (Nat → Port) × Bool := ({ x.seq with latched := 0 }, portOf x, x.reinstall)

/-- The course of every slice. -/
def courses (s : State) (u : Tid) : Seq × (Nat → Port) × Bool := course (tpOf s u)

theorem courses_of_tp {s u : State} (h : u.tp = s.tp) : courses u = courses s := by
  funext t
  rw [courses, courses, tpOf, tpOf, h]

theorem courses_modTp {f : Tp → Tp} (h : ∀ x, course (f x) = course x) (t : Tid) (s : State) : courses (modTp t f s) = courses s := by
  funext u
  by_cases hu : u = t
  · subst hu
    rw [courses, tpOf_modTp, h, courses]
  · rw [courses, tpOf_modTp_ne t u f s hu, courses]

theorem courses_forAll {α : Type} {f : α → State → State} (h : ∀ a s, courses (f a s) = courses s) (l : List α) (s : State) :
    courses (forAll l f s) = courses s := forAll_keeps h l s

theorem seqOf_of_courses {s u : State} {t : Tid} (h : courses u t = courses s t) :
    seqOf u t = { seqOf s t with latched := (seqOf u t).latched } := by
  have hseq : { seqOf u t with latched := 0 } = { seqOf s t with latched := 0 } := congrArg Prod.fst h
  calc seqOf u t = { ({ seqOf u t with latched := 0 } : Seq) with latched := (seqOf u t).latched } := rfl
    _ = { ({ seqOf s t with latched := 0 } : Seq) with latched := (seqOf u t).latched } := by rw [hseq]

theorem portOf_of_courses {s u : State} {t : Tid} (h : courses u t = courses s t) (n : Nat) :
    portOf (tpOf u t) n = portOf (tpOf s t) n := congrFun (congrArg (fun c => c.2.1) h) n

theorem reinstall_of_courses {s u : State} {t : Tid} (h : courses u t = courses s t) :
    (tpOf u t).reinstall = (tpOf s t).reinstall := congrArg (fun c => c.2.2) h

/-! ### What reaches no slice -/

@[simp] theorem raiseFld_tp (off : Nat) (f : Fld) (s : State) : (raiseFld off f s).tp = s.tp := setFld_tp off f 1 s

@[simp] theorem logFault_tp (u : BitVec 16) (k c w : Nat) (d : W64) (s : State) : (logFault u k c w d s).tp = s.tp := by
  rw [logFault_only]

@[simp] theorem notice_tp (code : Nat) (s : State) : (notice code s).tp = s.tp := by
  unfold notice
  split
  · rfl
  · exact raiseFld_tp _ _ s

@[simp] theorem endCmd_tp (tag : BitVec 16) (st : BitVec 8) (r : W64) (off : Nat) (s : State) : (endCmd tag st r off s).tp = s.tp := by
  rw [endCmd_hif_only]

@[simp] theorem modStream_tp (scid : Nat) (f : Stream → Stream) (s : State) : (modStream scid f s).tp = s.tp := by
  unfold modStream
  split <;> rfl

@[simp] theorem modRec_tp (scid : Nat) (seq : W32) (f : Rec → Rec) (s : State) : (modRec scid seq f s).tp = s.tp := modStream_tp _ _ s

@[simp] theorem reportUnverified_tp (t cause scid : Nat) (s : State) : (reportUnverified t cause scid s).tp = s.tp := by
  unfold reportUnverified
  split
  · rfl
  · dsimp only
    split <;> simp

@[simp] theorem endUnverified_tp (t : Nat) (c : Cmd) (s : State) : (endUnverified t c s).tp = s.tp := by
  unfold endUnverified
  split
  · rfl
  · split <;> simp

@[simp] theorem dropWrites_tp (t : Tid) (cause : Nat) (s : State) : (dropWrites t cause s).tp = s.tp := by
  unfold dropWrites
  dsimp only
  rw [forAll_keeps (g := State.tp) (fun scid s => reportUnverified_tp t.val cause scid s),
    forAll_keeps (g := State.tp) (fun c s => endUnverified_tp t.val c s)]

@[simp] theorem markRetired_tp (u : BitVec 16) (s : State) : (markRetired u s).tp = s.tp := by
  unfold markRetired
  split
  · rfl
  · exact notice_tp _ _

@[simp] theorem tdrainMs_tp (s : State) : (tdrainMs s).2.tp = s.tp := by
  unfold tdrainMs
  split <;> rfl

@[simp] theorem grantOf_tp (t : Tid) (s : State) : (grantOf t s).2.tp = s.tp := by
  unfold grantOf
  split
  · rfl
  · split <;> rfl

@[simp] theorem entryMode_tp (t : Tid) (w : Bool) (s : State) : (entryMode t w s).tp = s.tp := setFld_tp _ _ _ s

@[simp] theorem haltMode_tp (t : Tid) (s : State) : (haltMode t s).tp = s.tp := by
  unfold haltMode
  split
  · exact entryMode_tp _ _ s
  · split
    · exact entryMode_tp _ _ s
    · rfl

/-! ### What leaves every course -/

theorem courses_setEvent (t : Tid) (n : Nat) (s : State) : courses (setEvent t n s) = courses s :=
  courses_modTp (f := fun x => { x with seq := latch n x.seq }) (fun _ => rfl) t s

theorem courses_writeDisable (t : Tid) (cause : Nat) (s : State) : courses (writeDisable t cause s) = courses s := by
  unfold writeDisable
  split
  · rfl
  · refine (courses_of_tp ?_).trans (courses_modTp (f := fun x => { x with wrDis := cause }) (fun _ => rfl) t s)
    rw [notice_tp, dropWrites_tp]

theorem courses_regrantOne (t : Tid) (s : State) : courses (regrantOne t s) = courses s := by
  unfold regrantOne
  dsimp only
  split
  · exact courses_of_tp (grantOf_tp t s)
  · exact (courses_setEvent t _ _).trans (courses_of_tp (grantOf_tp t s))

theorem courses_regrant (s : State) : courses (regrant s) = courses s := by
  refine (courses_forAll courses_regrantOne allT _).trans (courses_of_tp ?_)
  show (setFld Reg.wuTdrain Fld.wuTdrainTdrain (tdrainMs s).1 (tdrainMs s).2).tp = s.tp
  rw [setFld_tp, tdrainMs_tp]

theorem courses_disableWrites (t : Tid) (cause : Nat) (s : State) : courses (disableWrites t cause s) = courses s :=
  (courses_regrant _).trans (courses_writeDisable t cause s)

/-! ### Barriers that name a sequencer that stops (R53) -/

/-- What barLeave makes of a sequencer: a barrier that names t is released with 0. -/
def barLeft (t u : Tid) (q : Seq) : Seq :=
  match barMask q with
  | some m => if u ≠ t ∧ bitOf m.toNat t.val then { q with barRes := some 0 } else q
  | none => q

theorem seqOf_barLeave (t : Tid) (s : State) (u : Tid) : seqOf (barLeave t s) u = barLeft t u (seqOf s u) := by
  have h := seqOf_forAll (g := fun u s => match barMask (seqOf s u) with
    | some m => if u ≠ t ∧ bitOf m.toNat t.val then barSet u 0 s else s
    | none => s) (h := barLeft t) (fun a s => ?_) (fun a s t h => ?_) nodup_allT s u
  · rw [if_pos (mem_allT u)] at h
    exact h
  · unfold barLeft
    split
    · split
      · exact seqOf_barSet_self a 0 s
      · rfl
    · rfl
  · split
    · split
      · exact seqOf_barSet_ne h 0 s
      · rfl
    · rfl

/-- Releasing barriers leaves the slices' other parts alone. -/
theorem tpOf_barLeave (t : Tid) (s : State) (u : Tid) : tpOf (barLeave t s) u = { tpOf s u with seq := barLeft t u (seqOf s u) } := by
  have hother : { tpOf (barLeave t s) u with seq := Seq.reset } = { tpOf s u with seq := Seq.reset } := by
    refine forAll_keeps (g := fun s => { tpOf s u with seq := Seq.reset }) (fun a s => ?_) allT s
    split
    · split
      · by_cases hu : u = a
        · subst hu
          rw [barSet, modSeq, tpOf_modTp]
        · rw [barSet, modSeq, tpOf_modTp_ne a u _ s hu]
      · rfl
    · rfl
  calc tpOf (barLeave t s) u = { ({ tpOf (barLeave t s) u with seq := Seq.reset } : Tp) with seq := seqOf (barLeave t s) u } := rfl
    _ = { ({ tpOf s u with seq := Seq.reset } : Tp) with seq := barLeft t u (seqOf s u) } := by rw [hother, seqOf_barLeave]

theorem barLeft_self (t : Tid) (q : Seq) : barLeft t t q = q := by
  unfold barLeft
  split
  · exact if_neg (fun h => h.1 rfl)
  · rfl

end Sys2Proof.Machine
end

section
/-! Special registers, halting, TIMER and the watchdog (R40, R42, R51, R53, R56, R57). -/
namespace Sys2Proof.Machine
open Sys2Proof.Safety

/-! ### The events that MFS shows (R42, R51) -/

/-- The sum of the powers of two of the numbers below m with a property has the bits of those numbers. -/
theorem testBit_foldl_two_pow (p : Nat → Bool) (m k : Nat) :
    (((List.range m).filter p).foldl (fun a n => a + 2 ^ n) 0).testBit k = (decide (k < m) && p k) := by
  induction m generalizing k with
  | zero => simp
  | succ m ih =>
    have hlt : ((List.range m).filter p).foldl (fun a n => a + 2 ^ n) 0 < 2 ^ m :=
      Nat.lt_pow_two_of_testBit _ fun j hj => by rw [ih, decide_eq_false (by omega), Bool.false_and]
    have hsame (hk : k ≠ m) : (decide (k < m) && p k) = (decide (k < m + 1) && p k) := by
      rw [decide_eq_decide.mpr (show k < m ↔ k < m + 1 by omega)]
    rw [List.range_succ, List.filter_append, List.foldl_append]
    by_cases hp : p m = true
    · rw [List.filter_cons_of_pos hp, List.filter_nil, List.foldl_cons, List.foldl_nil, Nat.add_comm]
      rcases Nat.lt_trichotomy k m with hk | rfl | hk
      · rw [Nat.testBit_two_pow_add_gt hk, ih, hsame hk.ne]
      · rw [Nat.testBit_two_pow_add_eq, ih]
        simp [hp]
      · rw [← hsame hk.ne', decide_eq_false (by omega), Bool.false_and]
        refine Nat.testBit_lt_two_pow (lt_of_lt_of_le ?_ (Nat.pow_le_pow_right (by decide) hk))
        rw [Nat.succ_eq_add_one, Nat.pow_succ]
        omega
    · rw [List.filter_cons_of_neg hp, List.filter_nil, List.foldl_nil, ih]
      by_cases hk : k = m
      · simp [hk, hp]
      · exact hsame hk

theorem getLsbD_evp (x : Tp) {n : Nat} (hn : n < 64) : (evp x).getLsbD n
    = ((decide (n < 9) && !(portOf x n).cpl.isEmpty) || (x.seq.latched.getLsbD n && latchedEvents.getLsbD n)) := by
  rw [evp, BitVec.getLsbD_or, BitVec.getLsbD_and, BitVec.getLsbD_ofNat, decide_eq_true hn, Bool.true_and, levelEvents,
    testBit_foldl_two_pow]

theorem getLsbD_latchedEvents : ∀ n < 64, latchedEvents.getLsbD n = decide ((9 ≤ n ∧ n < 20) ∨ (24 ≤ n ∧ n < 40)) := by decide

theorem openQuot_bounds (v : Nat) : 16 * openQuot v 16 < v + 16 ∧ v < 16 * openQuot v 16 + 16 := by
  unfold openQuot
  split
  · omega
  · split <;> omega

theorem version_fmtid (v f : BitVec 16) : BitVec.ofNat 64 (f.toNat + 2 ^ 16 * v.toNat) = (v ++ f).setWidth 64 := by
  apply BitVec.eq_of_toNat_eq
  rw [BitVec.toNat_ofNat, BitVec.toNat_setWidth, BitVec.toNat_append, ← Nat.shiftLeft_add_eq_or_of_lt f.isLt, Nat.shiftLeft_eq,
    Nat.add_comm, Nat.mul_comm]

/-! ### EVCLR, MFS and MTS -/

theorem exec_mfs {t : Tid} {rd ra : BitVec 5} {imm : BitVec 16} {s : State} (h : AtInstr t (.imm .mfs rd ra imm) s) :
    exec (.mfs t rd ra imm) s = .next (regResult t rd (readSr s t imm.toNat) 1 s) :=
  exec_of_done_write h rfl rfl

theorem writeSr_of_legal {imm : BitVec 16} (v : W64) (q : Seq) : writeSr imm.toNat v q
    = if imm = 2 then { q with timer := v } else if imm = 4 then { q with evec := v } else if imm = 5 then { q with epc := v }
      else { q with lposcmp := v } := by
  simp only [BitVec.toNat_eq, show (2 : BitVec 16).toNat = 2 from rfl, show (4 : BitVec 16).toNat = 4 from rfl,
    show (5 : BitVec 16).toNat = 5 from rfl]
  generalize imm.toNat = n
  unfold writeSr
  split <;> simp_all

theorem exec_mts {t : Tid} {rd ra : BitVec 5} {imm : BitVec 16} {s : State} (h : AtInstr t (.imm .mts rd ra imm) s) :
    exec (.mts t rd ra imm) s = .next (withSeq t (retired ((seqOf s t).pc + 4) 1 (writeSr imm.toNat (greg s t ra) (seqOf s t))) s) := by
  have hrun : fExec t (.imm .mts rd ra imm) s = doneSeq t (withSeq t (writeSr imm.toNat (greg s t ra) (seqOf s t)) s) := rfl
  have hpc : (writeSr imm.toNat (greg s t ra) (seqOf s t)).pc = (seqOf s t).pc := by unfold writeSr; split <;> rfl
  have hst : (writeSr imm.toNat (greg s t ra) (seqOf s t)).st = (seqOf s t).st := by unfold writeSr; split <;> rfl
  have hstep : (writeSr imm.toNat (greg s t ra) (seqOf s t)).step = (seqOf s t).step := by unfold writeSr; split <;> rfl
  have hexec := exec_of_done h hrun (by rw [seqOf_withSeq, hst, running_of_atInstr h])
    (by rw [seqOf_withSeq, hstep, no_step_of_atInstr h])
  rw [seqOf_withSeq, withSeq_withSeq, hpc] at hexec
  exact hexec

/-! ### Halting (R40, R57, R254) -/

theorem seqOf_startPending (t : Tid) (s : State) : seqOf (startPending t s) t = (startWhenDone (tpOf s t)).seq := by
  rw [startPending, seqOf, tpOf_modTp]

theorem startWhenDone_of_none {x : Tp} (h : x.seq.startPend = none) : startWhenDone x = x := by
  unfold startWhenDone
  rw [h]

/-- A halted program starts again at the entry that waits to be started, once its queues are empty. -/
theorem startWhenDone_of_halted {x : Tp} {w : Bool} (h : x.seq.startPend = some w) (hst : x.seq.st = .halted) :
    startWhenDone x = x ∨ (startWhenDone x).seq = { restartSeq w x.seq with startPend := none } := by
  unfold startWhenDone
  rw [h]
  dsimp only
  rw [hst]
  dsimp only
  split
  · exact Or.inl rfl
  · exact Or.inr rfl

/-- The sequencer as haltSeq stops it. -/
def haltedSeq (q : Seq) : Seq := { q with st := .halted, wait := .none, haltp := false, step := false, barRes := none }

theorem tpOf_haltSeq (t : Tid) (s : State) :
    tpOf (haltSeq t s) t = startWhenDone { tpOf s t with seq := haltedSeq (seqOf s t) } := by
  have htp : tpOf (haltMode t s) t = tpOf s t := by rw [tpOf, haltMode_tp, tpOf]
  rw [haltSeq, startPending, tpOf_modTp, tpOf_barLeave, barLeft_self, seqOf_modSeq, modSeq, tpOf_modTp, seqOf, htp]
  rfl

/-- haltSeq, where Puppeteer waits for no start. -/
theorem tpOf_haltSeq_of_none {t : Tid} {s : State} (h : (seqOf s t).startPend = none) :
    tpOf (haltSeq t s) t = { tpOf s t with seq := haltedSeq (seqOf s t) } := by
  rw [tpOf_haltSeq, startWhenDone_of_none]
  exact h

theorem seqOf_haltSeq_ne {t u : Tid} (h : u ≠ t) (s : State) : seqOf (haltSeq t s) u = barLeft t u (seqOf s u) := by
  have htp : tpOf (haltMode t s) u = tpOf s u := by rw [tpOf, haltMode_tp, tpOf]
  rw [haltSeq, startPending, seqOf, tpOf_modTp_ne t u _ _ h, ← seqOf, seqOf_barLeave, seqOf_modSeq_ne t u _ _ h, seqOf, htp]
  rfl

/-- A sequencer that halts stands where it was, or runs at the entry that waits to be started. -/
theorem seqOf_haltSeq_cases (t : Tid) (s : State) : (seqOf (haltSeq t s) t).g = (seqOf s t).g
    ∧ ((seqOf (haltSeq t s) t).st = .halted ∧ (seqOf (haltSeq t s) t).pc = (seqOf s t).pc
      ∨ ∃ w, (seqOf s t).startPend = some w ∧ (seqOf (haltSeq t s) t).st = .running
        ∧ (seqOf (haltSeq t s) t).pc = (if w then (seqOf s t).entryWrite else (seqOf s t).entryRead).setWidth 16) := by
  have htp := tpOf_haltSeq t s
  cases hp : (seqOf s t).startPend with
  | none =>
    rw [startWhenDone_of_none (by exact hp)] at htp
    rw [seqOf, htp]
    exact ⟨rfl, Or.inl ⟨rfl, rfl⟩⟩
  | some w =>
    rcases startWhenDone_of_halted (x := { tpOf s t with seq := haltedSeq (seqOf s t) }) hp rfl with h | h
    · rw [h] at htp
      rw [seqOf, htp]
      exact ⟨rfl, Or.inl ⟨rfl, rfl⟩⟩
    · have hseq : seqOf (haltSeq t s) t = _ := (congrArg Tp.seq htp).trans h
      rw [hseq]
      exact ⟨rfl, Or.inr ⟨w, rfl, rfl, rfl⟩⟩

/-- HALT's own effect is haltSeq, on a state in which the transport may have become write-disabled. -/
theorem runInstr_halt {t : Tid} {rd ra : BitVec 5} {imm : BitVec 16} {s : State} (h : AtInstr t (.imm .halt rd ra imm) s) :
    ∃ u, runInstr t (.imm .halt rd ra imm) s = haltSeq t u
      ∧ ∃ l n k, seqOf u t = { seqOf s t with st := .halted, latched := l, cycle := n, wdog := k } := by
  have hrun : runInstr t (.imm .halt rd ra imm) s
      = haltProgram t (modSeq t (fun _ => addCycles 1 { seqOf s t with st := .halted }) s) := by
    rw [runInstr_of_atInstr h]
    rfl
  have hseq : seqOf (modSeq t (fun _ => addCycles 1 { seqOf s t with st := .halted }) s) t
      = addCycles 1 { seqOf s t with st := .halted } := seqOf_modSeq t _ s
  generalize modSeq t (fun _ => addCycles 1 { seqOf s t with st := .halted }) s = v at hrun hseq
  obtain ⟨u, hu, hcourse⟩ : ∃ u, haltProgram t v = haltSeq t u ∧ courses u = courses v := by
    unfold haltProgram
    split
    · exact ⟨_, rfl, courses_disableWrites t 4 v⟩
    · split
      · exact ⟨_, rfl, courses_disableWrites t 2 v⟩
      · exact ⟨_, rfl, rfl⟩
  have hcourseSeq := seqOf_of_courses (congrFun hcourse t)
  rw [hseq] at hcourseSeq
  exact ⟨u, hrun.trans hu, _, _, _, hcourseSeq⟩

theorem exec_of_halted {t : Tid} {i : FInstr} {s u : State} (hrun : runInstr t i s = u) (hst : (seqOf u t).st = .halted) :
    exec (commandOf t i) s = .next (settleHost u) := by
  rw [exec_commandOf, seqRow, hrun]
  exact congrArg _ (if_neg (by simp [seqActive, hst]))

theorem seqRow_cases (t : Tid) (f : State → State) (s : State) : seqRow t f s = settleHost (f s) ∨ seqRow t f s = f s := by
  unfold seqRow
  dsimp only
  split
  · exact Or.inr rfl
  · exact Or.inl rfl

theorem exec_haltTake (t : Tid) (s : State) : exec (.haltTake t) s = .next (seqRow t (haltTakeOp t) s) := rfl

/-! ### The watchdog (R56) -/

theorem raiseWdog_of_handler {t : Tid} {s : State} (hh : HasHandler t s) (hs : (seqOf s t).step = false) :
    raiseWdog t s = withSeq t { seqOf s t with
      wdog := 0, epc := (seqOf s t).pc.setWidth 64, ecause := 6, eval := BitVec.ofNat 64 (seqOf s t).wdog, exl := true
      pc := (seqOf s t).evec.setWidth 16 } (bumpFld (Reg.tsFcnt t) Fld.tsFcntWdcnt (bumpFld (Reg.tsFcnt t) Fld.tsFcntExccnt s)) := by
  obtain ⟨hx, he⟩ := hh
  have hseq : seqOf (bumpFld (Reg.tsFcnt t) Fld.tsFcntWdcnt (bumpFld (Reg.tsFcnt t) Fld.tsFcntExccnt s)) t = seqOf s t := by
    rw [seqOf_bumpFld, seqOf_bumpFld]
  rw [raiseWdog, raiseExc]
  dsimp only
  rw [if_pos rfl]
  generalize bumpFld (Reg.tsFcnt t) Fld.tsFcntWdcnt (bumpFld (Reg.tsFcnt t) Fld.tsFcntExccnt s) = v at hseq ⊢
  rw [seqOf_modSeq, hseq, if_pos ⟨hx, he⟩, modSeq_modSeq, modSeq_eq_withSeq, hseq, stepDone_of_no_step]
  · rfl
  · rw [seqOf_withSeq]
    exact hs

theorem withSeq_latch_timer (t : Tid) (s : State) : setEvent t evTimer (modSeq t (fun q => { q with timer := 0 }) s)
    = withSeq t { seqOf s t with timer := 0, latched := (seqOf s t).latched ||| 0x200 } s := by
  rw [setEvent_eq_modSeq, modSeq_modSeq, modSeq_eq_withSeq]
  rfl

/-- Settles O13: the three register instructions by the registers they name; halting through `haltSeq`, which Puppeteer's waiting start
may follow at once. -/
theorem specialRegisters : Obligations.SpecialRegisters := by
  refine ⟨fun t rd ra imm s => ⟨fun hat => ?_, fun hat => ?_, fun hat => ?_⟩, fun t rd ra imm s => ⟨fun hat => ?_, fun hat hnone => ?_,
    fun hhalt hact hnone => ?_⟩, fun t s => ⟨fun htimer => ?_, fun hst hlimit hdue hstep hh => ?_⟩⟩
  · exact exec_of_local hat rfl rfl rfl
  · refine ⟨_, exec_mfs hat, ?_⟩
    have hbits (n : Nat) (hn : n < 64) := getLsbD_evp (tpOf s t) hn
    refine ⟨?_, ?_, ?_, ?_, ?_, ?_, ?_, ?_, ?_, ?_, ?_, ?_, ?_, ?_, ?_, ?_, ?_, ?_⟩
    all_goals rintro rfl
    · show (BitVec.ofNat 64 t.val).toNat = t.val
      have := t.isLt
      rw [BitVec.toNat_ofNat, Nat.mod_eq_of_lt (by omega)]
    · rfl
    · rfl
    · intro n hn
      refine (hbits n (by omega)).trans ?_
      rw [decide_eq_true hn, getLsbD_latchedEvents n (by omega), decide_eq_false (by omega)]
      simp
    · intro n hn
      refine (hbits n (by omega)).trans ?_
      rw [getLsbD_latchedEvents n (by omega), decide_eq_true hn, decide_eq_false (show ¬n < 9 by omega)]
      simp [seqOf]
    · intro n hn
      by_cases h64 : n < 64
      · refine (hbits n h64).trans ?_
        rw [getLsbD_latchedEvents n h64, decide_eq_false (show ¬n < 9 by omega),
          decide_eq_false (show ¬((9 ≤ n ∧ n < 20) ∨ (24 ≤ n ∧ n < 40)) by omega)]
        simp
      · exact BitVec.getLsbD_of_ge _ _ (by omega)
    · rfl
    · rfl
    · rfl
    · rfl
    · rfl
    · rfl
    · rfl
    · exact ⟨_, rfl, openQuot_bounds _⟩
    · rfl
    · rfl
    · exact version_fmtid _ _
    · rfl
  · rw [exec_mts hat, writeSr_of_legal]
  · obtain ⟨u, hrun, l, n, k, hseq⟩ := runInstr_halt hat
    obtain ⟨hg, hstands⟩ := seqOf_haltSeq_cases t u
    rw [hseq] at hg hstands
    refine ⟨haltSeq t u, ?_, hg, hstands⟩
    have hrow := seqRow_cases t (runInstr t (.imm .halt rd ra imm)) s
    rw [hrun] at hrow
    exact hrow.imp (congrArg Host.Outcome.next) (congrArg Host.Outcome.next)
  · obtain ⟨u, hrun, l, n, k, hseq⟩ := runInstr_halt hat
    have hstill : seqOf (haltSeq t u) t = haltedSeq (seqOf u t) :=
      congrArg Tp.seq (tpOf_haltSeq_of_none (t := t) (s := u) (by rw [hseq]; exact hnone))
    refine ⟨_, exec_of_halted hrun (by rw [hstill]; rfl), ?_, ?_, ?_⟩ <;> rw [hstill, hseq] <;> rfl
  · have htp := tpOf_haltSeq_of_none hnone
    have hstill : seqOf (haltSeq t s) t = haltedSeq (seqOf s t) := congrArg Tp.seq htp
    have hop : haltTakeOp t s = haltSeq t s := if_pos ⟨hhalt, seqActive_iff.mpr hact⟩
    have hrow : exec (.haltTake t) s = .next (settleHost (haltSeq t s)) := by
      rw [exec_haltTake, seqRow, hop]
      exact congrArg _ (if_neg (by simp [seqActive, hstill, haltedSeq]))
    refine ⟨_, hrow, ?_, ?_, ?_, ?_, ?_, fun n => ?_, fun n m hn hm hbit => ?_⟩
    · rw [hstill]; rfl
    · rw [hstill]; rfl
    · rw [hstill]; rfl
    · rw [hstill]; rfl
    · rw [hstill]; rfl
    · rw [htp]; rfl
    · rw [seqOf_haltSeq_ne hn, barLeft, hm]
      dsimp only
      rw [if_pos ⟨hn, by rw [bitOf_toNat, hbit]⟩]
  · refine congrArg Host.Outcome.next ?_
    rw [timerExpiryOp, if_neg htimer, withSeq_latch_timer]
  · have hwdog : wdogDue s t = true := by simp [wdogDue, hlimit, hdue]
    have hop : watchdogOp t s = raiseWdog t s := if_pos ⟨hst, hwdog⟩
    rw [raiseWdog_of_handler hh hstep] at hop
    refine congrArg Host.Outcome.next ((seqRow_of_active ?_).trans hop)
    rw [hop, seqOf_withSeq]
    exact seqActive_of_running hst

end Sys2Proof.Machine
end

section
/-! Descriptors that end on the ports (R44, R45): what the end of one does to the open descriptors of a slice, and the operations of other
blocks whose only effect on the slices is that descriptors end: Toybox's answers, records that become sealed, datasets that close. -/
namespace Sys2Proof.Machine
open Sys2Proof.Safety

/-! ### One descriptor ends on a port -/

theorem mem_of_mem_portFlush {l : List Slot} {z : Slot} (h : z ∈ (portFlush l).1) : z ∈ l := by
  induction l with
  | nil => simp [portFlush] at h
  | cons x r ih =>
    unfold portFlush at h
    split at h
    · exact h
    · exact List.mem_cons_of_mem _ (ih h)

theorem mem_portFlush_of_open {l : List Slot} {z : Slot} (h : z ∈ l) (hz : z.fin = none) : z ∈ (portFlush l).1 := by
  induction l with
  | nil => cases h
  | cons x r ih =>
    unfold portFlush
    split
    · exact h
    · next st v hfin =>
      rcases List.mem_cons.mp h with rfl | hr
      · rw [hz] at hfin
        cases hfin
      · exact ih hr

/-- The slots of an in-order port before its finished ones leave it. -/
def markFinished (ticket : BitVec 16) (st : BitVec 8) (val : W32) (l : List Slot) : List Slot :=
  l.map (fun y => if y.ticket == ticket then { y with fin := some (st, val), started := true } else y)

theorem mem_markFinished {k : BitVec 16} {st : BitVec 8} {v : W32} {l : List Slot} {z : Slot} (h : z ∈ markFinished k st v l) :
    (z ∈ l ∧ z.ticket ≠ k) ∨ (z.fin ≠ none ∧ z.started = true) := by
  obtain ⟨y, hy, hyz⟩ := List.mem_map.mp h
  split at hyz
  · subst hyz
    exact Or.inr ⟨by simp, rfl⟩
  · next hk =>
    subst hyz
    exact Or.inl ⟨hy, by simpa using hk⟩

theorem mem_markFinished_of_ne {k : BitVec 16} {z : Slot} (st : BitVec 8) (v : W32) {l : List Slot} (h : z ∈ l) (hk : z.ticket ≠ k) :
    z ∈ markFinished k st v l :=
  List.mem_map.mpr ⟨z, h, if_neg (by simpa using hk)⟩

/-- A slot that a port holds after the end of a descriptor is another one, or has ended itself. -/
theorem mem_portFinish {n : Nat} {k : BitVec 16} {st : BitVec 8} {v : W32} {p : Port} {z : Slot}
    (h : z ∈ (portFinish n k st v p).slots) : (z ∈ p.slots ∧ z.ticket ≠ k) ∨ (z.fin ≠ none ∧ z.started = true) := by
  have hfilter {z : Slot} (hz : z ∈ p.slots.filter (fun y => y.ticket != k)) : z ∈ p.slots ∧ z.ticket ≠ k := by
    simpa using hz
  unfold portFinish at h
  split at h
  · next hnone =>
    refine Or.inl ⟨h, fun hk => ?_⟩
    simpa [hk] using List.find?_eq_none.mp hnone z h
  · split at h
    · dsimp only at h
      split at h
      · exact Or.inl (hfilter h)
      · exact Or.inl (hfilter (mem_of_mem_portFlush h))
    · split at h
      · exact Or.inl (hfilter h)
      · exact mem_markFinished (mem_of_mem_portFlush h)

/-- An open descriptor with another ticket stays. -/
theorem mem_portFinish_of_ne {n : Nat} {k : BitVec 16} {p : Port} {z : Slot} (st : BitVec 8) (v : W32) (h : z ∈ p.slots)
    (hopen : z.fin = none) (hk : z.ticket ≠ k) : z ∈ (portFinish n k st v p).slots := by
  have hfilter : z ∈ p.slots.filter (fun y => y.ticket != k) := List.mem_filter.mpr ⟨h, by simpa using hk⟩
  unfold portFinish
  split
  · exact h
  · split
    · dsimp only
      split
      · exact hfilter
      · exact mem_portFlush_of_open hfilter hopen
    · split
      · exact hfilter
      · exact mem_portFlush_of_open (mem_markFinished_of_ne st v h hk) hopen

theorem mem_portOpen {p : Port} {z : Slot} : z ∈ portOpen p ↔ z ∈ p.slots ∧ z.fin = none := by
  simp [portOpen]

/-- An open descriptor after the end of one was open before, and is another. -/
theorem mem_portOpen_portFinish {n : Nat} {k : BitVec 16} {st : BitVec 8} {v : W32} {p : Port} {z : Slot}
    (h : z ∈ portOpen (portFinish n k st v p)) : z ∈ portOpen p ∧ z.ticket ≠ k := by
  obtain ⟨hz, hopen⟩ := mem_portOpen.mp h
  rcases mem_portFinish hz with ⟨hmem, hk⟩ | ⟨hfin, -⟩
  · exact ⟨mem_portOpen.mpr ⟨hmem, hopen⟩, hk⟩
  · exact absurd hopen hfin

/-! ### Puppeteer's starts leave the descriptors -/

theorem slots_setPort {m n : Nat} (hm : m < 9) (hn : n < 9) (p : Port) (x : Tp) :
    (portOf (setPort m p x) n).slots = if n = m then p.slots else (portOf x n).slots := by
  split
  · next h => rw [h, portOf_setPort]
  · next h => rw [portOf_setPort_ne m n _ _ (by omega) (by omega) h]

theorem slots_zeroTickets {n : Nat} (hn : n < 9) (x : Tp) : (portOf (zeroTickets x) n).slots = (portOf x n).slots := by
  have hfold (l : List Nat) (hl : ∀ m ∈ l, m < 9) (x : Tp) :
      (portOf (l.foldl (fun y m => setPort m { portOf y m with nextTicket := 0 } y) x) n).slots = (portOf x n).slots := by
    induction l generalizing x with
    | nil => rfl
    | cons m l ih =>
      obtain ⟨hm, hl⟩ := List.forall_mem_cons.mp hl
      rw [List.foldl_cons, ih hl, slots_setPort hm hn]
      split
      · next h => rw [h]
      · rfl
  exact hfold (List.range 9) (fun m hm => List.mem_range.mp hm) x

theorem slots_reinstallWhenDone {n : Nat} (hn : n < 9) (x : Tp) : (portOf (reinstallWhenDone x) n).slots = (portOf x n).slots := by
  unfold reinstallWhenDone
  split
  · exact slots_zeroTickets hn x
  · rfl

theorem portOf_startWhenDone (x : Tp) (n : Nat) : portOf (startWhenDone x) n = portOf x n := by
  unfold startWhenDone
  split
  · rfl
  · split
    · rfl
    · split <;> rfl
    · rfl

/-- The open descriptors of port n of slice t. -/
def opens (t : Tid) (n : Nat) (s : State) : List Slot := portOpen (portOf (tpOf s t) n)

theorem portOpen_of_slots {p q : Port} (h : p.slots = q.slots) : portOpen p = portOpen q := by rw [portOpen, h, portOpen]

theorem opens_finish_self {t : Tid} {m n : Nat} (hm : m < 9) (hn : n < 9) (k : BitVec 16) (st : BitVec 8) (v : W32) (s : State) :
    opens t n (finish t m k st v s) = portOpen (if n = m then portFinish m k st v (portOf (tpOf s t) m) else portOf (tpOf s t) n) := by
  rw [opens, finish, tpOf_modTp, portOf_startWhenDone]
  refine portOpen_of_slots ?_
  rw [slots_reinstallWhenDone hn, slots_setPort hm hn]
  split <;> rfl

/-- The end of a descriptor leaves no open descriptor that was not open, and not its own. -/
theorem mem_opens_finish {t u : Tid} {m n : Nat} (hm : m < 9) (hn : n < 9) {k : BitVec 16} {st : BitVec 8} {v : W32} {s : State} {z : Slot}
    (h : z ∈ opens t n (finish u m k st v s)) : z ∈ opens t n s ∧ (u = t → n = m → z.ticket ≠ k) := by
  by_cases hu : t = u
  · subst hu
    rw [opens_finish_self hm hn] at h
    split at h
    · next hnm =>
      obtain ⟨hz, hk⟩ := mem_portOpen_portFinish h
      exact ⟨hnm ▸ hz, fun _ _ => hk⟩
    · next hnm => exact ⟨h, fun _ he => absurd he hnm⟩
  · have htp : tpOf (finish u m k st v s) t = tpOf s t := tpOf_modTp_ne u t _ s hu
    rw [opens, htp] at h
    exact ⟨h, fun he => absurd he.symm hu⟩

theorem opens_of_courses {s u : State} {t : Tid} (h : courses u t = courses s t) (n : Nat) : opens t n u = opens t n s := by
  rw [opens, portOf_of_courses h, opens]

/-! ### Operations under which descriptors end on ASM or TBX -/

/-- The slices of u come from those of s by descriptors that end on port 1 or port 7. -/
inductive Ends : State → State → Prop
  | of_tp {s u : State} : u.tp = s.tp → Ends s u
  | step {s u w : State} (t : Tid) (n : Nat) (k : BitVec 16) (st : BitVec 8) (v : W32) :
      Ends s u → n = 1 ∨ n = 7 → w.tp = (finish t n k st v u).tp → Ends s w

theorem Ends.refl (s : State) : Ends s s := .of_tp rfl

theorem Ends.trans {s u w : State} (h : Ends s u) (h' : Ends u w) : Ends s w := by
  induction h' with
  | of_tp hc =>
    cases h with
    | of_tp hs => exact .of_tp (hc.trans hs)
    | step t n k st v hsu hn hu => exact .step t n k st v hsu hn (hc.trans hu)
  | step t n k st v _ hn hw ih => exact .step t n k st v ih hn hw

theorem Ends.after {s u w : State} (h : Ends u w) (hu : u.tp = s.tp) : Ends s w := (Ends.of_tp hu).trans h

/-- A property that changes of the other blocks keep, and the ends of descriptors on ASM and TBX, holds on. -/
theorem Ends.keeps {I : State → Prop} (hsame : ∀ s u, u.tp = s.tp → I s → I u)
    (hfinish : ∀ s t n k st v, n = 1 ∨ n = 7 → I s → I (finish t n k st v s)) {s u : State} (h : Ends s u) (hs : I s) : I u := by
  induction h with
  | of_tp hc => exact hsame _ _ hc hs
  | step t n k st v _ hn hw ih => exact hsame _ _ hw (hfinish _ t n k st v hn ih)

theorem Ends.finish (t : Tid) {n : Nat} (hn : n = 1 ∨ n = 7) (k : BitVec 16) (st : BitVec 8) (v : W32) (s : State) :
    Ends s (finish t n k st v s) := .step t n k st v (.refl s) hn rfl

theorem Ends.forAll {α : Type} {f : α → State → State} (h : ∀ a s, Ends s (f a s)) (l : List α) (s : State) : Ends s (forAll l f s) := by
  induction l generalizing s with
  | nil => exact .refl s
  | cons a l ih => exact (h a s).trans (ih (f a s))

/-! ### Toybox's answers (R188-R193) -/

theorem ends_tbxAnswer (w : Waiter) (st : BitVec 8) (v : W32) (s : State) : Ends s (tbxAnswer w st v s) := by
  unfold tbxAnswer
  split
  · exact .finish _ (Or.inr rfl) _ _ _ _
  · dsimp only
    split
    · exact .of_tp rfl
    · exact .of_tp (logFault_tp _ _ _ _ _ _)

@[simp] theorem tbxError_tp (f : Fld) (agent : Nat) (tok : W32) (s : State) : (tbxError f agent tok s).tp = s.tp := by
  simp [tbxError]

theorem ends_giveBuffer (w : Waiter) (id : Nat) (s : State) : Ends s (giveBuffer w id s) := by
  rw [giveBuffer_eq]
  exact (ends_tbxAnswer _ _ _ _).after rfl

theorem ends_takeBuffer (w : Waiter) (c : Nat) (s : State) : Ends s (takeBuffer w c s) := by
  rw [takeBuffer_eq]
  exact (ends_giveBuffer _ _ _).after rfl

theorem ends_serveList (c : Nat) (l kept : List Waiter) (s : State) : Ends s (serveList c l kept s) := by
  induction l generalizing kept s with
  | nil => exact .of_tp rfl
  | cons w r ih =>
    unfold serveList
    split
    · exact (ends_takeBuffer w c s).trans (ih _ _)
    · exact ih _ _

theorem ends_handOver (c id : Nat) (s : State) : Ends s (handOver c id s) := by
  unfold handOver
  split
  · split
    · exact (ends_giveBuffer _ _ _).after rfl
    · exact .refl s
  · exact .refl s

theorem dropRef_tp (agent id : Nat) (s : State) : (dropRef agent id s).tp = s.tp := by
  rw [dropRef_eq]
  rfl

theorem ends_tbxReleaseOp (w : Waiter) (tok : W32) (s : State) : Ends s (tbxReleaseOp w tok s) := by
  have hrefused (f : Fld) (st : BitVec 8) : Ends s (tbxAnswer w st 0 (tbxError f w.agent tok s)) :=
    (Ends.of_tp (tbxError_tp f w.agent tok s)).trans (ends_tbxAnswer _ _ _ _)
  unfold tbxReleaseOp
  split
  · exact hrefused _ _
  · dsimp only
    split
    · exact hrefused _ _
    · split
      · exact hrefused _ _
      · exact (((Ends.of_tp (dropRef_tp _ _ s)).trans (ends_tbxAnswer _ _ _ _)).trans (ends_handOver _ _ _)).trans
          (ends_serveList _ _ _ _)

theorem ends_releaseFor (port agent : Nat) (tok : W32) (s : State) : Ends s (releaseFor port agent tok s) :=
  (ends_tbxReleaseOp _ tok s).trans (.of_tp rfl)

/-! ### Records that become sealed, datasets that close (R71, R72) -/

theorem ends_dropInput (scid : Nat) (seq : W32) (s : State) : Ends s (dropInput scid seq s) := by
  unfold dropInput
  split
  · exact .refl s
  · split
    · exact (Ends.forAll (fun (b : W32 × Nat) s => ends_releaseFor 0 0 b.1 s) _ s).trans (.of_tp (modRec_tp _ _ _ _))
    · exact .refl s

theorem ends_sealRec (scid : Nat) (seq : W32) (s : State) : Ends s (sealRec scid seq s) := by
  unfold sealRec
  split
  · exact .refl s
  · split
    · exact .refl s
    · split
      · exact .refl s
      · exact ((Ends.of_tp (modRec_tp _ _ _ s)).trans (ends_dropInput _ _ _)).trans (.of_tp (modStream_tp _ _ _))

@[simp] theorem flipHbm_tp (a : Nat) (s : State) : (flipHbm a s).tp = s.tp := by
  unfold flipHbm
  split <;> rfl

@[simp] theorem hbmPut_tp (a : Nat) (l : List Byte) (s : State) : (hbmPut a l s).tp = s.tp := by
  unfold hbmPut
  split
  · rfl
  · exact flipHbm_tp _ _

@[simp] theorem bufPut_tp (tok : W32) (off : Nat) (l : List Byte) (s : State) : (bufPut tok off l s).tp = s.tp := hbmPut_tp _ _ s

@[simp] theorem hbmZero_tp (a n : Nat) (s : State) : (hbmZero a n s).tp = s.tp := by
  unfold hbmZero
  split
  · rfl
  · exact flipHbm_tp _ _

/-- A dataset that closes: the assembler is empty, and then records become sealed and descriptors end. -/
theorem ends_closeDataset (t : Tid) (reason : Nat) (s : State) :
    ∃ v, Ends v (closeDataset t reason s) ∧ courses v = courses s ∧ (tpOf v t).asm.opn = none := by
  unfold closeDataset
  split
  · next hnone => exact ⟨s, .refl s, rfl, hnone⟩
  · dsimp only
    refine ⟨_, (Ends.forAll (fun (r : RecRef) s => ends_sealRec r.scid.toNat r.seq s) _ _).trans (.finish t (Or.inl rfl) _ _ _ _), ?_, ?_⟩
    · refine (courses_modTp (fun _ => ?_) _ _).trans ?_
      · rfl
      exact courses_of_tp ((hbmZero_tp _ _ _).trans (bufPut_tp _ _ _ s))
    · rw [tpOf_modTp]

/-! ### Puppeteer's motion commands and the fault events of a sequencer -/

theorem courses_modMot (t : Tid) (f : Mot → Mot) (s : State) : courses (modMot t f s) = courses s :=
  courses_modTp (f := fun x => { x with mot := f x.mot }) (fun _ => rfl) t s

theorem courses_nextPup (t : Tid) (s : State) : courses (nextPup t s) = courses s := by
  refine courses_modTp (fun x => ?_) t s
  split
  · dsimp only
    split
    · rfl
    · split
      · rfl
      · split <;> rfl
  · rfl

theorem courses_commandStop (t : Tid) (s : State) : courses (commandStop t s) = courses s :=
  (courses_nextPup t _).trans (courses_modMot t _ s)

theorem unitClass_seq (t : Tid) : unitClass (unitId 10 t.val) = 10 := by
  fin_cases t <;> rfl

theorem courses_retireUnit_seq {u : BitVec 16} (hu : unitClass u = 10) (s : State) : courses (retireUnit u s) = courses s := by
  unfold retireUnit
  rw [hu]
  refine (courses_disableWrites _ 3 _).trans ((courses_modTp (f := fun x => { x with seqDis := true }) (fun _ => rfl) _ _).trans ?_)
  exact courses_of_tp (markRetired_tp u s)

theorem courses_permanent_seq {u : BitVec 16} (hu : unitClass u = 10) (code win : Nat) (d : W64) (s : State) :
    courses (permanent u code win d s) = courses s :=
  (courses_retireUnit_seq hu _).trans (courses_of_tp (by simp))

theorem courses_escalate_seq {u : BitVec 16} (hu : unitClass u = 10) (code : Nat) (d : W64) (s : State) :
    courses (escalate u code d s) = courses s := by
  unfold escalate
  dsimp only
  split
  · exact (courses_permanent_seq hu _ _ _ _).trans (courses_of_tp (by simp))
  · exact courses_of_tp (by simp)

theorem countEvent_tp (u : BitVec 16) (s : State) : (countEvent u s).tp = s.tp := by simp [countEvent]

theorem courses_faultEvent_seq {u : BitVec 16} (hu : unitClass u = 10) (code : Nat) (d : W64) (s : State) :
    courses (faultEvent u code d s) = courses s := by
  unfold faultEvent
  dsimp only
  split
  · exact courses_of_tp ((logFault_tp _ _ _ _ _ _).trans (countEvent_tp u s))
  · exact (courses_escalate_seq hu code d _).trans (courses_of_tp (countEvent_tp u s))

end Sys2Proof.Machine
end

section
/-! The queues flushed and the sequencer that fails (R55, R57, R324): no unstarted descriptor is left, those started run on, and the
failed sequencer keeps its registers while one of them does. -/
namespace Sys2Proof.Machine
open Sys2Proof.Safety

/-! ### Flushed queues -/

/-- Every unstarted descriptor of one port ends FLUSHED. -/
def flushPort (t : Tid) (n : Nat) (s : State) : State :=
  forAll ((opens t n s).filter (fun y => !y.started)) (fun y => finish t n y.ticket stFlushed 0) s

theorem flushQueues_eq (t : Tid) (s : State) : flushQueues t s = closeDataset t 3 (forAll (List.range 9) (flushPort t) s) := rfl

/-- A property that holds while each of some actions runs, holds after all of them. -/
theorem forAll_holds {α : Type} {P : State → Prop} {f : α → State → State} {l : List α} (h : ∀ a ∈ l, ∀ s, P s → P (f a s)) {s : State}
    (hs : P s) : P (forAll l f s) := by
  induction l generalizing s with
  | nil => exact hs
  | cons a l ih => exact ih (fun b hb => h b (List.mem_cons_of_mem _ hb)) (h a List.mem_cons_self s hs)

theorem mem_opens_ends {s u : State} (h : Ends s u) (t : Tid) {n : Nat} (hn : n < 9) {z : Slot} (hz : z ∈ opens t n u) : z ∈ opens t n s := by
  refine Ends.keeps (I := fun w => ∀ z, z ∈ opens t n w → z ∈ opens t n s) (fun a b hc hI z hz => ?_)
    (fun a v m k st val hm hI z hz => ?_) h (fun z hz => hz) z hz
  · rw [opens_of_courses (congrFun (courses_of_tp hc) t)] at hz
    exact hI z hz
  · exact hI z (mem_opens_finish (by omega) hn hz).1

theorem mem_opens_flushPort {t : Tid} {m n : Nat} (hm : m < 9) (hn : n < 9) {s : State} {z : Slot} (h : z ∈ opens t n (flushPort t m s)) :
    z ∈ opens t n s ∧ (n = m → z.started = true) := by
  have hends (l : List Slot) (s : State) (h : z ∈ opens t n (forAll l (fun y => finish t m y.ticket stFlushed 0) s)) :
      z ∈ opens t n s ∧ (n = m → ∀ y ∈ l, z.ticket ≠ y.ticket) := by
    induction l generalizing s with
    | nil => exact ⟨h, fun _ _ hy => by cases hy⟩
    | cons a l ih =>
      obtain ⟨hz, hl⟩ := ih _ h
      obtain ⟨hz, ha⟩ := mem_opens_finish hm hn hz
      exact ⟨hz, fun he => List.forall_mem_cons.mpr ⟨ha rfl he, hl he⟩⟩
  obtain ⟨hz, hne⟩ := hends _ s h
  refine ⟨hz, fun he => ?_⟩
  subst he
  by_contra hns
  exact hne rfl z (List.mem_filter.mpr ⟨hz, by simpa using hns⟩) rfl

theorem mem_opens_flushPorts {t : Tid} {l : List Nat} (hl : ∀ m ∈ l, m < 9) {n : Nat} (hn : n < 9) {s : State} {z : Slot}
    (h : z ∈ opens t n (forAll l (flushPort t) s)) : z ∈ opens t n s ∧ (n ∈ l → z.started = true) := by
  induction l generalizing s with
  | nil => exact ⟨h, fun hn => by cases hn⟩
  | cons m l ih =>
    obtain ⟨hm, hl⟩ := List.forall_mem_cons.mp hl
    obtain ⟨hz, hstarted⟩ := ih hl h
    obtain ⟨hz, hm⟩ := mem_opens_flushPort hm hn hz
    refine ⟨hz, fun hmem => ?_⟩
    rcases List.mem_cons.mp hmem with rfl | hmem
    · exact hm rfl
    · exact hstarted hmem

/-- No unstarted descriptor is left after FLUSHQ (R324). -/
theorem started_of_mem_opens_flushQueues {t : Tid} {n : Nat} (hn : n < 9) {s : State} {z : Slot} (h : z ∈ opens t n (flushQueues t s)) :
    z.started = true := by
  rw [flushQueues_eq] at h
  obtain ⟨v, hends, hcourses, -⟩ := ends_closeDataset t 3 (forAll (List.range 9) (flushPort t) s)
  have hz := mem_opens_ends hends t hn h
  rw [opens_of_courses (congrFun hcourses t)] at hz
  exact (mem_opens_flushPorts (fun m hm => List.mem_range.mp hm) hn hz).2 (List.mem_range.mpr hn)

/-! ### A failed sequencer while a started descriptor runs on -/

theorem setPort_seq (n : Nat) (p : Port) (x : Tp) : (setPort n p x).seq = x.seq := by
  unfold setPort
  split <;> rfl

theorem setPort_reinstall (n : Nat) (p : Port) (x : Tp) : (setPort n p x).reinstall = x.reinstall := by
  unfold setPort
  split <;> rfl

theorem reinstallWhenDone_of_false {x : Tp} (h : x.reinstall = false) : reinstallWhenDone x = x := by
  unfold reinstallWhenDone
  rw [h]
  exact if_neg (by simp)

theorem startWhenDone_of_failed {x : Tp} (h : x.seq.st = .failed) : startWhenDone x = x := by
  unfold startWhenDone
  split
  · rfl
  · rw [h]

/-- Sequencer t stands failed as q says, but for the events latched, and the descriptor y of its ENC port runs on. -/
structure RunsOn (t : Tid) (q : Seq) (y : Slot) (s : State) : Prop where
  failed : q.st = .failed
  seq : { seqOf s t with latched := 0 } = { q with latched := 0 }
  left : (tpOf s t).reinstall = false
  open_ : y ∈ opens t 2 s
  started : ∀ z ∈ (portOf (tpOf s t) 2).slots, z.ticket = y.ticket → z.started = true

theorem RunsOn.of_courses {t : Tid} {q : Seq} {y : Slot} {s u : State} (h : RunsOn t q y s) (hc : courses u t = courses s t) :
    RunsOn t q y u :=
  ⟨h.failed, (congrArg Prod.fst hc).trans h.seq, (reinstall_of_courses hc).trans h.left, (opens_of_courses hc 2).symm ▸ h.open_,
    (portOf_of_courses hc 2).symm ▸ h.started⟩

/-- The end of another descriptor leaves the failed sequencer as it is. -/
theorem RunsOn.finish {t : Tid} {q : Seq} {y : Slot} {s : State} (h : RunsOn t q y s) (u : Tid) {n : Nat} (hn : n < 9) (k : BitVec 16)
    (st : BitVec 8) (v : W32) (hk : u = t → n = 2 → k ≠ y.ticket) : RunsOn t q y (finish u n k st v s) := by
  by_cases hu : t = u
  · subst hu
    have hst : (seqOf s t).st = .failed := (congrArg Seq.st h.seq).trans h.failed
    have htp : tpOf (Machine.finish t n k st v s) t = setPort n (portFinish n k st v (portOf (tpOf s t) n)) (tpOf s t) := by
      rw [Machine.finish, tpOf_modTp, reinstallWhenDone_of_false, startWhenDone_of_failed]
      · rw [setPort_seq]; exact hst
      · rw [setPort_reinstall]; exact h.left
    have hslots : (portOf (tpOf (Machine.finish t n k st v s) t) 2).slots
        = if 2 = n then (portFinish n k st v (portOf (tpOf s t) n)).slots else (portOf (tpOf s t) 2).slots := by
      rw [htp, slots_setPort hn (by decide)]
    obtain ⟨hy, hopen⟩ := mem_portOpen.mp h.open_
    refine ⟨h.failed, ?_, ?_, mem_portOpen.mpr ⟨?_, hopen⟩, ?_⟩
    · rw [seqOf, htp, setPort_seq]; exact h.seq
    · rw [htp, setPort_reinstall]; exact h.left
    · rw [hslots]
      split
      · next hn2 => subst hn2; exact mem_portFinish_of_ne st v hy hopen (hk rfl rfl).symm
      · exact hy
    · rw [hslots]
      split
      · next hn2 =>
        subst hn2
        intro z hz hzk
        rcases mem_portFinish hz with ⟨hz, -⟩ | ⟨-, hz⟩
        · exact h.started z hz hzk
        · exact hz
      · exact h.started
  · refine h.of_courses ?_
    rw [courses, Machine.finish, tpOf_modTp_ne u t _ s hu, courses]

theorem RunsOn.ends {t : Tid} {q : Seq} {y : Slot} {s u : State} (h : RunsOn t q y s) (he : Ends s u) : RunsOn t q y u :=
  he.keeps (fun _ _ hc h => h.of_courses (congrFun (courses_of_tp hc) t)) (fun _ v _ k st val hn h => h.finish v (by omega) k st val (by omega)) h

theorem RunsOn.flushPort {t : Tid} {q : Seq} {y : Slot} {s : State} (h : RunsOn t q y s) {n : Nat} (hn : n < 9) :
    RunsOn t q y (flushPort t n s) := by
  refine forAll_holds (fun z hz s hs => hs.finish t hn z.ticket stFlushed 0 (fun _ hn2 hzy => ?_)) h
  subst hn2
  obtain ⟨hz, hns⟩ := List.mem_filter.mp hz
  rw [h.started z (mem_portOpen.mp hz).1 hzy] at hns
  cases hns

theorem RunsOn.flushQueues {t : Tid} {q : Seq} {y : Slot} {s : State} (h : RunsOn t q y s) : RunsOn t q y (flushQueues t s) := by
  rw [flushQueues_eq]
  obtain ⟨v, hends, hcourses, -⟩ := ends_closeDataset t 3 (forAll (List.range 9) (Machine.flushPort t) s)
  have hports : RunsOn t q y (forAll (List.range 9) (Machine.flushPort t) s) :=
    forAll_holds (fun n hn s hs => hs.flushPort (List.mem_range.mp hn)) h
  exact (hports.of_courses (congrFun hcourses t)).ends hends

/-! ### The exception without a handler (R55, R324) -/

/-- The sequencer that an exception without a handler leaves. -/
def failedSeq (cause : Nat) (eval : W64) (q : Seq) : Seq :=
  { q with st := .failed, wait := .none, haltp := false, step := false, barRes := none, ecause := BitVec.ofNat 6 cause, eval := eval }

theorem fields_of_failedSeq {q r : Seq} {cause : Nat} {eval : W64}
    (h : { q with latched := 0 } = { failedSeq cause eval r with latched := 0 }) : q.st = .failed ∧ q.ecause = BitVec.ofNat 6 cause
      ∧ q.eval = eval ∧ q.pc = r.pc ∧ q.g = r.g ∧ q.d = r.d ∧ q.data = r.data :=
  ⟨(congrArg Seq.st h :), (congrArg Seq.ecause h :), (congrArg Seq.eval h :), (congrArg Seq.pc h :), (congrArg Seq.g h :),
    (congrArg Seq.d h :), (congrArg Seq.data h :)⟩

theorem tpBusy_of_open {x : Tp} {n : Nat} (hn : n < 9) {y : Slot} (h : y ∈ portOpen (portOf x n)) : tpBusy x = true := by
  refine List.any_eq_true.mpr ⟨n, List.mem_range.mpr hn, ?_⟩
  cases hl : portOpen (portOf x n) with
  | nil => rw [hl] at h; cases h
  | cons a l => rfl

/-- The image is not installed again while a descriptor of the sequencer runs on. -/
theorem reinstallWhenDone_of_busy {x : Tp} (h : tpBusy x = true) : reinstallWhenDone x = x := by
  unfold reinstallWhenDone
  exact if_neg (by simp [h])

/-- The failed sequencer and its descriptors, with Puppeteer waiting to install the image. -/
theorem failSeq_of_started {t : Tid} {y : Slot} {s : State} (cause : Nat) (eval : W64) (hleft : (tpOf s t).reinstall = false)
    (hy : y ∈ opens t 2 s) (hstarted : ∀ z ∈ (portOf (tpOf s t) 2).slots, z.ticket = y.ticket → z.started = true) :
    { seqOf (failSeq t cause eval s) t with latched := 0 } = { failedSeq cause eval (seqOf s t) with latched := 0 }
      ∧ y ∈ opens t 2 (failSeq t cause eval s) ∧ ∀ n < 9, ∀ z ∈ opens t n (failSeq t cause eval s), z.started = true := by
  have h₀ : RunsOn t (failedSeq cause eval (seqOf s t)) y (modSeq t (failedSeq cause eval) s) := by
    have htp : tpOf (modSeq t (failedSeq cause eval) s) t = { tpOf s t with seq := failedSeq cause eval (seqOf s t) } := tpOf_modTp _ _ _
    refine ⟨rfl, ?_, ?_, ?_, ?_⟩
    · rw [seqOf_modSeq]
    · rw [htp]; exact hleft
    · rw [opens, htp]; exact hy
    · rw [htp]; exact hstarted
  have h₁ : RunsOn t (failedSeq cause eval (seqOf s t)) y (barLeave t (modSeq t (failedSeq cause eval) s)) := by
    refine h₀.of_courses ?_
    rw [courses, tpOf_barLeave, barLeft_self, courses]
    rfl
  unfold failSeq
  dsimp only
  generalize hs₁ : barLeave t (modSeq t _ s) = s₁
  replace h₁ : RunsOn t (failedSeq cause eval (seqOf s t)) y s₁ := hs₁ ▸ h₁
  generalize BitVec.ofNat 64 _ = d
  have h₂ := (h₁.of_courses (congrFun (courses_faultEvent_seq (unitClass_seq t) cause d s₁) t)).of_courses
    (congrFun (courses_commandStop t _) t)
  have hflushed := fun n hn z => started_of_mem_opens_flushQueues (t := t) (n := n) hn
    (s := commandStop t (faultEvent (unitId 10 t.val) cause d s₁)) (z := z)
  have h₃ := h₂.flushQueues
  generalize flushQueues t _ = s₃ at h₃ hflushed ⊢
  have htp : tpOf (modTp t (fun x => reinstallWhenDone { x with reinstall := true }) s₃) t = { tpOf s₃ t with reinstall := true } := by
    rw [tpOf_modTp]
    exact reinstallWhenDone_of_busy (tpBusy_of_open (n := 2) (by decide) h₃.open_)
  simp only [seqOf, opens, htp]
  exact ⟨h₃.seq, h₃.open_, hflushed⟩

theorem raiseExc_of_no_handler {t : Tid} {s : State} {c : Nat} (hc : c ≠ exWatchdog) (hh : ¬ HasHandler t s) (v : W64) :
    raiseExc t c v s = failSeq t c v (bumpFld (Reg.tsFcnt t) Fld.tsFcntExccnt s) := by
  have hseq := seqOf_bumpFld (Reg.tsFcnt t) Fld.tsFcntExccnt s t
  simp only [raiseExc, if_neg hc, hseq]
  exact if_neg hh

/-- A failed sequencer's row looks at the waiting host commands. -/
theorem exec_of_failed {t : Tid} {i : FInstr} {s u : State} (hrun : runInstr t i s = u) (hst : (seqOf u t).st = .failed) :
    exec (commandOf t i) s = .next (settleHost u) := by
  rw [exec_commandOf, seqRow, hrun]
  exact congrArg _ (if_neg (by simp [seqActive, hst]))

/-- The instruction whose exception nothing handles, while the descriptor y of ENC runs on. -/
theorem exec_of_failSeq {t : Tid} {i : FInstr} {y : Slot} {cause : Nat} {eval : W64} {s s' : State}
    (hrun : runInstr t i s = failSeq t cause eval s') (htp : tpOf s' t = tpOf s t) (hleft : (tpOf s t).reinstall = false)
    (hy : y ∈ portOpen (portOf (tpOf s t) 2)) (hstarted : ∀ z ∈ (portOf (tpOf s t) 2).slots, z.ticket = y.ticket → z.started = true) :
    ∃ u : State, exec (commandOf t i) s = .next (settleHost u) ∧ (seqOf u t).st = .failed ∧ (seqOf u t).ecause = BitVec.ofNat 6 cause
      ∧ (seqOf u t).eval = eval ∧ (seqOf u t).pc = (seqOf s t).pc
      ∧ (seqOf u t).g = (seqOf s t).g ∧ (seqOf u t).d = (seqOf s t).d ∧ (seqOf u t).data = (seqOf s t).data
      ∧ y ∈ portOpen (portOf (tpOf u t) 2) ∧ ∀ n, n < 9 → ∀ z ∈ portOpen (portOf (tpOf u t) n), z.started = true := by
  rw [← htp] at hleft hy hstarted
  obtain ⟨hseq, hopen, hall⟩ := failSeq_of_started cause eval hleft hy hstarted
  obtain ⟨hst, hcause, heval, hpc, hg, hd, hdata⟩ := fields_of_failedSeq hseq
  rw [show seqOf s' t = seqOf s t from congrArg Tp.seq htp] at hpc hg hd hdata
  exact ⟨_, exec_of_failed hrun hst, hst, hcause, heval, hpc, hg, hd, hdata, hopen, hall⟩

theorem exec_brk {t : Tid} {rd ra : BitVec 5} {imm : BitVec 16} {s : State} (h : AtInstr t (.imm .brk rd ra imm) s)
    (hh : HasHandler t s) : exec (.brk t rd ra imm) s = .next (entered t 7 0 s) :=
  exec_of_exception (i := .imm .brk rd ra imm) h hh (show exBreak ≠ exWatchdog by decide) rfl

theorem exec_eret {t : Tid} {rd ra : BitVec 5} {imm : BitVec 16} {s : State} (h : AtInstr t (.imm .eret rd ra imm) s)
    (hexl : (seqOf s t).exl = true) (hepc : (seqOf s t).epc.toNat < (seqOf s t).codeSize) :
    exec (.eret t rd ra imm) s
      = .next (withSeq t (retired ((seqOf s t).epc.setWidth 16) 1 { seqOf s t with exl := false }) s) := by
  have hl : fLocal (.imm .eret rd ra imm) (seqOf s t)
      = some (.ok { seqOf s t with exl := false, pc := (seqOf s t).epc.setWidth 16 } 1) := by
    show some (if (seqOf s t).exl then _ else _) = _
    rw [if_pos hexl, fJump_of_inside (q := { seqOf s t with exl := false }) hepc]
  exact exec_of_local h hl rfl rfl

theorem exec_eret_outside {t : Tid} {rd ra : BitVec 5} {imm : BitVec 16} {s : State} (h : AtInstr t (.imm .eret rd ra imm) s)
    (hh : HasHandler t s) : exec (.eret t rd ra imm) s = .next (entered t 1 ((fetchWord (seqOf s t)).setWidth 64) s) := by
  have hl : fLocal (.imm .eret rd ra imm) (seqOf s t) = some (.exc exIllegal (illegalEval (.imm .eret rd ra imm))) := by
    show some (if (seqOf s t).exl then _ else _) = _
    rw [if_neg (by simp [hh.1])]
    rfl
  rw [illegalEval_of_fFetch (fFetch_of_atInstr h)] at hl
  exact exec_of_exception h hh (show exIllegal ≠ exWatchdog by decide) hl

/-- Settles O12: BRK and ERET by the instruction's own rule; an illegal word by the row's; the failed sequencer by what stays while a
started descriptor of ENC runs on. -/
theorem exceptionsTaken : Obligations.ExceptionsTaken := by
  refine ⟨fun t rd ra imm s => ⟨exec_brk, exec_eret, exec_eret_outside⟩,
    fun t rd ra imm s hb hs hf hh => exec_of_illegal hb hs hh hf (.imm .addi rd ra imm),
    fun t rd ra imm y s hb hf hh hleft hy _ hstarted => ?_⟩
  have hrun := (runInstr_of_illegal hb hf (.imm .addi rd ra imm)).trans
    (raiseExc_of_no_handler (show exIllegal ≠ exWatchdog by decide) hh _)
  exact exec_of_failSeq hrun (by rw [tpOf, bumpFld_tp, tpOf]) hleft hy hstarted

end Sys2Proof.Machine
end

section
/-! Control of a sequencer (R57, R10, R51, R324): TS_CTRL's actions, TS_EVPOST, and the host's writes that DBG_EN denies (R20). -/
namespace Sys2Proof.Machine
open Sys2Proof.Safety

/-! ### What an instruction inside the sequencer leaves -/

/-- A result leaves the state RUNNING or makes it HALTED, and keeps single-step and a start that waits. -/
def KeepsRun (q : Seq) : FRes → Prop
  | .ok r _ => (r.st = q.st ∨ r.st = .halted) ∧ r.step = q.step ∧ r.startPend = q.startPend
  | .exc _ _ => True

theorem putG_run (rd : BitVec 5) (v : W64) (q : Seq) :
    (putG rd v q).st = q.st ∧ (putG rd v q).step = q.step ∧ (putG rd v q).startPend = q.startPend := by
  unfold putG
  split <;> exact ⟨rfl, rfl, rfl⟩

theorem keepsRun_fWrite (rd : BitVec 5) (v : W64) (n : Nat) (q : Seq) : KeepsRun q (fWrite rd v n q) := by
  obtain ⟨hst, hstep, hpend⟩ := putG_run rd v q
  rw [fWrite, gSet_eq_putG]
  exact ⟨Or.inl hst, hstep, hpend⟩

theorem keepsRun_same (q : Seq) {r : Seq} (n : Nat) (h : r.st = q.st ∧ r.step = q.step ∧ r.startPend = q.startPend) :
    KeepsRun q (.ok r n) :=
  ⟨Or.inl h.1, h.2⟩

theorem keepsRun_dSet (n : Nat) (v : BitVec 256) (k : Nat) (q : Seq) : KeepsRun q (.ok (nextPc (dSet n v q)) k) := ⟨Or.inl rfl, rfl, rfl⟩

theorem keepsRun_store (d : SMap Byte) (k : Nat) (q : Seq) : KeepsRun q (.ok (nextPc { q with data := d }) k) := ⟨Or.inl rfl, rfl, rfl⟩

theorem keepsRun_fJump (a : W64) (q : Seq) : KeepsRun q (fJump a q) := by
  unfold fJump
  split
  · exact keepsRun_same q 1 ⟨rfl, rfl, rfl⟩
  · trivial

theorem keepsRun_fLink (rd : BitVec 5) (a : W64) (q : Seq) : KeepsRun q (fLink rd a q) := by
  unfold fLink fJump
  split
  · next h =>
    split at h
    · cases h
      rw [gSet_eq_putG]
      exact keepsRun_same q _ (putG_run rd _ _)
    · cases h
  · trivial

theorem keepsRun_fLocal {i : FInstr} {q : Seq} {x : FRes} (h : fLocal i q = some x) : KeepsRun q x := by
  cases i with
  | reg rd ra rb func => cases h; exact keepsRun_fWrite _ _ _ q
  | branch op ra rb imm =>
    cases h
    unfold fBranch
    split
    · exact keepsRun_fJump _ q
    · exact keepsRun_same q 1 ⟨rfl, rfl, rfl⟩
  | stage => cases h
  | imm op rd ra imm =>
    cases op
    case ld | lw => cases h; unfold fLoad; dsimp only; split; trivial; exact keepsRun_fWrite _ _ _ q
    case st | sw => cases h; unfold fStore; dsimp only; split; trivial; exact keepsRun_store _ _ q
    case dld => cases h; unfold fDld; dsimp only; split; trivial; exact keepsRun_dSet _ _ _ q
    case dst => cases h; unfold fDst; dsimp only; split; trivial; exact keepsRun_store _ _ q
    case jal | jalr => cases h; exact keepsRun_fLink _ _ q
    case eret =>
      cases h
      split
      · split
        · next h => exact h ▸ keepsRun_fJump q.epc { q with exl := false }
        · trivial
      · trivial
    case halt => cases h; exact ⟨Or.inr rfl, rfl, rfl⟩
    case brk => cases h; trivial
    case dins | dclr => cases h; exact keepsRun_dSet _ _ _ q
    case evclr => cases h; exact keepsRun_same q _ ⟨rfl, rfl, rfl⟩
    case wait | post | bar | mfs | mts => cases h
    all_goals cases h; exact keepsRun_fWrite _ _ _ q

/-! ### Single-step -/

/-- HALT's close-out leaves the sequencer but for the events it latches. -/
theorem haltProgram_eq (t : Tid) (s : State) : ∃ u, haltProgram t s = haltSeq t u ∧ courses u = courses s := by
  unfold haltProgram
  split
  · exact ⟨_, rfl, courses_disableWrites t 4 s⟩
  · split
    · exact ⟨_, rfl, courses_disableWrites t 2 s⟩
    · exact ⟨_, rfl, rfl⟩

/-- The sequencer that STEP sets running for one instruction. -/
def steppedSeq (q : Seq) : Seq := { q with st := .running, step := true, wait := .none }

theorem nextPc_gSet_steppedSeq (rd : BitVec 5) (v : W64) (q : Seq) :
    (nextPc (gSet rd v (steppedSeq q))).pc = q.pc + 4 ∧ (nextPc (gSet rd v (steppedSeq q))).g = (putG rd v q).g := by
  unfold gSet putG
  split <;> exact ⟨rfl, rfl⟩

/-- Under STEP an instruction inside the sequencer is followed by a halt. -/
theorem fExec_of_step {t : Tid} {i : FInstr} {s : State} {r : Seq} {n : Nat} (hrun : (seqOf s t).st = .running)
    (hstep : (seqOf s t).step = true) (hl : fLocal i (seqOf s t) = some (.ok r n)) :
    ∃ u, fExec t i s = haltSeq t u ∧ ∃ l, seqOf u t = { addCycles n r with latched := l } := by
  obtain ⟨hst, hrs, -⟩ := keepsRun_fLocal hl
  have hseq : seqOf (modSeq t (fun _ => addCycles n r) s) t = addCycles n r := seqOf_modSeq t _ s
  simp only [fExec, hl]
  generalize modSeq t (fun _ => addCycles n r) s = v at hseq ⊢
  by_cases hh : r.st = .halted
  · rw [if_pos hh]
    obtain ⟨u, hu, hc⟩ := haltProgram_eq t v
    exact ⟨u, hu, _, by rw [seqOf_of_courses (congrFun hc t), hseq]⟩
  · rw [if_neg hh, stepDone, hseq]
    have hr : (addCycles n r).step = true ∧ (addCycles n r).st = .running := ⟨hrs.trans hstep, (hst.resolve_right hh).trans hrun⟩
    exact ⟨v, if_pos hr, (addCycles n r).latched, hseq⟩

/-- STEP from HALTED runs the one instruction at PC and halts (R57). -/
theorem tsStepOp_of_local {t : Tid} {i : FInstr} {s : State} {r : Seq} {n : Nat} (hst : (seqOf s t).st = .halted) (hdbg : dbgEn s t = true)
    (hw : wdogDue s t = false) (hf : fFetch (seqOf s t) = some i) (hpend : (seqOf s t).startPend = none)
    (hl : fLocal i (steppedSeq (seqOf s t)) = some (.ok r n)) :
    (seqOf (tsStepOp t s) t).st = .halted ∧ (seqOf (tsStepOp t s) t).pc = r.pc ∧ (seqOf (tsStepOp t s) t).g = r.g
      ∧ (seqOf (tsStepOp t s) t).d = r.d ∧ (seqOf (tsStepOp t s) t).data = r.data := by
  have hseq : seqOf (modSeq t steppedSeq s) t = steppedSeq (seqOf s t) := seqOf_modSeq t _ s
  have hw' : wdogDue (modSeq t steppedSeq s) t = false := by rw [← hw, wdogDue, hseq]; rfl
  have hop : tsStepOp t s = fExec t i (modSeq t steppedSeq s) := by
    rw [tsStepOp, if_pos ⟨hst, hdbg⟩]
    show (if wdogDue (modSeq t steppedSeq s) t then _ else match fFetch (seqOf (modSeq t steppedSeq s) t) with | none => _ | some i => _) = _
    rw [hw', if_neg Bool.false_ne_true, hseq, show fFetch (steppedSeq (seqOf s t)) = some i from hf]
    rfl
  generalize modSeq t steppedSeq s = v at hseq hop
  obtain ⟨-, -, hrp⟩ := keepsRun_fLocal hl
  rw [← hseq] at hl
  obtain ⟨u, hu, l, hul⟩ := fExec_of_step (by rw [hseq]; rfl) (by rw [hseq]; rfl) hl
  have hnone : (seqOf u t).startPend = none := by rw [hul]; exact hrp.trans hpend
  rw [hop, hu, seqOf, tpOf_haltSeq_of_none hnone, hul]
  exact ⟨rfl, rfl, rfl, rfl, rfl⟩

/-! ### TS_CTRL's other actions and TS_EVPOST -/

theorem entryOf_entry (q : Seq) (n : Nat) :
    entryOf q (n == 0) = (if n = 0 then q.entryWrite else q.entryRead).setWidth 16 := by
  unfold entryOf
  by_cases h : n = 0 <;> simp [h]

theorem tpBusy_of_none_open {x : Tp} (h : ∀ n < 9, portOpen (portOf x n) = []) : tpBusy x = false := by
  refine List.any_eq_false.mpr fun n hn => ?_
  rw [h n (List.mem_range.mp hn)]
  decide

theorem tpCpls_of_none {x : Tp} (h : ∀ n < 9, (portOf x n).cpl = []) : tpCpls x = false := by
  refine List.any_eq_false.mpr fun n hn => ?_
  rw [h n (List.mem_range.mp hn)]
  decide

theorem tsRestartOp_of_idle {t : Tid} {s : State} (hst : (seqOf s t).st = .halted)
    (hnone : ∀ n, n < 9 → portOpen (portOf (tpOf s t) n) = [] ∧ (portOf (tpOf s t) n).cpl = []) :
    tsRestartOp t s = modSeq t (restartSeq (fld s (Reg.tsCtrl t) Fld.tsCtrlEntry == 0)) s := by
  refine if_pos ⟨hst, ?_, ?_⟩
  · rw [tpBusy_of_none_open fun n hn => (hnone n hn).1]; rfl
  · rw [tpCpls_of_none fun n hn => (hnone n hn).2]; rfl

theorem withSeq_seqOf (t : Tid) (s : State) : withSeq t (seqOf s t) s = s := by
  show { s with tp := s.tp.set t (s.tp.get t) } = s
  rw [Oct.set_get_self]

/-- The events that a write of TS_EVPOST sets, and nothing else of the block. -/
theorem posted_events (t : Tid) {l : List Nat} (hl : ∀ n ∈ l, n < 8) (s : State) :
    ∃ v : W64, forAll l (fun n => setEvent t (evPp n)) s = withSeq t { seqOf s t with latched := v } s
      ∧ ∀ k, v.getLsbD k = ((seqOf s t).latched.getLsbD k || (decide (24 ≤ k ∧ k < 32) && decide (k - 24 ∈ l))) := by
  induction l generalizing s with
  | nil => exact ⟨(seqOf s t).latched, (withSeq_seqOf t s).symm, fun k => by simp⟩
  | cons n l ih =>
    obtain ⟨hn, hl⟩ := List.forall_mem_cons.mp hl
    obtain ⟨v, hv, hbits⟩ := ih hl (setEvent t (evPp n) s)
    have hseq : seqOf (setEvent t (evPp n) s) t = latch (24 + n) (seqOf s t) := seqOf_modSeq t (latch (24 + n)) s
    refine ⟨v, hv.trans ?_, fun k => ?_⟩
    · rw [setEvent_eq_modSeq, ← modSeq_eq_withSeq t (fun q => { q with latched := v }), modSeq_modSeq, modSeq_eq_withSeq]
      rfl
    · rw [hbits, hseq, latch, BitVec.getLsbD_or, BitVec.getLsbD_ofNat, Nat.testBit_two_pow, Bool.or_assoc]
      congr 1
      have hk : k - 24 ∈ n :: l ↔ k - 24 = n ∨ k - 24 ∈ l := List.mem_cons
      by_cases hkn : 24 + n = k
      · subst hkn
        simp [show 24 + n < 32 by omega, show 24 + n < 64 by omega]
      · by_cases hr : 24 ≤ k ∧ k < 32
        · simp [hkn, hr, show ¬ k - 24 = n by omega]
        · simp [hkn, hr]

/-! ### Accesses -/

theorem srcMay_host_of_off {ep : Fin 4} {t : Nat} {s : State} (h : fld s (Reg.tsCtrl t) Fld.tsCtrlDbgEn = 0) :
    srcMay (.host ep) [t] s = false := by
  rw [srcMay_host, dbgEn, h]
  rfl

/-- A denied write of a host: only the access is logged. -/
theorem byDebug_of_off {ep : Fin 4} {t : Nat} {s : State} (h : fld s (Reg.tsCtrl t) Fld.tsCtrlDbgEn = 0) (hr : romHeld (.host ep) s = false)
    (off : Nat) (f : State → State) : byDebug (.host ep) [t] off f s = logAccess off (hostWakes (.host ep) s) :=
  byDebug_of_denied (srcMay_host_of_off h) hr

theorem next_congr {s u : State} (h : s = u) : (Host.Outcome.next s : Host.Outcome State Fault Refusal) = .next u := congrArg _ h

/-- RUN, HALT_REQ and RESTART, by the state the sequencer stands in. -/
theorem sequencerStarts (t : Tid) (s : State) :
    let q := seqOf s t
    let entry := if fld s (Reg.tsCtrl t) Fld.tsCtrlEntry = 0 then q.entryWrite else q.entryRead
    (q.st = .loaded → tsRunOp t s = withSeq t { q with
        st := .running, pc := entry.setWidth 16, cycle := 0
        wrote := decide (fld s (Reg.tsCtrl t) Fld.tsCtrlEntry = 0), haltp := false, step := false, wait := .none, barRes := none } s)
    ∧ (q.st = .halted → tsRunOp t s = withSeq t { q with st := .running, wait := .none } s)
    ∧ (q.st ≠ .loaded → q.st ≠ .halted → tsRunOp t s = s)
    ∧ (q.st = .running ∨ q.st = .waiting → haltRequest t s = withSeq t { q with haltp := true } s)
    ∧ (q.st = .halted → (∀ n, n < 9 → portOpen (portOf (tpOf s t) n) = [] ∧ (portOf (tpOf s t) n).cpl = []) →
      tsRestartOp t s = withSeq t { q with
        st := .running, pc := entry.setWidth 16, exl := false, timer := 0, lposcmp := 0, latched := 0, cycle := 0
        wrote := decide (fld s (Reg.tsCtrl t) Fld.tsCtrlEntry = 0), haltp := false, step := false, wait := .none, barRes := none } s)
    ∧ (q.st ≠ .halted → tsRestartOp t s = logFault (unitId 10 t.val) 6 6 0 0 s) := by
  refine ⟨fun hst => ?_, fun hst => ?_, fun hl hh => ?_, fun hst => ?_, fun hst hnone => ?_, fun hst => ?_⟩
  · rw [tsRunOp, hst, ← entryOf_entry]
    rfl
  · rw [tsRunOp, hst]
    rfl
  · unfold tsRunOp
    split
    · next h => exact absurd h hl
    · next h => exact absurd h hh
    · rfl
  · have hact : seqActive (seqOf s t) = true := by
      rcases hst with h | h <;> simp [seqActive, h]
    rw [haltRequest, modSeq_eq_withSeq, if_pos hact]
  · rw [tsRestartOp_of_idle hst hnone, ← entryOf_entry]
    rfl
  · exact if_neg fun h => hst h.1

/-- Settles O17: the actions of TS_CTRL by the state the sequencer stands in; STEP by the halt behind the one instruction; FLUSHQ by the
descriptors it leaves; a host's denied write is `byDebug_of_off`. -/
theorem sequencerControl : Obligations.SequencerControl := by
  refine ⟨fun src t s hm hr => ?_, fun src t s hm hr => ⟨fun pp => ?_, ?_, fun rd ra imm hst hdbg hw hf hpend => ?_,
    fun i r n hst hdbg hw hf hpend hl => ?_, fun hst => ?_⟩, fun ep t k b n s hr => ⟨fun hoff => ?_, fun hoff => ?_⟩⟩
  · have hrow (f : State → State) : tsRow src t f s = f (hostWakes src s) := byDebug_of_may hm hr
    obtain ⟨hloaded, hhalted, hother, hreq, hrestart, hignored⟩ := sequencerStarts t (hostWakes src s)
    exact ⟨fun h => next_congr ((hrow _).trans (hloaded h)), fun h => next_congr ((hrow _).trans (hhalted h)),
      fun h h' => next_congr ((hrow _).trans (hother h h')), fun h => next_congr ((hrow _).trans (hreq h)),
      fun h h' => next_congr ((hrow _).trans (hrestart h h')), fun h => next_congr ((hrow _).trans (hignored h))⟩
  · obtain ⟨v, hv, hbits⟩ := posted_events t (l := setBits 8 pp.toNat) (fun n hn => (mem_setBits.mp hn).1) (hostWakes src s)
    refine ⟨_, next_congr ((byDebug_of_may hm hr).trans hv), fun k => ?_, ?_⟩
    · rw [seqOf_withSeq, hbits]
      by_cases hk : 24 ≤ k ∧ k < 32
      · simp only [mem_setBits, bitOf_toNat, show k - 24 < 8 by omega, true_and, Bool.decide_eq_true]
      · rw [decide_eq_false hk, Bool.false_and, Bool.false_and]
    · rw [seqOf_withSeq]
  · exact ⟨_, next_congr (byDebug_of_may hm hr), reg_raiseFld rfl _ _, fun off hoff => reg_raiseFld_ne hoff _ _⟩
  · have hrow : tsRow src t (tsStepOp t) s = tsStepOp t (hostWakes src s) := byDebug_of_may hm hr
    obtain ⟨hst', hpc, hg, -, -⟩ := tsStepOp_of_local hst hdbg hw hf hpend rfl
    obtain ⟨hpc', hg'⟩ := nextPc_gSet_steppedSeq rd (gGet (seqOf (hostWakes src s) t) ra + sext16 imm) (seqOf (hostWakes src s) t)
    rw [← gGet_eq_greg]
    exact ⟨_, next_congr (congrArg settleHost hrow), hst', hpc.trans hpc', hg.trans hg'⟩
  · have hrow : tsRow src t (tsStepOp t) s = tsStepOp t (hostWakes src s) := byDebug_of_may hm hr
    exact ⟨_, next_congr (congrArg settleHost hrow), tsStepOp_of_local hst hdbg hw hf hpend hl⟩
  · have hrow : tsRow src t (tsFlushOp t) s = flushQueues t (hostWakes src s) := (byDebug_of_may hm hr).trans (if_pos hst)
    exact ⟨_, next_congr (congrArg settleHost hrow), fun m hm y hy => started_of_mem_opens_flushQueues hm hy⟩
  · have hrow := byDebug_of_off hoff hr
    exact ⟨next_congr (hrow _ _), next_congr (hrow _ _), next_congr (hrow _ _), next_congr (hrow _ _), next_congr (hrow _ _),
      next_congr (congrArg settleHost (hrow _ _)), next_congr (congrArg settleHost (hrow _ _)),
      next_congr (congrArg settleHost (hrow _ _))⟩
  · have hrow := byDebug_of_off hoff hr
    exact ⟨next_congr (hrow _ _), next_congr (hrow _ _), next_congr (hrow _ _)⟩

end Sys2Proof.Machine
end

section
/-! Rhoval-L (R59, R207, R213, R220, R221): one instruction of the evaluation in progress, stores to state words and bins, branches. -/
namespace Sys2Proof.Machine
open Sys2Proof.Safety

/-! ### Numbers of the loops -/

theorem limited_eq_clampInt {lo hi : Int} (h : lo ≤ hi) (x : Int) : clampInt lo hi x = limited lo hi x := by
  unfold clampInt limited
  split
  · omega
  · split <;> omega

theorem sat32_eq_limited (x : Int) : sat32 x = limited (-(2 ^ 31)) (2 ^ 31 - 1) x := limited_eq_clampInt (by decide) x

theorem limitC_eq_limited {lo hi : Int} (h : lo ≤ hi) (x : Int) : limitC lo hi x = limited lo hi x := by
  rw [limitC, if_neg (by omega), limited_eq_clampInt h]

theorem le_limited {lo hi : Int} (h : lo ≤ hi) (x : Int) : lo ≤ limited lo hi x ∧ limited lo hi x ≤ hi := by
  unfold limited
  omega

/-- The range of a signed 32-bit word. -/
def In32 (x : Int) : Prop := -(2 ^ 31) ≤ x ∧ x < 2 ^ 31

theorem in32_toInt (v : W32) : In32 v.toInt := ⟨BitVec.le_toInt v, BitVec.toInt_lt⟩

theorem toInt_w32 {x : Int} (h : In32 x) : (w32 x).toInt = x := BitVec.toInt_ofInt_eq_self (by decide) h.1 h.2

theorem w32_toInt (v : W32) : w32 v.toInt = v := BitVec.ofInt_toInt

theorem in32_sat32 (x : Int) : In32 (sat32 x) := by
  rw [sat32_eq_limited]
  have h := le_limited (lo := -(2 ^ 31)) (hi := 2 ^ 31 - 1) (by decide) x
  exact ⟨h.1, by omega⟩

theorem sat32_of_in32 {x : Int} (h : In32 x) : sat32 x = x := by
  obtain ⟨hlo, hhi⟩ := h
  rw [sat32_eq_limited, limited]
  omega

theorem signedOf_toNat (v : W32) : signedOf 32 v.toNat = v.toInt := by
  have h := v.isLt
  rw [signedOf, Nat.mod_eq_of_lt h, BitVec.toInt_eq_toNat_cond]
  split <;> split <;> first | rfl | omega

theorem coefVal_eq (s : State) (l i : Nat) : coefVal (getLoop s l) (getLoop s l).bank i = (coefficient s l i).1 := by
  have hword (c : BitVec 64) : signedOf 32 (fieldB c 0 32) = (c.setWidth 32).toInt := by
    rw [← signedOf_toNat, fieldB_low, BitVec.toNat_setWidth]
  rw [coefVal, hword, coefficient, coefOf]
  cases (getLoop s l).bank <;> rfl

theorem in32_coefficient (s : State) (l i : Nat) : In32 (coefficient s l i).1 := in32_toInt _

theorem vGet_eq_vreg (s : State) (r : BitVec 5) : vGet s r = vreg s r := rfl

theorem in32_vreg (s : State) (r : BitVec 5) : In32 (vreg s r) := by
  unfold vreg
  split
  · exact ⟨by decide, by decide⟩
  · exact in32_toInt _

/-! ### Reading a loop -/

theorem loopOf_setLoop (n : Nat) (p : MLoop) (x : Tp) : loopOf (setLoop n p x) n = p :=
  match n with
  | 0 | 1 | 2 | _ + 3 => rfl

@[simp] theorem getLoop_modLoop (l : Nat) (f : MLoop → MLoop) (s : State) : getLoop (modLoop l f s) l = f (getLoop s l) := by
  rw [getLoop, modLoop, tpOf_modTp, loopOf_setLoop, getLoop]

@[simp] theorem modLoop_mrn (l : Nat) (f : MLoop → MLoop) (s : State) : (modLoop l f s).mrn = s.mrn := rfl
@[simp] theorem modLoop_regs (l : Nat) (f : MLoop → MLoop) (s : State) : (modLoop l f s).regs = s.regs := rfl

theorem getLoop_of_tp {s u : State} (h : u.tp = s.tp) (l : Nat) : getLoop u l = getLoop s l := by
  rw [getLoop, getLoop, tpOf, tpOf, h]

/-! ### One instruction -/

section
variable {i : LInstr} {e : LEval} {s : State}

theorem beginEval_of_open (h : s.mrn.ev = some e) : beginEval s = s := by
  rw [beginEval, h]
  rfl

theorem runL_of_atLoop (h : AtLoop i e s) : runL i s = lExec i e s := by
  obtain ⟨hev, hf, hcyc⟩ := h
  simp only [runL, beginEval_of_open hev, hev, hf, if_pos hcyc, if_true]

theorem loopRow_of_open {f : State → State} (h : (f s).mrn.ev.isSome = true) : loopRow f s = f s := if_pos h

theorem loopRow_of_closed {f : State → State} (h : (f s).mrn.ev = none) : loopRow f s = settleHost (f s) := by
  rw [loopRow, h]
  rfl

theorem lNext_false (n : Int) (e : LEval) : lNext n false e = { e with pc := ((e.pc : Int) + 4 * n).toNat, cyc := e.cyc + 1 } := by
  rw [lNext, Bool.or_false]

theorem lAdvance_eq (n : Int) (h : s.mrn.ev = some e) :
    lAdvance n s = { s with mrn := { s.mrn with busy := s.mrn.busy + 1, ev := some (lNext n false e) } } := by
  rw [lAdvance, h, lNext_false]
  rfl

theorem lAdvance_setSatf (n : Int) (b : Bool) (h : s.mrn.ev = some e) :
    lAdvance n (setSatf b s) = { s with mrn := { s.mrn with busy := s.mrn.busy + 1, ev := some (lNext n b e) } } := by
  rw [lAdvance, setSatf, h]
  rfl

theorem lAdvance_vSet (rd : BitVec 5) (x : Int) (h : s.mrn.ev = some e) : lAdvance 1 (vSet rd x s) = vResult rd x false e s := by
  simp only [lAdvance, vSet, h, Option.map_some, sat32_eq_limited, vResult, lNext, Bool.or_false]
  rfl

/-- The row of an instruction that goes on with the evaluation. -/
theorem loopRow_of_atLoop {e' : LEval} (h : AtLoop i e s) (hev : (lExec i e s).mrn.ev = some e') :
    loopRow (runL i) s = lExec i e s := by
  rw [← runL_of_atLoop h] at hev ⊢
  exact loopRow_of_open (by rw [hev]; rfl)

/-- The row of an instruction that writes x to a v register. -/
theorem loopRow_of_value {rd : BitVec 5} {x : Int} (h : AtLoop i e s) (hx : lExec i e s = lAdvance 1 (vSet rd x s)) :
    loopRow (runL i) s = vResult rd x false e s := by
  rw [lAdvance_vSet rd x h.1] at hx
  exact (loopRow_of_atLoop h (by rw [hx]; rfl)).trans hx

/-- The row of an instruction that goes on n words further, after a change f that leaves the evaluation. -/
theorem loopRow_of_advance {n : Int} {u : State} (h : AtLoop i e s) (hx : lExec i e s = lAdvance n u) (hu : u.mrn.ev = some e) :
    loopRow (runL i) s = { u with mrn := { u.mrn with busy := u.mrn.busy + 1, ev := some (lNext n false e) } } := by
  rw [lAdvance_eq n hu] at hx
  exact (loopRow_of_atLoop h (by rw [hx])).trans hx

end

/-! ### Stores (R213, R220) -/

/-- The integrator's store, in the terms of R220: the clamp, then the hold. -/
theorem storeInteg_eq (p : MLoop) (c v : Int) (hc : limitC (coefVal p p.bank 60) (coefVal p p.bank 61) v = c) (hc32 : In32 c) :
    let inside := if p.awdir then c < p.lh.toInt else p.lh.toInt < c
    (p.awh = false ∨ inside → ((storeInteg v p).1.words.get 0 0).toInt = c ∧ (storeInteg v p).1.awh = false)
      ∧ (p.awh = true → ¬inside → (storeInteg v p).1.words.get 0 0 = p.lh ∧ (storeInteg v p).1.awh = true)
      ∧ (storeInteg v p).2 = decide (c ≠ v) := by
  intro inside
  have hinside : (if p.awdir then decide (c < p.lh.toInt) else decide (p.lh.toInt < c)) = decide inside := by
    show (if p.awdir = true then _ else _) = decide (if p.awdir = true then _ else _)
    split <;> rfl
  simp only [storeInteg, hc, hinside]
  refine ⟨fun h => ?_, fun hawh hout => ?_, trivial⟩
  · have hoff : (p.awh && !decide inside) = false := by
      rcases h with h | h <;> simp [h]
    rw [hoff]
    exact ⟨by rw [SMap.get_set_self]; exact toInt_w32 hc32, rfl⟩
  · have hon : (p.awh && !decide inside) = true := by simp [hawh, hout]
    rw [hon]
    exact ⟨by rw [SMap.get_set_self]; exact w32_toInt p.lh, rfl⟩

/-! ### Bins (R221, R324) -/

@[simp] theorem bumpHealth_mrn (s : State) : (bumpHealth s).mrn = s.mrn := rfl

@[simp] theorem notice_mrn (code : Nat) (s : State) : (notice code s).mrn = s.mrn := by
  unfold notice
  split
  · rfl
  · exact setFld_mrn _ _ _ s

@[simp] theorem logFault_mrn (u : BitVec 16) (k c w : Nat) (d : W64) (s : State) : (logFault u k c w d s).mrn = s.mrn := by
  rw [logFault_only]

@[simp] theorem raiseFld_mrn (off : Nat) (f : Fld) (s : State) : (raiseFld off f s).mrn = s.mrn := setFld_mrn off f 1 s

@[simp] theorem markRetired_mrn (u : BitVec 16) (s : State) : (markRetired u s).mrn = s.mrn := by
  unfold markRetired
  split
  · rfl
  · rw [notice_mrn, bumpHealth_mrn]

@[simp] theorem modMot_mrn (t : Tid) (f : Mot → Mot) (s : State) : (modMot t f s).mrn = s.mrn := rfl

theorem unitClass_rc (n : Nat) : unitClass (unitId 9 n) = 9 := by
  simp only [unitClass, unitId, BitVec.toNat_ofNat]
  omega

/-- A fault event of a repetitive controller does not touch the arithmetic unit. -/
theorem faultEvent_mrn_of_rc {u : BitVec 16} (hu : unitClass u = 9) (code : Nat) (d : W64) (s : State) :
    (faultEvent u code d s).mrn = s.mrn := by
  have hretire (s : State) : (retireUnit u s).mrn = s.mrn := by
    rw [retireUnit, hu]
    exact (setFld_mrn _ _ _ _).trans (markRetired_mrn u s)
  have hperm (code win : Nat) (d : W64) (s : State) : (permanent u code win d s).mrn = s.mrn := by
    rw [permanent, hretire, raiseFld_mrn, logFault_mrn, logFault_mrn]
  have hesc (code : Nat) (d : W64) (s : State) : (escalate u code d s).mrn = s.mrn := by
    unfold escalate
    dsimp only
    split
    · rw [hperm, raiseFld_mrn, logFault_mrn]
    · rw [raiseFld_mrn, logFault_mrn]
  have hcount : (countEvent u s).mrn = s.mrn := by rw [countEvent, setFld_mrn, bumpFld_mrn]
  unfold faultEvent
  dsimp only
  split
  · rw [logFault_mrn, hcount]
  · rw [hesc, hcount]

theorem binGet_binSet (r i : Nat) (v : W32) (m : Mot) (j : Nat) : binGet (binSet r i v m) r j = if j = i then v else binGet m r j := by
  unfold binGet binSet
  split <;> exact SMap.get_set _ _ _ _ _

theorem binGet_binClear (r : Nat) (m : Mot) (j : Nat) : binGet (binClear r m) r j = 0 := by
  unfold binGet binClear
  split <;> rfl

/-- Since which turn, counted from 1, each bin has been at its limit, after a store. -/
def satAfter (r i : Nat) (v : W32) (m : Mot) : SMap Nat :=
  let sat := if r = 0 then m.satA else m.satB
  if v = 0x7FFFFFFF ∨ v = 0x80000000 then
    if sat.get 0 i = 0 then sat.set 0 i ((if r = 0 then m.turnsA else m.turnsB) + 1) else sat
  else sat.set 0 i 0

theorem satAfter_eq {r i since : Nat} {v : W32} {m : Mot} (h : (if r = 0 then m.satA else m.satB).get 0 i = since) : satAfter r i v m
    = if v = 0x7FFFFFFF ∨ v = 0x80000000 then
        if since = 0 then (if r = 0 then m.satA else m.satB).set 0 i ((if r = 0 then m.turnsA else m.turnsB) + 1)
        else (if r = 0 then m.satA else m.satB)
      else (if r = 0 then m.satA else m.satB).set 0 i 0 := by
  rw [← h, satAfter]

/-- The bin's store, with what is noted of when it came to its limit. -/
def binStored (r i : Nat) (v : W32) (sat : SMap Nat) (m : Mot) : Mot :=
  if r = 0 then { binSet r i v m with satA := sat } else { binSet r i v m with satB := sat }

theorem binGet_binStored (r i : Nat) (v : W32) (sat : SMap Nat) (m : Mot) (j : Nat) :
    binGet (binStored r i v sat m) r j = if j = i then v else binGet m r j := by
  rw [← binGet_binSet, binStored]
  unfold binGet
  split <;> rfl

/-- RCU's store: the bins are cleared where one has been at its limit for a full revolution, else the bin takes the value. -/
theorem rcuStore_cases (t : Tid) (r i : Nat) (v : W32) (s : State) :
    let m := (tpOf s t).mot
    let cpr := fld s (Reg.mcEnc t) (if r = 0 then Fld.mcEncCpra else Fld.mcEncCprb)
    let since := if r = 0 then m.satA.get 0 i else m.satB.get 0 i
    let held := (v = 0x7FFFFFFF ∨ v = 0x80000000) ∧ since ≠ 0 ∧ cpr ≠ 0 ∧ cpr ≤ (if r = 0 then m.turnsA else m.turnsB) + 1 - since
    (rcuStore t r i v s).mrn = s.mrn
      ∧ (¬held → ∀ j, binGet (tpOf (rcuStore t r i v s) t).mot r j = if j = i then v else binGet m r j)
      ∧ (held → ∀ j, binGet (tpOf (rcuStore t r i v s) t).mot r j = 0) := by
  intro m cpr since held
  have hsince : (if r = 0 then m.satA else m.satB).get 0 i = since := by
    show _ = if r = 0 then _ else _
    split <;> rfl
  have hop : rcuStore t r i v s = if held then
      modMot t (binClear r) (faultEvent (unitId 9 (2 * t.val + r)) 0 0 (modMot t (binStored r i v (satAfter r i v m)) s))
      else modMot t (binStored r i v (satAfter r i v m)) s := by
    unfold rcuStore
    dsimp only
    rw [hsince, ← satAfter_eq hsince]
    rfl
  rw [hop]
  refine ⟨?_, fun h j => ?_, fun h j => ?_⟩
  · split
    · rw [modMot_mrn, faultEvent_mrn_of_rc (unitClass_rc _), modMot_mrn]
    · rfl
  · rw [if_neg h, modMot, tpOf_modTp]
    exact binGet_binStored r i v _ m j
  · rw [if_pos h, modMot, tpOf_modTp]
    exact binGet_binClear r _ j

theorem w32_at_limit {x : Int} (h : In32 x) :
    (w32 x = 0x7FFFFFFF ∨ w32 x = 0x80000000) ↔ x = 2 ^ 31 - 1 ∨ x = -(2 ^ 31) := by
  have hval (v : W32) : w32 x = v ↔ x = v.toInt := ⟨fun hv => by rw [← hv, toInt_w32 h], fun hv => by rw [hv, w32_toInt]⟩
  rw [hval, hval]
  exact Iff.rfl

theorem toNat_emod_1024 (x : Int) : (x % 1024).toNat < 1024 ∧ ((x % 1024).toNat : Int) = x % 1024 := by
  omega

/-! ### The rows -/

theorem exec_sts {rd ra : BitVec 5} {imm : BitVec 16} {e : LEval} {s : State} (h : AtLoop (.imm .sts rd ra imm) e s)
    (hi : imm.toNat % 64 ≠ 0) : exec (.sts rd ra imm) s
      = .next { withLoop e.l (fun p => { p with words := p.words.set 0 (imm.toNat % 64) (BitVec.ofInt 32 (vreg s ra)) }) s with
        mrn := { s.mrn with busy := s.mrn.busy + 1, ev := some (lNext 1 false e) } } := by
  refine next_congr (loopRow_of_advance (n := 1)
    (u := modLoop e.l (fun p => { p with words := p.words.set 0 (imm.toNat % 64) (BitVec.ofInt 32 (vreg s ra)) }) s) h ?_ h.1)
  show lAdvance 1 (lImm .sts rd ra imm e s) = _
  rw [← fieldB_shift] at hi ⊢
  exact congrArg _ (if_neg hi)

theorem fieldB_channel (imm : BitVec 16) : fieldB imm 0 4 = imm.toNat % 16 := fieldB_low imm 4

theorem exec_lout_beyond {rd ra : BitVec 5} {imm : BitVec 16} {e : LEval} {s : State} (h : AtLoop (.imm .lout rd ra imm) e s)
    (hch : 8 ≤ imm.toNat % 16) : exec (.lOut rd ra imm) s
      = .next { s with mrn := { s.mrn with busy := s.mrn.busy + 1, ev := some (lNext 1 false e) } } := by
  refine next_congr (loopRow_of_advance (n := 1) (u := s) h ?_ h.1)
  rw [← fieldB_channel] at hch
  exact congrArg (lAdvance 1) (if_neg (by omega))

/-- The channels staged, with one more. -/
def alsoWritten (l : List Nat) (c : Nat) : List Nat := if l.contains c then l else l ++ [c]

theorem mem_alsoWritten {l : List Nat} {c k : Nat} : k ∈ alsoWritten l c ↔ k ∈ l ∨ k = c := by
  unfold alsoWritten
  split
  · next h => exact ⟨Or.inl, fun hk => hk.elim id fun he => he ▸ List.contains_iff_mem.mp h⟩
  · simp

theorem lExec_lout_staged (rd : BitVec 5) {ra : BitVec 5} {imm : BitVec 16} (e : LEval) (s : State) (hch : imm.toNat % 16 < 8) :
    lExec (.imm .lout rd ra imm) e s
      = { s with mrn := { s.mrn with busy := s.mrn.busy + 1, ev := some { lNext 1 false e with
          staged := e.staged.set 0 (imm.toNat % 16) (BitVec.ofInt 32 (vreg s ra)), written := alsoWritten e.written (imm.toNat % 16) } } } := by
  rw [← fieldB_channel] at hch ⊢
  refine (congrArg (lAdvance 1) (if_pos hch)).trans ?_
  rw [lAdvance_eq 1 rfl, lNext_false, lNext_false]
  rfl

theorem exec_lout_staged {rd ra : BitVec 5} {imm : BitVec 16} {e : LEval} {s : State} (h : AtLoop (.imm .lout rd ra imm) e s)
    (hch : imm.toNat % 16 < 8) : exec (.lOut rd ra imm) s
      = .next { s with mrn := { s.mrn with busy := s.mrn.busy + 1, ev := some { lNext 1 false e with
          staged := e.staged.set 0 (imm.toNat % 16) (BitVec.ofInt 32 (vreg s ra)), written := alsoWritten e.written (imm.toNat % 16) } } } := by
  have hop := lExec_lout_staged rd (ra := ra) e s hch
  exact next_congr ((loopRow_of_atLoop h (by rw [hop])).trans hop)

theorem exec_rcl {rd ra : BitVec 5} {imm : BitVec 16} {e : LEval} {s : State} (h : AtLoop (.imm .rcl rd ra imm) e s) :
    exec (.rcl rd ra imm) s = .next (vResult rd (binGet (tpOf s (loopT e.l)).mot (e.l % 4)
      (((angleBin s (loopT e.l) (e.l % 4) : Int) + imm.toInt) % 1024).toNat).toInt false e s) :=
  next_congr (loopRow_of_value h rfl)

/-- The store to the integrator, in its row. -/
theorem exec_sts_integrator {rd ra : BitVec 5} {imm : BitVec 16} {e : LEval} {s : State} (h : AtLoop (.imm .sts rd ra imm) e s)
    (hi : imm.toNat % 64 = 0) : ∃ u, exec (.sts rd ra imm) s = .next u
      ∧ getLoop u e.l = (storeInteg (vreg s ra) (getLoop s e.l)).1
      ∧ u.mrn.ev = some (lNext 1 (storeInteg (vreg s ra) (getLoop s e.l)).2 e) := by
  have hop : lExec (.imm .sts rd ra imm) e s = lAdvance 1 (setSatf (storeInteg (vreg s ra) (getLoop s e.l)).2
      (modLoop e.l (fun _ => (storeInteg (vreg s ra) (getLoop s e.l)).1) s)) := by
    rw [← fieldB_shift] at hi
    exact congrArg (lAdvance 1) (if_pos hi)
  rw [lAdvance_setSatf 1 _ (show (modLoop e.l _ s).mrn.ev = some e from h.1)] at hop
  have hloop := getLoop_modLoop e.l (fun _ => (storeInteg (vreg s ra) (getLoop s e.l)).1) s
  generalize modLoop e.l _ s = v at hop hloop
  exact ⟨_, next_congr ((loopRow_of_atLoop h (by rw [hop])).trans hop), (getLoop_of_tp (s := v) rfl e.l).trans hloop, rfl⟩

theorem exec_rcu {rd ra : BitVec 5} {imm : BitVec 16} {e : LEval} {s : State} (h : AtLoop (.imm .rcu rd ra imm) e s) :
    let u := rcuStore (loopT e.l) (e.l % 4) (((angleBin s (loopT e.l) (e.l % 4) : Int) + imm.toInt) % 1024).toNat (w32 (vreg s ra)) s
    exec (.rcu rd ra imm) s = .next { u with mrn := { s.mrn with busy := s.mrn.busy + 1, ev := some (lNext 1 false e) } } := by
  intro u
  have hmrn : u.mrn = s.mrn := (rcuStore_cases _ _ _ _ s).1
  have hrow := loopRow_of_advance (n := 1) (u := u) h rfl (by rw [hmrn, h.1])
  rw [hmrn] at hrow
  exact next_congr hrow

/-- A branch goes on at its target where it is taken, else behind itself. -/
theorem loopRow_of_branch {op : LBr} {ra rb : BitVec 5} {imm : BitVec 16} {e : LEval} {s : State} (h : AtLoop (.branch op ra rb imm) e s) :
    loopRow (runL (.branch op ra rb imm)) s = { s with
      mrn := { s.mrn with
        busy := s.mrn.busy + 1
        ev := some (lNext (if lTaken op (vreg s ra) (vreg s rb) e.satf then imm.toInt else 1) false e) } } :=
  loopRow_of_advance h rfl h.1

theorem branch_ends {op : LBr} {ra rb : BitVec 5} {imm : BitVec 16} {e : LEval} {s : State} {c : Instr} {taken : Prop}
    (h : AtLoop (.branch op ra rb imm) e s) (hc : exec c s = .next (loopRow (runL (.branch op ra rb imm)) s))
    (ht : lTaken op (vreg s ra) (vreg s rb) e.satf = true ↔ taken) :
    (taken → exec c s = .next { s with mrn := { s.mrn with busy := s.mrn.busy + 1, ev := some (lNext imm.toInt false e) } })
      ∧ (¬taken → exec c s = .next { s with mrn := { s.mrn with busy := s.mrn.busy + 1, ev := some (lNext 1 false e) } }) := by
  rw [hc, loopRow_of_branch h]
  exact ⟨fun hyes => by rw [if_pos (ht.mpr hyes)], fun hno => by rw [if_neg (fun hl => hno (ht.mp hl))]⟩

/-- Settles O19: each row is the effect of its instruction on the evaluation; the integrator's store is `storeInteg_eq`, RCU's is
`rcuStore_cases`. -/
theorem loopMemory : Obligations.LoopMemory := by
  refine ⟨fun rd ra imm e s => ⟨fun h hi => ⟨_, exec_sts h hi, rfl⟩, fun h hch => ⟨_, exec_lout_staged h hch, fun c => mem_alsoWritten⟩,
    exec_lout_beyond, fun h => ?_⟩, fun rd ra imm e s => ⟨fun h hi _ hc => ?_, fun h => ?_⟩, fun ra rb imm e s c op taken hcase h => ?_⟩
  · obtain ⟨hlt, hb⟩ := toNat_emod_1024 ((angleBin s (loopT e.l) (e.l % 4) : Int) + imm.toInt)
    exact ⟨_, hlt, hb, exec_rcl h⟩
  · obtain ⟨u, hu, hloop, hev⟩ := exec_sts_integrator h hi
    have hlim : limitC (coefVal (getLoop s e.l) (getLoop s e.l).bank 60) (coefVal (getLoop s e.l) (getLoop s e.l).bank 61) (vreg s ra)
        = limited (coefficient s e.l 60).1 (coefficient s e.l 61).1 (vreg s ra) := by
      rw [coefVal_eq, coefVal_eq, limitC_eq_limited hc]
    obtain ⟨hlo, hhi⟩ := le_limited hc (vreg s ra)
    obtain ⟨hin, hout, hsat⟩ := storeInteg_eq _ _ _ hlim
      ⟨(in32_coefficient s e.l 60).1.trans hlo, hhi.trans_lt (in32_coefficient s e.l 61).2⟩
    refine ⟨u, hu, ?_⟩
    rw [hsat] at hev
    rw [hloop]
    exact ⟨hin, hout, hev⟩
  · obtain ⟨hlt, hb⟩ := toNat_emod_1024 ((angleBin s (loopT e.l) (e.l % 4) : Int) + imm.toInt)
    obtain ⟨-, hfree, hheld⟩ := rcuStore_cases (loopT e.l) (e.l % 4)
      (((angleBin s (loopT e.l) (e.l % 4) : Int) + imm.toInt) % 1024).toNat (w32 (vreg s ra)) s
    rw [w32_at_limit (in32_vreg s ra)] at hfree hheld
    exact ⟨_, _, hlt, hb, exec_rcu h, fun hn => ⟨hfree hn, rfl⟩, hheld⟩
  · rcases hcase with ⟨rfl, rfl, rfl⟩ | ⟨rfl, rfl, rfl⟩ | ⟨rfl, rfl, rfl⟩ | ⟨rfl, rfl, rfl⟩ | ⟨rfl, rfl, rfl⟩ | ⟨rfl, rfl, rfl⟩
    · exact branch_ends h rfl decide_eq_true_iff
    · exact branch_ends h rfl decide_eq_true_iff
    · exact branch_ends h rfl decide_eq_true_iff
    · exact branch_ends h rfl decide_eq_true_iff
    · exact branch_ends h rfl Iff.rfl
    · exact branch_ends h rfl (by simp [lTaken])

end Sys2Proof.Machine
end

section
/-! END and the evaluation that runs to it (R59, R207, R213): the committed command, and what the rest of the commit leaves of it. -/
namespace Sys2Proof.Machine
open Sys2Proof.Safety

/-! ### What is left of a commit -/

/-- The evaluation in progress, and of loop l the command, the count of overruns in a row and SATF. -/
def loopDone (l : Nat) (s : State) : Option LEval × W32 × Nat × Bool :=
  (s.mrn.ev, (getLoop s l).cmdv, (getLoop s l).consec, (getLoop s l).satf)

theorem loopDone_congr {s u : State} (l : Nat) (htp : u.tp = s.tp) (hev : u.mrn.ev = s.mrn.ev) : loopDone l u = loopDone l s := by
  rw [loopDone, hev, getLoop_of_tp htp, loopDone]

theorem loopDone_modLoop {f : MLoop → MLoop} (h : ∀ p, (f p).cmdv = p.cmdv ∧ (f p).consec = p.consec ∧ (f p).satf = p.satf) (l : Nat)
    (s : State) : loopDone l (modLoop l f s) = loopDone l s := by
  obtain ⟨hcmd, hconsec, hsatf⟩ := h (getLoop s l)
  rw [loopDone, getLoop_modLoop, modLoop_mrn, hcmd, hconsec, hsatf, loopDone]

theorem loopOf_mot (x : Tp) (m : Mot) (n : Nat) : loopOf { x with mot := m } n = loopOf x n :=
  match n with
  | 0 | 1 | 2 | _ + 3 => rfl

theorem getLoop_modMot (t : Tid) (f : Mot → Mot) (s : State) (l : Nat) : getLoop (modMot t f s) l = getLoop s l := by
  by_cases h : tid (l / 4) = t
  · subst h
    rw [getLoop, modMot, tpOf_modTp, loopOf_mot, getLoop]
  · rw [getLoop, modMot, tpOf_modTp_ne t _ _ s h, getLoop]

theorem loopDone_modMot (t : Tid) (f : Mot → Mot) (l : Nat) (s : State) : loopDone l (modMot t f s) = loopDone l s := by
  rw [loopDone, getLoop_modMot, modMot_mrn, loopDone]

section
variable (l : Nat) (s : State)

theorem loopDone_sendCommand : loopDone l (sendCommand l s) = loopDone l s := by
  unfold sendCommand
  refine loopDone_modLoop (fun p => ?_) l s
  exact ⟨rfl, rfl, rfl⟩

theorem loopDone_ferrTime (add : Nat) : loopDone l (ferrTime l add s) = loopDone l s := by
  unfold ferrTime
  refine loopDone_modLoop (fun p => ?_) l s
  exact ⟨rfl, rfl, rfl⟩

theorem loopDone_mrn {m : Mrn} (h : m.ev = s.mrn.ev) : loopDone l { s with mrn := m } = loopDone l s := loopDone_congr l rfl h

theorem loopDone_setFld (off : Nat) (f : Fld) (x : Nat) : loopDone l (setFld off f x s) = loopDone l s :=
  loopDone_congr l (setFld_tp off f x s) (congrArg Mrn.ev (setFld_mrn off f x s))

theorem loopDone_setSigned (off : Nat) (f : Fld) (x : Int) : loopDone l (setSigned off f x s) = loopDone l s :=
  loopDone_setFld l s off f _

theorem loopDone_bumpFld (off : Nat) (f : Fld) : loopDone l (bumpFld off f s) = loopDone l s :=
  loopDone_congr l (bumpFld_tp off f s) (congrArg Mrn.ev (bumpFld_mrn off f s))

theorem loopDone_armLoopCapture : loopDone l (armLoopCapture s) = loopDone l s :=
  (loopDone_mrn l (setFld Reg.mcCap Fld.mcCapDone 0 s) rfl).trans (loopDone_setFld l s _ _ _)

theorem loopDone_capture : loopDone l (capture l s) = loopDone l s := by
  unfold capture
  split
  · dsimp only
    split
    · exact (loopDone_setFld l _ _ _ _).trans (loopDone_mrn l s rfl)
    · exact loopDone_mrn l s rfl
  · rfl

theorem loopDone_tuneAbort : loopDone l (tuneAbort s) = loopDone l s := by
  unfold tuneAbort
  split
  · rfl
  · next k _ =>
    extract_lets s₁
    have h₁ : loopDone l s₁ = loopDone l s := loopDone_setFld l s _ _ _
    refine (loopDone_congr l (logFault_tp _ _ _ _ _ _) (congrArg Mrn.ev (logFault_mrn _ _ _ _ _ _))).trans ?_
    exact (loopDone_mrn l s₁ rfl).trans h₁

theorem loopDone_tuneRelay (k : Tune) : loopDone l (tuneRelay k s) = loopDone l s := by
  unfold tuneRelay
  extract_lets t n p js bias h d s₁ s₂
  have h₁ : loopDone l s₁ = loopDone l s := by
    show loopDone l (setSigned _ _ _ (setSigned _ _ _ (setSigned _ _ _ s))) = _
    rw [loopDone_setSigned, loopDone_setSigned, loopDone_setSigned]
  have h₂ : loopDone l s₂ = loopDone l s₁ := loopDone_setFld l s₁ _ _ _
  exact (loopDone_armLoopCapture l _).trans ((loopDone_mrn l s₂ rfl).trans (h₂.trans h₁))

theorem loopDone_takeFree : loopDone l (takeFree s).2 = loopDone l s := loopDone_congr l rfl rfl

theorem setBank_keeps (b : Bool) (m : SMap (BitVec 64)) (sel : Option Bool) (p : MLoop) :
    ({ setBank b m p with selPend := sel } : MLoop).cmdv = p.cmdv ∧ ({ setBank b m p with selPend := sel } : MLoop).consec = p.consec
      ∧ ({ setBank b m p with selPend := sel } : MLoop).satf = p.satf := by
  cases b <;> exact ⟨rfl, rfl, rfl⟩

theorem loopDone_tuneFinish (k : Tune) : loopDone k.l (tuneFinish k s) = loopDone k.l s := by
  unfold tuneFinish
  extract_lets l t n p sw at_ time pp a h d root kpN kpD span f s₁ pu ts kp ki kd old new s₂ s₃
  split
  · exact loopDone_tuneAbort l s
  · have h₁ : loopDone l s₁ = loopDone l s := by
      show loopDone l (if span = 0 then takeFree s else (span - 1, s)).2 = _
      split
      · exact loopDone_takeFree l s
      · rfl
    have h₂ : loopDone l s₂ = loopDone l s₁ := by
      show loopDone l (if n = 2 then _ else _) = _
      split
      · exact loopDone_modMot _ _ l s₁
      · exact (loopDone_setFld l _ _ _ _).trans (loopDone_modLoop (setBank_keeps _ _ _) l s₁)
    have h₃ : loopDone l s₃ = loopDone l s₂ := loopDone_setFld l s₂ _ _ _
    exact (loopDone_mrn l s₃ rfl).trans (h₃.trans (h₂.trans h₁))

theorem loopDone_tuneStep (switched : Bool) : loopDone l (tuneStep l switched s) = loopDone l s := by
  unfold tuneStep
  split
  · rfl
  · split
    · rfl
    · next k _ hl =>
      rw [Decidable.not_not] at hl
      subst hl
      split
      · split
        · rfl
        · exact loopDone_tuneRelay k.l s k
      · dsimp only
        split
        · exact loopDone_mrn k.l s rfl
        · exact (loopDone_tuneFinish _ _).trans (loopDone_mrn k.l s rfl)

end

/-! ### The commit (R213) -/

theorem get_foldl_set (g : Nat → W32) (l : List Nat) (m : SMap W32) (c : Nat) :
    (l.foldl (fun m ch => m.set 0 ch (g ch)) m).get 0 c = if c ∈ l then g c else m.get 0 c := by
  induction l generalizing m with
  | nil => rfl
  | cons a l ih =>
    rw [List.foldl_cons, ih, SMap.get_set]
    by_cases hl : c ∈ l
    · simp [hl]
    · by_cases ha : c = a <;> simp [hl, ha]

theorem injected_of_inactive {s : State} (h : s.mrn.inj.active = false) (l side ch : Nat) : injected s l side ch = 0 := by
  rw [injected, if_neg (by simp [h])]

/-- The committed command lies between C62 and C63; in AUTO it is the staged output 0, limited to them, where nothing is injected. -/
theorem loopDone_commitLoop (l : Nat) (staged : SMap W32) (written : List Nat) (cyc : Nat) (satf : Bool) (s : State) :
    ∃ cmd : Int, loopDone l (commitLoop l staged written cyc satf s)
        = (s.mrn.ev, w32 (limitC (coefVal (getLoop s l) (getLoop s l).bank 62) (coefVal (getLoop s l) (getLoop s l).bank 63) cmd), 0, satf)
      ∧ ((getLoop s l).mode = .auto → 0 ∈ written → s.mrn.inj.active = false → cmd = (staged.get 0 0).toInt) := by
  unfold commitLoop
  extract_lets t n outs s₁ p turn relay value cmd out switched s₂ s₃ s₄ s₅ s₆
  have hp : p = { getLoop s l with outs := outs } := getLoop_modLoop l _ s
  have h₂ : loopDone l s₂ = (s.mrn.ev, w32 out, 0, satf) := by
    show (s.mrn.ev, (getLoop (modLoop l _ s₁) l).cmdv, (getLoop (modLoop l _ s₁) l).consec, (getLoop (modLoop l _ s₁) l).satf) = _
    rw [getLoop_modLoop]
  have h₃ : loopDone l s₃ = loopDone l s₂ := loopDone_congr l rfl rfl
  have h₄ : loopDone l s₄ = loopDone l s₃ := by
    show loopDone l (if switched then _ else _) = _
    split
    · exact loopDone_bumpFld l s₃ _ _
    · rfl
  have h₅ : loopDone l s₅ = loopDone l s₄ := loopDone_sendCommand l s₄
  have h₆ : loopDone l s₆ = loopDone l s₅ := by
    show loopDone l (if n = 2 then _ else _) = _
    split
    · exact (loopDone_ferrTime l _ _).trans (loopDone_modMot _ _ l s₅)
    · rfl
  refine ⟨cmd, ?_, fun hmode hw hinj => ?_⟩
  · rw [loopDone_tuneStep, loopDone_capture, h₆, h₅, h₄, h₃, h₂]
    show (_, w32 (limitC (coefVal p p.bank 62) (coefVal p p.bank 63) cmd), _, _) = _
    rw [hp]
    rfl
  · have houts : (outs.get 0 0).toInt = (staged.get 0 0).toInt := by
      show ((written.foldl (fun m ch => m.set 0 ch (w32 (if ch = 0 then (staged.get 0 ch).toInt else
        sat32 ((staged.get 0 ch).toInt + injected s l 1 ch)))) (getLoop s l).outs).get 0 0).toInt = _
      rw [get_foldl_set (fun ch => w32 (if ch = 0 then (staged.get 0 ch).toInt else _)), if_pos hw, if_pos rfl, w32_toInt]
    have hvalue : value = (staged.get 0 0).toInt := by
      show (match p.mode with | .auto => (p.outs.get 0 0).toInt | .relay => relay | _ => _) = _
      rw [hp, ← houts]
      dsimp only
      rw [hmode]
    show sat32 (value + injected s₁ l 1 0) = _
    rw [injected_of_inactive (show s₁.mrn.inj.active = false from hinj), hvalue, Int.add_zero, sat32_of_in32 (in32_toInt _)]

/-! ### The rows (R207) -/

/-- END's effect on the state. -/
def ended (e : LEval) (s : State) : State :=
  commitLoop e.l e.staged e.written (e.cyc + 1) e.satf { s with mrn := { s.mrn with ev := none, busy := s.mrn.busy + 1 } }

theorem ended_loop (e : LEval) (s : State) : ∃ cmd : Int,
    loopDone e.l (ended e s)
        = (none, w32 (limitC (coefficient s e.l 62).1 (coefficient s e.l 63).1 cmd), 0, e.satf)
      ∧ ((getLoop s e.l).mode = .auto → 0 ∈ e.written → s.mrn.inj.active = false → cmd = (e.staged.get 0 0).toInt) := by
  have hloop : getLoop { s with mrn := { s.mrn with ev := none, busy := s.mrn.busy + 1 } } e.l = getLoop s e.l := rfl
  have h := loopDone_commitLoop e.l e.staged e.written (e.cyc + 1) e.satf { s with mrn := { s.mrn with ev := none, busy := s.mrn.busy + 1 } }
  rw [hloop, coefVal_eq, coefVal_eq] at h
  exact h

theorem runEval_of_closed {s : State} (h : s.mrn.ev = none) : ∀ n, runEval n s = s
  | 0 => by rw [runEval, h]; rfl
  | n + 1 => by rw [runEval, h]

/-- One instruction of the evaluation that LOOP_EVALUATION runs. -/
theorem loopEvalOp_of_atLoop {i : LInstr} {e : LEval} {s : State} (h : AtLoop i e s) :
    loopEvalOp s = runEval (255 - e.cyc) (lExec i e s) := by
  obtain ⟨hev, hf, hcyc⟩ := h
  rw [loopEvalOp, beginEval_of_open hev, hev]
  dsimp only
  rw [show 256 - e.cyc = (255 - e.cyc) + 1 by omega, runEval, hev]
  dsimp only
  rw [hf]

theorem loopEvalOp_of_end {rd ra : BitVec 5} {imm : BitVec 16} {e : LEval} {s : State} (h : AtLoop (.imm .lend rd ra imm) e s)
    (hend : (ended e s).mrn.ev = none) : loopEvalOp s = ended e s :=
  (loopEvalOp_of_atLoop h).trans (runEval_of_closed hend _)

/-- An instruction after which the evaluation stands one cycle further does not change where it ends. -/
theorem exec_loopEvaluation_congr {i : LInstr} {e e' : LEval} {s u : State} (h : AtLoop i e s) (hu : u = lExec i e s)
    (hev : u.mrn.ev = some e') (hcyc : e'.cyc = e.cyc + 1) : exec .loopEvaluation s = exec .loopEvaluation u := by
  have hrun : loopEvalOp u = runEval (255 - e.cyc) u := by
    rw [loopEvalOp, beginEval_of_open hev, hev]
    dsimp only
    rw [hcyc, show 256 - (e.cyc + 1) = 255 - e.cyc by omega]
  show Host.Outcome.next (settleHost (loopEvalOp s)) = Host.Outcome.next (settleHost (loopEvalOp u))
  rw [loopEvalOp_of_atLoop h, hrun, hu]

/-- The row of an instruction that goes on, and LOOP_EVALUATION before and after it. -/
theorem loopEvaluation_goes_on {i : LInstr} {e e' : LEval} {s u : State} (h : AtLoop i e s) (hev : (lExec i e s).mrn.ev = some e')
    (hcyc : e'.cyc = e.cyc + 1) (hu : (Host.Outcome.next (loopRow (runL i) s) : Host.Outcome State Fault Refusal) = .next u) :
    exec .loopEvaluation s = exec .loopEvaluation u := by
  have hus : u = lExec i e s := by
    rw [loopRow_of_atLoop h hev] at hu
    exact (Host.Outcome.next.inj hu).symm
  exact exec_loopEvaluation_congr h hus (hus ▸ hev) hcyc

/-- Settles O20: what is left of a commit (`loopDone_commitLoop`), whichever row ends the evaluation; and one cycle at a time. -/
theorem loopEvaluation : Obligations.LoopEvaluation := by
  refine ⟨fun c rd ra imm e s h _ hc hlim => ?_, fun rd ra rb func imm e s u => ⟨fun h hu => ?_, fun h hu => ?_, fun h hu => ?_⟩⟩
  · obtain ⟨cmd, hdone, hauto⟩ := ended_loop e s
    rw [limitC_eq_limited hlim] at hdone
    simp only [loopDone, Prod.mk.injEq] at hdone
    obtain ⟨hev, hcmd, hconsec, hsatf⟩ := hdone
    have hexec : exec c s = .next (settleHost (ended e s)) := by
      rcases hc with rfl | rfl
      · have hrun : runL (.imm .lend rd ra imm) s = ended e s := runL_of_atLoop h
        exact next_congr ((loopRow_of_closed (by rw [hrun, hev])).trans (congrArg settleHost hrun))
      · exact next_congr (congrArg settleHost (loopEvalOp_of_end h hev))
    obtain ⟨hlo, hhi⟩ := le_limited hlim cmd
    have hint : (getLoop (ended e s) e.l).cmdv.toInt = limited (coefficient s e.l 62).1 (coefficient s e.l 63).1 cmd := by
      rw [hcmd]
      exact toInt_w32 ⟨(in32_coefficient s e.l 62).1.trans hlo, hhi.trans_lt (in32_coefficient s e.l 63).2⟩
    refine ⟨_, hexec, hev, hint ▸ hlo, hint ▸ hhi, fun hm hw hi => ?_, hconsec, hsatf⟩
    rw [hint, hauto hm hw hi]
  · have hv : lExec (.reg rd ra rb func) e s = _ := lAdvance_vSet rd _ h.1
    exact loopEvaluation_goes_on h (congrArg (fun w : State => w.mrn.ev) hv) rfl hu
  · have hv : lExec (.imm .lds rd ra imm) e s = _ := lAdvance_vSet rd _ h.1
    exact loopEvaluation_goes_on h (congrArg (fun w : State => w.mrn.ev) hv) rfl hu
  · by_cases hch : imm.toNat % 16 < 8
    · have hv := lExec_lout_staged rd (ra := ra) e s hch
      exact loopEvaluation_goes_on h (congrArg (fun w : State => w.mrn.ev) hv) rfl hu
    · have hv : lExec (.imm .lout rd ra imm) e s = lAdvance 1 s := by
        rw [← fieldB_channel] at hch
        exact congrArg (lAdvance 1) (if_neg hch)
      rw [lAdvance_eq 1 h.1] at hv
      exact loopEvaluation_goes_on h (congrArg (fun w : State => w.mrn.ev) hv) rfl hu

end Sys2Proof.Machine
end

section
/-! The assembler and disassembler (R47, R49, R68, R71, R90), and what the end of a descriptor leaves of a slice's stages. -/
namespace Sys2Proof.Machine
open Sys2Proof.Safety

/-! ### What the end of a descriptor leaves -/

/-- What of a slice neither its sequencer nor its ports hold. -/
def stages (x : Tp) : Tp :=
  { x with
    seq := Seq.reset, comp := Port.reset, asmP := Port.reset, encP := Port.reset, wlP := Port.reset, vfyP := Port.reset
    rwqP := Port.reset, idxP := Port.reset, tbxP := Port.reset, motP := Port.reset, reinstall := false }

theorem stages_setPort (n : Nat) (p : Port) (x : Tp) : stages (setPort n p x) = stages x := by
  unfold setPort
  split <;> rfl

theorem stages_zeroTickets (x : Tp) : stages (zeroTickets x) = stages x := by
  have hfold (l : List Nat) (x : Tp) : stages (l.foldl (fun y n => setPort n { portOf y n with nextTicket := 0 } y) x) = stages x := by
    induction l generalizing x with
    | nil => rfl
    | cons a l ih => rw [List.foldl_cons, ih, stages_setPort]
  exact hfold _ x

theorem stages_reinstallWhenDone (x : Tp) : stages (reinstallWhenDone x) = stages x := by
  unfold reinstallWhenDone
  split
  · exact Eq.trans rfl (stages_zeroTickets x)
  · rfl

theorem stages_startWhenDone (x : Tp) : stages (startWhenDone x) = stages x := by
  unfold startWhenDone
  split
  · rfl
  · split
    · rfl
    · split <;> rfl
    · rfl

theorem stages_finish (u : Tid) (n : Nat) (k : BitVec 16) (st : BitVec 8) (v : W32) (s : State) (t : Tid) :
    stages (tpOf (finish u n k st v s) t) = stages (tpOf s t) := by
  by_cases h : t = u
  · subst h
    rw [finish, tpOf_modTp, stages_startWhenDone, stages_reinstallWhenDone, stages_setPort]
  · rw [finish, tpOf_modTp_ne u t _ s h]

theorem stages_takeDesc (u : Tid) (n : Nat) (k : BitVec 16) (s : State) (t : Tid) :
    stages (tpOf (takeDesc u n k s) t) = stages (tpOf s t) := by
  by_cases h : t = u
  · subst h
    rw [takeDesc, modPort, tpOf_modTp, stages_setPort]
  · rw [takeDesc, modPort, tpOf_modTp_ne u t _ s h]

theorem stages_of_ends {s u : State} (h : Ends s u) (t : Tid) : stages (tpOf u t) = stages (tpOf s t) := by
  refine Ends.keeps (I := fun w => stages (tpOf w t) = stages (tpOf s t)) (fun a b htp hI => ?_) (fun a v n k st val _ hI => ?_) h rfl
  · rw [tpOf, htp, ← tpOf]
    exact hI
  · rw [stages_finish]
    exact hI

theorem asm_of_stages {x y : Tp} (h : stages x = stages y) : x.asm = y.asm := (congrArg Tp.asm h :)

theorem asm_of_ends {s u : State} (h : Ends s u) (t : Tid) : (tpOf u t).asm = (tpOf s t).asm := asm_of_stages (stages_of_ends h t)

/-! ### Datasets that close -/

theorem closeDataset_opn (t : Tid) (k : Nat) (s : State) : (tpOf (closeDataset t k s) t).asm.opn = none := by
  obtain ⟨v, hends, -, hopn⟩ := ends_closeDataset t k s
  rw [asm_of_ends hends, hopn]

/-! ### Placing work items (R68, R71) -/

theorem ends_placeBytes (scid : Nat) (seq dsnum : W32) (n : Nat) (whole : Bool) (s : State) : Ends s (placeBytes scid seq dsnum n whole s) :=
  (ends_dropInput _ _ _).after (modRec_tp _ _ _ s)

theorem asm_placeItem (t : Tid) (o : OpenDs) (i : Item) (s : State) : (tpOf (placeItem t o i s) t).asm
    = { (tpOf s t).asm with
        opn := some (placedDs o i)
        items := (if itemFits o i == i.data.length then [] else [{ i with data := i.data.drop (itemFits o i), first := false }])
          ++ (tpOf s t).asm.items.drop 1 } := by
  unfold placeItem
  extract_lets g n all at' used s₁ s₂ s₃
  have h₂ : s₂.tp = s.tp := (bufPut_tp _ _ _ s₁).trans (bufPut_tp _ _ _ s)
  have hasm : (tpOf s₃ t).asm = (tpOf s t).asm := asm_of_ends ((ends_placeBytes _ _ _ _ _ s₂).after h₂) t
  rw [tpOf_modTp]
  dsimp only
  rw [hasm]

theorem le_align8 (n : Nat) : n ≤ align8 n ∧ align8 n ≤ n + 7 ∧ align8 n % 8 = 0 := by
  unfold align8 ceilDiv
  omega

/-- Room is left behind an item that ends 80 bytes before the end of the dataset. -/
theorem freeRoom_placedDs {o : OpenDs} {i : Item} (h : (itemSeg o i).off + 16 + (itemSeg o i).len + itemFits o i + 80 ≤ 7340032) :
    ¬ freeRoom (placedDs o i) < 72 := by
  have hle := le_align8 ((itemSeg o i).off + 16 + ((itemSeg o i).len + itemFits o i))
  show ¬ 7335936 - (align8 ((itemSeg o i).off + 16 + ((itemSeg o i).len + itemFits o i)) - 4096) < 72
  omega

/-- No room is left where an item does not fit. -/
theorem freeRoom_placedDs_of_cut {o : OpenDs} {i : Item} (h : itemFits o i < i.data.length) : freeRoom (placedDs o i) < 72 := by
  have hle := le_align8 ((itemSeg o i).off + 16 + ((itemSeg o i).len + itemFits o i))
  show 7335936 - (align8 ((itemSeg o i).off + 16 + ((itemSeg o i).len + itemFits o i)) - 4096) < 72
  have hfits : itemFits o i = min i.data.length (7340032 - ((itemSeg o i).off + 16 + (itemSeg o i).len)) := rfl
  omega

section
variable {t : Tid} {o : OpenDs} {i : Item} {l : List Item} {s : State}
variable (hopn : (tpOf s t).asm.opn = some o) (hkind : o.kind = 0) (hitems : (tpOf s t).asm.items = i :: l)
include hopn hkind hitems

/-- An item with bytes is placed, and the dataset closes where nothing more fits or the item asks for it. -/
theorem workItemOp_of_data (hdata : i.data ≠ []) : workItemOp t s
    = if freeRoom (placedDs o i) < 72 ∨ (i.full = true ∧ (itemFits o i == i.data.length) = true) then closeDataset t 0 (placeItem t o i s)
      else if i.flush = true ∧ (itemFits o i == i.data.length) = true then closeDataset t 1 (placeItem t o i s)
      else placeItem t o i s := by
  have hplaced : (tpOf (placeItem t o i s) t).asm.opn = some (placedDs o i) := by rw [asm_placeItem]
  simp only [workItemOp, hopn, hitems, hkind, hdata, hplaced, ne_eq, not_true_eq_false, if_false]

theorem workItemOp_of_empty (hdata : i.data = []) : workItemOp t s
    = (if i.full then closeDataset t 0 (modAsm t (fun a => { a with items := a.items.drop 1 }) s)
      else if i.flush then closeDataset t 1 (modAsm t (fun a => { a with items := a.items.drop 1 }) s)
      else modAsm t (fun a => { a with items := a.items.drop 1 }) s) := by
  simp only [workItemOp, hopn, hitems, hkind, hdata, ne_eq, not_true_eq_false, if_false, if_true]

omit hkind in
theorem asm_dropItem : (tpOf (modAsm t (fun a => { a with items := a.items.drop 1 }) s) t).asm.items = l
    ∧ (tpOf (modAsm t (fun a => { a with items := a.items.drop 1 }) s) t).asm.opn = some o := by
  rw [modAsm, tpOf_modTp]
  exact ⟨congrArg (List.drop 1) hitems, hopn⟩

end

/-! ### Opening and reading back -/

theorem asmOpenOp_of_valid {t : Tid} {y : Slot} {s : State} (hy : HeadIs t 1 1 y s) (hv : openValid s t y.desc = true)
    (hnone : (tpOf s t).asm.opn = none) : (tpOf (asmOpenOp t s) t).asm.opn = some {
      ticket := y.ticket, token := partB y.desc 64 32, dsnum := partB y.desc 128 32, kind := partB y.desc 228 4, c3pos := partB y.desc 224 4
      idle := partB y.desc 32 32, used := 0, segs := [] } := by
  rw [asmOpenOp, onHead_of_headIs hy, hnone, hv, if_neg (by decide), if_pos rfl]
  dsimp only
  rw [modAsm, tpOf_modTp]

theorem asmDisasmOp_eq {t : Tid} {y : Slot} {s : State} (hy : HeadIs t 1 3 y s) (hfits : descFits y.desc 0 0xFFFFFFFF 0 0 = true)
    (htok : dsToken s t (y.desc.extractLsb' 64 32) = true) :
    let tok : W32 := y.desc.extractLsb' 64 32
    let r := demandRead (tokAddr s tok) 7340032 s
    let l := (segsOf r.2 tok).filter (fun g => g.typ == 1 && g.first)
    let n : W32 := BitVec.ofNat 32 (leAt ((headerOf r.2 t tok).getD []) 8 4)
    asmDisasmOp t s = if r.1 then finish t 1 y.ticket 0x04 0 r.2
      else if headerGood r.2 t tok then finish t 1 y.ticket 0x00 (BitVec.ofNat 32 l.length)
        (modAsm t (fun a => { a with disarm := a.disarm ++ l.map (fun g => (g.scid, g.seq, n)) }) r.2)
      else finish t 1 y.ticket 0x01 0 r.2 := by
  intro tok r l n
  have hcond : (descFits y.desc 0 0xFFFFFFFF 0 0 && dsToken s t (partB y.desc 64 32)) = true := by
    rw [partB_eq_extractLsb', hfits, htok]
    rfl
  rw [asmDisasmOp, onHead_of_headIs hy, if_pos hcond, partB_eq_extractLsb']
  rfl

/-- Settles O22: OPEN, CLOSE and DISASM by the head descriptor's own branch; a work item by what of it fits. -/
theorem assemblerWork : Obligations.AssemblerWork := by
  refine ⟨fun t y o s => ⟨fun hy hv hnone => ?_, fun hy hv hnone => ?_, fun k => closeDataset_opn t k s, fun hy hfits => ⟨fun hnone => ?_,
    fun hsome => ?_⟩, fun hopn hidle hsegs => ?_⟩, fun t o i l s hopn hkind hitems => ?_, fun t y s hy hfits htok => ?_⟩
  · refine ⟨_, _, rfl, asmOpenOp_of_valid hy hv hnone, ?_⟩
    simp only [partB_eq_extractLsb', and_self]
  · refine next_congr (congrArg settleHost ?_)
    rw [asmOpenOp, onHead_of_headIs hy, hnone, hv, if_neg (by decide), if_neg (by decide)]
    rfl
  · refine next_congr (congrArg settleHost ?_)
    rw [asmCloseOp, onHead_of_headIs hy, hfits, hnone, if_pos rfl, if_neg (by decide)]
  · refine next_congr (congrArg settleHost ?_)
    rw [asmCloseOp, onHead_of_headIs hy, hfits, hsome, if_pos rfl, if_pos (show (some o).isSome = true from rfl)]
  · refine next_congr (congrArg settleHost ?_)
    simp only [asmIdleOp, hopn]
    exact if_pos ⟨hidle, hsegs⟩
  · have hdrop := asm_dropItem hopn hitems
    have hempty (hdata : i.data = []) := workItemOp_of_empty hopn hkind hitems hdata
    have hplace (hdata : i.data ≠ []) := workItemOp_of_data hopn hkind hitems hdata
    refine ⟨fun hd hfull hflush => ⟨_, next_congr (congrArg settleHost ?_), hdrop⟩,
      fun hd hfull => ⟨_, next_congr (congrArg settleHost ?_), hdrop⟩, fun hd hall hfull hflush hroom => ?_, fun hd hall hfull => ?_,
      fun hd hall hfull hflush hroom => ?_, fun hd hcut => ?_⟩
    · rw [hempty hd, hfull, hflush, if_neg (by decide), if_pos rfl]
    · rw [hempty hd, hfull, if_pos rfl]
    · rw [← hall] at hroom
      refine ⟨_, next_congr (congrArg settleHost ?_), rfl, ?_, ?_⟩
      · rw [hplace hd, if_neg (by simp [freeRoom_placedDs hroom, hfull]), if_neg (by simp [hflush])]
      · rw [asm_placeItem, hitems]
        simp [hall]
      · rw [asm_placeItem]
    · refine next_congr (congrArg settleHost ?_)
      rw [hplace hd, if_pos (Or.inr ⟨hfull, by simp [hall]⟩)]
    · rw [← hall] at hroom
      refine next_congr (congrArg settleHost ?_)
      rw [hplace hd, if_neg (by simp [freeRoom_placedDs hroom, hfull]), if_pos ⟨hflush, by simp [hall]⟩]
    · refine ⟨_, rfl, next_congr (congrArg settleHost ?_), ?_⟩
      · rw [hplace hd, if_pos (Or.inl (freeRoom_placedDs_of_cut hcut))]
      · rw [asm_placeItem, hitems]
        simp [Nat.ne_of_lt hcut]
  · have hop := asmDisasmOp_eq hy hfits htok
    intro tok r l n
    refine ⟨fun hr => ?_, fun hr hg => ?_, fun hr hg => ?_⟩
    · exact next_congr (congrArg settleHost (hop.trans (if_pos hr)))
    · exact next_congr (congrArg settleHost (hop.trans ((if_neg (by rw [hr]; decide)).trans (if_neg (by rw [hg]; decide)))))
    · exact next_congr (congrArg settleHost (hop.trans ((if_neg (by rw [hr]; decide)).trans (if_pos hg))))

end Sys2Proof.Machine
end

section
/-! The encoder's descriptors (R48-R50, R73, R75): ENCODE, C3EMIT, CORRECT and the track maps. -/
namespace Sys2Proof.Machine
open Sys2Proof.Safety

/-- The dataset with DSNUM n in the buffer of tok counts as encoded. -/
def markEncoded (t : Tid) (n : Nat) (tok : W32) (s : State) : State :=
  modTp t (fun x => { x with vfy := { x.vfy with ds := x.vfy.ds.map (fun y =>
    if y.dsnum.toNat = n ∧ y.token = tok then { y with encs := 1 } else y) } }) s

/-- What the slice keeps of a buffer that has been read. -/
def keepBuf (t : Tid) (tok : Nat) (b : ReadBuf) (s : State) : State := modEnc t (fun e => { e with bufs := e.bufs.set none tok (some b) }) s

theorem length_filter_getLsbD (m : W64) : ((List.range 64).filter (fun k => m.getLsbD k)).length = maskCount m := by
  simp only [maskCount, maskTracks, setBits, bitOf_toNat]

section
variable {t : Tid} {y : Slot} {s : State} (hfree : encFree (tpOf s t) = true)
include hfree

theorem encEncodeOp_of_valid (hy : HeadIs t 2 1 y s) (hv : encodeValid s t y.desc = true) :
    let tok : W32 := y.desc.extractLsb' 64 32
    let r := demandRead (tokAddr s tok) 7340032 s
    (r.1 = true → encEncodeOp t s = finish t 2 y.ticket stPoisoned 0 r.2)
      ∧ (r.1 = false →
        let u := encodeHeader t tok ((mapSlot (tpOf s t) (fieldB y.desc 128 1)).getD 0) r.2
        let c := encodeC2 (tokAddr u tok) u
        ∃ v, encEncodeOp t s = finish t 2 y.ticket stOk 0 v
          ∧ v.mem = (if fieldB y.desc 129 1 = 1 then foldMember t tok (y.desc.extractLsb' 96 32) (fieldB y.desc 130 4) c else c).mem) := by
  have hop : encEncodeOp t s = _ := (if_pos hfree).trans ((onHead_of_headIs hy _).trans (if_pos hv))
  rw [hop]
  simp only [partB_eq_extractLsb']
  exact ⟨fun hr => if_pos hr, fun hr => ⟨markEncoded t _ _ _, if_neg (by rw [hr]; decide), modTp_mem _ _ _⟩⟩

theorem encC3emitOp_of_valid (hy : HeadIs t 2 2 y s) (hfits : descFits y.desc 0 0xFFFFFFFF (~~~0) 0xFFFFFFFFF = true)
    (htok : dsToken s t (y.desc.extractLsb' 64 32) = true) (hlo : 1 ≤ fieldB y.desc 224 4) (hhi : fieldB y.desc 224 4 ≤ 8)
    (hc : c3Complete (c3Entries (tpOf s t) (y.desc.extractLsb' 64 32)) (fieldB y.desc 224 4) = true) :
    let acc : W32 := y.desc.extractLsb' 64 32
    ∃ u, encC3emitOp t s = finish t 2 y.ticket stOk (BitVec.ofNat 32 (fieldB y.desc 224 4)) u ∧ c3Entries (tpOf u t) acc = []
      ∧ u.mem = (bufPut acc 0 (c3Header s acc (y.desc.extractLsb' 128 32) (y.desc.extractLsb' 160 32) (fieldB y.desc 192 16)
          (fieldB y.desc 208 16) (fieldB y.desc 224 4) (c3Entries (tpOf s t) acc)) s).mem := by
  intro acc
  have hop : encC3emitOp t s = _ := (if_pos hfree).trans (onHead_of_headIs hy _)
  simp only [partB_eq_extractLsb', hfits, htok, hc, hlo, hhi, and_self, decide_true, Bool.and_self, if_true] at hop
  refine ⟨_, hop, ?_, rfl⟩
  rw [tpOf_modTp, c3Entries, SMap.get_set_self]

theorem encCorrectOp_of_valid (hy : HeadIs t 2 4 y s) (hfits : descFits y.desc 0 0xFFFFFFFF 1 0 = true)
    (htok : dsToken s t (y.desc.extractLsb' 64 32) = true) :
    ∃ (w : State) (b : ReadBuf) (failed : List Nat) (rows fill : Nat) (erased : List Nat), rows < 65536
      ∧ encCorrectOp t s = finish t 2 y.ticket (if failed.isEmpty then stOk else stUncorrectable) (BitVec.ofNat 32 (rows + 65536 * failed.length))
        (keepBuf t (fieldB y.desc 64 32)
          { b with erased := erased.filter (fun i => failed.contains (i / 128)), failed := failed, fill := fill } w) := by
  have hop : encCorrectOp t s = _ := (if_pos hfree).trans (onHead_of_headIs hy _)
  have hnat : (y.desc.extractLsb' 64 32).toNat = fieldB y.desc 64 32 := by
    rw [← partB_eq_extractLsb', partB, BitVec.toNat_ofNat]
    exact Nat.mod_eq_of_lt (fieldOf_lt _ _ _)
  simp only [partB_eq_extractLsb', hfits, htok, Bool.and_self, if_true, hnat] at hop
  exact ⟨_, _, _, _, _, _, Nat.lt_succ_of_le (Nat.min_le_left _ _), hop⟩

end

theorem loadMap_eq (t : Tid) (y : Slot) (s : State) :
    let m : W64 := y.desc.extractLsb' 64 64
    loadMap t y s = finish t 2 y.ticket stOk (BitVec.ofNat 32 ((List.range 64).filter (fun k => m.getLsbD k)).length)
      (modEnc t (fun e => if fieldB y.desc 32 32 = 0 then { e with map0 := some m } else { e with map1 := some m }) s) := by
  intro m
  rw [length_filter_getLsbD, loadMap, partB_eq_extractLsb']
  rfl

/-- Settles O23: each descriptor by its operation's branch for a valid descriptor at the head of the port. -/
theorem encoderResults : Obligations.EncoderResults := by
  refine ⟨fun t y s hfree => ⟨fun hy hv hr hc3 => ?_, fun hy hv hr hc3 => ?_, fun hy hv hr => ?_,
    fun hy hfits htok hlo hhi hc => ?_, fun hy hfits htok => ?_⟩, fun t y s => ⟨fun hfree hy hv => ⟨fun hb => ?_, fun hb => ?_⟩,
    fun hfind hb => ?_⟩⟩
  · obtain ⟨v, hop, hmem⟩ := (encEncodeOp_of_valid hfree hy hv).2 hr
    rw [if_neg (by rw [hc3]; decide)] at hmem
    exact ⟨_, v, next_congr (congrArg settleHost hop), rfl, hmem⟩
  · obtain ⟨v, hop, hmem⟩ := (encEncodeOp_of_valid hfree hy hv).2 hr
    rw [if_pos hc3] at hmem
    exact ⟨_, v, next_congr (congrArg settleHost hop), rfl, hmem⟩
  · exact next_congr (congrArg settleHost ((encEncodeOp_of_valid hfree hy hv).1 hr))
  · obtain ⟨u, hop, hentries, hmem⟩ := encC3emitOp_of_valid hfree hy hfits htok hlo hhi hc
    exact ⟨u, next_congr (congrArg settleHost hop), hentries, hmem⟩
  · obtain ⟨w, b, failed, rows, fill, erased, hrows, hop⟩ := encCorrectOp_of_valid hfree hy hfits htok
    refine ⟨_, _, rows, failed.length, hrows, next_congr (congrArg settleHost hop), ?_, ?_,
      { b with erased := erased.filter (fun i => failed.contains (i / 128)), failed := failed, fill := fill }, ?_, rfl, fun i hi => ?_⟩
    · cases failed <;> simp
    · cases failed <;> simp
    · rw [keepBuf, modEnc, tpOf_modTp, SMap.get_set_self]
    · simpa using (List.mem_filter.mp hi).2
  · refine next_congr ?_
    rw [encMapsetOp, if_pos hfree, onHead_of_headIs hy, if_pos hv]
    exact (if_neg (by rw [descArg, hb]; decide)).trans (loadMap_eq t y s)
  · refine next_congr ?_
    rw [encMapsetOp, if_pos hfree, onHead_of_headIs hy, if_pos hv]
    exact if_pos hb
  · refine next_congr ?_
    rw [mapsetLoadOp, hfind]
    exact (if_neg (by rw [descArg, hb]; decide)).trans (loadMap_eq t y s)

end Sys2Proof.Machine
end

section
/-! The write lanes (R47, R48, R85, R94-R97, R105, R227): descriptors that wait, start and end, and the directory of an extent. -/
namespace Sys2Proof.Machine
open Sys2Proof.Safety

/-! ### A start that is armed (R227) -/

theorem modTp_of_fixed {t : Tid} {f : Tp → Tp} {s : State} (h : f (tpOf s t) = tpOf s t) : modTp t f s = s := by
  show { s with tp := s.tp.set t (f (tpOf s t)) } = s
  rw [h, tpOf, Oct.set_get_self]

theorem modTp_congr {t : Tid} {f g : Tp → Tp} {s : State} (h : f (tpOf s t) = g (tpOf s t)) : modTp t f s = modTp t g s := by
  show { s with tp := s.tp.set t (f (tpOf s t)) } = { s with tp := s.tp.set t (g (tpOf s t)) }
  rw [h]

theorem modMot_of_fixed {t : Tid} {f : Mot → Mot} {s : State} (h : f (tpOf s t).mot = (tpOf s t).mot) : modMot t f s = s := by
  refine modTp_of_fixed ?_
  rw [h]

theorem modMot_congr {t : Tid} {f g : Mot → Mot} {s : State} (h : f (tpOf s t).mot = g (tpOf s t).mot) : modMot t f s = modMot t g s := by
  refine modTp_congr ?_
  rw [h]

theorem goArmed_cases (t : Tid) (s : State) :
    let m := (tpOf s t).mot
    let starts := m.armed.isSome = true ∧ m.armGo = false ∧ m.st = .tensioned ∧ (tpOf s t).yoyo.pause = 0
    (¬starts → goArmed t s = s)
      ∧ (starts → goArmed t s = modMot t (fun m => { m with armGo := true, armVr := startSpeed s t, st := .running }) s) := by
  intro m starts
  have hcond : (m.armed.isSome && !m.armGo && m.st = .tensioned && !((tpOf s t).yoyo.pause != 0)) = true ↔ starts := by
    show _ ↔ (m.armed.isSome = true ∧ m.armGo = false ∧ m.st = .tensioned ∧ (tpOf s t).yoyo.pause = 0)
    simp [and_assoc]
  exact ⟨fun hno => modMot_of_fixed (if_neg (hcond.not.mpr hno)), fun hyes => modMot_congr (if_pos (hcond.mpr hyes))⟩

theorem wlRequest_of_valid {t : Tid} {op : Nat} {y : Slot} {s : State} (hy : HeadIs t 3 op y s) (hv : wlValid s t y = true) :
    wlRequest t op s = goArmed t s := (onHead_of_headIs hy _).trans (if_pos hv)

/-! ### What other blocks leave of the write lanes -/

theorem wl_of_stages {x y : Tp} (h : stages x = stages y) : x.wl = y.wl := (congrArg Tp.wl h :)

theorem wl_modTp {f : Tp → Tp} (h : ∀ x, (f x).wl = x.wl) (u t : Tid) (s : State) : (tpOf (modTp u f s) t).wl = (tpOf s t).wl := by
  by_cases hu : t = u
  · subst hu
    rw [tpOf_modTp, h]
  · rw [tpOf_modTp_ne u t f s hu]

theorem wl_of_tp {s u : State} (h : u.tp = s.tp) (t : Tid) : (tpOf u t).wl = (tpOf s t).wl := by rw [tpOf, h, tpOf]

theorem wl_modVfy (u : Tid) (f : Vfy → Vfy) (s : State) (t : Tid) : (tpOf (modVfy u f s) t).wl = (tpOf s t).wl :=
  wl_modTp (f := fun x => { x with vfy := f x.vfy }) (fun _ => rfl) u t s

theorem wl_modDs (u : Tid) (n : W32) (f : Ds → Ds) (s : State) (t : Tid) : (tpOf (modDs u n f s) t).wl = (tpOf s t).wl := wl_modVfy u _ s t

theorem wl_unresolve (u : Tid) (n : W32) (i : Nat) (s : State) (t : Tid) : (tpOf (unresolve u n i s) t).wl = (tpOf s t).wl := by
  have hbump := wl_of_tp (bumpFld_tp (Reg.rwqCnt u) Fld.rwqCntUnresolved s) t
  unfold unresolve
  dsimp only
  split
  · exact hbump
  · split
    · exact (wl_of_tp (logFault_tp _ _ _ _ _ _) t).trans hbump
    · exact (wl_modDs u n _ _ t).trans hbump

theorem tpOf_modWl (t : Tid) (f : Wl → Wl) (s : State) : tpOf (modWl t f s) t = { tpOf s t with wl := f (tpOf s t).wl } := tpOf_modTp _ _ _

theorem wl_sendNotice (u : Tid) (e : Extent) (s : State) (t : Tid) : (tpOf (sendNotice u e s) t).wl = (tpOf s t).wl := by
  unfold sendNotice modRc
  exact wl_modTp (fun x => by rfl) u t s

/-! ### The directory of an extent (R85, R105) -/

/-- A copy that a directory names: of at most three extents back, in a rewrite slot of a live track. -/
def CopyPlaced (e : Extent) (r : RwSlot) : Prop := r.b ≤ 3 ∧ r.lam < (maskTracks e.mask).length ∧ r.q < e.nres - 1

theorem targetTrack_bounds {s : State} {t : Tid} {e : Extent} {r : RwEntry} {rw : List RwSlot} {b : Bool} {lam : Nat}
    (h : targetTrack s t e r rw b = some lam) : lam < (maskTracks e.mask).length ∧ usedSlots rw lam < e.nres - 1 := by
  have hmem := List.mem_of_find?_eq_some h
  have hsome := List.find?_some h
  obtain ⟨i, hi, rfl⟩ := List.mem_map.mp hmem
  have hpos : 0 < (maskTracks e.mask).length := by
    have := List.mem_range.mp hi
    omega
  refine ⟨Nat.mod_lt _ hpos, ?_⟩
  simp only [Bool.and_eq_true, decide_eq_true_eq] at hsome
  exact hsome.1.1.1

/-- Entries are placed within bounds, and the write lanes stay. -/
theorem placeEntries_keeps (t : Tid) (e : Extent) {l : List RwEntry} (hl : ∀ r ∈ l, e.dsnum.toNat ≤ r.dsnum.toNat + 3)
    (acc : State × List RwSlot × List RwEntry) (hacc : ∀ r ∈ acc.2.1, CopyPlaced e r) :
    (∀ r ∈ (placeEntries t e l acc).2.1, CopyPlaced e r) ∧ ∀ u, (tpOf (placeEntries t e l acc).1 u).wl = (tpOf acc.1 u).wl := by
  induction l generalizing acc with
  | nil => exact ⟨hacc, fun _ => rfl⟩
  | cons r rest ih =>
    obtain ⟨s, rw, left⟩ := acc
    obtain ⟨hr, hrest⟩ := List.forall_mem_cons.mp hl
    unfold placeEntries
    extract_lets use target b s₁ s₂ s₃
    have hs (u : Tid) : (tpOf s₃ u).wl = (tpOf s u).wl :=
      ((wl_of_tp (bumpFld_tp _ _ s₂) u).trans (wl_modDs t _ _ s₁ u)).trans (wl_modVfy t _ s u)
    have hb : b ≤ 3 := by
      show e.dsnum.toNat - r.dsnum.toNat ≤ 3
      omega
    have htarget {lam : Nat} (h : target = some lam) : lam < (maskTracks e.mask).length ∧ usedSlots rw lam < e.nres - 1 := by
      revert h
      show (match targetTrack s t e r rw false with | some lam => some lam | none => targetTrack s t e r rw true) = some lam → _
      split
      · next h => exact fun he => targetTrack_bounds (h.trans he)
      · exact targetTrack_bounds
    clear_value target b s₃
    split
    · obtain ⟨hbounds, hwl⟩ := ih hrest (unresolve t r.dsnum r.idx s, rw, left) hacc
      exact ⟨hbounds, fun u => (hwl u).trans (wl_unresolve t _ _ s u)⟩
    · cases target with
      | some lam =>
        obtain ⟨hlt, hused⟩ := htarget rfl
        obtain ⟨hbounds, hwl⟩ := ih hrest (s₃, rw ++ [⟨lam, usedSlots rw lam, r.idx, b, r.copy, r.again⟩], left) (fun z hz => by
          rcases List.mem_append.mp hz with hz | hz
          · exact hacc z hz
          · rw [List.mem_singleton.mp hz]
            exact ⟨hb, hlt, hused⟩)
        exact ⟨hbounds, fun u => (hwl u).trans (hs u)⟩
      | none =>
        dsimp only
        split
        · exact ih hrest (s, rw, left ++ [r]) hacc
        · obtain ⟨hbounds, hwl⟩ := ih hrest (unresolve t r.dsnum r.idx s, rw, left) hacc
          exact ⟨hbounds, fun u => (hwl u).trans (wl_unresolve t _ _ s u)⟩

theorem mem_insertBy {α : Type} {le : α → α → Bool} {a x : α} {l : List α} : x ∈ insertBy le a l ↔ x = a ∨ x ∈ l := by
  induction l with
  | nil => simp [insertBy]
  | cons b l ih =>
    unfold insertBy
    split
    · exact List.mem_cons
    · rw [List.mem_cons, ih, List.mem_cons]
      tauto

theorem mem_sortBy {α : Type} {le : α → α → Bool} {x : α} {l : List α} : x ∈ sortBy le l ↔ x ∈ l := by
  induction l with
  | nil => rfl
  | cons a l ih => exact mem_insertBy.trans ((or_congr_right ih).trans List.mem_cons.symm)

/-- What fixing the directory of extent e, which descriptor c writes, does. -/
def directoryFixed (t : Tid) (c : WlCur) (e : Extent) (s : State) : State :=
  let n := e.dsnum.toNat
  let mine := (tpOf s t).vfy.rwq.filter (fun r => decide (r.dsnum.toNat ≤ n ∧ n ≤ r.dsnum.toNat + 3))
  let late := (tpOf s t).vfy.rwq.filter (fun r => decide (r.dsnum.toNat + 3 < n))
  let other := (tpOf s t).vfy.rwq.filter (fun r => decide (n < r.dsnum.toNat))
  let s := forAll late (fun r => unresolve t r.dsnum r.idx) s
  let q := placeEntries t e (sortBy entryBefore mine) (s, [], [])
  let s := modVfy t (fun v => { v with rwq := q.2.2 ++ other }) q.1
  let res := reserveRuns s t c e q.2.1
  let s := modWl t (fun w => { w with
    out := addRuns e.mask res w.out
    exts := match w.exts with
    | [] => []
    | e :: r => { e with fixed := true, rw := q.2.1 } :: r }) s
  sendDirectory t e.dsnum q.2.1 s

theorem fixDirectory_eq {t : Tid} {c : WlCur} {e : Extent} {l : List Extent} {s : State} (hcur : (tpOf s t).wl.cur = some c)
    (hop : c.op = 1) (hexts : (tpOf s t).wl.exts = e :: l) (hfree : e.fixed = false) : fixDirectory t s = directoryFixed t c e s := by
  unfold fixDirectory
  rw [hcur, hexts]
  exact if_neg (by simp [hop, hfree])

/-- The content of the directory of the extent being written (R85, R105). -/
theorem fixDirectory_bounds {t : Tid} {c : WlCur} {e : Extent} {l : List Extent} {s : State} (hcur : (tpOf s t).wl.cur = some c)
    (hop : c.op = 1) (hexts : (tpOf s t).wl.exts = e :: l) (hfree : e.fixed = false) :
    ∃ (u : State) (rw : List RwSlot), fixDirectory t s = sendDirectory t e.dsnum rw u
      ∧ (tpOf u t).wl.exts = { e with fixed := true, rw := rw } :: l ∧ ∀ r ∈ rw, CopyPlaced e r := by
  rw [fixDirectory_eq hcur hop hexts hfree]
  unfold directoryFixed
  extract_lets n mine late other s₁ q s₂ res s₃
  have h₁ : (tpOf s₁ t).wl = (tpOf s t).wl :=
    forAll_keeps (g := fun w => (tpOf w t).wl) (fun (r : RwEntry) s => wl_unresolve t r.dsnum r.idx s t) late s
  have hmine : ∀ r ∈ sortBy entryBefore mine, e.dsnum.toNat ≤ r.dsnum.toNat + 3 := fun r hr => by
    have h := (List.mem_filter.mp (mem_sortBy.mp hr)).2
    exact (of_decide_eq_true h).2
  obtain ⟨hbounds, hwl⟩ := placeEntries_keeps t e hmine (s₁, [], []) (fun r hr => by cases hr)
  have h₂ : (tpOf s₂ t).wl = (tpOf s t).wl := (wl_modVfy t _ q.1 t).trans ((hwl t).trans h₁)
  refine ⟨s₃, q.2.1, rfl, ?_, hbounds⟩
  show (tpOf (modWl t _ s₂) t).wl.exts = _
  rw [tpOf_modWl]
  dsimp only
  rw [h₂, hexts]

/-- With nothing queued on RWQ the directory names no copy. -/
theorem fixDirectory_of_none {t : Tid} {c : WlCur} {e : Extent} {l : List Extent} {s : State} (hcur : (tpOf s t).wl.cur = some c)
    (hop : c.op = 1) (hexts : (tpOf s t).wl.exts = e :: l) (hfree : e.fixed = false) (hnone : (tpOf s t).vfy.rwq = []) :
    fixDirectory t s = sendDirectory t e.dsnum [] (modWl t (fun w => { w with
      exts := { e with fixed := true, rw := [] } :: l, out := addRuns e.mask (reserveRuns s t c e []) w.out }) s) := by
  have hvfy : modVfy t (fun v => { v with rwq := [] }) s = s := by
    refine modTp_of_fixed ?_
    rw [← hnone]
  rw [fixDirectory_eq hcur hop hexts hfree, directoryFixed, hnone]
  have hall (f : RwEntry → State → State) : forAll [] f s = s := rfl
  have hsort : sortBy entryBefore [] = [] := rfl
  simp only [List.filter_nil, List.append_nil, hsort, hall, placeEntries, hvfy]
  refine congrArg _ (modTp_congr ?_)
  simp only [hexts]

/-! ### Descriptors start and end (R94-R97) -/

theorem fixDirectory_of_other {t : Tid} {c : WlCur} {s : State} (hcur : (tpOf s t).wl.cur = some c) (hop : c.op ≠ 1) :
    fixDirectory t s = s := by
  unfold fixDirectory
  rw [hcur]
  dsimp only
  split
  · rfl
  · exact if_pos (Or.inl hop)

/-- Where gap fill is left when a descriptor has ended. -/
def gapAfter (t : Tid) (gap : Nat) (z : State) : State :=
  if (portHead (tpOf z t).wlP).isSome then modWl t (fun w => { w with gap := false }) z
  else modWl t (fun w => { w with gap := true, out := gapLanes gap w.out }) (bumpFldBy (Reg.wlCnt t) Fld.wlCntGapslots gap z)

theorem wlDoneOp_eq {t : Tid} {c : WlCur} {s : State} (gap : Nat) (hcur : (tpOf s t).wl.cur = some c) : ∃ u : State,
    (tpOf u t).wl.cur = none ∧ (c.op = 1 → c.dsnum ≠ 0xFFFFFFFF → (tpOf u t).wl.lastDs = c.dsnum)
      ∧ (c.op = 2 → u = modWl t (fun w => { w with cur := none, endLpos := c.lpos + BitVec.ofNat 32 c.frames })
          (record t (tpOf s t).mot.wrap c.lpos c.frames none s))
      ∧ wlDoneOp t gap s = gapAfter t gap (finish t 3 c.ticket 0x00 (if c.op = 2 then 0 else c.lpos) u) := by
  unfold wlDoneOp
  split
  next hn => rw [hcur] at hn; cases hn
  next c' hc =>
  obtain rfl : c = c' := Option.some.inj (hcur.symm.trans hc)
  extract_lets s₁ x e frames s₂ s₃ s₄ s₅ more
  refine ⟨s₄, ?_, fun h1 hds => ?_, fun h2 => ?_, rfl⟩
  · show (tpOf (modWl t _ s₃) t).wl.cur = none
    rw [tpOf_modWl]
  · show (tpOf (modWl t _ s₃) t).wl.lastDs = _
    rw [tpOf_modWl]
    exact if_pos ⟨h1, hds⟩
  · have h₁ : s₁ = s := fixDirectory_of_other hcur (by omega)
    have hframes : frames = c.frames := by
      show (match c.op with | 1 => _ | 2 => c.frames | _ => _) = _
      rw [h2]
      rfl
    have h₃ : s₃ = record t (tpOf s t).mot.wrap c.lpos c.frames none s := by
      show (if c.op = 1 then dsDone t c s₂ else s₂) = _
      rw [if_neg (by omega)]
      show wlRecord t c e frames s₁ = _
      rw [wlRecord, h2, h₁, hframes]
      rfl
    show modWl t _ s₃ = _
    rw [h₃]
    refine modTp_congr ?_
    dsimp only
    rw [if_neg (by omega), hframes]

/-- A ready lane begins a valid FILL. -/
theorem wlStartOp_of_fill {t : Tid} {y : Slot} {s : State} (hready : wlReady s t = true) (hy : HeadIs t 3 2 y s)
    (hv : wlValid s t y = true) (harg : descArg y.desc ≠ 0) : wlStartOp t s = wlBegin t y s := by
  obtain ⟨hhead, hop⟩ := hy
  rw [wlStartOp, if_pos hready, wlTake, show portHead (tpOf s t).wlP = some y from hhead]
  dsimp only
  rw [hop, if_neg (by omega), if_pos hv, if_neg (by omega), if_neg (by omega), if_neg (by omega)]

/-- A ready lane begins a valid MARK, and a WRITE whose dataset is encoded and whose map is loaded (R48, R50). -/
theorem wlStartOp_of_extent {t : Tid} {op : Nat} {y : Slot} {s : State} (hready : wlReady s t = true) (hy : HeadIs t 3 op y s)
    (hv : wlValid s t y = true) (hc : (op = 1 ∧ wlEncoded s (y.desc.extractLsb' 64 32) = true
      ∧ mapPending (tpOf s t) (fieldB y.desc 128 1) y.order = false ∧ encodePending (tpOf s t) (y.desc.extractLsb' 64 32) = false) ∨ op = 3) :
    wlStartOp t s = wlBegin t y s := by
  obtain ⟨hhead, hop⟩ := hy
  rw [wlStartOp, if_pos hready, wlTake, show portHead (tpOf s t).wlP = some y from hhead]
  dsimp only
  rw [hop, if_neg (by omega), if_pos hv, partB_eq_extractLsb']
  rcases hc with ⟨rfl, henc, hmap, hpend⟩ | rfl
  · rw [if_neg (by simp [hmap, hpend]), if_neg (by simp [henc]), if_neg (by omega)]
  · rw [if_neg (by omega), if_neg (by omega), if_neg (by omega)]

/-- The extent that a WL descriptor begins. -/
def begunExtent (s : State) (t : Tid) (y : Slot) : Extent :=
  let op := descOp y.desc
  let mask := if op = 1 then (mapSlot (tpOf s t) (fieldB y.desc 128 1)).getD 0 else wlMask (tpOf s t)
  { Extent.reset with
    isMark := op == 3, typ := if op = 3 then descArg y.desc else 0
    dsnum := if op = 1 then BitVec.ofNat 32 (bufLe s (partB y.desc 64 32) 8 4) else 0xFFFFFFFF
    wrap := (tpOf s t).mot.wrap, lpos := (tpOf s t).mot.lpos, mask := mask
    ndat := if op = 1 then nDat (maskCount mask) else 0, nres := if op = 1 then nRes (maskCount mask) else 0 }

/-- What the write lanes hold when a descriptor has begun. -/
theorem wl_wlBegin (t : Tid) (y : Slot) (s : State) : ∃ exts : List Extent, (descOp y.desc = 2 → exts = (tpOf s t).wl.exts)
    ∧ (tpOf (wlBegin t y s) t).wl.cur = some ⟨y.ticket, descOp y.desc, if descOp y.desc = 1 then BitVec.ofNat 32 (bufLe s (partB y.desc 64 32) 8 4)
        else 0xFFFFFFFF, partB y.desc 64 32, (tpOf s t).mot.lpos, descArg y.desc⟩
    ∧ (tpOf (wlBegin t y s) t).wl.wen = true ∧ (tpOf (wlBegin t y s) t).wl.gap = false
    ∧ (tpOf (wlBegin t y s) t).wl.exts = if descOp y.desc = 2 then exts else (begunExtent s t y :: exts).take 16 := by
  unfold wlBegin
  extract_lets x d op tok n mask cnt unset e cur s₁ s₂ out s₃ s₄ ds s₅
  have hs₁ : (tpOf s₁ t).wl = (tpOf s t).wl := wl_of_stages (stages_takeDesc t 3 y.ticket s t)
  have hwl : (tpOf s₃ t).wl = { (tpOf s₂ t).wl with
      cur := some cur, gap := false, wen := true, exts := if op = 2 then (tpOf s₂ t).wl.exts else (e :: (tpOf s₂ t).wl.exts).take 16
      out := out, pass := if (tpOf s₂ t).wl.wen then (tpOf s₂ t).wl.pass else none } := by
    show (tpOf (modWl t _ s₂) t).wl = _
    rw [tpOf_modWl]
  have h₄ : (tpOf s₄ t).wl = (tpOf s₃ t).wl := by
    show (tpOf (if op = 2 then s₃ else sendNotice t e s₃) t).wl = _
    split
    · rfl
    · exact wl_sendNotice t e s₃ t
  have h₅ : (tpOf (if op = 1 then modDs t n (fun d => { d with lastP := some x.mot.lpos, token := tok }) s₅ else s₄) t).wl
      = (tpOf s₃ t).wl := by
    split
    · rw [wl_modDs]
      show (tpOf (if _ then s₄ else modVfy t _ s₄) t).wl = _
      split
      · exact h₄
      · exact (wl_modVfy t _ s₄ t).trans h₄
    · exact h₄
  refine ⟨(tpOf s₂ t).wl.exts, fun h2 => ?_, ?_⟩
  · show (tpOf (if op = 1 ∧ _ then _ else s₁) t).wl.exts = _
    rw [if_neg (by rintro ⟨h1, -⟩; exact absurd (h1.symm.trans h2) (by decide)), hs₁]
  · rw [h₅, hwl]
    exact ⟨rfl, rfl, rfl, rfl⟩

/-- Settles O24: a waiting descriptor by `goArmed`, a started one by what `wlBegin` leaves in the lanes, the end and the directory by
their own lemmas. -/
theorem writeLaneDescriptors : Obligations.WriteLaneDescriptors := by
  intro t y c gap s
  refine ⟨goArmed_cases t s, fun hy hv => next_congr (wlRequest_of_valid hy hv), fun hy hv => next_congr (wlRequest_of_valid hy hv),
    fun hy hv => next_congr (wlRequest_of_valid hy hv), fun hready hy hv harg => ?_, fun op hready hy hv hc => ?_, fun hcur => ?_,
    fun hcur hop e l hexts hfree => ⟨fun hnone => ?_, ?_⟩⟩
  · obtain ⟨exts, hkeep, hcur, hwen, hgap, hexts⟩ := wl_wlBegin t y s
    refine ⟨_, _, next_congr (congrArg settleHost (wlStartOp_of_fill hready hy hv harg)), hcur, rfl, rfl, rfl, hwen, hgap, ?_⟩
    rw [hexts, if_pos hy.2, hkeep hy.2]
  · obtain ⟨exts, -, hcur, hwen, hgap, hexts⟩ := wl_wlBegin t y s
    have hop : descOp y.desc = op := hy.2
    have hop2 : descOp y.desc ≠ 2 := by omega
    refine ⟨_, _, begunExtent s t y, exts.take 15, next_congr (congrArg settleHost (wlStartOp_of_extent hready hy hv hc)), hcur, rfl, hop,
      rfl, hwen, hgap, ?_, rfl, ?_, fun h1 => ⟨partB_eq_extractLsb' _ _ _, ?_⟩, fun h3 => ?_⟩
    · rw [hexts, if_neg hop2]
      rfl
    · rw [← hop]
      rfl
    · exact if_pos (hop.trans h1)
    · exact if_pos (hop.trans h3)
  · obtain ⟨u, hnone, hlast, hfill, hdone⟩ := wlDoneOp_eq gap.toNat hcur
    exact ⟨u, hnone, hlast, hfill, next_congr (congrArg settleHost hdone)⟩
  · exact next_congr (congrArg settleHost (fixDirectory_of_none hcur hop hexts hfree hnone))
  · obtain ⟨u, rw, hfix, hu, hbounds⟩ := fixDirectory_bounds hcur hop hexts hfree
    exact ⟨u, rw, next_congr (congrArg settleHost hfix), hu, hbounds⟩

end Sys2Proof.Machine
end

section
/-! Verification (R102, R106, R108, R109), the rewrite policy and the index (R359, R360). -/
namespace Sys2Proof.Machine
open Sys2Proof.Safety

/-! ### Tracked datasets -/

theorem tpOf_modVfy (t : Tid) (f : Vfy → Vfy) (s : State) : tpOf (modVfy t f s) t = { tpOf s t with vfy := f (tpOf s t).vfy } := tpOf_modTp _ _ _

theorem ds_modDs (t : Tid) (n : W32) (f : Ds → Ds) (s : State) :
    (tpOf (modDs t n f s) t).vfy.ds = (tpOf s t).vfy.ds.map (fun d => if d.dsnum == n then f d else d) := by
  rw [modDs, tpOf_modVfy]

theorem vfy_of_stages {x y : Tp} (h : stages x = stages y) : x.vfy = y.vfy := (congrArg Tp.vfy h :)

theorem idx_of_stages {x y : Tp} (h : stages x = stages y) : x.idx = y.idx := (congrArg Tp.idx h :)

/-- Track a dataset if it is not tracked yet. -/
def tracked (t : Tid) (n tok : W32) (s : State) : State :=
  if (dsOf (tpOf s t) n).isSome then s else modVfy t (fun v => { v with ds := v.ds ++ [{ Ds.reset with dsnum := n, token := tok }] }) s

theorem mem_tracked (t : Tid) (n tok : W32) (s : State) : ∃ d ∈ (tpOf (tracked t n tok s) t).vfy.ds, d.dsnum = n := by
  unfold tracked
  split
  · next h =>
    obtain ⟨d, hd⟩ := Option.isSome_iff_exists.mp h
    exact ⟨d, List.mem_of_find?_eq_some hd, beq_iff_eq.mp (List.find?_some hd :)⟩
  · rw [tpOf_modVfy]
    exact ⟨_, List.mem_append_right _ (List.mem_singleton.mpr rfl), rfl⟩

/-- A change of a tracked dataset that keeps its number is what the dataset then holds. -/
theorem mem_modDs {t : Tid} {n : W32} {f : Ds → Ds} (hf : ∀ d, (f d).dsnum = d.dsnum) {s : State}
    (hn : ∃ d ∈ (tpOf s t).vfy.ds, d.dsnum = n) :
    (∃ z ∈ (tpOf (modDs t n f s) t).vfy.ds, z.dsnum = n) ∧ ∀ z ∈ (tpOf (modDs t n f s) t).vfy.ds, z.dsnum = n → ∃ d, z = f d := by
  rw [ds_modDs]
  constructor
  · obtain ⟨d, hd, hdn⟩ := hn
    refine ⟨f d, List.mem_map.mpr ⟨d, hd, if_pos (beq_iff_eq.mpr hdn)⟩, (hf d).trans hdn⟩
  · intro z hz hzn
    obtain ⟨d, -, rfl⟩ := List.mem_map.mp hz
    by_cases h : d.dsnum = n
    · exact ⟨d, if_pos (beq_iff_eq.mpr h)⟩
    · rw [if_neg (fun hb => h (beq_iff_eq.mp hb))] at hzn
      exact absurd hzn h

/-- A valid ARM of a dataset is noted in what VFY tracks (R108). -/
theorem vfyArmOp_valid {t : Tid} {y : Slot} {s : State} (hy : HeadIs t 4 1 y s) (hmap : mapPending (tpOf s t) (fieldB y.desc 128 1) y.order = false)
    (hfits : descFits y.desc 0 (~~~0) 3 0 = true) (htok : dsToken s t (y.desc.extractLsb' 96 32) = true)
    (hslot : (mapSlot (tpOf s t) (fieldB y.desc 128 1)).isSome = true) :
    vfyArmOp t s = modDs t (y.desc.extractLsb' 64 32) (fun x => { x with
      more := x.more ++ (x.armed.map (fun k => (k, x.rel))).toList
      armed := some y.ticket, rel := fieldB y.desc 129 1 == 1, token := y.desc.extractLsb' 96 32 })
      (takeDesc t 4 y.ticket (tracked t (y.desc.extractLsb' 64 32) (y.desc.extractLsb' 96 32) s)) := by
  rw [vfyArmOp, onHead_of_headIs hy]
  simp only [partB_eq_extractLsb', hmap, hfits, htok, hslot, Bool.false_eq_true, if_false, Bool.and_self, if_true]
  rfl

theorem fieldB_bit (d : BitVec 256) (n : Nat) : (fieldB d n 1 == 1) = d.getLsbD n := by
  rw [← bitOf_toNat]
  rfl

/-! ### Arms that settle (R108, R109) -/

theorem foldl_max_eq_zero {l : List Nat} {a : Nat} : l.foldl max a = 0 ↔ a = 0 ∧ ∀ n ∈ l, n = 0 := by
  induction l generalizing a with
  | nil => simp
  | cons b l ih =>
    rw [List.foldl_cons, ih, List.forall_mem_cons, Nat.max_eq_zero_iff, and_assoc]

theorem vfySettleOp_of_find {t : Tid} {d : Ds} {k : BitVec 16} {s : State}
    (hd : (tpOf s t).vfy.ds.find? (fun z => z.armed.isSome && dsSettled z) = some d) (hk : d.armed = some k) :
    vfySettleOp t s = settleArm t d k s := by
  rw [vfySettleOp, hd]
  dsimp only
  rw [hk]

theorem settleArm_of_none {d : Ds} (h : ∀ n ∈ unresOf d, n = 0) (t : Tid) (k : BitVec 16) (s : State) :
    settleArm t d k s
      = finish t 4 k 0x00 (BitVec.ofNat 32 (rewritten d)) (forAll d.more (fun m => finish t 4 m.1 0x00 (BitVec.ofNat 32 (rewritten d)))
        (if d.rel = true ∨ d.more.any (fun m => m.2) = true then releaseFor 2 (4 + t.val) d.token (acceptDs t d s) else acceptDs t d s)) := by
  have hworst : (unresOf d).foldl max 0 = 0 := foldl_max_eq_zero.mpr ⟨rfl, h⟩
  unfold settleArm
  dsimp only
  rw [if_pos hworst]
  simp only [Bool.or_eq_true]

theorem reg_finish (t : Tid) (n : Nat) (k : BitVec 16) (st : BitVec 8) (v : W32) (s : State) (off : Nat) :
    reg (finish t n k st v s) off = reg s off := rfl

theorem reg_modDs (t : Tid) (n : W32) (f : Ds → Ds) (s : State) (off : Nat) : reg (modDs t n f s) off = reg s off := rfl

theorem reg_takeFree (s : State) (off : Nat) : reg (takeFree s).2 off = reg s off := rfl

/-- An arm with a codeword unresolved ends INCOMPLETE, its dataset named in VFY_INCDS (R109). -/
theorem settleArm_of_unresolved {d : Ds} {n : Nat} (hn : n ∈ unresOf d) (h0 : n ≠ 0) (t : Tid) (k : BitVec 16) (s : State) :
    ∃ u v : State, v = finish t 4 k 0x09 (BitVec.ofNat 32 (rewritten d))
        (forAll d.more (fun m => finish t 4 m.1 0x09 (BitVec.ofNat 32 (rewritten d))) u)
      ∧ reg v (Reg.vfyIncds t) = d.dsnum
      ∧ (settleArm t d k s = acceptDs t d v ∨ settleArm t d k s = disableWrites t 1 v
        ∨ settleArm t d k s = modDs t d.dsnum (fun y => { y with attempts := y.attempts + 1 }) v) := by
  have hworst : (unresOf d).foldl max 0 ≠ 0 := fun h => h0 ((foldl_max_eq_zero.mp h).2 n hn)
  unfold settleArm
  extract_lets val un worst s₁ s₂ s₃ s₄ s₅ ties f s₆ s₇
  rw [if_neg hworst]
  refine ⟨_, s₇, rfl, ?_, ?_⟩
  · have hne : Reg.vfyIncds t ≠ Reg.vfyInc t := by
      simp only [Reg.vfyIncds, Reg.vfyInc]
      omega
    have hfin (z : State) : reg (forAll d.more (fun m => finish t 4 m.1 stIncomplete val) z) (Reg.vfyIncds t) = reg z (Reg.vfyIncds t) :=
      forAll_keeps (g := fun w => reg w (Reg.vfyIncds t)) (fun (m : BitVec 16 × Bool) s => reg_finish t 4 m.1 stIncomplete val s _) d.more z
    show reg (finish t 4 k stIncomplete val (forAll d.more _ (modDs t d.dsnum _ s₆))) (Reg.vfyIncds t) = _
    rw [reg_finish, hfin, reg_modDs]
    show reg (setFld (Reg.vfyInc t) Fld.vfyIncWorsts _ (takeFree s₅).2) (Reg.vfyIncds t) = _
    rw [reg_setFld_ne hne, reg_takeFree, reg_setFld_ne hne, reg_setFld_ne hne]
    show (s.regs.set (regReset (Reg.vfyIncds t)) (Reg.vfyIncds t) d.dsnum).get (regReset (Reg.vfyIncds t)) (Reg.vfyIncds t) = _
    exact SMap.get_set_self _ _ _ _
  · split
    · exact Or.inl rfl
    · split
      · exact Or.inr (Or.inl rfl)
      · exact Or.inr (Or.inr rfl)

/-! ### Policy and reports (R102, R106) -/

theorem rwqPolicyOp_valid {t : Tid} {y : Slot} {s : State} (hy : HeadIs t 5 1 y s) (hfits : descFits y.desc 7 0xFFFF 0 0 = true)
    (hn : descArg y.desc ≠ 0) : rwqPolicyOp t s
      = finish t 5 y.ticket 0x00 0 (modVfy t (fun v => { v with copies := descArg y.desc, slotLimit := fieldB y.desc 64 16 }) s) := by
  have h : (descFits y.desc 7 0xFFFF 0 0 && decide (1 ≤ descArg y.desc)) = true := by
    rw [hfits, decide_eq_true (by omega : 1 ≤ descArg y.desc)]
    rfl
  exact (onHead_of_headIs hy _).trans (if_pos h)

theorem verifyReportOp_of_online {t : Tid} {s : State} (h : isOffline s t = false) (r : BitVec 128) :
    verifyReportOp t r s = if rcMode s t = 1 then reportIn t r (modRc t (fun x => { x with reports := x.reports.erase r }) s)
      else modRc t (fun x => { x with reports := x.reports.erase r }) s := by
  rw [verifyReportOp, h]
  rfl

/-! ### The index (R359, R360) -/

theorem tpOf_modIdx (t : Tid) (f : Idx → Idx) (s : State) : tpOf (modIdx t f s) t = { tpOf s t with idx := f (tpOf s t).idx } := tpOf_modTp _ _ _

theorem idxAddOp_valid {t : Tid} {y : Slot} {s : State} (hy : HeadIs t 6 1 y s)
    (hfits : descFits y.desc 0xFFFFFFFF (~~~0) (~~~0) 0xFFFFFFFF = true) : idxAddOp t s
      = match ((tpOf s t).idx.tables.get [] (fieldB y.desc 192 32))[descArg y.desc]? with
        | none => finish t 6 y.ticket 0x06 0 s
        | some (scid, seq, off) =>
          let e : ObjEnt := ⟨y.desc.extractLsb' 64 128, y.desc.extractLsb' 192 32, off, seq, scid⟩
          finish t 6 y.ticket 0x00 0 (indexRec scid.toNat seq (modIdx t (fun i => { i with objs := i.objs ++ [e], known := i.known ++ [e] }) s)) := by
  have hds : (partB y.desc 192 32 : W32).toNat = fieldB y.desc 192 32 := by
    rw [partB, BitVec.toNat_ofNat]
    exact Nat.mod_eq_of_lt (fieldOf_lt _ _ _)
  rw [idxAddOp, onHead_of_headIs hy]
  simp only [hfits, if_true, descObj, hds]
  simp only [partB_eq_extractLsb'] <;> rfl

theorem idxFindOp_valid {t : Tid} {y : Slot} {s : State} (hy : HeadIs t 6 3 y s) (hfits : descFits y.desc 0 (~~~0) (~~~0) 0 = true) :
    idxFindOp t s = match (tpOf s t).idx.known.find? (fun z => z.objid == y.desc.extractLsb' 64 128) with
      | none => finish t 6 y.ticket 0x06 0 s
      | some e => finish t 6 y.ticket 0x00 e.dsnum s := by
  rw [idxFindOp, onHead_of_headIs hy]
  simp only [hfits, if_true, findObj, descObj, partB_eq_extractLsb'] <;> rfl

/-- Freezing an index leaves a frozen one. -/
theorem frozen_freezeIndex (t : Tid) (s : State) : ∃ f, (tpOf (freezeIndex t s) t).idx.frozen = some f := by
  rw [freezeIndex, tpOf_modIdx]
  exact ⟨_, rfl⟩

/-- The first EMIT of an index notes what it waits for. -/
def emitWaits (t : Tid) (y : Slot) (s : State) : State :=
  modIdx t (fun i => { i with await := i.objs.map (fun e => e.dsnum), emitting := some y.ticket }) (takeDesc t 6 y.ticket s)

theorem tpOf_emitWaits (t : Tid) (y : Slot) (s : State) :
    (tpOf (emitWaits t y s) t).idx = { (tpOf s t).idx with await := (tpOf s t).idx.objs.map (fun e => e.dsnum), emitting := some y.ticket }
      ∧ (tpOf (emitWaits t y s) t).vfy = (tpOf s t).vfy := by
  have h := stages_takeDesc t 6 y.ticket s t
  rw [emitWaits, tpOf_modIdx]
  exact ⟨by rw [idx_of_stages h], (vfy_of_stages h :)⟩

theorem awaitDone_emitWaits (t : Tid) (y : Slot) (s : State) :
    awaitDone (tpOf (emitWaits t y s) t) = (tpOf s t).idx.objs.all (fun e => dsWritten (tpOf s t) e.dsnum) := by
  obtain ⟨hidx, hvfy⟩ := tpOf_emitWaits t y s
  have hw : dsWritten (tpOf (emitWaits t y s) t) = dsWritten (tpOf s t) := by
    funext n
    rw [dsWritten, hidx, hvfy, dsWritten]
  rw [awaitDone, hw, hidx, List.all_map]
  rfl

section
variable {t : Tid} {y : Slot} {o : OpenDs} {s : State} (hy : HeadIs t 6 2 y s) (hemit : (tpOf s t).idx.emitting = none)
  (ho : emitDs s t y.desc = some o)
include hy hemit ho

theorem idxEmitOp_of_frozen {f : Frozen} (hf : (tpOf s t).idx.frozen = some f) : idxEmitOp t s = emitSegment t y o f s := by
  rw [idxEmitOp, hemit, if_neg (by simp), onHead_of_headIs hy]
  dsimp only
  rw [ho]
  dsimp only
  rw [hf]

theorem idxEmitOp_of_first (hf : (tpOf s t).idx.frozen = none) : idxEmitOp t s
    = if awaitDone (tpOf (emitWaits t y s) t) then
        match (tpOf (freezeIndex t (emitWaits t y s)) t).idx.frozen with
        | some f => emitSegment t y o f (freezeIndex t (emitWaits t y s))
        | none => freezeIndex t (emitWaits t y s)
      else emitWaits t y s := by
  rw [idxEmitOp, hemit, if_neg (by simp), onHead_of_headIs hy]
  dsimp only
  rw [ho]
  dsimp only
  rw [hf]
  rfl
end

/-- Settles O25: each descriptor by what its operation does with the port's head; of an EMIT, the index it waits for or freezes. -/
theorem verifyAndIndex : Obligations.VerifyAndIndex := by
  refine ⟨fun t y d k report s => ⟨fun hy hmap hfits htok hslot => ?_, fun hd hk hun => ?_, fun hd hk n hn h0 => ?_, fun hy hfits hn => ?_,
      fun hoff => ?_, fun hon hmode => ?_, fun hon hmode => ?_⟩,
    fun t y scid seq off e s => ⟨fun hy hfits hent => ?_, fun hy hfits hent => ?_, fun hy hfits hno => ?_, fun hy hfits hfind => ?_,
      fun o f hy hemit ho hf => ?_, fun o hy hemit ho hf => ⟨fun hall => ?_, fun hex => ?_⟩, fun o hemit hslot ho hall => ?_⟩⟩
  · refine ⟨_, next_congr (congrArg settleHost (vfyArmOp_valid hy hmap hfits htok hslot)), ?_⟩
    have hvfy := vfy_of_stages (stages_takeDesc t 4 y.ticket (tracked t (y.desc.extractLsb' 64 32) (y.desc.extractLsb' 96 32) s) t)
    obtain ⟨hex, hall⟩ := mem_modDs (f := fun x : Ds => { x with
        more := x.more ++ (x.armed.map (fun k => (k, x.rel))).toList
        armed := some y.ticket, rel := fieldB y.desc 129 1 == 1, token := y.desc.extractLsb' 96 32 }) (fun _ => rfl)
      (hvfy ▸ mem_tracked t (y.desc.extractLsb' 64 32) (y.desc.extractLsb' 96 32) s :
        ∃ d ∈ (tpOf (takeDesc t 4 y.ticket (tracked t (y.desc.extractLsb' 64 32) (y.desc.extractLsb' 96 32) s)) t).vfy.ds,
          d.dsnum = y.desc.extractLsb' 64 32)
    refine ⟨hex, fun z hz hzn => ?_⟩
    obtain ⟨d, rfl⟩ := hall z hz hzn
    exact ⟨rfl, rfl, fieldB_bit y.desc 129⟩
  · exact next_congr (congrArg settleHost ((vfySettleOp_of_find hd hk).trans (settleArm_of_none hun t k s)))
  · obtain ⟨u, v, hv, hreg, hout⟩ := settleArm_of_unresolved hn h0 t k s
    refine ⟨u, v, hv, hreg, ?_⟩
    rcases hout with h | h | h
    · exact Or.inl (next_congr (congrArg settleHost ((vfySettleOp_of_find hd hk).trans h)))
    · exact Or.inr (Or.inl (next_congr (congrArg settleHost ((vfySettleOp_of_find hd hk).trans h))))
    · exact Or.inr (Or.inr (next_congr (congrArg settleHost ((vfySettleOp_of_find hd hk).trans h))))
  · exact next_congr (rwqPolicyOp_valid hy hfits hn)
  · exact next_congr (congrArg settleHost (if_pos hoff))
  · exact next_congr (congrArg settleHost ((verifyReportOp_of_online hon report).trans (if_neg hmode)))
  · exact next_congr (congrArg settleHost ((verifyReportOp_of_online hon report).trans (if_pos hmode)))
  · refine next_congr (congrArg settleHost ((idxAddOp_valid hy hfits).trans ?_))
    rw [hent]
  · refine next_congr (congrArg settleHost ((idxAddOp_valid hy hfits).trans ?_))
    rw [hent]
  · refine next_congr ((idxFindOp_valid hy hfits).trans ?_)
    rw [List.find?_eq_none.mpr (fun z hz h => hno z hz (beq_iff_eq.mp h))]
  · refine next_congr ((idxFindOp_valid hy hfits).trans ?_)
    rw [hfind]
  · exact next_congr (congrArg settleHost (idxEmitOp_of_frozen hy hemit ho hf))
  · obtain ⟨f, hfro⟩ := frozen_freezeIndex t (emitWaits t y s)
    have hdone : awaitDone (tpOf (emitWaits t y s) t) = true := (awaitDone_emitWaits t y s).trans (List.all_eq_true.mpr hall)
    refine ⟨f, freezeIndex t (emitWaits t y s), next_congr (congrArg settleHost ((idxEmitOp_of_first hy hemit ho hf).trans ?_)), hfro⟩
    rw [if_pos hdone, hfro]
  · obtain ⟨e, he, hno⟩ := hex
    have hdone : awaitDone (tpOf (emitWaits t y s) t) ≠ true := fun h => by
      have := List.all_eq_true.mp ((awaitDone_emitWaits t y s).symm.trans h) e he
      rw [hno] at this
      cases this
    obtain ⟨hidx, -⟩ := tpOf_emitWaits t y s
    refine ⟨emitWaits t y s, next_congr (congrArg settleHost ((idxEmitOp_of_first hy hemit ho hf).trans (if_neg hdone))), ?_, ?_⟩ <;> rw [hidx]
  · obtain ⟨f, hfro⟩ := frozen_freezeIndex t s
    refine ⟨f, hfro, next_congr (congrArg settleHost ?_)⟩
    have hdone : awaitDone (tpOf s t) = true := List.all_eq_true.mpr hall
    unfold indexFreezeOp
    simp only [hemit, hslot, ho, hdone, if_true, hfro]

end Sys2Proof.Machine
end

section
/-! The context cache's lines and its control (R293, R294). -/
namespace Sys2Proof.Machine
open Sys2Proof.Safety

/-! ### Bytes that reach HBM -/

/-- Nothing but memory changes. -/
theorem flipHbm_only (a : Nat) (s : State) : flipHbm a s = { s with mem := (flipHbm a s).mem } := by
  unfold flipHbm
  split <;> rfl

theorem hbmPut_only (a : Nat) (l : List Byte) (s : State) : hbmPut a l s = { s with mem := (hbmPut a l s).mem } := by
  cases l with
  | nil => rfl
  | cons b l =>
    unfold hbmPut
    dsimp only
    rw [flipHbm_only]
    rfl

theorem sysPut_only (a : Nat) (l : List Byte) (s : State) : sysPut a l s = { s with mem := (sysPut a l s).mem } := by
  unfold sysPut
  split
  · exact hbmPut_only a l s
  · rw [hbmPut_only, hbmPut_only a l s]

@[simp] theorem hbmPut_cache (a : Nat) (l : List Byte) (s : State) : (hbmPut a l s).cache = s.cache := by rw [hbmPut_only]
@[simp] theorem sysPut_cache (a : Nat) (l : List Byte) (s : State) : (sysPut a l s).cache = s.cache := by rw [sysPut_only]
@[simp] theorem sysPut_regs (a : Nat) (l : List Byte) (s : State) : (sysPut a l s).regs = s.regs := by rw [sysPut_only]
@[simp] theorem sysPut_tbx (a : Nat) (l : List Byte) (s : State) : (sysPut a l s).tbx = s.tbx := by rw [sysPut_only]
@[simp] theorem sysPut_codec (a : Nat) (l : List Byte) (s : State) : (sysPut a l s).codec = s.codec := by rw [sysPut_only]

/-! ### Lines at sets and ways (R288) -/

theorem lineAt_putLine (a w : Nat) (l : Line) (s : State) (b v : Nat) :
    lineAt (putLine a w l s) b v = if 16 * b + v = 16 * a + w then l else lineAt s b v := SMap.get_set _ _ _ _ _

@[simp] theorem lineAt_putLine_self (a w : Nat) (l : Line) (s : State) : lineAt (putLine a w l s) a w = l := SMap.get_set_self _ _ _ _

/-! ### Lines that are cleaned or invalidated (R293, R294) -/

/-- What cleaning leaves of a line: the clean line, or none. -/
def cleaned (keep : Bool) (l : Line) : Line := if keep then { l with dirty := false } else Line.reset

theorem dirty_cleaned (keep : Bool) (l : Line) : (cleaned keep l).dirty = false := by cases keep <;> rfl

/-- Clean one line of the cache. -/
def cleanOne (back keep : Bool) (c : Nat × Line) (s : State) : State :=
  let s := if back then writeBack c.2 s else s
  putLine (c.1 / 16) (c.1 % 16) (if keep then { c.2 with dirty := false } else Line.reset) s

theorem cleanSome_eq (p : Nat → Line → Bool) (back keep : Bool) (s : State) :
    cleanSome p back keep s = forAll (linesWhere s p) (cleanOne back keep) s := rfl

/-- What cleaning leaves alone: all but memory, the lines and the count of write-backs. -/
def uncleaned (s : State) : State := { s with mem := Mem.reset, cache := { s.cache with lines := {}, wbacks := 0 } }

theorem uncleaned_writeBack (l : Line) (s : State) : uncleaned (writeBack l s) = uncleaned s := by
  unfold writeBack
  split
  · rw [sysPut_only]
    rfl
  · rfl

theorem lines_writeBack (l : Line) (s : State) : (writeBack l s).cache.lines = s.cache.lines := by
  unfold writeBack
  split
  · exact (congrArg Cache.lines (sysPut_cache (l.tag * 128) l.bytes s) :)
  · rfl

theorem uncleaned_cleanOne (back keep : Bool) (c : Nat × Line) (s : State) : uncleaned (cleanOne back keep c s) = uncleaned s := by
  cases back
  · rfl
  · exact Eq.trans rfl (uncleaned_writeBack c.2 s)

theorem lines_cleanOne (back keep : Bool) (c : Nat × Line) (s : State) :
    (cleanOne back keep c s).cache.lines = s.cache.lines.set Line.reset c.1 (cleaned keep c.2) := by
  have hkey : 16 * (c.1 / 16) + c.1 % 16 = c.1 := by omega
  cases back
  · show s.cache.lines.set Line.reset (16 * (c.1 / 16) + c.1 % 16) _ = _
    rw [hkey]
    rfl
  · show (writeBack c.2 s).cache.lines.set Line.reset (16 * (c.1 / 16) + c.1 % 16) _ = _
    rw [hkey, lines_writeBack]
    rfl

theorem mem_cleanOne_of_discard (keep : Bool) (c : Nat × Line) (s : State) : (cleanOne false keep c s).mem = s.mem := rfl

/-- A fold of cleanings leaves at each place a cleaned line, where one of its cells was cleaned, or else what was there. -/
theorem get_cleanAll (back keep : Bool) (l : List (Nat × Line)) (s : State) (k : Nat) :
    (∃ c ∈ l, (forAll l (cleanOne back keep) s).cache.lines.get Line.reset k = cleaned keep c.2)
      ∨ ((∀ c ∈ l, c.1 ≠ k) ∧ (forAll l (cleanOne back keep) s).cache.lines.get Line.reset k = s.cache.lines.get Line.reset k) := by
  induction l generalizing s with
  | nil => exact Or.inr ⟨fun _ hc => absurd hc List.not_mem_nil, rfl⟩
  | cons a l ih =>
    show (∃ c ∈ a :: l, (forAll l (cleanOne back keep) (cleanOne back keep a s)).cache.lines.get Line.reset k = _)
      ∨ ((∀ c ∈ a :: l, c.1 ≠ k) ∧ (forAll l (cleanOne back keep) (cleanOne back keep a s)).cache.lines.get Line.reset k = _)
    rcases ih (cleanOne back keep a s) with ⟨c, hc, h⟩ | ⟨hne, h⟩
    · exact Or.inl ⟨c, List.mem_cons_of_mem a hc, h⟩
    · rw [h, lines_cleanOne, SMap.get_set]
      by_cases hk : k = a.1
      · exact Or.inl ⟨a, List.mem_cons_self, if_pos hk⟩
      · exact Or.inr ⟨List.forall_mem_cons.mpr ⟨fun hc => hk hc.symm, hne⟩, if_neg hk⟩

/-- Cleaning leaves at each place a cleaned line, or a line that it was not to clean. -/
theorem lineAt_cleanSome (p : Nat → Line → Bool) (back keep : Bool) (s : State) (set : Nat) {w : Nat} (hw : w < 16) :
    (∃ x, lineAt (cleanSome p back keep s) set w = cleaned keep x)
      ∨ (lineAt (cleanSome p back keep s) set w = lineAt s set w ∧ ((lineAt s set w).valid = true → p w (lineAt s set w) = false)) := by
  rcases get_cleanAll back keep (linesWhere s p) s (16 * set + w) with ⟨c, -, h⟩ | ⟨hne, h⟩
  · exact Or.inl ⟨c.2, h⟩
  · refine Or.inr ⟨h, fun hv => ?_⟩
    by_contra hp
    have hmem : (16 * set + w, lineAt s set w) ∈ s.cache.lines.cells := SMap.mem_cells_of_get_ne (fun hr => by
      rw [show lineAt s set w = Line.reset from hr] at hv
      cases hv)
    refine hne _ (List.mem_filter.mpr ⟨hmem, ?_⟩) rfl
    rw [hv, Bool.true_and, show (16 * set + w) % 16 = w by omega]
    exact Bool.not_eq_false _ ▸ hp

/-- Where lines are kept, none that was to be cleaned is dirty. -/
theorem dirty_cleanSome {p : Nat → Line → Bool} {back : Bool} {s : State} {set w : Nat} (hw : w < 16)
    (hv : (lineAt (cleanSome p back true s) set w).valid = true) (hp : p w (lineAt (cleanSome p back true s) set w) = true) :
    (lineAt (cleanSome p back true s) set w).dirty = false := by
  rcases lineAt_cleanSome p back true s set hw with ⟨x, h⟩ | ⟨h, hno⟩
  · rw [h]
    exact dirty_cleaned true x
  · rw [h] at hv hp
    exact absurd (hp.symm.trans (hno hv)) (by decide)

/-- Where lines are not kept, none that was to be cleaned stands. -/
theorem valid_cleanSome {p : Nat → Line → Bool} {back : Bool} {s : State} {set w : Nat} (hw : w < 16)
    (hp : p w (lineAt (cleanSome p back false s) set w) = true) : (lineAt (cleanSome p back false s) set w).valid = false := by
  rcases lineAt_cleanSome p back false s set hw with ⟨x, h⟩ | ⟨h, hno⟩
  · rw [h]
    rfl
  · rw [h] at hp ⊢
    exact Bool.eq_false_iff.mpr fun hv => absurd (hp.symm.trans (hno hv)) (by decide)

theorem uncleaned_cleanSome (p : Nat → Line → Bool) (back keep : Bool) (s : State) : uncleaned (cleanSome p back keep s) = uncleaned s :=
  forAll_keeps (g := uncleaned) (uncleaned_cleanOne back keep) (linesWhere s p) s

theorem mem_cleanSome_of_discard (p : Nat → Line → Bool) (keep : Bool) (s : State) : (cleanSome p false keep s).mem = s.mem :=
  forAll_keeps (g := State.mem) (mem_cleanOne_of_discard keep) (linesWhere s p) s

/-! ### Ways (R293) -/

/-- A way that is cleaned holds nothing and is no longer being cleaned. -/
theorem emptyWay_empties {w : Nat} (hw : w < 16) (s : State) :
    (∀ x ∈ (emptyWay w s).cache.clean, x.1 ≠ w) ∧ ∀ set, (lineAt (emptyWay w s) set w).valid = false := by
  refine ⟨fun x hx => ?_, fun set => ?_⟩
  · exact bne_iff_ne.mp (List.mem_filter.mp hx).2
  · show (lineAt (cleanSome (fun v _ => v == w) true false s) set w).valid = false
    exact valid_cleanSome hw (beq_self_eq_true w)

theorem ret_retireWay {w : Nat} (hw : w < 16) (s : State) (k : Nat) :
    (retireWay w s).cache.ret.getLsbD k = (s.cache.ret.getLsbD k || decide (k = w)) := by
  unfold retireWay
  split
  · next h =>
    rw [bitOf_toNat] at h
    by_cases hk : k = w
    · rw [hk, h]
      rfl
    · rw [decide_eq_false hk, Bool.or_false]
  · show (s.cache.ret ||| BitVec.ofNat 16 (2 ^ w)).getLsbD k = _
    rw [BitVec.getLsbD_or, BitVec.getLsbD_ofNat, Nat.testBit_two_pow]
    by_cases hk : w = k
    · rw [decide_eq_true hk, decide_eq_true hk.symm, decide_eq_true (hk ▸ hw)]
      rfl
    · rw [decide_eq_false hk, decide_eq_false (Ne.symm hk), Bool.and_false]

theorem ret_retireWays {l : List Nat} (hl : ∀ w ∈ l, w < 16) (s : State) (k : Nat) :
    (forAll l retireWay s).cache.ret.getLsbD k = (s.cache.ret.getLsbD k || decide (k ∈ l)) := by
  induction l generalizing s with
  | nil => simp [forAll]
  | cons w l ih =>
    obtain ⟨hw, hl⟩ := List.forall_mem_cons.mp hl
    show (forAll l retireWay (retireWay w s)).cache.ret.getLsbD k = _
    rw [ih hl, ret_retireWay hw, Bool.or_assoc, ← Bool.decide_or]
    simp only [List.mem_cons]

theorem ccWayRetire_ret (ways : BitVec 16) (s : State) : (ccWayRetire ways s).cache.ret = s.cache.ret ||| ways := by
  refine BitVec.eq_of_getLsbD_eq fun k hk => ?_
  rw [ccWayRetire, ret_retireWays (fun w hw => (mem_setBits.mp hw).1), BitVec.getLsbD_or]
  have hmem : decide (k ∈ setBits 16 ways.toNat) = ways.getLsbD k := by
    rw [← bitOf_toNat, Bool.eq_iff_iff, decide_eq_true_iff, mem_setBits]
    exact and_iff_right hk
  rw [hmem]

/-- Ways that go down are cleaned first, and the others stay (R293). -/
theorem ccWayPower_on {ways : BitVec 16} {s : State} (hmode : s.ccMode = true) : ∃ v : State,
    ccWayPower ways s = { v with cache := { v.cache with
        pwr := ways, clean := v.cache.clean ++ ((List.range 16).filter (fun w => bitOf s.cache.pwr.toNat w && !bitOf ways.toNat w)).map (fun w => (w, 0)) } }
      ∧ (s.cache.clean = [] → v = s) := by
  unfold ccWayPower
  rw [hmode]
  refine ⟨_, rfl, fun hclean => ?_⟩
  have hstay (l : List Nat) : forAll l (fun w s => if s.cache.clean.any (fun c => c.1 == w && c.2 == 0) then emptyWay w s else s) s = s := by
    induction l with
    | nil => rfl
    | cons w l ih =>
      show forAll l _ (if s.cache.clean.any _ then emptyWay w s else s) = s
      rw [hclean, List.any_nil, if_neg Bool.false_ne_true]
      exact ih
  exact hstay _

/-- Of ways that all stay powered none goes down. -/
theorem no_way_down {old ways : BitVec 16} (h : old &&& ways = old) :
    (List.range 16).filter (fun w => bitOf old.toNat w && !bitOf ways.toNat w) = [] := by
  refine List.filter_eq_nil_iff.mpr fun w _ hw => ?_
  rw [bitOf_toNat, bitOf_toNat, ← h, BitVec.getLsbD_and] at hw
  cases hb : ways.getLsbD w <;> simp [hb] at hw

/-! ### Range operations (R294) -/

/-- A range operation that starts. -/
theorem ccRange_starts {cmd : Nat} {s : State} (hidle : s.cache.rngBusy = false) :
    ccRange cmd s = cleanSome (fun _ l => decide (pair s (Reg.ccRngbase 0) (Reg.ccRngbase 1) / 128 ≤ l.tag
        ∧ l.tag < pair s (Reg.ccRngbase 0) (Reg.ccRngbase 1) / 128 + fld s Reg.ccRnglen Fld.ccRnglenLines))
      (cmd != 3) (cmd == 1) (setFld Reg.ccRngcmd Fld.ccRngcmdCmd cmd (modCache (fun c => { c with rngBusy := true }) s)) := by
  rw [ccRange, hidle]
  rfl

/-- The command stands in CC_RNGCMD while the walk runs. -/
theorem cleanSome_ran (p : Nat → Line → Bool) (back keep : Bool) (s : State) {cmd : Nat} (hcmd : cmd < 4) :
    let u := cleanSome p back keep (setFld Reg.ccRngcmd Fld.ccRngcmdCmd cmd (modCache (fun c => { c with rngBusy := true }) s))
    u.cache.rngBusy = true ∧ fld u Reg.ccRngcmd Fld.ccRngcmdCmd = cmd := by
  intro u
  have hu := uncleaned_cleanSome p back keep (setFld Reg.ccRngcmd Fld.ccRngcmdCmd cmd (modCache (fun c => { c with rngBusy := true }) s))
  refine ⟨(congrArg (fun z : State => z.cache.rngBusy) hu :), ?_⟩
  have hregs : u.regs = (setFld Reg.ccRngcmd Fld.ccRngcmdCmd cmd (modCache (fun c => { c with rngBusy := true }) s)).regs :=
    (congrArg State.regs hu :)
  rw [fld_of_regs hregs, fld_setFld_self (by decide)]
  exact Nat.mod_eq_of_lt hcmd

section
variable {s : State} (hidle : s.cache.rngBusy = false)
include hidle

/-- The operations that invalidate leave no line of the range. -/
theorem ccRange_invalidates {cmd : Nat} (hcmd : cmd ≠ 1) {set v : Nat} (hv : v < 16)
    (hlo : pair s (Reg.ccRngbase 0) (Reg.ccRngbase 1) / 128 ≤ (lineAt (ccRange cmd s) set v).tag)
    (hhi : (lineAt (ccRange cmd s) set v).tag < pair s (Reg.ccRngbase 0) (Reg.ccRngbase 1) / 128 + fld s Reg.ccRnglen Fld.ccRnglenLines) :
    (lineAt (ccRange cmd s) set v).valid = false := by
  rw [ccRange_starts hidle, beq_false_of_ne hcmd] at hlo hhi ⊢
  exact valid_cleanSome hv (decide_eq_true ⟨hlo, hhi⟩)

/-- A clean leaves no dirty line in the range. -/
theorem ccRange_cleans {set v : Nat} (hv : v < 16) (hvalid : (lineAt (ccRange 1 s) set v).valid = true)
    (hlo : pair s (Reg.ccRngbase 0) (Reg.ccRngbase 1) / 128 ≤ (lineAt (ccRange 1 s) set v).tag)
    (hhi : (lineAt (ccRange 1 s) set v).tag < pair s (Reg.ccRngbase 0) (Reg.ccRngbase 1) / 128 + fld s Reg.ccRnglen Fld.ccRnglenLines) :
    (lineAt (ccRange 1 s) set v).dirty = false := by
  rw [ccRange_starts hidle] at hvalid hlo hhi ⊢
  exact dirty_cleanSome hv hvalid (decide_eq_true ⟨hlo, hhi⟩)

theorem ccRange_ran {cmd : Nat} (hcmd : cmd < 4) : (ccRange cmd s).cache.rngBusy = true ∧ fld (ccRange cmd s) Reg.ccRngcmd Fld.ccRngcmdCmd = cmd := by
  rw [ccRange_starts hidle]
  exact cleanSome_ran _ _ _ s hcmd

end

/-- Settles O56: what cleaning leaves at each place gives the states after an operation; a source that may not write is logged. -/
theorem cacheControl : Obligations.CacheControl := by
  refine ⟨fun ep ways en w s => ⟨fun hrom hdbg => ?_, fun hmode => ?_, fun hmode => ?_, fun hb => ?_, fun hb => ?_, fun hmode hall hclean => ?_,
      fun hmode => ?_, ?_, fun hno => ?_, fun hex => ?_⟩, fun s => ⟨fun hbusy => ?_, fun hidle => ?_, rfl⟩⟩
  · have hmay : srcMay (.host ep) [0] s = false := (srcMay_host ep 0 s).trans hdbg
    exact ⟨next_congr (byDebug_of_denied hmay hrom), next_congr (byDebug_of_denied hmay hrom), next_congr (byDebug_of_denied hmay hrom)⟩
  · exact ⟨next_congr (if_pos hmode), next_congr (if_pos hmode)⟩
  · have hno : ¬s.ccMode = true := by rw [hmode]; decide
    have hen (b : Bool) : ccEnable b s = if b then (if s.cache.initDone then modCache (fun c => { c with enabled := true }) s
        else logAccess Reg.ccCtrl s) else modCache (fun c => { c with enabled := false }) (cleanSome (fun _ _ => true) true true s) := if_neg hno
    refine ⟨next_congr (if_neg hno), next_congr (if_pos (show (!s.ccMode) = true by rw [hmode]; rfl)), fun hinit => next_congr ((hen true).trans ?_),
      fun hinit => next_congr ((hen true).trans ?_), _, next_congr (hen false), rfl, fun set v hv hvalid => ?_⟩
    · rw [if_pos rfl, hinit, if_neg Bool.false_ne_true]
    · rw [if_pos rfl, hinit, if_pos rfl]
      rfl
    · exact dirty_cleanSome hv hvalid rfl
  · exact next_congr (if_neg (by rw [hb]; decide))
  · exact ⟨_, next_congr (if_pos hb), rfl, rfl, fun set v => rfl⟩
  · obtain ⟨v, hv, hs⟩ := ccWayPower_on (ways := ways) hmode
    refine next_congr (hv.trans ?_)
    rw [hs hclean, no_way_down hall, List.map_nil, List.append_nil]
  · obtain ⟨v, hv, -⟩ := ccWayPower_on (ways := ways) hmode
    refine ⟨_, next_congr hv, rfl, fun k hk hold hnew => List.mem_append_right _ (List.mem_map.mpr ⟨k, ?_, rfl⟩)⟩
    rw [List.mem_filter, List.mem_range, bitOf_toNat, bitOf_toNat, hold, hnew]
    exact ⟨hk, rfl⟩
  · exact ⟨_, rfl, ccWayRetire_ret ways s⟩
  · refine next_congr (if_neg fun h => ?_)
    obtain ⟨x, hx, hb⟩ := List.any_eq_true.mp h
    exact hno x hx (beq_iff_eq.mp (Bool.and_eq_true_iff.mp hb).1)
  · obtain ⟨x, hx, hw, hkind⟩ := hex
    have hany : s.cache.clean.any (fun c => c.1 == w.val && c.2 != 2) = true :=
      List.any_eq_true.mpr ⟨x, hx, Bool.and_eq_true_iff.mpr ⟨beq_iff_eq.mpr hw, bne_iff_ne.mpr hkind⟩⟩
    obtain ⟨hclean, hlines⟩ := emptyWay_empties w.isLt s
    exact ⟨_, next_congr (if_pos hany), hclean, hlines⟩
  · exact ⟨next_congr (if_pos hbusy), next_congr (if_pos hbusy), next_congr (if_pos hbusy)⟩
  · refine ⟨⟨_, rfl, ccRange_ran hidle (by decide), fun set v hv hvalid hlo hhi => ?_⟩, ⟨_, rfl, ccRange_ran hidle (by decide), fun set v hv hlo hhi => ?_⟩,
      _, rfl, ccRange_ran hidle (by decide), ?_, fun set v hv hlo hhi => ?_⟩
    · exact ccRange_cleans hidle hv hvalid hlo hhi
    · exact ccRange_invalidates hidle (by decide) hv hlo hhi
    · show (ccRange 3 s).mem = s.mem
      rw [ccRange_starts hidle]
      exact mem_cleanSome_of_discard _ _ _
    · exact ccRange_invalidates hidle (by decide) hv hlo hhi

end Sys2Proof.Machine
end

section
/-! The scratchpad (R284, R295), the scrubber, flips and remaps (R299, R300, R303). -/
namespace Sys2Proof.Machine
open Sys2Proof.Safety

/-! ### The scratchpad -/

theorem spReady_emptyWay (w : Nat) (s : State) : (emptyWay w s).cache.spReady = s.cache.spReady :=
  (congrArg (fun z : State => z.cache.spReady) (uncleaned_cleanSome (fun v _ => v == w) true false s) :)

theorem sp_ccScratchpad (sp : BitVec 8) (s : State) :
    (ccScratchpad sp s).cache.sp = sp ∧ (ccScratchpad sp s).cache.spReady = s.cache.spReady &&& sp := by
  unfold ccScratchpad
  extract_lets on off v
  have hv : v.cache.spReady = s.cache.spReady :=
    forAll_keeps (g := fun z : State => z.cache.spReady)
      (f := fun i s => modCache (fun c => { c with spMem := c.spMem.clear (i * 2 ^ 20) (2 ^ 20) }) (emptyWay (8 + i) s))
      (fun i z => spReady_emptyWay (8 + i) z) off s
  refine ⟨rfl, ?_⟩
  show v.cache.spReady &&& sp = _
  rw [hv]

theorem toScratchpad_iff {s : State} {i : Nat} : s.cache.clean.any (fun c => c.1 == 8 + i && c.2 == 2) = true ↔ (8 + i, 2) ∈ s.cache.clean := by
  rw [List.any_eq_true]
  constructor
  · rintro ⟨⟨w, k⟩, hx, hb⟩
    obtain ⟨hw, hk⟩ := Bool.and_eq_true_iff.mp hb
    obtain rfl : w = 8 + i := beq_iff_eq.mp hw
    obtain rfl : k = 2 := beq_iff_eq.mp hk
    exact hx
  · exact fun h => ⟨_, h, by simp⟩

/-- A slot that becomes ready reads zero. -/
theorem scratchpadReady_of_cleaned {s : State} {i : Nat} (hi : i < 8) (h : (8 + i, 2) ∈ s.cache.clean) :
    (scratchpadReady i s).cache.spReady.getLsbD i = true
      ∧ ∀ k, k < 2 ^ 20 → (scratchpadReady i s).cache.spMem.get 0 (i * 2 ^ 20 + k) = 0 := by
  rw [scratchpadReady, if_pos (toScratchpad_iff.mpr h)]
  constructor
  · show ((emptyWay (8 + i) s).cache.spReady ||| BitVec.ofNat 8 (2 ^ i)).getLsbD i = true
    rw [BitVec.getLsbD_or, BitVec.getLsbD_ofNat, Nat.testBit_two_pow_self, decide_eq_true hi, Bool.and_self, Bool.or_true]
  · intro k hk
    show (((emptyWay (8 + i) s).cache.spMem).clear (i * 2 ^ 20) (2 ^ 20)).get 0 (i * 2 ^ 20 + k) = 0
    rw [SMap.get_clear, if_pos (by omega)]

/-- No structure of a system area lies below HBM. -/
theorem sysView_below {a : Nat} {l : List Byte} (h : a + l.length ≤ groupAddr 0) (s : State) : sysView s a l = l := by
  refine List.ext_getElem (List.length_mapIdx) fun i h₁ h₂ => ?_
  have hnone : sysByte s (a + i) = none := by
    rw [sysByte, sysPlace, if_pos (by omega)]
  simp only [sysView, List.getElem_mapIdx, hnone]
  exact ite_self _

/-- An access that reaches the scratchpad window. -/
theorem scratchpadAccess_of_reach {agent addr : Nat} {wr : Option (List Byte)} {s : State} (hlo : 0x1000000000 ≤ addr) (hhi : addr < 0x1000800000)
    (hreach : agent = 3 ∨ (4 ≤ agent ∧ agent < 12)) : scratchpadAccess agent addr wr s
      = if s.cache.spReady.getLsbD ((addr - 0x1000000000) / 2 ^ 20) then
          match wr with
          | some l => { s with cache := { s.cache with
            spMem := s.cache.spMem.write 0 (addr - 0x1000000000) (l.take (128 - (addr - 0x1000000000) % 128)) } }
          | none => serve agent addr (s.cache.spMem.read 0 ((addr - 0x1000000000) / 128 * 128) 128) s
        else
          match wr with
          | some _ => logAccess addr s
          | none => serve agent addr (zeros 128) (logAccess addr s) := by
  have hb : (agent == 3 || decide (4 ≤ agent ∧ agent < 12)) = true := by simpa using hreach
  unfold scratchpadAccess
  dsimp only
  rw [hb, if_neg (by simp [spWindow]; omega), bitOf_toNat]
  cases wr <;> rfl

/-- What is served of the window is what the scratchpad holds. -/
theorem serve_window {agent addr : Nat} {l : List Byte} (hhi : addr < 0x1000800000) (hl : l.length = 128) (s : State) :
    serve agent addr l s = { s with cache := { s.cache with reads := (agent, addr, l) :: s.cache.reads } } := by
  have hview : sysView s (addr / 128 * 128) l = l := sysView_below (by rw [hl]; show _ ≤ 0x10000000000; omega) s
  show modCache (fun c => { c with reads := (agent, addr, sysView s (addr / 128 * 128) l) :: c.reads }) s = _
  rw [hview]
  rfl

/-! ### The scrubber -/

theorem scrubLine_rests {s : State} (h : fld s Reg.scrCfg Fld.scrCfgEn = 0 ∨ s.mem.swept = false ∨ 2 ≤ s.hif.ps) : scrubLine s = s := by
  refine if_neg ?_
  rintro ⟨hen, hswept, hps⟩
  rcases h with h | h | h
  · exact absurd (h.symm.trans hen) (by decide)
  · exact absurd (h.symm.trans hswept) (by decide)
  · omega

/-- A line without errors stays as it is. -/
theorem scrubLine_mem {s : State} (hen : fld s Reg.scrCfg Fld.scrCfgEn = 1) (hswept : s.mem.swept = true) (hps : s.hif.ps < 2)
    (hbad : s.mem.bad.range (s.mem.scrPos / 8) 16 = []) :
    (scrubLine s).mem = { s.mem with scrPos := (scrubNext s s.mem.scrPos).1 } := by
  unfold scrubLine
  rw [if_pos ⟨hen, hswept, hps⟩]
  extract_lets a before s₁ s₂ n s₃
  have h₁ : s₁ = s := by
    show forAll (s.mem.bad.range (s.mem.scrPos / 8) 16) scrubBeat s = s
    rw [hbad]
    rfl
  clear_value s₁
  have h₂ : s₂ = s := by
    show (if s.mem.poison.length < s₁.mem.poison.length then _ else s₁) = s
    rw [h₁]
    exact if_neg (Nat.lt_irrefl _)
  clear_value s₂
  have h₃ : s₃.mem = s.mem := by
    show (if n.2 then setFld _ _ _ s₂ else s₂).mem = _
    rw [h₂]
    split
    · exact setFld_mem _ _ _ s
    · rfl
  clear_value s₃
  show ({ s₃.mem with scrPos := (scrubNext s₂ a).1 } : Mem) = _
  rw [h₃, h₂]

/-! ### Flips and remaps -/

theorem fld_memFlipArm {sel : BitVec 13} {s : State} (h : flipTargetFits s sel = true) :
    (memFlipArm sel s).mem = { s.mem with flipArm := true }
      ∧ fld (memFlipArm sel s) Reg.memFlipsel Fld.memFlipselTarget = sel.toNat % 4096
      ∧ fld (memFlipArm sel s) Reg.memFlipsel Fld.memFlipselKind = sel.toNat / 4096 := by
  have harm : memFlipArm sel s = { setFld Reg.memFlipsel Fld.memFlipselTarget (fieldB sel 0 12)
      (setFld Reg.memFlipsel Fld.memFlipselKind (fieldB sel 12 1) s) with mem := { s.mem with flipArm := true } } := by
    unfold memFlipArm
    rw [h]
    rfl
  have hreg (f : Fld) : fld (memFlipArm sel s) Reg.memFlipsel f = fld (setFld Reg.memFlipsel Fld.memFlipselTarget (fieldB sel 0 12)
      (setFld Reg.memFlipsel Fld.memFlipselKind (fieldB sel 12 1) s)) Reg.memFlipsel f := fld_of_regs (by rw [harm]) _ f
  refine ⟨by rw [harm], ?_, ?_⟩
  · rw [hreg, fld_setFld_self (by decide)]
    show sel.toNat / 2 ^ 0 % 2 ^ 12 % 2 ^ 12 = _
    omega
  · rw [hreg, fld_setFld_disjoint (by decide) (by decide), fld_setFld_self (by decide)]
    show sel.toNat / 2 ^ 12 % 2 ^ 1 % 2 ^ 1 = _
    have := sel.isLt
    omega

/-- The fields of an entry that is written. -/
theorem fld_remap (n e : Nat) {word v : Nat} (hword : word < 2 ^ 16) (hv : v < 2) (s : State) :
    fld (setFld (Reg.memRemap n e) Fld.memRemapValid v (setFld (Reg.memRemap n e) Fld.memRemapWord word s)) (Reg.memRemap n e)
        Fld.memRemapWord = word
      ∧ fld (setFld (Reg.memRemap n e) Fld.memRemapValid v (setFld (Reg.memRemap n e) Fld.memRemapWord word s)) (Reg.memRemap n e)
        Fld.memRemapValid = v := by
  constructor
  · rw [fld_setFld_disjoint (by decide) (by decide), fld_setFld_self (by decide)]
    exact Nat.mod_eq_of_lt hword
  · rw [fld_setFld_self (by decide)]
    exact Nat.mod_eq_of_lt hv

theorem fld_withMem (m : Mem) (s : State) (off : Nat) (f : Fld) : fld { s with mem := m } off f = fld s off f := rfl

/-- An entry written valid copies its word to the spare. -/
theorem writeRemap_has {n : Nat} (h : hasRemap n = true) (e word : Nat) (s : State) : writeRemap n e word true s
    = { setFld (Reg.memRemap n e) Fld.memRemapValid 1 (setFld (Reg.memRemap n e) Fld.memRemapWord word s) with
        mem := { s.mem with spare := s.mem.spare.set 0 (4 * n + e) (s.mem.sram.get 0 (n * 65536 + word)) } } := by
  rw [writeRemap, if_pos h]
  rfl

theorem writeRemap_clears {n : Nat} (h : hasRemap n = true) (e word : Nat) (s : State) :
    writeRemap n e word false s = setFld (Reg.memRemap n e) Fld.memRemapValid 0 (setFld (Reg.memRemap n e) Fld.memRemapWord word s) := by
  rw [writeRemap, if_pos h]
  rfl

/-- Settles O57: the window, the scrubber and the registers each by the lemma on their operation. -/
theorem scratchpadAndScrub : Obligations.ScratchpadAndScrub := by
  refine ⟨fun sp slot agent addr l s => ⟨⟨_, rfl, sp_ccScratchpad sp s⟩, fun hno => ?_, fun hin => ?_, fun hout => ?_,
      fun hlo hhi hreach => ⟨fun hready => ?_, fun hready => ?_⟩⟩,
    fun sel n e word v s => ⟨fun h => next_congr (scrubLine_rests h), fun hen hswept hps hbad => ⟨_, rfl, scrubLine_mem hen hswept hps hbad⟩,
      fun h => ?_, fun h => ⟨_, rfl, fld_memFlipArm h⟩, fun h => ?_, fun hlo hhi => ?_⟩⟩
  · exact next_congr (if_neg fun h => hno _ (toScratchpad_iff.mp h) rfl)
  · exact ⟨_, rfl, scratchpadReady_of_cleaned slot.isLt hin⟩
  · refine next_congr (if_pos ?_)
    rcases hout with h | h | h
    · exact Or.inl h
    · refine Or.inr (Or.inl ?_)
      show 0x800000 ≤ addr.toNat - 0x1000000000
      omega
    · have hb : (agent.val == 3 || decide (4 ≤ agent.val ∧ agent.val < 12)) = false := Bool.eq_false_iff.mpr fun hb => h (by simpa using hb)
      exact Or.inr (Or.inr (by rw [hb]; rfl))
  · refine ⟨next_congr ((scratchpadAccess_of_reach hlo hhi hreach).trans (if_neg (by rw [hready]; decide))), _,
      next_congr ((scratchpadAccess_of_reach hlo hhi hreach).trans ((if_neg (by rw [hready]; decide)).trans (serve_window hhi rfl _))), rfl, rfl⟩
  · exact ⟨next_congr ((scratchpadAccess_of_reach hlo hhi hreach).trans (if_pos hready)),
      next_congr ((scratchpadAccess_of_reach hlo hhi hreach).trans ((if_pos hready).trans (serve_window hhi (SMap.length_read _ _ _ _) s)))⟩
  · exact next_congr (if_pos (by rw [hostWakes_puppeteer, h]; rfl))
  · refine next_congr (if_neg ?_)
    simp only [hasRemap, decide_eq_true_eq]
    omega
  · have hhas : hasRemap n.val = true := decide_eq_true ⟨hlo, hhi⟩
    cases v
    · obtain ⟨hword, hvalid⟩ := fld_remap n e word.isLt (by decide : 0 < 2) s
      exact ⟨_, next_congr (writeRemap_clears hhas e.val word.toNat s), hword, hvalid, fun h => Bool.noConfusion h,
        fun _ => (setFld_mem _ _ _ _).trans (setFld_mem _ _ _ s)⟩
    · obtain ⟨hword, hvalid⟩ := fld_remap n e word.isLt (by decide : 1 < 2) s
      exact ⟨_, next_congr (writeRemap_has hhas e.val word.toNat s), (fld_withMem _ _ _ _).trans hword, (fld_withMem _ _ _ _).trans hvalid,
        fun _ => SMap.get_set_self _ _ _ _, fun h => Bool.noConfusion h⟩

end Sys2Proof.Machine
end

section
/-! Accesses through the context cache, fills, snoops and evictions (R284, R285, R288-R292). -/
namespace Sys2Proof.Machine
open Sys2Proof.Safety

/-! ### What the system areas' structures and the cache leave of each other -/

theorem sysWriteByte_only (a : Nat) (b : Byte) (s : State) :
    sysWriteByte a b s = { s with tbx := (sysWriteByte a b s).tbx, codec := (sysWriteByte a b s).codec } := by
  unfold sysWriteByte
  split <;> rfl

/-- A write that reaches a structure changes only the buffer pool or the codec's contexts (R285). -/
theorem sysWrite_only (a : Nat) (l : List Byte) (s : State) :
    sysWrite a l s = { s with tbx := (sysWrite a l s).tbx, codec := (sysWrite a l s).codec } := by
  induction l generalizing a s with
  | nil => rfl
  | cons b l ih =>
    rw [sysWrite, ih, sysWriteByte_only]

@[simp] theorem sysWrite_cache (a : Nat) (l : List Byte) (s : State) : (sysWrite a l s).cache = s.cache := by rw [sysWrite_only]
@[simp] theorem sysWrite_mem (a : Nat) (l : List Byte) (s : State) : (sysWrite a l s).mem = s.mem := by rw [sysWrite_only]
@[simp] theorem sysWrite_regs (a : Nat) (l : List Byte) (s : State) : (sysWrite a l s).regs = s.regs := by rw [sysWrite_only]
@[simp] theorem sysWrite_ccMode (a : Nat) (l : List Byte) (s : State) : (sysWrite a l s).ccMode = s.ccMode := by rw [sysWrite_only]
@[simp] theorem sysWrite_hbmStacks (a : Nat) (l : List Byte) (s : State) : (sysWrite a l s).hbmStacks = s.hbmStacks := by rw [sysWrite_only]

theorem groupOfAddr_congr {s u : State} (h : u.hbmStacks = s.hbmStacks) (a : Nat) : groupOfAddr u a = groupOfAddr s a := by
  have hcount : groupCount u = groupCount s := by rw [groupCount, h, groupCount]
  simp only [groupOfAddr, hcount]

theorem inSystem_congr {s u : State} (h : u.hbmStacks = s.hbmStacks) (a : Nat) : inSystem u a = inSystem s a := by
  rw [inSystem, groupOfAddr_congr h, inSystem]

theorem lineAt_congr {s u : State} (h : u.cache.lines = s.cache.lines) (set w : Nat) : lineAt u set w = lineAt s set w := by
  rw [lineAt, h, lineAt]

theorem wayOf_congr {s u : State} (h : u.cache.lines = s.cache.lines) (line : Nat) : wayOf u line = wayOf s line := by
  simp only [wayOf, lineAt_congr h]

theorem cacheOn_congr {s u : State} (hmode : u.ccMode = s.ccMode) (hen : u.cache.enabled = s.cache.enabled) : cacheOn u = cacheOn s := by
  rw [cacheOn, hmode, hen, cacheOn]

theorem modCache_congr {f g : Cache → Cache} {s : State} (h : f s.cache = g s.cache) : modCache f s = modCache g s := by
  rw [modCache, h, modCache]

theorem modCache_modCache (f g : Cache → Cache) (s : State) : modCache f (modCache g s) = modCache (fun c => f (g c)) s := rfl

theorem hbmPut_modCache (a : Nat) (l : List Byte) (f : Cache → Cache) (s : State) : hbmPut a l (modCache f s) = modCache f (hbmPut a l s) := by
  cases l with
  | nil => rfl
  | cons b l =>
    unfold hbmPut flipHbm
    dsimp only
    split
    · next h => exact ((if_pos h).symm ▸ rfl)
    · next h => exact ((if_neg h).symm ▸ rfl)

theorem sysPut_modCache (a : Nat) (l : List Byte) (f : Cache → Cache) (s : State) : sysPut a l (modCache f s) = modCache f (sysPut a l s) := by
  have hm : mirrorOf (modCache f s) a = mirrorOf s a := rfl
  unfold sysPut
  rw [hm]
  split
  · exact hbmPut_modCache a l f s
  · rw [hbmPut_modCache, hbmPut_modCache]

/-! ### Accesses (R284, R288, R289) -/

/-- The state in which an access of a system area looks the cache up: its bytes have reached the structures there, and the
agent's streaming count is taken. -/
def looked (agent addr : Nat) (wr : Option (List Byte)) (s : State) : State :=
  let s := sysWrite addr (wr.getD []) s
  let a := countStream (s.cache.agents.get CAgent.reset agent) (addr / 128) wr.isSome
  modCache (fun c => { c with agents := c.agents.set CAgent.reset agent a }) s

@[simp] theorem looked_mem (agent addr : Nat) (wr : Option (List Byte)) (s : State) : (looked agent addr wr s).mem = s.mem :=
  sysWrite_mem addr _ s

theorem cache_looked (agent addr : Nat) (wr : Option (List Byte)) (s : State) : ∃ m, (looked agent addr wr s).cache = { s.cache with agents := m } :=
  ⟨(s.cache.agents.set CAgent.reset agent (countStream (s.cache.agents.get CAgent.reset agent) (addr / 128) wr.isSome)), by
    simp only [looked, modCache, sysWrite_cache]⟩

theorem lines_looked (agent addr : Nat) (wr : Option (List Byte)) (s : State) : (looked agent addr wr s).cache.lines = s.cache.lines := by
  obtain ⟨m, hc⟩ := cache_looked agent addr wr s
  rw [hc]

theorem cacheOn_looked (agent addr : Nat) (wr : Option (List Byte)) (s : State) : cacheOn (looked agent addr wr s) = cacheOn s := by
  obtain ⟨m, hc⟩ := cache_looked agent addr wr s
  exact cacheOn_congr (sysWrite_ccMode _ _ s) (by rw [hc])

section
variable {agent addr g : Nat} {s : State} (hg : groupOfAddr s addr = some g)
include hg

theorem cacheAccess_of_system (hin : inSystem s addr = true) (wr : Option (List Byte)) : cacheAccess agent addr wr s
    = cacheLookup ⟨agent, addr, wr.map (fun l => l.take (128 - addr % 128))⟩ (looked agent addr (wr.map (fun l => l.take (128 - addr % 128))) s) := by
  unfold cacheAccess
  dsimp only
  rw [hg]
  dsimp only
  rw [hin, if_pos rfl, looked, Option.isSome_map]

theorem cacheAccess_of_buffer (hin : inSystem s addr = false) (l : List Byte) :
    cacheAccess agent addr (some l) s = hbmPut addr (l.take (128 - addr % 128)) s := by
  unfold cacheAccess
  dsimp only
  rw [hg]
  dsimp only
  rw [hin]
  rfl

end

theorem cacheLookup_of_off {r : MissReq} {s : State} (hoff : cacheOn s = false) : cacheLookup r s = directAccess r s := by
  rw [cacheLookup, hoff]
  rfl

theorem cacheLookup_of_hit {r : MissReq} {w : Nat} {s : State} (hon : cacheOn s = true) (hway : wayOf s (r.addr / 128) = some w)
    (hbad : s.mem.sramBad.get 0 (2 * w * 65536 + cacheSet (r.addr / 128)) = 0) : cacheLookup r s = hitAccess r w s := by
  have hcheck : checkLine (r.addr / 128) w s = (true, s) := if_pos hbad
  unfold cacheLookup
  dsimp only
  rw [hon, hway]
  dsimp only
  rw [hcheck]
  rfl

theorem cacheLookup_of_miss {r : MissReq} {s : State} (hon : cacheOn s = true) (hway : wayOf s (r.addr / 128) = none) :
    cacheLookup r s = missAccess r s := by
  unfold cacheLookup
  dsimp only
  rw [hon, hway]
  rfl

theorem flipWay_only (w set : Nat) (s : State) : ∃ (b : Bool) (m : SMap Nat), flipWay w set s = { s with mem := { s.mem with flipArm := b, sramBad := m } } := by
  unfold flipWay
  split
  · exact ⟨_, _, rfl⟩
  · exact ⟨s.mem.flipArm, _, rfl⟩

/-- A line that is stored stands at its place, and of memory only an armed flip can change (R303). -/
theorem storeLine_stores (set w : Nat) (l : Line) (s : State) :
    lineAt (storeLine set w l s) set w = l ∧ (storeLine set w l s).cache = (putLine set w l s).cache ∧ (storeLine set w l s).mem.hbm = s.mem.hbm
      ∧ (storeLine set w l s).tbx = s.tbx ∧ (storeLine set w l s).codec = s.codec := by
  obtain ⟨b, m, h⟩ := flipWay_only w set (putLine set w l s)
  rw [storeLine, h]
  exact ⟨lineAt_putLine_self set w l s, rfl, rfl, rfl, rfl⟩

theorem allocLine_cache (line w : Nat) (s : State) :
    let v := lineAt s (cacheSet line) w
    let dirty := v.valid = true ∧ v.dirty = true
    let u := allocLine line w false s
    u.cache.misses = s.cache.misses ∧ u.cache.waits = s.cache.waits
      ∧ u.cache.fills = s.cache.fills ++ [⟨line, cacheSet line, w, false, if dirty then some v.tag else none⟩]
      ∧ u.cache.evict = (if dirty then s.cache.evict ++ [(v.tag, v.bytes)] else s.cache.evict)
      ∧ lineAt u (cacheSet line) w = Line.reset ∧ u.mem = s.mem := by
  intro v dirty u
  have hdirty : (v.valid && v.dirty) = true ↔ dirty := Bool.and_eq_true_iff
  refine ⟨rfl, rfl, ?_, ?_, lineAt_putLine_self _ _ _ _, rfl⟩
  · show s.cache.fills ++ [⟨line, cacheSet line, w, false, if (v.valid && v.dirty) = true then some v.tag else none⟩] = _
    simp only [hdirty]
  · show (if (v.valid && v.dirty) = true then s.cache.evict ++ [(v.tag, v.bytes)] else s.cache.evict) = _
    simp only [hdirty]

/-- A read that misses allocates its line and waits for the fill. -/
theorem missAccess_allocates {agent addr w : Nat} {s : State} (hfills : ∀ x ∈ s.cache.fills, x.line ≠ addr / 128)
    (hevict : ∀ x ∈ s.cache.evict, x.1 ≠ addr / 128) (hfits : missFits s (addr / 128) = some w) (hlast : (addr / 128 + 1) % 32 = 0) :
    let v := lineAt s (cacheSet (addr / 128)) w
    let dirty := v.valid = true ∧ v.dirty = true
    let u := missAccess ⟨agent, addr, none⟩ s
    u.cache.misses = s.cache.misses + 1
      ∧ u.cache.fills = s.cache.fills ++ [⟨addr / 128, cacheSet (addr / 128), w, false, if dirty then some v.tag else none⟩]
      ∧ u.cache.waits = s.cache.waits ++ [⟨agent, addr, none⟩]
      ∧ u.cache.evict = (if dirty then s.cache.evict ++ [(v.tag, v.bytes)] else s.cache.evict)
      ∧ (lineAt u (cacheSet (addr / 128)) w).valid = false ∧ u.mem = s.mem := by
  intro v dirty
  have hidle : (s.cache.evict.any (fun e => e.1 == addr / 128) || s.cache.fills.any (fun f => f.line == addr / 128)) = false := by
    rw [Bool.or_eq_false_iff, List.any_eq_false, List.any_eq_false]
    exact ⟨fun x hx h => hevict x hx (beq_iff_eq.mp h), fun x hx h => hfills x hx (beq_iff_eq.mp h)⟩
  have hm : missFits (modCache (fun c => { c with misses := c.misses + 1 }) s) (addr / 128) = some w := hfits
  have hmiss : missAccess ⟨agent, addr, none⟩ s = modCache (fun c => { c with waits := c.waits ++ [⟨agent, addr, none⟩] })
      (allocLine (addr / 128) w false (modCache (fun c => { c with misses := c.misses + 1 }) s)) := by
    unfold missAccess
    dsimp only
    rw [hidle, if_neg Bool.false_ne_true, if_neg (by simp), hm]
    exact if_pos (Or.inl hlast)
  have h := allocLine_cache (addr / 128) w (modCache (fun c => { c with misses := c.misses + 1 }) s)
  rw [hmiss]
  generalize allocLine (addr / 128) w false (modCache (fun c => { c with misses := c.misses + 1 }) s) = z at h ⊢
  obtain ⟨hmisses, hwaits, hf, he, hline, hmem⟩ := h
  exact ⟨hmisses, hf, congrArg (fun x : List MissReq => x ++ [⟨agent, addr, none⟩]) hwaits, he, (congrArg Line.valid hline :), hmem⟩

/-! ### Fills and evictions (R289, R291) -/

theorem retryWaits_of_none {s : State} (h : s.cache.waits = []) : retryWaits s = modCache (fun c => { c with waits := [] }) s := by
  unfold retryWaits
  dsimp only
  rw [h]
  show modCache (fun c => { c with waits := c.waits.filter _ }) s = _
  refine modCache_congr ?_
  rw [h]
  rfl

/-- A line without errors is read as it is. -/
theorem readLine_of_good {line : Nat} {s : State} (hbad : s.mem.bad.range (line * 16) 16 = []) (hpoison : s.mem.poison.contains line = false) :
    readLine line s = (hbmGet s (line * 128) 128, s) := by
  have hall : forAll (s.mem.bad.range (line * 16) 16) (meetSys Fld.memErrHbmUe) s = s := by
    rw [hbad]
    rfl
  unfold readLine
  rw [hall]
  dsimp only
  rw [hpoison]
  rfl

theorem cacheFill_of_none {line : Nat} {s : State} (h : ∀ x ∈ s.cache.fills, x.line ≠ line) : cacheFill line s = s := by
  have hfind : s.cache.fills.find? (fun f => f.line == line && f.blocked.isNone) = none :=
    List.find?_eq_none.mpr fun x hx hb => h x hx (beq_iff_eq.mp (Bool.and_eq_true_iff.mp hb).1)
  rw [cacheFill, hfind]

/-- A fill that nothing waits for. -/
theorem cacheFill_of_some {line : Nat} {f : CFill} {s : State} (hf : s.cache.fills.find? (fun x => x.line == line && x.blocked.isNone) = some f)
    (hwaits : s.cache.waits = []) (hbad : s.mem.bad.range (line * 16) 16 = []) (hpoison : s.mem.poison.contains line = false) :
    cacheFill line s = modCache (fun c => { c with waits := [] })
      (storeLine f.set f.way { valid := true, dirty := false, tag := line, bytes := hbmGet s (line * 128) 128 }
        (modCache (fun c => { c with fills := c.fills.erase f, waits := [] }) s)) := by
  rw [cacheFill, hf]
  dsimp only
  rw [readLine_of_good hbad hpoison, hwaits]
  have hmod : modCache (fun c => { c with fills := c.fills.erase f, waits := c.waits.filter (fun r => r.addr / 128 != line) }) s
      = modCache (fun c => { c with fills := c.fills.erase f, waits := [] }) s := by
    refine modCache_congr ?_
    rw [hwaits]
    rfl
  dsimp only
  rw [hmod]
  refine retryWaits_of_none ?_
  exact (congrArg Cache.waits (storeLine_stores _ _ _ _).2.1 :)

theorem evictionAccept_of_none {line : Nat} {s : State} (h : ∀ x ∈ s.cache.evict, x.1 ≠ line) : evictionAccept line s = s := by
  have hfind : s.cache.evict.find? (fun e => e.1 == line) = none := List.find?_eq_none.mpr fun x hx hb => h x hx (beq_iff_eq.mp hb)
  rw [evictionAccept, hfind]

/-- A write-back that nothing waits for. -/
theorem evictionAccept_of_some {line : Nat} {e : Nat × List Byte} {s : State} (he : s.cache.evict.find? (fun x => x.1 == line) = some e)
    (hwaits : s.cache.waits = []) (hheld : s.cache.snoopHeld = []) :
    evictionAccept line s = modCache (fun c => { c with
      evict := c.evict.erase e, wbacks := c.wbacks + 1, snoopHeld := [], waits := []
      fills := c.fills.map (fun f => if f.blocked == some line then { f with blocked := none } else f) }) (sysPut (line * 128) e.2 s) := by
  unfold evictionAccept
  rw [he]
  dsimp only
  rw [sysPut_modCache]
  have hc := sysPut_cache (line * 128) e.2 s
  generalize sysPut (line * 128) e.2 s = z at hc ⊢
  rw [← hc] at hwaits hheld
  show retryWaits (forAll (z.cache.snoopHeld.filter _) _ (modCache (fun c => { c with snoopHeld := c.snoopHeld.filter _ })
    (modCache (fun c => { c with evict := c.evict.erase e, wbacks := c.wbacks + 1, fills := c.fills.map _ }) z))) = _
  rw [hheld]
  refine Eq.trans (retryWaits_of_none (s := modCache (fun c => { c with snoopHeld := c.snoopHeld.filter _ }) (modCache (fun c => { c with
    evict := c.evict.erase e, wbacks := c.wbacks + 1, fills := c.fills.map _ }) z)) hwaits) ?_
  rw [modCache_modCache, modCache_modCache]
  refine modCache_congr ?_
  rw [hheld]
  rfl

/-! ### Snoops (R292) -/

/-- A write within one line is one snoop. -/
theorem snoopWrite_of_line {addr g : Nat} {l : List Byte} {s : State} (hg : groupOfAddr s addr = some g) (hl : l ≠ [])
    (hline : addr % 128 + l.length ≤ 128) (b : Bool) : snoopWrite addr l b s = snoopOne addr l b s := by
  cases l with
  | nil => exact absurd rfl hl
  | cons x l =>
    have htake : (x :: l).take (128 - addr % 128) = x :: l := List.take_of_length_le (by omega)
    have hdrop : (x :: l).drop (128 - addr % 128) = [] := List.drop_of_length_le (by omega)
    have hnil (n a : Nat) (u : State) : snoopBytes b n a [] u = u := by cases n <;> rfl
    rw [snoopWrite, hg]
    show snoopBytes b l.length (addr + (128 - addr % 128)) ((x :: l).drop (128 - addr % 128)) (snoopOne addr ((x :: l).take (128 - addr % 128)) b s) = _
    rw [htake, hdrop, hnil]

/-- The state a snooped write meets: its bytes have reached the structures that lie there, where it is not the scrubber's. -/
def snooped (addr : Nat) (l : List Byte) (b : Bool) (s : State) : State := if b then s else sysWrite addr l s

theorem snooped_only (addr : Nat) (l : List Byte) (b : Bool) (s : State) :
    snooped addr l b s = { s with tbx := (snooped addr l b s).tbx, codec := (snooped addr l b s).codec } := by
  cases b
  · exact sysWrite_only addr l s
  · rfl

theorem snoopOne_eq (addr : Nat) (l : List Byte) (b : Bool) (s : State) : snoopOne addr l b s
    = if !inSystem (snooped addr l b s) addr then hbmPut addr l (snooped addr l b s)
      else if (snooped addr l b s).cache.evict.any (fun e => e.1 == addr / 128) then
        modCache (fun c => { c with snoopHeld := c.snoopHeld ++ [(addr, l)] }) (snooped addr l b s)
      else
        match wayOf (snooped addr l b s) (addr / 128) with
        | none => sysPut addr l (snooped addr l b s)
        | some w =>
          let x := lineAt (snooped addr l b s) (cacheSet (addr / 128)) w
          if !x.dirty then sysPut addr l (putLine (cacheSet (addr / 128)) w Line.reset (snooped addr l b s))
          else if b then snooped addr l b s
          else sysPut addr l (putLine (cacheSet (addr / 128)) w { x with bytes := patch x.bytes (addr % 128) l } (snooped addr l b s)) := rfl

section
variable {addr : Nat} {l : List Byte} {b : Bool} {s : State}

theorem snoopOne_of_buffer (hin : inSystem s addr = false) : snoopOne addr l b s = hbmPut addr l (snooped addr l b s) := by
  have hin' : inSystem (snooped addr l b s) addr = false := (inSystem_congr (by rw [snooped_only]) addr).trans hin
  rw [snoopOne_eq, hin']
  rfl

variable (hin : inSystem s addr = true)
include hin

theorem snoopOne_of_evicted (hev : ∃ e ∈ s.cache.evict, e.1 = addr / 128) : snoopOne addr l b s
    = modCache (fun c => { c with snoopHeld := c.snoopHeld ++ [(addr, l)] }) (snooped addr l b s) := by
  have hin' : inSystem (snooped addr l b s) addr = true := (inSystem_congr (by rw [snooped_only]) addr).trans hin
  have hany : (snooped addr l b s).cache.evict.any (fun e => e.1 == addr / 128) = true := by
    obtain ⟨e, he, h⟩ := hev
    rw [snooped_only]
    exact List.any_eq_true.mpr ⟨e, he, beq_iff_eq.mpr h⟩
  rw [snoopOne_eq, hin', if_neg (by decide), if_pos hany]

theorem snoopOne_of_stays (hev : ∀ e ∈ s.cache.evict, e.1 ≠ addr / 128) : snoopOne addr l b s
    = match wayOf s (addr / 128) with
      | none => sysPut addr l (snooped addr l b s)
      | some w =>
        let x := lineAt s (cacheSet (addr / 128)) w
        if !x.dirty then sysPut addr l (putLine (cacheSet (addr / 128)) w Line.reset (snooped addr l b s))
        else if b then snooped addr l b s
        else sysPut addr l (putLine (cacheSet (addr / 128)) w { x with bytes := patch x.bytes (addr % 128) l } (snooped addr l b s)) := by
  have hin' : inSystem (snooped addr l b s) addr = true := (inSystem_congr (by rw [snooped_only]) addr).trans hin
  have hcache : (snooped addr l b s).cache = s.cache := by rw [snooped_only]
  have hany : ¬(snooped addr l b s).cache.evict.any (fun e => e.1 == addr / 128) = true := by
    rw [hcache, List.any_eq_true]
    rintro ⟨e, he, h⟩
    exact hev e he (beq_iff_eq.mp h)
  have hlines : (snooped addr l b s).cache.lines = s.cache.lines := congrArg Cache.lines hcache
  rw [snoopOne_eq, hin', if_neg (by decide), if_neg hany, wayOf_congr hlines]
  cases wayOf s (addr / 128) with
  | none => rfl
  | some w =>
    dsimp only
    rw [lineAt_congr hlines]

end

theorem samePool_modCache (f : Cache → Cache) (s : State) : SamePool s (modCache f s) := ⟨rfl, rfl, rfl⟩

theorem sysPlace_modCache (f : Cache → Cache) (s : State) (a : Nat) : sysPlace (modCache f s) a = sysPlace s a := by
  have hrec (g o base : Nat) : recordPlace (modCache f s) g o base = recordPlace s g o base := by
    rw [recordPlace, classOf_congr (samePool_modCache f s), recordPlace]
  have hmem : (modCache f s).mem = s.mem := rfl
  simp only [sysPlace, hrec, hmem]

theorem sysView_modCache (f : Cache → Cache) (s : State) (a : Nat) (l : List Byte) : sysView (modCache f s) a l = sysView s a l := by
  have hbyte (b : Nat) : sysByte (modCache f s) b = sysByte s b := by
    rw [sysByte, sysPlace_modCache, sysByte]
    split <;> rfl
  simp only [sysView, hbyte]
  rfl

/-- A hit that reads serves the line. -/
theorem hitAccess_serves (agent addr w : Nat) (z : State) :
    let u := hitAccess ⟨agent, addr, none⟩ w z
    u.cache.hits = z.cache.hits + 1 ∧ u.cache.misses = z.cache.misses
      ∧ u.cache.reads = (agent, addr, sysView z (addr / 128 * 128) (lineAt z (cacheSet (addr / 128)) w).bytes) :: z.cache.reads
      ∧ u.cache.lines = z.cache.lines ∧ u.mem = z.mem := by
  have hserve : hitAccess ⟨agent, addr, none⟩ w z = modCache (fun c => { c with
      reads := (agent, addr, sysView z (addr / 128 * 128) (lineAt z (cacheSet (addr / 128)) w).bytes) :: c.reads, hits := c.hits + 1 }) z := by
    unfold hitAccess serve
    dsimp only
    rw [sysView_modCache, modCache_modCache]
  rw [hserve]
  exact ⟨rfl, rfl, rfl, rfl, rfl⟩

/-- A hit that writes changes the line. -/
theorem hitAccess_writes (agent addr w : Nat) (b : List Byte) (z : State) :
    let u := hitAccess ⟨agent, addr, some b⟩ w z
    u.cache.hits = z.cache.hits + 1 ∧ u.mem.hbm = z.mem.hbm ∧ u.tbx = z.tbx ∧ u.codec = z.codec
      ∧ lineAt u (cacheSet (addr / 128)) w = { lineAt z (cacheSet (addr / 128)) w with
        dirty := true, bytes := patch (lineAt z (cacheSet (addr / 128)) w).bytes (addr % 128) b } := by
  obtain ⟨hline, hcache, hhbm, htbx, hcodec⟩ := storeLine_stores (cacheSet (addr / 128)) w { lineAt z (cacheSet (addr / 128)) w with
    dirty := true, bytes := patch (lineAt z (cacheSet (addr / 128)) w).bytes (addr % 128) b } (modCache (fun c => { c with hits := c.hits + 1 }) z)
  exact ⟨congrArg Cache.hits hcache, hhbm, htbx, hcodec, hline⟩

/-! ### The accesses of a system area, each kind -/

section
variable {agent addr g w : Nat} {s : State} (hg : groupOfAddr s addr = some g) (hin : inSystem s addr = true) (hon : cacheOn s = true)
include hg hin hon

theorem cacheAccess_of_hit (hway : wayOf s (addr / 128) = some w) (hbad : s.mem.sramBad.get 0 (2 * w * 65536 + cacheSet (addr / 128)) = 0)
    (wr : Option (List Byte)) : cacheAccess agent addr wr s
      = hitAccess ⟨agent, addr, wr.map (fun l => l.take (128 - addr % 128))⟩ w (looked agent addr (wr.map (fun l => l.take (128 - addr % 128))) s) := by
  rw [cacheAccess_of_system hg hin]
  refine cacheLookup_of_hit ((cacheOn_looked _ _ _ s).trans hon) ((wayOf_congr (lines_looked _ _ _ s) _).trans hway) ?_
  rw [looked_mem]
  exact hbad

theorem cacheAccess_of_miss (hway : wayOf s (addr / 128) = none) :
    cacheAccess agent addr none s = missAccess ⟨agent, addr, none⟩ (looked agent addr none s) := by
  rw [cacheAccess_of_system hg hin]
  exact cacheLookup_of_miss ((cacheOn_looked _ _ _ s).trans hon) ((wayOf_congr (lines_looked _ _ _ s) _).trans hway)

end

/-- Settles O55: an access by whether its line is in a way, memory or neither; a fill, an eviction and a snoop by what waits on them. -/
theorem cacheAccesses : Obligations.CacheAccesses := by
  refine ⟨fun agent addr l w g s => ⟨fun hg => ?_, fun hg hin hon hway hbad => ⟨?_, ?_⟩, fun hg hin hoff => ?_, fun hg hin => ?_⟩,
    fun line f e s => ⟨fun agent addr g w hline hg hin hon hway hfills hevict hfits hlast => ?_, fun h => ?_,
      fun hf hwaits hbad hpoison harm => ?_, fun h => ?_, fun he hwaits hheld => ?_⟩,
    fun addr l b w g s hl hlen => ⟨fun hg => ?_, fun hg hin => ?_, fun hg hin => ⟨fun hev => ?_, fun hev => ⟨fun hway => ?_,
      fun hway hclean => ?_, fun hway hdirty hb => ?_, fun hway hdirty hb => ?_⟩⟩⟩⟩
  · refine next_congr ?_
    rw [cacheAccess, hg]
  · obtain ⟨hhits, hmisses, hreads, hlines, hmem⟩ := hitAccess_serves agent.val addr.toNat w (looked agent.val addr.toNat none s)
    refine ⟨_, next_congr (cacheAccess_of_hit hg hin hon hway hbad none), hhits, hmisses, hreads.trans ?_, hlines, hmem⟩
    show (agent.val, addr.toNat, sysView (modCache _ s) (addr.toNat / 128 * 128) (lineAt s (cacheSet (addr.toNat / 128)) w).bytes) :: s.cache.reads = _
    rw [sysView_modCache]
  · obtain ⟨m, hc⟩ := cache_looked agent.val addr.toNat (some (l.take (128 - addr.toNat % 128))) s
    obtain ⟨hhits, hhbm, htbx, hcodec, hline⟩ := hitAccess_writes agent.val addr.toNat w (l.take (128 - addr.toNat % 128))
      (looked agent.val addr.toNat (some (l.take (128 - addr.toNat % 128))) s)
    refine ⟨_, next_congr (cacheAccess_of_hit hg hin hon hway hbad (some l)), hhits.trans ?_, hhbm.trans (congrArg Mem.hbm (looked_mem _ _ _ s)),
      htbx, hcodec, hline.trans ?_⟩
    · rw [hc]
    · rw [lineAt_congr (lines_looked _ _ _ s)]
  · exact ⟨_, next_congr ((cacheAccess_of_system hg hin (some l)).trans (cacheLookup_of_off ((cacheOn_looked _ _ _ s).trans hoff))),
      looked_mem _ _ _ s, lines_looked _ _ _ s, rfl, rfl⟩
  · exact next_congr (cacheAccess_of_buffer hg hin l)
  · rw [hline] at hway hfills hevict hfits hlast ⊢
    exact ⟨_, next_congr (cacheAccess_of_miss hg hin hon hway), missAccess_allocates (agent := agent.val)
      (s := looked agent.val addr.toNat none s) hfills hevict hfits hlast⟩
  · exact next_congr (cacheFill_of_none h)
  · obtain ⟨hline, hcache, hhbm, -, -⟩ := storeLine_stores f.set f.way
      { valid := true, dirty := false, tag := line.toNat, bytes := hbmGet s (line.toNat * 128) 128 }
      (modCache (fun c => { c with fills := c.fills.erase f, waits := [] }) s)
    exact ⟨_, next_congr (cacheFill_of_some hf hwaits hbad hpoison), (congrArg Cache.fills hcache :), hline, hhbm⟩
  · exact next_congr (evictionAccept_of_none h)
  · have hc := sysPut_cache (line.toNat * 128) e.2 s
    refine ⟨_, next_congr (evictionAccept_of_some he hwaits hheld), ?_, ?_, rfl, fun x hx => ?_⟩
    · exact (congrArg (fun c : Cache => c.evict.erase e) hc :)
    · exact (congrArg (fun c : Cache => c.wbacks + 1) hc :)
    · obtain ⟨y, -, rfl⟩ := List.mem_map.mp hx
      by_cases hy : y.blocked = some line.toNat
      · rw [if_pos (beq_iff_eq.mpr hy)]
        exact nofun
      · rw [if_neg (fun h => hy (beq_iff_eq.mp h))]
        exact hy
  · refine next_congr ?_
    rw [snoopWrite, hg]
  · exact next_congr ((snoopWrite_of_line hg hl hlen b).trans (snoopOne_of_buffer hin))
  · exact next_congr ((snoopWrite_of_line hg hl hlen b).trans (snoopOne_of_evicted hin hev))
  · refine next_congr ((snoopWrite_of_line hg hl hlen b).trans ((snoopOne_of_stays hin hev).trans ?_))
    rw [hway]
    rfl
  · refine next_congr ((snoopWrite_of_line hg hl hlen b).trans ((snoopOne_of_stays hin hev).trans ?_))
    rw [hway]
    exact if_pos (by rw [hclean]; rfl)
  · subst hb
    refine next_congr ((snoopWrite_of_line hg hl hlen true).trans ((snoopOne_of_stays hin hev).trans ?_))
    rw [hway]
    dsimp only
    rw [hdirty]
    rfl
  · subst hb
    refine next_congr ((snoopWrite_of_line hg hl hlen false).trans ((snoopOne_of_stays hin hev).trans ?_))
    rw [hway]
    dsimp only
    rw [hdirty]
    rfl

end Sys2Proof.Machine
end

section
/-! Registers without actions of their own: what a write leaves in their fields, and what a read returns (R7, R10, R20, R35). -/
namespace Sys2Proof.Machine
open Sys2Proof.Safety

/-! ### Fields -/

/-- What a write leaves in a field, by its access code. -/
theorem fieldNew_of_acc (lock : Bool) (f : RField) (old new : Nat) :
    (f.acc = .rw → fieldNew lock f old new = fieldOf new f.lo f.w)
      ∧ (f.acc = .rwl → fieldNew lock f old new = if lock then fieldOf old f.lo f.w else fieldOf new f.lo f.w)
      ∧ (f.acc = .ro ∨ f.acc = .rc → fieldNew lock f old new = fieldOf old f.lo f.w)
      ∧ (f.acc = .w1c → fieldNew lock f old new = fieldOf old f.lo f.w &&& (2 ^ f.w - (fieldOf new f.lo f.w + 1))) := by
  unfold fieldNew
  refine ⟨fun h => ?_, fun h => ?_, fun h => ?_, fun h => ?_⟩
  · rw [h]
  · rw [h]
  · rcases h with h | h <;> rw [h]
  · rw [h]
    dsimp only
    rw [Nat.sub_sub, Nat.add_comm 1]
    rfl

/-- The bits written 1 are dropped. -/
theorem testBit_w1c {o n w k : Nat} (hn : n < 2 ^ w) (hk : k < w) :
    (o &&& (2 ^ w - (n + 1))).testBit k = (o.testBit k && !n.testBit k) := by
  rw [Nat.testBit_and, Nat.testBit_two_pow_sub_succ hn, decide_eq_true hk, Bool.true_and]

/-- While a sequencer runs, fields that are not live stay. -/
theorem fieldsNew_of_runs {fs : List RField} (h : ∀ f ∈ fs, f.live = false) (lock : Bool) (old new : Nat) :
    fieldsNew lock true fs old new = old := by
  have hfold (l : List RField) (hl : ∀ f ∈ l, f.live = false) (a : Nat) :
      l.foldl (fun a f => if true && !f.live then a else putField a f.lo f.w (fieldNew lock f old new)) a = a := by
    induction l generalizing a with
    | nil => rfl
    | cons f l ih =>
      obtain ⟨hf, hl⟩ := List.forall_mem_cons.mp hl
      rw [List.foldl_cons, hf]
      exact ih hl a
  exact hfold fs h old

/-! ### Writes -/

section
variable {src : Src} {off : Nat} {v : W32} {row : RRow} {ix : List Nat} {s : State} (hbars : accessBars src off (hostWakes src s) = none)
  (hwin : windowVal (hostWakes src s) off = none) (hreg : regAt off = some (row, ix)) (hpair : pairOf off = none)

section
include hbars hwin hreg

theorem writeAny_of_plain (hown : ownWrite src row.base (ix.getD 0 0) (ix.getD 1 0) off v = none) : writeAny src off v s
    = if !mayWrite src row.guard off v (hostWakes src s) then logAccess off (hostWakes src s)
      else if row.guard = .nobody then hostWakes src s
      else
        match pairOf off with
        | some (lo, up) => pairWrite lo up v (hostWakes src s)
        | none => storeWrite row off v (hostWakes src s) := by
  unfold writeAny writeAt
  dsimp only
  rw [hbars]
  dsimp only
  rw [hwin, hreg]
  dsimp only
  rw [hown]
  rfl

include hpair

theorem writeAny_of_stored (hown : ownWrite src row.base (ix.getD 0 0) (ix.getD 1 0) off v = none)
    (hmay : mayWrite src row.guard off v (hostWakes src s) = true) (hguard : row.guard ≠ .nobody) :
    writeAny src off v s = storeWrite row off v (hostWakes src s) := by
  rw [writeAny_of_plain hbars hwin hreg hown, hmay, if_neg (by decide), if_neg hguard, hpair]

end

end

theorem storeWrite_of_unfit {row : RRow} {off : Nat} {v : W32} {s : State}
    (h : rangesFit row.fields v.toNat = false ∨ valueFits s off v = false) : storeWrite row off v s = logAccess off s :=
  if_pos (h.imp (fun h => by rw [h]; rfl) (fun h => by rw [h]; rfl))

section
variable {row : RRow} {off : Nat} {v : W32} {s : State} (hrange : rangesFit row.fields v.toNat = true) (hval : valueFits s off v = true)
  (hlock : lockedAt s off = false)
include hrange hval hlock

theorem storeWrite_of_unlocked : storeWrite row off v s
    = afterWrite off (setReg off (BitVec.ofNat 32 (fieldsNew false (offRuns s off) row.fields (reg s off).toNat v.toNat))
      (if liveDenied (offRuns s off) row.fields (reg s off).toNat v.toNat then logAccess off s else s)) := by
  unfold storeWrite
  dsimp only
  rw [hrange, hval, hlock, if_neg (by decide), if_neg (fun h => Bool.noConfusion h.1)]

theorem storeWrite_of_still (hrun : offRuns s off = false) : storeWrite row off v s
    = afterWrite off (setReg off (BitVec.ofNat 32 (fieldsNew false false row.fields (reg s off).toNat v.toNat)) s) := by
  rw [storeWrite_of_unlocked hrange hval hlock, hrun]
  rfl

/-- A write of a register without live fields is discarded and logged while its sequencer runs. -/
theorem storeWrite_of_runs (hrun : offRuns s off = true) (hlive : ∀ f ∈ row.fields, f.live = false) :
    storeWrite row off v s = afterWrite off (setReg off (reg s off) (logAccess off s)) := by
  have hdenied : liveDenied true row.fields (reg s off).toNat v.toNat = true := by
    refine Bool.and_eq_true_iff.mpr ⟨rfl, Bool.or_eq_true_iff.mpr (Or.inl (List.all_eq_true.mpr fun f hf => ?_))⟩
    rw [hlive f hf, Bool.and_false]
    rfl
  rw [storeWrite_of_unlocked hrange hval hlock, hrun, hdenied, fieldsNew_of_runs hlive, BitVec.ofNat_toNat, BitVec.setWidth_eq, if_pos rfl]

end

/-! ### Reads -/

theorem readAny_of_plain {src : Src} {off : Nat} {row : RRow} {ix : List Nat} {s : State} (hbars : accessBars src off (hostWakes src s) = none)
    (hwin : windowVal (hostWakes src s) off = none) (hreg : regAt off = some (row, ix)) (hpair : pairOf off = none) :
    readAny src off s = { (if row.fields.any (fun f => f.acc = .rc) then setReg off (dropFlds .rc row.fields (reg (hostWakes src s) off))
      (hostWakes src s) else hostWakes src s) with readData := dropFlds .wo row.fields (regVal (hostWakes src s) off) } := by
  unfold readAny readAt plainRead
  dsimp only
  rw [hbars, hwin, hreg, hpair]
  rfl

theorem reg_setReg_same (off : Nat) (s : State) (a : Nat) : reg (setReg off (reg s off) s) a = reg s a := by
  by_cases h : a = off
  · rw [h, reg_setReg]
  · exact reg_setReg_ne off a _ s h

/-- Settles O59: the fields by their access codes, a write by what bars it, a read by the fields it clears. -/
theorem plainRegisters : Obligations.PlainRegisters := by
  refine ⟨fun lock f old new => ?_, fun src off v row ix s => ?_⟩
  · obtain ⟨hrw, hrwl, hro, hw1c⟩ := fieldNew_of_acc lock f old new
    refine ⟨hrw, fun h hl => (hrwl h).trans (if_neg (by rw [hl]; decide)), fun h hl => (hrwl h).trans (if_pos hl), hro, fun h k hk => ?_⟩
    rw [hw1c h]
    exact testBit_w1c (fieldOf_lt _ _ _) hk
  · intro w o hbars hwin hreg hpair
    refine ⟨fun hown => ⟨fun hmay => ?_, fun hmay hguard => ⟨fun hun => ?_, fun hrange hval hrun hlock => ?_,
      fun hrange hval hrun hlive hlock => ?_⟩⟩, ?_⟩
    · refine next_congr (congrArg settleHost ((writeAny_of_plain hbars hwin hreg hown).trans (if_pos ?_)))
      rw [hmay]
      rfl
    · exact next_congr (congrArg settleHost ((writeAny_of_stored hbars hwin hreg hpair hown hmay hguard).trans (storeWrite_of_unfit hun)))
    · exact next_congr (congrArg settleHost ((writeAny_of_stored hbars hwin hreg hpair hown hmay hguard).trans
        (storeWrite_of_still hrange hval hlock hrun)))
    · exact ⟨_, next_congr (congrArg settleHost ((writeAny_of_stored hbars hwin hreg hpair hown hmay hguard).trans
        (storeWrite_of_runs hrange hval hlock hrun hlive))), reg_setReg_same o w, rfl, rfl, rfl, rfl⟩
    · refine ⟨_, next_congr (readAny_of_plain hbars hwin hreg hpair), rfl, fun hno => ?_, fun hex => ?_, ?_, ?_⟩
      · have hany : row.fields.any (fun f => f.acc = .rc) = false := List.any_eq_false.mpr fun f hf h => hno f hf (of_decide_eq_true h)
        show (if row.fields.any (fun f => f.acc = .rc) then _ else w).regs = w.regs
        rw [hany]
        rfl
      · obtain ⟨f, hf, hacc⟩ := hex
        have hany : row.fields.any (fun f => f.acc = .rc) = true := List.any_eq_true.mpr ⟨f, hf, decide_eq_true hacc⟩
        show reg (if row.fields.any (fun f => f.acc = .rc) then setReg o _ w else w) o = _
        rw [hany, if_pos rfl]
        exact reg_setReg _ _ _
      · show State.tp (if row.fields.any (fun f => f.acc = .rc) then setReg o _ w else w) = w.tp
        split <;> rfl
      · show State.mem (if row.fields.any (fun f => f.acc = .rc) then setReg o _ w else w) = w.mem
        split <;> rfl

end Sys2Proof.Machine
end

section
/-! Fault events, retirement and return, the broadcast halt and the statistics freeze (R323-R333). -/
namespace Sys2Proof.Machine
open Sys2Proof.Safety

/-! ### What logging and counting leave of the fault state -/

/-- What of the fault state a log entry does not hold. -/
def faultsOf (s : State) : Flt := { s.flt with log := [], count := 0, summary := [] }

theorem faultsOf_logFault (u : BitVec 16) (k c w : Nat) (d : W64) (s : State) : faultsOf (logFault u k c w d s) = faultsOf s := by
  unfold logFault
  split <;> rfl

@[simp] theorem logFault_retries (u : BitVec 16) (k c w : Nat) (d : W64) (s : State) : (logFault u k c w d s).flt.retries = s.flt.retries :=
  (congrArg Flt.retries (faultsOf_logFault u k c w d s) :)
@[simp] theorem logFault_pendRetry (u : BitVec 16) (k c w : Nat) (d : W64) (s : State) :
    (logFault u k c w d s).flt.pendRetry = s.flt.pendRetry := (congrArg Flt.pendRetry (faultsOf_logFault u k c w d s) :)
@[simp] theorem logFault_esc (u : BitVec 16) (k c w : Nat) (d : W64) (s : State) : (logFault u k c w d s).flt.esc = s.flt.esc :=
  (congrArg Flt.esc (faultsOf_logFault u k c w d s) :)
@[simp] theorem logFault_retired (u : BitVec 16) (k c w : Nat) (d : W64) (s : State) : (logFault u k c w d s).flt.retired = s.flt.retired :=
  (congrArg Flt.retired (faultsOf_logFault u k c w d s) :)
@[simp] theorem logFault_codec (u : BitVec 16) (k c w : Nat) (d : W64) (s : State) : (logFault u k c w d s).codec = s.codec := by
  rw [logFault_only]
@[simp] theorem raiseFld_flt (off : Nat) (f : Fld) (s : State) : (raiseFld off f s).flt = s.flt := setFld_flt off f 1 s
@[simp] theorem countEvent_flt (u : BitVec 16) (s : State) : (countEvent u s).flt = s.flt := by
  rw [countEvent, setFld_flt, bumpFld_flt]

/-- A logged fault changes of the registers FLT_STAT only. -/
theorem reg_logFault_ne {off : Nat} (h : off ≠ Reg.fltStat) (u : BitVec 16) (k c w : Nat) (d : W64) (s : State) :
    reg (logFault u k c w d s) off = reg s off := by
  unfold logFault
  split
  · rfl
  · exact reg_raiseFld_ne h _ s

theorem fltCls_ne_fltStat (c : Nat) : Reg.fltCls c ≠ Reg.fltStat := by
  simp only [Reg.fltCls, Reg.fltStat]
  omega

/-! ### Events (R323) -/

/-- While a retry is left the event waits for it. -/
theorem faultEvent_of_retry {u : BitVec 16} {s : State} (h : s.flt.retries.get 0 u.toNat < fld (countEvent u s) (Reg.fltCls (unitClass u)) Fld.fltClsRetry)
    (code : Nat) (d : W64) :
    (faultEvent u code d s).flt.retries.get 0 u.toNat = s.flt.retries.get 0 u.toNat + 1
      ∧ (faultEvent u code d s).flt.pendRetry.contains u = true
      ∧ (faultEvent u code d s).flt.esc = s.flt.esc ∧ (faultEvent u code d s).flt.retired = s.flt.retired := by
  unfold faultEvent
  dsimp only
  rw [if_pos ((countEvent_flt u s).symm ▸ h)]
  simp only [logFault_retries, logFault_pendRetry, logFault_esc, logFault_retired, countEvent_flt, SMap.get_set_self, true_and, and_true]
  split
  · assumption
  · simp

/-- An escalation of a class without a limit is counted and logged. -/
theorem escalate_of_unlimited {u : BitVec 16} {s : State} (hm : fld s (Reg.fltCls (unitClass u)) Fld.fltClsM = 0) (code : Nat) (d : W64) :
    (escalate u code d s).flt.esc.get [] u.toNat = nowMs s :: s.flt.esc.get [] u.toNat
      ∧ (escalate u code d s).flt.retries.get 0 u.toNat = 0
      ∧ (escalate u code d s).flt.retired = s.flt.retired ∧ fld (escalate u code d s) Reg.fltStat Fld.fltStatNewesc = 1 := by
  unfold escalate
  extract_lets src v n w m
  have hlimit : m = 0 := by
    show fieldB (reg w (Reg.fltCls (unitClass u))) _ _ = 0
    have hreg : reg w (Reg.fltCls (unitClass u)) = reg s (Reg.fltCls (unitClass u)) :=
      (reg_raiseFld_ne (fltCls_ne_fltStat _) _ _).trans (reg_logFault_ne (fltCls_ne_fltStat _) _ _ _ _ _ v)
    rw [hreg]
    exact hm
  rw [if_neg (fun h => h.1 hlimit)]
  refine ⟨?_, ?_, ?_, ?_⟩
  · show (raiseFld _ _ _).flt.esc.get [] u.toNat = _
    rw [raiseFld_flt, logFault_esc]
    exact SMap.get_set_self _ _ _ _
  · show (raiseFld _ _ _).flt.retries.get 0 u.toNat = _
    rw [raiseFld_flt, logFault_retries]
    exact SMap.get_set_self _ _ _ _
  · show (raiseFld _ _ _).flt.retired = _
    rw [raiseFld_flt, logFault_retired]
  · exact fld_setFld_self (by decide) _ _ _

/-! ### Retries that expire -/

theorem unitClass_transport (t : Tid) : unitClass (unitId 7 t.val) = 7 := by
  fin_cases t <;> rfl

theorem unitIdx_transport (t : Tid) : tid (unitIdx (unitId 7 t.val)) = t := by
  fin_cases t <;> rfl

/-- A retry that expires is pending no more. -/
def retried (u : BitVec 16) (s : State) : State := { s with flt := { s.flt with pendRetry := s.flt.pendRetry.filter (fun v => v != u) } }

theorem retryExpiry_of_pending {u : BitVec 16} {s : State} (h : s.flt.pendRetry.contains u = true) : retryExpiry u s
    = if unitClass u = 7 ∧ (tpOf s (tid (unitIdx u))).mot.st = .faulted ∧ (tpOf s (tid (unitIdx u))).mot.still = true then
        restoreLoops (tid (unitIdx u)) (clearTransport (tid (unitIdx u)) (retried u s))
      else retried u s := if_pos h

/-! ### Retirement and return (R324, R326) -/

theorem unitValid_codec {u : BitVec 16} (hc : unitClass u = 2) (hi : unitIdx u < 32) (s : State) : unitValid s u = true := by
  unfold unitValid
  rw [hc]
  exact decide_eq_true hi

theorem unitId_of_class {u : BitVec 16} {c : Nat} (hc : unitClass u = c) : unitId c (unitIdx u) = u := by
  subst hc
  apply BitVec.eq_of_toNat_eq
  rw [unitId, BitVec.toNat_ofNat]
  unfold unitClass unitIdx
  have := u.isLt
  omega

theorem markRetired_retired (u : BitVec 16) (s : State) : u ∈ (markRetired u s).flt.retired := by
  unfold markRetired
  split
  · next h => exact List.contains_iff_mem.mp h
  · unfold notice
    split
    · exact List.mem_append_right _ (List.mem_singleton.mpr rfl)
    · rw [raiseFld_flt]
      exact List.mem_append_right _ (List.mem_singleton.mpr rfl)

theorem markRetired_codec (u : BitVec 16) (s : State) : (markRetired u s).codec = s.codec := by
  unfold markRetired notice
  split
  · rfl
  · split <;> rfl

theorem codecError_flt (f : Fld) (scid : Nat) (s : State) : (codecError f scid s).flt = s.flt := by
  rw [codecError, setFld_flt, bumpFld_flt, raiseFld_flt]

theorem codecError_codec (f : Fld) (scid : Nat) (s : State) : (codecError f scid s).codec = s.codec := by
  rw [codecError, setFld_codec, bumpFld_codec, raiseFld, setFld_codec]

/-- Abandoning a job neither retires nor returns an engine. -/
theorem abandonJob_keeps (e : Nat) (s : State) : (abandonJob e s).flt = s.flt ∧ (abandonJob e s).codec.retired = s.codec.retired := by
  unfold abandonJob
  split
  · exact ⟨rfl, rfl⟩
  next j _ =>
    extract_lets s₁ s₂
    have hflt : s₂.flt = s.flt := codecError_flt _ _ s₁
    have hcodec : s₂.codec.retired = s.codec.retired := (congrArg Codec.retired (codecError_codec Fld.codecErrEngfault j.scid.toNat s₁) :)
    clear_value s₂
    exact ⟨hflt, hcodec⟩

theorem fltRetire_codec {u : BitVec 16} {s : State} (hc : unitClass u = 2) (hi : unitIdx u < 32) (hno : u ∉ s.flt.retired) :
    (fltRetire u s).codec.retired.get 0 (unitIdx u) = 1 ∧ u ∈ (fltRetire u s).flt.retired := by
  have hretire : fltRetire u s = retireCodec (unitIdx u) (logFault u 3 0 0 0 s) := by
    rw [fltRetire, unitValid_codec hc hi, hc, if_pos (by decide), if_neg (fun h => hno (List.contains_iff_mem.mp h)), if_neg (by decide),
      retireUnit, hc]
    rfl
  rw [hretire, retireCodec, if_pos hi, unitId_of_class hc]
  obtain ⟨hflt, hret⟩ := abandonJob_keeps (unitIdx u) (markRetired u (modCodec (fun c => { c with retired := c.retired.set 0 (unitIdx u) 1 })
    (logFault u 3 0 0 0 s)))
  rw [hflt, hret, markRetired_codec]
  exact ⟨SMap.get_set_self _ _ _ _, markRetired_retired u _⟩

theorem markReturned_retired (u : BitVec 16) (s : State) : u ∉ (markReturned u s).flt.retired := by
  unfold markReturned
  split
  · intro h
    exact bne_iff_ne.mp (List.mem_filter.mp h).2 rfl
  · next h => exact fun hm => h (List.contains_iff_mem.mpr hm)

theorem fltReturn_codec {u : BitVec 16} {s : State} (hc : unitClass u = 2) (hi : unitIdx u < 32) :
    (fltReturn u s).codec.retired.get 0 (unitIdx u) = 0 ∧ u ∉ (fltReturn u s).flt.retired := by
  rw [fltReturn, unitValid_codec hc hi, hc, if_pos (by decide), returnUnit]
  dsimp only
  rw [hc]
  refine ⟨SMap.get_set_self _ _ _ _, ?_⟩
  show u ∉ (logFault u 4 0 0 0 (markReturned u _)).flt.retired
  rw [logFault_retired]
  exact markReturned_retired u _

/-! ### The broadcast halt (R332) -/

/-- The transports that a mask names. -/
theorem mem_maskTids {mask : BitVec 8} {t : Tid} : t ∈ (setBits 8 mask.toNat).map tid ↔ mask.getLsbD t.val = true := by
  rw [List.mem_map, ← bitOf_toNat]
  constructor
  · rintro ⟨i, hi, rfl⟩
    obtain ⟨hlt, hbit⟩ := mem_setBits.mp hi
    have hval : (tid i).val = i := Nat.mod_eq_of_lt hlt
    rw [hval]
    exact hbit
  · exact fun h => ⟨t.val, mem_setBits.mpr ⟨t.isLt, h⟩, tid_val t⟩

theorem nodup_maskTids (mask : BitVec 8) : ((setBits 8 mask.toNat).map tid).Nodup := by
  refine (List.nodup_map_iff_inj_on (List.Nodup.filter _ List.nodup_range)).mpr fun a ha b hb h => ?_
  have hval : (tid a).val = (tid b).val := congrArg Fin.val h
  rwa [show (tid a).val = a from Nat.mod_eq_of_lt (mem_setBits.mp ha).1, show (tid b).val = b from Nat.mod_eq_of_lt (mem_setBits.mp hb).1] at hval

/-- A slice whose sequencer is asked to halt. -/
def haltAsked (x : Tp) : Tp := { x with seq := if seqActive x.seq then { x.seq with haltp := true } else x.seq }

theorem tpOf_broadcast (mask : BitVec 8) (s : State) (t : Tid) :
    (mask.getLsbD t.val = false → tpOf (forAll ((setBits 8 mask.toNat).map tid) haltRequest s) t = tpOf s t)
      ∧ (mask.getLsbD t.val = true → tpOf (forAll ((setBits 8 mask.toNat).map tid) haltRequest s) t = haltAsked (tpOf s t)) := by
  refine ⟨fun h => tpOf_forAll_of_not_mem (fun _ => haltAsked) (fun hm => ?_) s,
    fun h => tpOf_forAll_of_mem (fun _ => haltAsked) (mem_maskTids.mpr h) (nodup_maskTids mask) s⟩
  rw [mem_maskTids.mp hm] at h
  cases h

/-- Settles O54: events by the retries that are left, retirement and return of a codec engine by what each of their parts keeps. -/
theorem faultEvents : Obligations.FaultEvents := by
  refine ⟨fun unit t code detail s => ⟨fun h => ⟨_, rfl, faultEvent_of_retry h code detail⟩, fun _ hm => escalate_of_unlimited hm code detail,
      fun hno => ?_, fun hyes hc => ?_, fun hyes hst hstill => ?_, fun hno hf hs => ?_, fun hf => ?_, fun hoff => ?_, fun hon => ?_⟩,
    fun unit ep mask s => ⟨fun hrom hdbg => ?_, fun hinv => ⟨?_, ?_⟩, fun hc => ?_, fun hc hi hno => ?_, fun hc hi => ?_, ?_⟩,
    fun s => ⟨fun h => ?_, fun h => ?_, fun h => ?_, fun h => ?_⟩⟩
  · exact next_congr (congrArg settleHost (if_neg (by rw [hno]; decide)))
  · exact next_congr (congrArg settleHost ((retryExpiry_of_pending hyes).trans (if_neg fun h => hc h.1)))
  · refine next_congr (congrArg settleHost ((retryExpiry_of_pending hyes).trans ?_))
    rw [unitIdx_transport, if_pos ⟨unitClass_transport t, hst, hstill⟩]
    rfl
  · refine ⟨_, next_congr (if_neg ?_), SMap.get_set_self _ _ _ _⟩
    rw [hno]
    rintro (h | h | h)
    · cases h
    · exact hf h
    · exact hs h
  · exact next_congr (if_pos (Or.inr (Or.inl hf)))
  · exact next_congr (congrArg settleHost (if_pos hoff))
  · exact next_congr (congrArg settleHost (if_neg (by rw [hon]; decide)))
  · have hmay : srcMay (.host ep) [0] s = false := (srcMay_host ep 0 s).trans hdbg
    exact ⟨next_congr (congrArg settleHost (byDebug_of_denied hmay hrom)), next_congr (congrArg settleHost (byDebug_of_denied hmay hrom)),
      next_congr (byDebug_of_denied hmay hrom)⟩
  · exact next_congr (congrArg settleHost (if_neg (by rw [hostWakes_puppeteer, hinv, Bool.false_and]; decide)))
  · exact next_congr (congrArg settleHost (if_neg (by rw [hostWakes_puppeteer, hinv, Bool.false_and]; decide)))
  · refine next_congr (congrArg settleHost (if_neg ?_))
    rw [Bool.and_eq_true, decide_eq_true_eq]
    rintro ⟨-, h0, h4, -⟩
    rcases hc with hc | hc
    · exact h0 hc
    · exact h4 hc
  · exact ⟨_, rfl, fltRetire_codec hc hi hno⟩
  · exact ⟨_, rfl, fltReturn_codec hc hi⟩
  · refine ⟨_, rfl, fun t => ⟨(tpOf_broadcast mask s t).1, fun h hst => ?_⟩⟩
    have hact : seqActive (tpOf s t).seq = true := seqActive_iff.mpr hst
    exact (congrArg (fun x : Tp => x.seq.haltp) ((tpOf_broadcast mask s t).2 h)).trans
      (congrArg Seq.haltp (if_pos hact : (if seqActive (tpOf s t).seq then _ else (tpOf s t).seq) = _))
  · exact next_congr ((byAny_of_not_held rfl).trans (if_neg (by rw [hostWakes_puppeteer, h]; decide)))
  · exact ⟨_, next_congr ((byAny_of_not_held rfl).trans (if_pos h)), rfl, rfl, rfl, rfl⟩
  · exact next_congr (if_pos h)
  · exact next_congr (if_neg (by rw [h]; decide))

end Sys2Proof.Machine
end

section
/-! Resets and start-up (R287, R318-R321). -/
namespace Sys2Proof.Machine
open Sys2Proof.Safety

/-- A slice after a cold reset holds the head module and the cartridge, which stand outside the device. -/
theorem tpOf_coldReset (s : State) (t : Tid) : tpOf (coldReset s) t = coldTp (tpOf s t) := by
  fin_cases t <;> rfl

theorem rstCause_coldReset (s : State) :
    (bootVerifies s = false → (coldReset s).rstCause = 7) ∧ (bootVerifies s = true → (coldReset s).rstCause = 0 ∨ (coldReset s).rstCause = 1) := by
  have hcause : (coldReset s).rstCause = if bootVerifies s then (takeFree s).1 % 2 else 7 := rfl
  rw [hcause]
  constructor
  · intro h
    rw [h]
    rfl
  · intro h
    rw [h, if_pos rfl]
    exact Nat.mod_two_eq_zero_or_one _

@[simp] theorem notice_boot (code : Nat) (s : State) : (notice code s).boot = s.boot := by
  unfold notice
  split
  · rfl
  · exact setFld_boot _ _ _ s

/-- Start-up ends at step 9. -/
theorem bootDone_boot (s : State) : (bootDone s).boot = 9 := by
  unfold bootDone
  dsimp only
  split
  · rfl
  · rw [notice_boot]
    rfl

theorem measStart_boot (s : State) : (measStart s).boot = s.boot := by
  unfold measStart
  split <;> rfl

theorem hbmSwept_boot {s : State} (h : s.boot = 3) : (hbmSwept s).boot = 8 := by
  unfold hbmSwept
  rw [if_neg (by rw [h]; decide), measStart_boot]

/-- Without charge outstanding a warm reset is taken at once. -/
theorem warmRequest_of_clear {s : State} (hboot : s.boot = 9) (hcommit : s.pwr.commit = none) (hdebit : ∀ k : Tid, s.pwr.debit.get 0 k.val = 0) :
    warmRequest s = warmReset 2 s := by
  have hany : allT.any (fun t => decide (0 < s.pwr.debit.get 0 t.val)) = false :=
    List.any_eq_false.mpr fun t _ h => absurd (of_decide_eq_true h) (by rw [hdebit t]; decide)
  rw [warmRequest, if_neg (fun h => h hboot), hcommit, hany, Bool.and_false, if_neg (by decide), if_neg (by decide)]

theorem warmReset_boot (cause : Nat) (s : State) : (warmReset cause s).boot = 9 := by
  unfold warmReset
  extract_lets r m w off w₂ w₃
  exact bootDone_boot _

/-- Settles O53: each step of start-up by the step the device stands in. -/
theorem resetsAndStartUp : Obligations.ResetsAndStartUp := by
  intro src t ok s
  refine ⟨⟨_, rfl, rfl, rfl, rfl, rfl, rfl, rfl, rfl, rfl, rfl, rfl, rfl, rfl, rfl, fun k => ?_, (rstCause_coldReset s).1,
      (rstCause_coldReset s).2⟩, fun hboot hcommit => ?_, fun hboot hcommit hdebit => ?_, fun hrom hboot => ?_, fun hboot hcause => ?_,
    fun h => ?_, fun hboot => ⟨?_, ?_⟩, fun h3 h9 => ?_, fun hboot => ?_, fun hboot => ?_⟩
  · rw [tpOf_coldReset]
    exact ⟨rfl, rfl⟩
  · refine next_congr (congrArg settleHost ((byAny_of_not_held rfl).trans ?_))
    rw [hostWakes_puppeteer, warmRequest, if_neg (fun h => h hboot), if_pos hcommit]
    rfl
  · exact ⟨_, next_congr (congrArg settleHost ((byAny_of_not_held rfl).trans (warmRequest_of_clear hboot hcommit hdebit))), rfl, warmReset_boot 2 s⟩
  · refine next_congr (congrArg settleHost ((byAny_of_not_held hrom).trans (if_pos ?_)))
    have hkeep : (hostWakes src s).boot = s.boot := by
      cases src
      · rw [hostWakes_host, wakeUp_only]
      · rfl
    rw [hkeep]
    exact hboot
  · exact next_congr (if_pos ⟨hboot, hcause⟩)
  · exact next_congr (if_neg fun hb => h.elim (fun h => h hb.1) (fun h => hb.2 h))
  · exact next_congr (congrArg settleHost (if_pos hboot))
  · exact next_congr (congrArg settleHost (if_pos hboot))
  · refine next_congr (congrArg settleHost ?_)
    rw [ucieTrained, if_neg h3, if_neg (fun h => h9 h.1)]
  · exact next_congr (if_pos hboot)
  · exact ⟨_, rfl, hbmSwept_boot hboot⟩

end Sys2Proof.Machine
end

section
/-! Power supervision: the grants (R309-R311), the commit's end (R312, R314, R317), measurements of the bank and the recovery log
(R308, R315). -/
namespace Sys2Proof.Machine
open Sys2Proof.Safety

/-! ### What computing the grants changes (R309) -/

theorem grantOf_only (t : Tid) (s : State) : ∃ n : Nat, (grantOf t s).2 = { s with freeCtr := n } := by
  unfold grantOf
  split
  · exact ⟨s.freeCtr, rfl⟩
  · split
    · exact ⟨_, rfl⟩
    · exact ⟨s.freeCtr, rfl⟩

theorem tdrainMs_only (s : State) : ∃ n : Nat, (tdrainMs s).2 = { s with freeCtr := n } := by
  unfold tdrainMs
  split
  · exact ⟨_, rfl⟩
  · exact ⟨s.freeCtr, rfl⟩

theorem regrantOne_only (t : Tid) (s : State) : ∃ (x : Oct Tp) (n : Nat) (g : SMap Nat),
    regrantOne t s = { s with tp := x, freeCtr := n, pwr := { s.pwr with grant := g } } := by
  obtain ⟨n, hn⟩ := grantOf_only t s
  unfold regrantOne
  dsimp only
  rw [hn]
  split
  · exact ⟨s.tp, n, s.pwr.grant, rfl⟩
  · exact ⟨_, n, _, rfl⟩

theorem forAll_regrantOne_only (l : List Tid) (s : State) : ∃ (x : Oct Tp) (n : Nat) (g : SMap Nat),
    forAll l regrantOne s = { s with tp := x, freeCtr := n, pwr := { s.pwr with grant := g } } := by
  induction l generalizing s with
  | nil => exact ⟨s.tp, s.freeCtr, s.pwr.grant, rfl⟩
  | cons t l ih =>
    obtain ⟨x, n, g, h⟩ := regrantOne_only t s
    obtain ⟨x', n', g', h'⟩ := ih (regrantOne t s)
    refine ⟨x', n', g', h'.trans ?_⟩
    rw [h]

theorem regrant_only (s : State) : ∃ (x : Oct Tp) (n : Nat) (g : SMap Nat) (d : Nat), regrant s
    = { setFld Reg.wuTdrain Fld.wuTdrainTdrain d s with tp := x, freeCtr := n, pwr := { s.pwr with grant := g, vminUsed := vmin1s s } } := by
  obtain ⟨n, hn⟩ := tdrainMs_only s
  unfold regrant
  dsimp only
  rw [hn]
  obtain ⟨x, n', g, h⟩ := forAll_regrantOne_only allT { setFld Reg.wuTdrain Fld.wuTdrainTdrain (tdrainMs s).1 { s with freeCtr := n } with
    pwr := { s.pwr with vminUsed := vmin1s s } }
  exact ⟨x, n', g, (tdrainMs s).1, h⟩

theorem reg_regrant_ne {off : Nat} (h : off ≠ Reg.wuTdrain) (s : State) : reg (regrant s) off = reg s off := by
  obtain ⟨x, n, g, d, hr⟩ := regrant_only s
  have hregs : (regrant s).regs = (setFld Reg.wuTdrain Fld.wuTdrainTdrain d s).regs := by rw [hr]
  rw [reg_of_regs hregs, reg_setFld_ne h]

theorem fld_regrant_ne {off : Nat} (h : off ≠ Reg.wuTdrain) (f : Fld) (s : State) : fld (regrant s) off f = fld s off f := by
  rw [fld, reg_regrant_ne h, fld]

/-- What of power supervision the grants do not hold. -/
def ungranted (p : Pwr) : Pwr := { p with grant := {}, vminUsed := 0 }

theorem ungranted_regrant (s : State) : ungranted (regrant s).pwr = ungranted s.pwr := by
  obtain ⟨x, n, g, d, hr⟩ := regrant_only s
  rw [hr]
  rfl

/-- The grants aside, power supervision stays. -/
theorem regrant_pwr {α : Type} (f : Pwr → α) (hf : ∀ p, f (ungranted p) = f p) (s : State) : f (regrant s).pwr = f s.pwr := by
  rw [← hf, ungranted_regrant, hf]

theorem regrant_boot (s : State) : (regrant s).boot = s.boot := by
  obtain ⟨x, n, g, d, hr⟩ := regrant_only s
  rw [hr]
  rfl

/-! ### No grants (R308, R317) -/

/-- Without a valid measurement, or with the commit area not erased, no transport is granted anything. -/
def NoGrant (s : State) : Prop := fld s Reg.wuMeas Fld.wuMeasValid ≠ 1 ∨ s.pwr.erased = false

theorem grantOf_of_noGrant {s : State} (h : NoGrant s) (t : Tid) : grantOf t s = (0, s) := by
  have hg : granted s t = false := by
    rw [granted]
    rcases h with h | h
    · rw [beq_false_of_ne h, Bool.and_false, Bool.false_and]
    · rw [h, Bool.and_false]
  rw [grantOf, hg]
  rfl

theorem regrantOne_of_noGrant {s : State} (h : NoGrant s) (t : Tid) :
    NoGrant (regrantOne t s) ∧ ∀ k, (regrantOne t s).pwr.grant.get 0 k = if k = t.val then 0 else s.pwr.grant.get 0 k := by
  unfold regrantOne
  rw [grantOf_of_noGrant h t]
  dsimp only
  split
  · next hz =>
    refine ⟨h, fun k => ?_⟩
    split
    · next hk => rw [hk, hz]
    · rfl
  · exact ⟨h, fun k => SMap.get_set _ _ _ _ _⟩

theorem regrantAll_of_noGrant {l : List Tid} {s : State} (h : NoGrant s) (k : Nat) :
    (forAll l regrantOne s).pwr.grant.get 0 k = if k ∈ l.map Fin.val then 0 else s.pwr.grant.get 0 k := by
  induction l generalizing s with
  | nil => rfl
  | cons t l ih =>
    obtain ⟨hno, hk⟩ := regrantOne_of_noGrant h t
    show (forAll l regrantOne (regrantOne t s)).pwr.grant.get 0 k = _
    rw [ih hno, hk k, List.map_cons]
    by_cases h1 : k = t.val <;> by_cases h2 : k ∈ l.map Fin.val <;> simp [h1, h2]

theorem grant_of_noGrant {s : State} (h : NoGrant s) (t : Tid) : (regrant s).pwr.grant.get 0 t.val = 0 := by
  obtain ⟨n, hn⟩ := tdrainMs_only s
  unfold regrant
  dsimp only
  rw [hn, regrantAll_of_noGrant, if_pos (List.mem_map_of_mem (mem_allT t))]
  rcases h with h | h
  · refine Or.inl ?_
    show fld (setFld Reg.wuTdrain Fld.wuTdrainTdrain (tdrainMs s).1 s) Reg.wuMeas Fld.wuMeasValid ≠ 1
    rw [fld_setFld_ne (by decide)]
    exact h
  · exact Or.inr h

/-! ### The recovery log's header (R315) -/

theorem rlogHeader_fields (gen : W32) (cause outcome count ms v0 v1 : Nat) :
    leAt (rlogHeader gen cause outcome count ms v0 v1) 0 4 = 0x474C5052 ∧ leAt (rlogHeader gen cause outcome count ms v0 v1) 8 1 = cause % 256
      ∧ leAt (rlogHeader gen cause outcome count ms v0 v1) 9 1 = outcome % 256 := by
  simp [rlogHeader, leAt, cut, leBytes, leNat]

/-! ### The commit's end (R312, R314, R317) -/

theorem commitRecord_of_not_recording {c : Commit} {s : State} (hc : s.pwr.commit = some c) (hrec : c.recording = false) :
    commitRecord s = if allT.all (fun t => c.marked.contains t.val || commitDone s t) then beginRecord s else s := by
  rw [commitRecord, hc]
  dsimp only
  rw [hrec]
  rfl

theorem commitReady_iff {c : Commit} {s : State} :
    allT.all (fun t => c.marked.contains t.val || commitDone s t) = true ↔ ∀ t : Tid, t.val ∈ c.marked ∨ commitDone s t = true := by
  rw [List.all_eq_true]
  simp only [Bool.or_eq_true, List.contains_iff_mem]
  exact ⟨fun h t => h t (mem_allT t), fun h t _ => h t⟩

theorem pfailHigh_only (s : State) : ∃ n : Nat, (pfailHigh s).2 = { s with freeCtr := n } := by
  unfold pfailHigh
  split
  · exact ⟨s.freeCtr, rfl⟩
  · exact ⟨_, rfl⟩

/-- The commit's log is complete and its part of the commit area in use. -/
def logged (c : Commit) (s : State) : State :=
  let p := s.pwr
  let h := rlogHeader p.rlogGen c.cause (if c.short then 1 else 0) p.rlog.length (nowMs s - c.startMs) c.v0 (tenMv p.vhu)
  modPwr (fun p => { p with rlogHead := h, erased := false, commit := none }) s

/-- What a commit ends with. -/
def commitOut (c : Commit) (z : State) : State :=
  let f := pfailHigh z
  let good : Bool := f.1 && decide (tenthVolt (fld z Reg.pwrCfg Fld.pwrCfgClrv) ≤ z.pwr.vin)
  if good && !c.warm then warmReset 3 f.2
  else if c.warm || z.pwr.warmPend then warmReset 2 f.2
  else modPwr (fun p => { p with commitEnded := true }) f.2

theorem commitEnd_of_recording {c : Commit} {s : State} (hc : s.pwr.commit = some c) (hrec : c.recording = true) :
    commitEnd s = commitOut c (regrant (logged c s)) := by
  unfold commitEnd commitOut logged
  simp only [hc, hrec, Bool.not_true, Bool.false_eq_true, if_false]

/-- Where VIN is not good at the end the device waits for the loss of power. -/
theorem commitOut_of_low {c : Commit} {z : State} (hwarm : c.warm = false) (hpend : z.pwr.warmPend = false)
    (hvin : z.pwr.vin < tenthVolt (fld z Reg.pwrCfg Fld.pwrCfgClrv)) :
    commitOut c z = modPwr (fun p => { p with commitEnded := true }) (pfailHigh z).2 := by
  unfold commitOut
  dsimp only
  rw [decide_eq_false (Nat.not_le.mpr hvin), Bool.and_false, Bool.false_and, if_neg Bool.false_ne_true, hwarm, hpend, Bool.or_self,
    if_neg Bool.false_ne_true]

theorem commitEnd_of_low {c : Commit} {s : State} (hc : s.pwr.commit = some c) (hrec : c.recording = true) (hwarm : c.warm = false)
    (hpend : s.pwr.warmPend = false) (hvin : s.pwr.vin < tenthVolt (fld s Reg.pwrCfg Fld.pwrCfgClrv)) :
    commitEnd s = modPwr (fun p => { p with commitEnded := true }) (pfailHigh (regrant (logged c s))).2 := by
  refine (commitEnd_of_recording hc hrec).trans (commitOut_of_low hwarm ?_ ?_)
  · exact (regrant_pwr Pwr.warmPend (fun _ => rfl) (logged c s)).trans hpend
  · rw [fld_regrant_ne (by decide), regrant_pwr Pwr.vin (fun _ => rfl) (logged c s)]
    exact hvin

theorem pfailHigh_pwr (s : State) : (pfailHigh s).2.pwr = s.pwr := by
  obtain ⟨n, hn⟩ := pfailHigh_only s
  rw [hn]

theorem commitEnded_state (c : Commit) (s : State) :
    let u := modPwr (fun p => { p with commitEnded := true }) (pfailHigh (regrant (logged c s))).2
    u.pwr.commitEnded = true ∧ u.pwr.commit = none ∧ u.pwr.erased = false ∧ (∀ t : Tid, u.pwr.grant.get 0 t.val = 0)
      ∧ u.pwr.rlogHead = (logged c s).pwr.rlogHead := by
  have hcommit := regrant_pwr Pwr.commit (fun _ => rfl) (logged c s)
  have herased := regrant_pwr Pwr.erased (fun _ => rfl) (logged c s)
  have hhead := regrant_pwr Pwr.rlogHead (fun _ => rfl) (logged c s)
  have hgrant : ∀ t : Tid, (regrant (logged c s)).pwr.grant.get 0 t.val = 0 := grant_of_noGrant (Or.inr rfl)
  generalize regrant (logged c s) = y at hcommit herased hhead hgrant ⊢
  have hp := pfailHigh_pwr y
  generalize (pfailHigh y).2 = z at hp
  rw [← hp] at hcommit herased hhead hgrant
  exact ⟨rfl, hcommit, herased, hgrant, hhead⟩

/-! ### Measurements (R308) -/

theorem measEnd_of_some {m : Meas} {s : State} (hm : s.pwr.meas = some m) :
    measEnd s = if 100 * fld s Reg.wuCfg Fld.wuCfgTstep ≤ m.n then measResult m false s else s := by
  rw [measEnd, hm]

/-- A measurement is over. -/
def unmeasured (s : State) : State := { s with pwr := { s.pwr with meas := none, huTest := false } }

/-- A measurement had no valid result. -/
def measInvalid (s : State) : State := raiseFld Reg.pwrEvt Fld.pwrEvtMeasfail (setFld Reg.wuMeas Fld.wuMeasValid 0 (unmeasured s))

/-- An invalid result, after start-up. -/
theorem measResult_of_invalid {m : Meas} {early : Bool} {s : State} (hboot : s.boot = 9)
    (h : early = true ∨ 99 * (measVolts m s).1 < 100 * (measVolts m s).2) : measResult m early s = regrant (measInvalid s) := by
  have hcond : (!early && decide (100 * (measVolts m s).2 ≤ 99 * (measVolts m s).1)) = false := by
    rcases h with h | h
    · rw [h]
      rfl
    · rw [decide_eq_false (Nat.not_le.mpr h), Bool.and_false]
  have h8 : ¬(regrant (measInvalid s)).boot = 8 := by
    rw [regrant_boot]
    show ¬s.boot = 8
    rw [hboot]
    decide
  unfold measResult
  dsimp only
  rw [hcond]
  exact if_neg h8

theorem measInvalid_fields (s : State) : (measInvalid s).pwr = (unmeasured s).pwr ∧ fld (measInvalid s) Reg.wuMeas Fld.wuMeasValid = 0
    ∧ fld (measInvalid s) Reg.pwrEvt Fld.pwrEvtMeasfail = 1 := by
  rw [measInvalid, raiseFld]
  refine ⟨by rw [setFld_pwr, setFld_pwr], ?_, fld_setFld_self (by decide) _ _ _⟩
  rw [fld_setFld_ne (by decide), fld_setFld_self (by decide)]
  rfl

theorem measFailed_state (s : State) :
    let u := regrant (measInvalid s)
    u.pwr.huTest = false ∧ u.pwr.meas = none ∧ fld u Reg.wuMeas Fld.wuMeasValid = 0 ∧ fld u Reg.pwrEvt Fld.pwrEvtMeasfail = 1
      ∧ ∀ t : Tid, u.pwr.grant.get 0 t.val = 0 := by
  obtain ⟨hpwr, hvalid, hfail⟩ := measInvalid_fields s
  generalize measInvalid s = z at hpwr hvalid hfail
  refine ⟨(regrant_pwr Pwr.huTest (fun _ => rfl) z).trans ?_, (regrant_pwr Pwr.meas (fun _ => rfl) z).trans ?_,
    (fld_regrant_ne (by decide) _ z).trans hvalid, (fld_regrant_ne (by decide) _ z).trans hfail,
    grant_of_noGrant (Or.inl (by rw [hvalid]; decide))⟩ <;> rw [hpwr] <;> rfl

theorem capacitance_only (v0 v1 : Nat) (s : State) : ∃ n : Nat, (capacitance v0 v1 s).2 = { s with freeCtr := n } := by
  unfold capacitance
  dsimp only
  split
  · exact ⟨_, rfl⟩
  · exact ⟨s.freeCtr, rfl⟩

/-- A measurement had the result c. -/
def measValid (c : Nat) (z : State) : State :=
  modPwr (fun p => { p with cap := some c, measTemp := p.temp }) (setFld Reg.wuMeas Fld.wuMeasValid 1 (setFld Reg.wuMeas Fld.wuMeasC c z))

theorem fld_modPwr (f : Pwr → Pwr) (s : State) (off : Nat) (g : Fld) : fld (modPwr f s) off g = fld s off g := rfl

theorem boot_modPwr (f : Pwr → Pwr) (s : State) : (modPwr f s).boot = s.boot := rfl

theorem pwr_modPwr (f : Pwr → Pwr) (s : State) : (modPwr f s).pwr = f s.pwr := rfl

theorem measValid_fields (c : Nat) (z : State) : (measValid c z).pwr = { z.pwr with cap := some c, measTemp := z.pwr.temp }
    ∧ (measValid c z).boot = z.boot ∧ fld (measValid c z) Reg.wuMeas Fld.wuMeasValid = 1
    ∧ fld (measValid c z) Reg.wuMeas Fld.wuMeasC = c % 2 ^ 24 := by
  unfold measValid
  refine ⟨?_, ?_, ?_, ?_⟩
  · rw [pwr_modPwr, setFld_pwr, setFld_pwr]
  · rw [boot_modPwr, setFld_boot, setFld_boot]
  · rw [fld_modPwr, fld_setFld_self (by decide)]
    rfl
  · rw [fld_modPwr, fld_setFld_disjoint (by decide) (by decide), fld_setFld_self (by decide)]

/-- A valid result, after start-up. -/
theorem measResult_of_valid {m : Meas} {s : State} (hboot : s.boot = 9) (h : 100 * (measVolts m s).2 ≤ 99 * (measVolts m s).1) :
    ∃ (c : Nat) (z : State), z.pwr = (unmeasured s).pwr ∧ measResult m false s = regrant (measValid c z) := by
  obtain ⟨n, hn⟩ := capacitance_only (measVolts m s).1 (measVolts m s).2 (unmeasured s)
  have hp : (capacitance (measVolts m s).1 (measVolts m s).2 (unmeasured s)).2.pwr = (unmeasured s).pwr := by rw [hn]
  have hb : (capacitance (measVolts m s).1 (measVolts m s).2 (unmeasured s)).2.boot = s.boot := by
    rw [hn]
    rfl
  refine ⟨(capacitance (measVolts m s).1 (measVolts m s).2 (unmeasured s)).1, (capacitance (measVolts m s).1 (measVolts m s).2 (unmeasured s)).2, hp, ?_⟩
  unfold measResult
  dsimp only
  rw [decide_eq_true h]
  refine if_neg ?_
  show ¬(regrant (measValid _ _)).boot = 8
  rw [regrant_boot, (measValid_fields _ _).2.1]
  show ¬(capacitance (measVolts m s).1 (measVolts m s).2 (unmeasured s)).2.boot = 8
  rw [hb, hboot]
  decide

theorem measStart_idle {s : State} (ht : s.pwr.huTest = false) (hc : s.pwr.commit = none) (he : s.pwr.commitEnded = false) :
    measStart s = { s with pwr := { s.pwr with meas := some ⟨(recentMean s).1, (recentMean s).2, 0⟩, huTest := true } } := by
  refine if_neg ?_
  rw [ht, hc, he]
  decide

theorem rlogAck_of_pending {s : State} (h : fld s Reg.pwrRlog Fld.pwrRlogPending = 1) : (rlogAck s).pwr.rlog = []
    ∧ fld (rlogAck s) Reg.pwrRlog Fld.pwrRlogPending = 0 := by
  have hack : rlogAck s = modPwr (fun p => { p with rlog := [], rlogHead := [] }) (setFld Reg.pwrRlog Fld.pwrRlogPending 0 s) :=
    if_neg (by rw [h]; decide)
  rw [hack]
  exact ⟨rfl, (fld_of_regs rfl _ _).trans (fld_setFld_self (f := Fld.pwrRlogPending) (by decide) Reg.pwrRlog 0 s)⟩

/-- Settles O52: the commit by what it waits for, a measurement by its result; the grants of a state without one are zero. -/
theorem commitEnds : Obligations.CommitEnds := by
  refine ⟨fun c s => ⟨fun hno => ⟨?_, ?_⟩, fun hc hrec => ⟨?_, fun hex => ?_, fun hall => ?_⟩, fun hc hrec hwarm hpend hvin => ?_,
      fun he => ?_, fun he hc => ?_⟩,
    fun m src s => ⟨fun h => ?_, fun ht hc he => ⟨⟨(recentMean s).1, (recentMean s).2, 0⟩, ?_, rfl, rfl, rfl, fun hboot => ?_⟩, fun hboot => ?_,
      fun hno => ?_, fun hm hn => ?_, fun hm hn hboot hv => ?_, fun hm hn hboot hv => ?_, fun h0 => ?_, fun hrom h1 => ?_⟩⟩
  · refine next_congr (congrArg settleHost ?_)
    rw [commitRecord, hno]
  · refine next_congr (congrArg settleHost ?_)
    rw [commitEnd, hno]
  · refine next_congr (congrArg settleHost ?_)
    rw [commitEnd, hc]
    dsimp only
    rw [hrec]
    rfl
  · obtain ⟨t, ht, hdone⟩ := hex
    refine next_congr (congrArg settleHost ((commitRecord_of_not_recording hc hrec).trans (if_neg fun h => ?_)))
    rcases commitReady_iff.mp h t with hm | hd
    · exact ht hm
    · rw [hdone] at hd
      cases hd
  · exact next_congr (congrArg settleHost ((commitRecord_of_not_recording hc hrec).trans (if_pos (commitReady_iff.mpr hall))))
  · obtain ⟨hended, hnone, herased, hgrant, hhead⟩ := commitEnded_state c s
    obtain ⟨hmagic, hcause, hshort⟩ := rlogHeader_fields s.pwr.rlogGen c.cause (if c.short then 1 else 0) s.pwr.rlog.length
      (nowMs s - c.startMs) c.v0 (tenMv s.pwr.vhu)
    refine ⟨_, next_congr (congrArg settleHost (commitEnd_of_low hc hrec hwarm hpend hvin)), hended, hnone, herased, hgrant, ?_, ?_, ?_⟩
    · exact (congrArg (fun l => leAt l 0 4) hhead).trans hmagic
    · exact (congrArg (fun l => leAt l 8 1) hhead).trans hcause
    · refine (congrArg (fun l => leAt l 9 1) hhead).trans (hshort.trans ?_)
      cases c.short <;> rfl
  · exact next_congr (if_pos (Or.inl he))
  · refine ⟨_, next_congr (if_neg ?_), ?_⟩
    · rw [he, hc]
      decide
    · exact regrant_pwr Pwr.erased (fun _ => rfl) (modPwr (fun p => { p with erased := true }) s)
  · exact next_congr (if_pos (h.imp id Or.inl))
  · exact next_congr (measStart_idle ht hc he)
  · exact next_congr (if_pos hboot)
  · exact next_congr (if_neg hboot)
  · refine next_congr (congrArg settleHost ?_)
    rw [measEnd, hno]
  · exact next_congr (congrArg settleHost ((measEnd_of_some hm).trans (if_neg (Nat.not_le.mpr hn))))
  · exact ⟨_, next_congr (congrArg settleHost ((measEnd_of_some hm).trans ((if_pos hn).trans (measResult_of_invalid hboot (Or.inr hv))))),
      measFailed_state s⟩
  · obtain ⟨c, z, hz, hres⟩ := measResult_of_valid hboot hv
    obtain ⟨hpwr, -, hvalid, hc⟩ := measValid_fields c z
    refine ⟨_, c, next_congr (congrArg settleHost ((measEnd_of_some hm).trans ((if_pos hn).trans hres))), ?_, ?_, ?_,
      (fld_regrant_ne (by decide) _ _).trans hvalid, (fld_regrant_ne (by decide) _ _).trans hc⟩
    · rw [regrant_pwr Pwr.huTest (fun _ => rfl), hpwr, hz]
      rfl
    · rw [regrant_pwr Pwr.meas (fun _ => rfl), hpwr, hz]
      rfl
    · rw [regrant_pwr Pwr.cap (fun _ => rfl), hpwr]
  · exact next_congr ((byAny_of_not_held rfl).trans (if_pos h0))
  · exact ⟨_, next_congr (byAny_of_not_held hrom), rlogAck_of_pending h1⟩

end Sys2Proof.Machine
end

section
/-! Supply, temperature and the start of the commit (R306-R308, R312, R314, R357). -/
namespace Sys2Proof.Machine
open Sys2Proof.Safety

/-! ### Speed caps (R307, R357) -/

/-- What the caps in force follow from, the caps that stand, and the latest supply sample. -/
structure Caps where
  sag : Bool
  therm : Bool
  vin : Nat
  vhu : Nat
  sagCap : W32
  thermCap : W32
  stands : Tid → W32

def capsOf (s : State) : Caps :=
  ⟨s.pwr.sag, s.pwr.therm, s.pwr.vin, s.pwr.vhu, reg s Reg.pwrCap, reg s Reg.pwrThcfg, fun t => reg s (Reg.yyCap t)⟩

/-- CAPV of every transport is the lower of the caps in force. -/
def Capped (s : State) : Prop := ∀ t : Tid, fld s (Reg.yyCap t) Fld.yyCapCapv = capInForce s % 2 ^ 14

theorem capInForce_congr {s u : State} (h : capsOf u = capsOf s) : capInForce u = capInForce s := by
  have hsag : u.pwr.sag = s.pwr.sag := congrArg Caps.sag h
  have htherm : u.pwr.therm = s.pwr.therm := congrArg Caps.therm h
  have hcap : reg u Reg.pwrCap = reg s Reg.pwrCap := congrArg Caps.sagCap h
  have hth : reg u Reg.pwrThcfg = reg s Reg.pwrThcfg := congrArg Caps.thermCap h
  rw [capInForce, fld, fld, hsag, htherm, hcap, hth]
  rfl

theorem capped_congr {s u : State} (h : capsOf u = capsOf s) : Capped u ↔ Capped s := by
  have hstands (t : Tid) : reg u (Reg.yyCap t) = reg s (Reg.yyCap t) := congrArg (fun c => c.stands t) h
  unfold Capped
  simp only [capInForce_congr h, fld, hstands]

theorem capsOf_of_regs {s u : State} (hp : u.pwr = s.pwr) (hcap : reg u Reg.pwrCap = reg s Reg.pwrCap)
    (hth : reg u Reg.pwrThcfg = reg s Reg.pwrThcfg) (hyy : ∀ t : Tid, reg u (Reg.yyCap t) = reg s (Reg.yyCap t)) : capsOf u = capsOf s := by
  rw [capsOf, hp, hcap, hth, funext hyy, capsOf]

/-- A register that holds no cap. -/
def NoCap (off : Nat) : Prop := off ≠ Reg.pwrCap ∧ off ≠ Reg.pwrThcfg ∧ ∀ t : Tid, off ≠ Reg.yyCap t

theorem noCap_above {a : Nat} (h : 0x1C00000 ≤ a) (hcap : a ≠ Reg.pwrCap) (hth : a ≠ Reg.pwrThcfg) : NoCap a := by
  refine ⟨hcap, hth, fun t => ?_⟩
  have := t.isLt
  simp only [Reg.yyCap]
  omega

theorem capsOf_setFld {a : Nat} (h : NoCap a) (f : Fld) (x : Nat) (s : State) : capsOf (setFld a f x s) = capsOf s :=
  capsOf_of_regs (setFld_pwr a f x s) (reg_setFld_ne h.1.symm f x s) (reg_setFld_ne h.2.1.symm f x s)
    fun t => reg_setFld_ne (h.2.2 t).symm f x s

theorem yyCap_ne {t u : Tid} (h : t ≠ u) : Reg.yyCap t ≠ Reg.yyCap u := by
  have hval : t.val ≠ u.val := fun hv => h (Fin.ext hv)
  simp only [Reg.yyCap]
  omega

/-- Setting one cap leaves what the caps in force follow from. -/
theorem capInForce_setCap (t : Tid) (x : Nat) (s : State) : capInForce (setFld (Reg.yyCap t) Fld.yyCapCapv x s) = capInForce s := by
  have hne {a : Nat} (ha : 0x1C00000 ≤ a) : a ≠ Reg.yyCap t := by
    have := t.isLt
    simp only [Reg.yyCap]
    omega
  rw [capInForce, fld_setFld_ne (hne (by decide)), fld_setFld_ne (hne (by decide)), setFld_pwr, capInForce]

theorem forAll_setCap (l : List Tid) {s u : State}
    (hu : forAll l (fun t s => setFld (Reg.yyCap t.val) Fld.yyCapCapv (capInForce s) s) s = u) :
    capInForce u = capInForce s
      ∧ ∀ t, (t ∈ l ∨ fld s (Reg.yyCap t) Fld.yyCapCapv = capInForce s % 2 ^ 14) →
        fld u (Reg.yyCap t) Fld.yyCapCapv = capInForce s % 2 ^ 14 := by
  induction l generalizing s with
  | nil => exact hu ▸ ⟨rfl, fun t h => h.elim (fun h => absurd h List.not_mem_nil) id⟩
  | cons a l ih =>
    obtain ⟨hforce, hset⟩ := ih hu
    rw [capInForce_setCap] at hforce hset
    refine ⟨hforce, fun t ht => hset t ?_⟩
    by_cases hta : t = a
    · subst hta
      exact Or.inr (fld_setFld_self (by decide) _ _ _)
    · rw [fld_setFld_ne (yyCap_ne hta)]
      exact ht.imp (fun h => (List.mem_cons.mp h).resolve_left hta) id

/-- Applying the caps leaves every transport capped. -/
theorem capped_applyCaps (s : State) : Capped (applyCaps s) := by
  generalize h : applyCaps s = u
  obtain ⟨hforce, hset⟩ := forAll_setCap allT h
  unfold Capped
  rw [hforce]
  exact fun t => hset t (Or.inl (mem_allT t))

theorem applyCaps_pwr (s : State) : (applyCaps s).pwr = s.pwr :=
  forAll_keeps (g := State.pwr) (fun _ s => setFld_pwr _ _ _ s) allT s

theorem reg_applyCaps_ne {off : Nat} (h : ∀ t : Tid, off ≠ Reg.yyCap t) (s : State) : reg (applyCaps s) off = reg s off :=
  forAll_keeps (g := fun s => reg s off) (fun (t : Tid) s => reg_setFld_ne (h t) _ _ s) allT s

theorem capsOf_regrant (s : State) : capsOf (regrant s) = capsOf s := by
  have hyy (t : Tid) : reg (regrant s) (Reg.yyCap t) = reg s (Reg.yyCap t) := by
    refine reg_regrant_ne ?_ s
    have := t.isLt
    simp only [Reg.yyCap, Reg.wuTdrain]
    omega
  rw [capsOf, funext hyy, regrant_pwr Pwr.sag (fun _ => rfl), regrant_pwr Pwr.therm (fun _ => rfl), regrant_pwr Pwr.vin (fun _ => rfl),
    regrant_pwr Pwr.vhu (fun _ => rfl), reg_regrant_ne (by decide), reg_regrant_ne (by decide), capsOf]

theorem capsOf_notice (code : Nat) (s : State) : capsOf (notice code s) = capsOf s := by
  unfold notice
  split
  · rfl
  · refine capsOf_setFld ⟨by decide, by decide, fun t => ?_⟩ _ _ s
    simp only [Reg.hifNotice, Reg.yyCap]
    omega

theorem capsOf_bootDone (s : State) : capsOf (bootDone s) = capsOf s := by
  unfold bootDone
  dsimp only
  split
  · rfl
  · rw [capsOf_notice, capsOf_setFld (noCap_above (by decide) (by decide) (by decide)),
      capsOf_setFld (noCap_above (by decide) (by decide) (by decide))]
    rfl

theorem capsOf_unmeasured (s : State) : capsOf (unmeasured s) = capsOf s := rfl

theorem capsOf_measInvalid (s : State) : capsOf (measInvalid s) = capsOf s := by
  rw [measInvalid, raiseFld, capsOf_setFld (noCap_above (by decide) (by decide) (by decide)),
    capsOf_setFld (noCap_above (by decide) (by decide) (by decide)), capsOf_unmeasured]

/-- A measurement that ends early leaves the caps. -/
theorem capsOf_measResult_early (m : Meas) (s : State) : capsOf (measResult m true s) = capsOf s := by
  have h : measResult m true s = if (regrant (measInvalid s)).boot = 8 then bootDone (regrant (measInvalid s)) else regrant (measInvalid s) := rfl
  rw [h]
  split
  · rw [capsOf_bootDone, capsOf_regrant, capsOf_measInvalid]
  · rw [capsOf_regrant, capsOf_measInvalid]

theorem capsOf_measWatch (s : State) : capsOf (measWatch s) = capsOf s := by
  unfold measWatch
  split
  · rfl
  · split
    · exact capsOf_measResult_early _ s
    · rfl

/-! ### The commit starts (R312) -/

/-- What step 1 of a commit finds: awake, the commit running, event PFAIL set, the recovery log programmed, the pauses ended. -/
def commitBegun (cause : Nat) (s : State) : State :=
  let s := wakeUp s
  let s := modPwr (fun p => { p with
    huTest := false, meas := none, commit := some ⟨cause, false, [], false, nowMs s, tenMv p.vhu, cause == 4⟩ }) s
  let s := bumpFld Reg.pwrCnt Fld.pwrCntCommits (raiseFld Reg.pwrEvt Fld.pwrEvtCommit s)
  let s := programRlog cause (forAll allT (fun t => setEvent t evPfail) s)
  forAll allT wakePause s

theorem startCommit_of_ne {cause : Nat} (h : cause ≠ 4) (s : State) :
    startCommit cause s = watchBank (settleHost (stopIntake (commitBegun cause s))) := by
  unfold startCommit commitBegun
  dsimp only
  rw [if_neg h]

/-- What a change of a transport outside its sequencer keeps. -/
def CommitFacts (s u : State) : Prop := u.pwr = s.pwr ∧ u.hif = s.hif ∧ ∀ t, seqOf u t = seqOf s t

theorem commitFacts_modTp (a : Tid) {f : Tp → Tp} (hf : ∀ x, (f x).seq = x.seq) (s : State) : CommitFacts s (modTp a f s) := by
  refine ⟨rfl, rfl, fun t => ?_⟩
  by_cases ht : t = a
  · rw [ht, seqOf, tpOf_modTp, hf, seqOf]
  · rw [seqOf, tpOf_modTp_ne _ _ _ _ ht, seqOf]

theorem commitFacts_modYoyo (a : Tid) (f : Yoyo → Yoyo) (s : State) : CommitFacts s (modYoyo a f s) :=
  commitFacts_modTp a (f := fun x => { x with yoyo := f x.yoyo }) (fun _ => rfl) s

theorem CommitFacts.trans {s u v : State} (h : CommitFacts s u) (h' : CommitFacts u v) : CommitFacts s v :=
  ⟨h'.1.trans h.1, h'.2.1.trans h.2.1, fun t => (h'.2.2 t).trans (h.2.2 t)⟩

theorem commitFacts_wakePause (a : Tid) (s : State) : CommitFacts s (wakePause a s) := by
  unfold wakePause endPause resumePause
  split
  · exact ⟨rfl, rfl, fun _ => rfl⟩
  · split
    · exact ⟨rfl, rfl, fun _ => rfl⟩
    · exact (commitFacts_modYoyo a _ s).trans (commitFacts_modTp a (by intro x; rfl) _)
    · exact commitFacts_modYoyo a _ s

theorem commitFacts_forAll {f : Tid → State → State} (hf : ∀ a s, CommitFacts s (f a s)) (l : List Tid) (s : State) :
    CommitFacts s (forAll l f s) := by
  induction l generalizing s with
  | nil => exact ⟨rfl, rfl, fun _ => rfl⟩
  | cons a l ih => exact (hf a s).trans (ih (f a s))

/-- What the commit's bookkeeping leaves before the pauses end. -/
def commitMarked (cause : Nat) (s : State) : State :=
  let s := wakeUp s
  let s := modPwr (fun p => { p with
    huTest := false, meas := none, commit := some ⟨cause, false, [], false, nowMs s, tenMv p.vhu, cause == 4⟩ }) s
  let s := bumpFld Reg.pwrCnt Fld.pwrCntCommits (raiseFld Reg.pwrEvt Fld.pwrEvtCommit s)
  programRlog cause (forAll allT (fun t => setEvent t evPfail) s)

theorem commitFacts_programRlog (cause : Nat) (s : State) : ∃ (l : List RlogEnt) (h : List Byte),
    (programRlog cause s).pwr = { s.pwr with rlog := l, rlogGen := s.pwr.rlogGen + 1, rlogHead := h }
      ∧ (programRlog cause s).hif = s.hif ∧ ∀ t, seqOf (programRlog cause s) t = seqOf s t :=
  ⟨_, _, rfl, rfl, fun _ => rfl⟩

theorem commitBegun_facts {cause : Nat} (hne : cause ≠ 4) (s : State) : ∃ k, (commitBegun cause s).pwr.commit = some k
    ∧ k.cause = cause ∧ k.recording = false ∧ k.short = false ∧ k.warm = false ∧ k.marked = []
    ∧ (commitBegun cause s).hif.ps = 0 ∧ (commitBegun cause s).pwr.huTest = false ∧ (commitBegun cause s).pwr.rlogGen = s.pwr.rlogGen + 1
    ∧ ∀ t : Tid, (seqOf (commitBegun cause s) t).latched.getLsbD 15 = true := by
  have h : CommitFacts (commitMarked cause s) (commitBegun cause s) := commitFacts_forAll commitFacts_wakePause allT _
  obtain ⟨hpwr, hhif, hseq⟩ := h
  rw [hpwr, hhif]
  simp only [hseq]
  clear hpwr hhif hseq
  unfold commitMarked
  extract_lets w x y
  obtain ⟨l, hd, hpwr, hhif, hseq⟩ := commitFacts_programRlog cause (forAll allT (fun t => setEvent t evPfail) y)
  have hkeep : (forAll allT (fun t => setEvent t evPfail) y).pwr = y.pwr ∧ (forAll allT (fun t => setEvent t evPfail) y).hif = y.hif :=
    ⟨forAll_keeps (g := State.pwr) (fun _ _ => rfl) allT y, forAll_keeps (g := State.hif) (fun _ _ => rfl) allT y⟩
  have hy : y.pwr = x.pwr ∧ y.hif = x.hif := 
    ⟨by simp only [y, bumpFld, raiseFld, setFld_pwr], by simp only [y, bumpFld, raiseFld, setFld_hif]⟩
  have hx : x.pwr.commit = some ⟨cause, false, [], false, nowMs w, tenMv w.pwr.vhu, cause == 4⟩ ∧ x.pwr.huTest = false
    ∧ x.pwr.rlogGen = s.pwr.rlogGen ∧ x.hif.ps = 0 := by
    refine ⟨rfl, rfl, ?_, ?_⟩
    · show (wakeUp s).pwr.rlogGen = _
      rw [wakeUp_pwr]
    · show (wakeUp s).hif.ps = 0
      rw [wakeUp_only]
  obtain ⟨hcommit, htest, hgen, hps⟩ := hx
  rw [hpwr, hhif, hkeep.1, hkeep.2, hy.1, hy.2]
  refine ⟨_, hcommit, rfl, rfl, rfl, beq_false_of_ne hne, rfl, hps, htest, congrArg (· + 1) hgen, fun t => ?_⟩
  rw [hseq t]
  have hset := seqOf_setEvents nodup_allT evPfail y t
  rw [if_pos (mem_allT t)] at hset
  rw [setEvents] at hset
  rw [hset, latch, BitVec.getLsbD_or]
  exact Bool.or_eq_true_iff.mpr (Or.inr (by decide))

theorem canFetch_of_commit {s : State} {k : Commit} (h : s.pwr.commit = some k) (n : Nat) : canFetch s n = false := by
  rw [canFetch, h]
  simp

/-- What a commit's start says of the state in which step 1 begins. -/
theorem commitBegun_starts {cause : Nat} (hne : cause ≠ 4) {s z : State} (hgen : z.pwr.rlogGen = s.pwr.rlogGen) :
    ∃ (v : State) (k : Commit), startCommit cause z = watchBank (settleHost (stopIntake v))
        ∧ v.pwr.commit = some k ∧ k.cause = cause ∧ k.recording = false ∧ k.short = false ∧ k.warm = false ∧ k.marked = []
        ∧ v.hif.ps = 0 ∧ v.pwr.huTest = false ∧ v.pwr.rlogGen = s.pwr.rlogGen + 1
        ∧ (∀ t : Tid, (seqOf v t).latched.getLsbD 15 = true) ∧ ∀ n, canFetch v n = false := by
  obtain ⟨k, hk, h1, h2, h3, h4, h5, h6, h7, h8, h9⟩ := commitBegun_facts hne z
  exact ⟨_, k, startCommit_of_ne hne z, hk, h1, h2, h3, h4, h5, h6, h7, h8.trans (congrArg (· + 1) hgen), h9, canFetch_of_commit hk⟩

/-! ### Supply samples (R306, R307, R314) -/

/-- A sag's start leaves the samples and the log's generation. -/
theorem startSag_pwr (s : State) : (startSag s).pwr = { s.pwr with sag := true, sagT := 0, clrT := 0 } := by
  rw [startSag, applyCaps_pwr, bumpFld, raiseFld, setFld_pwr, setFld_pwr]
  rfl

theorem startCommit_pfail {s : State} (hc : s.pwr.commit = none) (he : s.pwr.commitEnded = false) :
    pfailAccept s = startCommit 1 (modPwr (fun p => { p with pfailN := false }) s) := by
  refine if_neg ?_
  rw [hc, he]
  decide

theorem startCommit_sag {s : State} (hc : s.pwr.commit = none) (he : s.pwr.commitEnded = false) (hs : s.pwr.sag = true)
    (ht : 100 * fld s Reg.pwrCap Fld.pwrCapSagt ≤ s.pwr.sagT) : sagTimeout s = startCommit 2 s :=
  if_pos ⟨hs, ht, by rw [hc]; rfl, by rw [he]; rfl⟩

section Sample
variable {vinCode vhuCode : BitVec 16} {s : State}

/-- VIN and VHU of a sample, in the units of the supervision. -/
def sampleVin (vinCode : BitVec 16) (s : State) : Nat := scaleSample vinCode (fld s Reg.pwrDiv Fld.pwrDivVink)
def sampleVhu (vhuCode : BitVec 16) (s : State) : Nat := scaleSample vhuCode (fld s Reg.pwrDiv Fld.pwrDivHuk)
def sampled (vinCode vhuCode : BitVec 16) (s : State) : State := takeSample (sampleVin vinCode s) (sampleVhu vhuCode s) s

/-- A sample taken in outside a commit, with the sag that it may start. -/
def sagged (vinCode vhuCode : BitVec 16) (s : State) : State :=
  if decide (sampleVin vinCode s < tenthVolt (fld s Reg.pwrCfg Fld.pwrCfgSagv)) && !(sampled vinCode vhuCode s).pwr.sag then
    startSag (sampled vinCode vhuCode s)
  else sampled vinCode vhuCode s

theorem sagged_cases (vinCode vhuCode : BitVec 16) (s : State) :
    sagged vinCode vhuCode s = startSag (sampled vinCode vhuCode s) ∨ sagged vinCode vhuCode s = sampled vinCode vhuCode s := by
  unfold sagged
  split
  · exact Or.inl rfl
  · exact Or.inr rfl

/-- What a sample without a commit's start leaves, of the state with the sample taken in and a sag begun. -/
def watched (z : State) : State := if bankMoved (measWatch z) then regrant (measWatch z) else measWatch z

theorem capsOf_watched (z : State) : capsOf (watched z) = capsOf z := by
  unfold watched
  split
  · rw [capsOf_regrant, capsOf_measWatch]
  · exact capsOf_measWatch z

/-- VIN below SAGV starts a sag, with the caps in force (R307). -/
theorem watched_startSag (w : State) : (watched (startSag w)).pwr.sag = true ∧ (watched (startSag w)).pwr.vin = w.pwr.vin
    ∧ (watched (startSag w)).pwr.vhu = w.pwr.vhu ∧ Capped (watched (startSag w)) := by
  have hcaps := capsOf_watched (startSag w)
  have hpwr := startSag_pwr w
  refine ⟨(congrArg Caps.sag hcaps).trans (congrArg Pwr.sag hpwr :), (congrArg Caps.vin hcaps).trans (congrArg Pwr.vin hpwr :),
    (congrArg Caps.vhu hcaps).trans (congrArg Pwr.vhu hpwr :), (capped_congr hcaps).mpr (capped_applyCaps _)⟩

/-- A sample outside a commit: below FAILV the commit starts, else the bank is watched. -/
theorem supplySample_idle (hc : s.pwr.commit = none) (he : s.pwr.commitEnded = false) :
    supplySample vinCode vhuCode s
      = if sampleVin vinCode s < tenthVolt (fld s Reg.pwrCfg Fld.pwrCfgFailv) then startCommit 3 (sagged vinCode vhuCode s)
        else watched (sagged vinCode vhuCode s) := by
  have hbusy : ¬(s.pwr.commit.isSome || s.pwr.commitEnded) = true := by
    rw [hc, he]
    decide
  unfold supplySample
  dsimp only
  rw [if_neg hbusy]
  simp only [decide_eq_true_eq]
  rfl

/-- A measurement in which the bank fell below 0.97 V0 ends as invalid (R308). -/
theorem watched_of_dropped {m : Meas} {z : State} (hm : z.pwr.meas = some m) (hd : bankDropped m z = true) (hb : z.boot = 9) :
    (watched z).pwr.meas = none ∧ (watched z).pwr.huTest = false ∧ fld (watched z) Reg.wuMeas Fld.wuMeasValid = 0
      ∧ fld (watched z) Reg.pwrEvt Fld.pwrEvtMeasfail = 1 := by
  have hw : measWatch z = regrant (measInvalid z) := by
    unfold measWatch
    simp only [hm, if_pos hd]
    exact measResult_of_invalid hb (Or.inl rfl)
  obtain ⟨htest, hmeas, hvalid, hfail, -⟩ := measFailed_state z
  unfold watched
  rw [hw]
  generalize regrant (measInvalid z) = u at htest hmeas hvalid hfail
  split
  · exact ⟨(regrant_pwr Pwr.meas (fun _ => rfl) u).trans hmeas, (regrant_pwr Pwr.huTest (fun _ => rfl) u).trans htest,
      (fld_regrant_ne (by decide) _ u).trans hvalid, (fld_regrant_ne (by decide) _ u).trans hfail⟩
  · exact ⟨hmeas, htest, hvalid, hfail⟩

theorem startSag_boot (w : State) : (startSag w).boot = w.boot := by
  rw [startSag, applyCaps, forAll_keeps (g := State.boot) (fun _ s => setFld_boot _ _ _ s), bumpFld, raiseFld, setFld_boot, setFld_boot]
  rfl

/-- A sample that meets no condition during a commit is taken in and the bank watched (R313, R314). -/
theorem supplySample_busy (hbusy : s.pwr.commit.isSome = true ∨ s.pwr.commitEnded = true)
    (hsag : tenthVolt (fld s Reg.pwrCfg Fld.pwrCfgSagv) ≤ sampleVin vinCode s)
    (hfail : tenthVolt (fld s Reg.pwrCfg Fld.pwrCfgFailv) ≤ sampleVin vinCode s) :
    supplySample vinCode vhuCode s = watchBank (sampled vinCode vhuCode s) := by
  have hlow : decide (scaleSample vinCode (fld s Reg.pwrDiv Fld.pwrDivVink) < tenthVolt (fld s Reg.pwrCfg Fld.pwrCfgSagv)) = false :=
    decide_eq_false (Nat.not_lt.mpr hsag)
  have hno : decide (scaleSample vinCode (fld s Reg.pwrDiv Fld.pwrDivVink) < tenthVolt (fld s Reg.pwrCfg Fld.pwrCfgFailv)) = false :=
    decide_eq_false (Nat.not_lt.mpr hfail)
  unfold supplySample
  dsimp only
  rw [if_pos (Bool.or_eq_true_iff.mpr hbusy), hlow, hno, Bool.false_and, Bool.false_and]
  rfl

end Sample

theorem busy_not {s : State} (h : s.pwr.commit.isSome = true ∨ s.pwr.commitEnded = true) :
    ¬(s.pwr.commit.isNone = true ∧ (!s.pwr.commitEnded) = true) := by
  rintro ⟨hnone, hend⟩
  rcases h with h | h
  · rw [Option.isNone_iff_eq_none.mp hnone] at h
    exact absurd h (by decide)
  · rw [h] at hend
    exact absurd hend (by decide)

theorem sagClear_idle {s : State} (hsag : s.pwr.sag = true) (hclr : 10000 ≤ s.pwr.clrT) (hc : s.pwr.commit = none)
    (he : s.pwr.commitEnded = false) : sagClear s = applyCaps (modPwr (fun p => { p with sag := false, sagT := 0, clrT := 0 }) s) :=
  if_pos ⟨hsag, hclr, by rw [hc]; rfl, by rw [he]; rfl⟩

/-! ### Temperature (R357) -/

theorem hottest_spec (temps : Vector (BitVec 16) 12) :
    (∃ i : Fin 12, hottest temps = temps[i].toInt) ∧ ∀ i : Fin 12, temps[i].toInt ≤ hottest temps := by
  have hmax (l : List (BitVec 16)) (a : Int) : (a ≤ l.foldl (fun m x => max m x.toInt) a)
      ∧ (∀ x ∈ l, x.toInt ≤ l.foldl (fun m x => max m x.toInt) a)
      ∧ (l.foldl (fun m x => max m x.toInt) a = a ∨ ∃ x ∈ l, l.foldl (fun m x => max m x.toInt) a = x.toInt) := by
    induction l generalizing a with
    | nil => simp
    | cons x l ih =>
      obtain ⟨hle, hall, heq⟩ := ih (max a x.toInt)
      simp only [List.foldl_cons, List.mem_cons, forall_eq_or_imp, exists_eq_or_imp]
      refine ⟨by omega, ⟨by omega, hall⟩, ?_⟩
      rcases heq with heq | heq
      · omega
      · exact Or.inr (Or.inr heq)
  obtain ⟨-, hall, heq⟩ := hmax temps.toList temps[0].toInt
  refine ⟨?_, fun i => hall _ (by simp)⟩
  rcases heq with heq | ⟨x, hx, heq⟩
  · exact ⟨0, heq⟩
  · obtain ⟨i, hi, rfl⟩ := List.mem_iff_getElem.mp hx
    exact ⟨⟨i, by simpa using hi⟩, by simpa [hottest] using heq⟩

theorem thermRule_iff (on : Bool) (temp : Int) (thr : Nat) :
    thermRule on temp thr = true ↔ (10 * thr : Int) ≤ temp ∨ (on = true ∧ (10 * thr : Int) - 50 < temp) := by
  simp [thermRule]

/-- The readings and the rules of a temperature update taken in. -/
def tempered (temp : Int) (s : State) : State :=
  let was := s.pwr.therm
  let therm := thermRule was temp (fld s Reg.pwrThcfg Fld.pwrThcfgThrot)
  let trip := thermRule s.pwr.trip temp (fld s Reg.pwrThcfg Fld.pwrThcfgTtrip)
  let s := modPwr (fun p => { p with temp := temp, tmax := max p.tmax temp, therm := therm, trip := trip }) s
  if therm && !was then raiseFld Reg.pwrTherm Fld.pwrThermThevt s else s

theorem tempered_pwr (temp : Int) (s : State) : (tempered temp s).pwr = { s.pwr with
    temp := temp, tmax := max s.pwr.tmax temp, therm := thermRule s.pwr.therm temp (fld s Reg.pwrThcfg Fld.pwrThcfgThrot)
    trip := thermRule s.pwr.trip temp (fld s Reg.pwrThcfg Fld.pwrThcfgTtrip) } := by
  unfold tempered
  dsimp only
  split
  · rw [raiseFld, setFld_pwr]
    rfl
  · rfl

theorem fld_tempered_yyCap (temp : Int) (s : State) (t : Tid) (f : Fld) : fld (tempered temp s) (Reg.yyCap t) f = fld s (Reg.yyCap t) f := by
  unfold tempered
  dsimp only
  split
  · have hne : Reg.yyCap t ≠ Reg.pwrTherm := ((noCap_above (a := Reg.pwrTherm) (by decide) (by decide) (by decide)).2.2 t).symm
    rw [raiseFld, fld_setFld_ne hne]
    rfl
  · rfl

/-- The caps follow the rule of the throttle where it changes outside a commit. -/
def recapped (temp : Int) (s : State) : State :=
  if thermRule s.pwr.therm temp (fld s Reg.pwrThcfg Fld.pwrThcfgThrot) != s.pwr.therm && (tempered temp s).pwr.commit.isNone then
    applyCaps (tempered temp s)
  else tempered temp s

theorem recapped_pwr (temp : Int) (s : State) : (recapped temp s).pwr = (tempered temp s).pwr := by
  unfold recapped
  split
  · exact applyCaps_pwr _
  · rfl

theorem tempUpdate_cases (temp : Int) (s : State) : tempUpdate temp s = measStart (recapped temp s) ∨ tempUpdate temp s = recapped temp s := by
  have h : tempUpdate temp s = if (recapped temp s).boot = 9 ∧ (recapped temp s).pwr.cap.isSome = true
      ∧ 100 ≤ (temp - (recapped temp s).pwr.measTemp).natAbs then measStart (recapped temp s) else recapped temp s := rfl
  rw [h]
  split
  · exact Or.inl rfl
  · exact Or.inr rfl

theorem capsOf_measStart (s : State) : capsOf (measStart s) = capsOf s := by
  unfold measStart
  split <;> rfl

/-- The readings and the trip rule are not changed by a measurement's start. -/
theorem measStart_temps (s : State) :
    (measStart s).pwr.temp = s.pwr.temp ∧ (measStart s).pwr.tmax = s.pwr.tmax ∧ (measStart s).pwr.trip = s.pwr.trip := by
  unfold measStart
  split <;> exact ⟨rfl, rfl, rfl⟩

/-- What a temperature update leaves of the readings, the rules and the caps. -/
theorem tempUpdate_keeps (temp : Int) (s : State) : capsOf (tempUpdate temp s) = capsOf (recapped temp s)
    ∧ (tempUpdate temp s).pwr.temp = temp ∧ (tempUpdate temp s).pwr.tmax = max s.pwr.tmax temp
    ∧ (tempUpdate temp s).pwr.trip = thermRule s.pwr.trip temp (fld s Reg.pwrThcfg Fld.pwrThcfgTtrip) := by
  have hpwr := (recapped_pwr temp s).trans (tempered_pwr temp s)
  obtain ⟨htemp, htmax, htrip⟩ := measStart_temps (recapped temp s)
  rcases tempUpdate_cases temp s with h | h <;> rw [h]
  · refine ⟨capsOf_measStart _, htemp.trans ?_, htmax.trans ?_, htrip.trans ?_⟩ <;> rw [hpwr]
  · refine ⟨rfl, ?_, ?_, ?_⟩ <;> rw [hpwr]

theorem tempUpdate_caps (temp : Int) (s : State) :
    (tempUpdate temp s).pwr.therm = thermRule s.pwr.therm temp (fld s Reg.pwrThcfg Fld.pwrThcfgThrot)
      ∧ ((tempUpdate temp s).pwr.therm ≠ s.pwr.therm → s.pwr.commit = none → Capped (tempUpdate temp s))
      ∧ ((tempUpdate temp s).pwr.therm = s.pwr.therm →
        ∀ t : Tid, fld (tempUpdate temp s) (Reg.yyCap t) Fld.yyCapCapv = fld s (Reg.yyCap t) Fld.yyCapCapv) := by
  obtain ⟨hcaps, -, -, -⟩ := tempUpdate_keeps temp s
  have hpwr := tempered_pwr temp s
  have htherm : (tempUpdate temp s).pwr.therm = thermRule s.pwr.therm temp (fld s Reg.pwrThcfg Fld.pwrThcfgThrot) :=
    (congrArg Caps.therm hcaps).trans ((congrArg Pwr.therm (recapped_pwr temp s) :).trans (congrArg Pwr.therm hpwr :))
  refine ⟨htherm, fun hne hc => (capped_congr hcaps).mpr ?_, fun heq t => ?_⟩
  · have h : recapped temp s = applyCaps (tempered temp s) :=
      if_pos (Bool.and_eq_true_iff.mpr ⟨bne_iff_ne.mpr (htherm ▸ hne), by rw [hpwr, hc]; rfl⟩)
    exact h ▸ capped_applyCaps _
  · have h : recapped temp s = tempered temp s := by
      refine if_neg fun h => ?_
      exact bne_iff_ne.mp (Bool.and_eq_true_iff.mp h).1 (htherm ▸ heq)
    have hreg : reg (tempUpdate temp s) (Reg.yyCap t) = reg (recapped temp s) (Reg.yyCap t) := congrArg (fun c => c.stands t) hcaps
    rw [fld, hreg, h]
    exact fld_tempered_yyCap temp s t _

/-- Settles O51: the commit's start by `commitBegun_starts`, samples by `supplySample_idle` and `supplySample_busy` with the caps that
`watched` keeps, and temperature by the state `recapped`. -/
theorem commitStarts : Obligations.CommitStarts := by
  refine ⟨fun c cause vin vhu s he hc hcase => ?_, fun vinCode vhuCode m s => ?_, fun temps s => ?_⟩
  · rcases hcase with ⟨rfl, rfl⟩ | ⟨rfl, rfl, hsag, ht⟩ | ⟨rfl, rfl, hfail⟩
    · obtain ⟨v, k, hv, hfacts⟩ := commitBegun_starts (cause := 1) (by decide) (s := s) (z := modPwr (fun p => { p with pfailN := false }) s) rfl
      exact ⟨v, k, next_congr (congrArg settleHost ((startCommit_pfail hc he).trans hv)), hfacts⟩
    · obtain ⟨v, k, hv, hfacts⟩ := commitBegun_starts (cause := 2) (by decide) (s := s) (z := s) rfl
      exact ⟨v, k, next_congr (congrArg settleHost ((startCommit_sag hc he hsag ht).trans hv)), hfacts⟩
    · have hgen : (sagged vin vhu s).pwr.rlogGen = s.pwr.rlogGen := by
        rcases sagged_cases vin vhu s with h | h <;> rw [h]
        · rw [startSag_pwr]
          rfl
        · rfl
      obtain ⟨v, k, hv, hfacts⟩ := commitBegun_starts (cause := 3) (by decide) hgen
      exact ⟨v, k, next_congr (congrArg settleHost (((supplySample_idle hc he).trans (if_pos hfail)).trans hv)), hfacts⟩
  · refine ⟨fun hbusy => ⟨next_congr (congrArg settleHost (if_pos ?_)), next_congr (if_neg fun h => busy_not hbusy h.2.2),
        next_congr (congrArg settleHost (if_neg fun h => busy_not hbusy h.2.2)),
        fun hsag hfail => next_congr (congrArg settleHost (supplySample_busy hbusy hsag hfail))⟩,
      fun hc he hfail => ?_, fun h => ⟨next_congr (congrArg settleHost (if_neg ?_)), next_congr (if_neg ?_)⟩,
      fun _ hlt => next_congr (if_neg fun h => Nat.not_le.mpr hlt h.2.1),
      fun hsag hclr hc he => ⟨_, next_congr (sagClear_idle hsag hclr hc he), by rw [applyCaps_pwr]; rfl, capped_applyCaps _⟩, rfl⟩
    · simpa using hbusy
    · have hsample := (supplySample_idle (vinCode := vinCode) (vhuCode := vhuCode) hc he).trans (if_neg (Nat.not_lt.mpr hfail))
      refine ⟨fun hlow hs => ?_, fun hhigh hm => ?_, fun hm hd hb => ?_⟩
      · have h : sagged vinCode vhuCode s = startSag (sampled vinCode vhuCode s) :=
          if_pos (Bool.and_eq_true_iff.mpr ⟨decide_eq_true hlow, congrArg (!·) hs⟩)
        rw [h] at hsample
        exact ⟨_, next_congr (congrArg settleHost hsample), watched_startSag _⟩
      · have h : sagged vinCode vhuCode s = sampled vinCode vhuCode s :=
          if_neg fun h => Nat.not_lt.mpr hhigh (of_decide_eq_true (Bool.and_eq_true_iff.mp h).1)
        have hw : measWatch (sampled vinCode vhuCode s) = sampled vinCode vhuCode s := by
          have hnone : (sampled vinCode vhuCode s).pwr.meas = none := congrArg (Option.map _) hm
          unfold measWatch
          simp only [hnone]
        rw [h, watched, hw] at hsample
        exact next_congr (congrArg settleHost hsample)
      · refine ⟨_, next_congr (congrArg settleHost hsample), ?_⟩
        have hmeas : (sampled vinCode vhuCode s).pwr.meas = some { m with n := m.n + 1 } := congrArg (Option.map _) hm
        rcases sagged_cases vinCode vhuCode s with h | h <;> rw [h]
        · refine watched_of_dropped (m := { m with n := m.n + 1 }) ?_ ?_ ((startSag_boot _).trans hb)
          · rw [startSag_pwr]
            exact hmeas
          · rw [bankDropped, startSag_pwr]
            exact hd
        · exact watched_of_dropped (m := { m with n := m.n + 1 }) hmeas hd hb
    · rw [h]
      simp
    · rw [h]
      simp
  · obtain ⟨hsome, hall⟩ := hottest_spec temps
    obtain ⟨-, htemp, htmax, htrip⟩ := tempUpdate_keeps (hottest temps) s
    obtain ⟨htherm, hcap, hkeep⟩ := tempUpdate_caps (hottest temps) s
    refine ⟨tempUpdate (hottest temps) s, hottest temps, rfl, hsome, hall, htemp, htmax, ?_, ?_, hcap, hkeep⟩
    · rw [htherm]
      exact thermRule_iff _ _ _
    · rw [htrip]
      exact thermRule_iff _ _ _

end Sys2Proof.Machine
end

section
/-! Host memory errors, resets of an endpoint and link loss (R242, R243, R353). -/
namespace Sys2Proof.Machine
open Sys2Proof.Safety

/-! ### Fault events of a PCIe port (R323, R324) -/

/-- A state that differs in the fault log and in the registers of faults only. -/
def FaultsOnly (s u : State) : Prop :=
  u = { s with regs := u.regs, flt := u.flt } ∧ ∀ off, off ≠ Reg.fltCnt → off ≠ Reg.fltStat → reg u off = reg s off

theorem FaultsOnly.trans {s u v : State} (h : FaultsOnly s u) (h' : FaultsOnly u v) : FaultsOnly s v := by
  obtain ⟨hu, hru⟩ := h
  obtain ⟨hv, hrv⟩ := h'
  refine ⟨?_, fun off hc hs => (hrv off hc hs).trans (hru off hc hs)⟩
  rw [hv, hu]

theorem faultsOnly_setFld {a : Nat} (ha : a = Reg.fltCnt ∨ a = Reg.fltStat) (f : Fld) (x : Nat) (s : State) : FaultsOnly s (setFld a f x s) := by
  refine ⟨rfl, fun off hc hs => reg_setFld_ne ?_ f x s⟩
  rcases ha with rfl | rfl
  · exact hc
  · exact hs

theorem faultsOnly_flt (s : State) (f : Flt) : FaultsOnly s { s with flt := f } := ⟨rfl, fun _ _ _ => rfl⟩

theorem faultsOnly_logFault (u : BitVec 16) (k c w : Nat) (d : W64) (s : State) : FaultsOnly s (logFault u k c w d s) :=
  ⟨logFault_only u k c w d s, fun _ _ hs => reg_logFault_ne hs u k c w d s⟩

/-- A fault event of a port is counted and logged; no part of the device is retired for it. -/
theorem faultsOnly_faultEvent {u : BitVec 16} (hu : unitClass u = 11) (code : Nat) (d : W64) (s : State) :
    FaultsOnly s (faultEvent u code d s) := by
  have hperm (c w : Nat) (d : W64) (s : State) : FaultsOnly s (permanent u c w d s) := by
    have hretire (z : State) : retireUnit u z = z := by
      simp only [retireUnit, hu]
    unfold permanent
    rw [hretire]
    exact ((faultsOnly_logFault _ _ _ _ _ s).trans (faultsOnly_logFault _ _ _ _ _ _)).trans (faultsOnly_setFld (Or.inr rfl) _ _ _)
  have hesc (c : Nat) (d : W64) (s : State) : FaultsOnly s (escalate u c d s) := by
    have h (f : Flt) (n : Nat) : FaultsOnly s (raiseFld Reg.fltStat Fld.fltStatNewesc (logFault u 1 c n d { s with flt := f })) :=
      ((faultsOnly_flt s f).trans (faultsOnly_logFault _ _ _ _ _ _)).trans (faultsOnly_setFld (Or.inr rfl) _ _ _)
    unfold escalate
    dsimp only
    split
    · exact (h _ _).trans (hperm _ _ _ _)
    · exact h _ _
  have hcount : FaultsOnly s (countEvent u s) :=
    (faultsOnly_setFld (Or.inl rfl) _ _ s).trans (faultsOnly_setFld (Or.inl rfl) _ _ _)
  unfold faultEvent
  dsimp only
  split
  · exact (hcount.trans (faultsOnly_flt _ _)).trans (faultsOnly_logFault _ _ _ _ _ _)
  · exact hcount.trans (hesc _ _ _)

theorem FaultsOnly.hif {s u : State} (h : FaultsOnly s u) : u.hif = s.hif := by rw [h.1]

theorem unitClass_port (i : Nat) : unitClass (unitId 11 i) = 11 := by
  simp only [unitClass, unitId, BitVec.toNat_ofNat]
  omega

/-! ### Host memory errors (R242) -/

/-- A host memory error is counted, and is an event of the queue's port. -/
def memoryLost (n : Nat) (s : State) : State := faultEvent (unitId 11 (queueOwner s n / 2)) 0 0 (hifError Fld.hifErrHostmem n s)

theorem memoryLost_hif (n : Nat) (s : State) : (memoryLost n s).hif = s.hif := by
  rw [memoryLost, (faultsOnly_faultEvent (unitClass_port _) 0 0 _).hif, hifError, bumpFld, raiseFld, setFld_hif, setFld_hif, setFld_hif]

theorem reg_memoryLost {off : Nat} (hc : off ≠ Reg.fltCnt) (hs : off ≠ Reg.fltStat) (he : off ≠ Reg.hifErr) (hn : off ≠ Reg.hifErrcnt)
    (n : Nat) (s : State) : reg (memoryLost n s) off = reg s off := by
  rw [memoryLost, (faultsOnly_faultEvent (unitClass_port _) 0 0 _).2 off hc hs, hifError, bumpFld, raiseFld, reg_setFld_ne hn, reg_setFld_ne hn,
    reg_setFld_ne he]

/-- The registers of a queue are not those of errors and faults. -/
theorem hifQstat_ne (q : Fin 1024) : Reg.hifQstat q.val ≠ Reg.fltCnt ∧ Reg.hifQstat q.val ≠ Reg.fltStat ∧ Reg.hifQstat q.val ≠ Reg.hifErr
    ∧ Reg.hifQstat q.val ≠ Reg.hifErrcnt := by
  have := q.isLt
  simp only [Reg.hifQstat, Reg.fltCnt, Reg.fltStat, Reg.hifErr, Reg.hifErrcnt]
  omega

theorem canFetch_of_err {s : State} {n : Nat} (h : fld s (Reg.hifQstat n) Fld.hifQstatErr = 1) : canFetch s n = false := by
  rw [canFetch, queueErr, h]
  simp

/-- A queue whose entries could not be read is not fetched from (R242). -/
theorem canFetch_memoryLost (q : Fin 1024) (s : State) :
    canFetch (memoryLost q.val (raiseFld (Reg.hifQstat q.val) Fld.hifQstatErr s)) q.val = false := by
  obtain ⟨hc, hs, he, hn⟩ := hifQstat_ne q
  refine canFetch_of_err ?_
  rw [fld, reg_memoryLost hc hs he hn]
  exact fld_setFld_self (by decide) _ _ s

/-- A command below the stream commands that needed the data ends HOST_MEMORY. -/
theorem hostMemoryError_of_cmd {n : Nat} {tag : BitVec 16} {c : Cmd} {s : State} (hc : cmdOf s tag = some c) (hq : c.queue = n)
    (hopc : c.e.opc.toNat < 0x11) :
    hostMemoryError n (some tag) s = settleHost (endCmd tag hsHostMemory (BitVec.ofNat 64 c.done) 0xFFFF (memoryLost n s)) := by
  have hwrite : ¬(c.e.opc = 0x12 ∧ c.active = true) := fun h => by
    rw [h.1] at hopc
    exact absurd hopc (by decide)
  have hstream : ¬(onStream c.e = true ∧ c.e.opc ≠ 0x12 ∧ c.e.opc ≠ 0x13) := fun h =>
    absurd (of_decide_eq_true h.1).1 (Nat.not_le.mpr hopc)
  unfold hostMemoryError
  simp only [hc]
  rw [if_neg (not_not.mpr hq), if_neg hwrite, if_neg hstream]
  rfl

theorem hostMemoryError_of_flush {n : Nat} {tag : BitVec 16} {c : Cmd} {s : State} (hc : cmdOf s tag = some c) (hq : c.queue = n)
    (hopc : c.e.opc = 0x14) : hostMemoryError n (some tag) s = s := by
  have hwrite : ¬(c.e.opc = 0x12 ∧ c.active = true) := fun h => absurd (hopc.symm.trans h.1) (by decide)
  have hstream : onStream c.e = true ∧ c.e.opc ≠ 0x12 ∧ c.e.opc ≠ 0x13 := by
    rw [onStream, hopc]
    decide
  unfold hostMemoryError
  simp only [hc]
  rw [if_neg (not_not.mpr hq), if_neg hwrite, if_pos hstream]

/-! ### Endpoints (R243, R353) -/

theorem perst_of_perstAssert (p : Nat) (s : State) : p ∈ (perstAssert p s).hif.perst := by
  unfold perstAssert
  dsimp only
  split
  · next h => exact List.contains_iff_mem.mp h
  · exact List.mem_append_right _ (List.mem_singleton.mpr rfl)

theorem perst_of_perstRow (p : Nat) (s : State) : p ∈ (perstRow p s).hif.perst := by
  unfold perstRow
  dsimp only
  split
  · rw [(faultsOnly_faultEvent (unitClass_port p) 0 0 _).hif]
    exact perst_of_perstAssert p s
  · exact perst_of_perstAssert p s

/-- A queue pair as its endpoint's loss leaves it. -/
def killedQueue (q : Queue) : Queue := { q with ready := [], tags := [], cqUsed := 0, timing := false, unsig := 0, neg := false, ver := 0 }

theorem modQueue_streams (n : Nat) (f : Queue → Queue) (s : State) : (modQueue n f s).hif.streams = s.hif.streams := rfl

/-- The commands fetched from a queue meet its end. -/
def killCmds (n : Nat) (s : State) : State := forAll ((s.hif.cmds.filter (fun c => c.queue == n)).map (fun c => c.e.tag)) killCmd s

/-- The streams of a queue begin to close. -/
def closeStreams (n : Nat) (s : State) : State :=
  forAll ((openStreams s).filter (fun x => x.2.queue == n && !x.2.closing)) (fun x => beginClose (BitVec.ofNat 16 x.1) 0xFFFF x.2) s

theorem killQueue_eq (n : Nat) (s : State) :
    killQueue n s = closeStreams n (modQueue n killedQueue (killCmds n (setFld (Reg.hifQcfg n) Fld.hifQcfgEn 0 s))) := by
  rfl

/-- A queue without commands and streams gives up its ready completions where it is disabled. -/
theorem killQueue_of_idle {n : Nat} {s : State} (hcmds : ∀ c ∈ s.hif.cmds, c.queue ≠ n) (hstr : ∀ x ∈ openStreams s, x.2.queue ≠ n) :
    killQueue n s = modQueue n killedQueue (setFld (Reg.hifQcfg n) Fld.hifQcfgEn 0 s) := by
  have hw : (setFld (Reg.hifQcfg n) Fld.hifQcfgEn 0 s).hif = s.hif := setFld_hif _ _ _ s
  rw [killQueue_eq]
  generalize setFld (Reg.hifQcfg n) Fld.hifQcfgEn 0 s = w at hw ⊢
  have hnone : w.hif.cmds.filter (fun c => c.queue == n) = [] := by
    rw [hw]
    exact List.filter_eq_nil_iff.mpr fun c hc => by simpa using hcmds c hc
  have hcmd : killCmds n w = w := by
    rw [killCmds, hnone]
    rfl
  have hopen : openStreams (modQueue n killedQueue w) = openStreams s := by
    rw [openStreams, modQueue_streams, hw, openStreams]
  have hclosing : (openStreams (modQueue n killedQueue w)).filter (fun x => x.2.queue == n && !x.2.closing) = [] := by
    rw [hopen]
    exact List.filter_eq_nil_iff.mpr fun x hx => by simp [hstr x hx]
  rw [hcmd, closeStreams, hclosing]
  rfl

/-- Settles O47: a host memory error by what `memoryLost` leaves, an endpoint's loss by its definition, and a queue's by
`killQueue_of_idle`. -/
theorem hostLoss : Obligations.HostLoss := by
  refine ⟨fun q tag c s => ⟨fun hen => ?_, fun hc => ?_, fun hc hq hopc => ?_, fun hc hq hopc => ?_⟩,
    fun ep p n s => ⟨fun hno => ?_, fun hyes => ?_, ⟨_, rfl, perst_of_perstRow p.val s⟩, killQueue_of_idle⟩⟩
  · refine ⟨memoryLost q.val (raiseFld (Reg.hifQstat q.val) Fld.hifQstatErr s), next_congr (if_pos hen), canFetch_memoryLost q s, ?_⟩
    rw [memoryLost_hif, raiseFld, setFld_hif]
  · refine next_congr ?_
    unfold hostMemoryError
    simp only [hc]
  · refine ⟨memoryLost q.val s, next_congr (hostMemoryError_of_cmd hc hq hopc), ?_⟩
    rw [cmdOf, memoryLost_hif]
    exact hc
  · exact next_congr (hostMemoryError_of_flush hc hq hopc)
  · have h : ¬endpointPresent s ep.val = true := by rw [hno]; decide
    exact ⟨next_congr (if_neg h), next_congr (if_neg h)⟩
  · exact ⟨_, next_congr (if_pos hyes), rfl, rfl⟩

end Sys2Proof.Machine
end

section
/-! Doorbells, queues, interrupts and notices (R241, R244, R245, R249, R250, R277, R278, R280, R282). -/
namespace Sys2Proof.Machine
open Sys2Proof.Safety

/-! ### Interrupts and notices (R249, R277, R278) -/

theorem postEntry_notices (n : Nat) (code : BitVec 16) (holds : Option (BitVec 16)) (st : BitVec 8) (result : W64) (s : State) :
    (postEntry n code holds st result s).hif.notices = s.hif.notices := by
  obtain ⟨k, b, l, h⟩ := postEntry_eq n code holds st result s
  rw [h]
  rfl

theorem coalesceTimeout_of_timing {n : Nat} {s : State} (ht : (queueOf s n).timing = true)
    (hi : fld s (Reg.hifQcfg n) Fld.hifQcfgIen = 1) : coalesceTimeout n s = signalQueue n s := if_pos ⟨ht, hi⟩

theorem queueOf_signalQueue (n : Nat) (s : State) : queueOf (signalQueue n s) n = { queueOf s n with unsig := 0, timing := false } :=
  queueOf_modQueue n _ _

/-- The oldest notice goes to the notice queue, where it leaves status NOTICE. -/
theorem noticePost_of_room {n k : Nat} {l : List Nat} {s : State} (hn : n = fld s Reg.hifNotice Fld.hifNoticeQueue)
    (hl : s.hif.notices = k :: l) (h : fld s Reg.hifNotice Fld.hifNoticeEn = 1 ∧ queueEn s n = true ∧ cqRoom s n = true ∧ s.hif.ps = 0) :
    noticePost s = postEntry n (BitVec.ofNat 16 k) none hsNotice 0 { s with hif := { s.hif with notices := l } } := by
  subst hn
  unfold noticePost
  simp only [hl]
  rw [if_pos h]

theorem noticePost_of_full {n k : Nat} {l : List Nat} {s : State} (hn : n = fld s Reg.hifNotice Fld.hifNoticeQueue)
    (hl : s.hif.notices = k :: l) (h : cqRoom s n = false) : noticePost s = s := by
  subst hn
  unfold noticePost
  simp only [hl]
  rw [if_neg]
  rintro ⟨-, -, hroom, -⟩
  rw [h] at hroom
  cases hroom

/-! ### Doorbells (R241, R245) -/

section Doorbell
variable {src : Src} {n ptr : Nat} {s : State}

theorem tailDoorbell_of_wrong (h : queueReach (wakeUp s) src n = false) : tailDoorbell src n ptr s = wrongEp n (wakeUp s) :=
  if_pos (by rw [h]; rfl)

theorem tailDoorbell_of_bad (h : queueReach (wakeUp s) src n = true) (hbad : queueEn (wakeUp s) n = false ∨ sqEntries (wakeUp s) n ≤ ptr) :
    tailDoorbell src n ptr s = badDoorbell (Reg.hifSqtdb n) n (wakeUp s) := by
  unfold tailDoorbell
  dsimp only
  rw [if_neg (by rw [h]; decide), if_pos (hbad.imp (fun h => by rw [h]; rfl) id)]

theorem tailDoorbell_of_fits (h : queueReach (wakeUp s) src n = true) (hen : queueEn (wakeUp s) n = true) (hlt : ptr < sqEntries (wakeUp s) n) :
    tailDoorbell src n ptr s = modQueue n (fun q => { q with tail := ptr }) (wakeUp s) := by
  unfold tailDoorbell
  dsimp only
  rw [if_neg (by rw [h]; decide), if_neg]
  rintro (hno | hge)
  · rw [hen] at hno
    cases hno
  · exact Nat.not_le.mpr hlt hge

theorem headDoorbell_of_wrong (h : queueReach (wakeUp s) src n = false) : headDoorbell src n ptr s = wrongEp n (wakeUp s) :=
  if_pos (by rw [h]; rfl)

theorem headDoorbell_of_disabled (h : queueReach (wakeUp s) src n = true) (hen : queueEn (wakeUp s) n = false) :
    headDoorbell src n ptr s = badDoorbell (Reg.hifCqhdb n) n (wakeUp s) := by
  unfold headDoorbell
  dsimp only
  rw [if_neg (by rw [h]; decide), if_pos (by rw [hen]; rfl)]

/-- The released entries leave the ring and free their tags. -/
def releasedQueue (ptr k : Nat) (q : Queue) : Queue :=
  { q with cqHead := ptr, cqUsed := q.cqUsed - k, tags := q.tags.drop k, timing := if q.cqUsed ≤ k then false else q.timing }

theorem headDoorbell_of_enabled (h : queueReach (wakeUp s) src n = true) (hen : queueEn (wakeUp s) n = true) :
    headDoorbell src n ptr s = ((headSteps (wakeUp s) n ptr).map
      (fun k => settleHost (modQueue n (releasedQueue ptr k) (wakeUp s)))).getD (badDoorbell (Reg.hifCqhdb n) n (wakeUp s)) := by
  unfold headDoorbell
  dsimp only
  rw [if_neg (by rw [h]; decide), if_neg (by rw [hen]; decide)]
  cases headSteps (wakeUp s) n ptr <;> rfl

end Doorbell

/-! ### Enabling a queue (R244, R250, R282) -/

/-- A queue's size and vector take what a disabled queue is configured with. -/
def sizedQueue (n : Nat) (cfg : W32) (s : State) : State :=
  setFld (Reg.hifQcfg n) Fld.hifQcfgSqsize (fieldB cfg 0 5)
    (setFld (Reg.hifQcfg n) Fld.hifQcfgCqsize (fieldB cfg 5 5) (setFld (Reg.hifQcfg n) Fld.hifQcfgVector (fieldB cfg 10 11) s))

/-- What a queue's configuration says before EN is looked at. -/
structure Configured (n : Nat) (cfg : W32) (s v : State) : Prop where
  hif : v.hif = s.hif
  sq : fld v (Reg.hifQcfg n) Fld.hifQcfgSqsize = cfg.toNat % 32
  cq : fld v (Reg.hifQcfg n) Fld.hifQcfgCqsize = cfg.toNat / 32 % 32
  bases : ∀ i, i < 2 → reg v (Reg.hifSqbase n i) = reg s (Reg.hifSqbase n i) ∧ reg v (Reg.hifCqbase n i) = reg s (Reg.hifCqbase n i)
  en : queueEn v n = queueEn s n

theorem bases_ne {n m i : Nat} (hi : i < 2) : Reg.hifSqbase n i ≠ Reg.hifQcfg m ∧ Reg.hifCqbase n i ≠ Reg.hifQcfg m := by
  simp only [Reg.hifSqbase, Reg.hifCqbase, Reg.hifQcfg]
  omega

theorem configured_sizedQueue (n : Nat) (cfg : W32) (s : State) :
    Configured n cfg s (setFld (Reg.hifQcfg n) Fld.hifQcfgIen (fieldB cfg 21 1) (sizedQueue n cfg s)) := by
  refine ⟨?_, ?_, ?_, fun i hi => ?_, ?_⟩
  · rw [sizedQueue, setFld_hif, setFld_hif, setFld_hif, setFld_hif]
  · rw [fld_setFld_disjoint (by decide) (by decide), sizedQueue, fld_setFld_self (by decide), fieldB, fieldOf]
    show cfg.toNat / 2 ^ 0 % 2 ^ 5 % 2 ^ 5 = _
    omega
  · rw [fld_setFld_disjoint (by decide) (by decide), sizedQueue, fld_setFld_disjoint (by decide) (by decide), fld_setFld_self (by decide),
      fieldB, fieldOf]
    show cfg.toNat / 2 ^ 5 % 2 ^ 5 % 2 ^ 5 = _
    omega
  · rw [sizedQueue]
    obtain ⟨hs, hc⟩ := bases_ne (n := n) (m := n) hi
    exact ⟨by rw [reg_setFld_ne hs, reg_setFld_ne hs, reg_setFld_ne hs, reg_setFld_ne hs],
      by rw [reg_setFld_ne hc, reg_setFld_ne hc, reg_setFld_ne hc, reg_setFld_ne hc]⟩
  · rw [queueEn, sizedQueue, fld_setFld_disjoint (by decide) (by decide), fld_setFld_disjoint (by decide) (by decide),
      fld_setFld_disjoint (by decide) (by decide), fld_setFld_disjoint (by decide) (by decide), queueEn]

theorem queueOf_of_hif {s u : State} (h : u.hif = s.hif) (n : Nat) : queueOf u n = queueOf s n := by rw [queueOf, h, queueOf]

theorem reg_hifError {off : Nat} (he : off ≠ Reg.hifErr) (hn : off ≠ Reg.hifErrcnt) (f : Fld) (n : Nat) (s : State) :
    reg (hifError f n s) off = reg s off := by
  rw [hifError, bumpFld, raiseFld, reg_setFld_ne hn, reg_setFld_ne hn, reg_setFld_ne he]

theorem hifQcfg_ne (n : Nat) : Reg.hifQcfg n ≠ Reg.hifErr ∧ Reg.hifQcfg n ≠ Reg.hifErrcnt := by
  simp only [Reg.hifQcfg, Reg.hifErr, Reg.hifErrcnt]
  omega

theorem fld_hifError_qcfg (n m : Nat) (f g : Fld) (s : State) : fld (hifError f n s) (Reg.hifQcfg m) g = fld s (Reg.hifQcfg m) g := by
  obtain ⟨he, hn⟩ := hifQcfg_ne m
  rw [fld, reg_hifError he hn, fld]

/-- An enabled queue: its flags and sizes, and a pair that starts unnegotiated. -/
def enabledQueue (n : Nat) (v : State) : State :=
  enableQueue n (setFld (Reg.hifQcfg n) Fld.hifQcfgEn 1 (setFld (Reg.hifQcfg n) Fld.hifQcfgCfgerr 0 v))

theorem enabledQueue_fields (n : Nat) (v : State) : queueEn (enabledQueue n v) n = true ∧ (queueOf (enabledQueue n v) n).neg = false
    ∧ fld (enabledQueue n v) (Reg.hifQcfg n) Fld.hifQcfgSqsize = fld v (Reg.hifQcfg n) Fld.hifQcfgSqsize
    ∧ fld (enabledQueue n v) (Reg.hifQcfg n) Fld.hifQcfgCqsize = fld v (Reg.hifQcfg n) Fld.hifQcfgCqsize
    ∧ fld (enabledQueue n v) (Reg.hifQcfg n) Fld.hifQcfgCfgerr = 0 := by
  have hregs (z : State) (f : Fld) : fld (enableQueue n z) (Reg.hifQcfg n) f = fld z (Reg.hifQcfg n) f := fld_of_regs rfl _ _
  unfold enabledQueue
  refine ⟨?_, ?_, ?_, ?_, ?_⟩
  · rw [queueEn, hregs, fld_setFld_self (by decide)]
    rfl
  · unfold enableQueue
    dsimp only
    rw [queueOf_modQueue]
    split <;> rfl
  · rw [hregs, fld_setFld_disjoint (by decide) (by decide), fld_setFld_disjoint (by decide) (by decide)]
  · rw [hregs, fld_setFld_disjoint (by decide) (by decide), fld_setFld_disjoint (by decide) (by decide)]
  · rw [hregs, fld_setFld_disjoint (by decide) (by decide), fld_setFld_self (by decide)]
    rfl

/-- A refused enable. -/
def refusedQueue (n : Nat) (v : State) : State := hifError Fld.hifErrCfgerr n (setFld (Reg.hifQcfg n) Fld.hifQcfgCfgerr 1 v)

theorem refusedQueue_fields (n : Nat) (v : State) : queueEn (refusedQueue n v) n = queueEn v n
    ∧ fld (refusedQueue n v) (Reg.hifQcfg n) Fld.hifQcfgCfgerr = 1 := by
  unfold refusedQueue
  refine ⟨?_, ?_⟩
  · rw [queueEn, fld_hifError_qcfg, fld_setFld_disjoint (by decide) (by decide), queueEn]
  · rw [fld_hifError_qcfg, fld_setFld_self (by decide)]
    rfl

/-- EN written 0 stops fetching and leaves the commands. -/
theorem disabledQueue_fields (n : Nat) (v : State) : queueEn (setFld (Reg.hifQcfg n) Fld.hifQcfgEn 0 v) n = false
    ∧ (setFld (Reg.hifQcfg n) Fld.hifQcfgEn 0 v).hif = v.hif := by
  refine ⟨?_, setFld_hif _ _ _ v⟩
  rw [queueEn, fld_setFld_self (by decide)]
  rfl

/-- Both bases of queue n on 4,096 bytes. -/
def basesAligned (n : Nat) (s : State) : Prop :=
  pair s (Reg.hifSqbase n 0) (Reg.hifSqbase n 1) % 4096 = 0 ∧ pair s (Reg.hifCqbase n 0) (Reg.hifCqbase n 1) % 4096 = 0

theorem Configured.aligned {n : Nat} {cfg : W32} {s v : State} (h : Configured n cfg s v) : basesAligned n v ↔ basesAligned n s := by
  obtain ⟨hs0, hc0⟩ := h.bases 0 (by decide)
  obtain ⟨hs1, hc1⟩ := h.bases 1 (by decide)
  rw [basesAligned, pair, pair, hs0, hc0, hs1, hc1, basesAligned, pair, pair]

section Enable
variable {src : Src} {n : Nat} {cfg : W32} {s : State}

theorem fieldB_en (cfg : W32) : fieldB cfg 31 1 = 0 ↔ cfg.getLsbD 31 = false := by
  rw [← bitOf_toNat, bitOf_eq_testBit, Nat.testBit_eq_decide_div_mod_eq, fieldB, fieldOf]
  have : cfg.toNat / 2 ^ 31 % 2 < 2 := Nat.mod_lt _ (by decide)
  simp only [decide_eq_false_iff_not, Nat.pow_one]
  omega

theorem queueEnable_of_new (hreach : queueReach (wakeUp s) src n = true) (hen : queueEn (wakeUp s) n = false) (hbit : cfg.getLsbD 31 = true) :
    ∃ v, Configured n cfg (wakeUp s) v
      ∧ ((basesAligned n (wakeUp s) → cfg.toNat % 32 ≤ cfg.toNat / 32 % 32 → 4 ≤ cfg.toNat % 32 → cfg.toNat / 32 % 32 ≤ 16 →
          queueEnable src n cfg s = enabledQueue n v)
        ∧ (¬basesAligned n (wakeUp s) ∨ cfg.toNat / 32 % 32 < cfg.toNat % 32 → queueEnable src n cfg s = refusedQueue n v)) := by
  have hset : ¬fieldB cfg 31 1 = 0 := fun h => by
    rw [fieldB_en, hbit] at h
    cases h
  refine ⟨_, configured_sizedQueue n cfg (wakeUp s), ?_⟩
  have h : queueEnable src n cfg s = let v := setFld (Reg.hifQcfg n) Fld.hifQcfgIen (fieldB cfg 21 1) (sizedQueue n cfg (wakeUp s))
      if pair v (Reg.hifSqbase n 0) (Reg.hifSqbase n 1) % 4096 = 0 ∧ pair v (Reg.hifCqbase n 0) (Reg.hifCqbase n 1) % 4096 = 0
          ∧ fld v (Reg.hifQcfg n) Fld.hifQcfgSqsize ≤ fld v (Reg.hifQcfg n) Fld.hifQcfgCqsize ∧ 4 ≤ fld v (Reg.hifQcfg n) Fld.hifQcfgSqsize
          ∧ fld v (Reg.hifQcfg n) Fld.hifQcfgCqsize ≤ 16 then enabledQueue n v
      else refusedQueue n v := by
    unfold queueEnable enabledQueue refusedQueue sizedQueue
    dsimp only
    rw [if_neg (by rw [hreach]; decide)]
    simp only [hen, Bool.false_eq_true, false_and, ↓reduceIte, hset]
  have hv := configured_sizedQueue n cfg (wakeUp s)
  dsimp only at h
  rw [h]
  generalize setFld (Reg.hifQcfg n) Fld.hifQcfgIen (fieldB cfg 21 1) (sizedQueue n cfg (wakeUp s)) = v at hv
  have hiff := hv.aligned
  rw [hv.sq, hv.cq]
  refine ⟨fun ha hle h4 h16 => if_pos ?_, fun hbad => if_neg ?_⟩
  · obtain ⟨h1, h2⟩ := hiff.mpr ha
    exact ⟨h1, h2, hle, h4, h16⟩
  · rintro ⟨h1, h2, hle, -, -⟩
    rcases hbad with hno | hlt
    · exact hno (hiff.mp ⟨h1, h2⟩)
    · exact Nat.not_le.mpr hlt hle

theorem queueEnable_of_off (hreach : queueReach (wakeUp s) src n = true) (hbit : cfg.getLsbD 31 = false) :
    ∃ v, v.hif = (wakeUp s).hif ∧ queueEnable src n cfg s = setFld (Reg.hifQcfg n) Fld.hifQcfgEn 0 v := by
  have hset : fieldB cfg 31 1 = 0 := (fieldB_en cfg).mpr hbit
  unfold queueEnable
  dsimp only
  rw [if_neg (by rw [hreach]; decide)]
  simp only [if_pos hset]
  refine ⟨_, ?_, rfl⟩
  rw [setFld_hif]
  split
  · split <;> rfl
  · rw [setFld_hif, setFld_hif, setFld_hif]
    split <;> rfl

end Enable

theorem romHeld_not {src : Src} {s : State} (h : romHeld src s = false) : ¬romHeld src s = true := by
  rw [h]
  decide

/-- Settles O46: interrupts and notices by the entry that is posted, doorbells case by case, and QUEUE_ENABLE by the configuration that
stands before EN is looked at. -/
theorem queueControl : Obligations.QueueControl := by
  refine ⟨fun q k l s => ⟨fun ht hi => ?_, fun ht => ?_, fun hl => ?_, fun n hn hl => ⟨fun hen hq hroom hps => ?_, fun hfull => ?_⟩,
      fun h => if_pos h, fun h => if_neg (Nat.not_lt.mpr h)⟩,
    fun src q ptr s hrom => ⟨fun hno => ⟨?_, ?_⟩, fun hreach hno => ⟨?_, ?_⟩,
      fun hreach hen => ⟨fun hge => ?_, fun hlt => ?_, fun hnone => ?_, fun k hk => ?_⟩⟩,
    fun src q cfg s hrom hreach => ⟨fun hen hbit ha hle h4 h16 => ?_, fun hen hbit hbad => ?_, fun hbit => ?_, ?_⟩⟩
  · have hq := queueOf_signalQueue q.val s
    exact ⟨_, next_congr (coalesceTimeout_of_timing ht hi), rfl, by rw [hq], by rw [hq], rfl, rfl, rfl⟩
  · refine next_congr (if_neg ?_)
    rw [ht]
    rintro ⟨h, -⟩
    cases h
  · refine next_congr ?_
    unfold noticePost
    simp only [hl]
  · obtain ⟨j, b, hpost⟩ := postEntry_queue n (BitVec.ofNat 16 k) none hsNotice 0 { s with hif := { s.hif with notices := l } }
    refine ⟨_, next_congr (noticePost_of_room hn hl ⟨hen, hq, hroom, hps⟩), postEntry_notices _ _ _ _ _ _, by rw [hpost]; rfl, ?_⟩
    rw [postEntry_hostMem]
    exact (write_entryBytes n _ (BitVec.ofNat 16 k) hsNotice 0 s.hostMem _).2.1
  · exact next_congr (noticePost_of_full hn hl hfull)
  · exact next_congr ((if_neg (romHeld_not hrom)).trans (tailDoorbell_of_wrong hno))
  · exact next_congr ((if_neg (romHeld_not hrom)).trans (headDoorbell_of_wrong hno))
  · exact next_congr ((if_neg (romHeld_not hrom)).trans (tailDoorbell_of_bad hreach (Or.inl hno)))
  · exact next_congr ((if_neg (romHeld_not hrom)).trans (headDoorbell_of_disabled hreach hno))
  · exact next_congr ((if_neg (romHeld_not hrom)).trans (tailDoorbell_of_bad hreach (Or.inr hge)))
  · exact next_congr ((if_neg (romHeld_not hrom)).trans (tailDoorbell_of_fits hreach hen hlt))
  · refine next_congr ((if_neg (romHeld_not hrom)).trans ((headDoorbell_of_enabled hreach hen).trans ?_))
    rw [hnone]
    rfl
  · have h := headDoorbell_of_enabled (ptr := ptr.toNat) hreach hen
    rw [hk] at h
    have hq := queueOf_modQueue q.val (releasedQueue ptr.toNat k) (wakeUp s)
    exact ⟨_, next_congr ((if_neg (romHeld_not hrom)).trans h), by rw [hq]; rfl, by rw [hq]; rfl, by rw [hq]; rfl, rfl, rfl⟩
  · obtain ⟨v, hv, hnew, -⟩ := queueEnable_of_new hreach hen hbit
    obtain ⟨h1, h2, h3, h4', h5⟩ := enabledQueue_fields q.val v
    exact ⟨_, next_congr ((if_neg (romHeld_not hrom)).trans (hnew ha hle h4 h16)), h1, h2, h3.trans hv.sq, h4'.trans hv.cq, h5⟩
  · obtain ⟨v, hv, -, hrefused⟩ := queueEnable_of_new hreach hen hbit
    obtain ⟨h1, h2⟩ := refusedQueue_fields q.val v
    exact ⟨_, next_congr ((if_neg (romHeld_not hrom)).trans (hrefused hbad)), h1.trans (hv.en.trans hen), h2⟩
  · obtain ⟨v, hv, hoff⟩ := queueEnable_of_off hreach hbit
    obtain ⟨h1, h2⟩ := disabledQueue_fields q.val v
    exact ⟨_, next_congr ((if_neg (romHeld_not hrom)).trans hoff), h1, by rw [h2, hv]⟩
  · exact next_congr ((if_neg (romHeld_not hrom)).trans (if_pos hreach))

end Sys2Proof.Machine
end

section
/-! Checks of a fetched entry, and NEGOTIATE (R250, R252-R254, R362). -/
namespace Sys2Proof.Machine
open Sys2Proof.Safety

/-! ### Fetching (R244, R250, R252, R362) -/

/-- A row of the host interface fetches the head of its queue, and its command's operation goes on. -/
theorem exec_hostRow {opc : Nat} {q : Fin 1024} {e : Entry} {c : Instr} (h : hostRow opc q e = some c) :
    ∃ f, ∀ s, exec c s = .next (settleHost (fetchCmd opc q.val e f s)) := by
  unfold hostRow at h
  split at h
  all_goals
    first
    | (cases h; done)
    | (obtain rfl := Option.some.inj h; exact ⟨_, fun _ => rfl⟩)

section Fetch
variable {opc : Nat} {q : Fin 1024} {e : Entry} {s : State} {f : Cmd → State → State}

theorem fetchCmd_of_blocked (h : canFetch s q.val = false) : fetchCmd opc q.val e f s = s :=
  if_pos (Or.inl (by rw [h]; rfl))

/-- What comes after the tag: the queue's negotiation, the opcode, the fields, the stream. -/
def checked (q : Fin 1024) (e : Entry) (f : Cmd → State → State) (u : State) : State :=
  if (queueOf u q.val).neg = false ∧ e.opc ≠ 0 ∧ e.opc ≠ 1 then endCmd e.tag hsNotNegotiated 0 0xFFFF u
  else if !knownOpc e.opc.toNat then endCmd e.tag hsInvalidOpcode 0 0 u
  else
    match fieldError e with
    | some o => endCmd e.tag stRejected 0 o u
    | none =>
      if onStream e then
        match streamOf u e.scid.toNat with
        | none => endCmd e.tag hsNoStream 0 4 u
        | some x => if x.queue ≠ q.val then endCmd e.tag hsWrongQueue 0 4 u else settleHost (f (newCmd q e) u)
      else settleHost (f (newCmd q e) u)

theorem fetchCmd_eq (hf : canFetch s q.val = true) (ho : e.opc.toNat = opc ∨ knownOpc e.opc.toNat = false) :
    fetchCmd opc q.val e f s = if tagInUse (headTaken q e s) e.tag then
        makeReady q.val ⟨e.tag, hsTagInUse, 0, false⟩
          (logCommandError q.val e hsTagInUse 2 (hifError Fld.hifErrTagdup q.val (headTaken q e s)))
      else checked q e f (fetched q e s) := by
  have hrow : ¬((!canFetch s q.val) = true ∨ (e.opc.toNat ≠ opc ∧ knownOpc e.opc.toNat = true)) := by
    rw [hf]
    rintro (h | ⟨hne, hk⟩)
    · cases h
    · rcases ho with h | h
      · exact hne h
      · rw [h] at hk
        cases hk
  exact if_neg hrow

theorem queueOf_fetched (q : Fin 1024) (e : Entry) (s : State) (n : Nat) : queueOf (fetched q e s) n = queueOf (headTaken q e s) n := rfl

theorem fetchCmd_of_tagInUse (hf : canFetch s q.val = true) (ho : e.opc.toNat = opc ∨ knownOpc e.opc.toNat = false)
    (ht : tagInUse (headTaken q e s) e.tag = true) :
    fetchCmd opc q.val e f s = makeReady q.val ⟨e.tag, hsTagInUse, 0, false⟩
      (logCommandError q.val e hsTagInUse 2 (hifError Fld.hifErrTagdup q.val (headTaken q e s))) :=
  (fetchCmd_eq hf ho).trans (if_pos ht)

theorem fetchCmd_of_free (hf : canFetch s q.val = true) (ho : e.opc.toNat = opc ∨ knownOpc e.opc.toNat = false)
    (ht : tagInUse (headTaken q e s) e.tag = false) : fetchCmd opc q.val e f s = checked q e f (fetched q e s) :=
  (fetchCmd_eq hf ho).trans (if_neg (by rw [ht]; decide))

variable {u : State}

theorem not_unnegotiated (hn : (queueOf u q.val).neg = true ∨ e.opc = 0 ∨ e.opc = 1) :
    ¬((queueOf u q.val).neg = false ∧ e.opc ≠ 0 ∧ e.opc ≠ 1) := by
  rintro ⟨hneg, h0, h1⟩
  rcases hn with h | h | h
  · rw [h] at hneg
    cases hneg
  · exact h0 h
  · exact h1 h

theorem checked_of_unknown (hn : (queueOf u q.val).neg = true ∨ e.opc = 0 ∨ e.opc = 1) (hk : knownOpc e.opc.toNat = false) :
    checked q e f u = endCmd e.tag hsInvalidOpcode 0 0 u :=
  (if_neg (not_unnegotiated hn)).trans (if_pos (by rw [hk]; rfl))

theorem checked_of_known (hn : (queueOf u q.val).neg = true ∨ e.opc = 0 ∨ e.opc = 1) (hk : knownOpc e.opc.toNat = true) :
    checked q e f u = match fieldError e with
      | some o => endCmd e.tag stRejected 0 o u
      | none =>
        if onStream e then
          match streamOf u e.scid.toNat with
          | none => endCmd e.tag hsNoStream 0 4 u
          | some x => if x.queue ≠ q.val then endCmd e.tag hsWrongQueue 0 4 u else settleHost (f (newCmd q e) u)
        else settleHost (f (newCmd q e) u) :=
  (if_neg (not_unnegotiated hn)).trans (if_neg (by rw [hk]; decide))

end Fetch

/-! ### Accepted entries -/

section Accept
variable {opc : Nat} {q : Fin 1024} {e : Entry} {s : State} {f : Cmd → State → State}

/-- An accepted entry's command goes on with its operation, on its stream where it names one. -/
theorem fetchCmd_of_accepted (ha : Accepted q e s) (ho : e.opc.toNat = opc) (hk : knownOpc opc = true) :
    fetchCmd opc q.val e f s = if onStream e then
        match streamOf (fetched q e s) e.scid.toNat with
        | none => endCmd e.tag hsNoStream 0 4 (fetched q e s)
        | some x => if x.queue ≠ q.val then endCmd e.tag hsWrongQueue 0 4 (fetched q e s)
          else settleHost (f (newCmd q e) (fetched q e s))
      else settleHost (f (newCmd q e) (fetched q e s)) := by
  obtain ⟨hf, ht, hfield, hn⟩ := ha
  rw [fetchCmd_of_free hf (Or.inl ho) ht, checked_of_known (u := fetched q e s) hn (ho ▸ hk)]
  simp only [hfield]

/-- A command that names no stream begins at once. -/
theorem fetchCmd_of_accepted_free (ha : Accepted q e s) (ho : e.opc.toNat = opc) (hk : knownOpc opc = true) (hs : opc < 0x11) :
    fetchCmd opc q.val e f s = settleHost (f (newCmd q e) (fetched q e s)) := by
  have hoff : ¬onStream e = true := fun h => absurd (of_decide_eq_true h).1 (by omega)
  rw [fetchCmd_of_accepted ha ho hk, if_neg hoff]

theorem onStream_of_opc (ho : e.opc.toNat = opc) (h11 : 0x11 ≤ opc) (h16 : opc ≤ 0x16) : onStream e = true :=
  decide_eq_true (by omega)

theorem knownOpc_of_stream {opc : Nat} (h11 : 0x11 ≤ opc) (h16 : opc ≤ 0x16) : knownOpc opc = true := decide_eq_true (by omega)

theorem fetchCmd_of_noStream (ha : Accepted q e s) (ho : e.opc.toNat = opc) (h11 : 0x11 ≤ opc) (h16 : opc ≤ 0x16)
    (hx : streamOf (fetched q e s) e.scid.toNat = none) : fetchCmd opc q.val e f s = endCmd e.tag hsNoStream 0 4 (fetched q e s) := by
  rw [fetchCmd_of_accepted ha ho (knownOpc_of_stream h11 h16), if_pos (onStream_of_opc ho h11 h16)]
  simp only [hx]

theorem fetchCmd_of_stream (ha : Accepted q e s) (ho : e.opc.toNat = opc) (h11 : 0x11 ≤ opc) (h16 : opc ≤ 0x16) {x : Stream}
    (hx : streamOf (fetched q e s) e.scid.toNat = some x) :
    fetchCmd opc q.val e f s = if x.queue ≠ q.val then endCmd e.tag hsWrongQueue 0 4 (fetched q e s)
      else settleHost (f (newCmd q e) (fetched q e s)) := by
  rw [fetchCmd_of_accepted ha ho (knownOpc_of_stream h11 h16), if_pos (onStream_of_opc ho h11 h16)]
  simp only [hx]

end Accept

/-! ### NEGOTIATE (R250) -/

/-- No other command of the queue is outstanding, and none of its completions waits. -/
def negotiatesAlone (n : Nat) (tag : BitVec 16) (u : State) : Prop :=
  (∀ c ∈ u.hif.cmds, c.queue = n → c.e.tag = tag) ∧ ∀ r ∈ (queueOf u n).ready, r.own = false

theorem negotiatesAlone_iff (n : Nat) (tag : BitVec 16) (u : State) :
    negotiatesAlone n tag u ↔
      (u.hif.cmds.any (fun k => k.queue == n && k.e.tag != tag) || (queueOf u n).ready.any (fun r => r.own)) = false := by
  simp [negotiatesAlone]

theorem negotiateOp_of_busy {c : Cmd} {u : State} (h : ¬negotiatesAlone c.queue c.e.tag u) : negotiateOp c u = endCmd c.e.tag hsBusy 0 0xFFFF u :=
  if_pos (Bool.eq_true_of_not_eq_false fun hno => h ((negotiatesAlone_iff _ _ _).mpr hno))

theorem negotiateOp_of_alone {c : Cmd} {u : State} (h : negotiatesAlone c.queue c.e.tag u) :
    negotiateOp c u = match pickVersion (csField c.e 0x18 2) (csField c.e 0x1A 2) with
      | none => endCmd c.e.tag hsVersion 0 0x18 u
      | some v => endCmd c.e.tag stOk (BitVec.ofNat 64 v.2) 0xFFFF (modQueue c.queue (fun q => { q with neg := true, ver := v.1 }) u) :=
  if_neg (by rw [(negotiatesAlone_iff _ _ _).mp h]; decide)

section Pick
variable {lo hi : Nat}

theorem pickVersion_two (h1 : lo ≤ 0x200) (h2 : 0x200 ≤ hi) : pickVersion lo hi = some (2, 0x200) :=
  List.find?_cons_of_pos (decide_eq_true ⟨h1, h2⟩)

theorem pickVersion_one (h1 : lo ≤ 0x101) (h2 : 0x101 ≤ hi) (h3 : hi < 0x200) : pickVersion lo hi = some (1, 0x101) :=
  (List.find?_cons_of_neg (by simp; omega)).trans (List.find?_cons_of_pos (decide_eq_true ⟨h1, h2⟩))

theorem pickVersion_zero (h1 : lo ≤ 0x100) (h2 : 0x100 ≤ hi) (h3 : hi < 0x101) : pickVersion lo hi = some (0, 0x100) :=
  (List.find?_cons_of_neg (by simp; omega)).trans
    ((List.find?_cons_of_neg (by simp; omega)).trans (List.find?_cons_of_pos (decide_eq_true ⟨h1, h2⟩)))

theorem pickVersion_none (h : hi < 0x100 ∨ 0x200 < lo ∨ (0x100 < lo ∧ hi < 0x101) ∨ (0x101 < lo ∧ hi < 0x200)) :
    pickVersion lo hi = none :=
  (List.find?_cons_of_neg (by simp; omega)).trans
    ((List.find?_cons_of_neg (by simp; omega)).trans (List.find?_cons_of_neg (by simp; omega)))

end Pick

/-- An accepted NEGOTIATE. -/
theorem exec_negotiate {q : Fin 1024} {e : Entry} {s : State} (ha : Accepted q e s) (ho : e.opc = 0) :
    exec (.negotiate q e) s = .next (settleHost (settleHost (negotiateOp (newCmd q e) (fetched q e s)))) :=
  next_congr (congrArg settleHost (fetchCmd_of_accepted_free ha (by rw [ho]; rfl) (by decide) (by decide)))

/-- Settles O39: each check of `fetchCmd` in its order, and NEGOTIATE by the version that `pickVersion` finds. -/
theorem fetchChecks : Obligations.FetchChecks := by
  refine ⟨fun opc q e c s hrow => ?_, fun q e s ha ho => ?_⟩
  · obtain ⟨f, hexec⟩ := exec_hostRow hrow
    refine ⟨fun hb => ?_, fun hf ho => ⟨fun ht => ?_, fun ht hn h0 h1 => ?_, fun ht hn hk => ?_, fun o ht hn hk he => ?_⟩,
      fun ha ho h11 h16 => ⟨fun hx => ?_, fun x hx hq => ?_⟩⟩ <;> rw [hexec]
    · rw [fetchCmd_of_blocked hb]
    · rw [fetchCmd_of_tagInUse hf ho ht]
    · rw [fetchCmd_of_free hf ho ht, checked, if_pos ⟨hn, h0, h1⟩]
    · rw [fetchCmd_of_free hf ho ht, checked_of_unknown (u := fetched q e s) (Or.inl hn) hk]
    · rw [fetchCmd_of_free hf ho ht, checked_of_known (u := fetched q e s) hn hk]
      simp only [he]
    · rw [fetchCmd_of_noStream ha ho h11 h16 hx]
    · rw [fetchCmd_of_stream ha ho h11 h16 hx, if_pos hq]
  · have hpick (v n : Nat) (w : W64) (hw : BitVec.ofNat 64 n = w) (hal : negotiatesAlone q.val e.tag (fetched q e s))
        (hv : pickVersion (csField e 0x18 2) (csField e 0x1A 2) = some (v, n)) :
        exec (.negotiate q e) s = .next (settleHost (settleHost (endCmd e.tag 0 w 0xFFFF
          (modQueue q.val (fun x => { x with neg := true, ver := v }) (fetched q e s))))) := by
      rw [exec_negotiate ha ho, negotiateOp_of_alone (c := newCmd q e) hal]
      simp only [newCmd, hv, hw]
    refine ⟨fun hbusy => ?_, fun hal h1 h2 => hpick 2 0x200 0x200 rfl hal (pickVersion_two h1 h2),
      fun hal h1 h2 h3 => hpick 1 0x101 0x101 rfl hal (pickVersion_one h1 h2 h3),
      fun hal h1 h2 h3 => hpick 0 0x100 0x100 rfl hal (pickVersion_zero h1 h2 h3), fun hal hno => ?_⟩
    · rw [exec_negotiate ha ho, negotiateOp_of_busy (c := newCmd q e) hbusy]
      rfl
    · rw [exec_negotiate ha ho, negotiateOp_of_alone (c := newCmd q e) hal]
      simp only [newCmd, pickVersion_none hno]

end Sys2Proof.Machine
end

section
/-! IDENTIFY, GET_LOG, SET_FEATURE, ABORT and self-tests (R270-R276). -/
namespace Sys2Proof.Machine
open Sys2Proof.Safety

/-! ### Commands without scatter lists (R246, R251) -/

theorem sglDenied_of_flat {c : Cmd} (h : entrySgl c.e = false) (s : State) : sglDenied s c = false := by
  rw [sglDenied, h, Bool.false_and]

theorem needVersion_of_flat {c : Cmd} (h : entrySgl c.e = false) (f : State → State) (s : State) : needVersion c f s = f s :=
  if_neg (by rw [sglDenied_of_flat h]; decide)

/-- A command's output goes to DPTR. -/
theorem finishOut_of_flat {c : Cmd} (h : entrySgl c.e = false) (l : List Byte) (result : W64) (s : State) :
    finishOut c l result s = endCmd c.e.tag stOk result 0xFFFF (hostWrite c.e.dptr.toNat l s) := by
  have hp : hostPieces s (entrySgl c.e) c.e.dptr.toNat l.length = some [(c.e.dptr.toNat, l.length)] := if_neg (by rw [h]; decide)
  unfold finishOut
  simp only [hp, writePieces, List.take_length]

theorem length_padTo (n : Nat) (l : List Byte) : (padTo n l).length = n := by
  simp only [padTo, zeros, List.length_take, List.length_append, List.length_replicate]
  omega

theorem getElem?_padTo {n k : Nat} (h : k < n) (l : List Byte) : (padTo n l)[k]? = some ((l[k]?).getD 0) := by
  rw [padTo, List.getElem?_take_of_lt h]
  by_cases hk : k < l.length
  · rw [List.getElem?_append_left hk, List.getElem?_eq_getElem hk]
    rfl
  · have hlen : l.length ≤ k := Nat.not_lt.mp hk
    rw [List.getElem?_append_right hlen, List.getElem?_eq_none hlen, zeros, List.getElem?_replicate_of_lt (by omega)]
    rfl

theorem length_identBytes (s : State) (ep : Nat) : (identBytes s ep).length = 4096 := length_padTo _ _

/-! ### SET_FEATURE (R276) -/

/-- A feature that is set returns its previous value. -/
theorem setFeatureCmd_of_ok {c : Cmd} {u w : State} {old : Nat} (h : entrySgl c.e = false)
    (hop : setFeatureOp (queueOwner u c.queue) (csByte c.e 0x18) (csField c.e 0x1C 4) (csField c.e 0x20 8) u = (stOk, old, w)) :
    setFeatureCmd c u = endCmd c.e.tag 0 (BitVec.ofNat 64 old) 0xFFFF w := by
  rw [setFeatureCmd, needVersion_of_flat h]
  simp only [hop]
  rfl

theorem fieldOf_low (v w : Nat) : fieldOf v 0 w = v % 2 ^ w := by
  rw [fieldOf, Nat.pow_zero, Nat.div_one]

section Feature
variable (ep index v : Nat) (s : State)

theorem setFeatureOp_timers : setFeatureOp ep 2 index v s = (stOk,
    fld s Reg.hifPscfg Fld.hifPscfgIdle1 + 2 ^ 16 * fld s Reg.hifPscfg2 Fld.hifPscfg2Idle2 + 2 ^ 32 * fld s Reg.hifPscfg2 Fld.hifPscfg2Idle3,
    setFld Reg.hifPscfg Fld.hifPscfgIdle1 (v % 2 ^ 16) (setFld Reg.hifPscfg2 Fld.hifPscfg2Idle2 (v / 2 ^ 16 % 2 ^ 16)
      (setFld Reg.hifPscfg2 Fld.hifPscfg2Idle3 (v / 2 ^ 32 % 2 ^ 16) s))) := by
  rw [← fieldOf_low v 16]
  rfl

theorem setFeatureOp_coalescing (h : queueOwner s index = ep) : setFeatureOp ep 4 index v s = (stOk,
    fld s (Reg.hifQcoal index) Fld.hifQcoalCount + 2 ^ 8 * fld s (Reg.hifQcoal index) Fld.hifQcoalTime,
    setFld (Reg.hifQcoal index) Fld.hifQcoalCount (v % 256) (setFld (Reg.hifQcoal index) Fld.hifQcoalTime (v / 256 % 2 ^ 16) s)) := by
  have h8 : fieldOf v 0 8 = v % 256 := fieldOf_low v 8
  rw [← h8]
  exact if_neg (not_not.mpr h)

theorem setFeatureOp_notices : setFeatureOp ep 5 index v s = (stOk,
    fld s Reg.hifNotice Fld.hifNoticeQueue + 2 ^ 15 * fld s Reg.hifNotice Fld.hifNoticeEn,
    setFld Reg.hifNotice Fld.hifNoticeQueue (v % 1024) (setFld Reg.hifNotice Fld.hifNoticeEn (v / 2 ^ 15 % 2) s)) := by
  have h10 : fieldOf v 0 10 = v % 1024 := fieldOf_low v 10
  rw [← h10]
  rfl

theorem setFeatureOp_ledger {x : Stream} (hx : streamOf s index = some x) (hr : x.read = false) (hv : v = 0 ∨ (queueOf s x.queue).ver ≠ 0) :
    setFeatureOp ep 3 index v s = (stOk, x.ledger.toNat, modStream index (fun x => { x with ledger := decide (v = 1) }) s) := by
  have hver : ¬(v = 1 ∧ (queueOf s x.queue).ver = 0) := by
    rintro ⟨h1, h0⟩
    rcases hv with h | h
    · omega
    · exact h h0
  unfold setFeatureOp
  simp only [hx]
  rw [if_neg (by rw [hr]; decide), if_neg hver]
  rfl

end Feature

/-! ### ABORT (R270, R271) -/

section Abort
variable {c : Cmd} {u : State}

/-- The tag that an ABORT names, and the state in which it is ACTIVE. -/
def abortTarget (c : Cmd) : BitVec 16 := BitVec.ofNat 16 (csField c.e 0x18 2)
def aborting (c : Cmd) (u : State) : State := modCmd c.e.tag (fun x => { x with active := true }) u

theorem abortOp_of_none (h : entrySgl c.e = false) (hk : cmdOf u (abortTarget c) = none) :
    abortOp c u = endCmd c.e.tag (if tagEnded u (csField c.e 0x1A 2) (abortTarget c) then hsAbortTooLate else hsNoSuchTag) 0 0x18 u := by
  rw [abortTarget] at hk
  rw [abortOp, needVersion_of_flat h]
  simp only [hk]
  rfl

theorem abortOp_of_other {y : Cmd} (h : entrySgl c.e = false) (hk : cmdOf u (abortTarget c) = some y) (hq : y.queue ≠ csField c.e 0x1A 2) :
    abortOp c u = endCmd c.e.tag hsNoSuchTag 0 0x18 u := by
  rw [abortTarget] at hk
  rw [abortOp, needVersion_of_flat h]
  simp only [hk]
  rw [if_pos hq]

theorem abortOp_of_some {y : Cmd} (h : entrySgl c.e = false) (hk : cmdOf u (abortTarget c) = some y) (hq : y.queue = csField c.e 0x1A 2) :
    abortOp c u = if onStream y.e ∧ y.active = false then endCmd (abortTarget c) hsAborted 0 0xFFFF (aborting c u)
      else (abortActive y hsAborted (aborting c u)).getD (endCmd c.e.tag hsNotAbortable 0 0xFFFF (aborting c u)) := by
  rw [abortTarget] at hk
  rw [abortOp, needVersion_of_flat h]
  simp only [hk]
  rw [if_neg (not_not.mpr hq)]
  show (if _ then _ else match abortActive y hsAborted (aborting c u) with
    | some s => s
    | none => endCmd c.e.tag hsNotAbortable 0 0xFFFF (aborting c u)) = _
  cases abortActive y hsAborted (aborting c u) <;> rfl

/-- FLUSH and COMMIT stop waiting. -/
theorem abortActive_of_flush {y : Cmd} (ho : y.e.opc = 0x14 ∨ y.e.opc = 0x15) (st : BitVec 8) (s : State) :
    abortActive y st s = some (endCmd y.e.tag st 0 0xFFFF s) := by
  unfold abortActive
  rcases ho with h | h <;> rw [h] <;> rfl

/-- R271 lists no effect on a LOAD and on a CLOSE_STREAM. -/
theorem abortActive_of_unlisted {y : Cmd} (ho : y.e.opc = 0x08 ∨ y.e.opc = 0x11) (st : BitVec 8) (s : State) : abortActive y st s = none := by
  unfold abortActive
  rcases ho with h | h <;> rw [h] <;> rfl

end Abort

/-! ### Self-tests (R272, R273) -/

theorem selfTestOp_of_busy {c : Cmd} {u : State} {x : STest} (h : u.hif.test = some x) : selfTestOp c u = endCmd c.e.tag hsBusy 0 0xFFFF u :=
  if_pos (by rw [h]; rfl)

theorem selfTestOp_of_none {c : Cmd} {u : State} (hs : entrySgl c.e = false) (h : u.hif.test = none) :
    selfTestOp c u = testBegin (csByte c.e 0x18) (csByte c.e 0x19) (some c.queue) c.e.tag
      (modCmd c.e.tag (fun k => { k with active := true }) u) := by
  rw [selfTestOp, if_neg (by rw [h]; decide), needVersion_of_flat hs]

theorem testResume_of_some {x : STest} {s : State} (h : s.hif.test = some x) (hsusp : x.susp = true) :
    testResume s = { s with hif := { s.hif with test := some { x with susp := false } } } := by
  unfold testResume
  simp only [h]
  rw [if_pos hsusp]

theorem testResume_of_none {s : State} (h : s.hif.test = none) : testResume s = s := by
  unfold testResume
  simp only [h]

/-- A segment that ends leads to the next. -/
theorem testSegmentEnd_of_ok {x : STest} {s : State} (h : s.hif.test = some x) (hsusp : x.susp = false)
    (hlt : x.seg < (if x.typ = 2 then 7 else 5)) :
    testSegmentEnd none s = { s with hif := { s.hif with test := some { x with seg := x.seg + 1, suspN := 0 } } } := by
  unfold testSegmentEnd
  simp only [h]
  rw [if_neg (by rw [hsusp]; decide)]
  exact if_neg (Nat.not_le.mpr hlt)

/-- A test that a command started ends with its entry in page 0x04. -/
theorem testDone_of_queue {x : STest} {f : BitVec 16 × Nat} (h : x.queue.isSome = true) (hf : x.fail = some f) (st : BitVec 8) (s : State) :
    ∃ u : State, u.hif.test = none ∧ testDone x st s = endCmd x.tag st (BitVec.ofNat 64 (f.1.toNat + 2 ^ 16 * f.2)) 0xFFFF u := by
  obtain ⟨n, hn⟩ := Option.isSome_iff_exists.mp h
  unfold testDone
  simp only [hn, hf]
  exact ⟨_, rfl, rfl⟩

/-- A failure ends the test. -/
theorem testSegmentEnd_of_failure {x : STest} {s : State} {unit : BitVec 16} (h : s.hif.test = some x) (hsusp : x.susp = false)
    (hseg : x.seg < 6) (hq : x.queue.isSome = true) :
    ∃ u : State, u.hif.test = none
      ∧ testSegmentEnd (some unit) s = endCmd x.tag hsSelfTestFailed (BitVec.ofNat 64 (unit.toNat + 2 ^ 16 * x.seg)) 0xFFFF u := by
  obtain ⟨u, hu, hdone⟩ := testDone_of_queue (x := { x with fail := some (unit, x.seg) }) hq rfl hsSelfTestFailed
    (escalate unit 0 0 (logFault unit 5 0 0 0 s))
  refine ⟨u, hu, ?_⟩
  have hno : ¬(6 ≤ x.seg ∧ (!testQualifies s x) = true) := fun hc => Nat.not_le.mpr hseg hc.1
  unfold testSegmentEnd
  simp only [h]
  rw [if_neg (by rw [hsusp]; decide), if_neg hno]
  exact hdone

/-- Settles O40: the output at DPTR by `finishOut_of_flat`, SET_FEATURE by what `setFeatureOp` answers for each feature, ABORT by its
target, and self-tests by their segments. -/
theorem administrativeCommands : Obligations.AdministrativeCommands := by
  refine ⟨fun q e s ha hs => ⟨fun ho => ⟨?_, length_identBytes _ _⟩, fun l ho hl => ?_⟩, fun q e s ha ho hs => ?_, fun q e s ha ho hs => ?_,
    fun q e x s => ⟨fun ha ho hs => ⟨fun ht => ?_, fun ht => ?_⟩, fun ht => ?_, fun ht hsusp => ?_, fun ht hsusp hlt => ?_,
      fun unit ht hsusp hseg hq => ?_⟩⟩
  · refine next_congr (congrArg settleHost ((fetchCmd_of_accepted_free ha (by rw [ho]; rfl) (by decide) (by decide)).trans
      (congrArg settleHost ?_)))
    rw [identifyOp, needVersion_of_flat (c := newCmd q e) hs, finishOut_of_flat (c := newCmd q e) hs]
    rfl
  · refine ⟨pageCut l (csField e 0x1C 4) e.dlen.toNat, next_congr (congrArg settleHost
      ((fetchCmd_of_accepted_free ha (by rw [ho]; rfl) (by decide) (by decide)).trans (congrArg settleHost ?_))), length_padTo _ _,
      fun k hk => ?_⟩
    · rw [getLogOp, needVersion_of_flat (c := newCmd q e) hs]
      simp only [newCmd, hl]
      exact finishOut_of_flat (c := newCmd q e) hs _ _ _
    · rw [pageCut, getElem?_padTo hk, List.getElem?_drop]
  · have hdone {old : Nat} {w : State} (hop : setFeatureOp (queueOwner (fetched q e s) q.val) (csByte e 0x18) (csField e 0x1C 4)
        (csField e 0x20 8) (fetched q e s) = (stOk, old, w)) : exec (.setFeature q e) s
          = .next (settleHost (settleHost (endCmd e.tag 0 (BitVec.ofNat 64 old) 0xFFFF w))) :=
      next_congr (congrArg settleHost ((fetchCmd_of_accepted_free ha (by rw [ho]; rfl) (by decide) (by decide)).trans
        (congrArg settleHost (setFeatureCmd_of_ok (c := newCmd q e) hs hop))))
    refine ⟨fun hf => hdone ?_, fun x hf hx hr hv => hdone ?_, fun hf hown => hdone ?_, fun hf => hdone ?_, fun hf => hdone ?_,
      fun hf => hdone ?_⟩ <;> rw [hf]
    · exact setFeatureOp_timers _ _ _ _
    · exact setFeatureOp_ledger _ _ _ _ hx hr hv
    · exact setFeatureOp_coalescing _ _ _ _ hown
    · exact setFeatureOp_notices _ _ _ _
    · rfl
    · rfl
  · have hrow : fetchCmd 4 q.val e abortOp s = settleHost (abortOp (newCmd q e) (fetched q e s)) :=
      fetchCmd_of_accepted_free ha (by rw [ho]; rfl) (by decide) (by decide)
    have hexec {v : State} (hv : abortOp (newCmd q e) (fetched q e s) = v) : exec (.abortCmd q e) s = .next (settleHost (settleHost v)) :=
      next_congr (congrArg settleHost (hrow.trans (congrArg settleHost hv)))
    refine ⟨fun hk hend => hexec ?_, fun hk hend => hexec ?_, fun y hk hq => hexec (abortOp_of_other (c := newCmd q e) hs hk hq),
      fun y hk hq => ⟨fun h11 h16 hact => hexec ?_, fun hact hopc htag => hexec ?_, fun hact hopc => hexec ?_⟩⟩
    · rw [abortOp_of_none (c := newCmd q e) hs hk, if_neg]
      · rfl
      · exact fun h => Bool.false_ne_true (hend.symm.trans h)
    · rw [abortOp_of_none (c := newCmd q e) hs hk, if_pos]
      · rfl
      · exact hend
    · rw [abortOp_of_some (c := newCmd q e) hs hk hq, if_pos ⟨onStream_of_opc rfl h11 h16, hact⟩]
      rfl
    · rw [abortOp_of_some (c := newCmd q e) hs hk hq, if_neg (by rw [hact]; rintro ⟨-, h⟩; cases h), abortActive_of_flush hopc, htag]
      rfl
    · rw [abortOp_of_some (c := newCmd q e) hs hk hq, if_neg (by rw [hact]; rintro ⟨-, h⟩; cases h), abortActive_of_unlisted hopc]
      rfl
  · exact next_congr (congrArg settleHost ((fetchCmd_of_accepted_free ha (by rw [ho]; rfl) (by decide) (by decide)).trans
      (congrArg settleHost (selfTestOp_of_busy (c := newCmd q e) ht))))
  · exact ⟨_, _, next_congr (congrArg settleHost ((fetchCmd_of_accepted_free ha (by rw [ho]; rfl) (by decide) (by decide)).trans
      (congrArg settleHost (selfTestOp_of_none (c := newCmd q e) hs ht)))), rfl, rfl, rfl, rfl, rfl, rfl⟩
  · exact next_congr (testResume_of_none ht)
  · exact next_congr (testResume_of_some ht hsusp)
  · exact next_congr (congrArg settleHost (testSegmentEnd_of_ok ht hsusp hlt))
  · obtain ⟨u, hu, hend⟩ := testSegmentEnd_of_failure ht hsusp hseg hq (unit := unit)
    refine ⟨u, _, next_congr (congrArg settleHost hend), hu, ?_⟩
    have := unit.isLt
    rw [BitVec.toNat_ofNat]
    omega

end Sys2Proof.Machine
end

section
/-! Commands of a stream: taken, their turn, their end (R252, R254-R258, R263-R266). -/
namespace Sys2Proof.Machine
open Sys2Proof.Safety

/-! ### Taken (R252, R256) -/

/-- A command of an open stream on its queue is taken, with the acknowledgement mode of the stream. -/
theorem fetchCmd_of_streamCmd {opc : Nat} {q : Fin 1024} {e : Entry} {x : Stream} {s : State} (ha : Accepted q e s) (ho : e.opc.toNat = opc)
    (h11 : 0x11 ≤ opc) (h16 : opc ≤ 0x16) (hx : streamOf (fetched q e s) e.scid.toNat = some x) (hq : x.queue = q.val) :
    fetchCmd opc q.val e streamCmdOp s = settleHost (modCmd e.tag (fun k => { k with wt := !x.ledger }) (fetched q e s)) := by
  have hop : streamCmdOp (newCmd q e) (fetched q e s) = modCmd e.tag (fun k => { k with wt := !x.ledger }) (fetched q e s) := by
    unfold streamCmdOp
    simp only [newCmd, hx]
  rw [fetchCmd_of_stream ha ho h11 h16 hx, if_neg (not_not.mpr hq), hop]

/-! ### A command's turn (R254, R263-R266) -/

/-- The operation that begins a stream command of each opcode. -/
def turned (c : Cmd) (x : Stream) (s : State) : State :=
  match c.e.opc.toNat with
  | 0x11 => turnClose c x s
  | 0x12 => turnWrite c x s
  | 0x13 => turnRead c x s
  | 0x16 => turnLocate c x s
  | _ => turnFlush c x s

section Turn
variable {c : Cmd} {x : Stream} {s : State}

/-- What a QUEUED stream command's turn leads to. -/
theorem turnOf_of_turn (hc : cmdOf s c.e.tag = some c) (ha : c.active = false) (hs : onStream c.e = true)
    (hx : streamOf s c.e.scid.toNat = some x) (ht : hasTurn s x c = true) :
    turnOf c.e.tag s = turned c x s := by
  have hno : ¬(c.active = true ∨ (!onStream c.e) = true) := by
    rw [ha, hs]
    decide
  unfold turnOf
  simp only [hc]
  rw [if_neg hno]
  simp only [hx]
  rw [if_neg (by rw [ht]; decide)]
  rfl

theorem onStream_opc {e : Entry} (h : e.opc = 0x11 ∨ e.opc = 0x12 ∨ e.opc = 0x13 ∨ e.opc = 0x14 ∨ e.opc = 0x15 ∨ e.opc = 0x16) :
    onStream e = true := by
  rw [onStream]
  rcases h with h | h | h | h | h | h <;> rw [h] <;> decide

theorem turnWrite_of_read (h : x.read = true) : turnWrite c x s = endCmd c.e.tag hsDirection 0 0xFFFF s := if_pos h

theorem turnWrite_of_disabled (h : x.read = false) (hd : writeDisabled s (tid x.t) = true) :
    turnWrite c x s = endCmd c.e.tag hsWriteDisabled 0 0xFFFF s :=
  (if_neg (by rw [h]; decide)).trans (if_pos hd)

theorem turnWrite_of_new (h : x.read = false) (hd : writeDisabled s (tid x.t) = false) (hb : csBit0 c.e = false)
    (hs : sglDenied s c = false) {l : List Rec} (hl : newRecs s c x.next = some l) : turnWrite c x s = appendRecs c l s := by
  unfold turnWrite
  dsimp only
  simp only [h, hd, hb, hs, hl, Bool.false_eq_true, false_and, or_self, ↓reduceIte]

theorem turnRead_of_noPos (h : x.read = true) (hp : x.pos = none) : turnRead c x s = endCmd c.e.tag hsNotLocated 0 0xFFFF s :=
  if_pos ⟨h, by rw [hp]; rfl⟩

theorem turnFlush_of_read (h : x.read = true) : turnFlush c x s = endCmd c.e.tag hsDirection 0 0xFFFF s := if_pos h

theorem turnFlush_of_write (ho : c.e.opc = 0x14) (h : x.read = false) (hs : sglDenied s c = false) :
    turnFlush c x s = wakePause (tid x.t) (setEvent (tid x.t) evHostsync (flushPoint c.e.scid c.e.tag x
      (modCmd c.e.tag (fun k => { k with active := true, seqAt := x.next }) s))) := by
  have hv : ¬(sglDenied s c = true ∨ (c.e.opc = 0x15 ∧ csBit0 c.e = true ∧ cmdVer s c < 2)) := by
    rw [hs, ho]
    rintro (h | ⟨h, -⟩)
    · cases h
    · exact absurd h (by decide)
  exact (if_neg (by rw [h]; decide)).trans (if_neg hv)

theorem turnLocate_of_write (h : x.read = false) : turnLocate c x s = endCmd c.e.tag hsDirection 0 0xFFFF s := if_pos (by rw [h]; rfl)

theorem turnLocate_of_none (h : x.read = true) (hg : locateGoalRec s (tid x.t) c.e = none) :
    turnLocate c x s = endCmd c.e.tag stNotFound 0 0x20 s := by
  unfold turnLocate
  dsimp only
  rw [if_neg (by rw [h]; decide), hg]

end Turn

/-! ### The end of an ACTIVE command (R258, R266) -/

/-- The condition that ends an ACTIVE stream command of each opcode. -/
def cmdEnded (c : Cmd) (x : Stream) (s : State) : State :=
  match c.e.opc.toNat with
  | 0x12 => doneWrite c x s
  | 0x13 => readOn c s
  | 0x14 => doneFlush c x s
  | 0x15 => doneCommit c x s
  | _ => s

section Done
variable {c : Cmd} {x : Stream} {s : State}

theorem doneOf_of_active (hc : cmdOf s c.e.tag = some c) (ha : c.active = true) (hs : onStream c.e = true)
    (hx : streamOf s c.e.scid.toNat = some x) :
    doneOf c.e.tag s = cmdEnded c x s := by
  have hno : ¬(c.active = true ∧ c.e.opc = 0x04) := fun h => by
    rw [onStream, h.2] at hs
    exact absurd hs (by decide)
  have hact : ¬((!c.active) = true ∨ (!onStream c.e) = true) := by
    rw [ha, hs]
    decide
  unfold doneOf
  simp only [hc]
  rw [if_neg hno, if_neg hact]
  simp only [hx]
  rfl

theorem sealedBefore_iff (x : Stream) (n : W32) : sealedBefore x n = true ↔ ∀ r ∈ x.recs, r.seq.toNat < n.toNat → r.sealed = true := by
  rw [sealedBefore, List.all_eq_true]
  refine forall₂_congr fun r _ => ?_
  rw [Bool.or_eq_true, decide_eq_true_iff, ← Nat.not_lt]
  tauto

theorem verifiedBefore_iff (x : Stream) (n : W32) :
    verifiedBefore x n = true ↔ ∀ r ∈ x.recs, r.seq.toNat < n.toNat → r.verified = true := by
  rw [verifiedBefore, List.all_eq_true]
  refine forall₂_congr fun r _ => ?_
  rw [Bool.or_eq_true, decide_eq_true_iff, ← Nat.not_lt]
  tauto

theorem unverBefore_of_none (h : ∀ r ∈ x.recs, r.unver = false) (n : W32) : unverBefore x n = false := by
  rw [unverBefore, List.any_eq_false]
  intro r hr
  rw [h r hr, Bool.false_and]
  decide

theorem doneFlush_of_sealed (he : earlierOf s c = []) (h : ∀ r ∈ x.recs, r.seq.toNat < c.seqAt.toNat → r.sealed = true) :
    doneFlush c x s = endCmd c.e.tag stOk 0 0xFFFF s :=
  (if_neg (by rw [he]; decide)).trans (if_pos ((sealedBefore_iff _ _).mpr h))

/-- A FLUSH waits while a record before its point is not sealed. -/
theorem doneFlush_of_unsealed (h : ∃ r ∈ x.recs, r.seq.toNat < c.seqAt.toNat ∧ r.sealed = false) (hu : ∀ r ∈ x.recs, r.unver = false) :
    doneFlush c x s = s := by
  have hno : ¬sealedBefore x c.seqAt = true := fun hall => by
    obtain ⟨r, hr, hlt, hs⟩ := h
    rw [(sealedBefore_iff _ _).mp hall r hr hlt] at hs
    cases hs
  have hnone : ¬x.recs.any (fun r => r.unver && !r.sealed && decide (r.seq.toNat < c.seqAt.toNat)) = true := by
    rw [Bool.not_eq_true, List.any_eq_false]
    intro r hr
    rw [hu r hr, Bool.false_and, Bool.false_and]
    decide
  unfold doneFlush
  rw [if_neg hno, if_neg hnone, ite_self]

theorem doneCommit_of_plain (hb : csBit0 c.e = false) (he : earlierOf s c = []) (hu : ∀ r ∈ x.recs, r.unver = false) :
    doneCommit c x s = if verifiedBefore x c.seqAt = true then
      endCmd c.e.tag stOk (BitVec.ofNat 64 (tpOf s (tid x.t)).vfy.lastOk.toNat) 0xFFFF s else s := by
  unfold doneCommit
  dsimp only
  rw [if_neg (by rw [unverBefore_of_none hu]; decide), if_neg (by rw [hb]; rintro ⟨h, -⟩; cases h), he]
  refine if_congr ?_ rfl rfl
  simp [hb]

theorem doneWrite_of_verified (hw : c.wt = true) (h : ∀ r ∈ cmdRecs x c, r.verified = true ∧ r.indexed = true) :
    doneWrite c x s = endCmd c.e.tag stOk (writeResult c.first (cmdRecs x c).length false) 0xFFFF s := by
  refine if_pos ⟨List.all_eq_true.mpr fun r hr => ?_, Or.inl hw⟩
  rw [(h r hr).1, (h r hr).2]
  rfl

/-- A WRITE-THROUGH command waits for every record's verification and index entry. -/
theorem doneWrite_of_waiting (hw : c.wt = true) (h : ∃ r ∈ cmdRecs x c, r.verified = false ∨ r.indexed = false) : doneWrite c x s = s := by
  have hno : ¬((cmdRecs x c).all (fun r => r.verified && r.indexed) = true ∧ (c.wt = true ∨ c.ready.isNone = true)) := fun hall => by
    obtain ⟨r, hr, hf⟩ := h
    have hb := List.all_eq_true.mp hall.1 r hr
    rw [Bool.and_eq_true] at hb
    rcases hf with hf | hf
    · exact Bool.false_ne_true (hf.symm.trans hb.1)
    · exact Bool.false_ne_true (hf.symm.trans hb.2)
  exact (if_neg hno).trans (if_pos hw)

end Done

/-- Settles O43: the rows by `fetchCmd_of_streamCmd`, a turn by its operation's first condition, an end by its records. -/
theorem streamCommands : Obligations.StreamCommands := by
  refine ⟨fun q e c x s ha hrow hx hq => ?_, fun c x s hc ha hx ht => ⟨fun ho hr => ?_, fun ho hr hd => ?_, fun ho hr hd hb hs l hl => ?_,
      fun ho hr hp => ?_, fun ho hr => ?_, fun ho hr hs => ?_, fun ho hr => ?_, fun ho hr hg => ?_⟩,
    fun c x s hc ha hx => ⟨fun ho he hall => ?_, fun ho hex hu => ?_, fun ho hb he hu => ⟨fun hall => ?_, fun hex => ?_⟩,
      fun ho hw => ⟨fun hall => ?_, fun hex => ?_⟩⟩⟩
  · have hfetch {opc : Nat} (ho : e.opc.toNat = opc) (h11 : 0x11 ≤ opc) (h16 : opc ≤ 0x16) :=
      congrArg settleHost (fetchCmd_of_streamCmd ha ho h11 h16 hx hq)
    rcases hrow with ⟨ho, rfl⟩ | ⟨ho, rfl⟩ | ⟨ho, rfl⟩ | ⟨ho, rfl⟩ | ⟨ho, rfl⟩ | ⟨ho, rfl⟩ <;>
      exact next_congr (hfetch (by rw [ho]; rfl) (by decide) (by decide))
  · rw [turnOf_of_turn hc ha (onStream_opc (by simp [ho])) hx ht, turned, ho]
    exact turnWrite_of_read hr
  · rw [turnOf_of_turn hc ha (onStream_opc (by simp [ho])) hx ht, turned, ho]
    exact turnWrite_of_disabled hr hd
  · rw [turnOf_of_turn hc ha (onStream_opc (by simp [ho])) hx ht, turned, ho]
    exact turnWrite_of_new hr hd hb hs hl
  · rw [turnOf_of_turn hc ha (onStream_opc (by simp [ho])) hx ht, turned, ho]
    exact turnRead_of_noPos hr hp
  · rw [turnOf_of_turn hc ha (onStream_opc (by rcases ho with ho | ho <;> simp [ho])) hx ht, turned]
    rcases ho with ho | ho <;> rw [ho] <;> exact turnFlush_of_read hr
  · rw [turnOf_of_turn hc ha (onStream_opc (by simp [ho])) hx ht, turned, ho]
    exact turnFlush_of_write ho hr hs
  · rw [turnOf_of_turn hc ha (onStream_opc (by simp [ho])) hx ht, turned, ho]
    exact turnLocate_of_write hr
  · rw [turnOf_of_turn hc ha (onStream_opc (by simp [ho])) hx ht, turned, ho]
    exact turnLocate_of_none hr hg
  · rw [doneOf_of_active hc ha (onStream_opc (by simp [ho])) hx, cmdEnded, ho]
    exact doneFlush_of_sealed he hall
  · rw [doneOf_of_active hc ha (onStream_opc (by simp [ho])) hx, cmdEnded, ho]
    exact doneFlush_of_unsealed hex hu
  · rw [doneOf_of_active hc ha (onStream_opc (by simp [ho])) hx, cmdEnded, ho]
    exact (doneCommit_of_plain hb he hu).trans (if_pos ((verifiedBefore_iff _ _).mpr hall))
  · rw [doneOf_of_active hc ha (onStream_opc (by simp [ho])) hx, cmdEnded, ho]
    refine (doneCommit_of_plain hb he hu).trans (if_neg fun hall => ?_)
    obtain ⟨r, hr, hlt, hf⟩ := hex
    exact Bool.false_ne_true (hf.symm.trans ((verifiedBefore_iff _ _).mp hall r hr hlt))
  · rw [doneOf_of_active hc ha (onStream_opc (by simp [ho])) hx, cmdEnded, ho]
    exact doneWrite_of_verified hw hall
  · rw [doneOf_of_active hc ha (onStream_opc (by simp [ho])) hx, cmdEnded, ho]
    exact doneWrite_of_waiting hw hex

end Sys2Proof.Machine
end

section
/-! LOAD, UNLOAD, FORMAT_VOLUME and LOAD_PROGRAM (R88, R148, R267-R269). -/
namespace Sys2Proof.Machine
open Sys2Proof.Safety

/-! ### What stands through a calibration (R148) -/

/-- What the passes of a calibration leave of a transport, the commit, and the registers that steer the passes. -/
structure Seated where
  cart : Option Cart
  head : Head
  mot : Mot
  commit : Option Commit
  mode : W32
  cal : W32

def seated (t : Tid) (s : State) : Seated :=
  ⟨(tpOf s t).cart, (tpOf s t).head, (tpOf s t).mot, s.pwr.commit, reg s (Reg.rcMode t), reg s (Reg.rcCal t)⟩

/-- A register that does not steer the passes of a calibration. -/
def NotCal (t : Tid) (a : Nat) : Prop := Reg.rcMode t ≠ a ∧ Reg.rcCal t ≠ a

section View
variable {t : Tid}

theorem seated_of {s u : State} (htp : tpOf u t = tpOf s t) (hp : u.pwr.commit = s.pwr.commit) (hm : reg u (Reg.rcMode t) = reg s (Reg.rcMode t))
    (hc : reg u (Reg.rcCal t) = reg s (Reg.rcCal t)) : seated t u = seated t s := by
  rw [seated, htp, hp, hm, hc, seated]

theorem seated_modTp (a : Tid) {f : Tp → Tp} (hf : ∀ x, (f x).cart = x.cart ∧ (f x).head = x.head ∧ (f x).mot = x.mot) (s : State) :
    seated t (modTp a f s) = seated t s := by
  by_cases ha : t = a
  · subst ha
    obtain ⟨hc, hh, hm⟩ := hf (tpOf s t)
    rw [seated, tpOf_modTp, hc, hh, hm]
    rfl
  · rw [seated, tpOf_modTp_ne _ _ _ _ ha]
    rfl

theorem seated_modRc (a : Tid) (f : RcT → RcT) (s : State) : seated t (modRc a f s) = seated t s :=
  seated_modTp a (f := fun x => { x with rc := f x.rc }) (fun _ => ⟨rfl, rfl, rfl⟩) s

theorem seated_setEvent (a : Tid) (n : Nat) (s : State) : seated t (setEvent a n s) = seated t s :=
  seated_modTp a (by intro x; exact ⟨rfl, rfl, rfl⟩) s

theorem seated_setFld {a : Nat} (h : NotCal t a) (f : Fld) (x : Nat) (s : State) : seated t (setFld a f x s) = seated t s :=
  seated_of (by rw [tpOf, setFld_tp, tpOf]) (by rw [setFld_pwr]) (reg_setFld_ne h.1 f x s) (reg_setFld_ne h.2 f x s)

theorem seated_setReg {a : Nat} (h : NotCal t a) (v : W32) (s : State) : seated t (setReg a v s) = seated t s :=
  seated_of rfl rfl (reg_setReg_ne _ _ v s h.1) (reg_setReg_ne _ _ v s h.2)

theorem notCal_above {a : Nat} (h : 0x1800000 ≤ a) : NotCal t a := by
  have := t.isLt
  simp only [NotCal, Reg.rcMode, Reg.rcCal]
  omega

theorem notCal_below {a : Nat} (h : a < 0x1000000) : NotCal t a := by
  simp only [NotCal, Reg.rcMode, Reg.rcCal]
  omega

theorem notCal_calres (i : Nat) (h : i < 2) : NotCal t (Reg.rcCalres t i) := by
  simp only [NotCal, Reg.rcMode, Reg.rcCal, Reg.rcCalres]
  omega

theorem seated_logFault (u : BitVec 16) (k c w : Nat) (d : W64) (s : State) : seated t (logFault u k c w d s) = seated t s := by
  refine seated_of ?_ ?_ (reg_logFault_ne ?_ _ _ _ _ _ _) (reg_logFault_ne ?_ _ _ _ _ _ _)
  · rw [logFault_only, tpOf, tpOf]
  · rw [logFault_only]
  · exact (notCal_above (by decide)).1
  · exact (notCal_above (by decide)).2

theorem seated_notice (code : Nat) (s : State) : seated t (notice code s) = seated t s := by
  unfold notice
  split
  · rfl
  · exact seated_setFld (notCal_below (by decide)) _ _ _

theorem seated_markRetired (u : BitVec 16) (s : State) : seated t (markRetired u s) = seated t s := by
  unfold markRetired
  split
  · rfl
  · exact seated_notice _ _

theorem seated_regrantOne (a : Tid) (s : State) : seated t (regrantOne a s) = seated t s := by
  obtain ⟨n, hn⟩ := grantOf_only a s
  unfold regrantOne
  dsimp only
  rw [hn]
  split
  · rfl
  · exact seated_setEvent a evBudget _

theorem seated_vmin (v : Nat) (s : State) : seated t { s with pwr := { s.pwr with vminUsed := v } } = seated t s := rfl

theorem seated_regrant (s : State) : seated t (regrant s) = seated t s := by
  obtain ⟨n, hn⟩ := tdrainMs_only s
  unfold regrant
  dsimp only
  rw [hn, forAll_keeps (fun a s => seated_regrantOne a s), seated_vmin, seated_setFld (notCal_above (by decide))]
  rfl

theorem seated_retireLane (a : Tid) (k cause : Nat) (d : W64) (s : State) : seated t (retireLane a k cause d s) = seated t s := by
  unfold retireLane
  dsimp only
  split
  · rfl
  · rw [seated_regrant, raiseFld, seated_setFld (notCal_above (by decide)), seated_markRetired, seated_logFault, seated_logFault,
      seated_setEvent]
    exact seated_modTp a (by intro x; exact ⟨rfl, rfl, rfl⟩) s

theorem seated_judgeLane (a : Tid) (k : Nat) (s : State) : seated t (judgeLane a k s) = seated t s := by
  unfold judgeLane
  dsimp only
  split
  · exact seated_modTp a (by intro x; exact ⟨rfl, rfl, rfl⟩) s
  · split
    · rw [seated_retireLane, seated_logFault]
      exact seated_modTp a (by intro x; exact ⟨rfl, rfl, rfl⟩) s
    · rw [seated_logFault]
      exact seated_modTp a (by intro x; exact ⟨rfl, rfl, rfl⟩) s

theorem seated_setZone (a : Tid) (key : Nat) (v : W32) (s : State) : seated t (setZone a key v s) = seated t s := seated_modRc a _ s

theorem seated_setZones (a : Tid) (key : Nat → Nat) (v : Nat → State → W32) (l : List Nat) (s : State) :
    seated t (forAll l (fun z s => setZone a (key z) (v z s) s) s) = seated t s :=
  forAll_keeps (g := seated t) (fun _ _ => seated_setZone a _ _ _) l s

theorem seated_calLane (band page : Nat) {c : CalResult} (hk : c.k < 64) (s : State) : seated t (calLane t band page c s) = seated t s := by
  unfold calLane
  dsimp only
  split
  · rw [seated_setZones t (fun z => zoneKey page band z c.k) (fun z s => zoneEntry s t (zoneKey page band z c.k) &&& 0x3FFFFFFF),
      seated_setFld (notCal_calres _ (by omega)), seated_modRc]
  · rw [forAll_keeps (g := seated t) (fun _ _ => seated_setZone t _ _ _)]
    split
    · rw [seated_modRc, seated_modRc]
    · rw [seated_modRc]

theorem seated_modLane (l : Nat) (f : RLane → RLane) (s : State) : seated t (modLane l f s) = seated t s := seated_modRc _ _ s

theorem seated_takeRcMode (l : Nat) (s : State) : seated t (takeRcMode l s) = seated t s := seated_modRc _ _ s

/-- A mode that is set reaches the lanes; of the calibration it leaves all but the mode itself. -/
theorem seated_setRcMode (m : Nat) (s : State) : seated t (setRcMode t m s) = seated t (setFld (Reg.rcMode t) Fld.rcModeMode m s) := by
  have hcal : seated t (if m = 3 ∧ rcMode s t ≠ 3 then setReg (Reg.rcCalres t 0) 0 (setReg (Reg.rcCalres t 1) 0
      (setFld (Reg.rcMode t) Fld.rcModeMode m s)) else setFld (Reg.rcMode t) Fld.rcModeMode m s)
        = seated t (setFld (Reg.rcMode t) Fld.rcModeMode m s) := by
    split
    · rw [seated_setReg (notCal_calres 0 (by decide)), seated_setReg (notCal_calres 1 (by decide))]
    · rfl
  unfold setRcMode
  dsimp only
  generalize (if m = 3 ∧ rcMode s t ≠ 3 then setReg (Reg.rcCalres t 0) 0 (setReg (Reg.rcCalres t 1) 0
      (setFld (Reg.rcMode t) Fld.rcModeMode m s)) else setFld (Reg.rcMode t) Fld.rcModeMode m s) = z at hcal ⊢
  split
  · exact hcal
  · split
    · rw [forAll_keeps (g := seated t) (fun _ _ => seated_takeRcMode _ _)]
      exact hcal
    · split
      · rw [forAll_keeps (g := seated t) (fun _ _ => seated_modLane _ _ _)]
        exact hcal
      · exact hcal

theorem rcMode_of_seated {s u : State} (h : seated t u = seated t s) : rcMode u t = rcMode s t :=
  congrArg (fun x : Seated => fieldB x.mode Fld.rcModeMode.lo Fld.rcModeMode.w) h

theorem rcMode_setRcMode {m : Nat} (hm : m < 4) (s : State) : rcMode (setRcMode t m s) t = m := by
  rw [rcMode_of_seated (seated_setRcMode m s), rcMode, fld_setFld_self (by decide)]
  exact Nat.mod_eq_of_lt hm

theorem rcCal_ne_rcMode : Reg.rcCal t ≠ Reg.rcMode t := by
  simp only [Reg.rcCal, Reg.rcMode]
  omega

theorem seated_fields {s u : State} (h : seated t u = seated t s) : (tpOf u t).cart = (tpOf s t).cart ∧ (tpOf u t).head = (tpOf s t).head
    ∧ (tpOf u t).mot = (tpOf s t).mot ∧ u.pwr.commit = s.pwr.commit ∧ reg u (Reg.rcCal t) = reg s (Reg.rcCal t) :=
  ⟨congrArg Seated.cart h, congrArg Seated.head h, congrArg Seated.mot h, congrArg Seated.commit h, congrArg Seated.cal h⟩

/-- A mode that is set leaves cartridge, head module and motion, the commit and the pass. -/
theorem setRcMode_fields (m : Nat) (s : State) : (tpOf (setRcMode t m s) t).cart = (tpOf s t).cart
    ∧ (tpOf (setRcMode t m s) t).head = (tpOf s t).head ∧ (tpOf (setRcMode t m s) t).mot = (tpOf s t).mot
    ∧ (setRcMode t m s).pwr.commit = s.pwr.commit ∧ reg (setRcMode t m s) (Reg.rcCal t) = reg s (Reg.rcCal t) := by
  have h := seated_fields (seated_setRcMode (t := t) m s)
  rwa [tpOf_setFld, setFld_pwr, reg_setFld_ne rcCal_ne_rcMode] at h

end View

/-! ### The cartridge is seated, and Puppeteer's LOCATE (R148, R267) -/

section Seat
variable (t : Tid) (c : Cart)

/-- What firmware takes from cartridge memory before the mode is set. -/
def seatRegs (s : State) : State :=
  let n := t.val
  let pitch := (tpOf s t).head.pitch
  let k := svGain pitch
  let s := setFld (Reg.svK n) Fld.svKK k s
  let s := setFld (Reg.svOffa n) Fld.svOffaOff (svOffset k c.refLine.1) (setFld (Reg.svOffb n) Fld.svOffbOff (svOffset k c.refLine.2) s)
  let s := setFld (Reg.rcZctl n) Fld.rcZctlWraplen c.wrapLen.toNat s
  let s := setFld (Reg.svBow0 n) Fld.svBow0Bow c.bow0.toNat (setFld (Reg.svBow1 n) Fld.svBow1Bow c.bow1.toNat s)
  let s := setFld (Reg.mcNwrap n) Fld.mcNwrapNwrap c.wraps s
  setFld (Reg.mcRad n) Fld.mcRadRada c.radA.toNat (setFld (Reg.mcRad n) Fld.mcRadRadb c.radB.toNat s)

theorem seatRegs_tp (s : State) : (seatRegs t c s).tp = s.tp := by
  unfold seatRegs
  dsimp only
  rw [setFld_tp, setFld_tp, setFld_tp, setFld_tp, setFld_tp, setFld_tp, setFld_tp, setFld_tp, setFld_tp]

theorem seatRegs_pwr (s : State) : (seatRegs t c s).pwr = s.pwr := by
  unfold seatRegs
  dsimp only
  rw [setFld_pwr, setFld_pwr, setFld_pwr, setFld_pwr, setFld_pwr, setFld_pwr, setFld_pwr, setFld_pwr, setFld_pwr]

/-- The reels as they stand for a calibration. -/
def seatMot (pitch : Nat) (m : Mot) : Mot := { m with
  wraps := loadWraps pitch c m.wraps, eotw := c.eotw, botw := c.botw, st := if m.st = .released then .tensioned else m.st
  tensOn := true, armed := none, armGo := false, armMiss := 0, wrap := 0, lv := false, binsA := {}, binsB := {} }

theorem seatMot_st (pitch : Nat) (m : Mot) : (seatMot c pitch m).st ≠ .released := by
  unfold seatMot
  dsimp only
  split
  · exact fun h => nomatch h
  · assumption

/-- The seated cartridge before the mode is set. -/
def seatStill (s : State) : State :=
  modRc t (fun r => { r with refHead := calHeader c }) (modMot t (seatMot c (tpOf s t).head.pitch) (seatRegs t c s))

theorem seatCart_eq (s : State) : seatCart t c s
    = setFld (Reg.rcCal t) Fld.rcCalPass 0 (setFld (Reg.rcCal t) Fld.rcCalDir 0 (setRcMode t 3 (seatStill t c s))) := rfl

theorem seatStill_fields (s : State) : (tpOf (seatStill t c s) t).cart = (tpOf s t).cart ∧ (tpOf (seatStill t c s) t).head = (tpOf s t).head
    ∧ (tpOf (seatStill t c s) t).mot = seatMot c (tpOf s t).head.pitch (tpOf s t).mot ∧ (seatStill t c s).pwr.commit = s.pwr.commit := by
  have hmod (p : Nat) (z : State) :
      tpOf (modRc t (fun r => { r with refHead := calHeader c }) (modMot t (seatMot c p) z)) t
        = { tpOf z t with mot := seatMot c p (tpOf z t).mot, rc := { (tpOf z t).rc with refHead := calHeader c } } := by
    rw [modRc, modMot, tpOf_modTp, tpOf_modTp]
  have hpwr (f : RcT → RcT) (g : Mot → Mot) (z : State) : (modRc t f (modMot t g z)).pwr = z.pwr := rfl
  have hreg : tpOf (seatRegs t c s) t = tpOf s t := by rw [tpOf, seatRegs_tp, tpOf]
  rw [seatStill, hmod, hpwr, hreg, seatRegs_pwr]
  exact ⟨rfl, rfl, rfl, rfl⟩

end Seat

/-- RC_CAL names a pass and its direction. -/
theorem calPass_fields (t : Tid) (p d : Nat) (z : State) :
    let w := setFld (Reg.rcCal t) Fld.rcCalPass p (setFld (Reg.rcCal t) Fld.rcCalDir d z)
    tpOf w t = tpOf z t ∧ w.pwr = z.pwr ∧ rcMode w t = rcMode z t ∧ fld w (Reg.rcCal t) Fld.rcCalPass = p % 4
      ∧ fld w (Reg.rcCal t) Fld.rcCalDir = d % 2 := by
  dsimp only
  refine ⟨?_, ?_, ?_, fld_setFld_self (by decide) _ _ _, ?_⟩
  · rw [tpOf_setFld, tpOf_setFld]
  · rw [setFld_pwr, setFld_pwr]
  · rw [rcMode, fld_setFld_ne rcCal_ne_rcMode.symm, fld_setFld_ne rcCal_ne_rcMode.symm, rcMode]
  · rw [fld_setFld_disjoint (by decide) (by decide)]
    exact fld_setFld_self (by decide) _ _ _

section Seat
variable (t : Tid) (c : Cart)

/-- A seated cartridge: MODE 3 at pass 0 forward, the reels tensioned. -/
theorem seatCart_fields (s : State) : (tpOf (seatCart t c s) t).cart = (tpOf s t).cart ∧ (tpOf (seatCart t c s) t).head = (tpOf s t).head
    ∧ (tpOf (seatCart t c s) t).mot = seatMot c (tpOf s t).head.pitch (tpOf s t).mot ∧ (seatCart t c s).pwr.commit = s.pwr.commit
    ∧ rcMode (seatCart t c s) t = 3 ∧ fld (seatCart t c s) (Reg.rcCal t) Fld.rcCalPass = 0
    ∧ fld (seatCart t c s) (Reg.rcCal t) Fld.rcCalDir = 0 := by
  obtain ⟨hcart, hhead, hmot, hcommit⟩ := seatStill_fields t c s
  obtain ⟨hcart', hhead', hmot', hcommit', -⟩ := setRcMode_fields (t := t) 3 (seatStill t c s)
  have hmode := rcMode_setRcMode (t := t) (m := 3) (by decide) (seatStill t c s)
  obtain ⟨htp, hpwr, hm, hpass, hdir⟩ := calPass_fields t 0 0 (setRcMode t 3 (seatStill t c s))
  rw [seatCart_eq, htp, hpwr, hm, hpass, hdir, hmode]
  exact ⟨hcart'.trans hcart, hhead'.trans hhead, hmot'.trans hmot, hcommit'.trans hcommit, rfl, rfl, rfl⟩

/-- Tension stays on a transport whose next motion command of Puppeteer begins, outside a commit. -/
theorem nextPup_tensioned {s : State} (hc : s.pwr.commit = none) (hst : (tpOf s t).mot.st ≠ .released) (hon : (tpOf s t).mot.tensOn = true) :
    (tpOf (nextPup t s) t).mot.st ≠ .released ∧ (tpOf (nextPup t s) t).mot.tensOn = true := by
  have hstop (k : MotCur) (p : List MotCur) :
      (stopMot s t k { (tpOf s t).mot with pup := p }).st ≠ .released ∧ (stopMot s t k { (tpOf s t).mot with pup := p }).tensOn = true := by
    unfold stopMot
    dsimp only
    split
    · unfold atRest
      rw [hc]
      refine ⟨?_, by simp [hon]⟩
      simp [hst]
    · exact ⟨hst, hon⟩
  rw [nextPup, tpOf_modTp]
  split
  · split
    · exact ⟨hst, hon⟩
    · split
      · exact hstop _ _
      · split
        · exact ⟨(fun h => nomatch h), hon⟩
        · exact ⟨hst, hon⟩
  · exact ⟨hst, hon⟩

theorem nextPup_regs (s : State) : (nextPup t s).regs = s.regs := rfl

theorem calLocate_fields {s : State} (hc : s.pwr.commit = none) (hst : (tpOf s t).mot.st ≠ .released) (hon : (tpOf s t).mot.tensOn = true) :
    (tpOf (calLocate t c s) t).mot.st ≠ .released ∧ (tpOf (calLocate t c s) t).mot.tensOn = true
      ∧ ∀ off, reg (calLocate t c s) off = reg s off := by
  have hmod (f : Mot → Mot) : tpOf (modMot t f s) t = { tpOf s t with mot := f (tpOf s t).mot } := tpOf_modTp _ _ _
  obtain ⟨h1, h2⟩ := nextPup_tensioned t
    (s := modMot t (fun m => { m with pup := m.pup ++ [{ MotCur.reset with op := 2, wrap := 0, target := 0 - c.calRun }] }) s) hc
    (by rw [hmod]; exact hst) (by rw [hmod]; exact hon)
  exact ⟨h1, h2, fun _ => rfl⟩

end Seat

/-! ### The transport is loaded (R267) -/

/-- The grants set events only. -/
theorem tpOf_regrant {β : Type} (g : Tp → β) (hg : ∀ (x : Tp) (q : Seq), g { x with seq := q } = g x) (s : State) (t : Tid) :
    g (tpOf (regrant s) t) = g (tpOf s t) := by
  have hone (a : Tid) (s : State) : g (tpOf (regrantOne a s) t) = g (tpOf s t) := by
    obtain ⟨n, hn⟩ := grantOf_only a s
    unfold regrantOne
    dsimp only
    rw [hn]
    split
    · rfl
    · by_cases ha : t = a
      · rw [ha, setEvent, tpOf_modTp, hg]
        rfl
      · rw [setEvent, tpOf_modTp_ne _ _ _ _ ha]
        rfl
  have hv (v : Nat) (s : State) : tpOf { s with pwr := { s.pwr with vminUsed := v } } t = tpOf s t := rfl
  obtain ⟨n, hn⟩ := tdrainMs_only s
  unfold regrant
  dsimp only
  rw [hn, forAll_keeps (g := fun s => g (tpOf s t)) hone, hv, tpOf_setFld]
  rfl

theorem modCart_isSome (t : Tid) (f : Cart → Cart) (s : State) : (tpOf (modCart t f s) t).cart.isSome = (tpOf s t).cart.isSome := by
  rw [modCart, tpOf_modTp, Option.isSome_map]

theorem appendSaved_keeps (t : Tid) (s : State) : (appendSaved t s).regs = s.regs
    ∧ (tpOf (appendSaved t s) t).cart.isSome = (tpOf s t).cart.isSome := by
  unfold appendSaved
  dsimp only
  split
  · exact ⟨rfl, rfl⟩
  · split
    · exact ⟨rfl, rfl⟩
    · split
      · exact ⟨rfl, rfl⟩
      · exact ⟨rfl, modCart_isSome t _ _⟩

theorem markReturned_keeps (u : BitVec 16) (s : State) : (markReturned u s).tp = s.tp ∧ (markReturned u s).regs = s.regs := by
  unfold markReturned
  split <;> exact ⟨rfl, rfl⟩

theorem freshBins_keeps (t : Tid) (s : State) :
    ((freshBins t s).tp, reg (freshBins t s) (Reg.rcMode t)) = (s.tp, reg s (Reg.rcMode t)) := by
  have hmc (r : Nat) : Reg.rcMode t ≠ Reg.mcRc t r := (notCal_above (by simp only [Reg.mcRc]; omega)).1
  have hesc (e : SMap (List Nat)) (s : State) : ({ s with flt := { s.flt with esc := e } } : State).tp = s.tp
      ∧ reg { s with flt := { s.flt with esc := e } } (Reg.rcMode t) = reg s (Reg.rcMode t) := ⟨rfl, rfl⟩
  refine forAll_keeps (g := fun s : State => (s.tp, reg s (Reg.rcMode t))) (fun r s => ?_) [0, 1] s
  dsimp only
  rw [(hesc _ _).1, (hesc _ _).2]
  split
  · obtain ⟨htp, hregs⟩ := markReturned_keeps (unitId 9 (2 * t.val + r)) s
    rw [setFld_tp, reg_setFld_ne (hmc r), htp, reg_of_regs hregs]
  · rfl

/-- Of a command's end the transports and the registers know nothing. -/
theorem endCmd_keeps (tag : BitVec 16) (st : BitVec 8) (res : W64) (off : Nat) (s : State) :
    (endCmd tag st res off s).tp = s.tp ∧ (endCmd tag st res off s).regs = s.regs := by
  rw [endCmd_hif_only]
  exact ⟨rfl, rfl⟩

/-- The volume's state in a transport that is loaded. -/
def volLoaded (t : Tid) (c : Cart) (s : State) : State :=
  let f := takeFree s
  let e := volEnd c
  modTp t (fun x => { x with
    loaded := true, formatted := (cartLabel c).isSome
    idx := loadIndex c
    wl := { x.wl with exts := [], lastDs := (e.map (fun v => v.last)).getD 0xFFFFFFFF }
    vfy := { x.vfy with ds := [], rwq := [], slotUse := {} }
    mot := { x.mot with
      wrap := (e.map (fun v => v.wrap)).getD 0, lpos := BitVec.ofNat 32 f.1, still := true, setv := 0, cur := none } }) f.2

theorem loadFinish_of_some {t : Tid} {c : Cart} {s : State} (h : (tpOf (appendSaved t s) t).cart = some c) :
    loadFinish t s = regrant (freshBins t (volLoaded t c (appendSaved t s)))
      ∨ ∃ tag res, loadFinish t s = endCmd tag stOk res 0xFFFF (regrant (freshBins t (volLoaded t c (appendSaved t s)))) := by
  unfold loadFinish
  dsimp only
  rw [h]
  dsimp only
  split
  · exact Or.inl rfl
  · exact Or.inr ⟨_, _, rfl⟩

/-- With a cartridge in it, a transport is loaded; MODE stays as it is set. -/
theorem loadFinish_fields {t : Tid} {s : State} (h : (tpOf s t).cart.isSome = true) :
    (tpOf (loadFinish t s) t).loaded = true ∧ rcMode (loadFinish t s) t = rcMode s t := by
  obtain ⟨hregs, hcart⟩ := appendSaved_keeps t s
  obtain ⟨c, hc⟩ := Option.isSome_iff_exists.mp (hcart.trans h)
  have hfinish := loadFinish_of_some hc
  generalize appendSaved t s = z at hregs hfinish
  have hvol : (tpOf (volLoaded t c z) t).loaded = true ∧ (volLoaded t c z).regs = z.regs := ⟨by rw [volLoaded, tpOf_modTp], rfl⟩
  generalize volLoaded t c z = y at hvol hfinish
  obtain ⟨hftp, hfreg⟩ := Prod.mk.inj (freshBins_keeps t y)
  have hre : (tpOf (regrant (freshBins t y)) t).loaded = true ∧ reg (regrant (freshBins t y)) (Reg.rcMode t) = reg s (Reg.rcMode t) := by
    have hne : Reg.rcMode t ≠ Reg.wuTdrain := (notCal_above (by decide)).1
    refine ⟨?_, ?_⟩
    · rw [tpOf_regrant Tp.loaded (fun _ _ => rfl), tpOf, hftp]
      exact hvol.1
    · rw [reg_regrant_ne hne, hfreg, reg_of_regs hvol.2, reg_of_regs hregs]
  generalize regrant (freshBins t y) = w at hre hfinish
  rcases hfinish with h | ⟨tag, res, h⟩ <;> rw [h]
  · exact ⟨hre.1, by rw [rcMode, fld, hre.2]; rfl⟩
  · obtain ⟨htp, hr⟩ := endCmd_keeps tag stOk res 0xFFFF w
    exact ⟨by rw [tpOf, htp]; exact hre.1, by rw [rcMode, fld, reg_of_regs hr, hre.2]; rfl⟩

/-! ### LOAD (R267) -/

theorem fetched_pwr (q : Fin 1024) (e : Entry) (s : State) : (fetched q e s).pwr = s.pwr := by
  have hend (tag : BitVec 16) (st : BitVec 8) (res : W64) (off : Nat) (s : State) : (endCmd tag st res off s).pwr = s.pwr := by
    rw [endCmd_hif_only]
  have hmbx (st : BitVec 8) (res : W64) (s : State) : (mailboxEnd st res s).pwr = s.pwr := by
    unfold mailboxEnd
    exact forAll_keeps (g := State.pwr) (fun _ _ => rfl) (List.range 4) _
  have hdone (x : STest) (st : BitVec 8) (s : State) : (testDone x st s).pwr = s.pwr := by
    unfold testDone
    dsimp only
    split
    · rw [hend]
      rfl
    · rw [hmbx]
      rfl
  have hsusp (s : State) : (testSuspend s).pwr = s.pwr := by
    unfold testSuspend testNext
    split
    · rfl
    · split
      · rfl
      · dsimp only
        split
        · split
          · exact hdone _ _ s
          · rfl
        · rfl
  show (headTaken q e s).pwr = s.pwr
  unfold headTaken
  dsimp only
  split
  · rfl
  · rw [hsusp]
    rfl

theorem commit_of_accepted {q : Fin 1024} {e : Entry} {s : State} (h : Accepted q e s) : (fetched q e s).pwr.commit = none := by
  obtain ⟨hf, -, -, -⟩ := h
  rw [fetched_pwr]
  simp only [canFetch, Bool.and_eq_true, Option.isNone_iff_eq_none] at hf
  obtain ⟨⟨⟨-, hc⟩, -⟩, -⟩ := hf
  exact hc

section Load
variable {c : Cmd} {k : Cart} {u : State}

theorem loadOp_of_loaded (h : (tpOf u (tid (csByte c.e 0x18))).loaded = true) : loadOp c u = endCmd c.e.tag hsBusy 0 0xFFFF u :=
  if_pos (Or.inl h)

theorem loadOp_of_empty (h : (tpOf u (tid (csByte c.e 0x18))).loaded = false) (hb : mediaBusy u (tid (csByte c.e 0x18)) = false)
    (hno : (tpOf u (tid (csByte c.e 0x18))).cart = none ∨ (tpOf u (tid (csByte c.e 0x18))).head.kind = 0) :
    loadOp c u = endCmd c.e.tag hsNotLoaded 0 0xFFFF u := by
  unfold loadOp
  dsimp only
  rw [if_neg (by rw [h, hb]; decide)]
  split
  · rfl
  · next k hk =>
    rcases hno with hno | hno
    · rw [hk] at hno
      cases hno
    · rw [if_pos hno]

/-- A cartridge and a head module, and no other LOAD: MEDIA is raised, and the format must be the head module's. -/
theorem loadOp_of_cart (hs : entrySgl c.e = false) (h : (tpOf u (tid (csByte c.e 0x18))).loaded = false)
    (hb : mediaBusy u (tid (csByte c.e 0x18)) = false) (hk : (tpOf u (tid (csByte c.e 0x18))).cart = some k)
    (hh : (tpOf u (tid (csByte c.e 0x18))).head.kind ≠ 0) :
    loadOp c u = let t := tid (csByte c.e 0x18)
      let s := setEvent t evMedia u
      if k.evf2 ∧ (tpOf u t).head.kind = 1 then endCmd c.e.tag hsFormatUnsupported 0 0xFFFF s
      else
        let s := seatCart t k (modCmd c.e.tag (fun x => { x with active := true }) s)
        if k.calRegion then calLocate t k s else loadFinish t (setRcMode t 2 s) := by
  unfold loadOp
  dsimp only
  rw [if_neg (by rw [h, hb]; decide), hk]
  dsimp only
  rw [if_neg hh, needVersion_of_flat hs, setEvent, tpOf_modTp]

end Load

/-! ### The passes of a calibration (R148) -/

/-- A pass that has ended judges its lanes. -/
def passJudged (t : Tid) (band : Nat) (reverse : Bool) (res : List CalLane) (s : State) : State :=
  forAll res (fun c s => if bitOf (tpOf s t).head.missing.toNat c.k.val then s
    else calLane t band reverse.toNat (calResult s t c.k.val reverse c.adc c.preset.toNat) s) s

theorem seated_passJudged (t : Tid) (band : Nat) (reverse : Bool) (res : List CalLane) (s : State) :
    seated t (passJudged t band reverse res s) = seated t s := by
  refine forAll_keeps (g := seated t) (fun c s => ?_) res s
  split
  · rfl
  · exact seated_calLane band _ c.k.isLt s

theorem calPassEnd_of_not {t : Tid} {band : Nat} {reverse : Bool} {res : List CalLane} {s : State}
    (h : mediaBusy s t = false ∨ passOver s t reverse = false) : calPassEnd t band reverse res s = s := by
  refine if_neg ?_
  rintro ⟨hb, -, -, -, ho⟩
  rcases h with h | h
  · rw [h] at hb
    cases hb
  · rw [h] at ho
    cases ho

theorem calPassEnd_of_over {t : Tid} {band : Nat} {reverse : Bool} {res : List CalLane} {s : State} (hb : mediaBusy s t = true)
    (hm : rcMode s t.val = 3) (hp : fld s (Reg.rcCal t.val) Fld.rcCalPass = band) (hd : fld s (Reg.rcCal t.val) Fld.rcCalDir = reverse.toNat)
    (ho : passOver s t reverse = true) :
    calPassEnd t band reverse res s = let z := passJudged t band reverse res s
      if !reverse then setFld (Reg.rcCal t.val) Fld.rcCalDir 1 z
      else if band + 1 < (if (tpOf z t).head.kind = 2 then 4 else 2) then
        setFld (Reg.rcCal t.val) Fld.rcCalPass (band + 1) (setFld (Reg.rcCal t.val) Fld.rcCalDir 0 z)
      else loadFinish t (setRcMode t 2 (forAll (List.range 64) (judgeLane t) z)) :=
  if_pos ⟨hb, hm, hp, hd, ho⟩

/-- What a pass that is over leaves: the next pass, or the loaded transport. -/
theorem calPassEnd_fields {t : Tid} {band : Fin 4} {rev : Bool} {res : List CalLane} {s : State} (hb : mediaBusy s t = true)
    (hm : rcMode s t.val = 3) (hp : fld s (Reg.rcCal t.val) Fld.rcCalPass = band.val) (hd : fld s (Reg.rcCal t.val) Fld.rcCalDir = rev.toNat)
    (ho : passOver s t rev = true) :
    let w := calPassEnd t band.val rev res s
    (rev = false → fld w (Reg.rcCal t.val) Fld.rcCalPass = band.val ∧ fld w (Reg.rcCal t.val) Fld.rcCalDir = 1)
      ∧ (rev = true → band.val + 1 < (if (tpOf s t).head.kind = 2 then 4 else 2) →
        fld w (Reg.rcCal t.val) Fld.rcCalPass = band.val + 1 ∧ fld w (Reg.rcCal t.val) Fld.rcCalDir = 0)
      ∧ (rev = true → (if (tpOf s t).head.kind = 2 then 4 else 2) ≤ band.val + 1 → (tpOf s t).cart.isSome = true →
        rcMode w t.val = 2 ∧ (tpOf w t).loaded = true) := by
  have hz := seated_fields (seated_passJudged t band.val rev res s)
  have hend := calPassEnd_of_over (res := res) hb hm hp hd ho
  dsimp only at hend ⊢
  rw [hend]
  generalize passJudged t band.val rev res s = z at hz
  obtain ⟨hcart, hhead, -, -, hcal⟩ := hz
  rw [hhead]
  refine ⟨fun hr => ?_, fun hr hlt => ?_, fun hr hle hsome => ?_⟩
  · rw [hr, if_pos (by decide)]
    refine ⟨?_, fld_setFld_self (by decide) _ _ _⟩
    rw [fld_setFld_disjoint (by decide) (by decide), fld, hcal]
    exact hp
  · obtain ⟨-, -, -, hpass, hdir⟩ := calPass_fields t (band.val + 1) 0 z
    rw [hr, if_neg (by decide), if_pos hlt]
    refine ⟨hpass.trans (Nat.mod_eq_of_lt ?_), hdir⟩
    split at hlt <;> omega
  · rw [hr, if_neg (by decide), if_neg (Nat.not_lt.mpr hle)]
    have hj := seated_fields (forAll_keeps (g := seated t) (fun k s => seated_judgeLane t k s) (List.range 64) z)
    generalize forAll (List.range 64) (judgeLane t) z = y at hj
    obtain ⟨hcart', -, -, -, -⟩ := hj
    obtain ⟨hset, -, -, -, -⟩ := setRcMode_fields (t := t) 2 y
    obtain ⟨hloaded, hmode⟩ := loadFinish_fields (t := t) (s := setRcMode t 2 y) (by rw [hset, hcart', hcart]; exact hsome)
    exact ⟨hmode.trans (rcMode_setRcMode (by decide) y), hloaded⟩

/-! ### UNLOAD and FORMAT_VOLUME (R268) -/

theorem unloadOp_of_streams {c : Cmd} {u : State} (h : hasStreams u (tid (csByte c.e 0x18)) = true) :
    unloadOp c u = endCmd c.e.tag hsStreamsOpen 0 0xFFFF u := if_pos h

/-- The transport stands without cartridge and tension at the run-up of wrap 0. -/
theorem unloadOp_of_loaded {c : Cmd} {u : State} (hs : entrySgl c.e = false) (hstr : hasStreams u (tid (csByte c.e 0x18)) = false)
    (hb : mediaBusy u (tid (csByte c.e 0x18)) = false) (hl : (tpOf u (tid (csByte c.e 0x18))).loaded = true)
    (hf : (tpOf u (tid (csByte c.e 0x18))).mot.st ≠ .faulted) (hst : (tpOf u (tid (csByte c.e 0x18))).mot.st ≠ .stopping) :
    ∃ w, unloadOp c u = endCmd c.e.tag stOk 0 0xFFFF w ∧ (tpOf w (tid (csByte c.e 0x18))).loaded = false
      ∧ (tpOf w (tid (csByte c.e 0x18))).mot.st = .released := by
  have hmot : (tpOf (setEvent (tid (csByte c.e 0x18)) evMedia u) (tid (csByte c.e 0x18))).mot = (tpOf u (tid (csByte c.e 0x18))).mot := by
    rw [setEvent, tpOf_modTp]
  unfold unloadOp
  dsimp only
  rw [if_neg (by rw [hstr]; decide), if_neg (by rw [hb]; decide), if_neg (by rw [hl]; decide), needVersion_of_flat hs,
    if_neg (by rw [hmot]; rintro (h | h); exacts [hf h, hst h])]
  refine ⟨_, rfl, ?_, ?_⟩
  · rw [tpOf_regrant Tp.loaded (fun _ _ => rfl), tpOf_modTp]
  · rw [tpOf_regrant (fun x => x.mot.st) (fun _ _ => rfl), tpOf_modTp]

/-- A mode that is set reaches the lanes of the transport only. -/
theorem tpOf_setRcMode {β : Type} (g : Tp → β) (hg : ∀ (x : Tp) (r : RcT), g { x with rc := r } = g x) (t : Tid) (m : Nat) (s : State) :
    g (tpOf (setRcMode t m s) t) = g (tpOf s t) := by
  have hrc (a : Tid) (f : RcT → RcT) (s : State) : g (tpOf (modRc a f s) t) = g (tpOf s t) := by
    by_cases ha : t = a
    · rw [ha, modRc, tpOf_modTp, hg]
    · rw [modRc, tpOf_modTp_ne _ _ _ _ ha]
  have hlane (l : Nat) (f : RLane → RLane) (s : State) : g (tpOf (modLane l f s) t) = g (tpOf s t) := hrc _ _ s
  have htake (l : Nat) (s : State) : g (tpOf (takeRcMode l s) t) = g (tpOf s t) := hlane l _ s
  have hreg (off : Nat) (v : W32) (s : State) : tpOf (setReg off v s) t = tpOf s t := rfl
  have hset : tpOf (if m = 3 ∧ rcMode s t ≠ 3 then setReg (Reg.rcCalres t 0) 0 (setReg (Reg.rcCalres t 1) 0
      (setFld (Reg.rcMode t) Fld.rcModeMode m s)) else setFld (Reg.rcMode t) Fld.rcModeMode m s) t = tpOf s t := by
    split
    · rw [hreg, hreg, tpOf_setFld]
    · rw [tpOf_setFld]
  unfold setRcMode
  dsimp only
  generalize (if m = 3 ∧ rcMode s t ≠ 3 then setReg (Reg.rcCalres t 0) 0 (setReg (Reg.rcCalres t 1) 0
      (setFld (Reg.rcMode t) Fld.rcModeMode m s)) else setFld (Reg.rcMode t) Fld.rcModeMode m s) = z at hset ⊢
  rw [← hset]
  split
  · rfl
  · split
    · exact forAll_keeps (g := fun s => g (tpOf s t)) (fun k s => htake _ s) _ z
    · split
      · exact forAll_keeps (g := fun s => g (tpOf s t)) (fun k s => hlane _ _ s) _ z
      · rfl

theorem fixedRegions_tp (t : Tid) (volid : Nat) (s : State) : (fixedRegions t volid s).2.tp = s.tp := rfl

/-- The calibration region and the label stand first on wrap 0. -/
theorem fixedRegions_head (t : Tid) (volid : Nat) (s : State) : ∃ (a b : TapeItem) (l : List TapeItem), (fixedRegions t volid s).1 = a :: b :: l
    ∧ a.mark = none ∧ a.dsnum = 0xFFFFFFFF ∧ a.wrap = 0 ∧ a.lpos = 0 ∧ b.mark = none ∧ b.dsnum = 0 ∧ b.wrap = 0 ∧ b.lpos = 2048 :=
  ⟨_, _, _, rfl, rfl, rfl, rfl, rfl, rfl, rfl, rfl, rfl⟩

theorem formatOp_of_unloaded {c : Cmd} {u : State} (h : (tpOf u (tid (csByte c.e 0x18))).loaded = false) :
    formatOp c u = endCmd c.e.tag hsNotLoaded 0 0xFFFF u := if_pos (by rw [h]; rfl)

theorem formatOp_of_streams {c : Cmd} {u : State} (h : (tpOf u (tid (csByte c.e 0x18))).loaded = true)
    (hs : hasStreams u (tid (csByte c.e 0x18)) = true) : formatOp c u = endCmd c.e.tag hsStreamsOpen 0 0xFFFF u :=
  (if_neg (by rw [h]; decide)).trans (if_pos hs)

/-- The format of a volume with the fixed regions r, its tape in front of the loaded cartridge's memory. -/
def formattedCart (q : Seq) (r : List TapeItem) (mask : W64) (k : Cart) : Cart :=
  { k with evf2 := q.fmtid == 2, tape := r, calRegion := true, calFmt := (q.fmtid, q.version, mask), idxDs := 1
           idxLpos := (r[3]?.map (fun i => i.lpos)).getD 0 }

/-- A transport whose volume has been formatted with the regions r. -/
def formattedTp (r : List TapeItem) (lpos : Nat) (x : Tp) : Tp := { x with
  formatted := true
  idx := { Idx.reset with gen := 1, prev := 1, locs := (r.filter inSequence).map itemLoc, places := (r.filter inSequence).map itemLoc }
  wl := { x.wl with exts := [], lastDs := 1 }
  mot := { x.mot with wrap := 0, lpos := BitVec.ofNat 32 lpos, armed := none, armGo := false, armMiss := 0 } }

theorem formatOp_of_loaded {c : Cmd} {u : State} (hs : entrySgl c.e = false) (hl : (tpOf u (tid (csByte c.e 0x18))).loaded = true)
    (hstr : hasStreams u (tid (csByte c.e 0x18)) = false) (hw : writeDisabled u (tid (csByte c.e 0x18)) = false)
    (hf : (tpOf u (tid (csByte c.e 0x18))).seq.fmtid ≠ 0) :
    formatOp c u = let t := tid (csByte c.e 0x18)
      let r := fixedRegions t (csField c.e 0x20 16) (setRcMode t 1 u)
      endCmd c.e.tag stOk 0 0xFFFF (setRcMode t 2 (modTp t (formattedTp r.1 (takeFree r.2).1)
        (modCart t (formattedCart (tpOf u t).seq r.1 (liveMask (tpOf u t))) (takeFree r.2).2))) := by
  unfold formatOp
  dsimp only
  rw [if_neg (by rw [hl]; decide), if_neg (by rw [hstr]; decide), if_neg (by rw [hw]; decide), if_neg hf, needVersion_of_flat hs]
  rfl

/-- What FORMAT_VOLUME leaves of the transport. -/
theorem formatted_fields (t : Tid) (vol : Nat) (q : Seq) (mask : W64) (u : State) :
    let r := fixedRegions t vol (setRcMode t 1 u)
    let w := setRcMode t 2 (modTp t (formattedTp r.1 (takeFree r.2).1)
      (modCart t (formattedCart q r.1 mask) (takeFree r.2).2))
    (tpOf w t).formatted = true ∧ (tpOf w t).idx.known = [] ∧ (tpOf w t).wl.lastDs = 1 ∧ rcMode w t = 2
      ∧ (tpOf w t).cart = (tpOf u t).cart.map (formattedCart q r.1 mask) := by
  dsimp only
  have hcart : (tpOf (setRcMode t 1 u) t).cart = (tpOf u t).cart := tpOf_setRcMode Tp.cart (fun _ _ => rfl) t 1 u
  have htp := fixedRegions_tp t vol (setRcMode t 1 u)
  generalize setRcMode t 1 u = y at hcart htp
  generalize fixedRegions t vol y = r at htp
  have hfree : tpOf (takeFree r.2).2 t = tpOf y t := congrArg (fun o : Oct Tp => o.get t) htp
  generalize (takeFree r.2).2 = z at hfree
  rw [rcMode_setRcMode (by decide), tpOf_setRcMode (fun x => x.formatted) (fun _ _ => rfl), tpOf_setRcMode (fun x => x.idx.known) (fun _ _ => rfl),
    tpOf_setRcMode (fun x => x.wl.lastDs) (fun _ _ => rfl), tpOf_setRcMode Tp.cart (fun _ _ => rfl), tpOf_modTp]
  refine ⟨rfl, rfl, rfl, rfl, ?_⟩
  show (tpOf (modCart t _ z) t).cart = _
  rw [modCart, tpOf_modTp, ← hcart, ← hfree]

theorem setEvent_cart (t : Tid) (n : Nat) (s : State) : (tpOf (setEvent t n s) t).cart = (tpOf s t).cart := by
  rw [setEvent, tpOf_modTp]

/-! ### LOAD_PROGRAM (R269) -/

section Program
variable {c : Cmd} {u : State} {l : List Byte}

theorem cmdData_of_flat {e : Entry} (h : entrySgl e = false) (s : State) (n : Nat) : cmdData s e n = some (s.hostMem.read 0 e.dptr.toNat n) := by
  have hp : hostPieces s (entrySgl e) e.dptr.toNat n = some [(e.dptr.toNat, n)] := if_neg (by rw [h]; decide)
  rw [cmdData, hp]
  simp [readPieces]

theorem loadProgramOp_of_loop (hs : entrySgl c.e = false) (hl : l = u.hostMem.read 0 c.e.dptr.toNat c.e.dlen.toNat) (hp : imgProfile l = 1)
    (hm : csByte c.e 0x18 ≠ 0) : loadProgramOp c u = endCmd c.e.tag stRejected 0 0x18 u := by
  rw [loadProgramOp, needVersion_of_flat hs, cmdData_of_flat hs, ← hl]
  exact if_pos ⟨hp, hm⟩

theorem loadProgramOp_of_good (hs : entrySgl c.e = false) (hl : l = u.hostMem.read 0 c.e.dptr.toNat c.e.dlen.toNat)
    (hp : imgProfile l ≠ 1 ∨ csByte c.e 0x18 = 0) (he : imgError u l ((setBits 8 (csByte c.e 0x18)).map tid) = none) :
    loadProgramOp c u = endCmd c.e.tag stOk 0 0xFFFF (forAll ((setBits 8 (csByte c.e 0x18)).map tid) startPending
      (installImage l ((setBits 8 (csByte c.e 0x18)).map tid) u)) := by
  rw [loadProgramOp, needVersion_of_flat hs, cmdData_of_flat hs, ← hl]
  dsimp only
  rw [if_neg (by rintro ⟨h1, h2⟩; rcases hp with h | h; exacts [h h1, h2 h]), he]

theorem loadProgramOp_of_bad (hs : entrySgl c.e = false) (hl : l = u.hostMem.read 0 c.e.dptr.toNat c.e.dlen.toNat)
    (hp : imgProfile l ≠ 1 ∨ csByte c.e 0x18 = 0) {r : Nat} {t : Tid}
    (he : imgError u l ((setBits 8 (csByte c.e 0x18)).map tid) = some (r, some t)) :
    loadProgramOp c u = endCmd c.e.tag hsLoadFailed (BitVec.ofNat 64 (r + 2 ^ 8 * t.val)) 0xFFFF (logFault (unitId 10 t.val) 0 r 0 0 u) := by
  rw [loadProgramOp, needVersion_of_flat hs, cmdData_of_flat hs, ← hl]
  dsimp only
  rw [if_neg (by rintro ⟨h1, h2⟩; rcases hp with h | h; exacts [h h1, h2 h]), he]

end Program

/-- Settles O41: LOAD by the seated cartridge, a pass by what it leaves of the registers, UNLOAD, FORMAT_VOLUME and LOAD_PROGRAM by their
checks and the states they leave. -/
theorem mediaCommands : Obligations.MediaCommands := by
  refine ⟨fun q e k s ha ho hs => ?_, fun t band rev res s => ⟨fun hb => ?_, fun hb hm hp hd => ⟨fun hover => ?_, fun hover => ?_⟩⟩,
    fun q e s ha hs => ?_⟩
  · have hexec {v : State} (hv : loadOp (newCmd q e) (fetched q e s) = v) : exec (.loadCmd q e) s = .next (settleHost (settleHost v)) :=
      next_congr (congrArg settleHost ((fetchCmd_of_accepted_free ha (by rw [ho]; rfl) (by decide) (by decide)).trans (congrArg settleHost hv)))
    have hcommit := commit_of_accepted ha
    refine ⟨fun hl => hexec (loadOp_of_loaded (c := newCmd q e) hl), fun hl hb hno => hexec (loadOp_of_empty (c := newCmd q e) hl hb hno),
      fun hl hb hk => ⟨fun hevf hkind => ?_, fun hkind hfmt hcal => ?_, fun hkind hfmt hcal => ?_⟩⟩
    · have h := loadOp_of_cart (c := newCmd q e) hs hl hb hk (fun h0 => Nat.one_ne_zero (hkind.symm.trans h0))
      exact hexec (h.trans (if_pos ⟨hevf, hkind⟩))
    all_goals
      have hno : ¬(k.evf2 = true ∧ (tpOf (fetched q e s) (tid (csByte e 0x18))).head.kind = 1) := by
        rintro ⟨h1, h2⟩
        rcases hfmt with h | h
        · rw [h1] at h
          cases h
        · exact h h2
      have h := (loadOp_of_cart (c := newCmd q e) hs hl hb hk hkind).trans (if_neg hno)
      have hcart : (tpOf (modCmd e.tag (fun x => { x with active := true }) (setEvent (tid (csByte e 0x18)) evMedia (fetched q e s)))
          (tid (csByte e 0x18))).cart = some k := (setEvent_cart _ evMedia _).trans hk
      have hcom : (modCmd e.tag (fun x => { x with active := true }) (setEvent (tid (csByte e 0x18)) evMedia (fetched q e s))).pwr.commit = none :=
        hcommit
      dsimp only [newCmd] at h
      generalize modCmd e.tag (fun x => { x with active := true }) (setEvent (tid (csByte e 0x18)) evMedia (fetched q e s)) = z at h hcart hcom
      obtain ⟨hc, -, hmot, hcom', hmode, hpass, hdir⟩ := seatCart_fields (tid (csByte e 0x18)) k z
    · have hst : (tpOf (seatCart (tid (csByte e 0x18)) k z) (tid (csByte e 0x18))).mot.st ≠ .released := by
        rw [hmot]
        exact seatMot_st k _ _
      have hon : (tpOf (seatCart (tid (csByte e 0x18)) k z) (tid (csByte e 0x18))).mot.tensOn = true := by rw [hmot, seatMot]
      obtain ⟨h1, h2, hregs⟩ := calLocate_fields (tid (csByte e 0x18)) k (hcom'.trans hcom) hst hon
      refine ⟨_, hexec (h.trans (if_pos hcal)), ?_, ?_, ?_, h1, h2⟩
      · rw [rcMode, fld, hregs]
        exact hmode
      · rw [fld, hregs]
        exact hpass
      · rw [fld, hregs]
        exact hdir
    · obtain ⟨hset, -, -, -, -⟩ := setRcMode_fields (t := tid (csByte e 0x18)) 2 (seatCart (tid (csByte e 0x18)) k z)
      obtain ⟨hloaded, hmode'⟩ := loadFinish_fields (t := tid (csByte e 0x18))
        (s := setRcMode (tid (csByte e 0x18)) 2 (seatCart (tid (csByte e 0x18)) k z)) (by rw [hset, hc, hcart]; rfl)
      exact ⟨_, hexec (h.trans (if_neg (by rw [hcal]; decide))), hmode'.trans (rcMode_setRcMode (by decide) _), hloaded⟩
  · exact next_congr (congrArg settleHost (calPassEnd_of_not (Or.inl hb)))
  · exact next_congr (congrArg settleHost (calPassEnd_of_not (Or.inr hover)))
  · exact ⟨_, rfl, calPassEnd_fields hb hm hp hd hover⟩
  · have hexec {opc : Nat} {f : Cmd → State → State} (ho : e.opc.toNat = opc) (hk : knownOpc opc = true) (h11 : opc < 0x11) {v : State}
        (hv : f (newCmd q e) (fetched q e s) = v) : settleHost (fetchCmd opc q.val e f s) = settleHost (settleHost v) :=
      congrArg settleHost ((fetchCmd_of_accepted_free ha ho hk h11).trans (congrArg settleHost hv))
    refine ⟨fun ho hstr => ?_, fun ho hstr hb hl hf hst => ?_, fun ho hl => ?_, fun ho hl hstr => ?_, fun ho hl hstr hw hfmt => ?_,
      fun ho l hl => ⟨fun hp hm => ?_, fun hp => ⟨fun he => ?_, fun r t' he => ?_⟩⟩⟩
    · exact next_congr (hexec (by rw [ho]; rfl) (by decide) (by decide) (unloadOp_of_streams (c := newCmd q e) hstr))
    · obtain ⟨w, hw, hfacts⟩ := unloadOp_of_loaded (c := newCmd q e) hs hstr hb hl hf hst
      exact ⟨w, next_congr (hexec (by rw [ho]; rfl) (by decide) (by decide) hw), hfacts⟩
    · exact next_congr (hexec (by rw [ho]; rfl) (by decide) (by decide) (formatOp_of_unloaded (c := newCmd q e) hl))
    · exact next_congr (hexec (by rw [ho]; rfl) (by decide) (by decide) (formatOp_of_streams (c := newCmd q e) hl hstr))
    · obtain ⟨hformatted, hknown, hlast, hmode, hcart⟩ := formatted_fields (tid (csByte e 0x18)) (csField e 0x20 16)
        (tpOf (fetched q e s) (tid (csByte e 0x18))).seq (liveMask (tpOf (fetched q e s) (tid (csByte e 0x18)))) (fetched q e s)
      refine ⟨_, next_congr (hexec (by rw [ho]; rfl) (by decide) (by decide) (formatOp_of_loaded (c := newCmd q e) hs hl hstr hw hfmt)),
        hformatted, hknown, hlast, hmode, fun k hk => ?_⟩
      obtain ⟨a, b, l, htape, hfacts⟩ := fixedRegions_head (tid (csByte e 0x18)) (csField e 0x20 16)
        (setRcMode (tid (csByte e 0x18)) 1 (fetched q e s))
      rw [hk] at hcart
      exact ⟨_, a, b, l, hcart, rfl, rfl, rfl, htape, hfacts⟩
    · exact next_congr (hexec (by rw [ho]; rfl) (by decide) (by decide) (loadProgramOp_of_loop (c := newCmd q e) hs hl hp hm))
    · exact next_congr (hexec (by rw [ho]; rfl) (by decide) (by decide) (loadProgramOp_of_good (c := newCmd q e) hs hl hp he))
    · refine ⟨_, next_congr (hexec (by rw [ho]; rfl) (by decide) (by decide) (loadProgramOp_of_bad (c := newCmd q e) hs hl hp he)), ?_⟩
      rw [logFault_only]

end Sys2Proof.Machine
end

section
/-! SLOT_ARRIVAL, LDPC_ITERATION and CODEWORD_DEADLINE (R131-R133, R139-R141, R145, R155). -/
namespace Sys2Proof.Machine
open Sys2Proof.Safety

/-! ### A lane's record -/

section Lane
variable (l : Nat) (f : RLane → RLane) (s : State)

theorem tpOf_modRc (t : Tid) (g : RcT → RcT) : tpOf (modRc t g s) t = { tpOf s t with rc := g (tpOf s t).rc } := tpOf_modTp t _ s

theorem getLane_modLane : getLane (modLane l f s) l = f (getLane s l) := by
  rw [getLane, modLane, tpOf_modRc]
  exact SMap.get_set_self _ _ _ _

theorem tpOf_modLane : tpOf (modLane l f s) (laneT l)
    = { tpOf s (laneT l) with rc := { (tpOf s (laneT l)).rc with
        lanes := (tpOf s (laneT l)).rc.lanes.set RLane.reset (laneK l) (f (getLane s l)) } } := tpOf_modRc s _ _

theorem pend_modLane : (tpOf (modLane l f s) (laneT l)).rc.pend = (tpOf s (laneT l)).rc.pend := by rw [tpOf_modLane]

theorem mot_modLane : (tpOf (modLane l f s) (laneT l)).mot = (tpOf s (laneT l)).mot := by rw [tpOf_modLane]

end Lane

theorem getLane_of_tp {s u : State} (h : u.tp = s.tp) (l : Nat) : getLane u l = getLane s l := by rw [getLane, tpOf, h, getLane, tpOf]

/-! ### Capture only reads a lane's samples (R155) -/

theorem endCapture_tp (c n : Nat) (s : State) : (endCapture c n s).tp = s.tp := by
  unfold endCapture
  dsimp only
  rw [raiseFld_tp, setFld_tp, setFld_tp]

theorem endCapture_clk (c n : Nat) (s : State) : (endCapture c n s).clk = s.clk := by
  unfold endCapture raiseFld
  dsimp only
  rw [setFld_clk, setFld_clk, setFld_clk]

theorem capSample_keeps {β : Type} {g : State → β} (he : ∀ c n s, g (endCapture c n s) = g s)
    (hm : ∀ (s : State) m k, g { s with mem := m, caps := k } = g s) (c n : Nat) (s : State) (x : BitVec 6) : g (capSample c n s x) = g s := by
  unfold capSample
  extract_lets ch trig tok
  split
  · rfl
  · split
    · exact he c n s
    · split
      · rfl
      · exact hm s _ _

theorem capRun_keeps {β : Type} {g : State → β} (he : ∀ c n s, g (endCapture c n s) = g s)
    (hm : ∀ (s : State) m k, g { s with mem := m, caps := k } = g s) (c n : Nat) (l : List (BitVec 6)) (s : State) :
    g (capRun c n l s) = g s := by
  have hl : g (l.foldl (capSample c n) s) = g s := by
    induction l generalizing s with
    | nil => rfl
    | cons x r ih => rw [List.foldl_cons, ih, capSample_keeps he hm]
  unfold capRun
  extract_lets u
  split
  · rw [he, hl]
  · exact hl

theorem capLane_keeps {β : Type} {g : State → β} (he : ∀ c n s, g (endCapture c n s) = g s)
    (hm : ∀ (s : State) m k, g { s with mem := m, caps := k } = g s) (l : Nat) (adc : List (BitVec 6)) (s : State) :
    g (capLane l adc s) = g s := by
  refine forAll_keeps (fun n u => ?_) _ s
  split
  · exact capRun_keeps he hm _ _ _ u
  · rfl

theorem capLane_tp (l : Nat) (adc : List (BitVec 6)) (s : State) : (capLane l adc s).tp = s.tp :=
  capLane_keeps (g := State.tp) endCapture_tp (fun _ _ _ => rfl) l adc s

theorem capLane_clk (l : Nat) (adc : List (BitVec 6)) (s : State) : (capLane l adc s).clk = s.clk :=
  capLane_keeps (g := State.clk) endCapture_clk (fun _ _ _ => rfl) l adc s

/-! ### What an arrival keeps of its lane -/

/-- A state as lane L's next pending codeword sees it: the codewords pending, the motion, the engine and the time. -/
def Feeds (l : Nat) (s u : State) : Prop := (tpOf u (laneT l)).rc.pend = (tpOf s (laneT l)).rc.pend
  ∧ (tpOf u (laneT l)).mot = (tpOf s (laneT l)).mot
  ∧ (getLane u l).moved = (getLane s l).moved ∧ (getLane u l).framed = (getLane s l).framed ∧ u.clk = s.clk

theorem Feeds.trans {l : Nat} {s u w : State} (h : Feeds l s u) (k : Feeds l u w) : Feeds l s w := by
  obtain ⟨hp, hm, hv, hf, hc⟩ := h
  obtain ⟨kp, km, kv, kf, kc⟩ := k
  exact ⟨kp.trans hp, km.trans hm, kv.trans hv, kf.trans hf, kc.trans hc⟩

theorem feeds_capLane (l : Nat) (adc : List (BitVec 6)) (s : State) : Feeds l s (capLane l adc s) := by
  have h := capLane_tp l adc s
  exact ⟨by rw [tpOf, h, tpOf], by rw [tpOf, h, tpOf], by rw [getLane_of_tp h], by rw [getLane_of_tp h], capLane_clk l adc s⟩

theorem feeds_modLane {l : Nat} {f : RLane → RLane} (hv : ∀ x, (f x).moved = x.moved) (hf : ∀ x, (f x).framed = x.framed) (s : State) :
    Feeds l s (modLane l f s) :=
  ⟨pend_modLane l f s, mot_modLane l f s, by rw [getLane_modLane, hv], by rw [getLane_modLane, hf], rfl⟩

theorem feeds_syncNote (l : Nat) (s : State) : Feeds l s (syncNote l s) := by
  unfold syncNote
  extract_lets x
  split
  · exact ⟨rfl, rfl, rfl, rfl, rfl⟩
  · refine feeds_modLane (fun y => ?_) (fun y => ?_) s <;> split <;> rfl

theorem buffers_keep (x : RLane) (b : List (BitVec 4)) (n : Nat) : ({ x with soft := b, at' := n } : RLane).moved = x.moved
    ∧ ({ x with soft := b, at' := n } : RLane).framed = x.framed := ⟨rfl, rfl⟩

theorem samples_keep (x : RLane) (b : List (BitVec 4)) (a : List (BitVec 6)) (p : Loops) (n : Nat) :
    ({ x with soft := b, last := a, loops := p, arr := n } : RLane).moved = x.moved
      ∧ ({ x with soft := b, last := a, loops := p, arr := n } : RLane).framed = x.framed := ⟨rfl, rfl⟩

theorem triple_keep (x : RLane) (d p b z : Nat) (f : Bool) :
    ({ x with doneKey := d, page := p, band := b, zone := z, fresh := f } : RLane).moved = x.moved
      ∧ ({ x with doneKey := d, page := p, band := b, zone := z, fresh := f } : RLane).framed = x.framed := ⟨rfl, rfl⟩

theorem trimSoft_keeps (x : RLane) : (trimSoft x).moved = x.moved ∧ (trimSoft x).framed = x.framed := by
  unfold trimSoft
  extract_lets d
  clear_value d
  exact buffers_keep x _ _

theorem feeds_feedLane (l : Nat) (adc : List (BitVec 6)) (s : State) : Feeds l s (feedLane l adc s) := by
  unfold feedLane
  extract_lets t c n step
  clear_value step n c
  refine feeds_modLane (fun y => ?_) (fun y => ?_) s
  · extract_lets x p q begun z
    have hz : z.moved = y.moved := (samples_keep x _ _ _ _).1.trans (trimSoft_keeps y).1
    clear_value z begun
    split
    · exact (triple_keep z _ _ _ _ _).1.trans hz
    · exact hz
  · extract_lets x p q begun z
    have hz : z.framed = y.framed := (samples_keep x _ _ _ _).2.trans (trimSoft_keeps y).2
    clear_value z begun
    split
    · exact (triple_keep z _ _ _ _ _).2.trans hz
    · exact hz

theorem laneEngine_of_feeds {l : Nat} {s u : State} (h : Feeds l s u) : laneEngine u l = laneEngine s l := by
  obtain ⟨-, -, hv, -, -⟩ := h
  rw [laneEngine, hv, laneEngine]

theorem slotPs_of_mot {s u : State} {t : Tid} (h : (tpOf u t).mot = (tpOf s t).mot) : slotPs u t = slotPs s t := by rw [slotPs, h, slotPs]

/-! ### A slot arrives -/

theorem slotArrive_of_away {l : Nat} {s : State} (h : isOffline s (laneT l) = true ∨ bitOf (tpOf s (laneT l)).head.missing.toNat (laneK l) = true)
    (adc : List (BitVec 6)) : slotArrive l adc s = s := if_pos (by simpa using h)

theorem mode_takeRcMode (l : Nat) (s : State) : (getLane (takeRcMode l s) l).mode = rcMode s (laneT l) := by
  rw [takeRcMode, getLane_modLane]
  split <;> rfl

theorem slotArrive_of_idle {l : Nat} {adc : List (BitVec 6)} {s : State} (ho : isOffline s (laneT l) = false)
    (hm : bitOf (tpOf s (laneT l)).head.missing.toNat (laneK l) = false) (hf : (getLane (capLane l adc s) l).framed = false)
    (h1 : rcMode (capLane l adc s) (laneT l) ≠ 1) (h2 : rcMode (capLane l adc s) (laneT l) ≠ 2) :
    slotArrive l adc s = takeRcMode l (capLane l adc s) := by
  unfold slotArrive
  extract_lets t v w mode
  have hw : w = takeRcMode l v := if_neg (by simp [v, hf])
  have hmode : mode = rcMode v t := by rw [show mode = (getLane w l).mode from rfl, hw, mode_takeRcMode]
  rw [if_neg (by simp [t, ho, hm]), if_pos (by rw [hmode]; exact ⟨h1, h2⟩), hw]

/-- What an arrival makes of a framed lane in a mode, its samples in (R120, R144). -/
def fed (l m : Nat) (adc : List (BitVec 6)) (v : State) : State := feedLane l adc (if m = 1 then syncNote l v else v)

theorem feeds_fed (l m : Nat) (adc : List (BitVec 6)) (v : State) : Feeds l v (fed l m adc v) := by
  refine Feeds.trans ?_ (feeds_feedLane l adc _)
  split
  · exact feeds_syncNote l v
  · exact ⟨rfl, rfl, rfl, rfl, rfl⟩

theorem slotArrive_of_framed {l m : Nat} {adc : List (BitVec 6)} {s : State} (ho : isOffline s (laneT l) = false)
    (hm : bitOf (tpOf s (laneT l)).head.missing.toNat (laneK l) = false) (hf : (getLane (capLane l adc s) l).framed = true)
    (hmode : (getLane (capLane l adc s) l).mode = m) (h12 : m = 1 ∨ m = 2) (hov : (getLane (capLane l adc s) l).overflow = false)
    (hp : ∀ q ∈ (tpOf s (laneT l)).rc.pend, q.lane ≠ l)
    (hlen : (getLane (fed l m adc (capLane l adc s)) l).at' + 9504 ≤ (getLane (fed l m adc (capLane l adc s)) l).soft.length) :
    slotArrive l adc s = arriveFramed l m (fed l m adc (capLane l adc s)) := by
  have hpend : (tpOf (capLane l adc s) (laneT l)).rc.pend.filter (fun p => p.lane == l) = [] := by
    rw [(feeds_capLane l adc s).1, List.filter_eq_nil_iff]
    simpa using hp
  have hfr : (getLane (fed l m adc (capLane l adc s)) l).framed = true := by rw [(feeds_fed l m adc _).2.2.2.1, hf]
  unfold slotArrive
  extract_lets t v w mode z u x
  have hw : w = v := if_pos hf
  have hmd : mode = m := by rw [show mode = (getLane w l).mode from rfl, hw, hmode]
  have hz : z = v := by
    show forAll _ _ w = v
    rw [hw, hpend]
    rfl
  have hu : u = fed l m adc v := by
    show feedLane l adc (if mode = 1 then syncNote l z else z) = _
    rw [hz, hmd, fed]
  have hx : x = getLane (fed l m adc v) l := by rw [show x = getLane u l from rfl, hu]
  rw [if_neg (by simp [t, ho, hm]), if_neg (by rw [hmd]; omega), if_neg (by rw [hz, hov]; decide), if_neg (by rw [hx, hfr]; decide),
    if_neg (by rw [hx]; exact hlen.not_gt), hmd, hu]

/-! ### A framed lane's slot becomes a codeword (R133, R140) -/

/-- The lane's place behind the slot at a place, where it is still framed there. -/
def pastSlot (at' : Nat) (y : RLane) : RLane := if y.framed ∧ y.at' = at' then { y with at' := y.at' + slotLen } else y

section Framed
variable {l m : Nat} {w : State} {a : Attempt} {r : List Attempt}

theorem arriveFramed_of_attempts
    (hj : m = 2 → newExtentIn (getLane w l).soft (getLane w l).at' (fld w (Reg.rcSync (laneT l)) Fld.rcSyncAThr)
      ((getLane w l).slot == 0 || maybeNext w l m (getLane w l).slot) = none)
    (he : m = 1 → (getLane w l).slot = 0 → (noticeNo (tpOf w (laneT l)).rc (getLane w l).note).map (searchPhase w (laneT l)) = some 1)
    (ha : attemptsOf (syncCandidates (((getLane w l).soft.drop (getLane w l).at').take 9504) 160 (fld w (Reg.rcSync (laneT l)) Fld.rcSyncSyncThr))
      (if (getLane w l).fly < fld w (Reg.rcSync (laneT l)) Fld.rcSyncFlymax then (getLane w l).flyPos else none) = a :: r) :
    arriveFramed l m w = takeRcMode l (modLane l (pastSlot (getLane w l).at')
      (pushPend l m (getLane w l).at' (maybeNext w l m (getLane w l).slot) (getLane w l).doneKey (a :: r) w)) := by
  unfold arriveFramed
  extract_lets t x may jump early c fly z
  have hjump : jump = none := by
    show (if m = 2 then _ else none) = none
    split
    · exact hj ‹_›
    · rfl
  have hearly : early = false := by
    by_contra h
    obtain ⟨h1, h0, h2⟩ : m = 1 ∧ x.slot = 0 ∧ (noticeNo (tpOf w t).rc x.note).map (searchPhase w t) ≠ some 1 := by
      simpa [early] using h
    exact h2 (he h1 h0)
  have hc : attemptsOf c fly = a :: r := by simpa [c, fly] using ha
  have hz : z = pushPend l m x.at' may x.doneKey (a :: r) w := by
    unfold z
    rw [hc]
  rw [hjump, hearly, hz]
  rfl

end Framed

/-- The codeword that a lane's slot becomes. -/
def cwOf (l m base : Nat) (may : Bool) (key : Nat) (atts : List Attempt) (w : State) : PendCw :=
  { PendCw.reset with
    lane := l, slot := (getLane w l).slot, dl := w.clk * 800 + slotPs w (laneT l), eng := laneEngine w l, mode := m, note := (getLane w l).note
    soft := ((getLane w l).soft.drop base).take 9504, base := base, maybe := may, attempts := atts, zkey := key, fin := (getLane w l).loops.fin }

theorem pend_pushPend (l m base : Nat) (may : Bool) (key : Nat) (atts : List Attempt) (w : State) :
    (tpOf (pushPend l m base may key atts w) (laneT l)).rc.pend = (tpOf w (laneT l)).rc.pend ++ [cwOf l m base may key atts w] := by
  unfold pushPend
  extract_lets t x p u
  rw [pend_modLane, tpOf_modRc]
  rfl

theorem pend_takeRcMode (l : Nat) (s : State) : (tpOf (takeRcMode l s) (laneT l)).rc.pend = (tpOf s (laneT l)).rc.pend := pend_modLane l _ s

/-! ### Iterations and deadlines -/

section Engine
variable {e : Nat} {p : PendCw} {a : Attempt} {r : List Attempt} {s : State}

theorem ldpcRow_of_none (h : enginePick s e = none) (fault : Bool) : ldpcRow e fault s = s := by rw [ldpcRow, h]

theorem ldpcRow_of_fault (h : enginePick s e = some p) : ldpcRow e true s = faultEvent (unitId 1 e) 0 0 (notDecoded p s) := by
  rw [ldpcRow, h]
  rfl

theorem ldpcRow_of_good (h : enginePick s e = some p) : ldpcRow e false s = ldpcStep e false p s := by
  rw [ldpcRow, h]
  rfl

theorem ldpcStep_of_attempt (h : p.attempts = a :: r) : ldpcStep e false p s
    = if c1Unsat (iterBits s p a) = 0 then decodedCw p a (p.iters + 1) (iterBits s p a) s
      else if p.iters + 1 = 12 ∨ (p.iters + 1 = 3 ∧ abandonLimit s (e / 32) < c1Unsat (iterBits s p a)) then attemptFailed p s
      else modRc (laneT p.lane) (fun x => { x with pend := x.pend.map (fun q => if q.lane == p.lane && q.dl == p.dl then
        { q with iters := p.iters + 1, post := (iterate s p a).1, msgs := (iterate s p a).2 } else q) }) s := by
  rw [ldpcStep, h]
  rfl

theorem deadlineRow_of_none {l : Nat} (h : ∀ q ∈ (tpOf s (laneT l)).rc.pend, q.lane ≠ l) : deadlineRow l s = s := by
  have hn : (tpOf s (laneT l)).rc.pend.find? (fun p => p.lane == l) = none := by
    rw [List.find?_eq_none]
    simpa using h
  rw [deadlineRow, hn]

theorem deadlineRow_of_some {l : Nat} (h : (tpOf s (laneT l)).rc.pend.find? (fun q => q.lane == l) = some p) :
    deadlineRow l s = notDecoded p (bumpFld (Reg.rcEng (p.eng / 32) (p.eng % 32)) Fld.rcEngDlmiss s) := by
  rw [deadlineRow, h]
  rfl

end Engine

/-- Settles O49: a lane's arrival follows its module, head, mode and framing; the codeword's outcome follows C1 and its counts. -/
theorem codewordsDecode : Obligations.CodewordsDecode := by
  unfold Obligations.CodewordsDecode
  intro l eng adc fault p a r m s t v
  refine ⟨fun h => ?_, fun ho hm => ⟨fun hf h1 h2 => ?_, ?_⟩, fun h => ?_, fun h => ?_, fun h ha => ?_, fun h => ?_, fun h => ?_⟩
  · exact next_congr (congrArg settleHost (slotArrive_of_away h adc))
  · exact next_congr (congrArg settleHost (slotArrive_of_idle ho hm hf h1 h2))
  · intro hf hmode h12 hov hp w y hlen hj he slot ha
    have hw : Feeds l.val s w := (feeds_capLane l.val adc s).trans (feeds_fed l.val m adc v)
    have hslot := slotArrive_of_framed ho hm hf hmode h12 hov hp hlen
    have hcw := arriveFramed_of_attempts hj he ha
    refine ⟨_, cwOf l.val m y.at' (maybeNext w l.val m y.slot) y.doneKey (a :: r) w, next_congr (congrArg settleHost (hslot.trans hcw)), ?_,
      rfl, rfl, rfl, rfl, rfl, laneEngine_of_feeds hw, ?_, rfl⟩
    · rw [pend_takeRcMode, pend_modLane, pend_pushPend, hw.1]
    · obtain ⟨-, hmot, -, -, hclk⟩ := hw
      show w.clk * 800 + slotPs w (laneT l) = _
      rw [hclk, slotPs_of_mot hmot]
  · exact next_congr (congrArg settleHost (ldpcRow_of_none h fault))
  · exact next_congr (congrArg settleHost (ldpcRow_of_fault h))
  · have hrow := (ldpcRow_of_good h).trans (ldpcStep_of_attempt ha)
    refine ⟨fun hb => ?_, fun hb hend => ?_, fun hb h12 h3 => ?_⟩
    · exact next_congr (congrArg settleHost (hrow.trans (if_pos hb)))
    · exact next_congr (congrArg settleHost (hrow.trans ((if_neg hb).trans (if_pos hend))))
    · exact next_congr (congrArg settleHost (hrow.trans ((if_neg hb).trans (if_neg (by tauto)))))
  · exact next_congr (congrArg settleHost (deadlineRow_of_none h))
  · exact next_congr (congrArg settleHost (deadlineRow_of_some h))

end Sys2Proof.Machine
end

section
/-! Lanes, LDPC engines, capture and lane faults (R20, R30, R34, R103, R113, R116, R117, R128, R130, R143, R145, R155). -/
namespace Sys2Proof.Machine
open Sys2Proof.Safety

/-! ### Reports leave the registers -/

theorem modRc_regs (t : Tid) (f : RcT → RcT) (s : State) : (modRc t f s).regs = s.regs := rfl

theorem modLane_regs (l : Nat) (f : RLane → RLane) (s : State) : (modLane l f s).regs = s.regs := rfl

theorem takeFree_regs (s : State) : (takeFree s).2.regs = s.regs := rfl

theorem takeFree_tp (s : State) : (takeFree s).2.tp = s.tp := rfl

theorem modStream_regs (i : Nat) (f : Stream → Stream) (s : State) : (modStream i f s).regs = s.regs := by
  unfold modStream
  split <;> rfl

theorem capTrigger_regs (c n : Nat) (s : State) : (capTrigger c n s).regs = s.regs := by
  unfold capTrigger
  split <;> rfl

theorem capTriggers_regs (l trig : Nat) (s : State) : (capTriggers l trig s).regs = s.regs := by
  refine forAll_keeps (g := State.regs) (fun n u => ?_) _ s
  split
  · exact capTrigger_regs _ _ u
  · rfl

theorem sendReport_regs (t : Tid) (r : BitVec 128) (s : State) : (sendReport t r s).regs = s.regs := by
  unfold sendReport
  extract_lets u
  have hu : u.regs = s.regs := by
    unfold u
    split <;> rfl
  split
  · rw [capTriggers_regs, hu]
  · exact hu

theorem readDsnum_regs (t : Tid) (s : State) : (readDsnum t s).2.regs = s.regs := by
  unfold readDsnum
  split <;> rfl

theorem readMark_regs (t : Tid) (b : List Byte) (s : State) : (readMark t b s).regs = s.regs := by
  unfold readMark
  extract_lets p
  split
  · exact forAll_keeps (g := State.regs) (fun x u => modStream_regs _ _ u) _ s
  · rfl

theorem sendRead_regs (t : Tid) (low : BitVec 128) (kind idx b : Nat) (bytes : Option (List Byte)) (s : State) :
    (sendRead t low kind idx b bytes s).regs = s.regs := by
  unfold sendRead
  extract_lets d u
  have hu : u.regs = s.regs := (sendReport_regs _ _ _).trans (readDsnum_regs t s)
  clear_value u
  split
  · exact hu
  · split
    · exact hu
    · split
      · rw [readMark_regs, hu]
      · rw [modRc_regs, hu]

theorem sendHeld_regs (t : Tid) (h : HeldRw) (s : State) : (sendHeld t h s).regs = s.regs := by
  unfold sendHeld
  extract_lets x n
  split
  · split
    · exact sendRead_regs _ _ _ _ _ _ s
    · split <;> exact sendRead_regs _ _ _ _ _ _ s
  · exact sendRead_regs _ _ _ _ _ _ s

theorem releaseHeld_regs (t : Tid) (force : Bool) (s : State) : (releaseHeld t force s).regs = s.regs := by
  unfold releaseHeld
  extract_lets x
  split
  · rw [forAll_keeps (g := State.regs) (fun h u => sendHeld_regs t h u), modRc_regs]
  · rfl

theorem directoryIn_regs (t : Tid) (k : Nat) (b : Option (List Byte)) (s : State) : (directoryIn t k b s).regs = s.regs := by
  unfold directoryIn
  extract_lets u
  have hu : u.regs = s.regs := modRc_regs _ _ _
  clear_value u
  rw [releaseHeld_regs, hu]

theorem reportSlot_regs (mode l slot note kind : Nat) (low : BitVec 128) (bytes : Option (List Byte)) (s : State) :
    (reportSlot mode l slot note kind low bytes s).regs = s.regs := by
  unfold reportSlot
  extract_lets t k x u reserve
  have hu : u.regs = s.regs := modRc_regs _ _ _
  clear_value reserve u
  split
  · split
    · rfl
    · split
      · rfl
      · exact sendReport_regs _ _ s
  · split
    · rw [directoryIn_regs, sendRead_regs]
    · split
      · exact sendRead_regs _ _ _ _ _ _ s
      · split
        · rw [releaseHeld_regs, modRc_regs, hu]
        · rw [sendRead_regs, hu]

/-! ### Capture (R155) -/

section Capture
variable {c n : Nat} {s : State}

theorem tokenHeld_withMem (s : State) (m : Mem) (k : SMap CapCh) (a : Nat) (tok : W32) :
    tokenHeld { s with mem := m, caps := k } a tok = tokenHeld s a tok := rfl

/-- The ring byte of a sample, with the mark of an overflow before it. -/
def capByte (ch : CapCh) (x : BitVec 6) : Byte := BitVec.ofNat 8 (x.toNat + if ch.mark then 128 else 0)

/-- A sample that an armed channel writes. -/
def capWritten (c n : Nat) (x : BitVec 6) (s : State) : State :=
  let ch := s.caps.get CapCh.reset (4 * c + n)
  let next := if ch.pos + 1 < fld s (Reg.rcCaplen c n) Fld.rcCaplenLength then ch.pos + 1 else 0
  let trig := s.capTrig.contains (4 * c + n)
  let tok := reg s (Reg.rcCaptok c n)
  modCap c n (fun y => { y with pos := next, left := if trig then y.left - 1 else y.left, mark := false })
    { s with mem := { s.mem with hbm := s.mem.hbm.set 0 (tokAddr s tok + ch.pos) (capByte ch x) } }

theorem capWritten_regs (x : BitVec 6) : (capWritten c n x s).regs = s.regs := rfl

theorem capWritten_capTrig (x : BitVec 6) : (capWritten c n x s).capTrig = s.capTrig := rfl

theorem capWritten_ch (x : BitVec 6) : ((capWritten c n x s).caps.get CapCh.reset (4 * c + n)).pos
      = (if (s.caps.get CapCh.reset (4 * c + n)).pos + 1 < fld s (Reg.rcCaplen c n) Fld.rcCaplenLength
        then (s.caps.get CapCh.reset (4 * c + n)).pos + 1 else 0)
    ∧ ((capWritten c n x s).caps.get CapCh.reset (4 * c + n)).left = (if s.capTrig.contains (4 * c + n)
        then (s.caps.get CapCh.reset (4 * c + n)).left - 1 else (s.caps.get CapCh.reset (4 * c + n)).left) := by
  unfold capWritten modCap
  dsimp only
  rw [SMap.get_set_self]
  exact ⟨rfl, rfl⟩

theorem capSample_of_armed (ha : fld s (Reg.rcCaplane c n) Fld.rcCaplaneArm = 1) (ht : tokenHeld s 3 (reg s (Reg.rcCaptok c n)) = true)
    (hl : ¬(s.capTrig.contains (4 * c + n) = true ∧ (s.caps.get CapCh.reset (4 * c + n)).left = 0)) (x : BitVec 6) :
    capSample c n s x = capWritten c n x s := by
  unfold capSample
  extract_lets ch trig tok
  rw [if_neg (not_not.mpr ha), if_neg hl, if_neg (by rw [ht]; decide)]
  rfl

theorem capSample_of_off (ha : fld s (Reg.rcCaplane c n) Fld.rcCaplaneArm ≠ 1) (x : BitVec 6) : capSample c n s x = s := if_pos ha

/-- A channel that has stopped (R155). -/
def CapStopped (c n : Nat) (u : State) : Prop :=
  fld u (Reg.rcCaplane c n) Fld.rcCaplaneArm = 0 ∧ fld u (Reg.rcCapstat c n) Fld.rcCapstatDone = 1
    ∧ fld u (Reg.rcCapstat c n) Fld.rcCapstatWptr = (u.caps.get CapCh.reset (4 * c + n)).pos % 2 ^ 23 ∧ (4 * c + n) ∉ u.capTrig

theorem rcCaplane_ne_rcCapstat : Reg.rcCaplane c n ≠ Reg.rcCapstat c n := by
  simp only [Reg.rcCaplane, Reg.rcCapstat]
  omega

theorem setFld_caps (off : Nat) (f : Fld) (x : Nat) (s : State) : (setFld off f x s).caps = s.caps := rfl

theorem capStopped_withTrig {u : State} {l : List Nat} (ha : fld u (Reg.rcCaplane c n) Fld.rcCaplaneArm = 0)
    (hd : fld u (Reg.rcCapstat c n) Fld.rcCapstatDone = 1)
    (hw : fld u (Reg.rcCapstat c n) Fld.rcCapstatWptr = (u.caps.get CapCh.reset (4 * c + n)).pos % 2 ^ 23)
    (hl : (4 * c + n) ∉ l) : CapStopped c n { u with capTrig := l } := ⟨ha, hd, hw, hl⟩

theorem capStopped_endCapture : CapStopped c n (endCapture c n s) := by
  unfold endCapture
  extract_lets a b d
  have ha : fld a (Reg.rcCaplane c n) Fld.rcCaplaneArm = 0 := fld_setFld_self (by decide) _ 0 s
  have hb : fld b (Reg.rcCaplane c n) Fld.rcCaplaneArm = 0 := (fld_setFld_ne rcCaplane_ne_rcCapstat _ _ _ _).trans ha
  have hw : fld b (Reg.rcCapstat c n) Fld.rcCapstatWptr = (a.caps.get CapCh.reset (4 * c + n)).pos % 2 ^ 23 :=
    fld_setFld_self (by decide) _ _ _
  have hcb : b.caps = a.caps := setFld_caps _ _ _ _
  clear_value b a
  have hd : fld d (Reg.rcCaplane c n) Fld.rcCaplaneArm = 0 := (fld_setFld_ne rcCaplane_ne_rcCapstat _ _ _ _).trans hb
  have hdone : fld d (Reg.rcCapstat c n) Fld.rcCapstatDone = 1 := fld_setFld_self (by decide) _ 1 _
  have hwd : fld d (Reg.rcCapstat c n) Fld.rcCapstatWptr = _ := (fld_setFld_disjoint (by decide) (by decide) _ 1 _).trans hw
  have hcd : d.caps = b.caps := setFld_caps _ _ _ _
  clear_value d
  exact capStopped_withTrig hd hdone (by rw [hwd, hcd, hcb]) (by simp)

theorem capRun_of_stopped {u : State} (h : CapStopped c n u) (l : List (BitVec 6)) : capRun c n l u = u := by
  obtain ⟨ha, -, -, -⟩ := h
  have hoff : fld u (Reg.rcCaplane c n) Fld.rcCaplaneArm ≠ 1 := by omega
  have hl : l.foldl (capSample c n) u = u := by
    induction l with
    | nil => rfl
    | cons x r ih => rw [List.foldl_cons, capSample_of_off hoff, ih]
  unfold capRun
  extract_lets w
  rw [show w = u from hl, if_neg (fun h => hoff h.2.2)]

theorem capRun_cons (x : BitVec 6) (l : List (BitVec 6)) : capRun c n (x :: l) s = capRun c n l (capSample c n s x) := rfl

/-- A triggered channel stops once its samples after the trigger are over. -/
theorem capStopped_capRun (l : List (BitVec 6)) (s : State) (ha : fld s (Reg.rcCaplane c n) Fld.rcCaplaneArm = 1)
    (ht : tokenHeld s 3 (reg s (Reg.rcCaptok c n)) = true) (hc : s.capTrig.contains (4 * c + n) = true)
    (hl : (s.caps.get CapCh.reset (4 * c + n)).left ≤ l.length) : CapStopped c n (capRun c n l s) := by
  induction l generalizing s with
  | nil =>
    have h0 : (s.caps.get CapCh.reset (4 * c + n)).left = 0 := Nat.le_zero.mp hl
    have hrun : capRun c n [] s = endCapture c n s := if_pos ⟨hc, h0, ha⟩
    rw [hrun]
    exact capStopped_endCapture
  | cons x r ih =>
    rw [capRun_cons]
    by_cases h0 : (s.caps.get CapCh.reset (4 * c + n)).left = 0
    · have hend : capSample c n s x = endCapture c n s := (if_neg (not_not.mpr ha)).trans (if_pos ⟨hc, h0⟩)
      rw [hend, capRun_of_stopped capStopped_endCapture]
      exact capStopped_endCapture
    · rw [capSample_of_armed ha ht (fun h => h0 h.2)]
      refine ih _ ?_ ?_ ?_ ?_
      · rwa [fld_of_regs (capWritten_regs x)]
      · rw [reg_of_regs (capWritten_regs x)]
        exact ht
      · rwa [capWritten_capTrig]
      · rw [(capWritten_ch x).2, if_pos hc]
        rw [List.length_cons] at hl
        omega

theorem stopCapture_of_off (h : fld s (Reg.rcCaplane c n) Fld.rcCaplaneArm = 0) (l : List (BitVec 6)) : stopCapture c n l s = s :=
  if_neg (by omega)

theorem stopCapture_of_armed (h : fld s (Reg.rcCaplane c n) Fld.rcCaplaneArm = 1) (l : List (BitVec 6)) :
    stopCapture c n l s = capRun c n l s := if_pos h

theorem capRun_single (ha : fld s (Reg.rcCaplane c n) Fld.rcCaplaneArm = 1) (ht : tokenHeld s 3 (reg s (Reg.rcCaptok c n)) = true)
    (hc : s.capTrig.contains (4 * c + n) = false) (x : BitVec 6) : capRun c n [x] s = capWritten c n x s := by
  rw [capRun_cons, capSample_of_armed ha ht (by rw [hc]; exact fun h => nomatch h.1)]
  exact if_neg (by rw [List.foldl_nil, capWritten_capTrig, hc]; exact fun h => nomatch h.1)

theorem withCaps_regs (s : State) (l : List Nat) (k : SMap CapCh) : ({ s with capTrig := l, caps := k } : State).regs = s.regs := rfl

theorem armCapture_of_refused (h2 : fld s (Reg.rcCaplane c n) Fld.rcCaplaneTrig ≠ 2) (ht : tokenHeld s 3 (reg s (Reg.rcCaptok c n)) = false) :
    armCapture c n s = raiseFld (Reg.rcCapstat c n) Fld.rcCapstatErr s := if_pos ⟨h2, by rw [ht]; rfl⟩

theorem armCapture_of_taken (h : fld s (Reg.rcCaplane c n) Fld.rcCaplaneTrig = 2 ∨ tokenHeld s 3 (reg s (Reg.rcCaptok c n)) = true) :
    fld (armCapture c n s) (Reg.rcCaplane c n) Fld.rcCaplaneArm = 1 ∧ reg (armCapture c n s) (Reg.rcCapstat c n) = 0 := by
  unfold armCapture
  extract_lets tok trig a b
  have ha : fld a (Reg.rcCaplane c n) Fld.rcCaplaneArm = 1 ∧ reg a (Reg.rcCapstat c n) = 0 := by
    have hr : fld (raiseFld (Reg.rcCaplane c n) Fld.rcCaplaneArm s) (Reg.rcCaplane c n) Fld.rcCaplaneArm = 1 :=
      fld_setFld_self (by decide) _ 1 s
    unfold a
    generalize raiseFld (Reg.rcCaplane c n) Fld.rcCaplaneArm s = z at hr ⊢
    rw [fld, reg_setReg_ne _ _ _ _ rcCaplane_ne_rcCapstat, reg_setReg]
    exact ⟨hr, rfl⟩
  clear_value a
  have hb : b.regs = a.regs := withCaps_regs a _ _
  clear_value b
  rw [if_neg (by rintro ⟨h2, ht⟩; rcases h with h | h <;> simp_all [tok, trig])]
  split
  · rw [fld_of_regs ((capTrigger_regs c n b).trans hb), reg_of_regs ((capTrigger_regs c n b).trans hb)]
    exact ha
  · rw [fld_of_regs hb, reg_of_regs hb]
    exact ha

end Capture

end Sys2Proof.Machine
end

section
/-! Read lanes, LDPC engines, capture and lane faults: the rows (R20, R30, R34, R103, R113, R116, R117, R128, R130, R143, R145, R155). -/
namespace Sys2Proof.Machine
open Sys2Proof.Safety

/-! ### Accesses of a chiplet -/

section Chiplet
variable {c off : Nat} {f : State → State} {s : State}

theorem byChiplet_puppeteer (h : chipletDown s off = false) : byChiplet .puppeteer c off f s = f s := by
  unfold byChiplet
  rw [h]
  rfl

theorem byChiplet_puppeteer_of_down (h : chipletDown s off = true) : byChiplet .puppeteer c off f s = logAccess off s := by
  unfold byChiplet
  rw [h]
  rfl

theorem byDebug_puppeteer (ts : List Nat) : byDebug .puppeteer ts off f s = f s := rfl

end Chiplet

/-! ### Modes -/

section Mode
variable {t : Tid} {s : State}

theorem takeRcMode_regs (l : Nat) (s : State) : (takeRcMode l s).regs = s.regs := rfl

theorem setRcMode_regs (m : Nat) (s : State) : (setRcMode t m s).regs = (if m = 3 ∧ rcMode s t ≠ 3 then
    setReg (Reg.rcCalres t 0) 0 (setReg (Reg.rcCalres t 1) 0 (setFld (Reg.rcMode t) Fld.rcModeMode m s)) else
    setFld (Reg.rcMode t) Fld.rcModeMode m s).regs := by
  unfold setRcMode
  dsimp only
  generalize (if m = 3 ∧ rcMode s t ≠ 3 then setReg (Reg.rcCalres t 0) 0 (setReg (Reg.rcCalres t 1) 0
      (setFld (Reg.rcMode t) Fld.rcModeMode m s)) else setFld (Reg.rcMode t) Fld.rcModeMode m s) = z
  split
  · rfl
  · split
    · exact forAll_keeps (g := State.regs) (fun _ _ => takeRcMode_regs _ _) _ z
    · split
      · exact forAll_keeps (g := State.regs) (fun _ _ => modLane_regs _ _ _) _ z
      · rfl

theorem calres_setRcMode (h : rcMode s t ≠ 3) : reg (setRcMode t 3 s) (Reg.rcCalres t 0) = 0 ∧ reg (setRcMode t 3 s) (Reg.rcCalres t 1) = 0 := by
  have hne : Reg.rcCalres t 1 ≠ Reg.rcCalres t 0 := by
    simp only [Reg.rcCalres]
    omega
  rw [reg_of_regs (setRcMode_regs 3 s), reg_of_regs (setRcMode_regs 3 s), if_pos ⟨rfl, h⟩]
  generalize setFld (Reg.rcMode t) Fld.rcModeMode 3 s = z
  rw [reg_setReg, reg_setReg_ne _ _ _ _ hne, reg_setReg]
  exact ⟨rfl, rfl⟩

end Mode

theorem rcModeRow_of_up {m : Nat} {t : Tid} {s : State} (h : chipletDown s (Reg.rcMode t) = false) :
    rcModeRow .puppeteer t m s = setRcMode t m s := by
  unfold rcModeRow
  rw [byDebug_puppeteer, h]
  rfl

theorem rcModeRow_of_down {m : Nat} {t : Tid} {s : State} (h : chipletDown s (Reg.rcMode t) = true) :
    rcModeRow .puppeteer t m s = logAccess (Reg.rcMode t) s := by
  unfold rcModeRow
  rw [byDebug_puppeteer, h]
  rfl

theorem rcModeRow_of_denied {m : Nat} {t : Tid} {ep : Fin 4} {s : State} (hr : romHeld (.host ep) s = false) (hd : dbgEn s t = false) :
    rcModeRow (.host ep) t m s = logAccess (Reg.rcMode t) (wakeUp s) := byDebug_of_denied ((srcMay_host ep t s).trans hd) hr

/-! ### A sample is lost (R30, R130) -/

theorem lossOfLock_of_lost {l : Nat} {s : State} (h : (getLane s l).loops.lost = true) : lossOfLock l s = loseLock l s := if_pos h

theorem lossOfLock_of_locked {l : Nat} {s : State} (h : (getLane s l).loops.lost = false) : lossOfLock l s = s := if_neg (by rw [h]; decide)

theorem toSearch_spec (x : RLane) : (toSearch x).framed = false ∧ (toSearch x).fresh = true ∧ (toSearch x).flyPos = none
    ∧ (toSearch x).nodec = 0 := ⟨rfl, rfl, rfl, rfl⟩

/-- An event of the clock crossings stands, with the lane it names (R30). -/
def Crossed (f : Fld) (l : Nat) (s : State) : Prop := fld s Reg.glbCdcerr f = 1 ∧ fld s Reg.glbCdccnt Fld.glbCdccntLastLane = l

theorem Crossed.of_regs {f : Fld} {l : Nat} {s u : State} (h : Crossed f l s) (hr : u.regs = s.regs) : Crossed f l u :=
  ⟨(fld_of_regs hr _ _).trans h.1, (fld_of_regs hr _ _).trans h.2⟩

theorem crossed_cdcEvent {f : Fld} {l : Nat} (hf : f.lo + f.w ≤ 32) (hw : f.w = 1) (hl : l < 2 ^ 16) (s : State) :
    Crossed f l (cdcEvent f (some l) s) := by
  constructor
  · exact (fld_setFld_ne (by decide) _ _ _ _).trans ((fld_setFld_ne (by decide) _ _ _ _).trans
      ((fld_setFld_self hf _ 1 s).trans (by rw [hw]; decide)))
  · exact (fld_setFld_self (by decide) _ _ _).trans (Nat.mod_eq_of_lt hl)

theorem crossed_setFld {f g : Fld} {l a x : Nat} {s : State} (h : Crossed f l s) (ha : 0x1000000 ≤ a) : Crossed f l (setFld a g x s) := by
  constructor
  · exact (fld_setFld_ne (by simp only [Reg.glbCdcerr]; omega) _ _ _ _).trans h.1
  · exact (fld_setFld_ne (by simp only [Reg.glbCdccnt]; omega) _ _ _ _).trans h.2

theorem cdcEvent_tp (f : Fld) (l : Nat) (s : State) : (cdcEvent f (some l) s).tp = s.tp := by
  unfold cdcEvent
  dsimp only
  rw [setFld_tp, bumpFld_tp, raiseFld_tp]

/-- Every armed capture channel of the lane marks its next sample (R155). -/
def markSamples (l : Nat) (s : State) : State :=
  forAll (List.range 4) (fun n s =>
    if fld s (Reg.rcCaplane (l / 256) n) Fld.rcCaplaneLane = l % 256 ∧ fld s (Reg.rcCaplane (l / 256) n) Fld.rcCaplaneArm = 1
    then modCap (l / 256) n (fun c => { c with mark := true }) s else s) s

theorem markSamples_regs (l : Nat) (s : State) : (markSamples l s).regs = s.regs := by
  refine forAll_keeps (g := State.regs) (fun n u => ?_) _ s
  split <;> rfl

theorem markSamples_tp (l : Nat) (s : State) : (markSamples l s).tp = s.tp := by
  refine forAll_keeps (g := State.tp) (fun n u => ?_) _ s
  split <;> rfl

theorem forAll_of_fixed {α : Type} {f : α → State → State} {s : State} (l : List α) (h : ∀ a ∈ l, f a s = s) : forAll l f s = s := by
  induction l with
  | nil => rfl
  | cons a r ih =>
    show forAll r f (f a s) = s
    rw [h a (by simp), ih (fun b hb => h b (by simp [hb]))]

theorem markSamples_of_off {l : Nat} {s : State} (h : ∀ n < 4, fld s (Reg.rcCaplane (l / 256) n) Fld.rcCaplaneArm ≠ 1) : markSamples l s = s :=
  forAll_of_fixed _ (fun n hn => if_neg (fun hc => h n (List.mem_range.mp hn) hc.2))

theorem arm_cdcEvent (f : Fld) (l c n : Nat) (s : State) :
    fld (cdcEvent f (some l) s) (Reg.rcCaplane c n) Fld.rcCaplaneArm = fld s (Reg.rcCaplane c n) Fld.rcCaplaneArm := by
  have h1 : Reg.rcCaplane c n ≠ Reg.glbCdccnt := by
    simp only [Reg.rcCaplane, Reg.glbCdccnt]
    omega
  have h2 : Reg.rcCaplane c n ≠ Reg.glbCdcerr := by
    simp only [Reg.rcCaplane, Reg.glbCdcerr]
    omega
  exact (fld_setFld_ne h1 _ _ _ _).trans ((fld_setFld_ne h1 _ _ _ _).trans (fld_setFld_ne h2 _ _ _ _))

theorem adcOverflow_of_idle {l : Nat} {s : State} (h1 : (getLane s l).mode ≠ 1) (h2 : (getLane s l).mode ≠ 2)
    (ha : ∀ n < 4, fld s (Reg.rcCaplane (l / 256) n) Fld.rcCaplaneArm ≠ 1) :
    adcOverflow l s = cdcEvent Fld.glbCdcerrSampleOvf (some l) s := by
  have hm : markSamples l (cdcEvent Fld.glbCdcerrSampleOvf (some l) s) = cdcEvent Fld.glbCdcerrSampleOvf (some l) s :=
    markSamples_of_off (fun n hn => by rw [arm_cdcEvent]; exact ha n hn)
  unfold adcOverflow
  extract_lets mode x u v
  rw [if_neg (by simp [mode, h1, h2])]
  exact hm

theorem loseLock_spec (l : Nat) (f : RLane → RLane) (hf : ∀ x, (f x).framed = x.framed) (s : State) :
    (getLane (modLane l f (loseLock l s)) l).framed = false := by
  rw [getLane_modLane, hf, loseLock, getLane_of_tp (bumpFld_tp _ _ _), getLane_modLane]
  rfl

theorem crossed_loseLock {f : Fld} {l k : Nat} {s : State} (h : Crossed f l s) : Crossed f l (loseLock k s) := by
  refine crossed_setFld (h.of_regs (modLane_regs _ _ s)) ?_
  simp only [Reg.rcLcnt]
  omega

theorem adcOverflow_of_mode {l : Nat} (hl : l < 2 ^ 16) {s : State} (h : (getLane s l).mode = 1 ∨ (getLane s l).mode = 2) :
    (getLane (adcOverflow l s) l).framed = false ∧ (getLane (adcOverflow l s) l).overflow = true
      ∧ Crossed Fld.glbCdcerrSampleOvf l (adcOverflow l s) := by
  unfold adcOverflow
  extract_lets mode x u v w
  have hu : Crossed Fld.glbCdcerrSampleOvf l u := crossed_cdcEvent (by decide) rfl hl s
  have hv : Crossed Fld.glbCdcerrSampleOvf l v := hu.of_regs (markSamples_regs l u)
  have hw : Crossed Fld.glbCdcerrSampleOvf l w := by
    unfold w
    split
    · exact hv.of_regs (reportSlot_regs _ _ _ _ _ _ _ v)
    · exact hv
  clear_value w
  rw [if_pos h]
  refine ⟨loseLock_spec l _ (by intro y; rfl) w, ?_, (crossed_loseLock hw).of_regs (modLane_regs _ _ _)⟩
  rw [getLane_modLane]

/-! ### LDPC engines (R143) -/

section Engines
variable {e : Nat} {s : State}

/-- A register of a read chiplet. -/
theorem notice_regs_below {a : Nat} (h : 0x1000000 ≤ a) (code : Nat) (s : State) : reg (notice code s) a = reg s a := by
  unfold notice
  split
  · rfl
  · refine reg_raiseFld_ne ?_ _ _
    simp only [Reg.hifNotice]
    omega

theorem engRetired_of_reg {s u : State} (h : reg u (Reg.rcEng (e / 32) (e % 32)) = reg s (Reg.rcEng (e / 32) (e % 32))) :
    engRetired u e = engRetired s e := by rw [engRetired, fld, h, engRetired, fld]

theorem rcEng_ge (e : Nat) : 0x1000000 ≤ Reg.rcEng (e / 32) (e % 32) := by
  simp only [Reg.rcEng]
  omega

theorem markRetired_reg {a : Nat} (h : 0x1000000 ≤ a) (u : BitVec 16) (s : State) : reg (markRetired u s) a = reg s a := by
  unfold markRetired
  split
  · rfl
  · exact notice_regs_below h 2 _

theorem rehomeLane_regs (e l : Nat) (s : State) : (rehomeLane e l s).regs = s.regs := by
  unfold rehomeLane
  split <;> rfl

theorem engRetired_setFld (x : Nat) (hx : x < 2) (s : State) :
    engRetired (setFld (Reg.rcEng (e / 32) (e % 32)) Fld.rcEngRetired x s) e = (x == 1) := by
  rw [engRetired, fld_setFld_self (by decide), Nat.mod_eq_of_lt (show x < 2 ^ Fld.rcEngRetired.w from hx)]

theorem engPend_of_none (h : ∀ t, (tpOf s t).rc.pend = []) : engPend s e = [] := by
  have hall : allT.flatMap (fun t => (tpOf s t).rc.pend) = [] := by
    rw [List.flatMap_eq_nil_iff]
    exact fun t _ => h t
  rw [engPend, hall, List.filter_nil]

theorem engRetired_retireEngine (h : engRetired s e = false) (hp : ∀ t, (tpOf s t).rc.pend = []) : engRetired (retireEngine e s) e = true := by
  unfold retireEngine
  extract_lets u v
  have hu : engRetired u e = true := engRetired_setFld 1 (by decide) s
  have htp : u.tp = s.tp := setFld_tp _ _ _ _
  have hv : v = u := by
    show forAll (engPend u e) notDecoded u = u
    rw [engPend_of_none (fun t => by rw [tpOf, htp]; exact hp t)]
    rfl
  rw [if_neg (by rw [h]; decide), hv]
  clear_value v u
  rw [engRetired_of_reg ((markRetired_reg (rcEng_ge e) _ _).trans
    (reg_of_regs (forAll_keeps (g := State.regs) (fun l u => rehomeLane_regs e l u) _ u) _)), hu]

theorem engRetired_returnEngine (h : engRetired s e = true) : engRetired (returnEngine e s) e = false := by
  unfold returnEngine
  extract_lets u
  have hu : engRetired u e = false := engRetired_setFld 0 (by decide) s
  clear_value u
  rw [if_pos h, engRetired_of_reg ((reg_of_regs (markReturned_keeps _ _).2 _).trans
    (reg_of_regs (forAll_keeps (g := State.regs) (fun l u => modLane_regs l _ u) _ u) _)), hu]

end Engines

/-! ### Lane faults (R113, R116, R117) -/

section Faults
variable {t : Tid} {k : Nat} {s : State}

/-- What stands before a lane is retired: the dataset, and the counts of the fault (R113). -/
theorem laneFault_eq (t : Tid) (k cause : Nat) (s : State) : ∃ u : State, u.tp = s.tp
    ∧ ∃ d, laneFault t k cause s = retireLane t k cause d u := by
  unfold laneFault
  extract_lets d
  have hd : d.2.tp = s.tp := by
    show (laneDs t s).2.tp = _
    unfold laneDs
    split <;> rfl
  refine ⟨_, ?_, _, rfl⟩
  rw [bumpFld_tp, countEvent, setFld_tp, bumpFld_tp, hd]

theorem laneFault_of_failed (h : bitOf (tpOf s t).vfy.failmask.toNat k = true) (cause : Nat) : tpOf (laneFault t k cause s) t = tpOf s t := by
  obtain ⟨u, hu, d, hd⟩ := laneFault_eq t k cause s
  have htu : tpOf u t = tpOf s t := by rw [tpOf, hu, tpOf]
  rw [hd, retireLane, htu, if_pos h, htu]

theorem laneFault_of_live (h : bitOf (tpOf s t).vfy.failmask.toNat k = false) (cause : Nat) :
    (tpOf (laneFault t k cause s) t).vfy.failmask = (tpOf s t).vfy.failmask ||| BitVec.ofNat 64 (2 ^ k)
      ∧ ((tpOf (laneFault t k cause s) t).vfy.lanes.get Lane.reset k).cause = cause := by
  obtain ⟨u, hu, d, hd⟩ := laneFault_eq t k cause s
  have htu : tpOf u t = tpOf s t := by rw [tpOf, hu, tpOf]
  have hv : (tpOf (retireLane t k cause d u) t).vfy = { (tpOf s t).vfy with
      failmask := (tpOf s t).vfy.failmask ||| BitVec.ofNat 64 (2 ^ k)
      lanes := (tpOf s t).vfy.lanes.set Lane.reset k { (tpOf s t).vfy.lanes.get Lane.reset k with cause := cause } } := by
    unfold retireLane
    dsimp only
    rw [htu, if_neg (by rw [h]; decide), tpOf_regrant Tp.vfy (fun _ _ => rfl), tpOf, raiseFld_tp, markRetired_tp, logFault_tp, logFault_tp,
      ← tpOf, setEvent, tpOf_modTp, tpOf_modTp, htu]
  rw [hd, hv]
  exact ⟨rfl, congrArg Lane.cause (SMap.get_set_self _ _ _ _)⟩

theorem laneReturn_of_running (h : (tpOf s t).seq.st = .running ∨ (tpOf s t).seq.st = .waiting) :
    laneReturn t k s = logIgnored (unitId 0 (64 * t.val + k)) 2 s := if_pos h

theorem laneReturn_of_stopped (h1 : (tpOf s t).seq.st ≠ .running) (h2 : (tpOf s t).seq.st ≠ .waiting) :
    (tpOf (laneReturn t k s) t).vfy.failmask = (tpOf s t).vfy.failmask &&& ~~~(BitVec.ofNat 64 (2 ^ k)) := by
  unfold laneReturn
  extract_lets x lane u
  have hu : (tpOf u t).vfy.failmask = (tpOf s t).vfy.failmask &&& ~~~(BitVec.ofNat 64 (2 ^ k)) := by
    show (tpOf (modVfy _ _ _) t).vfy.failmask = _
    rw [tpOf_modVfy]
  rw [if_neg (by rintro (h | h); exacts [h1 h, h2 h])]
  split
  · rw [tpOf_regrant Tp.vfy (fun _ _ => rfl), tpOf, logFault_tp, (markReturned_keeps _ _).1]
    exact hu
  · exact hu

end Faults

/-! ### A lane that writes runs empty (R30, R97) -/

section Underrun
variable {l m : Nat} {s : State}

/-- The event and the count of an underrun, and the lane's cut in the gap fill. -/
def underran (l m : Nat) (s : State) : State :=
  let f := takeFree (cdcEvent Fld.glbCdcerrWlUnderrun (some l) (bumpFld (Reg.wlCnt (laneT l)) Fld.wlCntUnderrun s))
  modWl (laneT l) (fun w => { w with out := cutLane (laneK l) m f.1 w.out }) f.2

theorem underran_spec (hl : l < 2 ^ 16) : Crossed Fld.glbCdcerrWlUnderrun l (underran l m s)
    ∧ (tpOf (underran l m s) (laneT l)).vfy = (tpOf s (laneT l)).vfy := by
  constructor
  · exact (crossed_cdcEvent (by decide) rfl hl _).of_regs rfl
  · unfold underran
    dsimp only
    rw [tpOf_modWl, tpOf, takeFree_tp, cdcEvent_tp, bumpFld_tp]
    rfl

theorem wlUnderrunOp_of_still (h : (tpOf s (laneT l)).wl.cur = none ∧ (tpOf s (laneT l)).wl.gap = false
    ∨ bitOf (tpOf s (laneT l)).head.missing.toNat (laneK l) = true) : wlUnderrunOp l m s = s := by
  refine if_neg ?_
  rintro ⟨hc, hm⟩
  rcases h with ⟨hn, hg⟩ | hb
  · rw [hn, hg] at hc
    exact absurd hc (by decide)
  · rw [hb] at hm
    exact Bool.noConfusion hm

theorem wlUnderrunOp_of_writing (h : (tpOf s (laneT l)).wl.cur.isSome = true ∨ (tpOf s (laneT l)).wl.gap = true)
    (hm : bitOf (tpOf s (laneT l)).head.missing.toNat (laneK l) = false) : wlUnderrunOp l m s
    = match (tpOf s (laneT l)).wl.cur with
      | some c => if c.op = 1 then damaged (laneT l) ((tpOf s (laneT l)).wl.exts.headD Extent.reset) (laneK l) m (underran l m s) else underran l m s
      | none => underran l m s := if_pos ⟨h, hm⟩

end Underrun

/-! ### The three groups of rows -/

/-- A lane's lock, a lost sample, and RC_MODE. -/
theorem lanes_and_modes (l : Fin 512) (t : Tid) (m : BitVec 2) (ep : Fin 4) (s : State) :
    ((getLane s l.val).loops.lost = true → exec (.lossOfLock l) s = .next
        (bumpFld (Reg.rcLcnt (l.val / 64) (l.val % 64)) Fld.rcLcntLoss (modLane l.val toSearch s)))
    ∧ ((getLane s l.val).loops.lost = false → exec (.lossOfLock l) s = .next s)
    ∧ (∀ x, (toSearch x).framed = false ∧ (toSearch x).fresh = true ∧ (toSearch x).flyPos = none ∧ (toSearch x).nodec = 0)
    ∧ ((getLane s l.val).mode ≠ 1 → (getLane s l.val).mode ≠ 2 →
      (∀ n < 4, fld s (Reg.rcCaplane (l.val / 256) n) Fld.rcCaplaneArm ≠ 1) →
      exec (.sampleOverflow l) s = .next (settleHost (cdcEvent Fld.glbCdcerrSampleOvf (some l.val) s)))
    ∧ ((getLane s l.val).mode = 1 ∨ (getLane s l.val).mode = 2 → ∃ u, exec (.sampleOverflow l) s = .next (settleHost u)
      ∧ (getLane u l.val).framed = false ∧ (getLane u l.val).overflow = true ∧ fld u Reg.glbCdcerr Fld.glbCdcerrSampleOvf = 1
      ∧ fld u Reg.glbCdccnt Fld.glbCdccntLastLane = l.val)
    ∧ (romHeld (.host ep) s = false → dbgEn s t = false →
      exec (.rcModeWrite (.host ep) t m) s = .next (logAccess (Reg.rcMode t) (wakeUp s)))
    ∧ (chipletDown s (Reg.rcMode t) = false → ∃ u, exec (.rcModeWrite .puppeteer t m) s = .next u ∧ rcMode u t = m.toNat
        ∧ (m = 3 → rcMode s t ≠ 3 → reg u (Reg.rcCalres t 0) = 0 ∧ reg u (Reg.rcCalres t 1) = 0))
    ∧ (chipletDown s (Reg.rcMode t) = true → exec (.rcModeWrite .puppeteer t m) s = .next (logAccess (Reg.rcMode t) s)) := by
  refine ⟨fun h => ?_, fun h => ?_, toSearch_spec, fun h1 h2 ha => ?_, fun h => ?_, fun hr hd => ?_, fun hd => ?_, fun hd => ?_⟩
  · exact next_congr (lossOfLock_of_lost h)
  · exact next_congr (lossOfLock_of_locked h)
  · exact next_congr (congrArg settleHost (adcOverflow_of_idle h1 h2 ha))
  · obtain ⟨hf, ho, he, hc⟩ := adcOverflow_of_mode (show l.val < 2 ^ 16 by omega) h
    exact ⟨_, rfl, hf, ho, he, hc⟩
  · exact next_congr (rcModeRow_of_denied hr hd)
  · refine ⟨setRcMode t m.toNat s, next_congr (rcModeRow_of_up hd), rcMode_setRcMode m.isLt s, ?_⟩
    rintro rfl h3
    exact calres_setRcMode h3
  · exact next_congr (rcModeRow_of_down hd)

/-- The rows of LDPC engines and capture channels. -/
theorem engines_and_capture (e : Fin 64) (c : Fin 2) (n : Fin 4) (adc : List (BitVec 6)) (x : BitVec 6) (s : State) :
    let off := Reg.rcEng (e.val / 32) (e.val % 32)
    let ch := s.caps.get CapCh.reset (4 * c.val + n.val)
    let tok := reg s (Reg.rcCaptok c n)
    (chipletDown s off = true → exec (.rcEngRetire .puppeteer e true) s = .next (settleHost (logAccess off s)))
    ∧ (chipletDown s off = false → engRetired s e.val = true → exec (.rcEngRetire .puppeteer e true) s = .next (settleHost s))
    ∧ (chipletDown s off = false → engRetired s e.val = false → (∀ t, (tpOf s t).rc.pend = []) → ∃ u,
        exec (.rcEngRetire .puppeteer e true) s = .next (settleHost u) ∧ engRetired u e.val = true)
    ∧ (chipletDown s off = false → engRetired s e.val = true → ∃ u,
        exec (.rcEngRetire .puppeteer e false) s = .next (settleHost u) ∧ engRetired u e.val = false)
    ∧ (chipletDown s (Reg.rcCaplane c n) = false → (∃ i < 4, seqActive (seqOf s (tid (4 * c.val + i))) = true) →
      exec (.rcCapArm .puppeteer c n) s = .next (logAccess (Reg.rcCaplane c n) s))
    ∧ (chipletDown s (Reg.rcCaplane c n) = false → (∀ i < 4, seqActive (seqOf s (tid (4 * c.val + i))) = false) →
      (fld s (Reg.rcCaplane c n) Fld.rcCaplaneTrig ≠ 2 → tokenHeld s 3 tok = false →
        exec (.rcCapArm .puppeteer c n) s = .next (raiseFld (Reg.rcCapstat c n) Fld.rcCapstatErr s))
      ∧ (fld s (Reg.rcCaplane c n) Fld.rcCaplaneTrig = 2 ∨ tokenHeld s 3 tok = true → ∃ u, exec (.rcCapArm .puppeteer c n) s = .next u
        ∧ fld u (Reg.rcCaplane c n) Fld.rcCaplaneArm = 1 ∧ reg u (Reg.rcCapstat c n) = 0))
    ∧ (fld s (Reg.rcCaplane c n) Fld.rcCaplaneArm = 0 → exec (.captureStop c n adc) s = .next s)
    ∧ (fld s (Reg.rcCaplane c n) Fld.rcCaplaneArm = 1 → tokenHeld s 3 tok = true →
      (s.capTrig.contains (4 * c.val + n.val) = true → ch.left ≤ adc.length → ∃ u, exec (.captureStop c n adc) s = .next u
        ∧ fld u (Reg.rcCaplane c n) Fld.rcCaplaneArm = 0 ∧ fld u (Reg.rcCapstat c n) Fld.rcCapstatDone = 1
        ∧ fld u (Reg.rcCapstat c n) Fld.rcCapstatWptr = (u.caps.get CapCh.reset (4 * c.val + n.val)).pos % 2 ^ 23
        ∧ (4 * c.val + n.val) ∉ u.capTrig)
      ∧ (s.capTrig.contains (4 * c.val + n.val) = false → ∃ u, exec (.captureStop c n [x]) s = .next u
        ∧ (∀ a, u.mem.hbm.get 0 a = if a = tokAddr s tok + ch.pos then BitVec.ofNat 8 (x.toNat + if ch.mark then 128 else 0)
          else s.mem.hbm.get 0 a)
        ∧ (u.caps.get CapCh.reset (4 * c.val + n.val)).pos
          = if ch.pos + 1 < fld s (Reg.rcCaplen c n) Fld.rcCaplenLength then ch.pos + 1 else 0)) := by
  intro off ch tok
  have hrow (f : State → State) (h : chipletDown s off = false) : byChiplet .puppeteer (e.val / 32) off f s = f s := byChiplet_puppeteer h
  have hcap (h : chipletDown s (Reg.rcCaplane c n) = false) : rcCapRow .puppeteer c.val n.val s
      = if [0, 1, 2, 3].any (fun i => seqActive (seqOf s (tid (4 * c.val + i)))) then logAccess (Reg.rcCaplane c n) s
        else armCapture c.val n.val s := byChiplet_puppeteer h
  refine ⟨fun hd => ?_, fun hd hr => ?_, fun hd hr hp => ?_, fun hd hr => ?_, fun hd ha => ?_, fun hd ha => ?_, fun h => ?_,
    fun h ht => ⟨?_, ?_⟩⟩
  · exact next_congr (congrArg settleHost (byChiplet_puppeteer_of_down hd))
  · exact next_congr (congrArg settleHost ((hrow _ hd).trans (if_pos hr)))
  · exact ⟨_, next_congr (congrArg settleHost (hrow _ hd)), engRetired_retireEngine hr hp⟩
  · exact ⟨_, next_congr (congrArg settleHost (hrow _ hd)), engRetired_returnEngine hr⟩
  · have hany : [0, 1, 2, 3].any (fun i => seqActive (seqOf s (tid (4 * c.val + i)))) = true := by
      obtain ⟨i, hi, hact⟩ := ha
      exact List.any_eq_true.mpr ⟨i, by simp; omega, hact⟩
    exact next_congr ((hcap hd).trans (if_pos hany))
  · have hany : [0, 1, 2, 3].any (fun i => seqActive (seqOf s (tid (4 * c.val + i)))) = false := by
      rw [List.any_eq_false]
      intro i hi
      rw [ha i (by simp at hi; omega)]
      decide
    have harm := (hcap hd).trans (if_neg (by rw [hany]; decide))
    refine ⟨fun h2 ht => ?_, fun h => ?_⟩
    · exact next_congr (harm.trans (armCapture_of_refused h2 ht))
    · exact ⟨_, next_congr harm, armCapture_of_taken h⟩
  · exact next_congr (stopCapture_of_off h adc)
  · intro hc hl
    exact ⟨_, next_congr (stopCapture_of_armed h adc), capStopped_capRun adc s h ht hc hl⟩
  · intro hc
    refine ⟨capWritten c.val n.val x s, next_congr ((stopCapture_of_armed h [x]).trans (capRun_single h ht hc x)), fun a => ?_,
      (capWritten_ch x).1⟩
    exact SMap.get_set _ _ _ _ _

/-- The rows of lane faults, and an underrun. -/
theorem faults_and_underruns (t : Tid) (k : Fin 64) (l slot : Fin 512) (c : WlCur) (s : State) :
    let y := tpOf s (laneT l.val)
    let counted (v : State) : Prop := fld v Reg.glbCdcerr Fld.glbCdcerrWlUnderrun = 1 ∧ fld v Reg.glbCdccnt Fld.glbCdccntLastLane = l.val
      ∧ (tpOf v (laneT l.val)).vfy = y.vfy
    (bitOf (tpOf s t).vfy.failmask.toNat k = true → ∃ u v, exec (.hmsAlert t k) s = .next (settleHost u)
      ∧ exec (.vfyLanecmdRetire .puppeteer t k) s = .next (settleHost v) ∧ (tpOf u t).vfy = (tpOf s t).vfy
      ∧ (tpOf v t).vfy = (tpOf s t).vfy)
    ∧ (bitOf (tpOf s t).vfy.failmask.toNat k = false → ∃ u v,
      exec (.hmsAlert t k) s = .next (settleHost u) ∧ exec (.vfyLanecmdRetire .puppeteer t k) s = .next (settleHost v)
        ∧ (tpOf u t).vfy.failmask = (tpOf s t).vfy.failmask ||| BitVec.ofNat 64 (2 ^ k.val)
        ∧ (tpOf v t).vfy.failmask = (tpOf s t).vfy.failmask ||| BitVec.ofNat 64 (2 ^ k.val)
        ∧ ((tpOf u t).vfy.lanes.get Lane.reset k).cause = 2 ∧ ((tpOf v t).vfy.lanes.get Lane.reset k).cause = 3)
    ∧ ((tpOf s t).seq.st = .running ∨ (tpOf s t).seq.st = .waiting → exec (.vfyLanecmdReturn .puppeteer t k) s
      = .next (settleHost (logIgnored (unitId 0 (64 * t.val + k.val)) 2 s)))
    ∧ ((tpOf s t).seq.st ≠ .running → (tpOf s t).seq.st ≠ .waiting → ∃ u,
      exec (.vfyLanecmdReturn .puppeteer t k) s = .next (settleHost u)
        ∧ (tpOf u t).vfy.failmask = (tpOf s t).vfy.failmask &&& ~~~(BitVec.ofNat 64 (2 ^ k.val)))
    ∧ (y.wl.cur = none ∧ y.wl.gap = false ∨ bitOf y.head.missing.toNat (laneK l.val) = true →
      exec (.wlUnderrun l slot) s = .next (settleHost s))
    ∧ (bitOf y.head.missing.toNat (laneK l.val) = false →
      (y.wl.cur = none → y.wl.gap = true → ∃ v, exec (.wlUnderrun l slot) s = .next (settleHost v) ∧ counted v)
      ∧ (y.wl.cur = some c → c.op ≠ 1 → ∃ v, exec (.wlUnderrun l slot) s = .next (settleHost v) ∧ counted v)
      ∧ (y.wl.cur = some c → c.op = 1 →
        let x := y.wl.exts.headD Extent.reset
        ∃ v, counted v
          ∧ ((maskTracks x.mask).idxOf? (laneK l.val) = none → exec (.wlUnderrun l slot) s = .next (settleHost v))
          ∧ ∀ lam, (maskTracks x.mask).idxOf? (laneK l.val) = some lam →
            (∀ i, slot.val < x.ndat → (lambdaCws (maskCount x.mask) lam)[slot.val]? = some i →
              exec (.wlUnderrun l slot) s = .next (settleHost (failOriginal (laneT l.val) x.dsnum i (laneK l.val) v)))
            ∧ (slot.val < x.ndat → (lambdaCws (maskCount x.mask) lam)[slot.val]? = none →
              exec (.wlUnderrun l slot) s = .next (settleHost v))
            ∧ (slot.val = x.ndat → exec (.wlUnderrun l slot) s = .next (settleHost v))
            ∧ (x.ndat < slot.val →
              exec (.wlUnderrun l slot) s = .next (settleHost (copyResult (laneT l.val) x (laneK l.val) slot.val false v))))) := by
  intro y counted
  have hcount : counted (underran l.val slot.val s) := by
    obtain ⟨⟨he, hc⟩, hv⟩ := underran_spec (m := slot.val) (s := s) (show l.val < 2 ^ 16 by omega)
    exact ⟨he, hc, hv⟩
  refine ⟨fun h => ?_, fun h => ?_, fun h => ?_, fun h1 h2 => ?_, fun h => ?_, fun hm => ⟨fun hn hg => ?_, fun hs ho => ?_, fun hs ho => ?_⟩⟩
  · exact ⟨_, _, rfl, rfl, congrArg Tp.vfy (laneFault_of_failed h 2), congrArg Tp.vfy (laneFault_of_failed h 3)⟩
  · obtain ⟨hu, hcu⟩ := laneFault_of_live h 2
    obtain ⟨hv, hcv⟩ := laneFault_of_live h 3
    exact ⟨_, _, rfl, rfl, hu, hv, hcu, hcv⟩
  · exact next_congr (congrArg settleHost (laneReturn_of_running h))
  · exact ⟨_, rfl, laneReturn_of_stopped h1 h2⟩
  · exact next_congr (congrArg settleHost (wlUnderrunOp_of_still h))
  · exact ⟨_, next_congr (congrArg settleHost ((wlUnderrunOp_of_writing (.inr hg) hm).trans (by rw [hn]))), hcount⟩
  · exact ⟨_, next_congr (congrArg settleHost ((wlUnderrunOp_of_writing (.inl (by rw [hs]; rfl)) hm).trans
      (by rw [hs]; exact if_neg ho))), hcount⟩
  · intro x
    have hrow : exec (.wlUnderrun l slot) s
        = .next (settleHost (damaged (laneT l.val) x (laneK l.val) slot.val (underran l.val slot.val s))) :=
      next_congr (congrArg settleHost ((wlUnderrunOp_of_writing (.inl (by rw [hs]; rfl)) hm).trans (by rw [hs]; exact if_pos ho)))
    refine ⟨_, hcount, fun hi => ?_, fun lam hi => ⟨fun i hlt hcw => ?_, fun hlt hcw => ?_, fun heq => ?_, fun hgt => ?_⟩⟩ <;>
      rw [hrow, damaged, hi] <;> dsimp only
    · rw [if_pos hlt, hcw]
    · rw [if_pos hlt, hcw]
    · rw [if_neg (by omega), if_neg (by omega)]
    · rw [if_neg (by omega), if_pos hgt]

/-- Settles O50: lanes and modes, engines and capture, lane faults and underruns, each row by its function. -/
theorem lanesAndCapture : Obligations.LanesAndCapture := by
  unfold Obligations.LanesAndCapture
  exact ⟨lanes_and_modes, engines_and_capture, faults_and_underruns⟩

end Sys2Proof.Machine
end

section
/-! MOT.SPEED, LOCATE, TURN and STOP (R22, R224, R226-R229, R231). -/
namespace Sys2Proof.Machine
open Sys2Proof.Safety

/-! ### The transport's part of the operations of motion -/

theorem tpOf_modMot (t : Tid) (f : Mot → Mot) (s : State) : tpOf (modMot t f s) t = { tpOf s t with mot := f (tpOf s t).mot } := tpOf_modTp _ _ _

theorem tpOf_modYoyo (t : Tid) (f : Yoyo → Yoyo) (s : State) : tpOf (modYoyo t f s) t = { tpOf s t with yoyo := f (tpOf s t).yoyo } :=
  tpOf_modTp _ _ _

theorem mot_of_stages {x y : Tp} (h : stages x = stages y) : x.mot = y.mot := (congrArg Tp.mot h :)

theorem yoyo_of_stages {x y : Tp} (h : stages x = stages y) : x.yoyo = y.yoyo := (congrArg Tp.yoyo h :)

theorem tpOf_takeMot (t : Tid) (k : BitVec 16) (s : State) :
    tpOf (takeDesc t 8 k s) t = { tpOf s t with motP := portStart k (tpOf s t).motP } := tpOf_modTp _ _ _

/-- A start that is armed leaves the command in progress and Yo-yo. -/
theorem goArmed_keeps (t : Tid) (s : State) :
    (tpOf (goArmed t s) t).mot.cur = (tpOf s t).mot.cur ∧ (tpOf (goArmed t s) t).yoyo = (tpOf s t).yoyo := by
  obtain ⟨hno, hyes⟩ := goArmed_cases t s
  by_cases h : (tpOf s t).mot.armed.isSome = true ∧ (tpOf s t).mot.armGo = false ∧ (tpOf s t).mot.st = .tensioned ∧ (tpOf s t).yoyo.pause = 0
  · rw [hyes h, tpOf_modMot]
    exact ⟨rfl, rfl⟩
  · rw [hno h]
    exact ⟨rfl, rfl⟩

/-! ### What every MOT descriptor meets first (R22, R224, R231) -/

section Row
variable {t : Tid} {op : Nat} {valid : State → Slot → Bool} {f : Slot → State → State} {y : Slot} {s : State}

/-- A transport that is neither stopping nor faulted, runs no motion command, and for which none of Puppeteer's waits. -/
def MotFree (t : Tid) (s : State) : Prop :=
  (tpOf s t).mot.st ≠ .stopping ∧ (tpOf s t).mot.st ≠ .faulted ∧ (tpOf s t).mot.cur = none ∧ (tpOf s t).mot.pup = []

theorem motRow_of_free (hy : HeadIs t 8 op y s) (h : MotFree t s) (hv : valid s y = true) (hw : op = 1 ∨ (tpOf s t).wl.cur = none) :
    motRow t op valid f s = f y (takeDesc t 8 y.ticket s) := by
  obtain ⟨hst, hft, hcur, hpup⟩ := h
  refine (onHead_of_headIs hy _).trans ?_
  dsimp only
  rw [if_neg (by rintro (h | h); exacts [hst h, hft h]), hcur, if_neg (by rw [hpup]; decide), hv, if_neg (by decide), if_neg]
  rintro ⟨h1, -, h2⟩
  rcases hw with hw | hw
  · exact h1 hw
  · rw [hw] at h2
    exact Bool.noConfusion h2

theorem motRow_of_fault (hy : HeadIs t 8 op y s) (h : (tpOf s t).mot.st = .stopping ∨ (tpOf s t).mot.st = .faulted) :
    motRow t op valid f s = finish t 8 y.ticket stMotionFault 0 s := (onHead_of_headIs hy _).trans (if_pos h)

end Row

/-! ### SPEED, LOCATE and TURN -/

section Begin
variable {t : Tid} {y : Slot} {s : State}

theorem motSpeedOp_of_free (hy : HeadIs t 8 1 y s) (h : MotFree t s) (hfits : descFits y.desc 3 0xFFFFFFFF 0 0 = true) (hm : descArg y.desc ≤ 2)
    (hv : descArg y.desc = 2 → 2500 ≤ fieldB y.desc 64 32 ∧ fieldB y.desc 64 32 ≤ topSpeed (tpOf s t)) :
    motSpeedOp t s = goArmed t (modMot t (fun m => { m with cur := some { MotCur.reset with ticket := some y.ticket, op := 1 } })
      (yoyoMode t (descArg y.desc) (fieldB y.desc 64 32) (takeDesc t 8 y.ticket s))) := by
  refine motRow_of_free hy h ?_ (.inl rfl)
  simp only [hfits, Bool.true_and, Bool.and_eq_true, decide_eq_true_eq, Bool.or_eq_true, bne_iff_ne, ne_eq]
  exact ⟨hm, by tauto⟩

theorem motLocateOp_of_free (hy : HeadIs t 8 2 y s) (h : MotFree t s) (hfits : descFits y.desc 0xFFFFFFFF 0xFFFFFFFF 0 0 = true)
    (hwr : wrapFits s t y = true) (hw : (tpOf s t).wl.cur = none) : motLocateOp t s
    = wlQuiet t (dropPause t (modMot t (beginLocate
        { MotCur.reset with ticket := some y.ticket, wrap := descArg y.desc, target := partB y.desc 64 32 }) (takeDesc t 8 y.ticket s))) :=
  motRow_of_free hy h (Bool.and_eq_true_iff.mpr ⟨hfits, hwr⟩) (.inr hw)

/-- A TURN begins (R228). -/
def beginTurn (ticket : BitVec 16) (wrap : Nat) (m : Mot) : Mot := { m with
  cur := some { MotCur.reset with ticket := some ticket, op := 3, wrap := wrap, step := if m.still then 2 else 1 }
  armed := none, armGo := false, armMiss := 0, st := .turning }

theorem motTurnOp_of_free (hy : HeadIs t 8 3 y s) (h : MotFree t s) (hfits : descFits y.desc 0xFFFFFFFF 0 0 0 = true)
    (hwr : wrapFits s t y = true) (hw : (tpOf s t).wl.cur = none) : motTurnOp t s
    = wlQuiet t (dropPause t (modMot t (beginTurn y.ticket (descArg y.desc)) (takeDesc t 8 y.ticket s))) :=
  motRow_of_free hy h (Bool.and_eq_true_iff.mpr ⟨hfits, hwr⟩) (.inr hw)

/-- A motion command begins on a transport: what stands of it, of the pause and of the drivers. -/
theorem tpOf_begun (f : Mot → Mot) (k : BitVec 16) (s : State) : tpOf (wlQuiet t (dropPause t (modMot t f (takeDesc t 8 k s)))) t
    = { tpOf s t with
        motP := portStart k (tpOf s t).motP, mot := f (tpOf s t).mot
        yoyo := { (tpOf s t).yoyo with pause := 0, pauseEnd := false }, wl := wlOff (tpOf s t).wl } := by
  rw [wlQuiet, tpOf_modWl, dropPause, tpOf_modYoyo, tpOf_modMot, tpOf_takeMot]

end Begin

/-! ### STOP (R229) -/

section Stop
variable {t : Tid} {s : State}

theorem zeroTickets_motP (x : Tp) : (zeroTickets x).motP = { x.motP with nextTicket := 0 } := rfl

/-- The stage's end of a MOT descriptor on its port: only the next ticket may have begun anew (R63). -/
theorem motP_finish (k : BitVec 16) (st : BitVec 8) (v : W32) (s : State) : (tpOf (finish t 8 k st v s) t).motP
    = { portFinish 8 k st v (tpOf s t).motP with nextTicket := (tpOf (finish t 8 k st v s) t).motP.nextTicket } := by
  have hstart (x : Tp) : (startWhenDone x).motP = x.motP := by
    unfold startWhenDone
    split
    · rfl
    · split
      · rfl
      · split <;> rfl
      · rfl
  have hre (x : Tp) : (reinstallWhenDone x).motP = { x.motP with nextTicket := (reinstallWhenDone x).motP.nextTicket } := by
    unfold reinstallWhenDone
    split
    · exact zeroTickets_motP x
    · rfl
  rw [finish, tpOf_modTp, hstart]
  exact hre _

/-- What of a transport a command that ends leaves: the command itself is over, and none of Puppeteer's waits. -/
theorem endMotion_of_descriptor {c : MotCur} {k : BitVec 16} (hc : (tpOf s t).mot.cur = some c) (hk : c.ticket = some k) (htag : c.tag = none)
    (hp : (tpOf s t).mot.pup = []) (st : BitVec 8) (v : W32) :
    endMotion t st v s = finish t 8 k st v (modMot t (fun m => { m with cur := none }) s) := by
  unfold endMotion
  rw [hc]
  dsimp only
  rw [hk, endHostLocate, htag]
  dsimp only
  refine modTp_of_fixed ?_
  have hm : (tpOf (finish t 8 k st v (modMot t (fun m => { m with cur := none }) s)) t).mot = { (tpOf s t).mot with cur := none } := by
    rw [mot_of_stages (stages_finish t 8 k st v _ t), tpOf_modMot]
  rw [hm]
  dsimp only
  rw [hp]

/-- The transport as a MOT.STOP begins. -/
theorem tpOf_stopping (k : BitVec 16) (s : State) :
    tpOf (modTp t (fun x => { x with yoyo := { x.yoyo with pause := 0, pauseEnd := false, on := false, out := 0 } })
      (modMot t (fun m => { m with armed := none, armGo := false, armMiss := 0, cur := some { MotCur.reset with ticket := some k, op := 4 } })
        (wlQuiet t (takeDesc t 8 k s)))) t
      = { tpOf s t with
          motP := portStart k (tpOf s t).motP, wl := wlOff (tpOf s t).wl
          mot := { (tpOf s t).mot with armed := none, armGo := false, armMiss := 0, cur := some { MotCur.reset with ticket := some k, op := 4 } }
          yoyo := { (tpOf s t).yoyo with pause := 0, pauseEnd := false, on := false, out := 0 } } := by
  rw [tpOf_modTp, tpOf_modMot, wlQuiet, tpOf_modWl, tpOf_takeMot]

/-- MOT.STOP's first part: the start that is armed and Yo-yo's mode are off, and the stop is the command in progress. -/
def stopBegun (t : Tid) (k : BitVec 16) (s : State) : State :=
  modTp t (fun x => { x with yoyo := { x.yoyo with pause := 0, pauseEnd := false, on := false, out := 0 } })
    (modMot t (fun m => { m with armed := none, armGo := false, armMiss := 0, cur := some { MotCur.reset with ticket := some k, op := 4 } })
      (wlQuiet t (takeDesc t 8 k s)))

theorem motStopOp_of_moving {y : Slot} (hy : HeadIs t 8 4 y s) (h : MotFree t s) (hfits : descFits y.desc 0 0 0 0 = true)
    (hrel : (tpOf s t).mot.st ≠ .released) (hw : (tpOf s t).wl.cur = none) (hs : (tpOf s t).mot.still = false) :
    motStopOp t s = stopBegun t y.ticket s := by
  refine (motRow_of_free hy h hfits (.inr hw)).trans ?_
  have hm : (tpOf (wlQuiet t (takeDesc t 8 y.ticket s)) t).mot = (tpOf s t).mot := by rw [wlQuiet, tpOf_modWl, tpOf_takeMot]
  unfold beginStop
  dsimp only
  rw [hm, if_neg hrel, hs, if_neg (by decide)]
  rfl

theorem motStopOp_of_still {y : Slot} (hy : HeadIs t 8 4 y s) (h : MotFree t s) (hfits : descFits y.desc 0 0 0 0 = true)
    (hrel : (tpOf s t).mot.st ≠ .released) (hw : (tpOf s t).wl.cur = none) (hs : (tpOf s t).mot.still = true) :
    motStopOp t s = finish t 8 y.ticket stOk 0 (modMot t (fun m => { m with cur := none })
      (modMot t (fun m => { m with st := .tensioned, setv := 0 }) (stopBegun t y.ticket s))) := by
  refine (motRow_of_free hy h hfits (.inr hw)).trans ?_
  have hm : (tpOf (wlQuiet t (takeDesc t 8 y.ticket s)) t).mot = (tpOf s t).mot := by rw [wlQuiet, tpOf_modWl, tpOf_takeMot]
  obtain ⟨-, -, -, hpup⟩ := h
  have hend := endMotion_of_descriptor (t := t) (s := modMot t (fun m => { m with st := .tensioned, setv := 0 }) (stopBegun t y.ticket s))
    (c := { MotCur.reset with ticket := some y.ticket, op := 4 }) (k := y.ticket) (by rw [tpOf_modMot, stopBegun, tpOf_stopping]) rfl rfl
    (by rw [tpOf_modMot, stopBegun, tpOf_stopping]; exact hpup) stOk 0
  unfold beginStop
  dsimp only
  rw [hm, if_neg hrel, hs, if_pos rfl]
  exact hend

end Stop

/-- Settles O31: a free transport takes the descriptor, one that stops or is faulted ends it MOTION_FAULT. -/
theorem motionDescriptors : Obligations.MotionDescriptors := by
  unfold Obligations.MotionDescriptors
  refine ⟨fun t y s hst hft hcur hpup => ?_, fun t y s => ⟨fun hy hfits hst hft hrel hcur hw hpup => ?_, fun h => ?_⟩⟩
  · have hfree : MotFree t s := ⟨hst, hft, hcur, hpup⟩
    refine ⟨fun hy hfits hm hv => ?_, fun hy hfits hwr hw => ?_, fun hy hfits hwr hw => ?_⟩
    · have hrow := motSpeedOp_of_free hy hfree hfits hm hv
      generalize hz : takeDesc t 8 y.ticket s = z at hrow
      obtain ⟨hc, hyo⟩ := goArmed_keeps t (modMot t (fun m => { m with cur := some { MotCur.reset with ticket := some y.ticket, op := 1 } })
        (yoyoMode t (descArg y.desc) (fieldB y.desc 64 32) z))
      rw [tpOf_modMot] at hc hyo
      rw [yoyoMode, tpOf_modYoyo] at hyo
      refine ⟨_, _, next_congr (congrArg settleHost hrow), hc, rfl, rfl, ?_, ?_, fun h2 => ?_⟩
      · rw [yoyoMode, hyo]
      · rw [yoyoMode, hyo]
      · rw [yoyoMode, hyo]
        exact if_pos h2
    · have hu := tpOf_begun (t := t) (beginLocate
        { MotCur.reset with ticket := some y.ticket, wrap := descArg y.desc, target := partB y.desc 64 32 }) y.ticket s
      refine ⟨_, _, next_congr (congrArg settleHost (motLocateOp_of_free hy hfree hfits hwr hw)), by rw [hu]; rfl, rfl, rfl, rfl,
        partB_eq_extractLsb' _ _ _, rfl, ?_, ?_, ?_, ?_⟩ <;> rw [hu] <;> rfl
    · have hu := tpOf_begun (t := t) (beginTurn y.ticket (descArg y.desc)) y.ticket s
      refine ⟨_, _, next_congr (congrArg settleHost (motTurnOp_of_free hy hfree hfits hwr hw)), by rw [hu]; rfl, rfl, rfl, rfl, rfl,
        ?_, ?_, ?_⟩ <;> rw [hu] <;> rfl
  · have hfree : MotFree t s := ⟨hst, hft, hcur, hpup⟩
    cases hs : (tpOf s t).mot.still with
    | false =>
      have hu := tpOf_stopping (t := t) y.ticket s
      refine ⟨stopBegun t y.ticket s, next_congr (congrArg settleHost (motStopOp_of_moving hy hfree hfits hrel hw hs)), ?_, ?_,
        fun _ => ⟨{ MotCur.reset with ticket := some y.ticket, op := 4 }, ?_, rfl, rfl⟩, fun h => Bool.noConfusion h⟩
      · rw [stopBegun, hu]
      · rw [stopBegun, hu]
      · rw [stopBegun, hu]
    | true =>
      refine ⟨_, next_congr (congrArg settleHost (motStopOp_of_still hy hfree hfits hrel hw hs)), ?_, ?_, fun h => Bool.noConfusion h,
        fun _ => ⟨?_, ?_, ?_, ?_⟩⟩
      · rw [mot_of_stages (stages_finish t 8 _ _ _ _ t), tpOf_modMot, tpOf_modMot, stopBegun, tpOf_stopping]
      · rw [yoyo_of_stages (stages_finish t 8 _ _ _ _ t), tpOf_modMot, tpOf_modMot, stopBegun, tpOf_stopping]
      · rw [mot_of_stages (stages_finish t 8 _ _ _ _ t), tpOf_modMot]
      · rw [mot_of_stages (stages_finish t 8 _ _ _ _ t), tpOf_modMot, tpOf_modMot]
      · rw [mot_of_stages (stages_finish t 8 _ _ _ _ t), tpOf_modMot, tpOf_modMot]
      · have hp : (tpOf (modMot t (fun m => { m with cur := none }) (modMot t (fun m => { m with st := .tensioned, setv := 0 })
            (stopBegun t y.ticket s))) t).motP = portStart y.ticket (tpOf s t).motP := by
          rw [tpOf_modMot, tpOf_modMot, stopBegun, tpOf_stopping]
        refine (motP_finish y.ticket stOk 0 _).trans ?_
        rw [hp]
  · refine ⟨fun hy => ?_, fun hy => ?_, fun hy => ?_, fun hy => ?_⟩
    all_goals exact next_congr (congrArg settleHost (motRow_of_fault hy h))

end Sys2Proof.Machine
end

section
/-! Supervision stops, tension, clearing, and the heartbeat of the actuator links (R230-R233, R340, R349, R361). -/
namespace Sys2Proof.Machine
open Sys2Proof.Safety

/-! ### Before the stop: the fault event of a transport (R230, R324) -/

theorem courses_retireUnit_transport {u : BitVec 16} (hu : unitClass u = 7) (s : State) : courses (retireUnit u s) = courses s := by
  unfold retireUnit
  rw [hu]
  exact (courses_disableWrites _ 3 _).trans (courses_of_tp (markRetired_tp u s))

theorem courses_escalate_transport {u : BitVec 16} (hu : unitClass u = 7) (code : Nat) (d : W64) (s : State) :
    courses (escalate u code d s) = courses s := by
  unfold escalate
  dsimp only
  split
  · exact (courses_retireUnit_transport hu _).trans (courses_of_tp (by simp))
  · exact courses_of_tp (by simp)

theorem courses_faultEvent_transport {u : BitVec 16} (hu : unitClass u = 7) (code : Nat) (d : W64) (s : State) :
    courses (faultEvent u code d s) = courses s := by
  unfold faultEvent
  dsimp only
  split
  · exact courses_of_tp ((logFault_tp _ _ _ _ _ _).trans (countEvent_tp u s))
  · exact (courses_escalate_transport hu code d _).trans (courses_of_tp (countEvent_tp u s))

/-! ### What ends with the stop (R112, R231) -/

theorem endHostLocate_tp (c : MotCur) (st : BitVec 8) (s : State) : (endHostLocate c st s).tp = s.tp := by
  unfold endHostLocate
  split
  · rfl
  · split
    · rfl
    · dsimp only
      rw [endCmd_tp, modStream_tp]

theorem loadFault_tp (t : Tid) (s : State) : (loadFault t s).tp = s.tp := by
  unfold loadFault
  split
  · rfl
  · split
    · rfl
    · exact endCmd_tp _ _ _ _ s

/-- What no port and no sequencer of a slice hold, through the ends of descriptors. -/
theorem stages_finishes (t : Tid) (n : Nat) (st : BitVec 8) (v : Slot → State → W32) (l : List Slot) (s : State) :
    stages (tpOf (forAll l (fun x s => finish t n x.ticket st (v x s) s) s) t) = stages (tpOf s t) := by
  induction l generalizing s with
  | nil => rfl
  | cons x r ih =>
    refine (ih (finish t n x.ticket st (v x s) s)).trans ?_
    exact stages_finish t n x.ticket st (v x s) s t

section Ends
variable {t : Tid} {s : State}

/-- Nothing waits to be installed or started, and the motion fault is signalled. -/
def Signals (t : Tid) (u : State) : Prop :=
  (tpOf u t).reinstall = false ∧ (tpOf u t).seq.startPend = none ∧ (tpOf u t).seq.latched.getLsbD 19 = true

/-- Nothing waits to be installed or started. -/
def Settled (t : Tid) (u : State) : Prop := (tpOf u t).reinstall = false ∧ (tpOf u t).seq.startPend = none

theorem seq_finish {n : Nat} (hr : (tpOf s t).reinstall = false) (hp : (tpOf s t).seq.startPend = none) (k : BitVec 16) (st : BitVec 8) (v : W32) :
    (tpOf (finish t n k st v s) t).seq = (tpOf s t).seq ∧ (tpOf (finish t n k st v s) t).reinstall = false := by
  have hr' : (setPort n (portFinish n k st v (portOf (tpOf s t) n)) (tpOf s t)).reinstall = false := (setPort_reinstall _ _ _).trans hr
  have hs' := setPort_seq n (portFinish n k st v (portOf (tpOf s t) n)) (tpOf s t)
  rw [finish, tpOf_modTp, reinstallWhenDone_of_false hr', startWhenDone, hs', hp]
  exact ⟨hs', hr'⟩

theorem Signals.finish (h : Signals t s) (n : Nat) (k : BitVec 16) (st : BitVec 8) (v : W32) : Signals t (finish t n k st v s) := by
  obtain ⟨hr, hp, hl⟩ := h
  obtain ⟨hseq, hre⟩ := seq_finish (n := n) hr hp k st v
  exact ⟨hre, by rw [hseq, hp], by rw [hseq, hl]⟩

theorem Settled.finish (h : Settled t s) (n : Nat) (k : BitVec 16) (st : BitVec 8) (v : W32) : Settled t (finish t n k st v s) := by
  obtain ⟨hr, hp⟩ := h
  obtain ⟨hseq, hre⟩ := seq_finish (n := n) hr hp k st v
  exact ⟨hre, by rw [hseq, hp]⟩

theorem Signals.of_tp {u : State} (h : Signals t s) (htp : u.tp = s.tp) : Signals t u := by
  rw [Signals, tpOf, htp]
  exact h

theorem Settled.of_courses {u : State} (h : Settled t s) (hc : courses u = courses s) : Settled t u := by
  obtain ⟨hr, hp⟩ := h
  refine ⟨(reinstall_of_courses (congrFun hc t)).trans hr, ?_⟩
  have hseq := seqOf_of_courses (congrFun hc t)
  exact (congrArg Seq.startPend hseq).trans hp

theorem Settled.modTp {f : Tp → Tp} (h : Settled t s) (hf : ∀ x, (f x).reinstall = x.reinstall ∧ (f x).seq = x.seq) :
    Settled t (modTp t f s) := by
  obtain ⟨hr, hp⟩ := h
  rw [Settled, tpOf_modTp, (hf _).1, (hf _).2]
  exact ⟨hr, hp⟩

theorem Signals.modTp {f : Tp → Tp} (h : Signals t s) (hf : ∀ x, (f x).reinstall = x.reinstall ∧ (f x).seq = x.seq) :
    Signals t (modTp t f s) := by
  obtain ⟨hr, hp, hl⟩ := h
  rw [Signals, tpOf_modTp, (hf _).1, (hf _).2]
  exact ⟨hr, hp, hl⟩

theorem signals_setEvent (h : Settled t s) : Signals t (setEvent t evMotfault s) := by
  obtain ⟨hr, hp⟩ := h
  rw [Signals, setEvent, tpOf_modTp]
  exact ⟨hr, hp, by simp [evMotfault]⟩

/-! ### WL, VFY and the motion commands -/

/-- WL as a motion fault leaves it (R112). -/
def wlFaulted (w : Wl) : Wl := { w with cur := none, faulted := true, gap := false, wen := false, pass := none }

theorem endArms_keeps (st : BitVec 8) (which : Nat → W32 → Bool) (s : State) :
    (tpOf (endArms t st which s) t).mot = (tpOf s t).mot ∧ (tpOf (endArms t st which s) t).wl = (tpOf s t).wl
      ∧ (Settled t s → Settled t (endArms t st which s)) := by
  unfold endArms
  extract_lets arms ended u
  have hu : stages (tpOf u t) = stages (tpOf s t) := stages_finishes t 4 st _ arms s
  have hm := mot_of_stages hu
  have hw := wl_of_stages hu
  refine ⟨?_, ?_, fun h => Settled.modTp ?_ (by intro x; exact ⟨rfl, rfl⟩)⟩
  · rw [tpOf_modTp]
    exact hm
  · rw [tpOf_modTp]
    exact hw
  · exact forAll_holds (P := Settled t) (fun x _ s hs => hs.finish 4 _ _ _) h

theorem wlMotionFault_keeps (s : State) : (tpOf (wlMotionFault t s) t).mot = (tpOf s t).mot
    ∧ (tpOf (wlMotionFault t s) t).wl = wlFaulted (tpOf s t).wl ∧ (Settled t s → Settled t (wlMotionFault t s)) := by
  unfold wlMotionFault
  extract_lets cur u w
  have hu : tpOf u t = { tpOf s t with wl := wlFaulted (tpOf s t).wl } := tpOf_modTp _ _ _
  have hw : stages (tpOf w t) = stages (tpOf u t) := stages_finishes t 3 stMotionFault _ _ u
  obtain ⟨hm, hl, hs⟩ := endArms_keeps (t := t) stMotionFault (fun _ _ => true) w
  refine ⟨?_, ?_, fun h => hs ?_⟩
  · rw [hm, mot_of_stages hw, hu]
  · rw [hl, wl_of_stages hw, hu]
  · refine forAll_holds (P := Settled t) (fun x _ s hs => hs.finish 3 _ _ _) ?_
    exact h.modTp (by intro x; exact ⟨rfl, rfl⟩)

/-- A motion command ends where none of Puppeteer's waits. -/
theorem endMotion_keeps (hp : (tpOf s t).mot.pup = []) (st : BitVec 8) (v : W32) :
    (tpOf (endMotion t st v s) t).mot = { (tpOf s t).mot with cur := none } ∧ (tpOf (endMotion t st v s) t).wl = (tpOf s t).wl
      ∧ (Signals t s → Signals t (endMotion t st v s)) := by
  unfold endMotion
  split
  · next hc =>
    refine ⟨?_, rfl, id⟩
    calc (tpOf s t).mot = { (tpOf s t).mot with cur := (tpOf s t).mot.cur } := rfl
      _ = _ := by rw [hc]
  · next c hc =>
    extract_lets u w
    have hu : tpOf u t = { tpOf s t with mot := { (tpOf s t).mot with cur := none } } := tpOf_modMot _ _ _
    have hw : stages (tpOf w t) = stages (tpOf u t) := by
      unfold w
      split
      · exact stages_finish t 8 _ st v u t
      · rfl
    have hz : tpOf (endHostLocate c st w) t = tpOf w t := by rw [tpOf, endHostLocate_tp, ← tpOf]
    have hm : (tpOf (endHostLocate c st w) t).mot = { (tpOf s t).mot with cur := none } := by rw [hz, mot_of_stages hw, hu]
    have hnext : nextPup t (endHostLocate c st w) = endHostLocate c st w := by
      refine modTp_of_fixed ?_
      rw [hm]
      dsimp only
      rw [hp]
    rw [hnext]
    refine ⟨hm, by rw [hz, wl_of_stages hw, hu], fun h => Signals.of_tp ?_ (endHostLocate_tp c st w)⟩
    have hsu : Signals t u := h.modTp (by intro x; exact ⟨rfl, rfl⟩)
    unfold w
    split
    · exact hsu.finish 8 _ st v
    · exact hsu

theorem motMotionFault_keeps (s : State) :
    (tpOf (motMotionFault t s) t).mot = { (tpOf s t).mot with pup := [], cur := none } ∧ (tpOf (motMotionFault t s) t).wl = (tpOf s t).wl
      ∧ (Signals t s → Signals t (motMotionFault t s)) := by
  unfold motMotionFault
  extract_lets a waiting b c
  have ha : a.tp = s.tp := loadFault_tp t s
  have hb : b.tp = (modMot t (fun m => { m with pup := [] }) a).tp :=
    forAll_keeps (g := State.tp) (fun c s => endHostLocate_tp c stMotionFault s) waiting _
  have hbt : tpOf b t = { tpOf s t with mot := { (tpOf s t).mot with pup := [] } } := by
    rw [tpOf, hb, ← tpOf, tpOf_modMot, tpOf, ha, ← tpOf]
  obtain ⟨hm, hl, hs⟩ := endMotion_keeps (t := t) (s := b) (by rw [hbt]) stMotionFault 0
  have hfin := stages_finishes t 8 stMotionFault (fun _ _ => 0) (portOpen (tpOf c t).motP) c
  refine ⟨?_, ?_, fun h => forAll_holds (P := Signals t) (fun x _ s hs => hs.finish 8 _ _ _) (hs ?_)⟩
  · exact (mot_of_stages hfin).trans (hm.trans (by rw [hbt]))
  · exact (wl_of_stages hfin).trans (hl.trans (by rw [hbt]))
  · refine Signals.of_tp (Signals.modTp (h.of_tp ha) ?_) hb
    intro x
    exact ⟨rfl, rfl⟩

end Ends

/-! ### A supervision stop (R231) -/

section Stop
variable {t : Tid} {s : State}

/-- A transport that a supervision stop has stopped, with its cause. -/
def Stopped (t : Tid) (k : Nat) (s u : State) : Prop :=
  (tpOf u t).mot.st = .stopping ∧ (tpOf u t).mot.cause = k ∧ (tpOf u t).mot.cur = none
    ∧ (tpOf u t).mot.armed = none ∧ (tpOf u t).wl.cur = none ∧ (tpOf u t).wl.wen = false ∧ (tpOf u t).wl.faulted = true
    ∧ ((tpOf s t).reinstall = false → (seqOf s t).startPend = none → (seqOf u t).latched.getLsbD 19 = true)

/-- The motion state as a stop begins. -/
def stopMotion (cause n : Nat) (reel : Bool) (m : Mot) : Mot := { m with
  cause := cause, cloop := n, st := .stopping, armed := none, armGo := false, armMiss := 0, setv := m.vtape
  reelStop := m.reelStop || reel, tensOn := m.tensOn && !reel, overT := 0, tensT := 0, encTA := 0, encTB := 0, svLoss := 0 }

/-- A transport whose motion has stopped: the step's rest ends WL, VFY and the motion commands, and signals it. -/
theorem stopped_of_motion {k : Nat} {u : State} (hst : (tpOf u t).mot.st = .stopping) (hk : (tpOf u t).mot.cause = k)
    (ha : (tpOf u t).mot.armed = none) (hc : (tpOf s t).reinstall = false → (seqOf s t).startPend = none → Settled t u) :
    Stopped t k s (notice 5 (motMotionFault t (setEvent t evMotfault (wlMotionFault t u)))) := by
  obtain ⟨hm, hw, hset⟩ := wlMotionFault_keeps (t := t) u
  have he : tpOf (setEvent t evMotfault (wlMotionFault t u)) t = { tpOf (wlMotionFault t u) t with seq :=
      { (tpOf (wlMotionFault t u) t).seq with latched := (tpOf (wlMotionFault t u) t).seq.latched ||| BitVec.ofNat 64 (2 ^ evMotfault) } } :=
    tpOf_modTp _ _ _
  obtain ⟨hm2, hw2, hsig⟩ := motMotionFault_keeps (t := t) (setEvent t evMotfault (wlMotionFault t u))
  generalize hz : motMotionFault t (setEvent t evMotfault (wlMotionFault t u)) = z at hm2 hw2 hsig
  have hn : tpOf (notice 5 z) t = tpOf z t := by rw [tpOf, notice_tp, ← tpOf]
  rw [Stopped, show seqOf (notice 5 z) t = (tpOf (notice 5 z) t).seq from rfl, hn, hm2, hw2, he]
  dsimp only
  rw [hm, hw]
  refine ⟨hst, hk, rfl, ha, rfl, rfl, rfl, fun hr hp => ?_⟩
  obtain ⟨-, -, hl⟩ := hsig (signals_setEvent (hset (hc hr hp)))
  exact hl

theorem tpOf_modLoop_mot (l : Nat) (f : MLoop → MLoop) (s : State) : (tpOf (modLoop l f s) t).mot = (tpOf s t).mot := by
  by_cases h : t = tid (l / 4)
  · rw [h, modLoop, tpOf_modTp]
    unfold setLoop
    split <;> rfl
  · rw [modLoop, tpOf_modTp_ne _ _ _ _ h]

theorem setLoop_course (n : Nat) (p : MLoop) (x : Tp) : course (setLoop n p x) = course x := by
  unfold setLoop
  split <;> rfl

theorem courses_modLoop (l : Nat) (f : MLoop → MLoop) (s : State) : courses (modLoop l f s) = courses s :=
  courses_modTp (f := fun x => setLoop (l % 4) (f (loopOf x (l % 4))) x) (fun _ => setLoop_course _ _ _) _ s

theorem courses_resendFrame (rep : Bool) (l : Nat) (s : State) : courses (resendFrame rep l s) = courses s := courses_modLoop l _ s

theorem mot_resendFrame (rep : Bool) (l : Nat) (s : State) : (tpOf (resendFrame rep l s) t).mot = (tpOf s t).mot := tpOf_modLoop_mot l _ s

theorem supervisionStop_of_moving (hst : (tpOf s t).mot.st ≠ .stopping) (hft : (tpOf s t).mot.st ≠ .faulted) (cause n : Nat) :
    Stopped t cause s (supervisionStop t cause n s) := by
  unfold supervisionStop
  extract_lets m u a b reel c d e
  rw [if_neg hft, if_neg hst]
  have ha : courses a = courses s := by
    unfold a
    split
    · exact courses_faultEvent_transport (unitClass_transport t) _ _ _
    · exact courses_of_tp (logFault_tp _ _ _ _ _ _)
  have hb : courses b = courses s := (courses_of_tp (bumpFld_tp _ _ _)).trans ha
  clear_value b
  have hc : tpOf c t = { tpOf b t with mot := stopMotion cause n (decide reel) (tpOf b t).mot } := tpOf_modMot _ _ _
  have hd : (tpOf d t).mot = stopMotion cause n (decide reel) (tpOf b t).mot := by
    rw [show tpOf d t = { tpOf c t with yoyo := { (tpOf c t).yoyo with pause := 0, pauseEnd := false } } from tpOf_modTp _ _ _, hc]
  have hdc : courses d = courses b := (courses_modTp (by intro x; rfl) t c).trans (courses_modMot t _ b)
  have he : (tpOf e t).mot = (tpOf d t).mot ∧ courses e = courses d := by
    unfold e
    split
    · exact ⟨(mot_resendFrame _ _ _).trans (mot_resendFrame _ _ _), (courses_resendFrame _ _ _).trans (courses_resendFrame _ _ _)⟩
    · exact ⟨rfl, rfl⟩
  obtain ⟨hem, hec⟩ := he
  clear_value e d
  rw [hd] at hem
  refine stopped_of_motion (by rw [hem]; rfl) (by rw [hem]; rfl) (by rw [hem]; rfl) (fun hr hp => ?_)
  exact Settled.of_courses ⟨hr, hp⟩ (hec.trans (hdc.trans hb))

end Stop

/-- A wake leaves a transport's state, or tensions it. -/
theorem st_hostWakes (src : Src) (s : State) (t : Tid) :
    (tpOf (hostWakes src s) t).mot.st = (tpOf s t).mot.st ∨ (tpOf (hostWakes src s) t).mot.st = .tensioned := by
  have hw : (tpOf (wakeUp s) t).mot.st = (tpOf s t).mot.st ∨ (tpOf (wakeUp s) t).mot.st = .tensioned := by
    unfold wakeUp
    dsimp only
    split
    · have h := tpOf_forAll_modTp (fun t x => { x with mot :=
        if (tpOf s t).loaded ∧ x.mot.st = .released then { x.mot with st := .tensioned, tensOn := true } else x.mot }) s t
      have hm := congrArg (fun x : Tp => x.mot.st) h
      by_cases hl : (tpOf s t).loaded = true ∧ (tpOf s t).mot.st = .released
      · exact .inr (hm.trans (by dsimp only; rw [if_pos hl]))
      · exact .inl (hm.trans (by dsimp only; rw [if_neg hl]))
    · exact .inl rfl
  cases src
  · exact hw
  · exact .inl rfl

/-! ### MC_TCTL's other commands, and the actuator links (R232, R233, R361, R349) -/

section Commands
variable {t : Tid} {s : State}

theorem tensionOn_of_released (h : (tpOf s t).mot.st = .released) :
    tensionOn t s = modMot t (fun m => { m with st := .tensioned, tensOn := true, setv := 0 }) s := if_pos h

theorem tensionOn_of_not (h : (tpOf s t).mot.st ≠ .released) : tensionOn t s = logFault (unitId 7 t) 6 3 0 0 s := if_neg h

theorem tensionOff_of_tensioned (h : (tpOf s t).mot.st = .tensioned) (hs : (tpOf s t).mot.still = true) :
    tensionOff t s = modMot t (fun m => { m with st := .released, tensOn := false, armed := none, armGo := false, armMiss := 0 }) s :=
  if_pos ⟨hs, h⟩

theorem tensionOff_of_faulted (h : (tpOf s t).mot.st = .faulted) (hs : (tpOf s t).mot.still = true) :
    tensionOff t s = modMot t (fun m => { m with tensOn := false }) s :=
  (if_neg (by rw [h]; exact fun hc => nomatch hc.2)).trans (if_pos ⟨hs, h⟩)

theorem tensionOff_of_not (h : (tpOf s t).mot.still = false ∨ ((tpOf s t).mot.st ≠ .tensioned ∧ (tpOf s t).mot.st ≠ .faulted)) :
    tensionOff t s = logFault (unitId 7 t) 6 4 0 0 s := by
  have hno (q : MotState) (hq : q = .tensioned ∨ q = .faulted) : ¬((tpOf s t).mot.still = true ∧ (tpOf s t).mot.st = q) := by
    rintro ⟨hs, hst⟩
    rcases h with h | ⟨h1, h2⟩
    · rw [h] at hs
      exact Bool.noConfusion hs
    · rcases hq with rfl | rfl
      · exact h1 hst
      · exact h2 hst
  exact (if_neg (hno _ (.inl rfl))).trans (if_neg (hno _ (.inr rfl)))

/-- A loop in FAULT returns to MANUAL (R233). -/
def clearedLoop (p : MLoop) : MLoop := { p with mode := if p.mode = .fault then .manual else p.mode, consec := 0 }

theorem clearedLoop_mode (p : MLoop) : (clearedLoop p).mode ≠ .fault := by
  unfold clearedLoop
  dsimp only
  split
  · exact fun h => nomatch h
  · assumption

theorem loop_index (t : Tid) {n : Nat} (hn : n < 4) : tid ((4 * t.val + n) / 4) = t ∧ (4 * t.val + n) % 4 = n := by
  refine ⟨?_, by omega⟩
  rw [show (4 * t.val + n) / 4 = t.val by omega, tid_val]

theorem tpOf_modLoop (t : Tid) {n : Nat} (hn : n < 4) (f : MLoop → MLoop) (s : State) :
    tpOf (modLoop (4 * t.val + n) f s) t = setLoop n (f (loopOf (tpOf s t) n)) (tpOf s t) := by
  obtain ⟨ht, hm⟩ := loop_index t hn
  rw [modLoop, ht, hm, tpOf_modTp]

theorem tpOf_clearLoop (t : Tid) {n : Nat} (hn : n < 4) (s : State) :
    tpOf (clearLoop (4 * t.val + n) s) t = setLoop n (clearedLoop (loopOf (tpOf s t) n)) (tpOf s t) := by
  unfold clearLoop
  extract_lets p u
  have hu : tpOf u t = setLoop n (clearedLoop (loopOf (tpOf s t) n)) (tpOf s t) := tpOf_modLoop t hn _ s
  clear_value u
  split
  · rw [← hu, tpOf, setReg_tp, setFld_tp, tpOf]
  · exact hu

/-- The four loops of a transport, none of them in FAULT. -/
def NoFault (x : Tp) : Prop := x.loopA.mode ≠ .fault ∧ x.loopB.mode ≠ .fault ∧ x.loopL.mode ≠ .fault ∧ x.loopS.mode ≠ .fault

/-- The four loops of a transport cleared. -/
def clearedLoops (x : Tp) : Tp :=
  { x with loopA := clearedLoop x.loopA, loopB := clearedLoop x.loopB, loopL := clearedLoop x.loopL, loopS := clearedLoop x.loopS }

theorem tpOf_clearLoops (s : State) :
    tpOf (forAll [4 * t.val, 4 * t.val + 1, 4 * t.val + 2, 4 * t.val + 3] clearLoop s) t = clearedLoops (tpOf s t) := by
  have h0 (s : State) : tpOf (clearLoop (4 * t.val) s) t = { tpOf s t with loopA := clearedLoop (tpOf s t).loopA } :=
    tpOf_clearLoop t (n := 0) (by decide) s
  have h1 (s : State) : tpOf (clearLoop (4 * t.val + 1) s) t = { tpOf s t with loopB := clearedLoop (tpOf s t).loopB } :=
    tpOf_clearLoop t (by decide) s
  have h2 (s : State) : tpOf (clearLoop (4 * t.val + 2) s) t = { tpOf s t with loopL := clearedLoop (tpOf s t).loopL } :=
    tpOf_clearLoop t (by decide) s
  have h3 (s : State) : tpOf (clearLoop (4 * t.val + 3) s) t = { tpOf s t with loopS := clearedLoop (tpOf s t).loopS } :=
    tpOf_clearLoop t (by decide) s
  show tpOf (clearLoop (4 * t.val + 3) (clearLoop (4 * t.val + 2) (clearLoop (4 * t.val + 1) (clearLoop (4 * t.val) s)))) t = _
  rw [h3, h2, h1, h0, clearedLoops]

theorem clearTransport_of_faulted (h : (tpOf s t).mot.st = .faulted) (hs : (tpOf s t).mot.still = true) :
    ((tpOf (clearTransport t s) t).mot.st = .tensioned ∨ (tpOf (clearTransport t s) t).mot.st = .released)
      ∧ (tpOf (clearTransport t s) t).mot.reelStop = false ∧ (tpOf (clearTransport t s) t).wl.faulted = false
      ∧ NoFault (tpOf (clearTransport t s) t) := by
  unfold clearTransport
  extract_lets x u x' ready
  have hu : tpOf u t = clearedLoops (tpOf s t) := tpOf_clearLoops s
  rw [if_pos ⟨h, hs⟩, tpOf_modTp, hu]
  refine ⟨?_, rfl, rfl, clearedLoop_mode _, clearedLoop_mode _, clearedLoop_mode _, clearedLoop_mode _⟩
  dsimp only
  split
  · exact .inl rfl
  · exact .inr rfl

theorem setLoop_keeps {f : MLoop → MLoop} (hf : ∀ p, (f p).mode = p.mode) {n : Nat} (hn : n < 4) (x : Tp) :
    (setLoop n (f (loopOf x n)) x).mot = x.mot ∧ (setLoop n (f (loopOf x n)) x).wl = x.wl
      ∧ (NoFault x → NoFault (setLoop n (f (loopOf x n)) x)) := by
  match n with
  | 0 => exact ⟨rfl, rfl, fun ⟨ha, hb, hl, hs⟩ => ⟨ne_of_eq_of_ne (hf x.loopA) ha, hb, hl, hs⟩⟩
  | 1 => exact ⟨rfl, rfl, fun ⟨ha, hb, hl, hs⟩ => ⟨ha, ne_of_eq_of_ne (hf x.loopB) hb, hl, hs⟩⟩
  | 2 => exact ⟨rfl, rfl, fun ⟨ha, hb, hl, hs⟩ => ⟨ha, hb, ne_of_eq_of_ne (hf x.loopL) hl, hs⟩⟩
  | 3 => exact ⟨rfl, rfl, fun ⟨ha, hb, hl, hs⟩ => ⟨ha, hb, hl, ne_of_eq_of_ne (hf x.loopS) hs⟩⟩

/-- A change of a loop that leaves its mode. -/
theorem modLoop_keeps {f : MLoop → MLoop} (hf : ∀ p, (f p).mode = p.mode) {n : Nat} (hn : n < 4) (s : State) :
    (tpOf (modLoop (4 * t.val + n) f s) t).mot = (tpOf s t).mot ∧ (tpOf (modLoop (4 * t.val + n) f s) t).wl = (tpOf s t).wl
      ∧ (NoFault (tpOf s t) → NoFault (tpOf (modLoop (4 * t.val + n) f s) t)) := by
  rw [tpOf_modLoop t hn]
  exact setLoop_keeps hf hn _

/-- A frame sent again: of a transport only the frame on the link changes. -/
theorem resendFrame_keeps (rep : Bool) {n : Nat} (hn : n < 4) (s : State) :
    (tpOf (resendFrame rep (4 * t.val + n) s) t).mot = (tpOf s t).mot ∧ (tpOf (resendFrame rep (4 * t.val + n) s) t).wl = (tpOf s t).wl
      ∧ (NoFault (tpOf s t) → NoFault (tpOf (resendFrame rep (4 * t.val + n) s) t)) := by
  refine modLoop_keeps ?_ hn s
  intro p
  split <;> rfl

theorem mcClearOp_of_faulted (h : (tpOf s t).mot.st = .faulted) (hs : (tpOf s t).mot.still = true) :
    ((tpOf (mcClearOp t s) t).mot.st = .tensioned ∨ (tpOf (mcClearOp t s) t).mot.st = .released)
      ∧ (tpOf (mcClearOp t s) t).mot.reelStop = false ∧ (tpOf (mcClearOp t s) t).wl.faulted = false ∧ NoFault (tpOf (mcClearOp t s) t) := by
  obtain ⟨hst, hr, hw, hl⟩ := clearTransport_of_faulted h hs
  obtain ⟨hm1, hw1, hl1⟩ := resendFrame_keeps (t := t) false (n := 1) (by decide) (clearTransport t s)
  obtain ⟨hm0, hw0, hl0⟩ := resendFrame_keeps (t := t) false (n := 0) (by decide) (resendFrame false (4 * t.val + 1) (clearTransport t s))
  rw [mcClearOp, show 4 * t.val = 4 * t.val + 0 from rfl, hm0, hw0, hm1, hw1]
  exact ⟨hst, hr, hw, hl0 (hl1 hl)⟩

/-- The heartbeat of a link that has a frame (R349). -/
theorem heartbeatOp_of_frame {l : Nat} (hp : s.hif.ps ≠ 3) (hf : (getLoop s l).frame ≠ 0) : heartbeatOp l s
    = modLoop l (fun p => { p with
        frame := actFrame (BitVec.ofNat 4 (l % 4)) p.linkSeq (p.frame.extractLsb' 16 16) (actDrive (tpOf s (loopT l)) (l % 4)).1
          (actDrive (tpOf s (loopT l)) (l % 4)).2 true }) s := by
  refine (if_neg hp).trans (modTp_congr ?_)
  refine congrArg (fun p => setLoop (l % 4) p (tpOf s (tid (l / 4)))) ((if_neg hf).trans ?_)
  rw [partB_eq_extractLsb']
  rfl

end Commands

/-- Settles O34: the stop ends WL and the motion commands; the other commands by the transport's state. -/
theorem supervisionStops : Obligations.SupervisionStops := by
  unfold Obligations.SupervisionStops
  refine ⟨fun src t cause n s hst hft => ⟨fun hc => ?_, fun hm hr => ?_⟩, fun src t l s hm hr => ?_⟩
  · exact ⟨_, next_congr (congrArg settleHost (if_pos hc)), supervisionStop_of_moving hst hft cause _⟩
  · have hrow := byDebug_of_may (off := Reg.mcTctl t.val) (f := motionCmd t 1) hm hr
    have hv (q : MotState) (hq : q = .stopping ∨ q = .faulted) : (tpOf (hostWakes src s) t).mot.st ≠ q := by
      rcases st_hostWakes src s t with h | h <;> rw [h] <;> rcases hq with rfl | rfl
      exacts [hst, hft, by decide, by decide]
    have hstop := supervisionStop_of_moving (hv _ (.inl rfl)) (hv _ (.inr rfl)) 7 0
    obtain ⟨m, hwake⟩ := tpOf_hostWakes src s t
    refine ⟨_, next_congr (congrArg settleHost hrow), ?_⟩
    rw [Stopped, seqOf, hwake] at hstop
    exact hstop
  · intro v
    have hrow (k : Nat) : motionCmdRow src t k s = motionCmd t k v := byDebug_of_may hm hr
    refine ⟨fun h => ?_, fun h => ?_, fun h hs => ?_, fun h hs => ?_, fun h => ?_, fun h hs => ?_, fun h => ?_, fun h hf => ?_⟩
    · exact next_congr (congrArg settleHost ((hrow 3).trans (tensionOn_of_released h)))
    · exact next_congr (congrArg settleHost ((hrow 3).trans (tensionOn_of_not h)))
    · exact next_congr (congrArg settleHost ((hrow 4).trans (tensionOff_of_tensioned h hs)))
    · exact next_congr (congrArg settleHost ((hrow 4).trans (tensionOff_of_faulted h hs)))
    · exact next_congr (congrArg settleHost ((hrow 4).trans (tensionOff_of_not h)))
    · obtain ⟨hst, hre, hw, hl⟩ := mcClearOp_of_faulted h hs
      exact ⟨_, next_congr (congrArg settleHost (hrow 2)), hst, hre, hw, hl⟩
    · exact next_congr (if_pos h)
    · exact next_congr (heartbeatOp_of_frame h hf)

end Sys2Proof.Machine
end

section
/-! What the operations behind a servo frame and a tick leave of the sensors' records and counts (R154, R206, R209): the view is taken once
per operation, in the order of the model. -/
namespace Sys2Proof.Machine
open Sys2Proof.Safety

/-! ### The view -/

/-- The records of frames and the counts of a transport since its last tick. -/
structure Sensed where
  ticks : Nat
  frames : List (BitVec 128)
  last : BitVec 128
  tickA : Int
  tickB : Int

def sensedMot (m : Mot) : Sensed := ⟨m.ticks, m.frames, m.lastFrame, m.tickA, m.tickB⟩

def sensedTp (tp : Oct Tp) (u : Tid) : Sensed := sensedMot (tp.get u).mot

/-- The records and counts of every transport. -/
def sensed (s : State) : Tid → Sensed := sensedTp s.tp

theorem sensed_of_tp {s u : State} (h : u.tp = s.tp) : sensed u = sensed s := by rw [sensed, h, sensed]

theorem sensed_mrn (s : State) (m : Mrn) : sensed { s with mrn := m } = sensed s := (rfl)

theorem sensed_flt (s : State) (f : Flt) : sensed { s with flt := f } = sensed s := (rfl)

theorem sensed_ite {c : Prop} [Decidable c] (a b : State) : sensed (if c then a else b) = if c then sensed a else sensed b :=
  apply_ite sensed c a b

theorem sensed_forAll {α : Type} (l : List α) {f : α → State → State} (h : ∀ a s, sensed (f a s) = sensed s) (s : State) :
    sensed (forAll l f s) = sensed s := forAll_keeps h l s

theorem sensed_modTp {t : Tid} {f : Tp → Tp} (h : ∀ x, sensedMot (f x).mot = sensedMot x.mot) (s : State) : sensed (modTp t f s) = sensed s := by
  funext u
  show sensedMot (tpOf (modTp t f s) u).mot = sensedMot (tpOf s u).mot
  by_cases hu : u = t
  · subst hu
    rw [tpOf_modTp, h]
  · rw [tpOf_modTp_ne t u f s hu]

theorem sensed_modMot {t : Tid} {f : Mot → Mot} (h : ∀ m, sensedMot (f m) = sensedMot m) (s : State) : sensed (modMot t f s) = sensed s :=
  sensed_modTp (by intro x; exact h x.mot) s

/-! ### Registers, slices and ports -/

theorem sensed_setReg (off v s) : sensed (setReg off v s) = sensed s := sensed_of_tp rfl
theorem sensed_setFld (off f x s) : sensed (setFld off f x s) = sensed s := sensed_of_tp (setFld_tp off f x s)
theorem sensed_raiseFld (off f s) : sensed (raiseFld off f s) = sensed s := sensed_setFld off f 1 s
theorem sensed_bumpFld (off f s) : sensed (bumpFld off f s) = sensed s := sensed_of_tp (bumpFld_tp off f s)
theorem sensed_takeFree (s) : sensed (takeFree s).2 = sensed s := sensed_of_tp rfl
theorem sensed_logFault (u k c w d s) : sensed (logFault u k c w d s) = sensed s := sensed_of_tp (logFault_tp u k c w d s)
theorem sensed_notice (code s) : sensed (notice code s) = sensed s := sensed_of_tp (notice_tp code s)
theorem sensed_countEvent (u s) : sensed (countEvent u s) = sensed s := sensed_of_tp (countEvent_tp u s)
theorem sensed_clearEvent (u s) : sensed (clearEvent u s) = sensed s := sensed_of_tp rfl
theorem sensed_setEvent (t n s) : sensed (setEvent t n s) = sensed s := sensed_modTp (fun _ => by rfl) s
theorem sensed_modVfy (t f s) : sensed (modVfy t f s) = sensed s := sensed_modTp (fun _ => by rfl) s
theorem sensed_modDs (t n f s) : sensed (modDs t n f s) = sensed s := sensed_modVfy t _ s
theorem sensed_modWl (t f s) : sensed (modWl t f s) = sensed s := sensed_modTp (fun _ => by rfl) s
theorem sensed_modRc (t f s) : sensed (modRc t f s) = sensed s := sensed_modTp (fun _ => by rfl) s
theorem sensed_modYoyo (t f s) : sensed (modYoyo t f s) = sensed s := sensed_modTp (fun _ => by rfl) s

theorem sensed_modLoop (l f s) : sensed (modLoop l f s) = sensed s := by
  refine sensed_modTp (fun x => ?_) s
  unfold setLoop
  split <;> rfl

theorem sensed_of_stages {s u : State} (h : ∀ t, stages (tpOf u t) = stages (tpOf s t)) : sensed u = sensed s := by
  funext t
  exact congrArg sensedMot (mot_of_stages (h t))

theorem sensed_finish (t n k st v s) : sensed (finish t n k st v s) = sensed s := sensed_of_stages (stages_finish t n k st v s)
theorem sensed_reject (t n x s) : sensed (reject t n x s) = sensed s := sensed_finish t n _ _ _ s
theorem sensed_takeDesc (t n k s) : sensed (takeDesc t n k s) = sensed s := sensed_of_stages (stages_takeDesc t n k s)

/-! ### Fault events of transports and loops -/

theorem sensed_writeDisable (t cause s) : sensed (writeDisable t cause s) = sensed s := by
  unfold writeDisable
  split
  · rfl
  · rw [sensed_notice, sensed_of_tp (dropWrites_tp t cause _)]
    exact sensed_modTp (fun _ => by rfl) s

theorem sensed_regrant (s) : sensed (regrant s) = sensed s := by
  funext t
  exact tpOf_regrant (fun x => sensedMot x.mot) (fun _ _ => rfl) s t

theorem sensed_disableWrites (t cause s) : sensed (disableWrites t cause s) = sensed s :=
  (sensed_regrant _).trans (sensed_writeDisable t cause s)

theorem sensed_retireUnit {u : BitVec 16} (hu : unitClass u = 7 ∨ unitClass u = 8) (s) : sensed (retireUnit u s) = sensed s := by
  unfold retireUnit
  rcases hu with h | h <;> rw [h] <;> exact (sensed_disableWrites _ 3 _).trans (sensed_of_tp (markRetired_tp u s))

theorem sensed_escalate {u : BitVec 16} (hu : unitClass u = 7 ∨ unitClass u = 8) (code d s) : sensed (escalate u code d s) = sensed s := by
  unfold escalate
  dsimp only
  split
  · exact (sensed_retireUnit hu _).trans (sensed_of_tp (by simp))
  · exact sensed_of_tp (by simp)

theorem sensed_faultEvent {u : BitVec 16} (hu : unitClass u = 7 ∨ unitClass u = 8) (code d s) : sensed (faultEvent u code d s) = sensed s := by
  unfold faultEvent
  extract_lets c r n
  have hc : sensed c = sensed s := sensed_countEvent u s
  clear_value n r c
  split
  · rw [sensed_logFault, sensed_flt, hc]
  · rw [sensed_escalate hu, hc]

/-! ### The ends of motion, and supervision stops -/

theorem sensed_endHostLocate (c st s) : sensed (endHostLocate c st s) = sensed s := sensed_of_tp (endHostLocate_tp c st s)
theorem sensed_loadFault (t s) : sensed (loadFault t s) = sensed s := sensed_of_tp (loadFault_tp t s)

theorem sensed_stopMot (s t c m) : sensedMot (stopMot s t c m) = sensedMot m := by
  unfold stopMot
  dsimp only
  split <;> rfl

theorem sensed_nextPup (t s) : sensed (nextPup t s) = sensed s := by
  refine sensed_modTp (fun x => ?_) s
  split
  · dsimp only
    split
    · rfl
    · split
      · exact sensed_stopMot _ _ _ _
      · split <;> rfl
  · rfl

theorem sensed_endMotion (t st v s) : sensed (endMotion t st v s) = sensed s := by
  unfold endMotion
  split
  · rfl
  · extract_lets u w
    have hu : sensed u = sensed s := sensed_modMot (fun _ => by rfl) s
    have hw : sensed w = sensed u := by
      unfold w
      split
      · exact sensed_finish _ _ _ _ _ u
      · rfl
    rw [sensed_nextPup, sensed_endHostLocate, hw, hu]

theorem sensed_goArmed (t s) : sensed (goArmed t s) = sensed s := by
  obtain ⟨hno, hyes⟩ := goArmed_cases t s
  by_cases h : (tpOf s t).mot.armed.isSome = true ∧ (tpOf s t).mot.armGo = false ∧ (tpOf s t).mot.st = .tensioned ∧ (tpOf s t).yoyo.pause = 0
  · rw [hyes h]
    exact sensed_modMot (fun _ => by rfl) s
  · rw [hno h]

theorem sensed_endArms (t st which s) : sensed (endArms t st which s) = sensed s := by
  unfold endArms
  dsimp only
  rw [sensed_modTp (fun _ => by rfl)]
  exact sensed_forAll _ (fun _ _ => sensed_finish _ _ _ _ _ _) s

theorem sensed_wlMotionFault (t s) : sensed (wlMotionFault t s) = sensed s := by
  unfold wlMotionFault
  dsimp only
  rw [sensed_endArms, sensed_forAll _ (fun _ _ => sensed_finish _ _ _ _ _ _)]
  exact sensed_modTp (fun _ => by rfl) s

theorem sensed_motMotionFault (t s) : sensed (motMotionFault t s) = sensed s := by
  unfold motMotionFault
  dsimp only
  rw [sensed_forAll _ (fun _ _ => sensed_finish _ _ _ _ _ _), sensed_endMotion, sensed_forAll _ (fun _ _ => sensed_endHostLocate _ _ _),
    sensed_modMot (fun _ => by rfl), sensed_loadFault]

theorem sensed_resendFrame (rep l s) : sensed (resendFrame rep l s) = sensed s := sensed_modLoop l _ s

theorem sensed_supervisionStop (t : Tid) (cause n s) : sensed (supervisionStop t cause n s) = sensed s := by
  unfold supervisionStop
  extract_lets m u a b reel c d e
  have ha : sensed a = sensed s := by
    unfold a
    split
    · exact sensed_faultEvent (.inl (unitClass_transport t)) _ _ _
    · exact sensed_logFault _ _ _ _ _ _
  have hb : sensed b = sensed a := sensed_bumpFld _ _ a
  have hc : sensed c = sensed b := sensed_modMot (by intro m; rfl) b
  have hd : sensed d = sensed c := sensed_modTp (by intro x; rfl) c
  have he : sensed e = sensed d := by
    unfold e
    split
    · rw [sensed_resendFrame, sensed_resendFrame]
    · rfl
  split
  · rfl
  · split
    · exact sensed_logFault _ _ _ _ _ _
    · rw [sensed_notice, sensed_motMotionFault, sensed_setEvent, sensed_wlMotionFault, he, hd, hc, hb, ha]

/-! ### The loops' triggers -/

theorem unitClass_loop {l : Nat} (hl : l < 32) : unitClass (loopUnit l) = 8 := by
  interval_cases l <;> rfl

theorem sensed_latchInputs (l s) : sensed (latchInputs l s) = sensed s := sensed_modLoop l _ s

theorem sensed_takeMode (l s) : sensed (takeMode l s) = sensed s := by
  simp only [takeMode, sensed_ite, ite_self, sensed_modLoop, sensed_setReg]

theorem sensed_injTrigger (l s) : sensed (injTrigger l s) = sensed s := by
  simp only [injTrigger, sensed_ite, sensed_mrn, ite_self]

theorem sensed_capture (l s) : sensed (capture l s) = sensed s := by
  simp only [capture, sensed_ite, sensed_raiseFld, sensed_mrn, ite_self]

theorem sensed_armLoopCapture (s) : sensed (armLoopCapture s) = sensed s := by
  unfold armLoopCapture
  extract_lets u
  have hu : sensed u = sensed s := sensed_setFld _ _ _ s
  clear_value u
  exact (sensed_mrn u _).trans hu

theorem sensed_tuneAbort (s) : sensed (tuneAbort s) = sensed s := by
  unfold tuneAbort
  split
  · rfl
  · simp only [sensed_logFault, sensed_mrn, sensed_setFld]

theorem sensed_setSigned (off f x s) : sensed (setSigned off f x s) = sensed s := sensed_setFld off f _ s

theorem sensed_tuneRelay (k s) : sensed (tuneRelay k s) = sensed s := by
  unfold tuneRelay
  extract_lets t n p js bias h d a b
  have ha : sensed a = sensed s := (sensed_setSigned _ _ _ _).trans ((sensed_setSigned _ _ _ _).trans (sensed_setSigned _ _ _ s))
  have hb : sensed b = sensed a := sensed_setFld _ _ _ a
  clear_value b a
  rw [sensed_armLoopCapture, sensed_mrn, hb, ha]

theorem sensed_bandStore (t : Tid) (f : Mot → SMap (BitVec 64)) (s) : sensed (modMot t (fun m => { m with bandStore := f m }) s) = sensed s :=
  sensed_modMot (fun _ => by rfl) s

theorem sensed_tuneFinish (k s) : sensed (tuneFinish k s) = sensed s := by
  unfold tuneFinish
  dsimp only
  (repeat' split) <;>
    simp only [sensed_tuneAbort, sensed_mrn, sensed_setFld, sensed_bandStore, sensed_modLoop, sensed_takeFree]

theorem sensed_tuneStep (l switched s) : sensed (tuneStep l switched s) = sensed s := by
  unfold tuneStep
  split
  · rfl
  · simp only [sensed_ite, sensed_tuneRelay, sensed_tuneFinish, sensed_mrn, ite_self]

theorem sensed_ferrTime (l add s) : sensed (ferrTime l add s) = sensed s := sensed_modLoop l _ s
theorem sensed_sendCommand (l s) : sensed (sendCommand l s) = sensed s := sensed_modLoop l _ s

theorem sensed_stepYsp (seek m) : sensedMot (stepYsp seek m) = sensedMot m := by
  unfold stepYsp
  split
  · dsimp only
    split
    · rfl
    · split <;> rfl
  · rfl

theorem sensed_commitLoop (l staged written cyc satf s) : sensed (commitLoop l staged written cyc satf s) = sensed s := by
  simp only [commitLoop, sensed_tuneStep, sensed_capture, sensed_ite, sensed_ferrTime, sensed_stepYsp, implies_true, sensed_modMot,
    sensed_sendCommand, sensed_bumpFld, sensed_clearEvent, sensed_modLoop, ite_self]

theorem sensed_loopOverrun {l : Nat} (hl : l < 32) (s) : sensed (loopOverrun l s) = sensed s := by
  simp only [loopOverrun, sensed_ite, sensed_supervisionStop, sensed_modLoop, sensed_faultEvent (.inr (unitClass_loop hl)), sensed_bumpFld,
    sensed_raiseFld, sensed_mrn, ite_self]

theorem sensed_trigger {l : Nat} (hl : l < 32) (fs s) : sensed (trigger l fs s) = sensed s := by
  simp only [trigger, sensed_ite, sensed_latchInputs, sensed_takeMode, sensed_modLoop, sensed_loopOverrun hl, sensed_injTrigger,
    sensed_commitLoop, ite_self]

/-! ### A start that is taken, or missed (R96, R227) -/

theorem sensed_ownLocate (t p s) : sensed (ownLocate t p s) = sensed s := sensed_modMot (fun _ => by rfl) s

theorem sensed_resumeAt (t n order s) : sensed (resumeAt t n order s) = sensed s := by
  simp only [resumeAt, sensed_modWl, sensed_modVfy, sensed_endArms]

theorem sensed_sendNotice (t e s) : sensed (sendNotice t e s) = sensed s := sensed_modRc t _ s

theorem sensed_wlBegin (t y s) : sensed (wlBegin t y s) = sensed s := by
  simp only [wlBegin, sensed_ite, sensed_modDs, sensed_modVfy, sensed_sendNotice, sensed_modWl, sensed_resumeAt, sensed_takeDesc, ite_self]

theorem sensed_wlTake (t s) : sensed (wlTake t s) = sensed s := by
  unfold wlTake
  split
  · rfl
  · simp only [sensed_ite, sensed_reject, sensed_finish, sensed_wlBegin, ite_self]

theorem sensed_startTaken (t s) : sensed (startTaken t s) = sensed s := by
  unfold startTaken
  extract_lets u
  have hu : sensed u = sensed s := sensed_modMot (by intro m; rfl) s
  split
  · rw [sensed_wlTake, hu]
  · exact hu

theorem sensed_startMissed (t p s) : sensed (startMissed t p s) = sensed s := by
  unfold startMissed
  extract_lets u n
  have hu : sensed u = sensed s := sensed_bumpFld _ _ s
  split
  · rw [sensed_supervisionStop, hu]
  · rw [sensed_ownLocate, sensed_modMot (by intro m; rfl), hu]

theorem sensed_armedFrame (t a b s) : sensed (armedFrame t a b s) = sensed s := by
  unfold armedFrame
  dsimp only
  split
  · rfl
  · simp only [sensed_ite, sensed_startTaken, sensed_startMissed, ite_self]

theorem sensed_positionEvents (t a b s) : sensed (positionEvents t a b s) = sensed s := by
  simp only [positionEvents, sensed_ite, sensed_setEvent, ite_self]

theorem capTrigger_tp (c n s) : (capTrigger c n s).tp = s.tp := by
  unfold capTrigger
  split <;> rfl

theorem sensed_capLpos (t lpos s) : sensed (capLpos t lpos s) = sensed s := by
  refine sensed_forAll _ (fun n u => ?_) s
  simp only [sensed_ite, sensed_setReg, sensed_takeFree, sensed_of_tp (capTrigger_tp _ n u), ite_self]

/-! ### Yo-yo and the set-point of a tick (R199, R200, R225, R230) -/

theorem sensed_endPause (t s) : sensed (endPause t s) = sensed s := by
  unfold endPause resumePause
  split
  · rfl
  · dsimp only
    rw [sensed_goArmed, sensed_modYoyo]
  · exact sensed_modYoyo t _ s

theorem sensed_pausePark (t s) : sensed (pausePark t s) = sensed s := by
  unfold pausePark wlQuiet
  dsimp only
  rw [sensed_ownLocate, sensed_modWl, sensed_modYoyo]

theorem sensed_pauseBegin (t s) : sensed (pauseBegin t s) = sensed s := by
  simp only [pauseBegin, sensed_ite, sensed_pausePark, sensed_modYoyo, sensed_bumpFld, ite_self]

theorem sensed_refPause (t s) : sensed (refPause t s) = sensed s := by
  simp only [refPause, sensed_ite, sensed_pauseBegin, ite_self]

theorem sensed_pauseWatch (t s) : sensed (pauseWatch t s) = sensed s := by
  simp only [pauseWatch, sensed_ite, sensed_endPause, sensed_modYoyo, ite_self]

theorem sensed_yoyoLaw (t s) : sensed (yoyoLaw t s) = sensed s := by
  unfold yoyoLaw
  dsimp only
  split
  · exact sensed_modYoyo t _ s
  · simp only [sensed_ite, sensed_modYoyo, sensed_bumpFld, ite_self]

theorem sensed_speed (t : Tid) (b : Bool) (f : Mot → Int) (s) : sensed (modMot t (fun m => { m with vsrc := b, vtape := f m }) s) = sensed s :=
  sensed_modMot (fun _ => by rfl) s

theorem sensed_measureSpeed (t s) : sensed (measureSpeed t s) = sensed s := by
  unfold measureSpeed
  dsimp only
  split
  · exact sensed_speed t false _ s
  · split
    · rw [sensed_speed, sensed_takeFree]
    · exact sensed_speed t true _ s

theorem radiusNext_tp (r v ticks cpr s) : (radiusNext r v ticks cpr s).2.tp = s.tp := by
  unfold radiusNext
  split <;> rfl

theorem sensed_measureRadius (t s) : sensed (measureRadius t s) = sensed s := by
  unfold measureRadius
  extract_lets m a u b
  have ha : sensed a.2 = sensed s := sensed_of_tp (radiusNext_tp _ _ _ _ s)
  have hu : sensed u = sensed a.2 := sensed_setFld _ _ _ a.2
  have hb : sensed b.2 = sensed u := sensed_of_tp (radiusNext_tp _ _ _ _ u)
  clear_value b u a
  split
  · rw [sensed_setFld, hb, hu, ha]
  · rfl

theorem sensed_band (t : Tid) (b : Nat) (s) : sensed (modMot t (fun m => { m with band := b }) s) = sensed s := sensed_modMot (fun _ => by rfl) s

theorem sensed_assignBand (t s) : sensed (assignBand t s) = sensed s := by
  simp only [assignBand, sensed_ite, sensed_modLoop, sensed_modYoyo, sensed_setEvent, sensed_band, ite_self]

theorem sensed_sendFreq (t s) : sensed (sendFreq t s) = sensed s := sensed_modWl t _ s

theorem sensed_setvStep (t s) : sensed (setvStep t s) = sensed s := by
  unfold setvStep
  extract_lets m g stop a lim v u
  have hu : sensed u = sensed s := by
    unfold u setRunup
    split
    · exact sensed_setFld _ _ _ s
    · rfl
  rw [sensed_modMot (by intro m; rfl), hu]

theorem sensed_superTimers (t s) : sensed (superTimers t s) = sensed s := by
  unfold superTimers
  extract_lets m v tens outside a b
  have ha : sensed a = sensed s := sensed_modMot (by intro m; rfl) s
  have hb : sensed b = sensed a := sensed_forAll _ (fun _ _ => sensed_ferrTime _ _ _) a
  split
  · rw [sensed_modMot (by intro m; rfl), hb, ha]
  · rw [hb, ha]

theorem sensed_utilTick (t s) : sensed (utilTick t s) = sensed s := by
  simp only [utilTick, sensed_ite, sensed_mrn, ite_self]

end Sys2Proof.Machine
end

section
/-! The sensors of a transport: frame records, timeouts, motion-sensor records, encoder edges, the tick and a stale frequency word (R30,
R150-R154, R206, R209-R211). -/
namespace Sys2Proof.Machine
open Sys2Proof.Safety

/-! ### The words of the records -/

theorem patternOf_lt (w : Nat) (x : Int) : patternOf w x < 2 ^ w := by
  have h : (0 : Int) < 2 ^ w := by positivity
  have hl := Int.emod_lt_of_pos x h
  have hn := Int.emod_nonneg x h.ne'
  unfold patternOf
  zify
  rwa [Int.toNat_of_nonneg hn]

theorem patternOf_eq_toNat_ofInt (w : Nat) (x : Int) : patternOf w x = (BitVec.ofInt w x).toNat := by
  rw [BitVec.toNat_ofInt]
  norm_cast

theorem extract_ofNat {n N lo w : Nat} {v : BitVec w} (hN : N < 2 ^ n) (h : N / 2 ^ lo % 2 ^ w = v.toNat) :
    (BitVec.ofNat n N).extractLsb' lo w = v := by
  apply BitVec.eq_of_toNat_eq
  rw [BitVec.extractLsb'_toNat, BitVec.toNat_ofNat, Nat.mod_eq_of_lt hN, Nat.shiftRight_eq_div_pow, h]

theorem getLsbD_ofNat_eq {n N i : Nat} {b : Bool} (hi : i < n) (h : N / 2 ^ i % 2 = b.toNat) : (BitVec.ofNat n N).getLsbD i = b := by
  rw [BitVec.getLsbD_ofNat, decide_eq_true hi, Bool.true_and, Nat.testBit_eq_decide_div_mod_eq, h]
  cases b <;> rfl

/-- The number of a frame record, from its fields (R154). -/
def frameNat (y v b r l d p period tstamp : Nat) : Nat :=
  y + 2 ^ 24 * v + 2 ^ 25 * b + 2 ^ 26 * r + 2 ^ 27 * l + 2 ^ 28 * d + p * 2 ^ 29 + 2 ^ 64 * period + 2 ^ 96 * tstamp

/-- A frame record, with its position, validity bits, direction, period and time stamp. -/
structure FrameFields (x : BitVec 128) (y : Int) (va vb rev : Bool) (period tstamp : W32) : Prop where
  y : x.extractLsb' 0 24 = BitVec.ofInt 24 y
  va : x.getLsbD 24 = va
  vb : x.getLsbD 25 = vb
  rev : x.getLsbD 26 = rev
  period : x.extractLsb' 64 32 = period
  tstamp : x.extractLsb' 96 32 = tstamp

theorem frameFields_frameNat (y b : Int) (va vb rev lv dis : Bool) (period tstamp : W32) :
    FrameFields (BitVec.ofNat 128 (frameNat (recField 0 24 y) va.toNat vb.toNat rev.toNat lv.toNat dis.toNat (patternOf 23 b) period.toNat
      tstamp.toNat)) y va vb rev period tstamp := by
  have hy := patternOf_lt 24 y
  have hb := patternOf_lt 23 b
  have hp := period.isLt
  have ht := tstamp.isLt
  have hva := va.toNat_le
  have hvb := vb.toNat_le
  have hrev := rev.toNat_le
  have hlv := lv.toNat_le
  have hdis := dis.toNat_le
  have hrec : recField 0 24 y = patternOf 24 y := Nat.mul_one _
  have hofInt := patternOf_eq_toNat_ofInt 24 y
  refine ⟨extract_ofNat ?_ ?_, getLsbD_ofNat_eq (by decide) ?_, getLsbD_ofNat_eq (by decide) ?_, getLsbD_ofNat_eq (by decide) ?_,
    extract_ofNat ?_ ?_, extract_ofNat ?_ ?_⟩ <;> simp only [frameNat, hrec, ← hofInt] <;> omega

theorem motionWord_fields (tens : BitVec 16) (k : Int) (v : Bool) : (motionWord tens k v).extractLsb' 0 16 = tens
    ∧ (motionWord tens k v).extractLsb' 16 24 = BitVec.ofInt 24 k ∧ (motionWord tens k v).getLsbD 40 = v
    ∧ (motionWord tens k v).extractLsb' 41 15 = 0 ∧ (motionWord tens k v).extractLsb' 56 8 = 0xA5 := by
  have hk := patternOf_lt 24 k
  have ht := tens.isLt
  have hv := v.toNat_le
  have hofInt := patternOf_eq_toNat_ofInt 24 k
  have hzero : (0 : BitVec 15).toNat = 0 := rfl
  have hmark : (0xA5 : BitVec 8).toNat = 0xA5 := rfl
  refine ⟨extract_ofNat ?_ ?_, extract_ofNat ?_ ?_, getLsbD_ofNat_eq (by decide) ?_, extract_ofNat ?_ ?_, extract_ofNat ?_ ?_⟩ <;>
    simp only [recField, ← hofInt, hzero, hmark] <;> omega

/-! ### A frame record and a timeout -/

theorem countFrame_frames (fwd bit m) : (countFrame fwd bit m).frames = m.frames := by
  unfold countFrame
  dsimp only
  split <;> rfl

theorem frames_of_sensed {s u : State} (h : sensed u = sensed s) (t : Tid) :
    (tpOf u t).mot.frames = (tpOf s t).mot.frames ∧ (tpOf u t).mot.lastFrame = (tpOf s t).mot.lastFrame := by
  have ht := congrFun h t
  exact ⟨congrArg Sensed.frames ht, congrArg Sensed.last ht⟩

theorem frameRecord_spec (t : Tid) (va vb dis rev : Bool) (y : Int) (bit : Option Bool) (period tstamp : W32) (s : State) :
    ∃ x, FrameFields x y va vb rev period tstamp
      ∧ (tpOf (frameRecord t va vb dis rev y bit period tstamp s) t).mot.frames = x :: (tpOf s t).mot.frames
      ∧ (tpOf (frameRecord t va vb dis rev y bit period tstamp s) t).mot.lastFrame = x := by
  unfold frameRecord
  extract_lets a c m b r none_ loss d e f yo g h
  have hm : m.frames = (tpOf s t).mot.frames := by
    unfold m c
    rw [tpOf_modMot]
    exact countFrame_frames _ _ _
  have hd : (tpOf d t).mot.frames = r :: m.frames ∧ (tpOf d t).mot.lastFrame = r := by
    unfold d
    rw [tpOf_modMot]
    exact ⟨rfl, rfl⟩
  have he : sensed e = sensed d := by rw [sensed_ite, sensed_bumpFld, ite_self]
  have hf : sensed f = sensed e := by rw [sensed_ite, sensed_bumpFld, ite_self]
  have hg : sensed g = sensed f := by rw [sensed_ite, sensed_modYoyo, ite_self]
  have hh : sensed h = sensed g := by rw [sensed_armedFrame, sensed_positionEvents, sensed_capLpos]
  have hl : 4 * t.val + 2 < 32 := by omega
  have hend := frames_of_sensed ((sensed_trigger hl (period.toNat * 15625) h).trans (hh.trans (hg.trans (hf.trans he)))) t
  refine ⟨r, frameFields_frameNat y b va vb rev m.lv dis period tstamp, ?_, ?_⟩
  · rw [hend.1, hd.1, hm]
  · rw [hend.2, hd.2]

theorem servoFrame_spec {t : Tid} {s : State} (f : ServoIn) (h : isOffline s t = false) : ∃ x y,
    (tpOf (servoFrameOp t f s) t).mot.frames = x :: (tpOf s t).mot.frames ∧ (tpOf (servoFrameOp t f s) t).mot.lastFrame = x
      ∧ (∃ stamp : W32, FrameFields x y (bandValid f.a) (bandValid f.b) (frameReverse (tpOf s t).mot.lastFrame f)
          (framePeriod (tpOf s t).mot.lastP (frameTime f)) stamp ∧ ∀ n, frameTime f = some n → stamp = BitVec.ofNat 32 (n / 64))
      ∧ (bandValid f.a = true → bandValid f.b = false → y = bandY s t f.a (fld s (Reg.svOffa t) Fld.svOffaOff))
      ∧ (bandValid f.a = false → bandValid f.b = true → y = bandY s t f.b (fld s (Reg.svOffb t) Fld.svOffbOff)) := by
  unfold servoFrameOp
  rw [if_neg (by simp [h])]
  extract_lets va vb ya yb dis y bit now free stamp period rev u
  have hu : (tpOf u t).mot.frames = (tpOf s t).mot.frames := by
    have hstamp : stamp.2.tp = s.tp := by
      unfold stamp
      generalize now = o
      cases o <;> rfl
    unfold u
    rw [tpOf_modMot]
    exact congrArg (fun tp : Oct Tp => (tp.get t).mot.frames) hstamp
  obtain ⟨x, hx, hframes, hlast⟩ := frameRecord_spec t va vb dis rev y bit period stamp.1 u
  clear_value u
  refine ⟨x, y, by rw [hframes, hu], hlast, ⟨stamp.1, hx, fun n hn => ?_⟩, fun ha hb => ?_, fun ha hb => ?_⟩
  · have hnow : now = some n := hn
    unfold stamp
    rw [hnow]
  · have hva : va = true := ha
    have hvb : vb = false := hb
    exact (by simp [y, hva, hvb] : y = ya)
  · have hva : va = false := ha
    have hvb : vb = true := hb
    exact (by simp [y, hva, hvb] : y = yb)

theorem fieldB_bit_eq (l : BitVec 128) (i : Nat) : (fieldB l i 1 == 1) = l.getLsbD i := by
  rw [← bitOf_toNat]
  rfl

theorem frames_lastP (t : Tid) (v : Option Nat) (s : State) :
    (tpOf (modMot t (fun m => { m with lastP := v }) s) t).mot.frames = (tpOf s t).mot.frames := by
  rw [tpOf_modMot]

theorem servoTimeout_spec {t : Tid} {s : State} (tstamp : W32) (h : isOffline s t = false) : ∃ x y,
    (tpOf (servoTimeoutOp t tstamp s) t).mot.frames = x :: (tpOf s t).mot.frames
      ∧ FrameFields x y false false ((tpOf s t).mot.lastFrame.getLsbD 26) 0 tstamp := by
  unfold servoTimeoutOp
  rw [if_neg (by simp [h]), ← fieldB_bit_eq]
  extract_lets l
  have hu := frames_lastP t none s
  generalize modMot t (fun m => { m with lastP := none }) s = u at hu ⊢
  obtain ⟨x, hx, hframes, -⟩ := frameRecord_spec t false false false (fieldB l 26 1 == 1) (signedOf 24 (fieldB l 0 24)) none 0 tstamp u
  exact ⟨x, _, by rw [hframes, hu], hx⟩

/-! ### Motion-sensor records -/

theorem openQuot_mul_bounds (n : Nat) {d : Nat} (hd : d ≠ 0) : d * openQuot n d < n + d ∧ n < d * openQuot n d + d := by
  have hdiv := Nat.div_add_mod n d
  have hmod := Nat.mod_lt n (Nat.pos_of_ne_zero hd)
  unfold openQuot
  split
  · omega
  · split
    · rw [Nat.mul_add, Nat.mul_one]
      omega
    · omega

theorem openQuotI_dist (n : Int) {d : Nat} (hd : d ≠ 0) : (openQuotI n d * d - n).natAbs < d := by
  unfold openQuotI
  split
  · obtain ⟨hlo, hhi⟩ := openQuot_mul_bounds n.toNat hd
    zify at hlo hhi
    rw [mul_comm]
    omega
  · obtain ⟨hlo, hhi⟩ := openQuot_mul_bounds (-n).toNat hd
    zify at hlo hhi
    rw [mul_comm, mul_neg]
    omega

theorem skewMean_spec (s : State) (t : Tid) : (skewMean s t).2.tp = s.tp ∧ (skewMean s t).2.regs = s.regs
    ∧ ((tpOf s t).mot.skewN ≠ 0 →
      ((skewMean s t).1 * (tpOf s t).mot.skewN - (tpOf s t).mot.skewSum).natAbs < (tpOf s t).mot.skewN) := by
  unfold skewMean
  extract_lets m
  split
  · next h => exact ⟨rfl, rfl, fun hn => absurd h hn⟩
  · exact ⟨rfl, rfl, fun hn => openQuotI_dist _ hn⟩

theorem motionRecord_spec {t : Tid} {s : State} (tens : BitVec 16) (h : isOffline s t = false) :
    (tpOf (motionRecordOp t tens s) t).mot = { (tpOf s t).mot with
        motion := motionWord tens (skewMean s t).1 ((tpOf s t).mot.skewN != 0), skewSum := 0, skewN := 0 }
      ∧ (motionRecordOp t tens s).regs = s.regs := by
  obtain ⟨htp, hregs, -⟩ := skewMean_spec s t
  have hmot : (tpOf (skewMean s t).2 t).mot = (tpOf s t).mot := congrArg (fun tp : Oct Tp => (tp.get t).mot) htp
  unfold motionRecordOp
  rw [if_neg (by simp [h])]
  extract_lets k
  rw [tpOf_modMot]
  refine ⟨?_, hregs⟩
  show ({ (tpOf k.2 t).mot with motion := _, skewSum := 0, skewN := 0 } : Mot) = _
  rw [hmot]

/-! ### Encoder edges, the tick and the clock crossing -/

theorem countEdge_up {cpr c : Nat} (h : c < cpr) : countEdge cpr c true = (c + 1) % cpr := by
  unfold countEdge
  rw [if_pos rfl]
  split
  · have hc : c + 1 = cpr := by omega
    rw [hc, Nat.mod_self]
  · rw [Nat.mod_eq_of_lt (by omega)]

theorem countEdge_down {cpr c : Nat} (h : c < cpr) : countEdge cpr c false = (c + cpr - 1) % cpr := by
  unfold countEdge
  rw [if_neg (by decide)]
  split
  · rw [Nat.mod_eq_of_lt (by omega)]
    omega
  · have hc : c + cpr - 1 = c - 1 + cpr := by omega
    rw [hc, Nat.add_mod_right, Nat.mod_eq_of_lt (by omega)]

theorem encoderEdge_a {t : Tid} {s : State} {cpr : Nat} (hc : cpr = fld s (Reg.mcEnc t) Fld.mcEncCpra) (h : (tpOf s t).mot.encA < cpr) :
    encoderEdgeOp t false .up s = modMot t (fun m => { m with
      encA := (m.encA + 1) % cpr, tickA := m.tickA + 1, turnsA := m.turnsA + 1 }) s
    ∧ encoderEdgeOp t false .down s = modMot t (fun m => { m with
      encA := (m.encA + cpr - 1) % cpr, tickA := m.tickA - 1, turnsA := m.turnsA + 1 }) s := by
  have hup : encoderEdgeOp t false .up s = modMot t (fun m => { m with
      encA := countEdge cpr m.encA true, tickA := m.tickA + 1, turnsA := m.turnsA + 1 }) s := by
    rw [hc]
    rfl
  have hdown : encoderEdgeOp t false .down s = modMot t (fun m => { m with
      encA := countEdge cpr m.encA false, tickA := m.tickA - 1, turnsA := m.turnsA + 1 }) s := by
    rw [hc]
    rfl
  rw [hup, hdown]
  exact ⟨modMot_congr (by rw [countEdge_up h]), modMot_congr (by rw [countEdge_down h])⟩

theorem encoderEdge_b {t : Tid} {s : State} {cpr : Nat} (hc : cpr = fld s (Reg.mcEnc t) Fld.mcEncCprb) (h : (tpOf s t).mot.encB < cpr) :
    encoderEdgeOp t true .up s = modMot t (fun m => { m with
      encB := (m.encB + 1) % cpr, tickB := m.tickB + 1, turnsB := m.turnsB + 1 }) s
    ∧ encoderEdgeOp t true .down s = modMot t (fun m => { m with
      encB := (m.encB + cpr - 1) % cpr, tickB := m.tickB - 1, turnsB := m.turnsB + 1 }) s := by
  have hup : encoderEdgeOp t true .up s = modMot t (fun m => { m with
      encB := countEdge cpr m.encB true, tickB := m.tickB + 1, turnsB := m.turnsB + 1 }) s := by
    rw [hc]
    rfl
  have hdown : encoderEdgeOp t true .down s = modMot t (fun m => { m with
      encB := countEdge cpr m.encB false, tickB := m.tickB - 1, turnsB := m.turnsB + 1 }) s := by
    rw [hc]
    rfl
  rw [hup, hdown]
  exact ⟨modMot_congr (by rw [countEdge_up h]), modMot_congr (by rw [countEdge_down h])⟩

theorem tick_spec (t : Tid) (s : State) : sensed (tickOp t s) t = ⟨(tpOf s t).mot.ticks + 1, [], (tpOf s t).mot.lastFrame, 0, 0⟩ := by
  unfold tickOp
  extract_lets a b c d e f g h k
  have ha : sensed a = sensed s := by rw [sensed_measureRadius, sensed_measureSpeed]
  have hf : sensed f = sensed b := by
    rw [sensed_superTimers, sensed_setvStep, sensed_nextPup, sensed_refPause, sensed_pauseWatch, sensed_yoyoLaw, sensed_sendFreq,
      sensed_assignBand]
  have hb : sensed b t = { sensed a t with ticks := (sensed a t).ticks + 1 } := by
    show sensedMot (tpOf b t).mot = _
    unfold b
    rw [tpOf_modMot]
    rfl
  have hg : sensed g t = ⟨(sensed f t).ticks, [], (sensed f t).last, 0, 0⟩ := by
    show sensedMot (tpOf g t).mot = _
    unfold g
    rw [tpOf_modMot]
    rfl
  have hh : sensed h = sensed g := by rw [sensed_ite, sensed_endMotion, ite_self]
  have hk : sensed k = sensed h := by
    refine forAll_holds (P := fun u => sensed u = sensed h) (fun n hn u hu => ?_) rfl
    have hl : 4 * t.val + n < 32 := by
      simp only [List.mem_cons, List.not_mem_nil, or_false] at hn
      omega
    exact (sensed_trigger hl 100000000000 u).trans hu
  rw [sensed_utilTick, hk, hh, hg, hf, hb, ha]
  rfl

theorem freqStale_spec (s : State) : fld (freqStaleOp s) Reg.glbCdcerr Fld.glbCdcerrFreqStale = 1
    ∧ fld (freqStaleOp s) Reg.glbCdccnt Fld.glbCdccntEvents = min (fld s Reg.glbCdccnt Fld.glbCdccntEvents + 1) (2 ^ Fld.glbCdccntEvents.w - 1)
    ∧ (∀ off, off ≠ Reg.glbCdcerr → off ≠ Reg.glbCdccnt → reg (freqStaleOp s) off = reg s off) ∧ (freqStaleOp s).tp = s.tp := by
  refine ⟨?_, ?_, fun off he hc => ?_, ?_⟩
  · exact (fld_setFld_ne (by decide) _ _ _ _).trans (fld_setFld_self (by decide) _ 1 s)
  · rw [freqStaleOp, cdcEvent, fld_bumpFld_self (by decide), raiseFld, fld_setFld_ne (by decide)]
  · exact (reg_setFld_ne hc _ _ _).trans (reg_raiseFld_ne he _ s)
  · exact (bumpFld_tp _ _ _).trans (raiseFld_tp _ _ s)

/-- Settles O33: each operation of a sensor is its own fact above; what a record passes on its way leaves the records (Sensed). -/
theorem sensorRecords : Obligations.SensorRecords := by
  refine ⟨fun t f tstamp tens s => ⟨fun h => ?_, fun h => ?_, fun h => ?_, fun h => ?_, fun cpr hc h => ?_, fun cpr hc h => ?_, fun b => rfl⟩,
    fun t s => ⟨⟨tickOp t s, rfl, ?_⟩, freqStaleOp s, rfl, freqStale_spec s⟩⟩
  · obtain ⟨x, y, hframes, hlast, ⟨stamp, hx, hstamp⟩, ha, hb⟩ := servoFrame_spec f h
    refine ⟨servoFrameOp t f s, x, rfl, hframes, hlast, hx.period, fun n hn => hx.tstamp.trans (hstamp n hn), hx.va, hx.vb, hx.rev,
      fun hva hvb => ?_, fun hva hvb => ?_⟩
    · rw [hx.y, ha hva hvb]
    · rw [hx.y, hb hva hvb]
  · exact ⟨congrArg (fun u => Host.Outcome.next (settleHost u)) (if_pos h), congrArg (fun u => Host.Outcome.next (settleHost u)) (if_pos h),
      congrArg Host.Outcome.next (if_pos h)⟩
  · obtain ⟨x, y, hframes, hx⟩ := servoTimeout_spec tstamp h
    exact ⟨servoTimeoutOp t tstamp s, x, rfl, hframes, hx.period, hx.tstamp, hx.va, hx.vb, hx.rev⟩
  · obtain ⟨hmot, hregs⟩ := motionRecord_spec tens h
    obtain ⟨htens, hskew, hv, hz, hmark⟩ := motionWord_fields tens (skewMean s t).1 ((tpOf s t).mot.skewN != 0)
    exact ⟨motionRecordOp t tens s, _, _, rfl, hmot, hregs, htens, hskew, hv, hz, hmark, (skewMean_spec s t).2.2⟩
  · obtain ⟨hup, hdown⟩ := encoderEdge_a hc h
    exact ⟨congrArg Host.Outcome.next hup, congrArg Host.Outcome.next hdown⟩
  · obtain ⟨hup, hdown⟩ := encoderEdge_b hc h
    exact ⟨congrArg Host.Outcome.next hup, congrArg Host.Outcome.next hdown⟩
  · have h := tick_spec t s
    exact ⟨congrArg Sensed.ticks h, congrArg Sensed.frames h, congrArg Sensed.tickA h, congrArg Sensed.tickB h⟩

end Sys2Proof.Machine
end

section
/-! The loops' service functions: overruns, the bins, injection, capture and autotune (R208, R221, R235, R236, R238). -/
namespace Sys2Proof.Machine
open Sys2Proof.Safety

/-! ### What the end of a command leaves of Marionette -/

theorem endCmd_mrn (tag : BitVec 16) (st : BitVec 8) (r : W64) (off : Nat) (s : State) : (endCmd tag st r off s).mrn = s.mrn := by
  rw [endCmd_hif_only]

theorem modStream_mrn (scid : Nat) (f : Stream → Stream) (s : State) : (modStream scid f s).mrn = s.mrn := by
  unfold modStream
  split <;> rfl

theorem reportUnverified_mrn (t cause scid : Nat) (s : State) : (reportUnverified t cause scid s).mrn = s.mrn := by
  unfold reportUnverified
  split
  · rfl
  · dsimp only
    split <;> simp [modStream_mrn]

theorem endUnverified_mrn (t : Nat) (c : Cmd) (s : State) : (endUnverified t c s).mrn = s.mrn := by
  unfold endUnverified
  split
  · rfl
  · split <;> simp [endCmd_mrn]

theorem dropWrites_mrn (t : Tid) (cause : Nat) (s : State) : (dropWrites t cause s).mrn = s.mrn := by
  unfold dropWrites
  dsimp only
  rw [forAll_keeps (g := State.mrn) (fun scid s => reportUnverified_mrn t.val cause scid s),
    forAll_keeps (g := State.mrn) (fun c s => endUnverified_mrn t.val c s)]

theorem endHostLocate_mrn (c : MotCur) (st : BitVec 8) (s : State) : (endHostLocate c st s).mrn = s.mrn := by
  unfold endHostLocate
  split
  · rfl
  · split
    · rfl
    · dsimp only
      rw [endCmd_mrn, modStream_mrn]

theorem loadFault_mrn (t : Tid) (s : State) : (loadFault t s).mrn = s.mrn := by
  unfold loadFault
  split
  · rfl
  · split
    · rfl
    · exact endCmd_mrn _ _ _ _ s

theorem countEvent_mrn (u : BitVec 16) (s : State) : (countEvent u s).mrn = s.mrn := by rw [countEvent, setFld_mrn, bumpFld_mrn]

/-! ### A fault event of a transport or a loop -/

/-- What of a slice neither its sequencer, its ports nor its write protection hold. -/
def standing (x : Tp) : Tp := { stages x with wrDis := 0 }

theorem standing_of_stages {x y : Tp} (h : stages x = stages y) : standing x = standing y := by rw [standing, h, standing]

theorem mot_standing (x : Tp) : (standing x).mot = x.mot := (rfl)

theorem loopOf_standing (x : Tp) (n : Nat) : loopOf (standing x) n = loopOf x n := by
  unfold loopOf
  split <;> rfl

/-- Marionette, and of every slice what neither its sequencer, its ports nor its write protection hold. -/
def stood (s : State) : Mrn × (Tid → Tp) := (s.mrn, fun u => standing (tpOf s u))

theorem stood_of {s u : State} (hm : u.mrn = s.mrn) (ht : u.tp = s.tp) : stood u = stood s := by
  simp only [stood, tpOf, hm, ht]

theorem stood_ext {s u : State} (hm : u.mrn = s.mrn) (ht : ∀ t, standing (tpOf u t) = standing (tpOf s t)) :
    stood u = stood s := Prod.ext hm (funext ht)

theorem stood_flt (s : State) (f : Flt) : stood { s with flt := f } = stood s := (rfl)

theorem stood_modTp {t : Tid} {f : Tp → Tp} (h : ∀ x, standing (f x) = standing x) (s : State) :
    stood (modTp t f s) = stood s := by
  refine Prod.ext rfl (funext fun u => ?_)
  show standing (tpOf (modTp t f s) u) = standing (tpOf s u)
  by_cases hu : u = t
  · subst hu
    rw [tpOf_modTp, h]
  · rw [tpOf_modTp_ne t u f s hu]

theorem stood_writeDisable (t cause s) : stood (writeDisable t cause s) = stood s := by
  unfold writeDisable
  split
  · rfl
  · rw [stood_of (notice_mrn _ _) (notice_tp _ _), stood_of (dropWrites_mrn _ _ _) (dropWrites_tp _ _ _)]
    exact stood_modTp (fun _ => by rfl) s

theorem tdrainMs_mrn (s : State) : (tdrainMs s).2.mrn = s.mrn := by
  obtain ⟨n, hn⟩ := tdrainMs_only s
  rw [hn]

theorem grantOf_mrn (t : Tid) (s : State) : (grantOf t s).2.mrn = s.mrn := by
  obtain ⟨n, hn⟩ := grantOf_only t s
  rw [hn]

theorem regrantOne_mrn (t : Tid) (s : State) : (regrantOne t s).mrn = s.mrn := by
  unfold regrantOne
  dsimp only
  split
  · exact grantOf_mrn t s
  · rw [setEvent_mrn]
    exact grantOf_mrn t s

theorem regrant_mrn (s : State) : (regrant s).mrn = s.mrn := by
  unfold regrant
  dsimp only
  rw [forAll_keeps (g := State.mrn) regrantOne_mrn]
  show (setFld Reg.wuTdrain Fld.wuTdrainTdrain (tdrainMs s).1 (tdrainMs s).2).mrn = s.mrn
  rw [setFld_mrn, tdrainMs_mrn]

theorem stood_regrant (s) : stood (regrant s) = stood s := by
  refine stood_ext (regrant_mrn s) (fun t => ?_)
  exact tpOf_regrant (fun x => standing x) (fun _ _ => rfl) s t

theorem stood_disableWrites (t cause s) : stood (disableWrites t cause s) = stood s :=
  (stood_regrant _).trans (stood_writeDisable t cause s)

theorem stood_markRetired (u s) : stood (markRetired u s) = stood s := stood_of (markRetired_mrn u s) (markRetired_tp u s)

theorem stood_logFault (u k c w d s) : stood (logFault u k c w d s) = stood s := stood_of (logFault_mrn u k c w d s) (logFault_tp u k c w d s)

theorem stood_raiseFld (off f s) : stood (raiseFld off f s) = stood s := stood_of (raiseFld_mrn off f s) (raiseFld_tp off f s)

theorem stood_retireUnit {u : BitVec 16} (hu : unitClass u = 7 ∨ unitClass u = 8) (s) : stood (retireUnit u s) = stood s := by
  unfold retireUnit
  rcases hu with h | h <;> rw [h] <;> exact (stood_disableWrites _ 3 _).trans (stood_markRetired u s)

theorem stood_escalate {u : BitVec 16} (hu : unitClass u = 7 ∨ unitClass u = 8) (code d s) : stood (escalate u code d s) = stood s := by
  unfold escalate
  dsimp only
  split
  · unfold permanent
    rw [stood_retireUnit hu, stood_raiseFld, stood_logFault, stood_logFault, stood_raiseFld, stood_logFault, stood_flt]
  · rw [stood_raiseFld, stood_logFault, stood_flt]

theorem stood_faultEvent {u : BitVec 16} (hu : unitClass u = 7 ∨ unitClass u = 8) (code d s) : stood (faultEvent u code d s) = stood s := by
  unfold faultEvent
  extract_lets c r n
  have hc : stood c = stood s := stood_of (countEvent_mrn u s) (countEvent_tp u s)
  clear_value n r c
  split
  · rw [stood_logFault, stood_flt, hc]
  · rw [stood_escalate hu, hc]

theorem standing_of_stood {s u : State} (h : stood u = stood s) (t : Tid) :
    standing (tpOf u t) = standing (tpOf s t) := congrFun (congrArg Prod.snd h) t

theorem mot_of_stood {s u : State} (h : stood u = stood s) (t : Tid) : (tpOf u t).mot = (tpOf s t).mot := by
  rw [← mot_standing, standing_of_stood h t, mot_standing]

theorem getLoop_of_stood {s u : State} (h : stood u = stood s) (l : Nat) : getLoop u l = getLoop s l := by
  rw [getLoop, ← loopOf_standing, standing_of_stood h, loopOf_standing, getLoop]

/-! ### A supervision stop holds the outputs of the loops (R208, R231) -/

/-- What a loop puts out, and how it stands in its evaluations. -/
structure Held where
  outs : SMap W32
  cmdv : W32
  consec : Nat
  ready : Bool
  mode : LoopMode

def heldLoop (p : MLoop) : Held := ⟨p.outs, p.cmdv, p.consec, p.ready, p.mode⟩

def heldTp (x : Tp) : Held × Held × Held × Held := (heldLoop x.loopA, heldLoop x.loopB, heldLoop x.loopL, heldLoop x.loopS)

/-- Marionette, and every transport's loops. -/
def held (s : State) : Mrn × (Tid → Held × Held × Held × Held) := (s.mrn, fun u => heldTp (tpOf s u))

theorem held_of {s u : State} (hm : u.mrn = s.mrn) (ht : u.tp = s.tp) : held u = held s := by
  simp only [held, tpOf, hm, ht]

theorem held_ext {s u : State} (hm : u.mrn = s.mrn) (ht : ∀ t, heldTp (tpOf u t) = heldTp (tpOf s t)) : held u = held s :=
  Prod.ext hm (funext ht)

theorem heldTp_standing (x : Tp) : heldTp (standing x) = heldTp x := (rfl)

theorem held_of_stood {s u : State} (h : stood u = stood s) : held u = held s := by
  refine held_ext (congrArg Prod.fst h) (fun t => ?_)
  rw [← heldTp_standing, standing_of_stood h t, heldTp_standing]

theorem held_modTp {t : Tid} {f : Tp → Tp} (h : ∀ x, heldTp (f x) = heldTp x) (s : State) : held (modTp t f s) = held s := by
  refine Prod.ext rfl (funext fun u => ?_)
  show heldTp (tpOf (modTp t f s) u) = heldTp (tpOf s u)
  by_cases hu : u = t
  · subst hu
    rw [tpOf_modTp, h]
  · rw [tpOf_modTp_ne t u f s hu]

theorem held_modLoop (l : Nat) {f : MLoop → MLoop} (h : ∀ p, heldLoop (f p) = heldLoop p) (s : State) : held (modLoop l f s) = held s := by
  refine held_modTp (fun x => ?_) s
  unfold setLoop loopOf
  split <;> simp only [heldTp, h]

theorem held_finish (t n k st v s) : held (finish t n k st v s) = held s :=
  held_of_stood (stood_ext rfl (fun u => standing_of_stages (stages_finish t n k st v s u)))

theorem held_forAll {α : Type} (l : List α) {f : α → State → State} (h : ∀ a s, held (f a s) = held s) (s : State) :
    held (forAll l f s) = held s := forAll_keeps h l s

theorem held_nextPup (t s) : held (nextPup t s) = held s := by
  refine held_modTp (fun x => ?_) s
  split
  · dsimp only
    split
    · rfl
    · split
      · rfl
      · split <;> rfl
  · rfl

theorem held_endMotion (t st v s) : held (endMotion t st v s) = held s := by
  unfold endMotion
  split
  · rfl
  · extract_lets u w
    have hu : held u = held s := held_modTp (fun _ => by rfl) s
    have hw : held w = held u := by
      unfold w
      split
      · exact held_finish _ _ _ _ _ u
      · rfl
    rw [held_nextPup, held_of (endHostLocate_mrn _ _ _) (endHostLocate_tp _ _ _), hw, hu]

theorem held_wlMotionFault (t s) : held (wlMotionFault t s) = held s := by
  unfold wlMotionFault endArms
  dsimp only
  rw [held_modTp (fun _ => by rfl), held_forAll _ (fun _ _ => held_finish _ _ _ _ _ _), held_forAll _ (fun _ _ => held_finish _ _ _ _ _ _)]
  exact held_modTp (fun _ => by rfl) s

theorem held_motMotionFault (t s) : held (motMotionFault t s) = held s := by
  unfold motMotionFault
  extract_lets a waiting b c
  have ha : held a = held s := held_of (loadFault_mrn t s) (loadFault_tp t s)
  have hb : held b = held a := by
    unfold b
    rw [held_forAll _ (fun _ _ => held_of (endHostLocate_mrn _ _ _) (endHostLocate_tp _ _ _))]
    exact held_modTp (fun _ => by rfl) a
  rw [held_forAll _ (fun _ _ => held_finish _ _ _ _ _ _), held_endMotion, hb, ha]

theorem held_resendFrame (rep l s) : held (resendFrame rep l s) = held s := by
  refine held_modLoop l ?_ s
  intro p
  split <;> rfl

theorem held_supervisionStop (t : Tid) (cause n s) : held (supervisionStop t cause n s) = held s := by
  unfold supervisionStop
  extract_lets m u a b reel c d e
  have ha : held a = held s := by
    unfold a
    split
    · exact held_of_stood (stood_faultEvent (.inl (unitClass_transport t)) _ _ _)
    · exact held_of_stood (stood_logFault _ _ _ _ _ _)
  have hb : held b = held a := held_of (bumpFld_mrn _ _ a) (bumpFld_tp _ _ a)
  have hc : held c = held b := held_modTp (by intro x; rfl) b
  have hd : held d = held c := held_modTp (by intro x; rfl) c
  have he : held e = held d := by
    unfold e
    split
    · rw [held_resendFrame, held_resendFrame]
    · rfl
  clear_value e d c b a
  split
  · rfl
  · split
    · exact held_of_stood (stood_logFault _ _ _ _ _ _)
    · rw [held_of (notice_mrn _ _) (notice_tp _ _), held_motMotionFault]
      refine (held_modTp (fun _ => by rfl) _).trans ?_
      rw [held_wlMotionFault, he, hd, hc, hb, ha]

/-! ### Overruns (R208) -/

theorem heldLoop_of_held {s u : State} (h : held u = held s) (l : Nat) : heldLoop (getLoop u l) = heldLoop (getLoop s l) := by
  have ht : heldTp (tpOf u (tid (l / 4))) = heldTp (tpOf s (tid (l / 4))) := congrFun (congrArg Prod.snd h) _
  obtain ⟨ha, hb, hl, hs⟩ := (by simpa only [heldTp, Prod.mk.injEq] using ht)
  unfold getLoop loopOf
  split
  exacts [ha, hb, hl, hs]

/-- A loop after an overrun: its evaluation is gone, and it holds what it put out. -/
structure Overrun (l : Nat) (s u : State) : Prop where
  outs : (getLoop u l).outs = (getLoop s l).outs
  cmdv : (getLoop u l).cmdv = (getLoop s l).cmdv
  consec : (getLoop u l).consec = (getLoop s l).consec + 1
  closed : evalOpen u l = false

theorem Overrun.of_held {l : Nat} {s u v : State} (h : Overrun l s u) (hv : held v = held u) : Overrun l s v := by
  have hl := heldLoop_of_held hv l
  have hev : v.mrn.ev = u.mrn.ev := congrArg (fun p => p.1.ev) hv
  refine ⟨(congrArg Held.outs hl).trans h.outs, (congrArg Held.cmdv hl).trans h.cmdv, (congrArg Held.consec hl).trans h.consec, ?_⟩
  have hready : (getLoop v l).ready = (getLoop u l).ready := congrArg Held.ready hl
  rw [evalOpen, hready, hev]
  exact h.closed

/-- An overrun up to its fault event: the evaluation is discarded and counted. -/
def overrunEvent (l : Nat) (s : State) : State :=
  let s := modLoop l (fun p => { p with ready := false, consec := p.consec + 1 }) s
  let s := if (s.mrn.ev.map (fun e => e.l)) = some l then { s with mrn := { s.mrn with ev := none } } else s
  let s := bumpFld (Reg.mcOvcnt (l / 4) (l % 4)) Fld.mcOvcntOvrcnt (raiseFld (Reg.mcLstat (l / 4) (l % 4)) Fld.mcLstatOvr s)
  faultEvent (loopUnit l) 0 0 s

theorem loopOverrun_of_open {l : Nat} {s : State} (h : evalOpen s l = true) : loopOverrun l s =
    if (getLoop (overrunEvent l s) l).consec < 3 then overrunEvent l s
    else supervisionStop (loopT l) 2 (l % 4) (modLoop l (fun p => { p with mode := .fault }) (overrunEvent l s)) := if_pos h

theorem overrunEvent_spec {l : Nat} (hl : l < 32) (s : State) :
    Overrun l s (overrunEvent l s) ∧ (tpOf (overrunEvent l s) (loopT l)).mot = (tpOf s (loopT l)).mot := by
  unfold overrunEvent
  extract_lets a m b c
  have ha : getLoop a l = { getLoop s l with ready := false, consec := (getLoop s l).consec + 1 } := getLoop_modLoop l _ s
  have hb : b.tp = a.tp ∧ b.mrn.ev.map (fun e => e.l) ≠ some l := by
    unfold b
    split
    · exact ⟨rfl, nofun⟩
    · next h => exact ⟨rfl, h⟩
  have hc : stood c = stood b := stood_of (by rw [bumpFld_mrn, raiseFld_mrn]) (by rw [bumpFld_tp, raiseFld_tp])
  have hd : stood (faultEvent (loopUnit l) 0 0 c) = stood b := (stood_faultEvent (.inr (unitClass_loop hl)) 0 0 c).trans hc
  generalize faultEvent (loopUnit l) 0 0 c = d at hd
  have hloop : getLoop d l = getLoop a l := (getLoop_of_stood hd l).trans (getLoop_of_tp hb.1 l)
  have hev : d.mrn.ev = b.mrn.ev := congrArg (fun p => p.1.ev) hd
  constructor
  · constructor
    · rw [hloop, ha]
    · rw [hloop, ha]
    · rw [hloop, ha]
    · rw [evalOpen, hloop, ha, hev, Bool.false_or, beq_eq_false_iff_ne]
      exact hb.2
  · rw [mot_of_stood hd, tpOf, hb.1]
    exact tpOf_modLoop_mot l _ s

theorem loopOverrun_of_few {l : Nat} (hl : l < 32) {s : State} (h : evalOpen s l = true) (hn : (getLoop s l).consec + 1 < 3) :
    Overrun l s (loopOverrun l s) := by
  obtain ⟨ho, -⟩ := overrunEvent_spec hl s
  rw [loopOverrun_of_open h, if_pos (by rw [ho.consec]; exact hn)]
  exact ho

theorem supervisionStop_stops {t : Tid} {s : State} (h : (tpOf s t).mot.st ≠ .faulted) (cause n : Nat) :
    (tpOf (supervisionStop t cause n s) t).mot.st = .stopping := by
  by_cases hs : (tpOf s t).mot.st = .stopping
  · unfold supervisionStop
    dsimp only
    rw [if_neg h, if_pos hs, tpOf, logFault_tp]
    exact hs
  · exact (supervisionStop_of_moving hs h cause n).1

theorem loopOverrun_of_third {l : Nat} (hl : l < 32) {s : State} (h : evalOpen s l = true) (hn : 3 ≤ (getLoop s l).consec + 1) :
    Overrun l s (loopOverrun l s) ∧ (getLoop (loopOverrun l s) l).mode = .fault
      ∧ ((tpOf s (loopT l)).mot.st ≠ .faulted → (tpOf (loopOverrun l s) (loopT l)).mot.st = .stopping) := by
  obtain ⟨ho, hm⟩ := overrunEvent_spec hl s
  rw [loopOverrun_of_open h, if_neg (by rw [ho.consec]; omega)]
  generalize overrunEvent l s = d at ho hm
  have hf := getLoop_modLoop l (fun p => { p with mode := .fault }) d
  have hfm : (tpOf (modLoop l (fun p => { p with mode := .fault }) d) (loopT l)).mot = (tpOf d (loopT l)).mot := tpOf_modLoop_mot l _ d
  have hfev := modLoop_mrn l (fun p => { p with mode := .fault }) d
  generalize modLoop l (fun p => { p with mode := .fault }) d = f at hf hfm hfev
  have hof : Overrun l s f := by
    refine ⟨?_, ?_, ?_, ?_⟩
    · rw [hf, ← ho.outs]
    · rw [hf, ← ho.cmdv]
    · rw [hf, ← ho.consec]
    · rw [evalOpen, hf, hfev]
      exact ho.closed
  have hheld := held_supervisionStop (loopT l) 2 (l % 4) f
  refine ⟨hof.of_held hheld, ?_, fun hst => supervisionStop_stops (by rw [hfm, hm]; exact hst) 2 _⟩
  exact (congrArg Held.mode (heldLoop_of_held hheld l)).trans (congrArg MLoop.mode hf)

/-! ### Bins, injection, capture and autotune -/

theorem binClearDone_of_clr {t : Tid} {r : Nat} {s : State} (h : fld s (Reg.mcRc t r) Fld.mcRcClr = 1) :
    fld (binClearDoneOp t r s) (Reg.mcRc t r) Fld.mcRcClr = 0 ∧ ∀ i, binGet (tpOf (binClearDoneOp t r s) t).mot r i = 0 := by
  rw [binClearDoneOp, if_pos h]
  refine ⟨fld_setFld_self (by decide) _ _ _, fun i => ?_⟩
  rw [tpOf_setFld, tpOf_modMot]
  exact binGet_binClear r _ i

theorem injectionEnd_of_over {s : State} (ha : s.mrn.inj.active = true) (h : fld s Reg.mcInj Fld.mcInjWave = 2
      ∨ (fld s Reg.mcInj Fld.mcInjWave = 1 ∧ fld s Reg.mcInjdur Fld.mcInjdurDur ≠ 0)
      ∨ (fld s Reg.mcInj Fld.mcInjWave = 3 ∧ 32767 ≤ s.mrn.inj.bits)) :
    injectionEndOp s = { s with mrn := { s.mrn with inj := { s.mrn.inj with active := false } } } := by
  unfold injectionEndOp
  refine if_pos ⟨ha, ?_⟩
  rcases h with hw | ⟨hw, hd⟩ | ⟨hw, hb⟩ <;> rw [hw]
  · rfl
  · exact decide_eq_true hd
  · exact decide_eq_true hb

theorem armLoopCapture_spec (s : State) : (armLoopCapture s).mrn.capArmed = true ∧ (armLoopCapture s).mrn.capCount = 0
    ∧ (armLoopCapture s).regs = (setFld Reg.mcCap Fld.mcCapDone 0 s).regs := ⟨rfl, rfl, rfl⟩

/-- The capture that autotune of a loop sets up (R238 step 1). -/
def tuneCapture (l : Nat) (s : State) : State :=
  let s := setFld Reg.mcCap Fld.mcCapLoop l (setFld Reg.mcCap Fld.mcCapTrig 0 s)
  let s := setFld Reg.mcCap Fld.mcCapSel0 16 s
  let s := setFld Reg.mcCap Fld.mcCapSel1 (fld s (Reg.mcRlych (l / 4) (l % 4)) Fld.mcRlychSpch) s
  setFld Reg.mcCap Fld.mcCapSel2 (fld s (Reg.mcRlych (l / 4) (l % 4)) Fld.mcRlychMeasch) s

theorem tuneCapture_loop {l : Nat} (hl : l < 32) (s : State) : fld (tuneCapture l s) Reg.mcCap Fld.mcCapLoop = l := by
  unfold tuneCapture
  dsimp only
  rw [fld_setFld_disjoint (by decide) (by decide), fld_setFld_disjoint (by decide) (by decide), fld_setFld_disjoint (by decide) (by decide),
    fld_setFld_self (by decide)]
  exact Nat.mod_eq_of_lt hl

/-- Autotune runs for a loop. -/
def tuning (l : Nat) (s : State) : State := { s with mrn := { s.mrn with tune := some ⟨l, 0, 1⟩ } }

theorem tuning_spec (l : Nat) (s : State) : (tuning l s).mrn.tune = some ⟨l, 0, 1⟩ ∧ (tuning l s).mrn.capArmed = s.mrn.capArmed
    ∧ (tuning l s).mrn.capCount = s.mrn.capCount ∧ (tuning l s).regs = s.regs := ⟨rfl, rfl, rfl, rfl⟩

theorem tuneStart_of_fit {l : Nat} {s : State} (hst : (tpOf s (loopT l)).mot.st = .running)
    (hacc : (tpOf s (loopT l)).mot.accel = 0) (hw : (tpOf s (loopT l)).wl.wen = false ∨ (l % 4 = 2 ∧ rcMode s (l / 4) = 2))
    (hp : (getLoop s l).hasProg = true) (hm : (getLoop s l).mode ≠ .fault) (ht : s.mrn.tune = none) :
    tuneStart l s = tuning l (armLoopCapture (tuneCapture l s)) :=
  if_pos ⟨hst, ⟨hacc, hw⟩, hp, hm, by rw [ht]; rfl⟩

theorem tuning_capture {l : Nat} (hl : l < 32) (s : State) : (tuning l (armLoopCapture (tuneCapture l s))).mrn.tune = some ⟨l, 0, 1⟩
    ∧ (tuning l (armLoopCapture (tuneCapture l s))).mrn.capArmed = true ∧ (tuning l (armLoopCapture (tuneCapture l s))).mrn.capCount = 0
    ∧ fld (tuning l (armLoopCapture (tuneCapture l s))) Reg.mcCap Fld.mcCapLoop = l := by
  obtain ⟨harmed, hcount, hregs⟩ := armLoopCapture_spec (tuneCapture l s)
  obtain ⟨htune, htarmed, htcount, htregs⟩ := tuning_spec l (armLoopCapture (tuneCapture l s))
  refine ⟨htune, htarmed.trans harmed, htcount.trans hcount, ?_⟩
  rw [fld_of_regs htregs, fld_of_regs hregs, fld_setFld_disjoint (by decide) (by decide), tuneCapture_loop hl]

theorem tuneAbort_of_some {k : Tune} (hk : k.l < 32) {s : State} (h : s.mrn.tune = some k) :
    (tuneAbort s).mrn.tune = none ∧ (tuneAbort s).mrn.capArmed = false
      ∧ fld (tuneAbort s) (Reg.mcLctl (k.l / 4) (k.l % 4)) Fld.mcLctlMode = 1 ∧ (tuneAbort s).tp = s.tp := by
  unfold tuneAbort
  rw [h]
  dsimp only
  refine ⟨?_, ?_, ?_, ?_⟩
  · rw [logFault_mrn]
  · rw [logFault_mrn]
  · have hne : Reg.mcLctl (k.l / 4) (k.l % 4) ≠ Reg.fltStat := by
      simp only [Reg.mcLctl, Reg.fltStat]
      omega
    rw [fld, reg_logFault_ne hne]
    exact fld_setFld_self (by decide) _ 1 s
  · rw [logFault_tp]
    rfl

/-- Settles O35: overruns through what a supervision stop leaves of a loop (Held), the services by their equations. -/
theorem loopServices : Obligations.LoopServices := by
  intro src t b l k s hr v
  refine ⟨fun h hn => ?_, fun h hn => ?_, fun hm => ?_, fun h => ?_, fun hm => ⟨fun hw => ?_, fun hw => ?_⟩, fun ha hw => ?_, fun hm => ?_,
    fun hst hacc hw hp hmode ht => ?_, fun h hk => ?_⟩
  · obtain ⟨houts, hcmdv, hconsec, hclosed⟩ := loopOverrun_of_few l.isLt h hn
    exact ⟨loopOverrun l s, rfl, houts, hcmdv, hconsec, hclosed⟩
  · obtain ⟨⟨houts, hcmdv, -, -⟩, hmode, hstop⟩ := loopOverrun_of_third l.isLt h hn
    exact ⟨loopOverrun l s, rfl, houts, hcmdv, hmode, hstop⟩
  · exact ⟨_, next_congr (byDebug_of_may hm hr), fld_setFld_self (by decide) _ 1 _⟩
  · obtain ⟨hclr, hbins⟩ := binClearDone_of_clr h
    exact ⟨_, rfl, hclr, hbins⟩
  · exact next_congr ((byDebug_of_may hm hr).trans (if_neg (by rw [fld_hostWakes]; exact hw)))
  · exact next_congr ((byDebug_of_may hm hr).trans (if_pos (by rw [fld_hostWakes]; exact hw)))
  · exact next_congr (injectionEnd_of_over ha hw)
  · obtain ⟨harmed, hcount, hregs⟩ := armLoopCapture_spec v
    refine ⟨_, next_congr (byDebug_of_may hm hr), harmed, hcount, ?_⟩
    exact (fld_of_regs hregs _ _).trans (fld_setFld_self (by decide) _ 0 v)
  · have ht4 : ((loopT l).val : Nat) = l / 4 := by
      show l.val / 4 % 8 = l.val / 4
      omega
    have hstart := tuneStart_of_fit hst hacc (by rw [← ht4]; exact hw) hp hmode ht
    exact ⟨_, next_congr hstart, tuning_capture l.isLt s⟩
  · obtain ⟨htune, harmed, hmode, htp⟩ := tuneAbort_of_some hk h
    exact ⟨_, rfl, htune, harmed, hmode, htp⟩

end Sys2Proof.Machine
end

section
/-! What the tape comes to: standstill, the speed lock, a settled head, Yo-yo's pauses and SPDREF (R96, R200, R201, R203, R209, R226,
R228, R229, R351). -/
namespace Sys2Proof.Machine
open Sys2Proof.Safety

theorem modMot_modMot (t : Tid) (f g : Mot → Mot) (s : State) : modMot t g (modMot t f s) = modMot t (fun m => g (f m)) s := modTp_modTp _ _ _ _

/-! ### Standstill (R209) -/

section Standstill
variable {t : Tid} {s : State}

/-- The tape stands. -/
def atStill (m : Mot) : Mot := { m with still := true }

theorem mot_atStill (t : Tid) (s : State) : (tpOf (modMot t atStill s) t).mot = atStill (tpOf s t).mot := by rw [tpOf_modMot]

theorem standstillOp_of_idle (hv : (tpOf s t).mot.vtape.natAbs < 80) (hst : (tpOf s t).mot.st ≠ .stopping) (hc : (tpOf s t).mot.cur = none) :
    standstillOp t s = modMot t atStill s := by
  unfold standstillOp
  rw [if_neg (by omega)]
  extract_lets u m
  have hm : m = atStill (tpOf s t).mot := mot_atStill t s
  clear_value m
  rw [if_neg (by rw [hm]; exact hst), show m.cur = none by rw [hm]; exact hc]
  rfl

theorem standstillOp_of_stop {c : MotCur} (hv : (tpOf s t).mot.vtape.natAbs < 80) (hst : (tpOf s t).mot.st ≠ .stopping)
    (hc : (tpOf s t).mot.cur = some c) (hop : c.op = 4) : standstillOp t s = stopAtRest t (modMot t atStill s) := by
  unfold standstillOp
  rw [if_neg (by omega)]
  extract_lets u m
  have hm : m = atStill (tpOf s t).mot := mot_atStill t s
  clear_value m
  rw [if_neg (by rw [hm]; exact hst), show m.cur = some c by rw [hm]; exact hc]
  exact if_pos hop

theorem standstillOp_of_step {c : MotCur} (hv : (tpOf s t).mot.vtape.natAbs < 80) (hst : (tpOf s t).mot.st ≠ .stopping)
    (hc : (tpOf s t).mot.cur = some c) (hs : (c.op = 2 ∧ (c.step = 1 ∨ c.step = 4)) ∨ (c.op = 3 ∧ c.step = 1)) :
    standstillOp t s = modMot t (fun m => { m with still := true, cur := some { c with step := 2 } }) s := by
  unfold standstillOp
  rw [if_neg (by omega)]
  extract_lets u m
  have hm : m = atStill (tpOf s t).mot := mot_atStill t s
  clear_value m
  rw [if_neg (by rw [hm]; exact hst), show m.cur = some c by rw [hm]; exact hc]
  dsimp only
  rw [if_neg (by omega), if_neg (by omega), if_neg (by omega), if_pos hs]
  exact modMot_modMot _ _ _ _

/-- The tape stands after a supervision stop (R231 step 3). -/
def stopEnded (t : Tid) (s : State) : State := modMot t (fun m => { m with still := true, st := .faulted, setv := 0 }) s

theorem standstillOp_of_stopping (hv : (tpOf s t).mot.vtape.natAbs < 80) (hst : (tpOf s t).mot.st = .stopping) :
    standstillOp t s = if (causeFault (tpOf s t).mot.cause && !s.flt.pendRetry.contains (unitId 7 t.val)) = true then
      restoreLoops t (clearTransport t (stopEnded t s)) else stopEnded t s := by
  unfold standstillOp
  rw [if_neg (by omega)]
  extract_lets u m
  have hm : m = atStill (tpOf s t).mot := mot_atStill t s
  clear_value m
  rw [if_pos (by rw [hm]; exact hst)]
  have hu : modMot t (fun m => { m with st := .faulted, setv := 0 }) u = stopEnded t s := modMot_modMot _ _ _ _
  have hcause : (tpOf (stopEnded t s) t).mot.cause = (tpOf s t).mot.cause := by rw [stopEnded, tpOf_modMot]
  have hflt : (stopEnded t s).flt = s.flt := rfl
  unfold stopDone
  rw [hu]
  dsimp only
  rw [hcause, hflt]

/-- A commanded stop at rest outside a commit: the transport is tensioned (R229). -/
theorem stopAtRest_spec (hcommit : s.pwr.commit = none) (hp : (tpOf s t).mot.pup = []) (hr : (tpOf s t).mot.st ≠ .released) :
    (tpOf (stopAtRest t s) t).mot.st = .tensioned ∧ (tpOf (stopAtRest t s) t).mot.cur = none ∧ (tpOf (stopAtRest t s) t).mot.setv = 0
      ∧ (tpOf (stopAtRest t s) t).mot.still = (tpOf s t).mot.still := by
  have hrest : (tpOf (modMot t (atRest s t) s) t).mot = { (tpOf s t).mot with
      st := .tensioned, tensOn := (tpOf s t).mot.tensOn && !false, setv := 0 } := by
    rw [tpOf_modMot]
    dsimp only
    unfold atRest
    rw [hcommit]
    dsimp only [Option.any_none]
    rw [if_neg (by simp [hr])]
  obtain ⟨hm, -⟩ := endMotion_keeps (t := t) (s := modMot t (atRest s t) s) (by rw [hrest]; exact hp) stOk 0
  rw [stopAtRest, hm, hrest]
  exact ⟨rfl, rfl, rfl, rfl⟩

end Standstill

/-! ### A wrap that is reached (R226, R228) -/

section Wrap
variable {t : Tid} {s : State}

theorem setWrap_mot (t : Tid) (w : Nat) (s : State) :
    (tpOf (setWrap t w s) t).mot = { (tpOf s t).mot with wrap := w, lpos := w32 (relPos s t w (tapeNow s t)) } := by
  unfold setWrap
  dsimp only
  split
  · rw [tpOf_modMot]
  · rw [tpOf_modLoop_mot, tpOf_modLoop_mot, tpOf_modMot]

theorem setWrap_first {w : Nat} (h : (tpOf s t).mot.wrap % 2 ≠ w % 2) :
    (tpOf (setWrap t w s) t).loopA.first = true ∧ (tpOf (setWrap t w s) t).loopB.first = true := by
  unfold setWrap
  dsimp only
  rw [if_neg h]
  have ha := tpOf_modLoop t (n := 0) (by decide) (fun p => { p with first := true })
  have hb := tpOf_modLoop t (n := 1) (by decide) (fun p => { p with first := true })
  rw [Nat.add_zero] at ha
  rw [ha, hb]
  exact ⟨rfl, rfl⟩

theorem wrapSettleOp_of_settled {c : MotCur} (hc : (tpOf s t).mot.cur = some c) (hop : c.op = 2) (hs : 2 ≤ c.step)
    (hset : settledOn s t c.wrap = true) : wrapSettleOp t s = setWrap t c.wrap s := by
  unfold wrapSettleOp
  rw [hc]
  exact if_pos ⟨hop, hs, hset⟩

theorem turnCompleteOp_of_settled {c : MotCur} (hc : (tpOf s t).mot.cur = some c) (hop : c.op = 3) (hs : c.step = 2)
    (hset : settledOn s t c.wrap = true) (hl : (tpOf s t).wl.locked = true) (hp : (tpOf s t).mot.pup = []) :
    (tpOf (turnCompleteOp t s) t).mot.wrap = c.wrap ∧ (tpOf (turnCompleteOp t s) t).mot.st = .running
      ∧ (tpOf (turnCompleteOp t s) t).mot.cur = none := by
  unfold turnCompleteOp
  rw [hc]
  dsimp only
  rw [if_pos ⟨hop, hs, hset, hl⟩]
  have hm := setWrap_mot t c.wrap s
  generalize setWrap t c.wrap s = u at hm ⊢
  have hr := tpOf_modMot t (fun m => { m with st := .running }) u
  generalize modMot t (fun m => { m with st := .running }) u = v at hr ⊢
  have hpup : (tpOf v t).mot.pup = [] := by
    rw [hr, hm]
    exact hp
  obtain ⟨hend, -⟩ := endMotion_keeps hpup stOk 0
  rw [hend, hr, hm]
  exact ⟨rfl, rfl, rfl⟩

end Wrap

/-! ### Pauses (R200) -/

section Pause
variable {t : Tid} {s : State}

theorem pausePark_spec (t : Tid) (s : State) : ∃ c : MotCur, (tpOf (pausePark t s) t).mot.cur = some c ∧ c.op = 2
    ∧ c.target = (tpOf s t).yoyo.pR ∧ c.wrap = (tpOf s t).mot.wrap ∧ (tpOf (pausePark t s) t).mot.st = .locating
    ∧ (tpOf (pausePark t s) t).wl.wen = false ∧ (tpOf (pausePark t s) t).yoyo = { (tpOf s t).yoyo with pause := 3, out := 0 } := by
  have hu : tpOf (wlQuiet t (modYoyo t (fun y => { y with pause := 3, out := 0 }) s)) t
      = { tpOf s t with yoyo := { (tpOf s t).yoyo with pause := 3, out := 0 }, wl := wlOff (tpOf s t).wl } := by
    rw [wlQuiet, tpOf_modWl, tpOf_modYoyo]
  unfold pausePark
  extract_lets u
  have hu : tpOf u t = _ := hu
  clear_value u
  rw [ownLocate, tpOf_modMot, hu]
  exact ⟨_, rfl, rfl, rfl, rfl, rfl, rfl, rfl⟩

/-- Where a pause begins, in the direction of travel. -/
def pauseEnd (s : State) (t : Tid) : W32 :=
  if rcMode s t = 2 then
    (tpOf s t).mot.lpos - BitVec.ofNat 32 (fieldB (reg s (Reg.vfyLag t)) (16 * ((tpOf s t).mot.wrap % 2)) 16 / 200)
  else (tpOf s t).wl.endLpos

/-- Step 1 of a pause. -/
def pauseBegun (t : Tid) (s : State) : State :=
  modYoyo t (fun y => { y with pause := 1, pauseEnd := false, stopT := 0, pE := pauseEnd s t, pR := pauseEnd s t + 1 })
    (bumpFld (Reg.yyCnt t) Fld.yyCntPauses s)

theorem tpOf_pauseBegun (t : Tid) (s : State) : tpOf (pauseBegun t s) t = { tpOf s t with yoyo := { (tpOf s t).yoyo with
    pause := 1, pauseEnd := false, stopT := 0, pE := pauseEnd s t, pR := pauseEnd s t + 1 } } := by
  rw [pauseBegun, tpOf_modYoyo, tpOf, bumpFld_tp, ← tpOf]

theorem pauseBegin_eq (t : Tid) (s : State) : pauseBegin t s = if rcMode s t = 2 then pausePark t (pauseBegun t s) else pauseBegun t s := rfl

theorem pauseStartOp_of_fits (hn : fld s (Reg.yyPause t) Fld.yyPauseStopt ≠ 0)
    (hs : fld s (Reg.yyPause t) Fld.yyPauseStopt * 10 ≤ (tpOf s t).yoyo.stopT) (hf : pauseFits s t = true) (hc : (tpOf s t).mot.cur = none) :
    pauseStartOp t s = pauseBegin t s := if_pos ⟨hn, hs, hf, by rw [hc]; rfl⟩

theorem maxPauseOp_of_law (hsel : (tpOf s t).yoyo.sel ≠ 1) (hm : rcMode s t ≠ 2) : maxPauseOp t s = endPause t s :=
  if_neg (by rintro (h | h); exacts [hm h, hsel h])

theorem resumePause_yoyo (t : Tid) (s : State) : (tpOf (resumePause t s) t).yoyo.pause = 0
    ∧ (tpOf (resumePause t s) t).yoyo.out = 10 * fld s (Reg.yyLim t) Fld.yyLimVmin := by
  unfold resumePause
  dsimp only
  obtain ⟨-, hy⟩ := goArmed_keeps t (modYoyo t (fun y => { y with
    pause := 0, pauseEnd := false, sp := 10 * fld s (Reg.yyLim t) Fld.yyLimVmin, out := 10 * fld s (Reg.yyLim t) Fld.yyLimVmin }) s)
  rw [hy, tpOf_modYoyo]
  exact ⟨rfl, rfl⟩

theorem endPause_of_waiting (h : (tpOf s t).yoyo.pause ∈ [1, 2, 3]) : endPause t s = modYoyo t (fun y => { y with pauseEnd := true }) s := by
  simp only [List.mem_cons, List.not_mem_nil, or_false] at h
  unfold endPause
  rcases h with h | h | h <;> rw [h] <;> rfl

end Pause

/-! ### SPDREF (R203, R351) -/

section Reference
variable {t : Tid} {s : State}

/-- SPDREF is lost. -/
def refLost (t : Tid) (s : State) : State := modYoyo t (fun y => { y with ref := [], refOk := false, refv := 0 }) s

theorem tpOf_refLost (t : Tid) (s : State) :
    tpOf (refLost t s) t = { tpOf s t with yoyo := { (tpOf s t).yoyo with ref := [], refOk := false, refv := 0 } } := tpOf_modYoyo t _ s

/-- A transport that follows SPDREF and may pause for want of it. -/
def Follows (x : Tp) : Prop := x.yoyo.on = true ∧ x.yoyo.sel = 1 ∧ x.yoyo.pause = 0 ∧ x.mot.st = .running ∧ x.mot.armed = none
  ∧ x.mot.cur = none ∧ x.wl.cur = none ∧ x.yoyo.lastFrozen = none

theorem refInvalid_of_not (h : ¬Follows (tpOf s t)) : refInvalid t s = refLost t s := by
  refine if_neg ?_
  rw [show modYoyo t (fun y => { y with ref := [], refOk := false, refv := 0 }) s = refLost t s from rfl, tpOf_refLost]
  rintro ⟨hon, hsel, -, hpause, hst, harmed, hcur, hwl, hfrozen⟩
  exact h ⟨hon, hsel, hpause, hst, by simpa using harmed, by simpa using hcur, by simpa using hwl, by simpa using hfrozen⟩

theorem refInvalid_of_follows (h : Follows (tpOf s t)) : refInvalid t s = pauseBegin t (refLost t s) := by
  refine if_pos ?_
  rw [show modYoyo t (fun y => { y with ref := [], refOk := false, refv := 0 }) s = refLost t s from rfl, tpOf_refLost]
  obtain ⟨hon, hsel, hpause, hst, harmed, hcur, hwl, hfrozen⟩ := h
  exact ⟨hon, hsel, rfl, hpause, hst, by simpa using harmed, by simpa using hcur, by simpa using hwl, by simpa using hfrozen⟩

theorem refLost_paused (t : Tid) (s : State) : (tpOf (pauseBegin t (refLost t s)) t).yoyo.refOk = false
    ∧ (tpOf (pauseBegin t (refLost t s)) t).yoyo.ref = []
    ∧ (tpOf (pauseBegin t (refLost t s)) t).yoyo.pause = if rcMode s t = 2 then 3 else 1 := by
  have hmode : rcMode (refLost t s) t = rcMode s t := rfl
  have hb := tpOf_pauseBegun t (refLost t s)
  rw [tpOf_refLost] at hb
  rw [pauseBegin_eq, hmode]
  generalize pauseBegun t (refLost t s) = u at hb
  by_cases hm : rcMode s t = 2
  · obtain ⟨c, -, -, -, -, -, -, hy⟩ := pausePark_spec t u
    rw [if_pos hm, if_pos hm, hy, hb]
    exact ⟨rfl, rfl, rfl⟩
  · rw [if_neg hm, if_neg hm, hb]
    exact ⟨rfl, rfl, rfl⟩

theorem refPulseOp_of_full {n : Nat} (hn : 6000 ≤ n) (hl : ((n :: (tpOf s t).yoyo.ref).take 8).length = 8)
    (hsum : 11000 * ((n :: (tpOf s t).yoyo.ref).take 8).sum ≤ 3200000000) :
    refPulseOp t n s = modYoyo t (fun y => { y with
      ref := (n :: (tpOf s t).yoyo.ref).take 8, refOk := true
      refv := min 65535 (openQuot 640000000 ((n :: (tpOf s t).yoyo.ref).take 8).sum) }) s := by
  unfold refPulseOp
  dsimp only
  rw [if_neg (by omega), if_neg (by omega), ← List.sum_eq_foldl_nat, if_neg (by omega)]

theorem refPulseOp_of_slow {n : Nat} (hn : 6000 ≤ n) (hl : ((n :: (tpOf s t).yoyo.ref).take 8).length = 8)
    (hsum : 3200000000 < 11000 * ((n :: (tpOf s t).yoyo.ref).take 8).sum) : refPulseOp t n s = refInvalid t s := by
  unfold refPulseOp
  dsimp only
  rw [if_neg (by omega), if_neg (by omega), ← List.sum_eq_foldl_nat, if_pos hsum]

theorem refPulseOp_of_few {n : Nat} (hn : 6000 ≤ n) (hl : ((n :: (tpOf s t).yoyo.ref).take 8).length < 8) (hf : 11000 * n ≤ 400000000) :
    refPulseOp t n s = modYoyo t (fun y => { y with ref := (n :: (tpOf s t).yoyo.ref).take 8 }) s := by
  unfold refPulseOp
  dsimp only
  rw [if_neg (by omega), if_pos hl, if_neg (by omega)]

theorem sum_take_pos {n : Nat} (hn : n ≠ 0) (l : List Nat) : ((n :: l).take 8).sum ≠ 0 := by
  rw [List.take_succ_cons, List.sum_cons]
  omega

end Reference

theorem waits_false {s : State} {t : Tid} (h : ¬s.flt.pendRetry.contains (unitId 7 t.val) = true) :
    s.flt.pendRetry.contains (unitId 7 t.val) = false := Bool.eq_false_iff.mpr h

/-- Settles O32: each operation by its equation under the premises of its clause. -/
theorem motionEnds : Obligations.MotionEnds := by
  refine ⟨fun t c s => ⟨fun hv hst hc => ?_, fun hv hst hc hop hcommit hp hr => ?_, fun hv hst => ?_, fun hv hst hc hs => ?_, fun h => ?_,
      fun hc hop hs hset => ?_, fun hc hop hs hset hl hp => ?_⟩,
    fun t n s => ⟨fun hn hs hf hc hm => ?_, fun hn hs hf hc hm => ?_, fun hp hc hE => ?_, fun hp hsel hm => ?_, fun hp hsel hm => ?_, rfl, ?_⟩⟩
  · exact next_congr (congrArg settleHost (standstillOp_of_idle hv hst hc))
  · have hu : (tpOf (modMot t atStill s) t).mot = atStill (tpOf s t).mot := mot_atStill t s
    obtain ⟨hten, hcur, hsetv, hstill⟩ := stopAtRest_spec (s := modMot t atStill s) (t := t) hcommit (by rw [hu]; exact hp) (by rw [hu]; exact hr)
    exact ⟨_, next_congr (congrArg settleHost (standstillOp_of_stop hv hst hc hop)), hten, hcur, hsetv, by rw [hstill, hu]; rfl⟩
  · have hrow := standstillOp_of_stopping hv hst
    refine ⟨fun h => ?_, fun hcause hw => ?_⟩
    · refine next_congr (congrArg settleHost (hrow.trans (if_neg ?_)))
      rcases h with h | h <;> rw [h] <;> simp
    · refine next_congr (congrArg settleHost (hrow.trans (if_pos ?_)))
      rw [hcause, waits_false hw]
      rfl
  · exact next_congr (congrArg settleHost (standstillOp_of_step hv hst hc hs))
  · exact next_congr (if_pos h)
  · refine ⟨setWrap t c.wrap s, next_congr (congrArg settleHost (wrapSettleOp_of_settled hc hop hs hset)), ?_, ?_, setWrap_first⟩
    · rw [setWrap_mot]
    · rw [setWrap_mot]
      rfl
  · exact ⟨_, rfl, turnCompleteOp_of_settled hc hop hs hset hl hp⟩
  · have hb := tpOf_pauseBegun t s
    refine ⟨pauseBegun t s, ?_, ?_⟩
    · exact next_congr (congrArg settleHost ((pauseStartOp_of_fits hn hs hf hc).trans ((pauseBegin_eq t s).trans (if_neg hm))))
    · rw [hb, pauseEnd, if_neg hm]
      exact ⟨rfl, rfl, rfl, rfl⟩
  · have hb := tpOf_pauseBegun t s
    obtain ⟨c, hc', hop, htarget, -, -, -, hy⟩ := pausePark_spec t (pauseBegun t s)
    refine ⟨pausePark t (pauseBegun t s), c, ?_, ?_⟩
    · exact next_congr (congrArg settleHost ((pauseStartOp_of_fits hn hs hf hc).trans ((pauseBegin_eq t s).trans (if_pos hm))))
    · rw [hy, htarget, hb, pauseEnd, if_pos hm]
      exact ⟨rfl, rfl, rfl, hc', hop, rfl⟩
  · obtain ⟨c, hc', hop, htarget, hwrap, hst, hwen, hy⟩ := pausePark_spec t s
    refine ⟨pausePark t s, c, next_congr (congrArg settleHost (if_pos ⟨hp, by rw [hc]; rfl, hE⟩)), hwen, ?_, hc', hop, htarget, hwrap, hst⟩
    rw [hy]
  · have hrow : maxPauseOp t s = resumePause t s := by
      rw [maxPauseOp_of_law hsel hm, endPause, hp]
      rfl
    exact ⟨_, next_congr (congrArg settleHost hrow), resumePause_yoyo t s⟩
  · exact next_congr (congrArg settleHost ((maxPauseOp_of_law hsel hm).trans (endPause_of_waiting hp)))
  · refine ⟨fun h => ?_, fun h => ?_, fun hn hl hsum => ?_, fun hn hl hsum => ?_, fun hn => ?_, fun hn hl hf => ?_⟩
    · exact next_congr (refInvalid_of_not h)
    · exact ⟨_, next_congr (refInvalid_of_follows h), refLost_paused t s⟩
    · refine ⟨_, openQuot 640000000 ((n :: (tpOf s t).yoyo.ref).take 8).sum, next_congr (refPulseOp_of_full hn hl hsum), ?_⟩
      obtain ⟨hlo, hhi⟩ := openQuot_mul_bounds 640000000 (sum_take_pos (n := n) (by omega) (tpOf s t).yoyo.ref)
      rw [tpOf_modYoyo, mul_comm]
      exact ⟨rfl, rfl, rfl, hlo, hhi⟩
    · exact next_congr (refPulseOp_of_slow hn hl hsum)
    · exact next_congr (if_pos hn)
    · exact next_congr (refPulseOp_of_few hn hl hf)

end Sys2Proof.Machine
end

section
/-! Descriptors of the codec, the offload ring's registers and REPLACE (R47, R172, R175, R176, R179, R180, R257). -/
namespace Sys2Proof.Machine
open Sys2Proof.Safety

/-! ### DRAIN (R172) -/

section Drain
variable {t : Tid} {y : Slot} {s : State}

/-- The open write streams that have not come to their points. -/
def drainPlaces (t : Tid) (s : State) : List (BitVec 16 × W32 × Nat) :=
  ((writeStreams s t.val).filter (fun x => pointNeedsJob s x.1 x.2 || ctxRunning s x.1)).map (fun x =>
    (BitVec.ofNat 16 x.1, (pointPlace x.2).1, (pointPlace x.2).2))

/-- A drain of all streams stands. -/
def drainBegun (t : Tid) (k : BitVec 16) (s : State) : State :=
  modCodec (fun c => { c with
    parked := c.parked.filter (fun k => !(writeStreams s t.val).any (fun x => x.1 == k.toNat))
    drains := c.drains ++ [⟨t.val, some k, drainPlaces t s, 0, 0xFFFF⟩] }) s

theorem compDrainOp_of_all (hy : HeadIs t 0 1 y s) (ha : descArg y.desc = 0xFFFFFFFF) (hf : descFits y.desc 0xFFFFFFFF 0 0 0 = true) :
    compDrainOp t s = takeDesc t 0 y.ticket (drainBegun t y.ticket s) := by
  refine (onHead_of_headIs hy _).trans ?_
  dsimp only
  rw [ha, hf]
  rfl

theorem drainDoneOp_of_some {d : Drain} {k : BitVec 16}
    (hd : s.codec.drains.find? (fun d => d.t == t.val && d.ticket.isSome && d.scids.isEmpty) = some d) (hk : d.ticket = some k) :
    drainDoneOp t s = finish t 0 k stOk (BitVec.ofNat 32 d.bytes) { s with codec := { s.codec with drains := s.codec.drains.erase d } } := by
  unfold drainDoneOp
  rw [hd]
  dsimp only
  rw [hk]
  rfl

theorem drainDoneOp_of_none (h : ∀ d ∈ s.codec.drains, d.t = t.val → d.ticket.isSome = true → d.scids ≠ []) : drainDoneOp t s = s := by
  have hnone : s.codec.drains.find? (fun d => d.t == t.val && d.ticket.isSome && d.scids.isEmpty) = none := by
    refine List.find?_eq_none.mpr (fun d hd hp => ?_)
    simp only [Bool.and_eq_true, beq_iff_eq, List.isEmpty_iff] at hp
    obtain ⟨⟨ht, hk⟩, hs⟩ := hp
    exact h d hd ht hk hs
  unfold drainDoneOp
  rw [hnone]

end Drain

/-! ### EXPAND (R175, R176) -/

section Expand
variable {t : Tid} {y : Slot} {s : State}

theorem compExpandOp_of_closed (hy : HeadIs t 0 2 y s) (hx : streamOf s (descArg y.desc) = none) :
    compExpandOp t s = finish t 0 y.ticket stRejected 0 s := by
  refine (onHead_of_headIs hy _).trans ?_
  dsimp only
  rw [hx]
  exact if_neg (by simp)

/-- An EXPAND whose operands are in order: its stream is a read stream of the slice, which holds the buffers of its piece. -/
structure ExpandFits (t : Tid) (y : Slot) (x : Stream) (s : State) : Prop where
  head : HeadIs t 0 2 y s
  desc : descFits y.desc 0xFFFFFFFF (~~~0) (~~~0) 0 = true
  stream : streamOf s (descArg y.desc) = some x
  read : x.read = true
  slice : x.t = t.val
  scid : descArg y.desc < 40960
  piece : fieldB y.desc 128 32 = 0 ∨ (tokenHeld s (4 + t.val) (y.desc.extractLsb' 64 32) = true
    ∧ tokenHeld s (4 + t.val) (y.desc.extractLsb' 96 32) = true ∧ fieldB y.desc 128 32 ≤ tokSize s (y.desc.extractLsb' 64 32))

theorem compExpandOp_of_fits {x : Stream} (h : ExpandFits t y x s) :
    compExpandOp t s =
      let u := takeDesc t 0 y.ticket s
      if fieldB y.desc 128 32 = 0 ∧ !ctxRunning u (descArg y.desc)
          ∧ !u.codec.expands.any (fun e => ((expandDesc u e.1 e.2).map expScid) == some (descArg y.desc)) then
        zeroExpand t y.ticket (descArg y.desc) u
      else modCodec (fun c => { c with expands := c.expands ++ [(t.val, y.ticket)] }) u := by
  obtain ⟨hy, hd, hx, hr, ht, hs, hp⟩ := h
  refine (onHead_of_headIs hy _).trans ?_
  dsimp only
  rw [hx, partB_eq_extractLsb', partB_eq_extractLsb']
  refine if_pos ?_
  simp only [hd, hr, ht, Bool.true_and, beq_self_eq_true, Bool.and_eq_true, decide_eq_true_eq, Bool.or_eq_true, beq_iff_eq]
  exact ⟨hs, by tauto⟩

end Expand

/-! ### The offload ring's registers (R179, R180) -/

section Ring
variable {s : State}

theorem offSubmitOp_of_room {tail : Nat} (h : (tail + 65536 - fld s Reg.codecOqhead Fld.codecOqheadHead) % 65536 ≤ offSize s) :
    offSubmitOp tail s = setFld Reg.codecOqtail Fld.codecOqtailTail tail { s with codec := { s.codec with offTail := tail } } := if_pos h

theorem offSubmitOp_of_over {tail : Nat} (h : offSize s < (tail + 65536 - fld s Reg.codecOqhead Fld.codecOqheadHead) % 65536) :
    offSubmitOp tail s = logAccess Reg.codecOqtail s := if_neg (by omega)

/-- What a write of CODEC_OQCFG leaves in its fields. -/
structure RingSet (cfg : W32) (s u : State) : Prop where
  en : fld u Reg.codecOqcfg Fld.codecOqcfgEn = cfg.toNat % 2
  vector : fld u Reg.codecOqcfg Fld.codecOqcfgVector = cfg.toNat / 2 ^ 16 % 2 ^ 11
  size : fld s Reg.codecOqcfg Fld.codecOqcfgEn = 0 → 4 ≤ cfg.toNat / 2 % 32 → cfg.toNat / 2 % 32 ≤ 16 →
    fld u Reg.codecOqcfg Fld.codecOqcfgSize = cfg.toNat / 2 % 32
  held : fld s Reg.codecOqcfg Fld.codecOqcfgEn = 1 →
    fld u Reg.codecOqcfg Fld.codecOqcfgSize = fld s Reg.codecOqcfg Fld.codecOqcfgSize

theorem RingSet.of_regs {cfg : W32} {s u v : State} (h : RingSet cfg s u) (hr : v.regs = u.regs) : RingSet cfg s v := by
  obtain ⟨hen, hvec, hsize, hheld⟩ := h
  constructor <;> simp only [fld_of_regs hr] <;> assumption

theorem offEnableOp_spec (cfg : W32) (s : State) : RingSet cfg s (offEnableOp cfg s) := by
  unfold offEnableOp
  extract_lets en size a b
  have hsize : size = cfg.toNat / 2 % 32 := rfl
  have hen : fld a Reg.codecOqcfg Fld.codecOqcfgEn = fld s Reg.codecOqcfg Fld.codecOqcfgEn := fld_setFld_disjoint (by decide) (by decide) _ _ s
  have hasz : fld a Reg.codecOqcfg Fld.codecOqcfgSize = fld s Reg.codecOqcfg Fld.codecOqcfgSize := fld_setFld_disjoint (by decide) (by decide) _ _ s
  have havec : fld a Reg.codecOqcfg Fld.codecOqcfgVector = cfg.toNat / 2 ^ 16 % 2 ^ 11 :=
    (fld_setFld_self (by decide) _ _ s).trans (Nat.mod_eq_of_lt (Nat.mod_lt _ (by decide)))
  clear_value a
  have hb : fld b Reg.codecOqcfg Fld.codecOqcfgVector = fld a Reg.codecOqcfg Fld.codecOqcfgVector
      ∧ (fld a Reg.codecOqcfg Fld.codecOqcfgEn = 0 → 4 ≤ size → size ≤ 16 → fld b Reg.codecOqcfg Fld.codecOqcfgSize = size)
      ∧ (fld a Reg.codecOqcfg Fld.codecOqcfgEn = 1 → fld b Reg.codecOqcfg Fld.codecOqcfgSize = fld a Reg.codecOqcfg Fld.codecOqcfgSize) := by
    unfold b
    split
    · next h =>
      refine ⟨rfl, fun h0 _ _ => ?_, fun _ => rfl⟩
      rcases h with h | h
      · exact absurd (h0.symm.trans h) (by decide)
      · exact h.symm
    · next h =>
      rw [not_or] at h
      split
      · refine ⟨fld_setFld_disjoint (by decide) (by decide) _ _ a, fun _ _ _ => ?_, fun h1 => absurd h1 h.1⟩
        exact (fld_setFld_self (by decide) _ _ a).trans (Nat.mod_eq_of_lt (hsize ▸ Nat.mod_lt _ (by decide)))
      · next hr => exact ⟨rfl, fun _ h4 h16 => absurd ⟨h4, h16⟩ hr, fun _ => rfl⟩
  clear_value b
  obtain ⟨hbvec, hbset, hbheld⟩ := hb
  rw [hen] at hbset hbheld
  refine ⟨?_, ?_, fun h0 h4 h16 => ?_, fun h1 => ?_⟩
  · have hcfg : en = cfg.toNat % 2 := by
      rw [show en = cfg.toNat / 2 ^ 0 % 2 ^ 1 from rfl]
      omega
    rw [fld_setFld_self (by decide), hcfg]
    exact Nat.mod_mod _ _
  · rw [fld_setFld_disjoint (by decide) (by decide), hbvec, havec]
  · rw [fld_setFld_disjoint (by decide) (by decide), hbset h0 (by rw [hsize]; exact h4) (by rw [hsize]; exact h16), hsize]
  · rw [fld_setFld_disjoint (by decide) (by decide), hbheld h1, hasz]

theorem offEnableRow_spec {src : Src} (cfg : W32) (hr : romHeld src s = false) : RingSet cfg (hostWakes src s) (offEnableRow src cfg s) := by
  rw [offEnableRow, byAny_of_not_held hr]
  have h := offEnableOp_spec cfg (hostWakes src s)
  dsimp only
  split
  · split
    · exact h.of_regs rfl
    · exact h
  · exact h

end Ring

/-! ### REPLACE (R257) -/

section Replace
variable {scid : BitVec 16} {x : Stream} {c : Cmd} {s : State}

theorem replaceDiscard_of_closed (h : streamOf s scid.toNat = none) : replaceDiscard scid s = s := by
  unfold replaceDiscard
  rw [h]

/-- The command whose turn it is replaces records of the stream. -/
structure Replaces (scid : BitVec 16) (x : Stream) (c : Cmd) (s : State) : Prop where
  stream : streamOf s scid.toNat = some x
  cmd : (cmdsOf s scid).find? (fun c => !c.active) = some c
  opc : c.e.opc = 0x12
  replace : csBit0 c.e = true
  turn : hasTurn s x c = true

theorem replaceDiscard_of_running (h : Replaces scid x c s) (hrun : ctxRunning s scid.toNat = true) : replaceDiscard scid s = s := by
  unfold replaceDiscard
  rw [h.stream, h.cmd]
  exact if_neg (by simp [hrun])

theorem replaceDiscard_of_idle (h : Replaces scid x c s) (hrun : ctxRunning s scid.toNat = false)
    (hq : (BitVec.ofNat 32 (csField c.e 0x1C 4)).toNat ≤ x.next.toNat) :
    replaceDiscard scid s =
      let q : W32 := BitVec.ofNat 32 (csField c.e 0x1C 4)
      if q.toNat < x.unsealed.toNat ∨ ∃ r ∈ x.recs, r.sealed = true ∧ q.toNat ≤ r.seq.toNat then endCmd c.e.tag hsSealed 0 0x1C s
      else
        match newRecs s c q with
        | none => endCmd c.e.tag stRejected 0 0x08 s
        | some l => appendRecs c l (discardFrom scid q s) := by
  unfold replaceDiscard
  rw [h.stream, h.cmd]
  dsimp only
  rw [if_pos ⟨h.opc, h.replace, h.turn, by rw [hrun]; rfl, hq⟩]
  simp only [List.any_eq_true, Bool.and_eq_true, decide_eq_true_eq] <;> rfl

end Replace

/-- Settles O38: each descriptor and register through the equation of its operation. -/
theorem codecDescriptors : Obligations.CodecDescriptors := by
  refine ⟨fun t y s => ⟨fun hy ha hf => ?_, fun d k hd hk => ?_, fun h => ?_, fun hy hx => ?_, fun x hy hd hx hr ht hs hn hin hout hsz => ?_,
      fun x hy hd hx hr ht hs hn hrun he => ?_⟩,
    fun src tail cfg s hr => ⟨fun h => ?_, fun h => ?_, ?_⟩,
    fun scid x c s => ⟨fun h => ?_, fun hx hc hop hbit hturn => ⟨fun hrun => ?_, fun hrun hq => ⟨fun h => ?_, fun hu hsl hn => ?_,
      fun l hu hsl hn => ?_⟩⟩⟩⟩
  · exact ⟨drainBegun t y.ticket s, _, next_congr (congrArg settleHost (compDrainOp_of_all hy ha hf)), rfl, rfl, rfl, rfl⟩
  · exact next_congr (congrArg settleHost (drainDoneOp_of_some hd hk))
  · exact next_congr (congrArg settleHost (drainDoneOp_of_none h))
  · exact next_congr (congrArg settleHost (compExpandOp_of_closed hy hx))
  · have hfits : ExpandFits t y x s := ⟨hy, hd, hx, hr, ht, hs, .inr ⟨hin, hout, hsz⟩⟩
    exact ⟨_, next_congr (congrArg settleHost ((compExpandOp_of_fits hfits).trans (if_neg (fun h => hn h.1)))), rfl⟩
  · have hfits : ExpandFits t y x s := ⟨hy, hd, hx, hr, ht, hs, .inl hn⟩
    have hrunning : ctxRunning (takeDesc t 0 y.ticket s) (descArg y.desc) = false := hrun
    have hexpands : (takeDesc t 0 y.ticket s).codec.expands = [] := he
    refine next_congr (congrArg settleHost ((compExpandOp_of_fits hfits).trans (if_pos ⟨hn, ?_, ?_⟩)))
    · rw [hrunning]
      rfl
    · rw [hexpands]
      rfl
  · exact next_congr ((byAny_of_not_held hr).trans (offSubmitOp_of_room h))
  · exact next_congr ((byAny_of_not_held hr).trans (offSubmitOp_of_over h))
  · obtain ⟨hen, hvec, hsize, hheld⟩ := offEnableRow_spec cfg hr
    exact ⟨_, rfl, hen, hvec, hsize, hheld⟩
  · exact next_congr (congrArg settleHost (replaceDiscard_of_closed h))
  all_goals have hrep : Replaces scid x c s := ⟨hx, hc, hop, hbit, hturn⟩
  · exact next_congr (congrArg settleHost (replaceDiscard_of_running hrep hrun))
  · exact next_congr (congrArg settleHost ((replaceDiscard_of_idle hrep hrun hq).trans (if_pos h)))
  · refine next_congr (congrArg settleHost ((replaceDiscard_of_idle hrep hrun hq).trans ((if_neg ?_).trans ?_)))
    · rintro (h | ⟨r, hr, hs, h⟩)
      · omega
      · exact absurd (hsl r hr hs) (by omega)
    · rw [hn]
  · refine next_congr (congrArg settleHost ((replaceDiscard_of_idle hrep hrun hq).trans ((if_neg ?_).trans ?_)))
    · rintro (h | ⟨r, hr, hs, h⟩)
      · omega
      · exact absurd (hsl r hr hs) (by omega)
    · rw [hn]

end Sys2Proof.Machine
end

section
/-! Codec jobs and engines: the dispatcher, engines that fault or retire, idle history (R23, R159-R161, R169, R176, R180, R181). -/
namespace Sys2Proof.Machine
open Sys2Proof.Safety

/-! ### The codec's state -/

theorem engOf_modEng (e : Nat) (f : Engine → Engine) (s : State) : engOf (modEng e f s) e = f (engOf s e) := SMap.get_set_self _ _ _ _

theorem ctxOf_modCtx (k : Nat) (f : Ctx → Ctx) (s : State) : ctxOf (modCtx k f s) k = f (ctxOf s k) := SMap.get_set_self _ _ _ _

theorem engOf_of_codec {s u : State} (h : u.codec.eng = s.codec.eng) (e : Nat) : engOf u e = engOf s e := by rw [engOf, h, engOf]

/-! ### The arbiter (R23) -/

theorem drrPick_names {s : State} {cz : Bool} {fuel r q : Nat} {credit credit' : SMap Nat} (hr : r < 9)
    (h : drrPick s cz fuel r credit = some (q, credit')) : q < 9 ∧ ∃ j, nextJob s cz q = some j := by
  induction fuel generalizing r credit with
  | zero => exact nomatch h
  | succ n ih =>
    have hnext : (r + 1) % 9 < 9 := Nat.mod_lt _ (by decide)
    unfold drrPick at h
    split at h
    · exact ih hnext h
    · next j hj =>
      split at h
      · obtain ⟨rfl, -⟩ := Prod.mk.inj (Option.some.inj h)
        exact ⟨hr, j, hj⟩
      · exact ih hnext h

/-! ### The dispatcher (R159, R161) -/

section Dispatch
variable {r : JobReq} {e : Nat} {s : State}

theorem dispatchOp_of_not_free (h : engFree s e = false) : dispatchOp r e s = s := by
  unfold dispatchOp
  rw [h]
  rfl

theorem engFree_of_busy (h : s.codec.retired.get 0 e = 1 ∨ (engOf s e).job.isSome = true) : engFree s e = false := by
  unfold engFree
  rcases h with h | h
  · simp [h]
  · obtain ⟨j, hj⟩ := Option.isSome_iff_exists.mp h
    simp [hj]

theorem dispatchOp_of_not_for {k : Nat} (hk : jobScid s (decide (e < 32)) r = some k) (h : engineFor s k e = false) : dispatchOp r e s = s := by
  unfold dispatchOp
  dsimp only
  rw [hk, Option.any_some, h, Bool.and_false]
  rfl

theorem engineFor_of_avoided {k : Nat} (h : s.codec.avoid.get 0 k = e + 1) : engineFor s k e = false := by
  unfold engineFor
  simp [h]

theorem engineFor_of_other {k p : Nat} (hran : s.codec.ranOn.get 0 k = p + 1) (hne : p ≠ e) (ha : s.codec.avoid.get 0 k ≠ p + 1)
    (hkind : p < 32 ↔ e < 32) (hfree : engFree s p = true) : engineFor s k e = false := by
  have hsame : (p + 1 ≤ 32) = (e < 32) := propext hkind
  unfold engineFor
  dsimp only
  rw [hran, Nat.add_sub_cancel, hfree]
  simp [hsame, hne, ha.symm]

/-- The arbiter has taken a requester's turn. -/
def turnTaken (q : Nat) (credit : SMap Nat) (s : State) : State := modCodec (fun c => { c with turn := q, credit := credit }) s

/-- A free engine, the arbiter's choice and its next job. -/
structure Picked (e q : Nat) (credit : SMap Nat) (j : JobReq) (s : State) : Prop where
  free : engFree s e = true
  pick : drrPick s (decide (e < 32)) drrTurns s.codec.turn s.codec.credit = some (q, credit)
  next : ∃ n, nextJob s (decide (e < 32)) q = some (j, n)

variable {q : Nat} {credit : SMap Nat}

theorem dispatchOp_of_other {j : JobReq} (h : Picked e q credit j s) (hj : j ≠ r) : dispatchOp r e s = s := by
  obtain ⟨-, hpick, n, hnext⟩ := h
  unfold dispatchOp
  dsimp only
  rw [hpick]
  dsimp only
  rw [hnext]
  dsimp only
  rw [if_neg hj, ite_self]

/-- The requester named gets the engine. -/
def serveJob (r : JobReq) (e : Nat) (s : State) : State :=
  match r with
  | .write scid => startWrite e scid s
  | .expand t => match nextExpand s t.val with
    | some (k, d) => startExpand e t k d s
    | none => s
  | .offload => match nextOffload s (decide (e < 32)) with
    | some (i, fresh) => startOffload e i fresh s
    | none => s

theorem dispatchOp_of_picked {k : Nat} (h : Picked e q credit r s) (hk : jobScid s (decide (e < 32)) r = some k) (hfor : engineFor s k e = true) :
    dispatchOp r e s = serveJob r e (turnTaken q credit s) := by
  obtain ⟨hfree, hpick, n, hnext⟩ := h
  unfold dispatchOp
  dsimp only
  rw [hfree, hk, Option.any_some, hfor, if_pos (by decide), hpick]
  dsimp only
  rw [hnext]
  exact if_pos rfl

/-! ### Jobs that start -/

/-- A job put on an engine. -/
theorem startJob_spec (e : Nat) (j : Job) (s : State) : (engOf (startJob e j s) e).job = some j ∧ (startJob e j s).codec.turn = s.codec.turn
    ∧ (startJob e j s).codec.credit = s.codec.credit ∧ (startJob e j s).codec.expands = s.codec.expands := by
  unfold startJob
  dsimp only
  rw [engOf_modEng]
  exact ⟨rfl, rfl, rfl, rfl⟩

theorem jobSize_le (s : State) (scid : BitVec 16) (x : Stream) : jobSize s scid x ≤ 262144 := by
  unfold jobSize
  dsimp only
  split <;> omega

theorem startWrite_spec {scid : BitVec 16} {x : Stream} (hx : streamOf s scid.toNat = some x) :
    ∃ j : Job, (engOf (startWrite e scid s) e).job = some j ∧ j.scid = scid ∧ j.t = some x.t ∧ j.entry = none ∧ j.inLen = jobSize s scid x
      ∧ j.limit = jobSpace s scid x ∧ (startWrite e scid s).codec.turn = s.codec.turn
      ∧ (startWrite e scid s).codec.credit = s.codec.credit := by
  unfold startWrite
  rw [hx]
  dsimp only
  obtain ⟨hjob, hturn, hcredit, -⟩ := startJob_spec e _ s
  exact ⟨_, hjob, rfl, rfl, rfl, rfl, rfl, hturn, hcredit⟩

theorem expScid_ofNat (d : BitVec 256) : (BitVec.ofNat 16 (expScid d)).toNat = expScid d := by
  rw [BitVec.toNat_ofNat]
  exact Nat.mod_eq_of_lt (Nat.mod_lt _ (by decide))

theorem offCtx_ofNat (i : Nat) : (BitVec.ofNat 16 (offCtx i)).toNat = offCtx i := by
  rw [BitVec.toNat_ofNat, offCtx]
  omega

theorem startExpand_of_zero {t : Tid} {k : BitVec 16} {d : BitVec 256} (h : fieldB d 128 32 = 0) :
    startExpand e t k d s = zeroExpand t k (expScid d) s := by
  unfold startExpand
  dsimp only
  rw [if_pos h, expScid_ofNat]

theorem startExpand_of_piece {t : Tid} {k : BitVec 16} {d : BitVec 256} (h : fieldB d 128 32 ≠ 0) :
    ∃ j : Job, (engOf (startExpand e t k d s) e).job = some j ∧ j.scid.toNat = expScid d ∧ j.t = some t.val
      ∧ j.expand = some k ∧ j.entry = none ∧ j.inTok = d.extractLsb' 64 32 ∧ j.inLen = fieldB d 128 32 ∧ j.outTok = d.extractLsb' 96 32
      ∧ j.limit ≤ tokSize s j.outTok
      ∧ (fieldB d 160 32 ≠ 0 → j.limit ≤ fieldB d 160 32) ∧ (t.val, k) ∉ (startExpand e t k d s).codec.expands := by
  unfold startExpand
  extract_lets scid out lim u
  have hu : (t.val, k) ∉ u.codec.expands := by
    show (t.val, k) ∉ s.codec.expands.filter (fun x => x != (t.val, k))
    simp
  have hsize : tokSize u out = tokSize s out := rfl
  clear_value u
  rw [if_neg h, hsize]
  obtain ⟨hjob, -, -, hex⟩ := startJob_spec e { Job.reset with
      scid := scid, t := some t.val, expand := some k, inTok := partB d 64 32, inLen := fieldB d 128 32, outTok := out
      limit := if lim = 0 then tokSize s out else min lim (tokSize s out) } u
  refine ⟨_, hjob, expScid_ofNat d, rfl, rfl, rfl, partB_eq_extractLsb' _ _ _, rfl, partB_eq_extractLsb' _ _ _, ?_, fun hlim => ?_,
    by rw [hex]; exact hu⟩
  · dsimp only
    split
    · exact le_refl _
    · exact Nat.min_le_right _ _
  · dsimp only
    rw [if_neg hlim]
    exact Nat.min_le_left _ _

/-- The ring's next entry has been taken, where the job begins one. -/
def entryTaken (fresh : Bool) (s : State) : State := if fresh then modCodec (fun c => { c with offNext := (c.offNext + 1) % 65536 }) s else s

theorem entryTaken_keeps (fresh : Bool) (s : State) : (entryTaken fresh s).codec.eng = s.codec.eng
    ∧ (∀ i, offValid (entryTaken fresh s) i = offValid s i) ∧ ∀ i, offPiece (entryTaken fresh s) i = offPiece s i := by
  unfold entryTaken
  split <;> exact ⟨rfl, fun _ => rfl, fun _ => rfl⟩

theorem startOffload_of_invalid {i : Nat} {fresh : Bool} (h : offValid s i = false) :
    startOffload e i fresh s = offAdvance (offFinish i stRejected 0 0 0 (entryTaken fresh s)) := by
  have hv : offValid (entryTaken fresh s) i = false := ((entryTaken_keeps fresh s).2.1 i).trans h
  exact if_pos ((congrArg (!·) hv).trans rfl)

theorem startOffload_of_valid {i : Nat} {fresh : Bool} (h : offValid s i = true) :
    ∃ j : Job, (engOf (startOffload e i fresh s) e).job = some j ∧ j.scid.toNat = offCtx i ∧ j.entry = some i ∧ j.t = none
      ∧ j.inLen = offPiece s i := by
  obtain ⟨-, hvalid, hpiece⟩ := entryTaken_keeps fresh s
  unfold startOffload
  extract_lets u n c cz c' w
  have hu : u = entryTaken fresh s := rfl
  have hn : n = offPiece s i := (congrArg (fun u => offPiece u i) hu).trans (hpiece i)
  rw [if_neg (by rw [hu, hvalid, h]; decide)]
  clear_value n w
  obtain ⟨hjob, -⟩ := startJob_spec e { Job.reset with
      scid := BitVec.ofNat 16 (offCtx i), entry := some i, inLen := n
      limit := if cz then offField w i 0x1C 4 - c.rout else min 262144 (offField w i 0x1C 4 - c.dec.out)
      fin := c.rin + n == offField w i 0x18 4 } w
  exact ⟨_, hjob, offCtx_ofNat i, rfl, rfl, hn⟩

end Dispatch

end Sys2Proof.Machine
end

section
/-! Engines that fault or retire, idle history, and the statement about jobs and engines (R161, R169, R181). -/
namespace Sys2Proof.Machine
open Sys2Proof.Safety

/-! ### A job that is abandoned (R161) -/

section Engines
variable {e : Nat} {s : State}

/-- A job abandoned: its engine is free and is avoided, its context stands, and an EXPAND goes back to the front. -/
structure Abandoned (e : Nat) (j : Job) (s u : State) : Prop where
  free : (engOf u e).job = none
  ctx : u.codec.ctx = s.codec.ctx
  avoid : u.codec.avoid.get 0 j.scid.toNat = e + 1
  expands : ∀ t k, j.t = some t → j.expand = some k → u.codec.expands = (t, k) :: s.codec.expands

theorem abandonJob_spec {j : Job} (hj : (engOf s e).job = some j) : Abandoned e j s (abandonJob e s) := by
  unfold abandonJob
  rw [hj]
  dsimp only
  have ha := engOf_modEng e (fun x => { x with job := none, aff := false }) s
  have hctx : (modEng e (fun x => { x with job := none, aff := false }) s).codec.ctx = s.codec.ctx := rfl
  have hexp : (modEng e (fun x => { x with job := none, aff := false }) s).codec.expands = s.codec.expands := rfl
  generalize modEng e (fun x => { x with job := none, aff := false }) s = a at ha hctx hexp
  have hb := codecError_codec Fld.codecErrEngfault j.scid.toNat a
  generalize codecError Fld.codecErrEngfault j.scid.toNat a = b at hb
  refine ⟨?_, ?_, SMap.get_set_self _ _ _ _, fun t k ht hk => ?_⟩
  · show (engOf b e).job = none
    rw [engOf_of_codec (congrArg Codec.eng hb), ha]
  · exact (congrArg Codec.ctx hb).trans hctx
  · show (match j.t, j.expand with | some t, some k => (t, k) :: b.codec.expands | _, _ => b.codec.expands) = _
    rw [ht, hk, hb, hexp]

theorem abandonJob_free (e : Nat) (s : State) : (engOf (abandonJob e s) e).job = none := by
  cases h : (engOf s e).job with
  | none =>
    unfold abandonJob
    rw [h]
    exact h
  | some j => exact (abandonJob_spec h).free

/-! ### Retirement (R161, R181) -/

theorem retireCodec_spec (e : Nat) (s : State) :
    (retireCodec e s).codec.retired.get 0 e = 1 ∧ (engOf (retireCodec e s) e).job = none := by
  refine ⟨?_, abandonJob_free e _⟩
  unfold retireCodec
  rw [(abandonJob_keeps e _).2, markRetired_codec]
  exact SMap.get_set_self _ _ _ _

theorem markReturned_codec (u : BitVec 16) (s : State) : (markReturned u s).codec = s.codec := by
  unfold markReturned
  split <;> rfl

theorem codecReturn_spec (e : Nat) (s : State) :
    (codecRetireOp e false s).codec.retired.get 0 e = 0 ∧ (codecRetireOp e false s).codec.eng = s.codec.eng := by
  unfold codecRetireOp
  dsimp only
  rw [if_neg Bool.false_ne_true, markReturned_codec]
  exact ⟨SMap.get_set_self _ _ _ _, rfl⟩

theorem codecEngRow_host {ep : Fin 4} {b : Bool} (hr : romHeld (.host ep) s = false) :
    codecEngRow (.host ep) e b s = logAccess (Reg.codecEng e) (wakeUp s) := by
  unfold codecEngRow byFirmware
  exact byDebug_of_denied rfl hr

theorem codecEngRow_puppeteer (b : Bool) :
    codecEngRow .puppeteer e b s = if (s.codec.retired.get 0 e == 1) = b then s else codecRetireOp e b s := rfl

/-! ### History (R168, R169) -/

theorem dropHistory_toks (k : Nat) (s : State) : (ctxOf (dropHistory k s) k).toks = [] := by
  unfold dropHistory
  dsimp only
  rw [ctxOf_modCtx]

theorem endHistory_spec (k : Nat) (s : State) : (ctxOf (endHistory k s) k).hvalid = false ∧ (ctxOf (endHistory k s) k).toks = [] := by
  have h := dropHistory_toks k s
  unfold endHistory
  rw [ctxOf_modCtx]
  exact ⟨rfl, h⟩

theorem historyIdleOp_of_off {k : Nat} (h : fld s Reg.czHidle Fld.czHidleMs = 0) : historyIdleOp k s = s := if_neg (fun hc => hc.1 h)

theorem historyIdleOp_of_idle {k : Nat} (h : fld s Reg.czHidle Fld.czHidleMs ≠ 0) (hv : (ctxOf s k).hvalid = true) (hd : (ctxOf s k).dir = false)
    (hr : ctxRunning s k = false) : historyIdleOp k s = endHistory k s := if_pos ⟨h, hv, hd, by rw [hr]; rfl⟩

theorem engineFaultOp_of_none (h : (engOf s e).job = none) : engineFaultOp e s = s := if_neg (by rw [h]; decide)

theorem engineFaultOp_of_some {j : Job} (h : (engOf s e).job = some j) :
    engineFaultOp e s = faultEvent (if e < 32 then unitId 2 e else unitId 3 (e - 32)) 0 0 (abandonJob e s) := if_pos (by rw [h]; rfl)

end Engines

/-! ### Jobs that the dispatcher puts on an engine -/

section Served
variable {e q : Nat} {credit : SMap Nat} {s : State}

theorem dispatch_write {scid : BitVec 16} {x : Stream} (h : Picked e q credit (.write scid) s) (hfor : engineFor s scid.toNat e = true)
    (hx : streamOf s scid.toNat = some x) : ∃ j : Job, (dispatchOp (.write scid) e s).codec.turn = q
      ∧ (dispatchOp (.write scid) e s).codec.credit = credit ∧ (engOf (dispatchOp (.write scid) e s) e).job = some j ∧ j.scid = scid
      ∧ j.t = some x.t ∧ j.entry = none ∧ j.inLen = jobSize s scid x ∧ j.inLen ≤ 262144 ∧ j.limit = jobSpace s scid x := by
  rw [dispatchOp_of_picked h rfl hfor]
  obtain ⟨j, hjob, hscid, ht, hentry, hlen, hlim, hturn, hcredit⟩ := startWrite_spec (e := e) (s := turnTaken q credit s) hx
  exact ⟨j, hturn, hcredit, hjob, hscid, ht, hentry, hlen, hlen ▸ jobSize_le _ scid x, hlim⟩

theorem dispatch_expand {t : Tid} {k : BitVec 16} {d : BitVec 256} (h : Picked e q credit (.expand t) s)
    (hd : nextExpand s t.val = some (k, d)) (hfor : engineFor s (expScid d) e = true) :
    dispatchOp (.expand t) e s = startExpand e t k d (turnTaken q credit s) := by
  have hk : jobScid s (decide (e < 32)) (.expand t) = some (expScid d) := by
    unfold jobScid
    dsimp only
    rw [hd]
    rfl
  have hd' : nextExpand (turnTaken q credit s) t.val = some (k, d) := hd
  rw [dispatchOp_of_picked h hk hfor, serveJob, hd']

theorem dispatch_offload {i : Nat} {fresh : Bool} (h : Picked e q credit .offload s) (hi : nextOffload s (decide (e < 32)) = some (i, fresh))
    (hfor : engineFor s (offCtx i) e = true) : dispatchOp .offload e s = startOffload e i fresh (turnTaken q credit s) := by
  have hk : jobScid s (decide (e < 32)) .offload = some (offCtx i) := by
    unfold jobScid
    dsimp only
    rw [hi]
    rfl
  have hi' : nextOffload (turnTaken q credit s) (decide (e < 32)) = some (i, fresh) := hi
  rw [dispatchOp_of_picked h hk hfor, serveJob, hi']

end Served

/-- Settles O36: the dispatcher by what it picks, the engines by what an abandoned job leaves. -/
theorem jobsAndEngines : Obligations.JobsAndEngines := by
  refine ⟨⟨fun r e s => ⟨fun h => ?_, fun k hk h => ?_, fun q credit j n hfree hpick hnext => ?_⟩, fun s cz fuel r q credit credit' hr h =>
    drrPick_names hr h⟩, fun e ep b scid s => ⟨fun h => ?_, fun j h => ?_, fun hr => ?_, fun h => ?_, fun h => ?_, fun h => ?_, fun h => ?_,
    fun h hv hd hrun => ?_⟩⟩
  · exact next_congr (congrArg settleHost (dispatchOp_of_not_free (engFree_of_busy h)))
  · refine next_congr (congrArg settleHost (dispatchOp_of_not_for hk ?_))
    rcases h with h | ⟨p, hran, hne, ha, hkind, hp⟩
    · exact engineFor_of_avoided h
    · exact engineFor_of_other hran hne ha hkind hp
  · have hp : Picked e.val q credit j s := ⟨hfree, hpick, n, hnext⟩
    refine ⟨fun hj => ?_, fun scid x hj hr hfor hx => ?_, fun t k d hj hr hd hfor => ?_, fun i fresh hj hr hi hfor => ?_⟩
    · exact next_congr (congrArg settleHost (dispatchOp_of_other hp hj))
    · subst hj hr
      obtain ⟨k, hk⟩ := dispatch_write hp hfor hx
      exact ⟨_, k, rfl, hk⟩
    · subst hj hr
      have hrow := dispatch_expand hp hd hfor
      refine ⟨fun h0 => ?_, fun h0 => ?_⟩
      · exact next_congr (congrArg settleHost (hrow.trans (startExpand_of_zero h0)))
      · obtain ⟨b, hb⟩ := startExpand_of_piece (e := e.val) (t := t) (k := k) (s := turnTaken q credit s) h0
        exact ⟨_, b, next_congr (congrArg settleHost hrow), hb⟩
    · subst hj hr
      have hrow := dispatch_offload hp hi hfor
      refine ⟨fun hv => ?_, fun hv => ?_⟩
      · have hoff := startOffload_of_invalid (e := e.val) (fresh := fresh) (s := turnTaken q credit s) hv
        exact ⟨_, next_congr (congrArg settleHost (hrow.trans hoff)), (entryTaken_keeps fresh _).1⟩
      · obtain ⟨b, hb⟩ := startOffload_of_valid (e := e.val) (fresh := fresh) (s := turnTaken q credit s) hv
        exact ⟨_, b, next_congr (congrArg settleHost hrow), hb⟩
  · exact next_congr (congrArg settleHost (engineFaultOp_of_none h))
  · obtain ⟨hfree, hctx, havoid, hexp⟩ := abandonJob_spec h
    exact ⟨_, next_congr (congrArg settleHost (engineFaultOp_of_some h)), hfree, hctx, havoid, hexp⟩
  · exact next_congr (congrArg settleHost (codecEngRow_host hr))
  · refine next_congr (congrArg settleHost ((codecEngRow_puppeteer false).trans (if_pos ?_)))
    exact beq_eq_false_iff_ne.mpr h
  · refine ⟨retireCodec e.val s, next_congr (congrArg settleHost ((codecEngRow_puppeteer true).trans (if_neg ?_))), retireCodec_spec e.val s⟩
    simpa using h
  · refine ⟨codecRetireOp e.val false s, next_congr (congrArg settleHost ((codecEngRow_puppeteer false).trans (if_neg ?_))),
      codecReturn_spec e.val s⟩
    simpa using h
  · exact next_congr (historyIdleOp_of_off h)
  · exact ⟨_, next_congr (historyIdleOp_of_idle h hv hd hrun), endHistory_spec _ s⟩

end Sys2Proof.Machine
end

section
/-! How compression jobs stop, and the codings of a block (R165, R170, R174, R179). -/
namespace Sys2Proof.Machine
open Sys2Proof.Safety

/-! ### What the end of a job leaves -/

theorem freeEngine_job (e : Nat) (j : Job) (n : Nat) (s : State) : (engOf (freeEngine e j n s) e).job = none := by
  unfold freeEngine
  rw [engOf_modEng]

theorem freeEngine_keeps (e : Nat) (j : Job) (n : Nat) (s : State) : (freeEngine e j n s).tp = s.tp
    ∧ (freeEngine e j n s).hostMem = s.hostMem ∧ (freeEngine e j n s).codec.ctx = s.codec.ctx := ⟨rfl, rfl, rfl⟩

theorem countBlocks_keeps (a : JobOut) (s : State) : (countBlocks a s).tp = s.tp ∧ (countBlocks a s).hostMem = s.hostMem := by
  have hpair (lo hi v : Nat) (s : State) : (setPair lo hi v s).tp = s.tp ∧ (setPair lo hi v s).hostMem = s.hostMem := ⟨rfl, rfl⟩
  unfold countBlocks
  extract_lets add
  have hadd (r v s) : (add r v s).tp = s.tp ∧ (add r v s).hostMem = s.hostMem := hpair _ _ _ s
  clear_value add
  constructor
  · rw [(hadd _ _ _).1, (hadd _ _ _).1, (hadd _ _ _).1, (hadd _ _ _).1, (hadd _ _ _).1]
  · rw [(hadd _ _ _).2, (hadd _ _ _).2, (hadd _ _ _).2, (hadd _ _ _).2, (hadd _ _ _).2]

/-! ### A write stream's job (R170) -/

section Write
variable {e : Nat} {t : Tid} {j : Job} {x : Stream} {l : List Coding} {s : State}

theorem compStopOp_of_none (h : (engOf s e).job = none) : compStopOp e l s = s := by
  unfold compStopOp
  rw [h]

theorem compStopOp_of_write {t : Nat} (h : (engOf s e).job = some j) (hentry : j.entry = none) (ht : j.t = some t) :
    compStopOp e l s = compWriteDone e (tid t) j l s := by
  unfold compStopOp
  rw [h]
  dsimp only
  rw [hentry, ht]

theorem compStopOp_of_entry {i : Nat} (h : (engOf s e).job = some j) (hentry : j.entry = some i) :
    compStopOp e l s = compOffloadDone e i j l s := by
  unfold compStopOp
  rw [h]
  dsimp only
  rw [hentry]

theorem compWriteDone_of_invalid (hx : streamOf s j.scid.toNat = some x) (hv : ctxValid (ctxOf s j.scid.toNat) = false) :
    compWriteDone e t j l s = modCodec (fun c => { c with parked := c.parked ++ [j.scid] }) (modEng e (fun x => { x with job := none }) s) := by
  unfold compWriteDone
  rw [hx]
  exact if_pos (by rw [hv]; rfl)

theorem compWriteDone_of_pieces {a : JobOut} {v : State} (hx : streamOf s j.scid.toNat = some x) (hv : ctxValid (ctxOf s j.scid.toNat) = true)
    (hp : piecesDone t j (engOf s e).reach (jobPieces (uncoded x) j.inLen) l j.limit ⟨0, 0, 0, 0, 0, false⟩ s = some (a, v)) :
    compWriteDone e t j l s = freeEngine e j a.used (writeJobDone t j x a v) := by
  unfold compWriteDone
  rw [hx]
  dsimp only
  rw [hv, if_neg (by decide), hp]

theorem yoyo_flushItem (scid tag : BitVec 16) (x : Stream) (s : State) : (tpOf (flushItem scid tag x s) t).yoyo = (tpOf s t).yoyo := by
  unfold flushItem
  extract_lets u a held
  split
  · by_cases h : t = u
    · subst h
      rw [modAsm, tpOf_modTp]
    · rw [modAsm, tpOf_modTp_ne _ _ _ _ h]
  · rfl

theorem reachPoints_tp (scid : BitVec 16) (s : State) : (reachPoints scid s).tp = s.tp := by
  unfold reachPoints
  split <;> rfl

/-- What was consumed leaves the fill of the slice. -/
theorem writeJobDone_hostBytes (a : JobOut) (s : State) :
    (tpOf (writeJobDone t j x a s) t).yoyo.hostBytes = (tpOf s t).yoyo.hostBytes - a.used := by
  unfold writeJobDone
  extract_lets b c d tag p
  have hb : b.tp = s.tp := (countBlocks_keeps a s).1
  have hc : tpOf c t = tpOf s t := by
    rw [tpOf, show c.tp = b.tp from rfl, hb, ← tpOf]
  have hd : (tpOf d t).yoyo.hostBytes = (tpOf s t).yoyo.hostBytes - a.used := by
    unfold d
    rw [tpOf_modTp, hc]
  have hp : (tpOf p t).yoyo = (tpOf d t).yoyo := by rw [tpOf, reachPoints_tp, ← tpOf]
  split
  · split
    · rw [yoyo_flushItem, hp, hd]
    · rw [hp, hd]
  · split <;> exact hd

end Write

/-! ### A piece of an offload entry (R179, R180) -/

section Offload
variable {e i : Nat} {j : Job} {l : List Coding} {s : State}

/-- The input of an entry's piece. -/
def offInput (i : Nat) (j : Job) (s : State) : List Byte :=
  s.hostMem.read 0 (offField s i 8 8 + (ctxOf s j.scid.toNat).rin) j.inLen

/-- The input of an entry before its piece, latest byte first. -/
def offPast (i : Nat) (j : Job) (s : State) : List (Byte × Bool) :=
  let c := ctxOf s j.scid.toNat
  let back := min c.rin (2 ^ c.winlog.toNat)
  (s.hostMem.read 0 (offField s i 8 8 + c.rin - back) back).reverse.map (fun b => (b, false))

/-- The piece as the engine codes it. -/
def offPieceOut (i : Nat) (j : Job) (l : List Coding) (s : State) : PieceOut :=
  codePiece (ctxOf s j.scid.toNat) j.limit (if j.fin then .final else .inside) false (l.headD ⟨[], [], [], [], []⟩) (offInput i j s)

/-- The context behind a piece. -/
def offCtxAfter (c : Ctx) (lim : Nat) (o : PieceOut) (input : List Byte) : Ctx := { c with
  rin := c.rin + o.used, rout := c.rout + wholeBytes lim o, rcrc := crcMore c.rcrc (input.take o.used)
  pend := BitVec.ofNat 64 (streamNat (o.bits.drop (8 * wholeBytes lim o))), pcnt := (o.bits.drop (8 * wholeBytes lim o)).length }

/-- An entry after one of its pieces: output, counts and context, and the engine free. -/
def offPieceDone (e i : Nat) (j : Job) (l : List Coding) (s : State) : State :=
  let c := ctxOf s j.scid.toNat
  let o := offPieceOut i j l s
  let n := wholeBytes (8 * j.limit) o
  let s' := countBlocks ⟨o.used, n, o.stored, o.static, o.dyn, o.space⟩ (hostWrite (offField s i 0x10 8 + c.rout) (packBits n o.bits) s)
  freeEngine e j o.used (modCtx j.scid.toNat (fun _ => offCtxAfter c (8 * j.limit) o (offInput i j s)) s')

theorem compOffloadDone_of_fits (h : codingFits (ctxOf s j.scid.toNat) false (engOf s e).reach (offPast i j s)
      ((offInput i j s).map (fun b => (b, false))) (l.headD ⟨[], [], [], [], []⟩) = true) :
    compOffloadDone e i j l s =
      let c' := offCtxAfter (ctxOf s j.scid.toNat) (8 * j.limit) (offPieceOut i j l s) (offInput i j s)
      if (offPieceOut i j l s).space then offAdvance (offFinish i 0x14 c'.rin c'.rout c'.rcrc (offPieceDone e i j l s))
      else if j.fin then offAdvance (offFinish i stOk c'.rin c'.rout c'.rcrc (offPieceDone e i j l s))
      else offPieceDone e i j l s := if_pos h

/-- The last piece of an entry, or one without room, completes it. -/
theorem compOffloadDone_of_done (h : codingFits (ctxOf s j.scid.toNat) false (engOf s e).reach (offPast i j s)
      ((offInput i j s).map (fun b => (b, false))) (l.headD ⟨[], [], [], [], []⟩) = true)
    (hdone : (offPieceOut i j l s).space = true ∨ j.fin = true) :
    compOffloadDone e i j l s =
      let c' := offCtxAfter (ctxOf s j.scid.toNat) (8 * j.limit) (offPieceOut i j l s) (offInput i j s)
      offAdvance (offFinish i (if (offPieceOut i j l s).space then 0x14 else 0x00) c'.rin c'.rout c'.rcrc (offPieceDone e i j l s)) := by
  rw [compOffloadDone_of_fits h]
  extract_lets c'
  by_cases hsp : (offPieceOut i j l s).space = true
  · rw [if_pos hsp, if_pos hsp]
  · rw [if_neg hsp, if_neg hsp, if_pos (hdone.resolve_left hsp), stOk]

/-- A piece with room that is not the last leaves its entry open. -/
theorem compOffloadDone_of_more (h : codingFits (ctxOf s j.scid.toNat) false (engOf s e).reach (offPast i j s)
      ((offInput i j s).map (fun b => (b, false))) (l.headD ⟨[], [], [], [], []⟩) = true)
    (hsp : (offPieceOut i j l s).space = false) (hfin : j.fin = false) : compOffloadDone e i j l s = offPieceDone e i j l s := by
  rw [compOffloadDone_of_fits h]
  dsimp only
  rw [if_neg (by rw [hsp]; decide), if_neg (by rw [hfin]; decide)]

theorem offPieceDone_spec (e i : Nat) (j : Job) (l : List Coding) (s : State) :
    (engOf (offPieceDone e i j l s) e).job = none
      ∧ (offPieceDone e i j l s).hostMem = (hostWrite (offField s i 0x10 8 + (ctxOf s j.scid.toNat).rout)
          (packBits (wholeBytes (8 * j.limit) (offPieceOut i j l s)) (offPieceOut i j l s).bits) s).hostMem
      ∧ ctxOf (offPieceDone e i j l s) j.scid.toNat
        = offCtxAfter (ctxOf s j.scid.toNat) (8 * j.limit) (offPieceOut i j l s) (offInput i j s) := by
  unfold offPieceDone
  extract_lets c o n u
  have hu : u.hostMem = (hostWrite (offField s i 0x10 8 + c.rout) (packBits n o.bits) s).hostMem := (countBlocks_keeps _ _).2
  clear_value u
  refine ⟨freeEngine_job _ _ _ _, ?_, ?_⟩
  · rw [(freeEngine_keeps _ _ _ _).2.1]
    exact hu
  · rw [ctxOf, (freeEngine_keeps _ _ _ _).2.2, ← ctxOf, ctxOf_modCtx]

end Offload

/-! ### The coding of a block (R165) -/

theorem blockCoding_automatic (stored static dyn : Nat) :
    (blockCoding 0 false stored static dyn = 1 ↔ stored ≤ static ∧ stored ≤ dyn)
      ∧ (blockCoding 0 false stored static dyn = 2 ↔ ¬(stored ≤ static ∧ stored ≤ dyn) ∧ static ≤ dyn)
      ∧ (blockCoding 0 false stored static dyn = 3 ↔ dyn < stored ∧ dyn < static) := by
  unfold blockCoding
  rw [if_neg Bool.false_ne_true, if_neg (by decide)]
  by_cases h1 : stored ≤ static ∧ stored ≤ dyn
  · rw [if_pos h1]
    omega
  · rw [if_neg h1]
    by_cases h2 : static ≤ dyn
    · rw [if_pos h2]
      omega
    · rw [if_neg h2]
      omega

theorem blockCoding_empty (k stored static dyn : Nat) : blockCoding k true stored static dyn = 2 := rfl

theorem blockCoding_selected {k : Nat} (h : k ≠ 0) (stored static dyn : Nat) : blockCoding k false stored static dyn = k := if_pos h

end Sys2Proof.Machine
end

section
/-! How expansion jobs stop (R176-R179). -/
namespace Sys2Proof.Machine
open Sys2Proof.Safety

/-! ### What the pool's answers leave of the codec and its descriptors -/

/-- The codec, and the descriptors on the slices' COMP ports. -/
def coding (s : State) : Codec × (Tid → List Slot) := (s.codec, fun t => (tpOf s t).comp.slots)

theorem coding_of {s u : State} (hc : u.codec = s.codec) (ht : u.tp = s.tp) : coding u = coding s := by
  simp only [coding, tpOf, hc, ht]

theorem coding_setBuf (id r s) : coding (setBuf id r s) = coding s := (rfl)

theorem coding_tbx (s : State) (x : Tbx) : coding { s with tbx := x } = coding s := (rfl)

theorem coding_logFault (u k c w d s) : coding (logFault u k c w d s) = coding s := coding_of (logFault_codec u k c w d s) (logFault_tp u k c w d s)

theorem coding_tbxError (f agent tok s) : coding (tbxError f agent tok s) = coding s := by
  refine coding_of ?_ ?_
  · rw [tbxError, setReg_codec, setFld_codec, bumpFld_codec, raiseFld, setFld_codec]
  · rw [tbxError, setReg_tp, setFld_tp, bumpFld_tp, raiseFld_tp]

theorem compSlots_startWhenDone (x : Tp) : (startWhenDone x).comp = x.comp := by
  unfold startWhenDone
  split
  · rfl
  · split
    · rfl
    · split <;> rfl
    · rfl

theorem compSlots_reinstallWhenDone (x : Tp) : (reinstallWhenDone x).comp.slots = x.comp.slots := by
  unfold reinstallWhenDone
  split <;> rfl

theorem coding_finish_tbx (t k st v s) : coding (finish t 7 k st v s) = coding s := by
  refine Prod.ext rfl (funext fun u => ?_)
  show (tpOf (finish t 7 k st v s) u).comp.slots = (tpOf s u).comp.slots
  unfold finish
  by_cases hu : u = t
  · subst hu
    rw [tpOf_modTp, compSlots_startWhenDone, compSlots_reinstallWhenDone]
    rfl
  · rw [tpOf_modTp_ne _ _ _ _ hu]

theorem coding_tbxAnswer (w st v s) : coding (tbxAnswer w st v s) = coding s := by
  unfold tbxAnswer
  split
  · exact coding_finish_tbx _ _ _ _ _
  · dsimp only
    split
    · exact coding_tbx _ _
    · exact (coding_logFault _ _ _ _ _ _).trans (coding_tbx _ _)

theorem coding_giveBuffer (w id s) : coding (giveBuffer w id s) = coding s := by
  unfold giveBuffer
  dsimp only
  rw [coding_tbxAnswer, coding_setBuf]

theorem coding_takeBuffer (w c s) : coding (takeBuffer w c s) = coding s := by
  unfold takeBuffer
  dsimp only
  rw [coding_giveBuffer]
  rfl

theorem coding_serveList (c : Nat) (l kept : List Waiter) (s : State) : coding (serveList c l kept s) = coding s := by
  induction l generalizing kept s with
  | nil => exact coding_tbx _ _
  | cons w l ih =>
    unfold serveList
    split
    · rw [ih, coding_takeBuffer]
    · exact ih _ _

theorem coding_handOver (c id s) : coding (handOver c id s) = coding s := by
  unfold handOver
  split
  · split
    · rw [coding_giveBuffer, coding_tbx]
    · rfl
  · rfl

theorem coding_dropRef (agent id s) : coding (dropRef agent id s) = coding s := by
  unfold dropRef
  dsimp only
  split
  · split <;> exact coding_setBuf _ _ _
  · exact coding_setBuf _ _ _

theorem coding_takeAnswer (old s : State) : coding (takeAnswer old s) = coding s := coding_tbx _ _

theorem coding_releaseFor (port agent tok s) : coding (releaseFor port agent tok s) = coding s := by
  rw [releaseFor, coding_takeAnswer]
  unfold tbxReleaseOp
  split
  · rw [coding_tbxAnswer, coding_tbxError]
  · dsimp only
    split
    · rw [coding_tbxAnswer, coding_tbxError]
    · split
      · rw [coding_tbxAnswer, coding_tbxError]
      · rw [serveWaiters, coding_serveList, coding_handOver, coding_tbxAnswer, coding_dropRef]

theorem coding_addrefFor (port agent tok s) : coding (addrefFor port agent tok s) = coding s := by
  rw [addrefFor, coding_takeAnswer]
  unfold tbxAddrefOp
  split
  · rw [coding_tbxAnswer, coding_tbxError]
  · dsimp only
    split
    · rw [coding_tbxAnswer, coding_tbxError]
    · split
      · rw [coding_tbxAnswer, coding_tbxError]
      · rw [coding_tbxAnswer, coding_setBuf]

theorem coding_releases {α : Type} (l : List α) (port agent : Nat) (tok : α → W32) (s) :
    coding (forAll l (fun k => releaseFor port agent (tok k)) s) = coding s :=
  forAll_keeps (g := coding) (fun k s => coding_releaseFor port agent (tok k) s) l s

/-! ### The descriptors of EXPANDs behind a read of their input -/

theorem retireGroup_tp (g : Nat) (s : State) : (retireGroup g s).tp = s.tp := by
  unfold retireGroup
  split
  · rfl
  · extract_lets n a b c m d
    have hd : d.tp = c.tp := rfl
    have hc : c.tp = b.tp := setReg_tp _ _ b
    have hb : b.tp = a.tp := rfl
    have ha : a.tp = s.tp := setReg_tp _ _ s
    refine (forAll_keeps (g := State.tp) ?_ allT d).trans (hd.trans (hc.trans (hb.trans ha)))
    intro t s
    exact setFld_tp _ _ _ s

theorem unitClass_pseudo (n : Nat) : unitClass (unitId 4 n) = 4 := by
  simp only [unitClass, unitId, BitVec.toNat_ofNat]
  omega

/-- A fault event of a pseudo-channel concerns no slice. -/
theorem faultEvent_tp_of_pseudo {u : BitVec 16} (hu : unitClass u = 4) (code : Nat) (d : W64) (s : State) : (faultEvent u code d s).tp = s.tp := by
  have hretire (s : State) : (retireUnit u s).tp = s.tp := by
    rw [retireUnit, hu]
    exact (markRetired_tp _ _).trans (retireGroup_tp _ s)
  have hperm (code win : Nat) (d : W64) (s : State) : (permanent u code win d s).tp = s.tp := by
    rw [permanent, hretire, raiseFld_tp, logFault_tp, logFault_tp]
  have hesc (code : Nat) (d : W64) (s : State) : (escalate u code d s).tp = s.tp := by
    unfold escalate
    dsimp only
    split
    · rw [hperm, raiseFld_tp, logFault_tp]
    · rw [raiseFld_tp, logFault_tp]
  unfold faultEvent
  dsimp only
  split
  · rw [logFault_tp, countEvent_tp]
  · rw [hesc, countEvent_tp]

theorem memError_tp (f : Fld) (u : BitVec 16) (a : Nat) (s : State) : (memError f u a s).tp = s.tp := by
  rw [memError, setPair, setReg_tp, setReg_tp, setFld_tp, bumpFld_tp, raiseFld_tp]

theorem poisonLine_tp (n : Nat) (s : State) : (poisonLine n s).tp = s.tp := by
  unfold poisonLine
  dsimp only

theorem quarantineBuf_tp (n : Nat) (s : State) : (quarantineBuf n s).tp = s.tp := (rfl)

theorem uncorrectableBuf_tp (a : Nat) (f : Fld) (s : State) : (uncorrectableBuf a f s).tp = s.tp := by
  unfold uncorrectableBuf
  extract_lets u b c
  have hc : c.tp = b.tp := by
    unfold c
    split
    · exact quarantineBuf_tp _ b
    · rfl
  have hb : b.tp = s.tp := (memError_tp _ _ _ _).trans (poisonLine_tp _ s)
  clear_value c b
  rw [faultEvent_tp_of_pseudo (unitClass_pseudo _), hc, hb]

theorem demandRead_tp (a n : Nat) (s : State) : (demandRead a n s).2.tp = s.tp := by
  have hbeat (b : Nat × Nat) (s : State) : (meetBeat Fld.memErrHbmUe b s).tp = s.tp := by
    unfold meetBeat
    split
    · exact bumpFld_tp _ _ _
    · exact uncorrectableBuf_tp _ _ s
  unfold demandRead
  extract_lets u p
  have hu : u.tp = s.tp := forAll_keeps (g := State.tp) hbeat _ s
  clear_value u
  dsimp only
  split
  · rw [memError_tp, hu]
  · exact hu

/-- The descriptors on the slices' COMP ports. -/
def descs (s : State) : Tid → List Slot := (coding s).2

theorem descs_modCtx (k : Nat) (f : Ctx → Ctx) (s : State) : descs (modCtx k f s) = descs s := (rfl)

theorem descs_dropHistory (k s) : descs (dropHistory k s) = descs s := by
  unfold dropHistory
  dsimp only
  rw [descs_modCtx, descs, coding_releases, descs]

theorem descs_expandHeader (j : Job) (s : State) : descs (expandHeader j s).2 = descs s := by
  unfold expandHeader
  dsimp only
  split
  · rfl
  split
  · rfl
  split
  · rfl
  split
  · rfl
  rw [descs_modCtx]
  split
  · rfl
  · rw [descs_modCtx, descs_dropHistory]

theorem expandDesc_of_descs {s u : State} (h : descs u = descs s) (t : Nat) (k : BitVec 16) : expandDesc u t k = expandDesc s t k := by
  have ht : (tpOf u (tid t)).comp.slots = (tpOf s (tid t)).comp.slots := congrFun h (tid t)
  rw [expandDesc, ht, expandDesc]

/-! ### Whether a record is open, and its check -/

/-- Whether the record of a context is open, and the CRC of its bytes so far. -/
def openCrc (k : Nat) (s : State) : Bool × W32 := ((ctxOf s k).inrec, (ctxOf s k).rcrc)

theorem openCrc_of_coding {s u : State} (h : coding u = coding s) (k : Nat) : openCrc k u = openCrc k s := by
  have hc : u.codec = s.codec := congrArg Prod.fst h
  simp only [openCrc, ctxOf, hc]

theorem openCrc_of_codec {s u : State} (hc : u.codec = s.codec) (k : Nat) : openCrc k u = openCrc k s := by
  simp only [openCrc, ctxOf, hc]

theorem openCrc_modCtx {k : Nat} {f : Ctx → Ctx} (h : ∀ c, (f c).inrec = c.inrec ∧ (f c).rcrc = c.rcrc) (s : State) :
    openCrc k (modCtx k f s) = openCrc k s := by
  rw [openCrc, ctxOf_modCtx, (h _).1, (h _).2, openCrc]

theorem openCrc_toks (k : Nat) (f : Ctx → List (W32 × Nat)) (s) : openCrc k (modCtx k (fun c => { c with toks := f c }) s) = openCrc k s :=
  openCrc_modCtx (by intro c; exact ⟨rfl, rfl⟩) s

theorem openCrc_dropHistory (k s) : openCrc k (dropHistory k s) = openCrc k s := by
  unfold dropHistory
  dsimp only
  rw [openCrc_toks, openCrc_of_coding (coding_releases _ _ _ _ _)]

theorem openCrc_appendToken (k x s) : openCrc k (appendToken k x s) = openCrc k s := by
  unfold appendToken
  dsimp only
  rw [openCrc_toks]
  split
  · split
    · rfl
    · rw [openCrc_toks, openCrc_of_coding (coding_releaseFor _ _ _ _)]
  · rfl

theorem openCrc_dropThrough (k tok s) : openCrc k (dropThrough k tok s) = openCrc k s := by
  unfold dropThrough
  dsimp only
  rw [openCrc_toks, openCrc_of_coding (coding_releases _ _ _ _ _)]

theorem openCrc_listToken (k x s) : openCrc k (listToken k x s) = openCrc k s := by
  unfold listToken
  extract_lets c a u v
  split
  · exact openCrc_toks _ _ _
  · have hu : openCrc k u = openCrc k s := by
      unfold u
      split
      · exact openCrc_dropThrough _ _ _
      · rfl
    have hv : openCrc k v = openCrc k u := openCrc_of_coding (coding_addrefFor _ _ _ _) k
    split
    · rw [openCrc_appendToken, hv, hu]
    · rw [openCrc_dropHistory, hv, hu]

theorem openCrc_trimHistory (k rest s) : openCrc k (trimHistory k rest s) = openCrc k s := by
  unfold trimHistory
  dsimp only
  rw [openCrc_toks, openCrc_of_coding (coding_releases _ _ _ _ _)]

/-- A status is an event of CODEC_ERR, or none. -/
theorem statusError_cases (st : BitVec 8) (guard : Bool) (k : Nat) (s : State) :
    statusError st guard k s = s ∨ ∃ f, statusError st guard k s = codecError f k s := by
  unfold statusError
  split
  · exact .inr ⟨_, rfl⟩
  split
  · exact .inr ⟨_, rfl⟩
  split
  · exact .inr ⟨_, rfl⟩
  split
  · exact .inr ⟨_, rfl⟩
  split
  · exact .inr ⟨_, rfl⟩
  split
  · exact .inr ⟨_, rfl⟩
  · exact .inl rfl

theorem statusError_codec (st : BitVec 8) (guard : Bool) (k : Nat) (s : State) : (statusError st guard k s).codec = s.codec := by
  rcases statusError_cases st guard k s with h | ⟨f, h⟩ <;> rw [h]
  exact codecError_codec f k s

theorem bufPut_codec (tok : W32) (off : Nat) (l : List Byte) (s : State) : (bufPut tok off l s).codec = s.codec := by
  unfold bufPut hbmPut
  split
  · rfl
  · dsimp only
    unfold flipHbm
    split <;> rfl

/-! ### A record's header (R176) -/

theorem expandHeader_open {j : Job} {s : State} (h : (expandHeader j s).1 = none) : (ctxOf (expandHeader j s).2 j.scid.toNat).inrec = true := by
  unfold expandHeader at h ⊢
  dsimp only at h ⊢
  split at h
  · next hin =>
    rw [if_pos hin]
    exact hin
  · next hin =>
    rw [if_neg hin]
    split at h
    · exact nomatch h
    · next h1 =>
      rw [if_neg h1]
      split at h
      · exact nomatch h
      · next h2 =>
        rw [if_neg h2]
        split at h
        · exact nomatch h
        · next h3 =>
          rw [if_neg h3]
          rw [ctxOf_modCtx]

end Sys2Proof.Machine
end

section
/-! Expansion jobs on a COMP.EXPAND and on an offload entry, their status, and the statement about how jobs stop (R176-R179). -/
namespace Sys2Proof.Machine
open Sys2Proof.Safety

/-! ### Why a decoder stopped (R177, R178) -/

theorem expandStatus_ended_of_trailer (c : Ctx) (lim : Nat) {r : DecRun} (hb : r.bits = [])
    (ht : leAt r.d.trl 12 4 = (crc32c (r.d.trl.take 12)).toNat) : expandStatus c lim true r .ended =
      (if r.d.out ≠ c.dOlen.toNat ∨ ceilDiv r.d.bits 8 ≠ leAt r.d.trl 0 8 then 0x12
        else if (crcMore c.rcrc r.out.reverse).toNat ≠ leAt r.d.trl 8 4 then 0x11 else 0x00, false) := by
  have hleft : (!r.bits.isEmpty || !true) = false := by rw [hb]; rfl
  show (endStatus c r.d (crcMore c.rcrc r.out.reverse) (!r.bits.isEmpty || !true), false) = _
  rw [hleft, endStatus, if_neg]
  rintro (h | h)
  · exact nomatch h
  · exact h ht

theorem expandStatus_ended_of_bad (c : Ctx) (lim : Nat) {clean : Bool} {r : DecRun}
    (h : clean = false ∨ r.bits ≠ [] ∨ leAt r.d.trl 12 4 ≠ (crc32c (r.d.trl.take 12)).toNat) :
    expandStatus c lim clean r .ended = (0x10, false) := by
  show (endStatus c r.d (crcMore c.rcrc r.out.reverse) (!r.bits.isEmpty || !clean), false) = _
  rw [endStatus, if_pos]
  rcases h with h | h | h
  · left
    rw [h, Bool.not_false, Bool.or_true]
  · left
    rw [Bool.or_eq_true, Bool.not_eq_true', List.isEmpty_eq_false_iff]
    exact .inl h
  · exact .inr h

theorem putByte_of_room {e : DecEnv} {r : DecRun} {b : Byte} (h : r.n < e.room) (hg : r.d.out + 1 ≤ e.guard * ceilDiv r.d.bits 8) :
    putByte e r b = .inl { r with d := { r.d with out := r.d.out + 1 }, out := b :: r.out, n := r.n + 1 } := by
  rw [putByte, if_neg (by omega), if_neg (by omega)]

theorem putByte_of_guard {e : DecEnv} {r : DecRun} {b : Byte} (h : r.n < e.room) (hg : e.guard * ceilDiv r.d.bits 8 < r.d.out + 1) :
    putByte e r b = .inr .guard := by
  rw [putByte, if_neg (by omega), if_pos hg]

/-! ### A job on a COMP.EXPAND (R176, R178) -/

section Expand
variable {t : Tid} {k : BitVec 16} {j : Job} {s : State}

/-- The status of a job that is decoding. -/
def jobStatus (j : Job) (lim : Nat) (s : State) : BitVec 8 × Bool :=
  let r := expandRun s j
  expandStatus (ctxOf s j.scid.toNat) lim (cleanBytes s (tokAddr s j.inTok) j.inLen == j.inLen) r.1 r.2

/-- A job has stopped with a status: what it leaves of its context. -/
structure Stood (j : Job) (st : BitVec 8) (s u : State) : Prop where
  ended : st = 0x00 → (ctxOf u j.scid.toNat).inrec = false ∧ (ctxOf u j.scid.toNat).hvalid = true
  goes : st = 0x14 ∨ st = 0x15 → (ctxOf u j.scid.toNat).inrec = (ctxOf s j.scid.toNat).inrec
    ∧ (ctxOf u j.scid.toNat).rcrc = crcMore (ctxOf s j.scid.toNat).rcrc (expandRun s j).1.out.reverse
  gone : discardsRecord st = true → (ctxOf u j.scid.toNat).inrec = false ∧ (ctxOf u j.scid.toNat).hvalid = false
    ∧ (ctxOf u j.scid.toNat).toks = []

theorem expandDone_spec (t : Tid) (k : BitVec 16) (j : Job) (lim : Nat) (s : State) :
    ∃ u, expandDone t k j lim s = finish t 0 k (jobStatus j lim s).1 (BitVec.ofNat 32 (expandRun s j).1.out.length) u
      ∧ Stood j (jobStatus j lim s).1 s u := by
  unfold expandDone
  extract_lets scid c q bytes d
  have hst : expandStatus c lim (cleanBytes s (tokAddr s j.inTok) j.inLen == j.inLen) q.1 q.2 = jobStatus j lim s := rfl
  rw [hst]
  obtain ⟨st, guard⟩ := jobStatus j lim s
  dsimp -zeta only
  extract_lets a b c' e f g h
  have hlen : bytes.length = (expandRun s j).1.out.length := List.length_reverse
  have ha : a.codec = s.codec := (statusError_codec _ _ _ _).trans (bufPut_codec _ _ _ _)
  have hb : openCrc scid b = (c.inrec, crcMore c.rcrc bytes) := by
    have hca : ctxOf a scid = c := congrArg (fun x : Codec => x.ctx.get Ctx.reset scid) ha
    unfold b
    rw [openCrc, ctxOf_modCtx, hca]
  have hc' : openCrc scid c' = openCrc scid b := by
    unfold c'
    split
    · rfl
    · rw [openCrc_trimHistory, openCrc_listToken]
  have he : openCrc scid e = openCrc scid c' := openCrc_of_codec rfl scid
  have hf : openCrc scid f = openCrc scid e := openCrc_of_codec rfl scid
  rw [hlen]
  refine ⟨h, rfl, ⟨fun h0 => ?_, fun hgo => ?_, fun hgone => ?_⟩⟩
  · unfold h
    rw [if_pos h0, ctxOf_modCtx]
    exact ⟨rfl, rfl⟩
  · have hn : st ≠ stOk ∧ discardsRecord st = false := by
      rcases hgo with h | h <;> rw [h] <;> decide
    have hg : g = f := if_neg (by rintro (h | h); exacts [hn.1 h, by rw [hn.2] at h; exact nomatch h])
    have hh : h = g := (if_neg hn.1).trans (if_neg (by rw [hn.2]; decide))
    have hcrc : openCrc scid h = (c.inrec, crcMore c.rcrc bytes) := by rw [hh, hg, hf, he, hc', hb]
    exact ⟨congrArg Prod.fst hcrc, congrArg Prod.snd hcrc⟩
  · have hn : st ≠ stOk := by
      rintro rfl
      exact nomatch hgone
    obtain ⟨hv, ht⟩ := endHistory_spec scid g
    unfold h
    rw [if_neg hn, if_pos hgone, ctxOf_modCtx]
    exact ⟨rfl, hv, ht⟩

end Expand

/-! ### The job with its header, and the engine behind it -/

section ExpandJob
variable {t : Tid} {k : BitVec 16} {j : Job} {s : State}

/-- The record's header, read where a record begins. -/
def headRead (j : Job) (s : State) : Option (BitVec 8) × State := expandHeader j (demandRead (tokAddr s j.inTok) j.inLen s).2

/-- The descriptor's limit of a job, 0 = none. -/
def jobLimit (t : Tid) (k : BitVec 16) (s : State) : Nat := ((expandDesc s t.val k).map (fun d => fieldB d 160 32)).getD 0

theorem jobLimit_headRead (t : Tid) (k : BitVec 16) (j : Job) (s : State) : jobLimit t k (headRead j s).2 = jobLimit t k s := by
  have hread : descs (demandRead (tokAddr s j.inTok) j.inLen s).2 = descs s := by
    funext u
    show (tpOf (demandRead (tokAddr s j.inTok) j.inLen s).2 u).comp.slots = (tpOf s u).comp.slots
    rw [tpOf, demandRead_tp, ← tpOf]
  have hhead : descs (headRead j s).2 = descs s := (descs_expandHeader j _).trans hread
  rw [jobLimit, expandDesc_of_descs hhead, jobLimit]

theorem expandJobDone_of_open (h : (headRead j s).1 = none) :
    expandJobDone t k j s = expandDone t k j (jobLimit t k s) (headRead j s).2 := by
  unfold expandJobDone
  extract_lets lim r q
  have hq : q.1 = none := h
  rw [hq]
  rfl

theorem expandJobDone_of_head {y : BitVec 8} (h : (headRead j s).1 = some y) : ∃ u, expandJobDone t k j s = finish t 0 k y 0 u
    ∧ (y ≠ 0x13 → (ctxOf u j.scid.toNat).hvalid = false ∧ (ctxOf u j.scid.toNat).toks = []) := by
  unfold expandJobDone
  extract_lets lim r q
  have hq : q.1 = some y := h
  rw [hq]
  dsimp -zeta only
  extract_lets a m b
  refine ⟨_, rfl, fun hy => ?_⟩
  unfold b
  rw [if_neg hy]
  exact endHistory_spec _ _

/-- A decompression engine with its job taken off. -/
def jobOff (e : Nat) (s : State) : State := modEng (32 + e) (fun x => { x with job := none }) s

theorem expStopOp_of_none {e : Nat} (h : (engOf s (32 + e)).job = none) : expStopOp e s = s := by
  unfold expStopOp
  rw [h]

theorem expStopOp_of_expand {e t : Nat} (h : (engOf s (32 + e)).job = some j) (hentry : j.entry = none) (ht : j.t = some t)
    (hk : j.expand = some k) : expStopOp e s = freeEngine (32 + e) j 0 (expandJobDone (tid t) k j (jobOff e s)) := by
  unfold expStopOp
  rw [h]
  dsimp only
  rw [hentry, ht, hk]
  rfl

theorem expStopOp_of_entry {e i : Nat} (h : (engOf s (32 + e)).job = some j) (hentry : j.entry = some i) :
    expStopOp e s = freeEngine (32 + e) j 0 (expandOffloadDone i j (jobOff e s)) := by
  unfold expStopOp
  rw [h]
  dsimp only
  rw [hentry]
  rfl

end ExpandJob

/-! ### An offload entry (R179, R180) -/

section Entry
variable {i : Nat} {j : Job} {s : State}

theorem offField_of {s u : State} (hm : u.hostMem = s.hostMem)
    (hr : ∀ off, off ≠ Reg.codecErr → off ≠ Reg.codecErrcnt → reg u off = reg s off)
    (i o n : Nat) : offField u i o n = offField s i o n := by
  have h0 : reg u (Reg.codecOqbase 0) = reg s (Reg.codecOqbase 0) := hr _ (by decide) (by decide)
  have h1 : reg u (Reg.codecOqbase 1) = reg s (Reg.codecOqbase 1) := hr _ (by decide) (by decide)
  have hc : reg u Reg.codecOqcfg = reg s Reg.codecOqcfg := hr _ (by decide) (by decide)
  simp only [offField, offAddr, offSize, pair, fld, hm, h0, h1, hc]

/-- An event of CODEC_ERR reaches neither the host's memory nor the ring's registers. -/
theorem statusError_keeps (st : BitVec 8) (guard : Bool) (k : Nat) (s : State) : (statusError st guard k s).hostMem = s.hostMem
    ∧ ∀ off, off ≠ Reg.codecErr → off ≠ Reg.codecErrcnt → reg (statusError st guard k s) off = reg s off := by
  rcases statusError_cases st guard k s with h | ⟨f, h⟩ <;> rw [h]
  · exact ⟨rfl, fun _ _ _ => rfl⟩
  · exact ⟨rfl, fun off he hc => (reg_setFld_ne hc _ _ _).trans ((reg_setFld_ne hc _ _ _).trans (reg_setFld_ne he _ _ _))⟩

/-- The bytes of a job in the host's memory, and the entry's context behind them. -/
def offExpanded (i : Nat) (j : Job) (s : State) : State :=
  let c := ctxOf s j.scid.toNat
  let r := (offloadRun s i j).1
  modCtx j.scid.toNat (fun _ => { c with
    dec := r.d, rcrc := crcMore c.rcrc r.out.reverse, rin := ceilDiv r.d.bits 8, inrec := true, dBytes := c.dBytes ++ r.out.reverse })
    (hostWrite (offField s i 0x10 8 + c.dec.out) r.out.reverse s)

theorem offExpanded_hostMem (i : Nat) (j : Job) (s : State) : (offExpanded i j s).hostMem
    = (hostWrite (offField s i 0x10 8 + (ctxOf s j.scid.toNat).dec.out) (offloadRun s i j).1.out.reverse s).hostMem := rfl

/-- The status of an entry by why its decoder stopped; u holds the entry's input length. -/
def entryStatus (i : Nat) (r : DecRun × DecEnd) (u : State) : BitVec 8 :=
  match r.2 with
  | .guard => 0x07
  | .ended => if ceilDiv r.1.d.bits 8 = offField u i 0x18 4 then 0x00 else 0x10
  | .bad => 0x10
  | .input => 0x15
  | .output => 0x14

/-- An entry that is done completes with its status; one whose output has room goes on. -/
def entryEnd (i : Nat) (j : Job) (s u : State) : State :=
  let r := offloadRun s i j
  if r.2 = .output ∧ r.1.d.out < offField u i 0x1C 4 then u
  else offAdvance (offFinish i (entryStatus i r u) (ceilDiv r.1.d.bits 8) r.1.d.out
    (crcMore (ctxOf s j.scid.toNat).rcrc r.1.out.reverse) u)

theorem entryEnd_of_done {u : State} {st : BitVec 8} (h : ¬((offloadRun s i j).2 = .output ∧ (offloadRun s i j).1.d.out < offField u i 0x1C 4))
    (hst : entryStatus i (offloadRun s i j) u = st) : entryEnd i j s u = offAdvance (offFinish i st
      (ceilDiv (offloadRun s i j).1.d.bits 8) (offloadRun s i j).1.d.out
      (crcMore (ctxOf s j.scid.toNat).rcrc (offloadRun s i j).1.out.reverse) u) := by
  unfold entryEnd
  dsimp only
  rw [if_neg h, hst]

theorem expandOffloadDone_spec (i : Nat) (j : Job) (s : State) : ∃ u,
    u.hostMem = (hostWrite (offField s i 0x10 8 + (ctxOf s j.scid.toNat).dec.out) (offloadRun s i j).1.out.reverse s).hostMem
      ∧ expandOffloadDone i j s = entryEnd i j s u := by
  have hmem := offExpanded_hostMem i j s
  have hkeep (st : BitVec 8) (guard : Bool) : (statusError st guard j.scid.toNat (offExpanded i j s)).hostMem
      = (hostWrite (offField s i 0x10 8 + (ctxOf s j.scid.toNat).dec.out) (offloadRun s i j).1.out.reverse s).hostMem :=
    (statusError_keeps st guard _ _).1.trans hmem
  have hfield (st : BitVec 8) (o n : Nat) : offField (statusError st false j.scid.toNat (offExpanded i j s)) i o n
      = offField (offExpanded i j s) i o n := offField_of (statusError_keeps st false _ _).1 (statusError_keeps st false _ _).2 i o n
  unfold expandOffloadDone
  extract_lets c q bytes a c' b done
  have hq : q.2 = (offloadRun s i j).2 := rfl
  rw [hq]
  cases hend : (offloadRun s i j).2 with
  | guard =>
    refine ⟨_, hkeep stLimit true, (entryEnd_of_done (by rw [hend]; exact fun h => nomatch h.1) ?_).symm⟩
    rw [entryStatus, hend]
  | ended =>
    have hst (u : State) (hu : offField u i 0x18 4 = offField (offExpanded i j s) i 0x18 4) : entryStatus i (offloadRun s i j) u
        = if c'.rin = offField b i 0x18 4 then stOk else stBadcode := by
      rw [entryStatus, hend]
      dsimp only
      rw [hu]
      rfl
    refine ⟨_, hkeep (if c'.rin = offField b i 0x18 4 then stOk else stBadcode) false,
      (entryEnd_of_done (by rw [hend]; exact fun h => nomatch h.1) ?_).symm⟩
    exact hst _ (hfield _ _ _)
  | bad =>
    refine ⟨_, hkeep stBadcode false, (entryEnd_of_done (by rw [hend]; exact fun h => nomatch h.1) ?_).symm⟩
    rw [entryStatus, hend]
  | input =>
    refine ⟨_, hkeep stNeedInput false, (entryEnd_of_done (by rw [hend]; exact fun h => nomatch h.1) ?_).symm⟩
    rw [entryStatus, hend]
  | output =>
    refine ⟨offExpanded i j s, hmem, ?_⟩
    dsimp only
    split
    · next h =>
      refine (entryEnd_of_done (fun hr => absurd hr.2 (Nat.not_lt.mpr h)) ?_).symm
      rw [entryStatus, hend]
    · next h => exact (if_pos ⟨hend, Nat.lt_of_not_le h⟩).symm

end Entry

/-- Settles O37: compression and expansion jobs through what each leaves behind, the statuses and bytes by their equations. -/
theorem codecStops : Obligations.CodecStops := by
  refine ⟨⟨fun e l j s => ⟨fun h => ?_, fun t x hj hentry ht hx => ⟨fun hv => ?_, fun a v hv hp => ?_⟩, fun i hj hentry hfits =>
      ⟨fun hdone => ?_, fun hspace hfin => ?_⟩⟩, fun stored static dyn => ?_⟩,
    fun e j s => ⟨fun h => ?_, fun t k hj hentry ht hk => ⟨fun y hy => ?_, fun hopen => ?_⟩, fun i hj hentry => ?_⟩,
    fun c lim clean r => ⟨rfl, rfl, rfl, rfl,
      fun hclean hbits htrl => ⟨fun hlen => ?_, fun hout hcoded => ⟨fun hcrc => ?_, fun hcrc => ?_⟩⟩,
      fun h => ?_⟩, fun e r b => ⟨fun h => ?_, fun h hg => ?_, fun h hg => ?_⟩⟩
  · exact next_congr (congrArg settleHost (compStopOp_of_none h))
  · have hrow := (compStopOp_of_write (l := l) hj hentry ht).trans (compWriteDone_of_invalid hx hv)
    have hfree : (engOf (modEng e.val (fun x => { x with job := none }) s) e.val).job = none := by rw [engOf_modEng]
    exact ⟨_, next_congr (congrArg settleHost hrow), (congrArg Engine.job (engOf_of_codec rfl e.val)).trans hfree, rfl, rfl, rfl⟩
  · have hrow := (compStopOp_of_write (l := l) hj hentry ht).trans (compWriteDone_of_pieces hx hv hp)
    refine ⟨_, next_congr (congrArg settleHost hrow), freeEngine_job _ _ _ _, ?_⟩
    rw [tpOf, (freeEngine_keeps _ _ _ _).1]
    exact writeJobDone_hostBytes a v
  · obtain ⟨hfree, hmem, -⟩ := offPieceDone_spec e.val i j l s
    have hrow := (compStopOp_of_entry (l := l) hj hentry).trans (compOffloadDone_of_done hfits hdone)
    exact ⟨offPieceDone e.val i j l s, next_congr (congrArg settleHost hrow), hfree, hmem⟩
  · obtain ⟨hfree, hmem, hctx⟩ := offPieceDone_spec e.val i j l s
    have hrow := (compStopOp_of_entry (l := l) hj hentry).trans (compOffloadDone_of_more hfits hspace hfin)
    refine ⟨offPieceDone e.val i j l s, next_congr (congrArg settleHost hrow), hfree, hmem, ?_, ?_, ?_⟩
    all_goals
      rw [hctx]
      rfl
  · obtain ⟨h1, h2, h3⟩ := blockCoding_automatic stored static dyn
    exact ⟨h1, h2, h3, fun k => ⟨blockCoding_empty k stored static dyn, fun hk => blockCoding_selected hk stored static dyn⟩⟩
  · exact next_congr (congrArg settleHost (expStopOp_of_none h))
  · obtain ⟨u, hrun, hgone⟩ := expandJobDone_of_head (t := tid t) (k := k) (j := j) (s := jobOff e.val s) hy
    exact ⟨u, next_congr (congrArg settleHost ((expStopOp_of_expand hj hentry ht hk).trans (congrArg _ hrun))), hgone⟩
  · obtain ⟨u, hrun, hended, hgoes, hgone⟩ := expandDone_spec (tid t) k j (jobLimit (tid t) k (jobOff e.val s)) (headRead j (jobOff e.val s)).2
    have hrow := (expStopOp_of_expand hj hentry ht hk).trans (congrArg _ ((expandJobDone_of_open hopen).trans hrun))
    rw [← jobLimit_headRead] at hrow hended hgoes hgone
    exact ⟨u, next_congr (congrArg settleHost hrow), hended,
      fun h => ⟨(hgoes h).1.trans (expandHeader_open hopen), (hgoes h).2⟩, hgone⟩
  · obtain ⟨u, hmem, hrun⟩ := expandOffloadDone_spec i j (jobOff e.val s)
    have hrow := (expStopOp_of_entry hj hentry).trans (congrArg (freeEngine (32 + e.val) j 0) hrun)
    refine ⟨u, hmem, (next_congr (congrArg settleHost hrow)).trans ?_⟩
    rfl
  · subst hclean
    rw [expandStatus_ended_of_trailer c lim hbits htrl, if_pos hlen]
  · subst hclean
    rw [expandStatus_ended_of_trailer c lim hbits htrl, if_neg (by rintro (h | h); exacts [h hout, h hcoded]), if_neg (not_not.mpr hcrc)]
  · subst hclean
    rw [expandStatus_ended_of_trailer c lim hbits htrl, if_neg (by rintro (h | h); exacts [h hout, h hcoded]), if_pos hcrc]
  · exact expandStatus_ended_of_bad c lim h
  · exact if_pos h
  · exact putByte_of_guard h hg
  · exact ⟨_, putByte_of_room h hg, rfl, rfl, rfl, rfl⟩

end Sys2Proof.Machine
end
